-- ==== Sys2Proof/Word.lean ====
section
/-! DEFINITION. The word types of the Damzal and the plainest arithmetic over them: 64-bit registers, bytes, and the
bit fields that the spec's register tables name as [high:low]. -/
namespace Sys2Proof

/-- A 64-bit register value (every BAR0 register is 64 bits wide). -/
abbrev Word := BitVec 64

/-- One byte of device memory. -/
abbrev Byte := BitVec 8

/-- A register field, written [hi:lo] in the spec's tables. -/
structure Fld where
  hi : Nat
  lo : Nat
  deriving DecidableEq, Repr

/-- The width of a field in bits. -/
def Fld.width (f : Fld) : Nat := f.hi + 1 - f.lo

/-- The value that a register word holds in field `f`. -/
def Word.get (w : Word) (f : Fld) : Nat := (w.toNat >>> f.lo) % 2 ^ f.width

/-- The register word with field `f` set to `v` (taken modulo the field's width) and every other bit kept. -/
def Word.put (w : Word) (f : Fld) (v : Nat) : Word :=
  BitVec.ofNat 64 (w.toNat - (Word.get w f) <<< f.lo + (v % 2 ^ f.width) <<< f.lo)

end Sys2Proof
end

