-- ==== Sys2Proof/Types.lean ====
section
/-! DEFINITION. The operand types of the commands: slot instructions of a Vardo bundle as decoded fields (chapter 03), and
what the environment brings (packets of chapter 08, comets of chapter 15, host commands of chapter 17, readings). -/
namespace Sys2Proof

/-- The predicate guard of a slot (R101): PN and PRED. -/
structure Guard where
  pn : Bool
  pred : Fin 8
  deriving DecidableEq, Repr

/-- A control-slot instruction with its fields (control slot and synchronisation tables of chapter 03). A field that the
spec limits to some codes (FUNC, MODE, CSR, OFF) is kept as its bits: the sequencer checks it (R103). -/
inductive Ctl where
  | nop
  | li (d : Fin 32) (imm : BitVec 32)
  | lui (d a : Fin 32) (imm : BitVec 32)
  | addi (d a : Fin 32) (imm : BitVec 32)
  | alu (d a b : Fin 32) (func : BitVec 8)
  | cmp (d : Fin 8) (a b : Fin 32) (func : BitVec 8)
  | cmpi (d : Fin 8) (a : Fin 32) (func : BitVec 3) (imm : BitVec 32)
  | plog (d a b : Fin 8) (func : BitVec 8)
  | movsa (d : Fin 16) (a : Fin 32)
  | movas (d : Fin 32) (a : Fin 16)
  | adda (d a : Fin 16) (imm : BitVec 32)
  | lia (d : Fin 16) (imm : BitVec 32)
  | br (off : BitVec 32)
  | jmp (a : Fin 32)
  | call (off : BitVec 32)
  | ret
  | loop (a : Fin 32) (off : BitVec 32)
  | twait (pdst : Fin 8) (mode : BitVec 2) (a t : Fin 32)
  | cwait (pdst : Fin 8) (a b t : Fin 32)
  | cpost (a b : Fin 32) (ar : Fin 16)
  | cpostw (d a b : Fin 32) (ar : Fin 16)
  | crecv (d a t : Fin 32) (ar : Fin 16) (pdst : Fin 8)
  | cfree (a : Fin 32)
  | ldone (a : Fin 32) (w : Bool)
  | yield (live : BitVec 16)
  | halt
  | mfence
  | csrr (d : Fin 32) (csr : BitVec 12)
  | rngset (a : Fin 32) (func : BitVec 8)
  deriving DecidableEq, Repr

/-- A matrix-slot instruction (matrix slot tables of chapter 03). -/
inductive Mat where
  | nop
  | mma (bank : Fin 4) (fmta fmtb : BitVec 4) (aa ab : Fin 16) (sd : Fin 32) (clr : Bool)
  | mout (bank : Fin 4) (fmta : BitVec 4) (aa : Fin 16) (sd : Fin 32) (rnd : BitVec 2)
  | mclr (bank : Fin 4)
  | mlda (bank : Fin 4) (aa : Fin 16)
  | msta (bank : Fin 4) (aa : Fin 16)
  deriving DecidableEq, Repr

/-- The vector opcodes (vector slot table of chapter 03). -/
inductive VOp where
  | vadd | vsub | vmul | vfma | vmin | vmax | vcvt | vsfu | vsmx | vrope | vmask | vred | vsel | vbcast | vcmp
  | vlog | viadd | vrng
  deriving DecidableEq, Repr

/-- A vector-slot instruction: an opcode and every field of format V. -/
inductive Vec where
  | nop
  | op (o : VOp) (d a b c : Fin 32) (fmt : BitVec 4) (rnd : BitVec 2) (func : BitVec 8)
  deriving DecidableEq, Repr

/-- A move-slot instruction (move slot table of chapter 03). -/
inductive Mov where
  | nop
  | vld (d : Fin 32) (ar : Fin 16) (am : BitVec 2) (x : Fin 32) (imm : BitVec 32)
  | vst (d : Fin 32) (ar : Fin 16) (am : BitVec 2) (x : Fin 32) (imm : BitVec 32)
  | sld (d : Fin 32) (ar : Fin 16) (am : BitVec 2) (x : Fin 32) (imm : BitVec 32)
  | sst (d : Fin 32) (ar : Fin 16) (am : BitVec 2) (x : Fin 32) (imm : BitVec 32)
  | accrd (d : Fin 32) (bank : Fin 4) (i : Fin 64)
  | accwr (d : Fin 32) (bank : Fin 4) (i : Fin 64)
  | sqpost (d x : Fin 32)
  | sqtest (d x : Fin 32)
  | sget (d x : Fin 32)
  | sput (d : Fin 32) (ar : Fin 16) (x : Fin 32)
  deriving DecidableEq, Repr

/-- A watermark register (R14, R259): of a stream queue, of a ring, or of an inbound stage port. -/
inductive WmSel where
  | queue (q : Fin 1024)
  | ring (l : Fin 144) (r : Fin 32)
  | port (p : Fin 256)
  deriving DecidableEq, Repr

/-- One signal of a die link or of the bridge (chapter 01): link, direction, bundle, signal number. -/
structure Signal where
  link : Fin 5
  dir : Fin 2
  bundle : Fin 256
  sig : Fin 133
  deriving DecidableEq, Repr

/-- What a tracking interval of R43 does to a fine trim. -/
inductive TrimMove where
  | up | down | stay
  deriving DecidableEq, Repr

/-- A fabric packet (R265): the header fields, its reserved bits in the order of the header, its CRC, and the payload. -/
structure Packet where
  dest : BitVec 13
  src : BitVec 13
  ctx : BitVec 12
  epoch : BitVec 8
  cls : BitVec 2
  hops : BitVec 4
  poison : Bool
  seq : BitVec 16
  tag : BitVec 16
  op : BitVec 4
  hint : BitVec 2
  len : BitVec 8
  group : BitVec 12
  addr : BitVec 48
  code : BitVec 8
  nack : BitVec 4
  rsv : BitVec 53
  crc : BitVec 32
  payload : List Byte
  deriving DecidableEq, Repr

/-- The arrival of a short frame on a port's control wavelength (R273): its link sequence number, and whether its CRC holds. -/
structure Hop where
  port : Fin 32
  seq : BitVec 16
  ok : Bool
  deriving DecidableEq, Repr

/-- A channel message as it reaches the receiving tile (R126, R252, R267), read from its packet. `stale` says that it left a device
stale in the context's domain (R254 check 5). -/
structure Msg where
  srcDev : BitVec 13
  srcTile : BitVec 8
  epoch : BitVec 8
  ctx : BitVec 12
  remote : Bool
  tile : Fin 144
  ring : Fin 32
  tag : BitVec 16
  reqTag : BitVec 16
  stale : Bool
  payload : List Byte
  deriving DecidableEq, Repr

/-- A comet (R459): its header, its payload and the CRC field it carries. -/
structure Comet where
  job : Word
  outerJ : BitVec 32
  kind : BitVec 8
  srcSite : BitVec 6
  dstSite : BitVec 6
  rank : BitVec 13
  seq : BitVec 32
  group : BitVec 32
  index : BitVec 8
  k : BitVec 8
  m : BitVec 8
  total : BitVec 32
  bytes : BitVec 32
  crc : BitVec 32
  payload : List Byte
  deriving DecidableEq, Repr

/-- A host command of 64 bytes (R504), by fields; `rsv` says that a reserved or unused field is not zero. -/
structure HostCmd where
  fence : Bool
  irq : Bool
  cid : BitVec 16
  host : Word
  dev : Word
  len : Word
  qp : BitVec 10
  nlb : BitVec 16
  nsid : BitVec 32
  slba : Word
  rsv : Bool
  deriving DecidableEq, Repr

/-- How a host-memory access or an NVMe read ended (R499, R505). -/
inductive HostStatus where
  | ok | unsupported | aborted | poisoned | nvmeError
  deriving DecidableEq, Repr

/-- The kinds of frame that an outer port receives (R529). -/
inductive EthKind where
  | arp | nd | lldp | cmMad | other
  deriving DecidableEq, Repr

/-- The requests of the SPDM responder (R514), as far as the options distinguish them. -/
inductive SpdmReq where
  | getVersion | getCapabilities | negotiateAlgorithms | getDigests | getCertificate (slot : Fin 8)
  | challenge | getMeasurements (index : BitVec 8) | keyExchange | finish | heartbeat | endSession (n : Fin 4)
  | chunkGet | setCertificate | unknown
  deriving DecidableEq, Repr

/-- What a rail loss shows (R542). -/
inductive RailLoss where
  | pwrGood | vrFault
  deriving DecidableEq, Repr

/-- Where a current-clamp condition comes from (R538). -/
inductive ClampSrc where
  | icrit
  | die (d : Fin 4)
  deriving DecidableEq, Repr

/-- The symbol errors of one read of a stored line (R209 to R211): codeword positions 0 to 63 data, 64 to 71 check, 72 to 76
address, with what each symbol differs by. -/
abbrev SymbolErrors := List (Fin 77 × Byte)

/-- One thermal reading (R539): its sensor number, whether it is a stack's, and its value in degrees. -/
structure Reading where
  sensor : BitVec 8
  hbm : Bool
  c : Nat
  deriving DecidableEq, Repr

end Sys2Proof
end

