-- ==== Sys2Proof/Syntax.lean ====
section
/-! DEFINITION. The commands of the Damzal: one constructor per row of spec/opcode_table.json. -/
namespace Sys2Proof

/-- A command. The operands name the unit acted on (a domain, a physical tile, a port, a queue, a context, a slot) and
carry what the environment brings (a written value, a packet, a reading, an outcome). -/
inductive Instr where
  /-- REGISTER_WRITE (R21): A write to any register that has no row of its own takes effect field by field, keeping a field's old value and setting BAD_WRITE for a reserved encoding. -/
  | registerWrite (off : BitVec 27) (width : Nat) (v : Word)
  /-- COUNTER_WRITE (R11): A write to a statistics counter loads bits [47:0] and clears SAT when bit 63 is written as one; the write is applied before an increment in the same cycle. -/
  | counterWrite (off : BitVec 26) (v : Word)
  /-- WM_WRITE (R260): A watermark write sets the marks, clears NOTICE or COUNT, rejects a low mark above the high mark, and may re-arm the mark. -/
  | wmWrite (w : WmSel) (v : Word)
  /-- FLIT_RETRY (R41): A received flit that fails its CRC is discarded and resent from the replay buffer, and the link's retry counter is incremented. -/
  | flitRetry (link : Fin 5)
  /-- TRIM_TRACK (R43): Every 1,024 transfers the tracking loop moves a signal's fine trim by at most one step, carrying into the coarse trim. -/
  | trimTrack (sg : Signal) (mv : TrimMove) (margin : BitVec 8)
  /-- SIGNAL_FAILED (R44): A signal whose eye margin stays low for 1 ms, or whose coarse trim would leave its range, is declared failed. -/
  | signalFailed (sg : Signal)
  /-- FLR_PIN_WRITE (R50): A pin-code write changes the pin codes of pairs and starts the zero clear of every changed pair. -/
  | flrPinWrite (i : Fin 8) (v : Word)
  /-- PAIR_CLEAR_DONE (R50): One pair's clear completes, its waiting accesses proceed, and PIN_BUSY clears after the last pair. -/
  | pairClearDone
  /-- TRIM_SEL_WRITE (R56): A trim-select write checks each field against the other written fields and keeps the fields it accepts. -/
  | trimSelWrite (v : Word)
  /-- NEXT_TICK (R65): The root advances TICK by one. -/
  | nextTick (d : Fin 16)
  /-- NEXT_PHASE (R68): The root requests the phase successor of the tide, which is gated or applied at once. -/
  | nextPhase (d : Fin 16)
  /-- SET (R66): The root sets the tide to TIDE_Dn_TARGET, subject to the excursion rules. -/
  | set (d : Fin 16)
  /-- TIDE_IN_EDGE (R70): An active edge on TIDE_IN requests NEXT_PHASE for the assigned domain, or is dropped and counted. -/
  | tideInEdge (level : Bool)
  /-- TIDE_CTRL_WRITE (R73): A write to TIDE_Dn_CTRL updates ROLE only in IDLE or PAUSE, and updates the other fields at any time. -/
  | tideCtrlWrite (d : Fin 16) (v : Word)
  /-- ROLE_OFF (R554): Setting ROLE to OFF resets the domain's tide, readiness, pending advances and mode state, and ends its work in progress. -/
  | roleOff (d : Fin 16) (v : Word)
  /-- TIDE_NEIGHBOUR_WRITE (R73): A write to PARENT or CHILDc takes effect only in IDLE or PAUSE, and only if the tree entries stay consistent. -/
  | tideNeighbourWrite (d : Fin 16) (child : Option (Fin 7)) (v : Word)
  /-- TIDE_READY_WRITE (R79): Software raises TIDE_Dn_READY for the SW readiness source; a lower value is refused. -/
  | tideReadyWrite (d : Fin 16) (v : Word)
  /-- TIDE_VALUE (R63): A member receives a tide value from its parent, adopts it, and forwards it to its children. -/
  | tideValue (d : Fin 16) (h : Hop) (v : Word) (acts arg : BitVec 16)
  /-- SLOT_CTRL_WRITE (R86): A write to a slot's control register arms it, and a slot enabled on a value already reached fires at once. -/
  | slotCtrlWrite (d : Fin 16) (k : Fin 256) (v : Word)
  /-- HEARTBEAT_SEND (R74): Every 8 µs each port with its control wavelength up sends a heartbeat carrying the low 8 bits of each mode generation. -/
  | heartbeatSend (p : Fin 32)
  /-- HEARTBEAT (R96): A received heartbeat refreshes the neighbour's liveness and is compared for mode generation. -/
  | heartbeat (p : Fin 32) (ok : Bool) (dev : BitVec 13) (gens : List (Fin 16 × BitVec 8))
  /-- NEIGHBOUR_LOST (R75): After 48 µs without a heartbeat, a tree neighbour is declared lost: a lost child is reported, and a lost parent makes this device enter PAUSE. -/
  | neighbourLost (d : Fin 16) (child : Option (Fin 7))
  /-- LOST (R76): A LOST notice is forwarded toward the root, which records it. -/
  | lost (d : Fin 16) (h : Hop) (dev : BitVec 13)
  /-- READY (R80): A READY(v) frame arrives from a child and counts toward aggregation. -/
  | ready (d : Fin 16) (h : Hop) (child : Fin 7) (v : Word)
  /-- READY_SEND (R80): A device sends READY(v) to its parent once it and its live children are ready. -/
  | readySend (d : Fin 16)
  /-- GATED_ADVANCE (R81): The root broadcasts a pending gated advance once it and every live child are ready. -/
  | gatedAdvance (d : Fin 16)
  /-- MODE_HOLD_RELEASE (R94): An advance that reaches T, held because COMMIT was sent less than 2 µs earlier, proceeds once 2 µs have passed since COMMIT. -/
  | modeHoldRelease (d : Fin 16)
  /-- TIMER_EXPIRY (R90): The root's wall-clock timer expires and becomes due for the next fence, merging with any earlier due expiry. -/
  | timerExpiry (d : Fin 16)
  /-- TIMER_WRITE (R90): A write to TIDE_Dn_TIMER starts, restarts or stops the timer period. -/
  | timerWrite (d : Fin 16) (v : Word)
  /-- MODE_ARM (R91): The root checks a mode record, arms it, and broadcasts ARM. -/
  | modeArm (d : Fin 16)
  /-- MODE_CANCEL (R98): CANCEL before COMMIT broadcasts ABORT and completes REFUSED; CANCEL after COMMIT is ignored. -/
  | modeCancel (d : Fin 16)
  /-- MODE_REARM (R97): The root re-arms a named stale device with the last committed record. -/
  | modeRearm (d : Fin 16) (dev : BitVec 13)
  /-- ARM (R92): A member receives ARM, arms if its units accept the record, and answers ACK or NACK. -/
  | arm (d : Fin 16) (h : Hop) (r : List Word)
  /-- ACK (R93): An ACK aggregates up the tree; at the root, once every live child has acknowledged, COMMIT is sent and the root raises its generation. -/
  | ack (d : Fin 16) (h : Hop) (child : Fin 7)
  /-- NACK (R92): A NACK makes the root broadcast ABORT, and the command completes with REFUSED. -/
  | nack (d : Fin 16) (h : Hop) (child : Fin 7)
  /-- COMMIT (R93): A member receives COMMIT, raises its mode generation to GEN, and forwards COMMIT. -/
  | commit (d : Fin 16) (h : Hop)
  /-- ABORT (R95): A device receives ABORT and discards the mode record. -/
  | abort (d : Fin 16) (h : Hop)
  /-- REARM (R97): The named stale device applies the record, adopts GEN, and clears STALE. -/
  | rearm (d : Fin 16) (h : Hop) (dev : BitVec 13) (r : List Word)
  /-- STALE (R96): The root receives a STALE notice and sets STALE_SEEN. -/
  | stale (d : Fin 16) (h : Hop) (dev : BitVec 13)
  /-- BUNDLE_ISSUE (R105): A tile issues its next bundle once operands, engines and waits allow, after checking encoding and operands. -/
  | bundleIssue (p : Fin 160) (ue : List (BitVec 17))
  /-- WAIT_TIMEOUT (R122): A wait's timeout expires, writes 0 to its predicate, and lets the bundle issue. -/
  | waitTimeout (p : Fin 160)
  /-- LI (R108): Loads a sign-extended immediate into a scalar register. -/
  | li (p : Fin 160) (g : Guard) (d : Fin 32) (imm : BitVec 32)
  /-- LUI (R108): Places the immediate in the upper half of a scalar register. -/
  | lui (p : Fin 160) (g : Guard) (d a : Fin 32) (imm : BitVec 32)
  /-- ADDI (R108): Adds a sign-extended immediate to a scalar register. -/
  | addi (p : Fin 160) (g : Guard) (d a : Fin 32) (imm : BitVec 32)
  /-- ALU (R108): Performs the scalar operation that FUNC selects. -/
  | alu (p : Fin 160) (g : Guard) (d a b : Fin 32) (func : BitVec 8)
  /-- CMP (R108): Compares two scalar registers into a predicate. -/
  | cmp (p : Fin 160) (g : Guard) (d : Fin 8) (a b : Fin 32) (func : BitVec 8)
  /-- CMPI (R108): Compares a scalar register with an immediate into a predicate. -/
  | cmpi (p : Fin 160) (g : Guard) (d : Fin 8) (a : Fin 32) (func : BitVec 3) (imm : BitVec 32)
  /-- PLOG (R108): Combines two predicates logically. -/
  | plog (p : Fin 160) (g : Guard) (d a b : Fin 8) (func : BitVec 8)
  /-- MOVSA (R108): Copies a scalar register into an address register. -/
  | movsa (p : Fin 160) (g : Guard) (d : Fin 16) (a : Fin 32)
  /-- MOVAS (R108): Copies an address register into a scalar register. -/
  | movas (p : Fin 160) (g : Guard) (d : Fin 32) (a : Fin 16)
  /-- ADDA (R108): Adds an immediate to an address register. -/
  | adda (p : Fin 160) (g : Guard) (d a : Fin 16) (imm : BitVec 32)
  /-- LIA (R108): Loads an immediate into an address register. -/
  | lia (p : Fin 160) (g : Guard) (d : Fin 16) (imm : BitVec 32)
  /-- BR (R109): Branches relative to the PC. -/
  | br (p : Fin 160) (g : Guard) (off : BitVec 32)
  /-- JMP (R110): Jumps to the address held in a scalar register. -/
  | jmp (p : Fin 160) (g : Guard) (a : Fin 32)
  /-- CALL (R112): Pushes the return PC and branches. -/
  | call (p : Fin 160) (g : Guard) (off : BitVec 32)
  /-- RET (R112): Pops the return stack and jumps to the popped PC. -/
  | ret (p : Fin 160) (g : Guard)
  /-- LOOP (R111): Runs the loop body the number of times held in sA. -/
  | loop (p : Fin 160) (g : Guard) (a : Fin 32) (off : BitVec 32)
  /-- TWAIT (R123): Holds the bundle until the domain's tide reaches, or matches, a value. -/
  | twait (p : Fin 160) (g : Guard) (pdst : Fin 8) (mode : BitVec 2) (a t : Fin 32)
  /-- CWAIT (R124): Holds the bundle until an outbound stage port holds enough credits. -/
  | cwait (p : Fin 160) (g : Guard) (pdst : Fin 8) (a b t : Fin 32)
  /-- CPOST (R126): Sends a 64-byte message to a channel without waiting. -/
  | cpost (p : Fin 160) (g : Guard) (a b : Fin 32) (ar : Fin 16)
  /-- CPOSTW (R128): Sends a message and waits for its completion. -/
  | cpostw (p : Fin 160) (g : Guard) (d a b : Fin 32) (ar : Fin 16)
  /-- POST_TIMEOUT (R127): A post that receives no acceptance or NACK within 100 µs completes with TIMEOUT. -/
  | postTimeout (p : Fin 160) (tag : BitVec 16)
  /-- CRECV (R129): Waits for the head entry of a ring and returns its header and payload address. -/
  | crecv (p : Fin 160) (g : Guard) (d a t : Fin 32) (ar : Fin 16) (pdst : Fin 8)
  /-- CFREE (R129): Advances a ring's read pointer by one entry. -/
  | cfree (p : Fin 160) (g : Guard) (a : Fin 32)
  /-- LDONE (R131): Signals that this tile's contribution to a layer gradient is complete, optionally waiting for the reduction. -/
  | ldone (p : Fin 160) (g : Guard) (a : Fin 32) (w : Bool)
  /-- LDONE_NOTIFY (R131): The LDONE notification takes effect in the first cycle in which its conditions hold. -/
  | ldoneNotify (p : Fin 160) (layer : BitVec 12)
  /-- YIELD (R134): Marks a preemption point, and saves the tile's state if a preemption is pending. -/
  | yield (p : Fin 160) (g : Guard) (live : BitVec 16)
  /-- HALT (R133): Ends the tile's program, and the tile enters HALTED. -/
  | halt (p : Fin 160) (g : Guard)
  /-- MFENCE (R132): Waits until earlier stores are visible and earlier posts have read their payloads. -/
  | mfence (p : Fin 160) (g : Guard)
  /-- CSRR (R136): Reads a tile CSR; NACK_POP removes the oldest NACK log entry. -/
  | csrr (p : Fin 160) (g : Guard) (d : Fin 32) (csr : BitVec 12)
  /-- RNGSET (R138): Loads the Philox key or one half of the counter. -/
  | rngset (p : Fin 160) (g : Guard) (a : Fin 32) (func : BitVec 8)
  /-- STOP (R555): Stops the tile at its next bundle boundary. -/
  | stop (p : Fin 160)
  /-- RESUME (R555): Returns a STOPPED tile to RUNNING. -/
  | resume (p : Fin 160)
  /-- STEP (R555): Issues one bundle of a STOPPED tile, then stops it again. -/
  | step (p : Fin 160)
  /-- TILE_PROG_WRITE (R144): Writes the program window, refusing a BASE not below LIMIT. -/
  | tileProgWrite (p : Fin 160) (v : Word)
  /-- TILE_REG_WRITE (R143): Writes tile PC, Philox or register windows, only while the tile is IDLE or STOPPED. -/
  | tileRegWrite (p : Fin 160) (off : BitVec 16) (v : Word)
  /-- MMA (R161): Queues an accumulation of A × B over the descriptor's shape into the banks. -/
  | mma (p : Fin 160) (g : Guard) (bank : Fin 4) (fmta fmtb : BitVec 4) (aa ab : Fin 16) (sd : Fin 32) (clr : Bool)
  /-- MOUT (R170): Queues a conversion of the banks to an output format, stored to tile memory. -/
  | mout (p : Fin 160) (g : Guard) (bank : Fin 4) (fmta : BitVec 4) (aa : Fin 16) (sd : Fin 32) (rnd : BitVec 2)
  /-- MCLR (R176): Queues the zeroing of one bank. -/
  | mclr (p : Fin 160) (g : Guard) (bank : Fin 4)
  /-- MLDA (R176): Queues a load of a bank from 64 KiB of raw values. -/
  | mlda (p : Fin 160) (g : Guard) (bank : Fin 4) (aa : Fin 16)
  /-- MSTA (R176): Queues a store of a bank as 64 KiB of raw values. -/
  | msta (p : Fin 160) (g : Guard) (bank : Fin 4) (aa : Fin 16)
  /-- MATRIX_START (R164): A queued matrix-slot entry starts once its predecessor has started and its banks and resources are free. -/
  | matrixStart (p : Fin 160)
  /-- MATRIX_COMPLETE (R166): A matrix-slot instruction completes when its last write is done, releasing held accesses. -/
  | matrixComplete (p : Fin 160) (i : Fin 4)
  /-- MXE_CTRL_WRITE (R178): Writes MXE_CTRL, only while the tile is idle or stopped and the engine queue is empty. -/
  | mxeCtrlWrite (p : Fin 160) (v : Word)
  /-- VADD (R183): Adds vectors element by element, with rounding to nearest even. -/
  | vadd (p : Fin 160) (g : Guard) (d a b : Fin 32) (fmt : BitVec 4)
  /-- VSUB (R183): Subtracts vectors element by element. -/
  | vsub (p : Fin 160) (g : Guard) (d a b : Fin 32) (fmt : BitVec 4)
  /-- VMUL (R183): Multiplies vectors element by element. -/
  | vmul (p : Fin 160) (g : Guard) (d a b : Fin 32) (fmt : BitVec 4)
  /-- VFMA (R183): Performs a fused multiply-add rounded once. -/
  | vfma (p : Fin 160) (g : Guard) (d a b c : Fin 32) (fmt : BitVec 4)
  /-- VMIN (R184): Takes the element-wise minimum. -/
  | vmin (p : Fin 160) (g : Guard) (d a b : Fin 32) (fmt : BitVec 4)
  /-- VMAX (R184): Takes the element-wise maximum. -/
  | vmax (p : Fin 160) (g : Guard) (d a b : Fin 32) (fmt : BitVec 4)
  /-- VCVT (R190): Converts a part of a register between formats. -/
  | vcvt (p : Fin 160) (g : Guard) (d a b : Fin 32) (fmt : BitVec 4) (rnd : BitVec 2) (func : BitVec 8)
  /-- VSFU (R192): Computes a special function within its error bound. -/
  | vsfu (p : Fin 160) (g : Guard) (d a : Fin 32) (fmt : BitVec 4) (func : BitVec 8)
  /-- VSMX (R194): Performs one online-softmax operation on a row pair. -/
  | vsmx (p : Fin 160) (g : Guard) (d a b c : Fin 32) (fmt : BitVec 4) (func : BitVec 8)
  /-- VROPE (R198): Rotates element pairs by rotary positions with exact range reduction. -/
  | vrope (p : Fin 160) (g : Guard) (d a b c : Fin 32) (fmt : BitVec 4) (func : BitVec 8)
  /-- VMASK (R196): Generates a causal, window or block mask. -/
  | vmask (p : Fin 160) (g : Guard) (d a b : Fin 32) (fmt : BitVec 4) (func : BitVec 8)
  /-- VRED (R185): Reduces the lanes to a sum or maximum in a fixed tree order. -/
  | vred (p : Fin 160) (g : Guard) (d a : Fin 32) (fmt : BitVec 4) (func : BitVec 8)
  /-- VSEL (R182): Selects each element from one of two registers by a mask. -/
  | vsel (p : Fin 160) (g : Guard) (d a b c : Fin 32) (fmt : BitVec 4)
  /-- VBCAST (R182): Broadcasts a scalar value to every element. -/
  | vbcast (p : Fin 160) (g : Guard) (d a : Fin 32) (fmt : BitVec 4)
  /-- VCMP (R184): Compares elements into an all-ones or all-zeros mask. -/
  | vcmp (p : Fin 160) (g : Guard) (d a b : Fin 32) (fmt : BitVec 4) (func : BitVec 8)
  /-- VLOG (R116): Performs a bitwise logic operation. -/
  | vlog (p : Fin 160) (g : Guard) (d a b : Fin 32) (fmt : BitVec 4) (func : BitVec 8)
  /-- VIADD (R116): Adds INT32 lanes modulo 2^32. -/
  | viadd (p : Fin 160) (g : Guard) (d a b : Fin 32) (fmt : BitVec 4)
  /-- VRNG (R137): Writes 256 Philox words and advances the counter by 64. -/
  | vrng (p : Fin 160) (g : Guard) (d : Fin 32) (fmt : BitVec 4)
  /-- VLD (R117): Loads 1,024 bytes of tile memory into a vector register. -/
  | vld (p : Fin 160) (g : Guard) (d : Fin 32) (ar : Fin 16) (am : BitVec 2) (x : Fin 32) (imm : BitVec 32)
  /-- VST (R117): Stores a vector register to tile memory. -/
  | vst (p : Fin 160) (g : Guard) (d : Fin 32) (ar : Fin 16) (am : BitVec 2) (x : Fin 32) (imm : BitVec 32)
  /-- SLD (R117): Loads 8 bytes into a scalar register. -/
  | sld (p : Fin 160) (g : Guard) (d : Fin 32) (ar : Fin 16) (am : BitVec 2) (x : Fin 32) (imm : BitVec 32)
  /-- SST (R117): Stores a scalar register. -/
  | sst (p : Fin 160) (g : Guard) (d : Fin 32) (ar : Fin 16) (am : BitVec 2) (x : Fin 32) (imm : BitVec 32)
  /-- ACCRD (R148): Reads two accumulator rows into a vector register. -/
  | accrd (p : Fin 160) (g : Guard) (d : Fin 32) (bank : Fin 4) (i : Fin 64)
  /-- ACCWR (R148): Writes two accumulator rows from a vector register. -/
  | accwr (p : Fin 160) (g : Guard) (d : Fin 32) (bank : Fin 4) (i : Fin 64)
  /-- SQPOST (R237): Posts a block list to a context stream queue, holding while the queue is full. -/
  | sqpost (p : Fin 160) (g : Guard) (d x : Fin 32)
  /-- SQTEST (R245): Returns a queue's count of completed block lists. -/
  | sqtest (p : Fin 160) (g : Guard) (d x : Fin 32)
  /-- SGET (R297): Takes the head entry of an inbound stage port, or releases the oldest held entry. -/
  | sget (p : Fin 160) (g : Guard) (d x : Fin 32)
  /-- SPUT (R295): Enqueues a payload on an outbound stage port, consuming one credit. -/
  | sput (p : Fin 160) (g : Guard) (d : Fin 32) (ar : Fin 16) (x : Fin 32)
  /-- HBM_READ (R212): The controller decodes a demand read, correcting or retrying it, or poisoning the line. -/
  | hbmRead (line : BitVec 33) (e1 e2 : SymbolErrors)
  /-- BC_READ (R225): The serving half's base cache serves a read according to its hint. -/
  | bcRead (line : BitVec 33) (hint : BitVec 2) (met : List (BitVec 33 × SymbolErrors × SymbolErrors))
  /-- BC_WRITE (R231): A write merges into the cache or into a write-combining entry, or is written as a full line. -/
  | bcWrite (addr : BitVec 39) (data : List Byte) (hint : BitVec 2) (ctx : BitVec 12)
      (met : List (BitVec 33 × SymbolErrors × SymbolErrors))
  /-- WCB_TIMEOUT (R233): An entry idle for WCB_TIMEOUT cycles closes and is written. -/
  | wcbTimeout (half : Fin 2) (line : BitVec 33) (e1 e2 : SymbolErrors)
  /-- SCRUB_READ (R216): Patrol scrub reads a line, then rewrites it if correctable or poisons it if uncorrectable. -/
  | scrubRead (line : BitVec 33) (e : SymbolErrors)
  /-- SCRUB_LATE (R216): A sweep that overruns its period by more than 10 % sets SCRUB_LATE. -/
  | scrubLate
  /-- TEMP_READING (R218): A stack temperature reading sets or restores the halved refresh interval. -/
  | tempReading (stack : Fin 8) (c : BitVec 8)
  /-- MAINT_REQ (R220): Entering maintenance closes the write-combining entries, flushes the caches, pauses scrub, and puts the stacks in self-refresh. -/
  | maintReq (met : List (BitVec 33 × SymbolErrors × SymbolErrors))
  /-- MAINT_EXIT (R223): Clearing REQ retrains the looped-back stacks and returns memory to READY. -/
  | maintExit (failed : BitVec 8)
  /-- LB_RUN (R222): Starts a loop-back test of one stack. -/
  | lbRun (v : Word)
  /-- LB_STOP (R222): Writing RUN = 0 stops the loop-back. -/
  | lbStop (v : Word) (errs : List (Fin 32 × Fin 72))
  /-- WCB (R230): Closes every write-combining entry, or only those of one context. -/
  | wcb (ctx : Option (BitVec 12)) (met : List (BitVec 33 × SymbolErrors × SymbolErrors))
  /-- WB (R230): Closes the entries and writes back every dirty line. -/
  | wb (met : List (BitVec 33 × SymbolErrors × SymbolErrors))
  /-- WB_INV (R230): Closes the entries, writes back every dirty line, and invalidates every line. -/
  | wbInv (met : List (BitVec 33 × SymbolErrors × SymbolErrors))
  /-- FLUSH_DONE (R230): A BC_FLUSH operation ends, and FLUSH_BUSY clears. -/
  | flushDone
  /-- KEEP_WAYS_WRITE (R228): A write that lowers KEEP_WAYS clears every KEEP mark. -/
  | keepWaysWrite (v : Word)
  /-- LIST_START (R238): A queue starts its next posted block list in order. -/
  | listStart (q : Fin 1024)
  /-- DESCRIPTOR_START (R243): The engine checks a descriptor before any of its transfers issue. -/
  | descriptorStart (q : Fin 1024)
  /-- TRANSFER_ISSUE (R241): A transfer issues under the LIMIT, weighting and FENCE rules. -/
  | transferIssue (q : Fin 1024)
  /-- TRANSFER_COMPLETE (R245): A transfer's write completes and its read returns. -/
  | transferComplete (q : Fin 1024) (id : Nat)
  /-- GROUP_STALL_START (R251): A tile group becomes stalled, and its standby queues may issue. -/
  | groupStallStart (g : Fin 64)
  /-- GROUP_STALL_END (R251): A stall ends, and standby queues stop issuing new transfers. -/
  | groupStallEnd (g : Fin 64)
  /-- STR_MAP_WRITE (R262): Writes a queue mapping, refusing changes while the queue is in use. -/
  | strMapWrite (q : Fin 1024) (v : Word)
  /-- RING_CTRL_WRITE (R258): Writes a ring's control, resetting its pointers when enabled and refusing layout changes while enabled. -/
  | ringCtrlWrite (l : Fin 144) (r : Fin 32) (v : Word)
  /-- MESSAGE (R254): A channel message reaches the receiving tile, is checked, and is accepted into the ring or dropped with a NACK. -/
  | message (p : Option (Fin 32)) (pk : Packet) (stale : Bool)
  /-- WRITE (R270): A WRITE packet is checked at its destination and written, and a COMPLETION is returned. -/
  | write (p : Fin 32) (pk : Packet)
  /-- READ_REQ (R270): A read request is checked, served, and answered with a READ_RESP. -/
  | readReq (p : Fin 32) (pk : Packet)
  /-- READ_RESP (R271): Read data arrives for an open request TAG. -/
  | readResp (p : Fin 32) (pk : Packet)
  /-- COMPLETION (R271): A COMPLETION ends an open request with its code, or is discarded as late. -/
  | completion (p : Fin 32) (pk : Packet)
  /-- MCAST_WRITE (R282): A group packet is accepted on UP_PORT, copied down the tree, and written locally. -/
  | mcastWrite (p : Fin 32) (pk : Packet)
  /-- MCAST_ACK (R282): A delivery report is aggregated up the group tree. -/
  | mcastAck (p : Fin 32) (pk : Packet)
  /-- LINK_QUERY (R556): The peer answers with the SEQ of the last packet that its port accepted in order. -/
  | linkQuery (p : Fin 32) (pk : Packet)
  /-- TRANSIT (R274): A packet for another device is routed onward through the route table. -/
  | transit (p : Fin 32) (pk : Packet)
  /-- E2E_TIMEOUT (R271): A request with no answer within E2E_US completes with TIMEOUT. -/
  | e2eTimeout (tag : BitVec 16)
  /-- LINK_ACK (R278): The peer acknowledges a SEQ, freeing the replay buffer. -/
  | linkAck (p : Fin 32) (ok ctl : Bool) (seq : BitVec 16)
  /-- NAK (R278): A NAK makes the port resend from the named SEQ (go-back-N). -/
  | nak (p : Fin 32) (ok ctl : Bool) (seq : BitVec 16)
  /-- PORT_RETRAIN (R264): An enabled DOWN port retrains every 10 ms. -/
  | portRetrain (p : Fin 32)
  /-- PORT_TRAINED (R264): Training locks the rings, exchanges identities, and brings the port UP. -/
  | portTrained (p : Fin 32) (peer : BitVec 13) (peerPort : Fin 32) (margins : List (BitVec 8))
  /-- RING_UNLOCK (R280): A data ring unlocked for 2 µs makes the port stripe over seven wavelengths, DEGRADED. -/
  | ringUnlock (p : Fin 32) (w : Fin 9)
  /-- RING_RELOCK (R280): Every 1 ms the loop tries to relock a ring and restore eight wavelengths. -/
  | ringRelock (p : Fin 32) (w : Fin 9) (margin : BitVec 8)
  /-- REORDER_RELEASE (R288): A packet held by REORDER is sent after DEPTH packets or after 1 µs. -/
  | reorderRelease (p : Fin 32)
  /-- PORT_ENABLE_WRITE (R279): Setting or clearing a fabric port's ENABLE starts training or takes the port out of service. -/
  | portEnableWrite (p : Fin 32) (v : Word)
  /-- INJ_ACTION_WRITE (R288): Writes an injection action and zeroes TAKEN. -/
  | injActionWrite (k : Fin 32) (v : Word)
  /-- RMAP_SLOT_WRITE (R283): Starts copying a rank-map table into the on-die store. -/
  | rmapSlotWrite (d : Fin 16) (sl : Fin 2) (v : Word)
  /-- RMAP_LOAD_DONE (R283): The copy completes, and the new table and COUNT replace the old ones. -/
  | rmapLoadDone (d : Fin 16) (sl : Fin 2)
  /-- RMAP_CTRL_WRITE (R557): Writes PHASED, CURRENT and PHASE_SLOT, with PHASED and CURRENT only in IDLE or PAUSE. -/
  | rmapCtrlWrite (d : Fin 16) (v : Word)
  /-- STAGE_CTRL_WRITE (R291): Writes a stage's configuration, refusing changes while a port is active or micro-batches are in flight. -/
  | stageCtrlWrite (k : Fin 16) (v : Word)
  /-- STAGE_PORT_ENABLE (R293): Enabling a stage port translates its peer rank and, on an inbound port, sends a GRANT. -/
  | stagePortEnable (p : Fin 256) (v : Word)
  /-- STAGE_PORT_DISABLE (R304): Clearing ENABLE discards every entry and zeroes the port's counts. -/
  | stagePortDisable (p : Fin 256) (v : Word)
  /-- STAGE_HEAD (R305): The HEAD packet of a stage entry is checked at the receiving port. -/
  | stageHead (p : Fin 32) (pk : Packet)
  /-- STAGE_DATA (R305): A DATA packet of a stage entry is written; after the last one the HEAD is completed. -/
  | stageData (p : Fin 32) (pk : Packet)
  /-- SPILL_COPY (R299): The head spill entry is copied into a free landing slot. -/
  | spillCopy (p : Fin 256)
  /-- GRANT (R301): An outbound port receives a GRANT and sets CREDITS to C. -/
  | grant (p : Fin 256) (h : Option Hop) (c : BitVec 11)
  /-- GRANT_REPEAT (R301): An unacknowledged GRANT is repeated every 100 µs. -/
  | grantRepeat (p : Fin 256)
  /-- CREDIT (R298): A released entry returns one credit to the peer outbound port. -/
  | credit (p : Fin 256) (h : Option Hop)
  /-- ALLOC (R308): Moves a FREE version record to FILLING. -/
  | alloc
  /-- PUBLISH (R308): Marks a FILLING version for publication at the next fence. -/
  | publish
  /-- VT_RETIRE (R308): Moves a LIVE version to RETIRING. -/
  | vtRetire
  /-- WITHDRAW (R308): Clears a pending publication. -/
  | withdraw
  /-- FREE_NOW (R308): Frees a RETIRING version with a zero reference count. -/
  | freeNow
  /-- VT_RESET (R308): Resets a version record to FREE. -/
  | vtReset
  /-- REDUCTION_START (R317): The reduction of a layer starts once every contributing tile has issued LDONE. -/
  | reductionStart (layer : BitVec 12)
  /-- EXP_UP (R323): A child's exponent packet is combined and passed up the tree. -/
  | expUp (p : Fin 32) (pk : Packet)
  /-- EXP_DOWN (R323): The root's exponents arrive and are forwarded down, and alignment begins. -/
  | expDown (p : Fin 32) (pk : Packet)
  /-- SUM (R323): A child's aligned partial sums are added, sent upward, or renormalised and written at the root. -/
  | sum (p : Fin 32) (pk : Packet)
  /-- RUN_START (R333): A scheduled run starts once its reductions are complete, after checking its entry and programs. -/
  | runStart (k : Fin 4096)
  /-- RUN_COMPLETE (R341): A run's update program ends, and its RUN becomes UPDATED unless a post-pass follows. -/
  | runComplete (k : Fin 4096)
  /-- UPD_COMMIT_WRITE (R348): The driver writes CUR and STEP of a commit word while the domain is idle or paused. -/
  | updCommitWrite (k : Fin 4096) (v : Word)
  /-- TABLE_WRITE (R347): Writes RED_LT or UPD_TABLE, only while no context is present. -/
  | tableWrite (upd : Bool) (v : Word)
  /-- GRANULE_COPY_DONE (R377): A granule copied ahead of its turn releases the writes held on it. -/
  | granuleCopyDone (g : BitVec 23)
  /-- FILL_COMPLETE (R380): The fill writes its last byte, the slot becomes FULL, and every granule is unprotected. -/
  | fillComplete (n : Fin 4)
  /-- MIRROR_RECORD_READ (R383): The buddy commit record returns, and the mirror chooses the image to write. -/
  | mirrorRecordRead (n : Fin 4) (code : BitVec 8) (data : List Byte)
  /-- MIRROR_WRITES_DONE (R383): Every WRITE of the image completes, and the new commit record is written. -/
  | mirrorWritesDone (n : Fin 4) (code : BitVec 8)
  /-- MIRROR_ACK (R383): The commit record completes, and MIR_ACK is set. -/
  | mirrorAck (n : Fin 4) (code : BitVec 8)
  /-- HARVEST_START (R387): A harvest of the oldest eligible FULL CKPT slot starts, and its area is chosen. -/
  | harvestStart (other : List (Fin 8))
  /-- HARVEST_WRITE_DONE (R390): An NVMe Write completes, or is reissued on error, up to RETRY times. -/
  | harvestWriteDone (t : Fin 8) (ok : Bool)
  /-- NVME_TIMEOUT (R390): A harvest command that does not complete within TIMEOUT_MS is reissued or fails the harvest. -/
  | nvmeTimeout (t : Fin 8)
  /-- HARVEST_FLUSH_DONE (R391): The Flushes complete, and HRV_ACK is set. -/
  | harvestFlushDone (t : Fin 8) (ok : Bool)
  /-- SLOT_FREE (R392): A FULL slot becomes FREE once its harvest and mirror obligations are met and a newer good pan exists. -/
  | slotFree (n : Fin 4)
  /-- HOLD (R393): Keeps a FULL slot whatever the release rule allows. -/
  | hold (n : Fin 4)
  /-- UNHOLD (R393): Clears HOLD on a slot. -/
  | unhold (n : Fin 4)
  /-- DISCARD (R393): Stops a slot's harvest and mirror, and frees the slot. -/
  | discard (n : Fin 4)
  /-- RESTORE (R394): Copies an image back into place: regions, commit words, versions, generators and the cursor. -/
  | restore (d : Fin 16)
  /-- RESTORE_DONE (R394): A RESTORE completes, or ends POISONED on a poisoned line. -/
  | restoreDone
  /-- HRV_RETRY (R390): Restarts a failed harvest from stripe 0 in the same area. -/
  | hrvRetry (n : Fin 4) (other : List (Fin 8))
  /-- MIR_RETRY (R393): Restarts a slot's mirror from step 1. -/
  | mirRetry (n : Fin 4)
  /-- PAN_RESERVE_WRITE (R360): Writes the pan reserve, only while every slot is FREE. -/
  | panReserveWrite (v : Word)
  /-- PAN_TRIG_WRITE (R371): Setting EN arms the step-trigger event slot. -/
  | panTrigWrite (d : Fin 16) (v : Word)
  /-- PAN_DOMAIN_WRITE (R395): Writes a domain's pan list, cursor or buddy settings, only while no fill or mirror of the domain runs. -/
  | panDomainWrite (d : Fin 16) (off : BitVec 7) (v : Word)
  /-- HRV_WRITE (R396): Writes harvest target settings, only while no harvest runs. -/
  | hrvWrite (off : BitVec 12) (v : Word)
  /-- INIT (R415): Initialises a check set's running value and opens it. -/
  | init (u : Fin 4) (k : Fin 16)
  /-- UPDATE (R415): Absorbs LEN bytes from a device address into a check set. -/
  | update (u : Fin 4) (k : Fin 16) (len : BitVec 32)
  /-- FINISH (R415): Absorbs any final fold word and writes RESULT. -/
  | finish (u : Fin 4) (k : Fin 16)
  /-- UPDATE_FINISH (R415): Performs UPDATE and then FINISH. -/
  | updateFinish (u : Fin 4) (k : Fin 16) (len : BitVec 32)
  /-- UPDATE_DONE (R416): An absorption completes, or stops at a poisoned line or a refused range. -/
  | updateDone (u : Fin 4) (k : Fin 16)
  /-- CHK_STATE_WRITE (R417): Writes a check set's running value, only while the set is OPEN. -/
  | chkStateWrite (u : Fin 4) (k : Fin 16) (off : BitVec 8) (v : Word)
  /-- SWAP_MIGRATE (R422): Starts a migrating swap of a logical tile onto a spare of its die. -/
  | swapMigrate (lt : BitVec 8)
  /-- SWAP_ABANDON (R424): Starts a swap that copies nothing and poisons the spare's memory. -/
  | swapAbandon (lt : BitVec 8)
  /-- SELF_TEST_DONE (R422): A spare's scan self-test ends; a failed spare is retired and the next spare is tried. -/
  | selfTestDone (ok : Bool)
  /-- SWAP_STOP_DONE (R422): The old tile has stopped and its matrix queue has drained, so the copy may begin. -/
  | swapStopDone
  /-- SWAP_STOP_TIMEOUT (R424): Phase B not finished within 3 ms turns the swap into ABANDON. -/
  | swapStopTimeout
  /-- SWAP_COPY_DONE (R422): The tile state is copied to the spare, and the remap completes the swap. -/
  | swapCopyDone (readable : Bool) (ue : List (BitVec 17))
  /-- RPL_WIN_WRITE (R440): Starts copying the fingerprint window table on die. -/
  | rplWinWrite (d : Fin 16) (v : Word)
  /-- WIN_LOAD_DONE (R440): The window table copy ends, or fails with WIN_FAULT. -/
  | winLoadDone (d : Fin 16)
  /-- RPL_CTRL_WRITE (R447): Writes replay settings, subject to the domain's phase. -/
  | rplCtrlWrite (d : Fin 16) (off : BitVec 6) (v : Word)
  /-- COMET_POST_PASS (R451): After an update program ends, the comet post-pass carries, merges or compresses the outer state before RUN becomes UPDATED. -/
  | cometPostPass (k : Fin 4096)
  /-- DATA (R465): A data comet is checked and stored in its group. -/
  | data (slot imm : BitVec 32) (c : Comet)
  /-- PARITY (R461): A parity comet is checked, and a group is rebuilt from any K good comets. -/
  | parity (slot imm : BitVec 32) (c : Comet)
  /-- MERGED (R464): A MERGED comet raises FREE_SEQ and lets the sender drop the merged difference. -/
  | merged (c : Comet)
  /-- REQUEST (R466): A REQUEST makes the sender resend the group with fresh SEQ values. -/
  | request (c : Comet)
  /-- REQUEST_TIMER (R466): A partial group idle for RESEND_MS is requested again. -/
  | requestTimer (site : Fin 64) (j : BitVec 32) (group : BitVec 32)
  /-- OUTER_GATE (R468): When the gate holds in OUTER, the merge set is frozen and READY is raised. -/
  | outerGate
  /-- OUTER_GRACE_EXPIRY (R471): After GRACE_MS in OUTER, overdue sites are flagged and the root may pause the domain. -/
  | outerGraceExpiry
  /-- RELOAD (R473): Loads NEXT_J from the committed merge record and empties the deep buffers. -/
  | reload
  /-- REGEN (R473): Reruns the compression of the restored outer step. -/
  | regen
  /-- REQUEST_ALL (R473): Requests every group of every outer step from NEXT_J onwards from each active site. -/
  | requestAll
  /-- COM_WRITE (R474): Writes comet settings; EN and buffer fields only in IDLE or PAUSE. -/
  | comWrite (off : BitVec 12) (v : Word)
  /-- CREATE (R476): Creates an ACTIVE context with a given epoch. -/
  | create (c : BitVec 12) (part : Fin 16) (epoch : BitVec 8)
  /-- CTX_RESET (R488): Raises the context's epoch and drains its work in flight. -/
  | ctxReset (c : BitVec 12)
  /-- DESTROY (R476): Resets the context, then makes it ABSENT. -/
  | destroy (c : BitVec 12)
  /-- QUARANTINE (R477): Quarantines an ACTIVE context on the driver's order. -/
  | quarantine (c : BitVec 12)
  /-- PRT_RESET (R491): Resets every context of a partition. -/
  | prtReset (part : Fin 16)
  /-- RESET_DRAIN_DONE (R488): INFLIGHT reaches zero, the context becomes ACTIVE, and the reset completes. -/
  | resetDrainDone (c : BitVec 12)
  /-- RESET_ESCALATE (R490): A reset not drained within 200 µs escalates to a partition reset. -/
  | resetEscalate (c : BitVec 12)
  /-- SLICE_END (R483): A time slice expires, and preemption becomes pending on the context's tiles. -/
  | sliceEnd (part : Fin 16)
  /-- FORCED_SAVE (R483): A tile that has not yielded within 2 ms makes a forced save. -/
  | forcedSave (p : Fin 160)
  /-- SAVE_DONE (R483): Every tile has saved, credits are updated, and the next context is chosen. -/
  | saveDone (part : Fin 16)
  /-- PLACEMENT_DONE (R482): A context's state is restored on the tiles, and it becomes resident. -/
  | placementDone (part : Fin 16)
  /-- PRT_TILES_WRITE (R478): Writes a partition's tiles, refusing a tile that is already in another partition. -/
  | prtTilesWrite (part : Fin 16) (i : Fin 3) (v : Word)
  /-- PRT_BW_WRITE (R480): Writes bandwidth guarantees, refusing sums above 100. -/
  | prtBwWrite (part : Fin 16) (v : Word)
  /-- CTX_WRITE (R496): Writes context-table fields, subject to the context's state. -/
  | ctxWrite (c : BitVec 12) (off : BitVec 6) (v : Word)
  /-- FLR (R500): A function-level reset resets the contexts of that function. -/
  | flr (f : Fin 64)
  /-- DB_SQ_TAIL (R505): Posts commands to a context's queue by moving the tail. -/
  | dbSqTail (c : BitVec 12) (v : Word)
  /-- DB_CQ_HEAD (R505): Frees completion entries and re-enables the queue interrupt. -/
  | dbCqHead (c : BitVec 12) (v : Word)
  /-- DB_WAKE (R487): A wake doorbell restarts a halted context or sets DB_PENDING. -/
  | dbWake (c : BitVec 12)
  /-- FLUSH (R507): Completes the queue's unissued commands with FLUSHED. -/
  | flush (c : BitVec 12)
  /-- Q_CFG_WRITE (R503): Enabling a queue zeroes its pointers and sets it RUNNING. -/
  | qCfgWrite (c : BitVec 12) (off : BitVec 12) (v : Word)
  /-- NOP (R504): A host command with no effect. -/
  | nop (c : BitVec 12) (h : HostCmd)
  /-- COPY_IN (R504): Copies bytes from host memory to HBM. -/
  | copyIn (c : BitVec 12) (h : HostCmd) (data : List Byte)
  /-- COPY_OUT (R504): Copies bytes from HBM to host memory. -/
  | copyOut (c : BitVec 12) (h : HostCmd)
  /-- WAKE (R504): Wakes the context once every earlier command has completed. -/
  | wake (c : BitVec 12) (h : HostCmd)
  /-- WRITE64 (R504): Writes 8 bytes at a device address. -/
  | write64 (c : BitVec 12) (h : HostCmd)
  /-- NVME_READ (R505): Reads NVMe blocks over a queue pair into HBM. -/
  | nvmeRead (c : BitVec 12) (h : HostCmd)
  /-- HOST_CMD_COMPLETE (R505): A host command completes, and its completion entry is written in order. -/
  | hostCmdComplete (c : BitVec 12)
  /-- HOST_COMPLETION (R499): A host completion with an error or poisoned data ends the command and posts an entry. -/
  | hostCompletion (c : BitVec 12) (cid : BitVec 16) (st : HostStatus)
  /-- DMA_TIMEOUT (R499): A host access without a completion within 50 ms ends its command with TIMEOUT. -/
  | dmaTimeout (c : BitVec 12) (cid : BitVec 16)
  /-- PCIE_LINK_DOWN (R501): An unrequested loss of the PCIe link posts HIF_LINK_DOWN and starts a device reset. -/
  | pcieLinkDown
  /-- PERST (R500): PERST_N asserted resets the device; released, it starts link training. -/
  | perst (level : Bool)
  /-- HOT_RESET (R500): A PCIe hot reset causes a device reset. -/
  | hotReset
  /-- CLEAR_COUNTERS (R527): Zeroes every statistics counter. -/
  | clearCounters
  /-- SNAPSHOT (R528): Writes a telemetry record of every counter. -/
  | snapshot
  /-- SIGN (R515): Signs a manifest with the device key. -/
  | sign
  /-- DEVICE_RESET (R500): Resets the data and control planes and reapplies the configuration. -/
  | deviceReset
  /-- FW_STAGE (R511): Copies and verifies firmware into the idle slot. -/
  | fwStage
  /-- FW_ACTIVATE (R512): Defers activation until every running domain has fenced or paused. -/
  | fwActivate
  /-- HANDOVER_BEGIN (R512): With WAIT zero, the queues are held and the new image starts. -/
  | handoverBegin
  /-- HANDOVER_READY (R512): The new image reports ready, and the queues resume. -/
  | handoverReady
  /-- HANDOVER_TIMEOUT (R512): Not ready within 200 ms, the previous image is restarted. -/
  | handoverTimeout
  /-- CFG_WRITE (R518): Writes a new configuration image into the image not in use. -/
  | cfgWrite (len : BitVec 32)
  /-- ERR_RP_WRITE (R522): Advances the ledger read pointer, refusing an overrun. -/
  | errRpWrite (v : Word)
  /-- MGT_WATCHDOG (R526): An unserviced watchdog restarts the firmware and posts an entry. -/
  | mgtWatchdog (pc : BitVec 32)
  /-- SPDM_REQUEST (R514): The management core answers an SPDM request. -/
  | spdmRequest (r : SpdmReq)
  /-- ETH_FRAME (R529): An outer-port frame is passed to the management core or dropped and counted. -/
  | ethFrame (n : Fin 2) (k : EthKind) (len : Nat)
  /-- CNP (R529): A congestion notification halves a queue pair's rate. -/
  | cnp (qp : BitVec 10)
  /-- QPTAB_WRITE (R530): Loads the queue-pair table, refused while data pairs are in use. -/
  | qptabWrite (v : Word)
  /-- POWER_ON_RESET (R500): Release of the standby reset boots firmware, reads the configuration, and drives MAIN_EN. -/
  | powerOnReset
  /-- PWR_GOOD_RISE (R545): PWR_GOOD rises, and the device starts its PLLs and trains the links and HBM. -/
  | pwrGoodRise (dir0 dir1 : List (Fin 5 × Nat)) (badStacks : BitVec 8)
  /-- RAIL_SAMPLE (R532): Every 100 µs each rail's voltage and current are read. -/
  | railSample (r : Fin 13) (mv : BitVec 16) (da : BitVec 16)
  /-- VOLTAGE_LOOP (R533): Every 1 ms each die's VID moves toward its target margin. -/
  | voltageLoop (die : Fin 6) (margin target : BitVec 8)
  /-- DROOP (R534): A supply droop stretches tile-clock edges. -/
  | droop (die : Fin 4) (cycles : Nat)
  /-- SUSTAINED_LOOP (R536): Every 1 ms the sustained-limit request moves by 25 MHz. -/
  | sustainedLoop (watts : Nat)
  /-- SURGE_BEGIN (R537): Surge begins when its conditions hold. -/
  | surgeBegin
  /-- SURGE_END (R537): USED reaching 20 s ends surge and posts PWR_SURGE_END. -/
  | surgeEnd
  /-- CURRENT_CLAMP (R538): ICRIT_N low or excess current halves the tile clock. -/
  | currentClamp (src : ClampSrc)
  /-- CLAMP_RELEASE (R538): After 100 µs without the condition, the clock is restored in steps. -/
  | clampRelease
  /-- THERMAL_LOOP (R539): The thermal request moves by 25 MHz according to the hottest reading. -/
  | thermalLoop (rs : List Reading)
  /-- THERMTRIP (R540): The comparator trips, drives THERMTRIP_N and MAIN_EN low, and posts a FATAL entry. -/
  | thermtrip (r : Reading)
  /-- TRIP_CLEAR (R540): Clears the trip latch while PWR_GOOD is low. -/
  | tripClear
  /-- RAIL_LOSS (R542): PWR_GOOD falling or VR_FAULT_N low while PERST_N is high holds the planes in reset and posts a FATAL entry. -/
  | railLoss (k : RailLoss)
  /-- THROTTLE_N (R535): The board's throttle input caps the tile clock at 0.8 GHz. -/
  | throttleN (level : Bool)
  /-- PWR_CTRL_WRITE (R552): Writes power controls, which act within 1 ms. -/
  | pwrCtrlWrite (v : Word)
  /-- GRANT_ACKNOWLEDGE (R301): The peer outbound port's acknowledgement of a GRANT reaches the inbound port and stops its 100 µs repeats. -/
  | grantAcknowledge (p : Fin 256) (h : Option Hop)
  /-- STAGE_ENTRY_WRITTEN (R299): A SPUT to a peer port on the same device finishes writing its payload and descriptor, so the entry lands, becomes visible to SGET and ends the outbound OUTSTANDING count. -/
  | stageEntryWritten (p : Fin 256)
  /-- CLASS_CREDIT (R277): A per-class per-hop credit short frame arrives on a fabric port and lets that class send on the link again. -/
  | classCredit (h : Hop) (cls : BitVec 2)
  /-- PCIE_LINK_UP (R497): PCIe link training completes and LINK_UP, SPEED and WIDTH in HIF_STATUS are set. -/
  | pcieLinkUp (gen : Fin 7) (width : Fin 17)
  /-- OUTER_PORT_LINK (R529): An outer Ethernet port gains or loses its 800 Gb/s link and FEC lock, changing LINK_UP and FEC_LOCK of HIF_ETHn_STATUS. -/
  | outerPortLink (n : Fin 2) (up fec : Bool)
  /-- PFC_PAUSE_FRAME (R529): A PFC frame from the link partner pauses or releases the RoCEv2 priority and sets PFC_PAUSED. -/
  | pfcPauseFrame (n : Fin 2) (pause : Bool)
  /-- RDMA_REQUEST_SERVED (R529): An RDMA READ or RDMA WRITE from an NVMe target is served on an outer port, reading a harvest stripe from device memory or writing NVME_READ data into HBM. -/
  | rdmaRequestServed (n : Fin 2) (qp : BitVec 10) (isRead : Bool) (addr : Word) (data : List Byte)
  /-- CNP_RATE_RECOVERY (R529): After 55 µs without a CNP, a queue pair regains 5 % of line rate. -/
  | cnpRateRecovery (qp : BitVec 10)
  /-- QP_TABLE_LOADED (R530): The copy of the queue-pair table completes, and QP_LOADING clears. -/
  | qpTableLoaded
  /-- FW_STAGE_DONE (R511): The copy and verification of staged firmware into the idle flash slot ends, giving DONE or REFUSED and setting FW_STATE STAGED. -/
  | fwStageDone (ok : Bool)
  /-- CFG_WRITE_DONE (R518): The flash write and read-back of a new configuration image ends, WRITE_BUSY clears, and the command completes with DONE or REFUSED. -/
  | cfgWriteDone (ok : Bool)
  /-- SNAPSHOT_WRITTEN (R528): A telemetry record finishes being written at DEST, after which triggers are taken again. -/
  | snapshotWritten
  deriving DecidableEq, Repr

end Sys2Proof
end

