-- ==== Sys2Proof/Decode.lean ====
section
/-! DEFINITION. The command that a word spells by the opcode table's bits. No row of the table gives bits, so no word spells
a command. (The bundles of Vardo, which tiles fetch from their memory, are decoded in Machine/Bundle.lean.) -/
namespace Sys2Proof

/-- The command that `w` spells over `nbits` bits: none, since no row of the table has bits. -/
def decodeTableWord (_nbits _w : Nat) : Option Instr := none

end Sys2Proof
end

