-- ==== Sys2Proof/Machine/Regs.lean ====
section
/-! DEFINITION. The register map of the Damzal: for every register of BAR0 (and of the doorbell pages of BAR4, which the
model numbers from 0x400_0000, the first offset past BAR0's 64 MiB) its offset, its fields, their access types (R27), their
reset values and the values that are not reserved. Written from the register tables of the chapters 01 to 18. -/
namespace Sys2Proof.Machine

/-- Access types of register fields (R27). -/
inductive Acc where
  | ro | rw | wo | w1c | w1s
  deriving DecidableEq, Repr

/-- One row of a register's field table: bits [hi:lo], access type, reset value, how many low bits of the field are
reserved, and the ranges of values that are not reserved (none: every value is allowed). -/
structure FieldSpec where
  hi : Nat
  lo : Nat
  acc : Acc
  reset : Nat
  low : Nat
  legal : List (Nat × Nat)
  deriving DecidableEq, Repr

/-- One row of a register map: a register, or a family of n1 × n2 registers at base + s1 × i + s2 × j. -/
structure RegRow where
  base : Nat
  n1 : Nat
  s1 : Nat
  n2 : Nat
  s2 : Nat
  counter : Bool
  fields : List FieldSpec
  deriving DecidableEq, Repr

namespace Reg
def FLR_STATUS : Nat := 0x160000
def FLR_TILE_MAP (i : Nat) : Nat := 0x161000 + 0x8 * i
def FLR_PTILE (i : Nat) : Nat := 0x161800 + 0x8 * i
def FLR_PIN (i : Nat) : Nat := 0x162000 + 0x8 * i
def FLR_LINK_STATUS (i : Nat) : Nat := 0x163000 + 0x40 * i
def FLR_LINK_RETRY (i : Nat) : Nat := 0x163008 + 0x40 * i
def FLR_TRIM_SEL : Nat := 0x164000
def FLR_TRIM_DATA : Nat := 0x164008
def TIDE_STATUS : Nat := 0x40000
def TIDE_PIN_CTRL : Nat := 0x40008
def TIDE_PIN_DROP : Nat := 0x40010
def TIDE_CTRL (i : Nat) : Nat := 0x50000 + 0x2000 * i
def TIDE_VALUE (i : Nat) : Nat := 0x50008 + 0x2000 * i
def TIDE_TARGET (i : Nat) : Nat := 0x50010 + 0x2000 * i
def TIDE_ADVANCE (i : Nat) : Nat := 0x50018 + 0x2000 * i
def TIDE_READY (i : Nat) : Nat := 0x50020 + 0x2000 * i
def TIDE_GATE (i : Nat) : Nat := 0x50028 + 0x2000 * i
def TIDE_PARENT (i : Nat) : Nat := 0x50030 + 0x2000 * i
def TIDE_CHILD (i j : Nat) : Nat := 0x50038 + 0x2000 * i + 0x8 * j
def TIDE_DSTATUS (i : Nat) : Nat := 0x50070 + 0x2000 * i
def TIDE_FENCE_WAIT (i : Nat) : Nat := 0x50078 + 0x2000 * i
def TIDE_TIMER (i : Nat) : Nat := 0x50080 + 0x2000 * i
def TIDE_TIMER_ACT (i : Nat) : Nat := 0x50088 + 0x2000 * i
def TIDE_FENCE_COUNT (i : Nat) : Nat := 0x50090 + 0x2000 * i
def TIDE_ABORT_COUNT (i : Nat) : Nat := 0x50098 + 0x2000 * i
def TIDE_MODE_REC (i j : Nat) : Nat := 0x500C0 + 0x2000 * i + 0x8 * j
def TIDE_MODE_CMD (i : Nat) : Nat := 0x50100 + 0x2000 * i
def TIDE_MODE_STATUS (i : Nat) : Nat := 0x50108 + 0x2000 * i
def TIDE_SLOT_VALUE (i j : Nat) : Nat := 0x51000 + 0x2000 * i + 0x10 * j
def TIDE_SLOT_CTRL (i j : Nat) : Nat := 0x51008 + 0x2000 * i + 0x10 * j
def TILE_CTRL (i : Nat) : Nat := 0x1000000 + 0x10000 * i
def TILE_STATUS (i : Nat) : Nat := 0x1000008 + 0x10000 * i
def TILE_PC (i : Nat) : Nat := 0x1000010 + 0x10000 * i
def TILE_PROG (i : Nat) : Nat := 0x1000018 + 0x10000 * i
def TILE_FAULT (i : Nat) : Nat := 0x1000020 + 0x10000 * i
def TILE_CTX (i : Nat) : Nat := 0x1000028 + 0x10000 * i
def TILE_RNG_KEY (i : Nat) : Nat := 0x1000030 + 0x10000 * i
def TILE_RNG_CTR_LO (i : Nat) : Nat := 0x1000038 + 0x10000 * i
def TILE_RNG_CTR_HI (i : Nat) : Nat := 0x1000040 + 0x10000 * i
def TILE_NACK_LOG (i j : Nat) : Nat := 0x1000100 + 0x10000 * i + 0x8 * j
def TILE_BUSY (i : Nat) : Nat := 0x1000200 + 0x10000 * i
def TILE_STALL_TIDE (i : Nat) : Nat := 0x1000208 + 0x10000 * i
def TILE_STALL_CREDIT (i : Nat) : Nat := 0x1000210 + 0x10000 * i
def TILE_STALL_CHANNEL (i : Nat) : Nat := 0x1000218 + 0x10000 * i
def TILE_STALL_OTHER (i : Nat) : Nat := 0x1000220 + 0x10000 * i
def TILE_SREG (i j : Nat) : Nat := 0x1001000 + 0x10000 * i + 0x8 * j
def TILE_AREG (i j : Nat) : Nat := 0x1001100 + 0x10000 * i + 0x8 * j
def TILE_PREG (i : Nat) : Nat := 0x1001180 + 0x10000 * i
def TILE_VREG (i j : Nat) : Nat := 0x1002000 + 0x10000 * i + 0x8 * j
def MXE_CTRL (i : Nat) : Nat := 0x100C000 + 0x10000 * i
def MXE_STATUS (i : Nat) : Nat := 0x100C008 + 0x10000 * i
def MXE_NF_CAPTURE (i : Nat) : Nat := 0x100C010 + 0x10000 * i
def MXE_NF_TIDE (i : Nat) : Nat := 0x100C018 + 0x10000 * i
def MXE_REPAIR (i : Nat) : Nat := 0x100C020 + 0x10000 * i
def MXE_ACTIVE (i : Nat) : Nat := 0x100C100 + 0x10000 * i
def MXE_CELLS (i : Nat) : Nat := 0x100C108 + 0x10000 * i
def MXE_PORT_STALL (i : Nat) : Nat := 0x100C110 + 0x10000 * i
def MXE_OUT_SAT_CNT (i : Nat) : Nat := 0x100C118 + 0x10000 * i
def VEC_STATUS (i : Nat) : Nat := 0x100D000 + 0x10000 * i
def VEC_NF_CAPTURE (i : Nat) : Nat := 0x100D008 + 0x10000 * i
def VEC_NF_TIDE (i : Nat) : Nat := 0x100D010 + 0x10000 * i
def VEC_ACTIVE (i : Nat) : Nat := 0x100D100 + 0x10000 * i
def VEC_SFU (i : Nat) : Nat := 0x100D108 + 0x10000 * i
def VEC_OUT_SAT_CNT (i : Nat) : Nat := 0x100D110 + 0x10000 * i
def MEM_STATUS : Nat := 0x180000
def MEM_ECC : Nat := 0x180008
def MEM_SCRUB : Nat := 0x180010
def MEM_MAINT : Nat := 0x180018
def MEM_LB_CTRL : Nat := 0x180020
def MEM_LB_STATUS : Nat := 0x180028
def MEM_LB_ERRORS : Nat := 0x180030
def MEM_UE_LOG (i : Nat) : Nat := 0x180100 + 0x8 * i
def MEM_S_STATUS (i : Nat) : Nat := 0x181000 + 0x100 * i
def MEM_S_CE (i : Nat) : Nat := 0x181008 + 0x100 * i
def MEM_S_UE (i : Nat) : Nat := 0x181010 + 0x100 * i
def MEM_S_MISDIR (i : Nat) : Nat := 0x181018 + 0x100 * i
def MEM_S_SCRUB_FIX (i : Nat) : Nat := 0x181020 + 0x100 * i
def BC_CTRL : Nat := 0x1C0000
def BC_STATUS : Nat := 0x1C0008
def BC_FLUSH : Nat := 0x1C0010
def BC_H_HIT (i : Nat) : Nat := 0x1C0100 + 0x80 * i
def BC_H_MISS (i : Nat) : Nat := 0x1C0108 + 0x80 * i
def BC_H_WRITEBACK (i : Nat) : Nat := 0x1C0110 + 0x80 * i
def BC_H_LAST_DROP (i : Nat) : Nat := 0x1C0118 + 0x80 * i
def BC_H_WCB_FULL (i : Nat) : Nat := 0x1C0120 + 0x80 * i
def BC_H_WCB_TIMEOUT_CNT (i : Nat) : Nat := 0x1C0128 + 0x80 * i
def BC_H_WCB_RMW (i : Nat) : Nat := 0x1C0130 + 0x80 * i
def BC_H_WCB_EVICT (i : Nat) : Nat := 0x1C0138 + 0x80 * i
def STR_STATUS : Nat := 0x200000
def STR_TG_MASK0 (i : Nat) : Nat := 0x201000 + 0x40 * i
def STR_TG_MASK1 (i : Nat) : Nat := 0x201008 + 0x40 * i
def STR_TG_MASK2 (i : Nat) : Nat := 0x201010 + 0x40 * i
def STR_TG_CTL (i : Nat) : Nat := 0x201018 + 0x40 * i
def STR_TG_STALL (i : Nat) : Nat := 0x201020 + 0x40 * i
def STR_MC_MASK0 (i : Nat) : Nat := 0x202000 + 0x20 * i
def STR_MC_MASK1 (i : Nat) : Nat := 0x202008 + 0x20 * i
def STR_MC_MASK2 (i : Nat) : Nat := 0x202010 + 0x20 * i
def STR_MC_CTL (i : Nat) : Nat := 0x202018 + 0x20 * i
def STR_Q_MAP (i : Nat) : Nat := 0x210000 + 0x40 * i
def STR_Q_STATUS (i : Nat) : Nat := 0x210008 + 0x40 * i
def STR_Q_DONE (i : Nat) : Nat := 0x210010 + 0x40 * i
def STR_Q_WM (i : Nat) : Nat := 0x210018 + 0x40 * i
def STR_Q_BYTES (i : Nat) : Nat := 0x210020 + 0x40 * i
def CHN_STATUS : Nat := 0x400000
def CHN_CTRL (i j : Nat) : Nat := 0x401000 + 0x1000 * i + 0x40 * j
def CHN_PTR (i j : Nat) : Nat := 0x401008 + 0x1000 * i + 0x40 * j
def CHN_HEAD (i j : Nat) : Nat := 0x401010 + 0x1000 * i + 0x40 * j
def CHN_WM (i j : Nat) : Nat := 0x401018 + 0x1000 * i + 0x40 * j
def CHN_DROPS (i j : Nat) : Nat := 0x401020 + 0x1000 * i + 0x40 * j
def CHN_ACCEPTS (i j : Nat) : Nat := 0x401028 + 0x1000 * i + 0x40 * j
def CHN_NOTICES (i : Nat) : Nat := 0x401800 + 0x1000 * i
def FAB_P_CTRL (i : Nat) : Nat := 0x130000 + 0x1000 * i
def FAB_P_STATUS (i : Nat) : Nat := 0x130008 + 0x1000 * i
def FAB_P_RING (i j : Nat) : Nat := 0x130100 + 0x1000 * i + 0x8 * j
def FAB_P_TX_PKTS (i : Nat) : Nat := 0x130200 + 0x1000 * i
def FAB_P_RX_PKTS (i : Nat) : Nat := 0x130208 + 0x1000 * i
def FAB_P_RETRIES (i : Nat) : Nat := 0x130210 + 0x1000 * i
def FAB_P_CRC_ERRORS (i : Nat) : Nat := 0x130218 + 0x1000 * i
def FAB_P_INJECTED (i : Nat) : Nat := 0x130220 + 0x1000 * i
def FAB_CTRL : Nat := 0x150000
def FAB_STATUS : Nat := 0x150008
def FAB_ID : Nat := 0x150010
def FAB_INJ_ENABLE : Nat := 0x150018
def FAB_NO_ROUTE_DROPS : Nat := 0x150100
def FAB_HOP_DROPS : Nat := 0x150108
def FAB_E2E_TIMEOUTS : Nat := 0x150110
def FAB_LATE : Nat := 0x150118
def FAB_TRANSIT : Nat := 0x150120
def FAB_LINKLOSS_DROPS : Nat := 0x150128
def FAB_ROUTE (i : Nat) : Nat := 0x151000 + 0x8 * i
def FAB_RMAP_CTRL (i : Nat) : Nat := 0x152000 + 0x20 * i
def FAB_RMAP_SLOT (i j : Nat) : Nat := 0x152008 + 0x20 * i + 0x8 * j
def FAB_INJ_MATCH (i : Nat) : Nat := 0x153000 + 0x20 * i
def FAB_INJ_ACTION (i : Nat) : Nat := 0x153008 + 0x20 * i
def FAB_INJ_SEED (i : Nat) : Nat := 0x153010 + 0x20 * i
def FAB_MC (i : Nat) : Nat := 0x154000 + 0x8 * i
def STG_STATUS : Nat := 0xC8000
def STG_VT_SEL : Nat := 0xC8008
def STG_VT_ARG : Nat := 0xC8010
def STG_VT_CMD : Nat := 0xC8018
def STG_VT_REC0 : Nat := 0xC8020
def STG_VT_REC1 : Nat := 0xC8028
def STG_S_CTRL (i : Nat) : Nat := 0xC8100 + 0x40 * i
def STG_S_STATUS (i : Nat) : Nat := 0xC8108 + 0x40 * i
def STG_S_BUSY (i : Nat) : Nat := 0xC8110 + 0x40 * i
def STG_S_BLOCKED (i : Nat) : Nat := 0xC8118 + 0x40 * i
def STG_S_STARVED (i : Nat) : Nat := 0xC8120 + 0x40 * i
def STG_P_CTRL (i : Nat) : Nat := 0xC9000 + 0x40 * i
def STG_P_PEER (i : Nat) : Nat := 0xC9008 + 0x40 * i
def STG_P_SPILL (i : Nat) : Nat := 0xC9010 + 0x40 * i
def STG_P_STATUS (i : Nat) : Nat := 0xC9018 + 0x40 * i
def STG_P_WM (i : Nat) : Nat := 0xC9020 + 0x40 * i
def STG_P_ENTRIES (i : Nat) : Nat := 0xC9028 + 0x40 * i
def STG_P_SPILLED (i : Nat) : Nat := 0xC9030 + 0x40 * i
def RED_STATUS : Nat := 0xD0000
def RED_CTRL : Nat := 0xD0008
def RED_LT : Nat := 0xD0010
def RED_NF_CAPTURE : Nat := 0xD0018
def RED_NF_TIDE : Nat := 0xD0020
def RED_FAIL : Nat := 0xD0028
def RED_LSEL : Nat := 0xD0030
def RED_LSTATE : Nat := 0xD0038
def RED_SEGMENTS : Nat := 0xD0100
def RED_BLOCKS : Nat := 0xD0108
def RED_TX_BYTES : Nat := 0xD0110
def RED_PEER_WAIT : Nat := 0xD0118
def UPD_STATUS : Nat := 0xE0000
def UPD_TABLE : Nat := 0xE0008
def UPD_RNG_KEY : Nat := 0xE0010
def UPD_NF_CAPTURE : Nat := 0xE0018
def UPD_NF_TIDE : Nat := 0xE0020
def UPD_FAIL : Nat := 0xE0028
def UPD_RUNS : Nat := 0xE0100
def UPD_ELEMENTS : Nat := 0xE0108
def UPD_ACTIVE : Nat := 0xE0110
def UPD_COMMIT (i : Nat) : Nat := 0xE1000 + 0x8 * i
def PAN_STATUS : Nat := 0xF0000
def PAN_RESERVE : Nat := 0xF0008
def PAN_FILL : Nat := 0xF0010
def PAN_CMD : Nat := 0xF0018
def PAN_RESTORE_SRC : Nat := 0xF0020
def PAN_SLOT_STATUS (i : Nat) : Nat := 0xF0100 + 0x40 * i
def PAN_SLOT_TIDE (i : Nat) : Nat := 0xF0108 + 0x40 * i
def PAN_SLOT_SEQ (i : Nat) : Nat := 0xF0110 + 0x40 * i
def PAN_SLOT_FILLED (i : Nat) : Nat := 0xF0118 + 0x40 * i
def PAN_SLOT_MIRRORED (i : Nat) : Nat := 0xF0120 + 0x40 * i
def PAN_SLOT_HARVESTED (i : Nat) : Nat := 0xF0128 + 0x40 * i
def PAN_D_CTRL (i : Nat) : Nat := 0xF1000 + 0x80 * i
def PAN_D_LIST (i : Nat) : Nat := 0xF1008 + 0x80 * i
def PAN_D_CURSOR (i : Nat) : Nat := 0xF1010 + 0x80 * i
def PAN_D_TRIG (i : Nat) : Nat := 0xF1018 + 0x80 * i
def PAN_D_BUDDY (i : Nat) : Nat := 0xF1020 + 0x80 * i
def PAN_D_STATUS (i : Nat) : Nat := 0xF1030 + 0x80 * i
def PAN_D_BUDDY_BASE (i : Nat) : Nat := 0xF1028 + 0x80 * i
def PAN_D_SEQ (i : Nat) : Nat := 0xF1038 + 0x80 * i
def PAN_SLUICE_HOLDS : Nat := 0xF0800
def PAN_SLUICE_WAIT : Nat := 0xF0808
def PAN_FILL_BYTES : Nat := 0xF0810
def PAN_MIR_BYTES : Nat := 0xF0818
def PAN_SKIPS : Nat := 0xF0820
def HRV_CTRL : Nat := 0xF8000
def HRV_PROTECT : Nat := 0xF8008
def HRV_STATUS : Nat := 0xF8010
def HRV_BYTES : Nat := 0xF8020
def HRV_CMDS : Nat := 0xF8028
def HRV_RETRIES : Nat := 0xF8030
def HRV_T_CTRL (i : Nat) : Nat := 0xF8100 + 0x20 * i
def HRV_T_BASE (i : Nat) : Nat := 0xF8108 + 0x20 * i
def HRV_T_COUNT (i : Nat) : Nat := 0xF8110 + 0x20 * i
def CHK_STATUS : Nat := 0x100000
def CHK_JOB : Nat := 0x100008
def CHK_RUN : Nat := 0x100010
def CHK_MAN_CTRL : Nat := 0x100018
def CHK_MAN_BASE : Nat := 0x100020
def CHK_MAN_SLOT_LBAS : Nat := 0x100028
def CHK_D_RECTAB (i : Nat) : Nat := 0x100100 + 0x20 * i
def CHK_D_FRAG (i : Nat) : Nat := 0x100108 + 0x20 * i
def CHK_D_FRAGTAB (i : Nat) : Nat := 0x100110 + 0x20 * i
def CHK_D_STATUS (i : Nat) : Nat := 0x100118 + 0x20 * i
def CHK_TAG_LO (i : Nat) : Nat := 0x100400 + 0x10 * i
def CHK_TAG_HI (i : Nat) : Nat := 0x100408 + 0x10 * i
def CHK_BYTES : Nat := 0x100800
def CHK_CMDS : Nat := 0x100808
def CHK_S_CTRL (i j : Nat) : Nat := 0x101000 + 0x1000 * i + 0x100 * j
def CHK_S_CMD (i j : Nat) : Nat := 0x101010 + 0x1000 * i + 0x100 * j
def CHK_S_STATUS (i j : Nat) : Nat := 0x101018 + 0x1000 * i + 0x100 * j
def CHK_S_SEQ (i j : Nat) : Nat := 0x101028 + 0x1000 * i + 0x100 * j
def CHK_S_MSGLEN (i j : Nat) : Nat := 0x101030 + 0x1000 * i + 0x100 * j
def CHK_S_SRC (i j : Nat) : Nat := 0x101008 + 0x1000 * i + 0x100 * j
def CHK_S_POS (i j : Nat) : Nat := 0x101020 + 0x1000 * i + 0x100 * j
def CHK_S_STATE0 (i j : Nat) : Nat := 0x101040 + 0x1000 * i + 0x100 * j
def CHK_S_STATE1 (i j : Nat) : Nat := 0x101048 + 0x1000 * i + 0x100 * j
def CHK_S_STATE2 (i j : Nat) : Nat := 0x101050 + 0x1000 * i + 0x100 * j
def CHK_S_STATE3 (i j : Nat) : Nat := 0x101058 + 0x1000 * i + 0x100 * j
def CHK_S_BUF0 (i j : Nat) : Nat := 0x101060 + 0x1000 * i + 0x100 * j
def CHK_S_BUF1 (i j : Nat) : Nat := 0x101068 + 0x1000 * i + 0x100 * j
def CHK_S_BUF2 (i j : Nat) : Nat := 0x101070 + 0x1000 * i + 0x100 * j
def CHK_S_BUF3 (i j : Nat) : Nat := 0x101078 + 0x1000 * i + 0x100 * j
def CHK_S_BUF4 (i j : Nat) : Nat := 0x101080 + 0x1000 * i + 0x100 * j
def CHK_S_BUF5 (i j : Nat) : Nat := 0x101088 + 0x1000 * i + 0x100 * j
def CHK_S_BUF6 (i j : Nat) : Nat := 0x101090 + 0x1000 * i + 0x100 * j
def CHK_S_BUF7 (i j : Nat) : Nat := 0x101098 + 0x1000 * i + 0x100 * j
def CHK_S_RESULT0 (i j : Nat) : Nat := 0x1010A0 + 0x1000 * i + 0x100 * j
def CHK_S_RESULT1 (i j : Nat) : Nat := 0x1010A8 + 0x1000 * i + 0x100 * j
def CHK_S_RESULT2 (i j : Nat) : Nat := 0x1010B0 + 0x1000 * i + 0x100 * j
def CHK_S_RESULT3 (i j : Nat) : Nat := 0x1010B8 + 0x1000 * i + 0x100 * j
def SPR_STATUS : Nat := 0x110000
def SPR_CTRL : Nat := 0x110008
def SPR_CMD : Nat := 0x110010
def SPR_LAST : Nat := 0x110018
def SPR_DIE_SPARES : Nat := 0x110020
def SPR_SWAPS : Nat := 0x110100
def SPR_TM_UE : Nat := 0x110108
def RPL_STATUS : Nat := 0x118000
def RPL_D_CTRL (i : Nat) : Nat := 0x118100 + 0x40 * i
def RPL_D_RING (i : Nat) : Nat := 0x118108 + 0x40 * i
def RPL_D_WIN (i : Nat) : Nat := 0x118110 + 0x40 * i
def RPL_D_RESULT (i : Nat) : Nat := 0x118120 + 0x40 * i
def RPL_D_REF (i : Nat) : Nat := 0x118118 + 0x40 * i
def RPL_RECORDS : Nat := 0x118800
def RPL_ITEMS : Nat := 0x118808
def COM_STATUS : Nat := 0x120000
def COM_CTRL : Nat := 0x120008
def COM_TABLE : Nat := 0x120010
def COM_OUTBUF : Nat := 0x120018
def COM_INBUF : Nat := 0x120020
def COM_PEERTAB : Nat := 0x120028
def COM_MREC (i : Nat) : Nat := 0x120030 + 0x8 * i
def COM_OUTER : Nat := 0x120040
def COM_CMD : Nat := 0x120048
def COM_OVERDUE : Nat := 0x120050
def COM_LEVELS : Nat := 0x120058
def COM_STALE_W (i : Nat) : Nat := 0x120080 + 0x8 * i
def COM_SITE_CTRL (i : Nat) : Nat := 0x120100 + 0x10 * i
def COM_SITE_STATUS (i : Nat) : Nat := 0x120108 + 0x10 * i
def COM_LANE (i : Nat) : Nat := 0x120600 + 0x8 * i
def COM_TX_COMETS : Nat := 0x120800
def COM_RX_COMETS : Nat := 0x120808
def COM_DISCARDS : Nat := 0x120810
def COM_RECOVERED : Nat := 0x120818
def COM_RESENDS : Nat := 0x120820
def COM_OUT_WAIT : Nat := 0x120828
def PRT_STATUS : Nat := 0xC0000
def PRT_CMD : Nat := 0xC0010
def PRT_CTRL (i : Nat) : Nat := 0xC0100 + 0x100 * i
def PRT_TILES0 (i : Nat) : Nat := 0xC0108 + 0x100 * i
def PRT_TILES1 (i : Nat) : Nat := 0xC0110 + 0x100 * i
def PRT_TILES2 (i : Nat) : Nat := 0xC0118 + 0x100 * i
def PRT_BW (i : Nat) : Nat := 0xC0120 + 0x100 * i
def PRT_PSTATUS (i : Nat) : Nat := 0xC0128 + 0x100 * i
def PRT_DISPLACED (i : Nat) : Nat := 0xC0130 + 0x100 * i
def PRT_SWITCHES (i : Nat) : Nat := 0xC0138 + 0x100 * i
def PRT_FORCED (i : Nat) : Nat := 0xC0140 + 0x100 * i
def PRT_WIN_LO (i j : Nat) : Nat := 0xC0180 + 0x100 * i + 0x10 * j
def PRT_WIN_HI (i j : Nat) : Nat := 0xC0188 + 0x100 * i + 0x10 * j
def CTX_CTRL (i : Nat) : Nat := 0x80000 + 0x40 * i
def CTX_HOST (i : Nat) : Nat := 0x80008 + 0x40 * i
def CTX_SCHED (i : Nat) : Nat := 0x80010 + 0x40 * i
def CTX_SAVE (i : Nat) : Nat := 0x80018 + 0x40 * i
def CTX_STATUS (i : Nat) : Nat := 0x80020 + 0x40 * i
def CTX_CREDIT (i : Nat) : Nat := 0x80028 + 0x40 * i
def CTX_TILE_CYC (i : Nat) : Nat := 0x80030 + 0x40 * i
def CTX_DISPLACED (i : Nat) : Nat := 0x80038 + 0x40 * i
def HIF_STATUS : Nat := 0x30000
def HIF_CTRL : Nat := 0x30008
def HIF_QPTAB : Nat := 0x30010
def HIF_ETH_STATUS (i : Nat) : Nat := 0x30018 + 0x8 * i
def HIF_H2D_BYTES : Nat := 0x30100
def HIF_D2H_BYTES : Nat := 0x30108
def HIF_CMDS : Nat := 0x30110
def HIF_ETH0_TX_BYTES : Nat := 0x30118
def HIF_ETH0_RX_BYTES : Nat := 0x30120
def HIF_ETH1_TX_BYTES : Nat := 0x30128
def HIF_ETH1_RX_BYTES : Nat := 0x30130
def HIF_ETH_DROPS : Nat := 0x30138
def HIF_FEC_CORR : Nat := 0x30140
def HIF_VF_P (i j : Nat) : Nat := 0x38000 + 0x200 * i + 0x8 * j
def MGT_STATUS : Nat := 0x0
def MGT_CMD : Nat := 0x8
def MGT_CMD_STATUS : Nat := 0x10
def MGT_TELEM : Nat := 0x28
def MGT_ARG0 : Nat := 0x18
def MGT_ARG1 : Nat := 0x20
def MGT_SIGN_R (i : Nat) : Nat := 0x100 + 0x8 * i
def MGT_SIGN_S (i : Nat) : Nat := 0x130 + 0x8 * i
def CFG_STATUS : Nat := 0x8000
def CFG_SRC : Nat := 0x8008
def CFG_CMD : Nat := 0x8010
def ERR_STATUS : Nat := 0x10000
def ERR_CTRL : Nat := 0x10008
def ERR_PTR : Nat := 0x10010
def ERR_FIRST (i : Nat) : Nat := 0x10020 + 0x8 * i
def ERR_FATAL (i : Nat) : Nat := 0x10040 + 0x8 * i
def ERR_POSTED : Nat := 0x10100
def ERR_LOST : Nat := 0x10108
def ERR_ENTRY (i j : Nat) : Nat := 0x11000 + 0x20 * i + 0x8 * j
def PWR_STATUS : Nat := 0x20000
def PWR_CTRL : Nat := 0x20008
def PWR_CLOCK : Nat := 0x20010
def PWR_SURGE : Nat := 0x20018
def PWR_PKG : Nat := 0x20020
def PWR_RAIL (i : Nat) : Nat := 0x20100 + 0x8 * i
def PWR_DIE (i : Nat) : Nat := 0x20200 + 0x8 * i
def PWR_ENERGY : Nat := 0x20800
def PWR_SURGE_US : Nat := 0x20808
def PWR_LIMIT_US : Nat := 0x20810
def PWR_THERM_US : Nat := 0x20818
def PWR_CLAMPS : Nat := 0x20820
def PWR_STRETCH : Nat := 0x20828
def DB_SQ_TAIL (i : Nat) : Nat := 0x4000000 + 0x1000 * i
def DB_CQ_HEAD (i : Nat) : Nat := 0x4000008 + 0x1000 * i
def DB_WAKE (i : Nat) : Nat := 0x4000010 + 0x1000 * i
def DB_CTRL (i : Nat) : Nat := 0x4000018 + 0x1000 * i
def Q_SQ_BASE (i : Nat) : Nat := 0x4000100 + 0x1000 * i
def Q_CQ_BASE (i : Nat) : Nat := 0x4000108 + 0x1000 * i
def Q_CFG (i : Nat) : Nat := 0x4000110 + 0x1000 * i
def Q_STATUS (i : Nat) : Nat := 0x4000118 + 0x1000 * i
end Reg

namespace F
def FLR_STATUS_BAD_WRITE : Fld := ⟨5, 5⟩
def FLR_STATUS_LINK_FATAL : Fld := ⟨4, 4⟩
def FLR_STATUS_LINK_DEGRADED : Fld := ⟨3, 3⟩
def FLR_STATUS_REPAIR_USED : Fld := ⟨2, 2⟩
def FLR_STATUS_PIN_BUSY : Fld := ⟨1, 1⟩
def FLR_TILE_MAP_SWAPS : Fld := ⟨15, 8⟩
def FLR_TILE_MAP_PHYS : Fld := ⟨7, 0⟩
def FLR_PTILE_LOGICAL : Fld := ⟨15, 8⟩
def FLR_PTILE_STATE : Fld := ⟨1, 0⟩
def FLR_PIN_V : Fld := ⟨63, 0⟩
def FLR_LINK_STATUS_REPAIRS : Fld := ⟨42, 32⟩
def FLR_LINK_STATUS_DIR1_BUNDLES : Fld := ⟨24, 16⟩
def FLR_LINK_STATUS_DIR0_BUNDLES : Fld := ⟨8, 0⟩
def FLR_TRIM_SEL_LINK : Fld := ⟨19, 17⟩
def FLR_TRIM_SEL_DIR : Fld := ⟨16, 16⟩
def FLR_TRIM_SEL_BUNDLE : Fld := ⟨15, 8⟩
def FLR_TRIM_SEL_SIGNAL : Fld := ⟨7, 0⟩
def FLR_TRIM_DATA_MARGIN : Fld := ⟨23, 16⟩
def FLR_TRIM_DATA_REPAIRED : Fld := ⟨15, 15⟩
def FLR_TRIM_DATA_FAILED : Fld := ⟨14, 14⟩
def FLR_TRIM_DATA_COARSE : Fld := ⟨9, 8⟩
def FLR_TRIM_DATA_FINE : Fld := ⟨5, 0⟩
def TIDE_STATUS_PIN_OVERRUN : Fld := ⟨2, 2⟩
def TIDE_STATUS_MULTI_MATCH : Fld := ⟨1, 1⟩
def TIDE_STATUS_BAD_WRITE : Fld := ⟨0, 0⟩
def TIDE_PIN_CTRL_EN : Fld := ⟨5, 5⟩
def TIDE_PIN_CTRL_EDGE : Fld := ⟨4, 4⟩
def TIDE_PIN_CTRL_DOMAIN : Fld := ⟨3, 0⟩
def TIDE_CTRL_OUTER_EVERY : Fld := ⟨47, 32⟩
def TIDE_CTRL_FUNC : Fld := ⟨21, 16⟩
def TIDE_CTRL_AUTO_PAUSE : Fld := ⟨4, 4⟩
def TIDE_CTRL_ROLE : Fld := ⟨1, 0⟩
def TIDE_VALUE_STEP : Fld := ⟨63, 24⟩
def TIDE_VALUE_PHASE : Fld := ⟨23, 16⟩
def TIDE_VALUE_TICK : Fld := ⟨15, 0⟩
def TIDE_TARGET_V : Fld := ⟨63, 0⟩
def TIDE_ADVANCE_KIND : Fld := ⟨1, 0⟩
def TIDE_READY_READY : Fld := ⟨63, 0⟩
def TIDE_GATE_GATE7 : Fld := ⟨63, 63⟩
def TIDE_GATE_GATE6 : Fld := ⟨55, 55⟩
def TIDE_GATE_GATE5 : Fld := ⟨47, 47⟩
def TIDE_GATE_GATE4 : Fld := ⟨39, 39⟩
def TIDE_GATE_GATE3 : Fld := ⟨31, 31⟩
def TIDE_GATE_GATE2 : Fld := ⟨23, 23⟩
def TIDE_GATE_GATE1 : Fld := ⟨15, 15⟩
def TIDE_GATE_GATE0 : Fld := ⟨7, 7⟩
def TIDE_GATE_SRC7 : Fld := ⟨60, 56⟩
def TIDE_GATE_SRC6 : Fld := ⟨52, 48⟩
def TIDE_GATE_SRC5 : Fld := ⟨44, 40⟩
def TIDE_GATE_SRC4 : Fld := ⟨36, 32⟩
def TIDE_GATE_SRC3 : Fld := ⟨28, 24⟩
def TIDE_GATE_SRC2 : Fld := ⟨20, 16⟩
def TIDE_GATE_SRC1 : Fld := ⟨12, 8⟩
def TIDE_GATE_SRC0 : Fld := ⟨4, 0⟩
def TIDE_PARENT_VALID : Fld := ⟨31, 31⟩
def TIDE_PARENT_PORT : Fld := ⟨20, 16⟩
def TIDE_PARENT_DEVICE : Fld := ⟨12, 0⟩
def TIDE_CHILD_VALID : Fld := ⟨31, 31⟩
def TIDE_CHILD_PORT : Fld := ⟨20, 16⟩
def TIDE_CHILD_DEVICE : Fld := ⟨12, 0⟩
def TIDE_DSTATUS_STALE : Fld := ⟨15, 15⟩
def TIDE_DSTATUS_STALE_SEEN : Fld := ⟨14, 14⟩
def TIDE_DSTATUS_TIDE_END : Fld := ⟨13, 13⟩
def TIDE_DSTATUS_PARENT_LOST : Fld := ⟨12, 12⟩
def TIDE_DSTATUS_LOST_SEEN : Fld := ⟨11, 11⟩
def TIDE_DSTATUS_TIMER_MERGED : Fld := ⟨10, 10⟩
def TIDE_DSTATUS_PENDING : Fld := ⟨9, 9⟩
def TIDE_DSTATUS_SELF_READY : Fld := ⟨8, 8⟩
def TIDE_DSTATUS_LOST_CHILD : Fld := ⟨6, 0⟩
def TIDE_FENCE_WAIT_WAIT_NS : Fld := ⟨31, 0⟩
def TIDE_TIMER_EN : Fld := ⟨63, 63⟩
def TIDE_TIMER_PERIOD_S : Fld := ⟨16, 0⟩
def TIDE_TIMER_ACT_ARG : Fld := ⟨63, 48⟩
def TIDE_TIMER_ACT_ACTIONS : Fld := ⟨31, 16⟩
def TIDE_MODE_REC_V : Fld := ⟨63, 0⟩
def TIDE_MODE_CMD_DEVICE : Fld := ⟨28, 16⟩
def TIDE_MODE_CMD_CMD : Fld := ⟨1, 0⟩
def TIDE_MODE_STATUS_GEN : Fld := ⟨63, 32⟩
def TIDE_MODE_STATUS_COMPLETION : Fld := ⟨31, 24⟩
def TIDE_MODE_STATUS_STATE : Fld := ⟨1, 0⟩
def TIDE_SLOT_VALUE_V : Fld := ⟨63, 0⟩
def TIDE_SLOT_CTRL_ARG : Fld := ⟨63, 48⟩
def TIDE_SLOT_CTRL_ACTIONS : Fld := ⟨31, 16⟩
def TIDE_SLOT_CTRL_SUPPRESSED : Fld := ⟨2, 2⟩
def TIDE_SLOT_CTRL_FIRED : Fld := ⟨1, 1⟩
def TIDE_SLOT_CTRL_ENABLE : Fld := ⟨0, 0⟩
def TILE_CTRL_STEP : Fld := ⟨2, 2⟩
def TILE_CTRL_RESUME : Fld := ⟨1, 1⟩
def TILE_CTRL_STOP : Fld := ⟨0, 0⟩
def TILE_STATUS_BAD_WRITE : Fld := ⟨11, 11⟩
def TILE_STATUS_RING_UNDERRUN : Fld := ⟨10, 10⟩
def TILE_STATUS_DUP_LDONE : Fld := ⟨9, 9⟩
def TILE_STATUS_NACK_OVF : Fld := ⟨8, 8⟩
def TILE_STATUS_NACKED : Fld := ⟨7, 7⟩
def TILE_STATUS_WAIT : Fld := ⟨6, 4⟩
def TILE_STATUS_STATE : Fld := ⟨2, 0⟩
def TILE_PC_PC : Fld := ⟨21, 0⟩
def TILE_PROG_LIMIT : Fld := ⟨54, 32⟩
def TILE_PROG_BASE : Fld := ⟨21, 0⟩
def TILE_FAULT_VALID : Fld := ⟨63, 63⟩
def TILE_FAULT_IMPRECISE : Fld := ⟨62, 62⟩
def TILE_FAULT_SLOT : Fld := ⟨57, 56⟩
def TILE_FAULT_CODE : Fld := ⟨55, 48⟩
def TILE_FAULT_PC : Fld := ⟨21, 0⟩
def TILE_CTX_PRESENT : Fld := ⟨20, 20⟩
def TILE_CTX_EPOCH : Fld := ⟨19, 12⟩
def TILE_CTX_CONTEXT : Fld := ⟨11, 0⟩
def TILE_RNG_KEY_V : Fld := ⟨63, 0⟩
def TILE_RNG_CTR_LO_V : Fld := ⟨63, 0⟩
def TILE_RNG_CTR_HI_V : Fld := ⟨63, 0⟩
def TILE_NACK_LOG_VALID : Fld := ⟨63, 63⟩
def TILE_NACK_LOG_REASON : Fld := ⟨43, 40⟩
def TILE_NACK_LOG_COMPLETION : Fld := ⟨39, 32⟩
def TILE_NACK_LOG_CHANNEL : Fld := ⟨31, 0⟩
def TILE_SREG_V : Fld := ⟨63, 0⟩
def TILE_AREG_V : Fld := ⟨63, 0⟩
def TILE_PREG_P : Fld := ⟨7, 0⟩
def TILE_VREG_V : Fld := ⟨63, 0⟩
def MXE_CTRL_QUAD_CONC : Fld := ⟨1, 1⟩
def MXE_CTRL_GATE : Fld := ⟨0, 0⟩
def MXE_STATUS_BAD_WRITE : Fld := ⟨12, 12⟩
def MXE_STATUS_INT_WRAP : Fld := ⟨11, 11⟩
def MXE_STATUS_OUT_SAT : Fld := ⟨10, 10⟩
def MXE_STATUS_NF_OUT : Fld := ⟨9, 9⟩
def MXE_STATUS_NF_ACC : Fld := ⟨8, 8⟩
def MXE_STATUS_NF_IN : Fld := ⟨7, 7⟩
def MXE_STATUS_QUADS_BUSY : Fld := ⟨6, 3⟩
def MXE_STATUS_QUEUE : Fld := ⟨2, 0⟩
def MXE_NF_CAPTURE_VALID : Fld := ⟨63, 63⟩
def MXE_NF_CAPTURE_KIND : Fld := ⟨57, 56⟩
def MXE_NF_CAPTURE_OPC : Fld := ⟨55, 52⟩
def MXE_NF_CAPTURE_BANK : Fld := ⟨51, 50⟩
def MXE_NF_CAPTURE_FMT : Fld := ⟨49, 46⟩
def MXE_NF_CAPTURE_PC : Fld := ⟨21, 0⟩
def MXE_NF_TIDE_TIDE : Fld := ⟨63, 0⟩
def MXE_REPAIR_BAD_COL1 : Fld := ⟨31, 24⟩
def MXE_REPAIR_BAD_COL0 : Fld := ⟨23, 16⟩
def MXE_REPAIR_BAD_ROW1 : Fld := ⟨15, 8⟩
def MXE_REPAIR_BAD_ROW0 : Fld := ⟨7, 0⟩
def VEC_STATUS_BAD_WRITE : Fld := ⟨5, 5⟩
def VEC_STATUS_OUT_SAT : Fld := ⟨4, 4⟩
def VEC_STATUS_INF_GEN : Fld := ⟨3, 3⟩
def VEC_STATUS_NAN_GEN : Fld := ⟨2, 2⟩
def VEC_STATUS_NAN_IN : Fld := ⟨1, 1⟩
def VEC_STATUS_BUSY : Fld := ⟨0, 0⟩
def VEC_NF_CAPTURE_VALID : Fld := ⟨63, 63⟩
def VEC_NF_CAPTURE_KIND : Fld := ⟨57, 56⟩
def VEC_NF_CAPTURE_OPC : Fld := ⟨55, 48⟩
def VEC_NF_CAPTURE_FUNC : Fld := ⟨47, 40⟩
def VEC_NF_CAPTURE_FMT : Fld := ⟨39, 36⟩
def VEC_NF_CAPTURE_PC : Fld := ⟨21, 0⟩
def VEC_NF_TIDE_TIDE : Fld := ⟨63, 0⟩
def MEM_STATUS_HOT : Fld := ⟨15, 8⟩
def MEM_STATUS_BAD_WRITE : Fld := ⟨7, 7⟩
def MEM_STATUS_UE_LOG_OVF : Fld := ⟨6, 6⟩
def MEM_STATUS_SCRUB_LATE : Fld := ⟨5, 5⟩
def MEM_STATUS_SCRUB_UE : Fld := ⟨4, 4⟩
def MEM_STATUS_MISDIRECT : Fld := ⟨3, 3⟩
def MEM_STATUS_STATE : Fld := ⟨1, 0⟩
def MEM_ECC_CORRECT4 : Fld := ⟨7, 0⟩
def MEM_SCRUB_PROGRESS : Fld := ⟨31, 16⟩
def MEM_SCRUB_PERIOD_H : Fld := ⟨7, 0⟩
def MEM_MAINT_REQ : Fld := ⟨0, 0⟩
def MEM_LB_CTRL_STACK : Fld := ⟨10, 8⟩
def MEM_LB_CTRL_PATTERN : Fld := ⟨5, 4⟩
def MEM_LB_CTRL_POINT : Fld := ⟨1, 1⟩
def MEM_LB_CTRL_RUN : Fld := ⟨0, 0⟩
def MEM_LB_STATUS_CHFAIL : Fld := ⟨63, 32⟩
def MEM_LB_STATUS_FIRST_LANE : Fld := ⟨31, 24⟩
def MEM_LB_STATUS_FIRST_CH : Fld := ⟨12, 8⟩
def MEM_LB_STATUS_ACTIVE : Fld := ⟨0, 0⟩
def MEM_UE_LOG_VALID : Fld := ⟨63, 63⟩
def MEM_UE_LOG_KIND : Fld := ⟨62, 61⟩
def MEM_UE_LOG_LINE : Fld := ⟨38, 6⟩
def MEM_S_STATUS_TEMP : Fld := ⟨23, 16⟩
def MEM_S_STATUS_HOT : Fld := ⟨1, 1⟩
def MEM_S_STATUS_TRAINED : Fld := ⟨0, 0⟩
def BC_CTRL_WCB_TIMEOUT : Fld := ⟨31, 16⟩
def BC_CTRL_KEEP_WAYS : Fld := ⟨3, 0⟩
def BC_STATUS_WCB_LEVEL1 : Fld := ⟨41, 32⟩
def BC_STATUS_WCB_LEVEL0 : Fld := ⟨25, 16⟩
def BC_STATUS_FLUSH_BUSY : Fld := ⟨2, 2⟩
def BC_STATUS_MERGE_POISON : Fld := ⟨1, 1⟩
def BC_STATUS_BAD_WRITE : Fld := ⟨0, 0⟩
def BC_FLUSH_CTX_SCOPE : Fld := ⟨28, 28⟩
def BC_FLUSH_CONTEXT : Fld := ⟨27, 16⟩
def BC_FLUSH_OP : Fld := ⟨1, 0⟩
def STR_STATUS_MULTI_MATCH : Fld := ⟨1, 1⟩
def STR_STATUS_BAD_WRITE : Fld := ⟨0, 0⟩
def STR_TG_MASK0_V : Fld := ⟨63, 0⟩
def STR_TG_MASK1_V : Fld := ⟨63, 0⟩
def STR_TG_MASK2_V : Fld := ⟨15, 0⟩
def STR_TG_CTL_VALID : Fld := ⟨63, 63⟩
def STR_TG_CTL_CONTEXT : Fld := ⟨11, 0⟩
def STR_MC_MASK0_V : Fld := ⟨63, 0⟩
def STR_MC_MASK1_V : Fld := ⟨63, 0⟩
def STR_MC_MASK2_V : Fld := ⟨15, 0⟩
def STR_MC_CTL_VALID : Fld := ⟨63, 63⟩
def STR_MC_CTL_CONTEXT : Fld := ⟨11, 0⟩
def STR_Q_MAP_VALID : Fld := ⟨63, 63⟩
def STR_Q_MAP_STANDBY : Fld := ⟨62, 62⟩
def STR_Q_MAP_GROUP : Fld := ⟨61, 56⟩
def STR_Q_MAP_LIMIT : Fld := ⟨47, 40⟩
def STR_Q_MAP_WEIGHT : Fld := ⟨39, 36⟩
def STR_Q_MAP_CTXQ : Fld := ⟨35, 30⟩
def STR_Q_MAP_CONTEXT : Fld := ⟨27, 16⟩
def STR_Q_STATUS_LAST_CODE : Fld := ⟨39, 32⟩
def STR_Q_STATUS_OUTSTANDING : Fld := ⟨24, 16⟩
def STR_Q_STATUS_NOT_DONE : Fld := ⟨4, 4⟩
def STR_Q_STATUS_ISSUING : Fld := ⟨3, 3⟩
def STR_Q_STATUS_STATE : Fld := ⟨1, 0⟩
def STR_Q_DONE_COUNT : Fld := ⟨31, 0⟩
def STR_Q_WM_NOTICE : Fld := ⟨63, 63⟩
def STR_Q_WM_ARMED : Fld := ⟨62, 62⟩
def STR_Q_WM_LEVEL : Fld := ⟨58, 48⟩
def STR_Q_WM_COUNT : Fld := ⟨47, 32⟩
def STR_Q_WM_HIGH : Fld := ⟨26, 16⟩
def STR_Q_WM_LOW : Fld := ⟨10, 0⟩
def CHN_STATUS_BAD_WRITE : Fld := ⟨0, 0⟩
def CHN_CTRL_ENABLE : Fld := ⟨63, 63⟩
def CHN_CTRL_PAUSE : Fld := ⟨62, 62⟩
def CHN_CTRL_NOTICE_IRQ : Fld := ⟨61, 61⟩
def CHN_CTRL_VECTOR : Fld := ⟨60, 50⟩
def CHN_CTRL_SIZE : Fld := ⟨49, 46⟩
def CHN_CTRL_EPOCH : Fld := ⟨43, 36⟩
def CHN_CTRL_CONTEXT : Fld := ⟨35, 24⟩
def CHN_CTRL_BASE : Fld := ⟨21, 7⟩
def CHN_PTR_LAST_REASON : Fld := ⟨63, 60⟩
def CHN_PTR_WP : Fld := ⟨31, 16⟩
def CHN_PTR_RP : Fld := ⟨15, 0⟩
def CHN_HEAD_V : Fld := ⟨63, 0⟩
def CHN_WM_NOTICE : Fld := ⟨63, 63⟩
def CHN_WM_ARMED : Fld := ⟨62, 62⟩
def CHN_WM_LEVEL : Fld := ⟨58, 48⟩
def CHN_WM_COUNT : Fld := ⟨47, 32⟩
def CHN_WM_HIGH : Fld := ⟨26, 16⟩
def CHN_WM_LOW : Fld := ⟨10, 0⟩
def CHN_NOTICES_V : Fld := ⟨31, 0⟩
def FAB_P_CTRL_ENABLE : Fld := ⟨63, 63⟩
def FAB_P_CTRL_W_REDUCE : Fld := ⟨23, 20⟩
def FAB_P_CTRL_W_STAGE : Fld := ⟨19, 16⟩
def FAB_P_CTRL_W_DATA : Fld := ⟨15, 12⟩
def FAB_P_STATUS_PEER_PORT : Fld := ⟨36, 32⟩
def FAB_P_STATUS_PEER_DEVICE : Fld := ⟨28, 16⟩
def FAB_P_STATUS_LANES : Fld := ⟨15, 8⟩
def FAB_P_STATUS_CTRL_LOCK : Fld := ⟨7, 7⟩
def FAB_P_STATUS_RETRY_EXHAUSTED : Fld := ⟨6, 6⟩
def FAB_P_STATUS_LOCK_LOST : Fld := ⟨5, 5⟩
def FAB_P_STATUS_STATE : Fld := ⟨2, 0⟩
def FAB_P_RING_HEATER : Fld := ⟨31, 16⟩
def FAB_P_RING_MARGIN : Fld := ⟨15, 8⟩
def FAB_P_RING_LOCKED : Fld := ⟨0, 0⟩
def FAB_CTRL_UNIFORM : Fld := ⟨63, 63⟩
def FAB_CTRL_HOP_LIMIT : Fld := ⟨27, 24⟩
def FAB_CTRL_E2E_US : Fld := ⟨15, 0⟩
def FAB_STATUS_MCAST_PORT : Fld := ⟨5, 5⟩
def FAB_STATUS_RMAP_FAULT : Fld := ⟨4, 4⟩
def FAB_STATUS_HOP_DROP : Fld := ⟨3, 3⟩
def FAB_STATUS_NO_ROUTE : Fld := ⟨2, 2⟩
def FAB_STATUS_MULTI_MATCH : Fld := ⟨1, 1⟩
def FAB_STATUS_BAD_WRITE : Fld := ⟨0, 0⟩
def FAB_ID_ID : Fld := ⟨12, 0⟩
def FAB_INJ_ENABLE_V : Fld := ⟨31, 0⟩
def FAB_ROUTE_VALID : Fld := ⟨63, 63⟩
def FAB_ROUTE_PRIO : Fld := ⟨62, 61⟩
def FAB_ROUTE_HI : Fld := ⟨60, 48⟩
def FAB_ROUTE_LO : Fld := ⟨44, 32⟩
def FAB_ROUTE_PORTS : Fld := ⟨31, 0⟩
def FAB_RMAP_CTRL_PHASED : Fld := ⟨63, 63⟩
def FAB_RMAP_CTRL_LOADING : Fld := ⟨16, 16⟩
def FAB_RMAP_CTRL_PHASE_SLOT : Fld := ⟨15, 8⟩
def FAB_RMAP_CTRL_CURRENT : Fld := ⟨0, 0⟩
def FAB_RMAP_SLOT_COUNT : Fld := ⟨63, 50⟩
def FAB_RMAP_SLOT_BASE : Fld := ⟨47, 0⟩
def FAB_INJ_MATCH_PORTS : Fld := ⟨63, 32⟩
def FAB_INJ_MATCH_CTX_EN : Fld := ⟨31, 31⟩
def FAB_INJ_MATCH_CONTEXT : Fld := ⟨30, 19⟩
def FAB_INJ_MATCH_DEV_EN : Fld := ⟨18, 18⟩
def FAB_INJ_MATCH_DEVICE : Fld := ⟨17, 5⟩
def FAB_INJ_MATCH_CLASSES : Fld := ⟨4, 0⟩
def FAB_INJ_ACTION_ACTION : Fld := ⟨63, 62⟩
def FAB_INJ_ACTION_DEPTH : Fld := ⟨61, 58⟩
def FAB_INJ_ACTION_RATE : Fld := ⟨47, 32⟩
def FAB_INJ_ACTION_LIMIT : Fld := ⟨31, 16⟩
def FAB_INJ_ACTION_TAKEN : Fld := ⟨15, 0⟩
def FAB_INJ_SEED_STATE : Fld := ⟨31, 0⟩
def FAB_MC_VALID : Fld := ⟨63, 63⟩
def FAB_MC_ROOT : Fld := ⟨62, 62⟩
def FAB_MC_LOCAL : Fld := ⟨61, 61⟩
def FAB_MC_UP_PORT : Fld := ⟨60, 56⟩
def FAB_MC_CONTEXT : Fld := ⟨55, 44⟩
def FAB_MC_DOWN : Fld := ⟨31, 0⟩
def STG_STATUS_LAST_CMD : Fld := ⟨15, 8⟩
def STG_STATUS_RELEASE_EMPTY : Fld := ⟨6, 6⟩
def STG_STATUS_PORT_HALT : Fld := ⟨5, 5⟩
def STG_STATUS_VER_NOT_LIVE : Fld := ⟨4, 4⟩
def STG_STATUS_REF_OVERFLOW : Fld := ⟨3, 3⟩
def STG_STATUS_REF_UNDERFLOW : Fld := ⟨2, 2⟩
def STG_STATUS_MULTI_MATCH : Fld := ⟨1, 1⟩
def STG_STATUS_BAD_WRITE : Fld := ⟨0, 0⟩
def STG_VT_SEL_VER : Fld := ⟨14, 12⟩
def STG_VT_SEL_LAYER : Fld := ⟨11, 0⟩
def STG_VT_ARG_CONTEXT : Fld := ⟨59, 48⟩
def STG_VT_ARG_BASE : Fld := ⟨47, 12⟩
def STG_VT_ARG_SUP_VALID : Fld := ⟨3, 3⟩
def STG_VT_ARG_SUPERSEDE : Fld := ⟨2, 0⟩
def STG_VT_CMD_CMD : Fld := ⟨3, 0⟩
def STG_VT_REC0_CONTEXT : Fld := ⟨59, 48⟩
def STG_VT_REC0_BASE : Fld := ⟨47, 12⟩
def STG_VT_REC1_REFCOUNT : Fld := ⟨63, 48⟩
def STG_VT_REC1_PUB_PENDING : Fld := ⟨7, 7⟩
def STG_VT_REC1_SUPERSEDE : Fld := ⟨6, 4⟩
def STG_VT_REC1_SUP_VALID : Fld := ⟨3, 3⟩
def STG_VT_REC1_STATE : Fld := ⟨1, 0⟩
def STG_S_CTRL_VALID : Fld := ⟨63, 63⟩
def STG_S_CTRL_GROUP : Fld := ⟨57, 52⟩
def STG_S_CTRL_LAYER_HI : Fld := ⟨51, 40⟩
def STG_S_CTRL_LAYER_LO : Fld := ⟨39, 28⟩
def STG_S_CTRL_PIPE_RANK : Fld := ⟨22, 12⟩
def STG_S_CTRL_CONTEXT : Fld := ⟨11, 0⟩
def STG_S_STATUS_INFLIGHT : Fld := ⟨8, 0⟩
def STG_P_CTRL_ENABLE : Fld := ⟨63, 63⟩
def STG_P_CTRL_DIR : Fld := ⟨62, 62⟩
def STG_P_CTRL_REF : Fld := ⟨61, 60⟩
def STG_P_CTRL_STAGE : Fld := ⟨59, 56⟩
def STG_P_CTRL_CTXP : Fld := ⟨53, 48⟩
def STG_P_CTRL_TILE : Fld := ⟨47, 40⟩
def STG_P_CTRL_HOLD : Fld := ⟨37, 36⟩
def STG_P_CTRL_LAND_SLOTS : Fld := ⟨35, 32⟩
def STG_P_CTRL_MAX_LEN : Fld := ⟨31, 20⟩
def STG_P_CTRL_LAND_BASE : Fld := ⟨15, 0⟩
def STG_P_PEER_PEER_PORT : Fld := ⟨39, 32⟩
def STG_P_PEER_PEER_RANK : Fld := ⟨12, 0⟩
def STG_P_SPILL_SLOTS : Fld := ⟨58, 48⟩
def STG_P_SPILL_BASE : Fld := ⟨47, 0⟩
def STG_P_STATUS_LAST_CODE : Fld := ⟨63, 56⟩
def STG_P_STATUS_PEER_DEVICE : Fld := ⟨55, 43⟩
def STG_P_STATUS_OUTSTANDING : Fld := ⟨42, 32⟩
def STG_P_STATUS_CREDITS : Fld := ⟨31, 21⟩
def STG_P_STATUS_SPILL_LEVEL : Fld := ⟨20, 10⟩
def STG_P_STATUS_HELD : Fld := ⟨9, 7⟩
def STG_P_STATUS_STATE : Fld := ⟨1, 0⟩
def STG_P_WM_NOTICE : Fld := ⟨63, 63⟩
def STG_P_WM_ARMED : Fld := ⟨62, 62⟩
def STG_P_WM_LEVEL : Fld := ⟨58, 48⟩
def STG_P_WM_COUNT : Fld := ⟨47, 32⟩
def STG_P_WM_HIGH : Fld := ⟨26, 16⟩
def STG_P_WM_LOW : Fld := ⟨10, 0⟩
def RED_STATUS_LATE_PACKET : Fld := ⟨4, 4⟩
def RED_STATUS_SEG_FAIL : Fld := ⟨3, 3⟩
def RED_STATUS_RES_INF : Fld := ⟨2, 2⟩
def RED_STATUS_NF_IN : Fld := ⟨1, 1⟩
def RED_STATUS_BAD_WRITE : Fld := ⟨0, 0⟩
def RED_CTRL_WINDOW : Fld := ⟨3, 0⟩
def RED_LT_COUNT : Fld := ⟨60, 48⟩
def RED_LT_BASE : Fld := ⟨47, 0⟩
def RED_NF_CAPTURE_VALID : Fld := ⟨63, 63⟩
def RED_NF_CAPTURE_KIND : Fld := ⟨62, 62⟩
def RED_NF_CAPTURE_LAYER : Fld := ⟨43, 32⟩
def RED_NF_CAPTURE_SEG : Fld := ⟨31, 24⟩
def RED_NF_CAPTURE_BLOCK : Fld := ⟨23, 0⟩
def RED_NF_TIDE_V : Fld := ⟨63, 0⟩
def RED_FAIL_VALID : Fld := ⟨63, 63⟩
def RED_FAIL_CODE : Fld := ⟨55, 48⟩
def RED_FAIL_LAYER : Fld := ⟨43, 32⟩
def RED_FAIL_SEG : Fld := ⟨31, 24⟩
def RED_FAIL_STEP : Fld := ⟨23, 0⟩
def RED_LSEL_LAYER : Fld := ⟨11, 0⟩
def RED_LSTATE_STEP : Fld := ⟨63, 24⟩
def RED_LSTATE_LDONES : Fld := ⟨23, 16⟩
def RED_LSTATE_CODE : Fld := ⟨15, 8⟩
def RED_LSTATE_STATE : Fld := ⟨2, 0⟩
def UPD_STATUS_MULTI_MATCH : Fld := ⟨6, 6⟩
def UPD_STATUS_OUT_SAT : Fld := ⟨5, 5⟩
def UPD_STATUS_NF_OUT : Fld := ⟨4, 4⟩
def UPD_STATUS_PUB_REFUSED : Fld := ⟨3, 3⟩
def UPD_STATUS_SEAL_PARTIAL : Fld := ⟨2, 2⟩
def UPD_STATUS_RUN_FAIL : Fld := ⟨1, 1⟩
def UPD_STATUS_BAD_WRITE : Fld := ⟨0, 0⟩
def UPD_TABLE_COUNT : Fld := ⟨60, 48⟩
def UPD_TABLE_BASE : Fld := ⟨47, 8⟩
def UPD_RNG_KEY_V : Fld := ⟨63, 0⟩
def UPD_NF_CAPTURE_VALID : Fld := ⟨63, 63⟩
def UPD_NF_CAPTURE_PASS : Fld := ⟨44, 44⟩
def UPD_NF_CAPTURE_ENTRY : Fld := ⟨43, 32⟩
def UPD_NF_CAPTURE_STREAM : Fld := ⟨10, 8⟩
def UPD_NF_CAPTURE_BUNDLE : Fld := ⟨7, 0⟩
def UPD_NF_TIDE_V : Fld := ⟨63, 0⟩
def UPD_FAIL_VALID : Fld := ⟨63, 63⟩
def UPD_FAIL_CODE : Fld := ⟨55, 48⟩
def UPD_FAIL_ENTRY : Fld := ⟨11, 0⟩
def UPD_COMMIT_RUN : Fld := ⟨63, 62⟩
def UPD_COMMIT_CUR : Fld := ⟨61, 61⟩
def UPD_COMMIT_CODE : Fld := ⟨47, 40⟩
def UPD_COMMIT_STEP : Fld := ⟨39, 0⟩
def PAN_STATUS_COMPLETION : Fld := ⟨15, 8⟩
def PAN_STATUS_BAD_WRITE : Fld := ⟨7, 7⟩
def PAN_STATUS_POISON_SEEN : Fld := ⟨4, 4⟩
def PAN_STATUS_MIR_FAIL : Fld := ⟨3, 3⟩
def PAN_STATUS_HRV_FAIL : Fld := ⟨2, 2⟩
def PAN_STATUS_SKIPPED : Fld := ⟨1, 1⟩
def PAN_STATUS_CMD_BUSY : Fld := ⟨0, 0⟩
def PAN_RESERVE_SIZE_GIB : Fld := ⟨63, 56⟩
def PAN_RESERVE_NSLOTS : Fld := ⟨49, 48⟩
def PAN_RESERVE_BASE : Fld := ⟨47, 30⟩
def PAN_FILL_MIR_RATE : Fld := ⟨11, 8⟩
def PAN_FILL_RATE : Fld := ⟨7, 0⟩
def PAN_CMD_DOMAIN : Fld := ⟨51, 48⟩
def PAN_CMD_SLOT : Fld := ⟨41, 40⟩
def PAN_CMD_CMD : Fld := ⟨3, 0⟩
def PAN_RESTORE_SRC_V : Fld := ⟨63, 0⟩
def PAN_SLOT_STATUS_DOMAIN : Fld := ⟨39, 36⟩
def PAN_SLOT_STATUS_HRV_CODE : Fld := ⟨31, 24⟩
def PAN_SLOT_STATUS_MIR_CODE : Fld := ⟨23, 16⟩
def PAN_SLOT_STATUS_POISON : Fld := ⟨10, 10⟩
def PAN_SLOT_STATUS_HOLD : Fld := ⟨9, 9⟩
def PAN_SLOT_STATUS_CKPT : Fld := ⟨8, 8⟩
def PAN_SLOT_STATUS_HRV_ACK : Fld := ⟨7, 7⟩
def PAN_SLOT_STATUS_MIR_ACK : Fld := ⟨6, 6⟩
def PAN_SLOT_STATUS_STATE : Fld := ⟨2, 0⟩
def PAN_SLOT_TIDE_V : Fld := ⟨63, 0⟩
def PAN_SLOT_SEQ_V : Fld := ⟨63, 0⟩
def PAN_SLOT_FILLED_V : Fld := ⟨47, 0⟩
def PAN_SLOT_MIRRORED_V : Fld := ⟨47, 0⟩
def PAN_SLOT_HARVESTED_V : Fld := ⟨47, 0⟩
def PAN_D_CTRL_MODE : Fld := ⟨63, 62⟩
def PAN_D_CTRL_CONTEXT : Fld := ⟨11, 0⟩
def PAN_D_LIST_COUNT : Fld := ⟨60, 48⟩
def PAN_D_LIST_BASE : Fld := ⟨47, 0⟩
def PAN_D_CURSOR_EN : Fld := ⟨63, 63⟩
def PAN_D_CURSOR_ADDR : Fld := ⟨47, 0⟩
def PAN_D_TRIG_EN : Fld := ⟨63, 63⟩
def PAN_D_TRIG_EVSLOT : Fld := ⟨55, 48⟩
def PAN_D_TRIG_EVERY : Fld := ⟨20, 0⟩
def PAN_D_BUDDY_EN : Fld := ⟨63, 63⟩
def PAN_D_BUDDY_IMG_GIB : Fld := ⟨55, 48⟩
def PAN_D_BUDDY_RANK : Fld := ⟨12, 0⟩
def PAN_D_STATUS_CKPT_DUE : Fld := ⟨15, 15⟩
def PAN_D_STATUS_CKPT_DROPPED : Fld := ⟨14, 14⟩
def PAN_D_STATUS_TRIG_SUPPRESSED : Fld := ⟨13, 13⟩
def PAN_D_STATUS_LAST_SKIP : Fld := ⟨11, 8⟩
def PAN_D_BUDDY_BASE_BASE : Fld := ⟨47, 16⟩
def PAN_D_SEQ_V : Fld := ⟨63, 0⟩
def HRV_CTRL_EN : Fld := ⟨63, 63⟩
def HRV_CTRL_RATE : Fld := ⟨39, 32⟩
def HRV_CTRL_AREAS : Fld := ⟨31, 28⟩
def HRV_CTRL_RETRY : Fld := ⟨27, 24⟩
def HRV_CTRL_TIMEOUT_MS : Fld := ⟨15, 0⟩
def HRV_PROTECT_V : Fld := ⟨7, 0⟩
def HRV_STATUS_LAST_CODE : Fld := ⟨31, 24⟩
def HRV_STATUS_LAST_AREA : Fld := ⟨18, 16⟩
def HRV_STATUS_BAD_WRITE : Fld := ⟨1, 1⟩
def HRV_STATUS_BUSY : Fld := ⟨0, 0⟩
def HRV_T_CTRL_EN : Fld := ⟨63, 63⟩
def HRV_T_CTRL_QP : Fld := ⟨57, 48⟩
def HRV_T_CTRL_NSID : Fld := ⟨31, 0⟩
def HRV_T_BASE_V : Fld := ⟨63, 0⟩
def HRV_T_COUNT_V : Fld := ⟨63, 0⟩
def CHK_STATUS_POISON_SEEN : Fld := ⟨1, 1⟩
def CHK_STATUS_BAD_WRITE : Fld := ⟨0, 0⟩
def CHK_JOB_V : Fld := ⟨63, 0⟩
def CHK_RUN_RUN : Fld := ⟨23, 0⟩
def CHK_MAN_CTRL_SIGN : Fld := ⟨63, 63⟩
def CHK_MAN_CTRL_SLOTS : Fld := ⟨59, 56⟩
def CHK_MAN_CTRL_QP : Fld := ⟨41, 32⟩
def CHK_MAN_CTRL_NSID : Fld := ⟨31, 0⟩
def CHK_MAN_BASE_V : Fld := ⟨63, 0⟩
def CHK_MAN_SLOT_LBAS_V : Fld := ⟨63, 0⟩
def CHK_D_RECTAB_COUNT : Fld := ⟨60, 48⟩
def CHK_D_RECTAB_BASE : Fld := ⟨47, 8⟩
def CHK_D_FRAG_ADDR : Fld := ⟨47, 7⟩
def CHK_D_FRAGTAB_ADDR : Fld := ⟨47, 7⟩
def CHK_D_STATUS_FRAG_OVERRUN : Fld := ⟨1, 1⟩
def CHK_D_STATUS_FRAG_READY : Fld := ⟨0, 0⟩
def CHK_TAG_LO_V : Fld := ⟨63, 0⟩
def CHK_TAG_HI_V : Fld := ⟨63, 0⟩
def CHK_S_CTRL_CONTEXT : Fld := ⟨27, 16⟩
def CHK_S_CTRL_ALG : Fld := ⟨9, 8⟩
def CHK_S_CTRL_FOLD : Fld := ⟨5, 4⟩
def CHK_S_CMD_LEN : Fld := ⟨63, 32⟩
def CHK_S_CMD_OP : Fld := ⟨2, 0⟩
def CHK_S_STATUS_COMPLETION : Fld := ⟨15, 8⟩
def CHK_S_STATUS_STATE : Fld := ⟨1, 0⟩
def CHK_S_SEQ_PEND : Fld := ⟨32, 32⟩
def CHK_S_SEQ_SEQ : Fld := ⟨31, 0⟩
def CHK_S_MSGLEN_MSGLEN : Fld := ⟨60, 0⟩
def CHK_S_SRC_V : Fld := ⟨63, 0⟩
def CHK_S_POS_V : Fld := ⟨63, 0⟩
def CHK_S_STATE0_V : Fld := ⟨63, 0⟩
def CHK_S_STATE1_V : Fld := ⟨63, 0⟩
def CHK_S_STATE2_V : Fld := ⟨63, 0⟩
def CHK_S_STATE3_V : Fld := ⟨63, 0⟩
def CHK_S_BUF0_V : Fld := ⟨63, 0⟩
def CHK_S_BUF1_V : Fld := ⟨63, 0⟩
def CHK_S_BUF2_V : Fld := ⟨63, 0⟩
def CHK_S_BUF3_V : Fld := ⟨63, 0⟩
def CHK_S_BUF4_V : Fld := ⟨63, 0⟩
def CHK_S_BUF5_V : Fld := ⟨63, 0⟩
def CHK_S_BUF6_V : Fld := ⟨63, 0⟩
def CHK_S_BUF7_V : Fld := ⟨63, 0⟩
def CHK_S_RESULT0_V : Fld := ⟨63, 0⟩
def CHK_S_RESULT1_V : Fld := ⟨63, 0⟩
def CHK_S_RESULT2_V : Fld := ⟨63, 0⟩
def CHK_S_RESULT3_V : Fld := ⟨63, 0⟩
def SPR_STATUS_COMPLETION : Fld := ⟨15, 8⟩
def SPR_STATUS_ABANDONED : Fld := ⟨3, 3⟩
def SPR_STATUS_NO_SPARE : Fld := ⟨2, 2⟩
def SPR_STATUS_BAD_WRITE : Fld := ⟨1, 1⟩
def SPR_STATUS_BUSY : Fld := ⟨0, 0⟩
def SPR_CTRL_AUTO : Fld := ⟨4, 4⟩
def SPR_CTRL_THRESH : Fld := ⟨3, 0⟩
def SPR_CMD_MODE : Fld := ⟨16, 16⟩
def SPR_CMD_LTILE : Fld := ⟨15, 8⟩
def SPR_CMD_CMD : Fld := ⟨1, 0⟩
def SPR_LAST_TIME_US : Fld := ⟨63, 48⟩
def SPR_LAST_CODE : Fld := ⟨39, 32⟩
def SPR_LAST_NEW_PHYS : Fld := ⟨31, 24⟩
def SPR_LAST_OLD_PHYS : Fld := ⟨23, 16⟩
def SPR_LAST_LTILE : Fld := ⟨7, 0⟩
def SPR_DIE_SPARES_DIE3 : Fld := ⟨31, 24⟩
def SPR_DIE_SPARES_DIE2 : Fld := ⟨23, 16⟩
def SPR_DIE_SPARES_DIE1 : Fld := ⟨15, 8⟩
def SPR_DIE_SPARES_DIE0 : Fld := ⟨7, 0⟩
def RPL_STATUS_WIN_FAULT : Fld := ⟨2, 2⟩
def RPL_STATUS_MULTI_MATCH : Fld := ⟨1, 1⟩
def RPL_STATUS_BAD_WRITE : Fld := ⟨0, 0⟩
def RPL_D_CTRL_EN : Fld := ⟨63, 63⟩
def RPL_D_CTRL_SANDBOX : Fld := ⟨62, 62⟩
def RPL_D_CTRL_COMPARE : Fld := ⟨61, 61⟩
def RPL_D_CTRL_LOADING : Fld := ⟨16, 16⟩
def RPL_D_RING_SIZE : Fld := ⟨51, 48⟩
def RPL_D_RING_BASE : Fld := ⟨47, 0⟩
def RPL_D_WIN_COUNT : Fld := ⟨58, 48⟩
def RPL_D_WIN_BASE : Fld := ⟨47, 0⟩
def RPL_D_RESULT_STATE : Fld := ⟨63, 62⟩
def RPL_D_RESULT_START_MISMATCH : Fld := ⟨61, 61⟩
def RPL_D_RESULT_REF_BAD : Fld := ⟨60, 60⟩
def RPL_D_RESULT_MISMATCHES : Fld := ⟨47, 32⟩
def RPL_D_RESULT_FIRST_FIELD : Fld := ⟨15, 14⟩
def RPL_D_RESULT_FIRST_VALID : Fld := ⟨13, 13⟩
def RPL_D_RESULT_FIRST_LAYER : Fld := ⟨11, 0⟩
def RPL_D_REF_ADDR : Fld := ⟨63, 6⟩
def COM_STATUS_COMPLETION : Fld := ⟨15, 8⟩
def COM_STATUS_NF_OUT : Fld := ⟨6, 6⟩
def COM_STATUS_STALE_DROP : Fld := ⟨5, 5⟩
def COM_STATUS_LATE : Fld := ⟨4, 4⟩
def COM_STATUS_OUT_FULL : Fld := ⟨3, 3⟩
def COM_STATUS_POISON_SEEN : Fld := ⟨2, 2⟩
def COM_STATUS_BAD_WRITE : Fld := ⟨1, 1⟩
def COM_STATUS_CMD_BUSY : Fld := ⟨0, 0⟩
def COM_CTRL_EN : Fld := ⟨63, 63⟩
def COM_CTRL_AUTO_PAUSE : Fld := ⟨62, 62⟩
def COM_CTRL_RND : Fld := ⟨61, 60⟩
def COM_CTRL_DOMAIN : Fld := ⟨59, 56⟩
def COM_CTRL_SITE : Fld := ⟨55, 50⟩
def COM_CTRL_W : Fld := ⟨49, 47⟩
def COM_CTRL_M : Fld := ⟨43, 40⟩
def COM_CTRL_K_FULL : Fld := ⟨39, 34⟩
def COM_CTRL_KEEP : Fld := ⟨33, 25⟩
def COM_CTRL_GRACE_MS : Fld := ⟨24, 9⟩
def COM_CTRL_RESEND_MS : Fld := ⟨8, 1⟩
def COM_TABLE_COUNT : Fld := ⟨60, 48⟩
def COM_TABLE_BASE : Fld := ⟨47, 6⟩
def COM_OUTBUF_GIB : Fld := ⟨63, 60⟩
def COM_OUTBUF_BASE : Fld := ⟨47, 30⟩
def COM_INBUF_GIB : Fld := ⟨63, 60⟩
def COM_INBUF_BASE : Fld := ⟨47, 30⟩
def COM_PEERTAB_ADDR : Fld := ⟨47, 5⟩
def COM_MREC_ADDR : Fld := ⟨47, 9⟩
def COM_OUTER_J : Fld := ⟨31, 0⟩
def COM_CMD_CMD : Fld := ⟨3, 0⟩
def COM_OVERDUE_V : Fld := ⟨63, 0⟩
def COM_LEVELS_IN : Fld := ⟨63, 32⟩
def COM_LEVELS_OUT : Fld := ⟨31, 0⟩
def COM_STALE_W_V : Fld := ⟨31, 0⟩
def COM_SITE_CTRL_STATE : Fld := ⟨63, 62⟩
def COM_SITE_CTRL_SITE_W : Fld := ⟨31, 0⟩
def COM_SITE_STATUS_ARRIVED_J : Fld := ⟨63, 32⟩
def COM_SITE_STATUS_NEXT_J : Fld := ⟨31, 0⟩
def COM_LANE_VALID : Fld := ⟨63, 63⟩
def COM_LANE_SITE : Fld := ⟨56, 51⟩
def COM_LANE_PORT : Fld := ⟨50, 50⟩
def COM_LANE_QP : Fld := ⟨41, 32⟩
def COM_LANE_RATE : Fld := ⟨9, 0⟩
def PRT_STATUS_COMPLETION : Fld := ⟨15, 8⟩
def PRT_STATUS_MULTI_MATCH : Fld := ⟨2, 2⟩
def PRT_STATUS_BAD_WRITE : Fld := ⟨1, 1⟩
def PRT_STATUS_CMD_BUSY : Fld := ⟨0, 0⟩
def PRT_CMD_EPOCH : Fld := ⟨47, 40⟩
def PRT_CMD_PARTITION : Fld := ⟨35, 32⟩
def PRT_CMD_CONTEXT : Fld := ⟨27, 16⟩
def PRT_CMD_CMD : Fld := ⟨3, 0⟩
def PRT_CTRL_VALID : Fld := ⟨63, 63⟩
def PRT_CTRL_SLICE_US : Fld := ⟨48, 32⟩
def PRT_CTRL_TM_SAVE : Fld := ⟨22, 16⟩
def PRT_TILES0_V : Fld := ⟨63, 0⟩
def PRT_TILES1_V : Fld := ⟨63, 0⟩
def PRT_TILES2_V : Fld := ⟨15, 0⟩
def PRT_BW_FAB_PCT : Fld := ⟨14, 8⟩
def PRT_BW_HBM_PCT : Fld := ⟨6, 0⟩
def PRT_PSTATUS_BW_CREDIT : Fld := ⟨63, 32⟩
def PRT_PSTATUS_SWITCHING : Fld := ⟨14, 14⟩
def PRT_PSTATUS_RESIDENT : Fld := ⟨13, 13⟩
def PRT_PSTATUS_CONTEXT : Fld := ⟨11, 0⟩
def PRT_WIN_LO_VALID : Fld := ⟨63, 63⟩
def PRT_WIN_LO_WRITE : Fld := ⟨62, 62⟩
def PRT_WIN_LO_READ : Fld := ⟨61, 61⟩
def PRT_WIN_LO_ADDR : Fld := ⟨47, 12⟩
def PRT_WIN_HI_ADDR : Fld := ⟨47, 12⟩
def CTX_CTRL_STATE : Fld := ⟨63, 61⟩
def CTX_CTRL_RUN : Fld := ⟨60, 60⟩
def CTX_CTRL_EPOCH : Fld := ⟨59, 52⟩
def CTX_CTRL_DOMAIN : Fld := ⟨47, 44⟩
def CTX_CTRL_PARTITION : Fld := ⟨43, 40⟩
def CTX_HOST_PASID : Fld := ⟨63, 44⟩
def CTX_HOST_FUNC : Fld := ⟨37, 32⟩
def CTX_HOST_QVEC : Fld := ⟨10, 0⟩
def CTX_SCHED_SHARE : Fld := ⟨63, 48⟩
def CTX_SCHED_LAT_US : Fld := ⟨16, 0⟩
def CTX_SAVE_BASE : Fld := ⟨47, 12⟩
def CTX_STATUS_QCAUSE : Fld := ⟨58, 56⟩
def CTX_STATUS_INFLIGHT : Fld := ⟨47, 32⟩
def CTX_STATUS_LAT_MISS : Fld := ⟨4, 4⟩
def CTX_STATUS_DB_PENDING : Fld := ⟨3, 3⟩
def CTX_STATUS_HALTED : Fld := ⟨2, 2⟩
def CTX_STATUS_SCHEDULABLE : Fld := ⟨1, 1⟩
def CTX_STATUS_RESIDENT : Fld := ⟨0, 0⟩
def CTX_CREDIT_CREDIT : Fld := ⟨47, 0⟩
def HIF_STATUS_SPEED : Fld := ⟨22, 19⟩
def HIF_STATUS_WIDTH : Fld := ⟨18, 14⟩
def HIF_STATUS_LINK_UP : Fld := ⟨13, 13⟩
def HIF_STATUS_QP_LOADING : Fld := ⟨4, 4⟩
def HIF_STATUS_DMA_FAULT : Fld := ⟨3, 3⟩
def HIF_STATUS_BAD_VECTOR : Fld := ⟨2, 2⟩
def HIF_STATUS_BAD_WRITE : Fld := ⟨0, 0⟩
def HIF_CTRL_PFC_EN : Fld := ⟨20, 20⟩
def HIF_CTRL_PFC_PRIO : Fld := ⟨19, 16⟩
def HIF_CTRL_NVME_TIMEOUT_MS : Fld := ⟨15, 0⟩
def HIF_QPTAB_COUNT : Fld := ⟨60, 48⟩
def HIF_QPTAB_BASE : Fld := ⟨47, 6⟩
def HIF_ETH_STATUS_PFC_PAUSED : Fld := ⟨2, 2⟩
def HIF_ETH_STATUS_FEC_LOCK : Fld := ⟨1, 1⟩
def HIF_ETH_STATUS_LINK_UP : Fld := ⟨0, 0⟩
def HIF_VF_P_VALID : Fld := ⟨63, 63⟩
def HIF_VF_P_CONTEXT : Fld := ⟨11, 0⟩
def MGT_STATUS_FW_SVN : Fld := ⟨47, 32⟩
def MGT_STATUS_MIN_SVN : Fld := ⟨31, 16⟩
def MGT_STATUS_FW_SLOT : Fld := ⟨8, 8⟩
def MGT_STATUS_BAD_WRITE : Fld := ⟨3, 3⟩
def MGT_STATUS_STATE : Fld := ⟨2, 0⟩
def MGT_CMD_CMD : Fld := ⟨3, 0⟩
def MGT_CMD_STATUS_WAIT : Fld := ⟨63, 48⟩
def MGT_CMD_STATUS_FW_COMPLETION : Fld := ⟨39, 32⟩
def MGT_CMD_STATUS_FW_STATE : Fld := ⟨31, 28⟩
def MGT_CMD_STATUS_COMPLETION : Fld := ⟨15, 8⟩
def MGT_CMD_STATUS_CMD_BUSY : Fld := ⟨0, 0⟩
def MGT_TELEM_FENCE_EN : Fld := ⟨63, 63⟩
def MGT_TELEM_TELEM_OVERRUN : Fld := ⟨62, 62⟩
def MGT_TELEM_DOMAIN : Fld := ⟨51, 48⟩
def MGT_TELEM_DEST : Fld := ⟨47, 6⟩
def MGT_ARG0_V : Fld := ⟨63, 0⟩
def MGT_ARG1_V : Fld := ⟨63, 0⟩
def MGT_SIGN_R_V : Fld := ⟨63, 0⟩
def MGT_SIGN_S_V : Fld := ⟨63, 0⟩
def CFG_STATUS_SEQ : Fld := ⟨63, 32⟩
def CFG_STATUS_COMPLETION : Fld := ⟨31, 24⟩
def CFG_STATUS_WRITE_BUSY : Fld := ⟨5, 5⟩
def CFG_STATUS_BAD_WRITE : Fld := ⟨4, 4⟩
def CFG_STATUS_BAD_RECORD : Fld := ⟨3, 3⟩
def CFG_STATUS_UNKNOWN_KEY : Fld := ⟨2, 2⟩
def CFG_STATUS_ACTIVE_IMG : Fld := ⟨1, 1⟩
def CFG_STATUS_CFG_DEFAULTED : Fld := ⟨0, 0⟩
def CFG_SRC_ADDR : Fld := ⟨47, 6⟩
def CFG_CMD_LEN : Fld := ⟨63, 32⟩
def CFG_CMD_CMD : Fld := ⟨3, 0⟩
def ERR_STATUS_LEVEL : Fld := ⟨25, 16⟩
def ERR_STATUS_FATAL_STOP : Fld := ⟨8, 8⟩
def ERR_STATUS_FATAL_VALID : Fld := ⟨7, 7⟩
def ERR_STATUS_FIRST_VALID : Fld := ⟨6, 6⟩
def ERR_STATUS_BAD_WRITE : Fld := ⟨5, 5⟩
def ERR_STATUS_OVERFLOW : Fld := ⟨4, 4⟩
def ERR_STATUS_FATAL_SEEN : Fld := ⟨2, 2⟩
def ERR_STATUS_CONTAINED_SEEN : Fld := ⟨1, 1⟩
def ERR_STATUS_CORRECTED_SEEN : Fld := ⟨0, 0⟩
def ERR_CTRL_IRQ_FATAL : Fld := ⟨45, 45⟩
def ERR_CTRL_IRQ_CONTAINED : Fld := ⟨44, 44⟩
def ERR_CTRL_IRQ_CORRECTED : Fld := ⟨43, 43⟩
def ERR_CTRL_VEC_FATAL : Fld := ⟨42, 32⟩
def ERR_CTRL_VEC_CONTAINED : Fld := ⟨26, 16⟩
def ERR_CTRL_VEC_CORRECTED : Fld := ⟨10, 0⟩
def ERR_PTR_WP : Fld := ⟨31, 16⟩
def ERR_PTR_RP : Fld := ⟨15, 0⟩
def ERR_FIRST_V : Fld := ⟨63, 0⟩
def ERR_FATAL_V : Fld := ⟨63, 0⟩
def ERR_ENTRY_V : Fld := ⟨63, 0⟩
def PWR_STATUS_TRIP : Fld := ⟨12, 12⟩
def PWR_STATUS_EXT_THROTTLE : Fld := ⟨11, 11⟩
def PWR_STATUS_CLAMPING : Fld := ⟨10, 10⟩
def PWR_STATUS_THROTTLING : Fld := ⟨9, 9⟩
def PWR_STATUS_SURGING : Fld := ⟨8, 8⟩
def PWR_STATUS_PWR_GOOD : Fld := ⟨7, 7⟩
def PWR_STATUS_MAIN_EN : Fld := ⟨6, 6⟩
def PWR_STATUS_AVS_LIMIT : Fld := ⟨5, 5⟩
def PWR_STATUS_CLAMPED : Fld := ⟨4, 4⟩
def PWR_STATUS_THROTTLED : Fld := ⟨3, 3⟩
def PWR_STATUS_SURGE_EXHAUSTED : Fld := ⟨2, 2⟩
def PWR_STATUS_VR_FAULT : Fld := ⟨1, 1⟩
def PWR_STATUS_BAD_WRITE : Fld := ⟨0, 0⟩
def PWR_CTRL_SURGE_EN : Fld := ⟨63, 63⟩
def PWR_CTRL_TRIP_CLEAR : Fld := ⟨62, 62⟩
def PWR_CTRL_ICC_A : Fld := ⟨41, 32⟩
def PWR_CTRL_CLK_CAP : Fld := ⟨22, 16⟩
def PWR_CTRL_LIMIT_W : Fld := ⟨10, 0⟩
def PWR_CLOCK_EFFECTIVE : Fld := ⟨62, 56⟩
def PWR_CLOCK_SUST_REQ : Fld := ⟨54, 48⟩
def PWR_CLOCK_THERM_REQ : Fld := ⟨46, 40⟩
def PWR_CLOCK_AVS_REQ : Fld := ⟨38, 32⟩
def PWR_SURGE_AVAIL_MS : Fld := ⟨47, 32⟩
def PWR_SURGE_USED_MS : Fld := ⟨15, 0⟩
def PWR_PKG_POWER_W : Fld := ⟨47, 32⟩
def PWR_PKG_HBM_C : Fld := ⟨23, 16⟩
def PWR_PKG_JUNC_C : Fld := ⟨15, 8⟩
def PWR_RAIL_CURRENT : Fld := ⟨47, 32⟩
def PWR_RAIL_VOLTAGE : Fld := ⟨15, 0⟩
def PWR_DIE_HOT_C : Fld := ⟨39, 32⟩
def PWR_DIE_MARGIN : Fld := ⟨23, 16⟩
def PWR_DIE_VID : Fld := ⟨15, 0⟩
def DB_SQ_TAIL_TAIL : Fld := ⟨15, 0⟩
def DB_CQ_HEAD_HEAD : Fld := ⟨15, 0⟩
def DB_WAKE_WAKE : Fld := ⟨0, 0⟩
def DB_CTRL_FLUSH : Fld := ⟨0, 0⟩
def Q_SQ_BASE_BASE : Fld := ⟨63, 12⟩
def Q_CQ_BASE_BASE : Fld := ⟨63, 12⟩
def Q_CFG_EN : Fld := ⟨63, 63⟩
def Q_CFG_VECTOR : Fld := ⟨39, 29⟩
def Q_CFG_IRQ_EN : Fld := ⟨28, 28⟩
def Q_CFG_SIZE_LOG : Fld := ⟨3, 0⟩
def Q_STATUS_STATE : Fld := ⟨63, 62⟩
def Q_STATUS_SQ_HEAD : Fld := ⟨47, 32⟩
def Q_STATUS_CQ_TAIL : Fld := ⟨31, 16⟩
def Q_STATUS_LAST_CODE : Fld := ⟨15, 8⟩
def Q_STATUS_PHASE : Fld := ⟨0, 0⟩
/-- The SAT bit of every statistics counter (R9). -/
def CNT_SAT : Fld := ⟨63, 63⟩
/-- The count of every statistics counter (R9). -/
def CNT_COUNT : Fld := ⟨47, 0⟩
end F

/-- The fields of every statistics counter (R9). -/
def counterFields : List FieldSpec := [⟨63, 63, .rw, 0, 0, []⟩, ⟨47, 0, .rw, 0, 0, []⟩]

/-- The units that own a register space. The doorbell pages (db) belong to the host interface. -/
inductive RegUnit where
  | mgt | cfg | err | pwr | hif | tide | ctx | prt | stg | red | upd | pan | hrv | chk | spr | rpl | com | fab | flr | mem | bc | str | chn | tile | db
  deriving DecidableEq, Repr

/-- The unit in whose register space an offset lies. FAB is the per-port blocks and the common block; the engine windows MXE and VEC lie in the TILE space. -/
def unitRanges : List (Nat × Nat × RegUnit) := [
  (0x0, 0x7FFF, .mgt),
  (0x8000, 0xFFFF, .cfg),
  (0x10000, 0x1FFFF, .err),
  (0x20000, 0x2FFFF, .pwr),
  (0x30000, 0x3FFFF, .hif),
  (0x40000, 0x7FFFF, .tide),
  (0x80000, 0xBFFFF, .ctx),
  (0xC0000, 0xC7FFF, .prt),
  (0xC8000, 0xCFFFF, .stg),
  (0xD0000, 0xDFFFF, .red),
  (0xE0000, 0xEFFFF, .upd),
  (0xF0000, 0xF7FFF, .pan),
  (0xF8000, 0xFFFFF, .hrv),
  (0x100000, 0x10FFFF, .chk),
  (0x110000, 0x117FFF, .spr),
  (0x118000, 0x11FFFF, .rpl),
  (0x120000, 0x12FFFF, .com),
  (0x130000, 0x15FFFF, .fab),
  (0x160000, 0x16FFFF, .flr),
  (0x180000, 0x1BFFFF, .mem),
  (0x1C0000, 0x1FFFFF, .bc),
  (0x200000, 0x3FFFFF, .str),
  (0x400000, 0x490FFF, .chn),
  (0x1000000, 0x19FFFFF, .tile),
  (0x4000000, 0x4FFFFFF, .db)]

/-- Registers of the MGT space. -/
def rowsMgt : List RegRow := [
  -- MGT_STATUS
  ⟨0x0, 1, 0x8, 1, 0x8, false, [⟨47, 32, .ro, 0, 0, []⟩, ⟨31, 16, .ro, 0, 0, []⟩, ⟨8, 8, .ro, 0, 0, []⟩, ⟨3, 3, .w1c, 0, 0, []⟩, ⟨2, 0, .ro, 0, 0, []⟩]⟩,
  -- MGT_CMD
  ⟨0x8, 1, 0x8, 1, 0x8, false, [⟨3, 0, .wo, 0, 0, []⟩]⟩,
  -- MGT_CMD_STATUS
  ⟨0x10, 1, 0x8, 1, 0x8, false, [⟨63, 48, .ro, 0, 0, []⟩, ⟨39, 32, .ro, 0, 0, []⟩, ⟨31, 28, .ro, 0, 0, []⟩, ⟨15, 8, .ro, 0, 0, []⟩, ⟨0, 0, .ro, 0, 0, []⟩]⟩,
  -- MGT_TELEM
  ⟨0x28, 1, 0x8, 1, 0x8, false, [⟨63, 63, .rw, 0, 0, []⟩, ⟨62, 62, .w1c, 0, 0, []⟩, ⟨51, 48, .rw, 0, 0, []⟩, ⟨47, 6, .rw, 0, 0, []⟩]⟩,
  -- MGT_ARG0
  ⟨0x18, 1, 0x8, 1, 0x8, false, [⟨63, 0, .rw, 0, 0, []⟩]⟩,
  -- MGT_ARG1
  ⟨0x20, 1, 0x8, 1, 0x8, false, [⟨63, 0, .rw, 0, 0, []⟩]⟩,
  -- MGT_SIGN_R
  ⟨0x100, 6, 0x8, 1, 0x8, false, [⟨63, 0, .ro, 0, 0, []⟩]⟩,
  -- MGT_SIGN_S
  ⟨0x130, 6, 0x8, 1, 0x8, false, [⟨63, 0, .ro, 0, 0, []⟩]⟩]

/-- Registers of the CFG space. -/
def rowsCfg : List RegRow := [
  -- CFG_STATUS
  ⟨0x8000, 1, 0x8, 1, 0x8, false, [⟨63, 32, .ro, 0, 0, []⟩, ⟨31, 24, .ro, 0, 0, []⟩, ⟨5, 5, .ro, 0, 0, []⟩, ⟨4, 4, .w1c, 0, 0, []⟩, ⟨3, 3, .w1c, 0, 0, []⟩, ⟨2, 2, .w1c, 0, 0, []⟩, ⟨1, 1, .ro, 0, 0, []⟩, ⟨0, 0, .ro, 0, 0, []⟩]⟩,
  -- CFG_SRC
  ⟨0x8008, 1, 0x8, 1, 0x8, false, [⟨47, 6, .rw, 0, 0, []⟩]⟩,
  -- CFG_CMD
  ⟨0x8010, 1, 0x8, 1, 0x8, false, [⟨63, 32, .wo, 0, 0, []⟩, ⟨3, 0, .wo, 0, 0, []⟩]⟩]

/-- Registers of the ERR space. -/
def rowsErr : List RegRow := [
  -- ERR_STATUS
  ⟨0x10000, 1, 0x8, 1, 0x8, false, [⟨25, 16, .ro, 0, 0, []⟩, ⟨8, 8, .ro, 0, 0, []⟩, ⟨7, 7, .w1c, 0, 0, []⟩, ⟨6, 6, .w1c, 0, 0, []⟩, ⟨5, 5, .w1c, 0, 0, []⟩, ⟨4, 4, .w1c, 0, 0, []⟩, ⟨2, 2, .w1c, 0, 0, []⟩, ⟨1, 1, .w1c, 0, 0, []⟩, ⟨0, 0, .w1c, 0, 0, []⟩]⟩,
  -- ERR_CTRL
  ⟨0x10008, 1, 0x8, 1, 0x8, false, [⟨45, 45, .rw, 1, 0, []⟩, ⟨44, 44, .rw, 1, 0, []⟩, ⟨43, 43, .rw, 0, 0, []⟩, ⟨42, 32, .rw, 0, 0, []⟩, ⟨26, 16, .rw, 0, 0, []⟩, ⟨10, 0, .rw, 0, 0, []⟩]⟩,
  -- ERR_PTR
  ⟨0x10010, 1, 0x8, 1, 0x8, false, [⟨31, 16, .ro, 0, 0, []⟩, ⟨15, 0, .rw, 0, 0, []⟩]⟩,
  -- ERR_FIRST
  ⟨0x10020, 4, 0x8, 1, 0x8, false, [⟨63, 0, .ro, 0, 0, []⟩]⟩,
  -- ERR_FATAL
  ⟨0x10040, 4, 0x8, 1, 0x8, false, [⟨63, 0, .ro, 0, 0, []⟩]⟩,
  -- ERR_POSTED
  ⟨0x10100, 1, 0x8, 1, 0x8, true, counterFields⟩,
  -- ERR_LOST
  ⟨0x10108, 1, 0x8, 1, 0x8, true, counterFields⟩,
  -- ERR_ENTRY
  ⟨0x11000, 256, 0x20, 4, 0x8, false, [⟨63, 0, .ro, 0, 0, []⟩]⟩]

/-- Registers of the PWR space, part 0. -/
def rowsPwr0 : List RegRow := [
  -- PWR_STATUS
  ⟨0x20000, 1, 0x8, 1, 0x8, false, [⟨12, 12, .ro, 0, 0, []⟩, ⟨11, 11, .ro, 0, 0, []⟩, ⟨10, 10, .ro, 0, 0, []⟩, ⟨9, 9, .ro, 0, 0, []⟩, ⟨8, 8, .ro, 0, 0, []⟩, ⟨7, 7, .ro, 0, 0, []⟩, ⟨6, 6, .ro, 0, 0, []⟩, ⟨5, 5, .w1c, 0, 0, []⟩, ⟨4, 4, .w1c, 0, 0, []⟩, ⟨3, 3, .w1c, 0, 0, []⟩, ⟨2, 2, .w1c, 0, 0, []⟩, ⟨1, 1, .w1c, 0, 0, []⟩, ⟨0, 0, .w1c, 0, 0, []⟩]⟩,
  -- PWR_CTRL
  ⟨0x20008, 1, 0x8, 1, 0x8, false, [⟨63, 63, .rw, 0, 0, []⟩, ⟨62, 62, .w1s, 0, 0, []⟩, ⟨41, 32, .rw, 700, 0, [(100, 700)]⟩, ⟨22, 16, .rw, 72, 0, [(32, 72)]⟩, ⟨10, 0, .rw, 1200, 0, [(1200, 1800)]⟩]⟩,
  -- PWR_CLOCK
  ⟨0x20010, 1, 0x8, 1, 0x8, false, [⟨62, 56, .ro, 64, 0, []⟩, ⟨54, 48, .ro, 72, 0, []⟩, ⟨46, 40, .ro, 72, 0, []⟩, ⟨38, 32, .ro, 72, 0, []⟩]⟩,
  -- PWR_SURGE
  ⟨0x20018, 1, 0x8, 1, 0x8, false, [⟨47, 32, .ro, 20000, 0, []⟩, ⟨15, 0, .ro, 0, 0, []⟩]⟩,
  -- PWR_PKG
  ⟨0x20020, 1, 0x8, 1, 0x8, false, [⟨47, 32, .ro, 0, 0, []⟩, ⟨23, 16, .ro, 0, 0, []⟩, ⟨15, 8, .ro, 0, 0, []⟩]⟩,
  -- PWR_RAIL
  ⟨0x20100, 13, 0x8, 1, 0x8, false, [⟨47, 32, .ro, 0, 0, []⟩, ⟨15, 0, .ro, 0, 0, []⟩]⟩,
  -- PWR_DIE
  ⟨0x20200, 6, 0x8, 1, 0x8, false, [⟨39, 32, .ro, 0, 0, []⟩, ⟨23, 16, .ro, 0, 0, []⟩, ⟨15, 0, .ro, 0, 0, []⟩]⟩,
  -- PWR_ENERGY
  ⟨0x20800, 1, 0x8, 1, 0x8, true, counterFields⟩,
  -- PWR_SURGE_US
  ⟨0x20808, 1, 0x8, 1, 0x8, true, counterFields⟩,
  -- PWR_LIMIT_US
  ⟨0x20810, 1, 0x8, 1, 0x8, true, counterFields⟩,
  -- PWR_THERM_US
  ⟨0x20818, 1, 0x8, 1, 0x8, true, counterFields⟩,
  -- PWR_CLAMPS
  ⟨0x20820, 1, 0x8, 1, 0x8, true, counterFields⟩]

/-- Registers of the PWR space, part 1. -/
def rowsPwr1 : List RegRow := [
  -- PWR_STRETCH
  ⟨0x20828, 1, 0x8, 1, 0x8, true, counterFields⟩]

/-- Registers of the PWR space. -/
def rowsPwr : List RegRow := rowsPwr0 ++ rowsPwr1

/-- Registers of the HIF space, part 0. -/
def rowsHif0 : List RegRow := [
  -- HIF_STATUS
  ⟨0x30000, 1, 0x8, 1, 0x8, false, [⟨22, 19, .ro, 0, 0, []⟩, ⟨18, 14, .ro, 0, 0, []⟩, ⟨13, 13, .ro, 0, 0, []⟩, ⟨4, 4, .ro, 0, 0, []⟩, ⟨3, 3, .w1c, 0, 0, []⟩, ⟨2, 2, .w1c, 0, 0, []⟩, ⟨0, 0, .w1c, 0, 0, []⟩]⟩,
  -- HIF_CTRL
  ⟨0x30008, 1, 0x8, 1, 0x8, false, [⟨20, 20, .rw, 0, 0, []⟩, ⟨19, 16, .rw, 0, 0, [(0, 7)]⟩, ⟨15, 0, .rw, 1000, 0, [(1, 65535)]⟩]⟩,
  -- HIF_QPTAB
  ⟨0x30010, 1, 0x8, 1, 0x8, false, [⟨60, 48, .rw, 0, 0, [(0, 1024)]⟩, ⟨47, 6, .rw, 0, 0, []⟩]⟩,
  -- HIF_ETH_STATUS
  ⟨0x30018, 2, 0x8, 1, 0x8, false, [⟨2, 2, .ro, 0, 0, []⟩, ⟨1, 1, .ro, 0, 0, []⟩, ⟨0, 0, .ro, 0, 0, []⟩]⟩,
  -- HIF_H2D_BYTES
  ⟨0x30100, 1, 0x8, 1, 0x8, true, counterFields⟩,
  -- HIF_D2H_BYTES
  ⟨0x30108, 1, 0x8, 1, 0x8, true, counterFields⟩,
  -- HIF_CMDS
  ⟨0x30110, 1, 0x8, 1, 0x8, true, counterFields⟩,
  -- HIF_ETH0_TX_BYTES
  ⟨0x30118, 1, 0x8, 1, 0x8, true, counterFields⟩,
  -- HIF_ETH0_RX_BYTES
  ⟨0x30120, 1, 0x8, 1, 0x8, true, counterFields⟩,
  -- HIF_ETH1_TX_BYTES
  ⟨0x30128, 1, 0x8, 1, 0x8, true, counterFields⟩,
  -- HIF_ETH1_RX_BYTES
  ⟨0x30130, 1, 0x8, 1, 0x8, true, counterFields⟩,
  -- HIF_ETH_DROPS
  ⟨0x30138, 1, 0x8, 1, 0x8, true, counterFields⟩]

/-- Registers of the HIF space, part 1. -/
def rowsHif1 : List RegRow := [
  -- HIF_FEC_CORR
  ⟨0x30140, 1, 0x8, 1, 0x8, true, counterFields⟩,
  -- HIF_VF_P
  ⟨0x38000, 63, 0x200, 64, 0x8, false, [⟨63, 63, .rw, 0, 0, []⟩, ⟨11, 0, .rw, 0, 0, []⟩]⟩]

/-- Registers of the HIF space. -/
def rowsHif : List RegRow := rowsHif0 ++ rowsHif1

/-- Registers of the TIDE space, part 0. -/
def rowsTide0 : List RegRow := [
  -- TIDE_STATUS
  ⟨0x40000, 1, 0x8, 1, 0x8, false, [⟨2, 2, .w1c, 0, 0, []⟩, ⟨1, 1, .w1c, 0, 0, []⟩, ⟨0, 0, .w1c, 0, 0, []⟩]⟩,
  -- TIDE_PIN_CTRL
  ⟨0x40008, 1, 0x8, 1, 0x8, false, [⟨5, 5, .rw, 0, 0, []⟩, ⟨4, 4, .rw, 0, 0, []⟩, ⟨3, 0, .rw, 0, 0, []⟩]⟩,
  -- TIDE_PIN_DROP
  ⟨0x40010, 1, 0x8, 1, 0x8, true, counterFields⟩,
  -- TIDE_CTRL
  ⟨0x50000, 16, 0x2000, 1, 0x2000, false, [⟨47, 32, .rw, 0, 0, []⟩, ⟨21, 16, .rw, 0, 0, []⟩, ⟨4, 4, .rw, 1, 0, []⟩, ⟨1, 0, .rw, 0, 0, [(0, 2)]⟩]⟩,
  -- TIDE_VALUE
  ⟨0x50008, 16, 0x2000, 1, 0x2000, false, [⟨63, 24, .ro, 0, 0, []⟩, ⟨23, 16, .ro, 0, 0, []⟩, ⟨15, 0, .ro, 0, 0, []⟩]⟩,
  -- TIDE_TARGET
  ⟨0x50010, 16, 0x2000, 1, 0x2000, false, [⟨63, 0, .rw, 0, 0, []⟩]⟩,
  -- TIDE_ADVANCE
  ⟨0x50018, 16, 0x2000, 1, 0x2000, false, [⟨1, 0, .wo, 0, 0, [(0, 2)]⟩]⟩,
  -- TIDE_READY
  ⟨0x50020, 16, 0x2000, 1, 0x2000, false, [⟨63, 0, .rw, 0, 0, []⟩]⟩,
  -- TIDE_GATE
  ⟨0x50028, 16, 0x2000, 1, 0x2000, false, [⟨63, 63, .rw, 0, 0, []⟩, ⟨55, 55, .rw, 0, 0, []⟩, ⟨47, 47, .rw, 0, 0, []⟩, ⟨39, 39, .ro, 1, 0, []⟩, ⟨31, 31, .rw, 0, 0, []⟩, ⟨23, 23, .rw, 0, 0, []⟩, ⟨15, 15, .rw, 0, 0, []⟩, ⟨7, 7, .rw, 0, 0, []⟩, ⟨60, 56, .rw, 0, 0, []⟩, ⟨52, 48, .rw, 0, 0, []⟩, ⟨44, 40, .rw, 0, 0, []⟩, ⟨36, 32, .rw, 0, 0, []⟩, ⟨28, 24, .rw, 0, 0, []⟩, ⟨20, 16, .rw, 0, 0, []⟩, ⟨12, 8, .rw, 0, 0, []⟩, ⟨4, 0, .rw, 0, 0, []⟩]⟩,
  -- TIDE_PARENT
  ⟨0x50030, 16, 0x2000, 1, 0x2000, false, [⟨31, 31, .rw, 0, 0, []⟩, ⟨20, 16, .rw, 0, 0, []⟩, ⟨12, 0, .rw, 0, 0, []⟩]⟩,
  -- TIDE_CHILD
  ⟨0x50038, 16, 0x2000, 7, 0x8, false, [⟨31, 31, .rw, 0, 0, []⟩, ⟨20, 16, .rw, 0, 0, []⟩, ⟨12, 0, .rw, 0, 0, []⟩]⟩,
  -- TIDE_DSTATUS
  ⟨0x50070, 16, 0x2000, 1, 0x2000, false, [⟨15, 15, .ro, 0, 0, []⟩, ⟨14, 14, .w1c, 0, 0, []⟩, ⟨13, 13, .w1c, 0, 0, []⟩, ⟨12, 12, .w1c, 0, 0, []⟩, ⟨11, 11, .w1c, 0, 0, []⟩, ⟨10, 10, .w1c, 0, 0, []⟩, ⟨9, 9, .ro, 0, 0, []⟩, ⟨8, 8, .ro, 0, 0, []⟩, ⟨6, 0, .w1c, 0, 0, []⟩]⟩]

/-- Registers of the TIDE space, part 1. -/
def rowsTide1 : List RegRow := [
  -- TIDE_FENCE_WAIT
  ⟨0x50078, 16, 0x2000, 1, 0x2000, false, [⟨31, 0, .ro, 0, 0, []⟩]⟩,
  -- TIDE_TIMER
  ⟨0x50080, 16, 0x2000, 1, 0x2000, false, [⟨63, 63, .rw, 0, 0, []⟩, ⟨16, 0, .rw, 0, 0, [(1, 86400)]⟩]⟩,
  -- TIDE_TIMER_ACT
  ⟨0x50088, 16, 0x2000, 1, 0x2000, false, [⟨63, 48, .rw, 0, 0, []⟩, ⟨31, 16, .rw, 0, 0, []⟩]⟩,
  -- TIDE_FENCE_COUNT
  ⟨0x50090, 16, 0x2000, 1, 0x2000, true, counterFields⟩,
  -- TIDE_ABORT_COUNT
  ⟨0x50098, 16, 0x2000, 1, 0x2000, true, counterFields⟩,
  -- TIDE_MODE_REC
  ⟨0x500C0, 16, 0x2000, 8, 0x8, false, [⟨63, 0, .rw, 0, 0, []⟩]⟩,
  -- TIDE_MODE_CMD
  ⟨0x50100, 16, 0x2000, 1, 0x2000, false, [⟨28, 16, .wo, 0, 0, []⟩, ⟨1, 0, .wo, 0, 0, []⟩]⟩,
  -- TIDE_MODE_STATUS
  ⟨0x50108, 16, 0x2000, 1, 0x2000, false, [⟨63, 32, .ro, 0, 0, []⟩, ⟨31, 24, .ro, 0, 0, []⟩, ⟨1, 0, .ro, 0, 0, []⟩]⟩,
  -- TIDE_SLOT_VALUE
  ⟨0x51000, 16, 0x2000, 256, 0x10, false, [⟨63, 0, .rw, 0, 0, []⟩]⟩,
  -- TIDE_SLOT_CTRL
  ⟨0x51008, 16, 0x2000, 256, 0x10, false, [⟨63, 48, .rw, 0, 0, []⟩, ⟨31, 16, .rw, 0, 0, []⟩, ⟨2, 2, .w1c, 0, 0, []⟩, ⟨1, 1, .w1c, 0, 0, []⟩, ⟨0, 0, .rw, 0, 0, []⟩]⟩]

/-- Registers of the TIDE space. -/
def rowsTide : List RegRow := rowsTide0 ++ rowsTide1

/-- Registers of the CTX space. -/
def rowsCtx : List RegRow := [
  -- CTX_CTRL
  ⟨0x80000, 4096, 0x40, 1, 0x40, false, [⟨63, 61, .ro, 0, 0, []⟩, ⟨60, 60, .rw, 0, 0, []⟩, ⟨59, 52, .ro, 0, 0, []⟩, ⟨47, 44, .rw, 0, 0, []⟩, ⟨43, 40, .rw, 0, 0, []⟩]⟩,
  -- CTX_HOST
  ⟨0x80008, 4096, 0x40, 1, 0x40, false, [⟨63, 44, .rw, 0, 0, []⟩, ⟨37, 32, .rw, 0, 0, []⟩, ⟨10, 0, .rw, 0, 0, []⟩]⟩,
  -- CTX_SCHED
  ⟨0x80010, 4096, 0x40, 1, 0x40, false, [⟨63, 48, .rw, 1, 0, [(1, 65535)]⟩, ⟨16, 0, .rw, 0, 0, [(0, 100000)]⟩]⟩,
  -- CTX_SAVE
  ⟨0x80018, 4096, 0x40, 1, 0x40, false, [⟨47, 12, .rw, 0, 0, []⟩]⟩,
  -- CTX_STATUS
  ⟨0x80020, 4096, 0x40, 1, 0x40, false, [⟨58, 56, .ro, 0, 0, []⟩, ⟨47, 32, .ro, 0, 0, []⟩, ⟨4, 4, .w1c, 0, 0, []⟩, ⟨3, 3, .ro, 0, 0, []⟩, ⟨2, 2, .ro, 0, 0, []⟩, ⟨1, 1, .ro, 0, 0, []⟩, ⟨0, 0, .ro, 0, 0, []⟩]⟩,
  -- CTX_CREDIT
  ⟨0x80028, 4096, 0x40, 1, 0x40, false, [⟨47, 0, .ro, 0, 0, []⟩]⟩,
  -- CTX_TILE_CYC
  ⟨0x80030, 4096, 0x40, 1, 0x40, true, counterFields⟩,
  -- CTX_DISPLACED
  ⟨0x80038, 4096, 0x40, 1, 0x40, true, counterFields⟩]

/-- Registers of the PRT space, part 0. -/
def rowsPrt0 : List RegRow := [
  -- PRT_STATUS
  ⟨0xC0000, 1, 0x8, 1, 0x8, false, [⟨15, 8, .ro, 0, 0, []⟩, ⟨2, 2, .w1c, 0, 0, []⟩, ⟨1, 1, .w1c, 0, 0, []⟩, ⟨0, 0, .ro, 0, 0, []⟩]⟩,
  -- PRT_CMD
  ⟨0xC0010, 1, 0x8, 1, 0x8, false, [⟨47, 40, .wo, 0, 0, []⟩, ⟨35, 32, .wo, 0, 0, []⟩, ⟨27, 16, .wo, 0, 0, []⟩, ⟨3, 0, .wo, 0, 0, []⟩]⟩,
  -- PRT_CTRL
  ⟨0xC0100, 16, 0x100, 1, 0x100, false, [⟨63, 63, .rw, 0, 0, []⟩, ⟨48, 32, .rw, 1000, 0, [(100, 100000)]⟩, ⟨22, 16, .rw, 64, 0, [(0, 64)]⟩]⟩,
  -- PRT_TILES0
  ⟨0xC0108, 16, 0x100, 1, 0x100, false, [⟨63, 0, .rw, 0, 0, []⟩]⟩,
  -- PRT_TILES1
  ⟨0xC0110, 16, 0x100, 1, 0x100, false, [⟨63, 0, .rw, 0, 0, []⟩]⟩,
  -- PRT_TILES2
  ⟨0xC0118, 16, 0x100, 1, 0x100, false, [⟨15, 0, .rw, 0, 0, []⟩]⟩,
  -- PRT_BW
  ⟨0xC0120, 16, 0x100, 1, 0x100, false, [⟨14, 8, .rw, 0, 0, [(0, 100)]⟩, ⟨6, 0, .rw, 0, 0, [(0, 100)]⟩]⟩,
  -- PRT_PSTATUS
  ⟨0xC0128, 16, 0x100, 1, 0x100, false, [⟨63, 32, .ro, 0, 0, []⟩, ⟨14, 14, .ro, 0, 0, []⟩, ⟨13, 13, .ro, 0, 0, []⟩, ⟨11, 0, .ro, 0, 0, []⟩]⟩,
  -- PRT_DISPLACED
  ⟨0xC0130, 16, 0x100, 1, 0x100, true, counterFields⟩,
  -- PRT_SWITCHES
  ⟨0xC0138, 16, 0x100, 1, 0x100, true, counterFields⟩,
  -- PRT_FORCED
  ⟨0xC0140, 16, 0x100, 1, 0x100, true, counterFields⟩,
  -- PRT_WIN_LO
  ⟨0xC0180, 16, 0x100, 8, 0x10, false, [⟨63, 63, .rw, 0, 0, []⟩, ⟨62, 62, .rw, 0, 0, []⟩, ⟨61, 61, .rw, 0, 0, []⟩, ⟨47, 12, .rw, 0, 0, []⟩]⟩]

/-- Registers of the PRT space, part 1. -/
def rowsPrt1 : List RegRow := [
  -- PRT_WIN_HI
  ⟨0xC0188, 16, 0x100, 8, 0x10, false, [⟨47, 12, .rw, 0, 0, []⟩]⟩]

/-- Registers of the PRT space. -/
def rowsPrt : List RegRow := rowsPrt0 ++ rowsPrt1

/-- Registers of the STG space, part 0. -/
def rowsStg0 : List RegRow := [
  -- STG_STATUS
  ⟨0xC8000, 1, 0x8, 1, 0x8, false, [⟨15, 8, .ro, 0, 0, []⟩, ⟨6, 6, .w1c, 0, 0, []⟩, ⟨5, 5, .w1c, 0, 0, []⟩, ⟨4, 4, .w1c, 0, 0, []⟩, ⟨3, 3, .w1c, 0, 0, []⟩, ⟨2, 2, .w1c, 0, 0, []⟩, ⟨1, 1, .w1c, 0, 0, []⟩, ⟨0, 0, .w1c, 0, 0, []⟩]⟩,
  -- STG_VT_SEL
  ⟨0xC8008, 1, 0x8, 1, 0x8, false, [⟨14, 12, .rw, 0, 0, []⟩, ⟨11, 0, .rw, 0, 0, []⟩]⟩,
  -- STG_VT_ARG
  ⟨0xC8010, 1, 0x8, 1, 0x8, false, [⟨59, 48, .rw, 0, 0, []⟩, ⟨47, 12, .rw, 0, 0, []⟩, ⟨3, 3, .rw, 0, 0, []⟩, ⟨2, 0, .rw, 0, 0, []⟩]⟩,
  -- STG_VT_CMD
  ⟨0xC8018, 1, 0x8, 1, 0x8, false, [⟨3, 0, .wo, 0, 0, []⟩]⟩,
  -- STG_VT_REC0
  ⟨0xC8020, 1, 0x8, 1, 0x8, false, [⟨59, 48, .ro, 0, 0, []⟩, ⟨47, 12, .ro, 0, 0, []⟩]⟩,
  -- STG_VT_REC1
  ⟨0xC8028, 1, 0x8, 1, 0x8, false, [⟨63, 48, .ro, 0, 0, []⟩, ⟨7, 7, .ro, 0, 0, []⟩, ⟨6, 4, .ro, 0, 0, []⟩, ⟨3, 3, .ro, 0, 0, []⟩, ⟨1, 0, .ro, 0, 0, []⟩]⟩,
  -- STG_S_CTRL
  ⟨0xC8100, 16, 0x40, 1, 0x40, false, [⟨63, 63, .rw, 0, 0, []⟩, ⟨57, 52, .rw, 0, 0, []⟩, ⟨51, 40, .rw, 0, 0, []⟩, ⟨39, 28, .rw, 0, 0, []⟩, ⟨22, 12, .rw, 0, 0, []⟩, ⟨11, 0, .rw, 0, 0, []⟩]⟩,
  -- STG_S_STATUS
  ⟨0xC8108, 16, 0x40, 1, 0x40, false, [⟨8, 0, .ro, 0, 0, []⟩]⟩,
  -- STG_S_BUSY
  ⟨0xC8110, 16, 0x40, 1, 0x40, true, counterFields⟩,
  -- STG_S_BLOCKED
  ⟨0xC8118, 16, 0x40, 1, 0x40, true, counterFields⟩,
  -- STG_S_STARVED
  ⟨0xC8120, 16, 0x40, 1, 0x40, true, counterFields⟩,
  -- STG_P_CTRL
  ⟨0xC9000, 256, 0x40, 1, 0x40, false, [⟨63, 63, .rw, 0, 0, []⟩, ⟨62, 62, .rw, 0, 0, []⟩, ⟨61, 60, .rw, 0, 0, [(0, 2)]⟩, ⟨59, 56, .rw, 0, 0, []⟩, ⟨53, 48, .rw, 0, 0, []⟩, ⟨47, 40, .rw, 0, 0, [(0, 143)]⟩, ⟨37, 36, .rw, 0, 0, []⟩, ⟨35, 32, .rw, 0, 0, []⟩, ⟨31, 20, .rw, 0, 0, []⟩, ⟨15, 0, .rw, 0, 0, []⟩]⟩]

/-- Registers of the STG space, part 1. -/
def rowsStg1 : List RegRow := [
  -- STG_P_PEER
  ⟨0xC9008, 256, 0x40, 1, 0x40, false, [⟨39, 32, .rw, 0, 0, []⟩, ⟨12, 0, .rw, 0, 0, []⟩]⟩,
  -- STG_P_SPILL
  ⟨0xC9010, 256, 0x40, 1, 0x40, false, [⟨58, 48, .rw, 0, 0, [(0, 2031)]⟩, ⟨47, 0, .rw, 0, 6, []⟩]⟩,
  -- STG_P_STATUS
  ⟨0xC9018, 256, 0x40, 1, 0x40, false, [⟨63, 56, .ro, 0, 0, []⟩, ⟨55, 43, .ro, 0, 0, []⟩, ⟨42, 32, .ro, 0, 0, []⟩, ⟨31, 21, .ro, 0, 0, []⟩, ⟨20, 10, .ro, 0, 0, []⟩, ⟨9, 7, .ro, 0, 0, []⟩, ⟨1, 0, .ro, 0, 0, []⟩]⟩,
  -- STG_P_WM
  ⟨0xC9020, 256, 0x40, 1, 0x40, false, [⟨63, 63, .w1c, 0, 0, []⟩, ⟨62, 62, .ro, 1, 0, []⟩, ⟨58, 48, .ro, 0, 0, []⟩, ⟨47, 32, .rw, 0, 0, []⟩, ⟨26, 16, .rw, 2047, 0, []⟩, ⟨10, 0, .rw, 0, 0, []⟩]⟩,
  -- STG_P_ENTRIES
  ⟨0xC9028, 256, 0x40, 1, 0x40, true, counterFields⟩,
  -- STG_P_SPILLED
  ⟨0xC9030, 256, 0x40, 1, 0x40, true, counterFields⟩]

/-- Registers of the STG space. -/
def rowsStg : List RegRow := rowsStg0 ++ rowsStg1

/-- Registers of the RED space. -/
def rowsRed : List RegRow := [
  -- RED_STATUS
  ⟨0xD0000, 1, 0x8, 1, 0x8, false, [⟨4, 4, .w1c, 0, 0, []⟩, ⟨3, 3, .w1c, 0, 0, []⟩, ⟨2, 2, .w1c, 0, 0, []⟩, ⟨1, 1, .w1c, 0, 0, []⟩, ⟨0, 0, .w1c, 0, 0, []⟩]⟩,
  -- RED_CTRL
  ⟨0xD0008, 1, 0x8, 1, 0x8, false, [⟨3, 0, .rw, 7, 0, []⟩]⟩,
  -- RED_LT
  ⟨0xD0010, 1, 0x8, 1, 0x8, false, [⟨60, 48, .rw, 0, 0, [(0, 4096)]⟩, ⟨47, 0, .rw, 0, 6, []⟩]⟩,
  -- RED_NF_CAPTURE
  ⟨0xD0018, 1, 0x8, 1, 0x8, false, [⟨63, 63, .w1c, 0, 0, []⟩, ⟨62, 62, .ro, 0, 0, []⟩, ⟨43, 32, .ro, 0, 0, []⟩, ⟨31, 24, .ro, 0, 0, []⟩, ⟨23, 0, .ro, 0, 0, []⟩]⟩,
  -- RED_NF_TIDE
  ⟨0xD0020, 1, 0x8, 1, 0x8, false, [⟨63, 0, .ro, 0, 0, []⟩]⟩,
  -- RED_FAIL
  ⟨0xD0028, 1, 0x8, 1, 0x8, false, [⟨63, 63, .w1c, 0, 0, []⟩, ⟨55, 48, .ro, 0, 0, []⟩, ⟨43, 32, .ro, 0, 0, []⟩, ⟨31, 24, .ro, 0, 0, []⟩, ⟨23, 0, .ro, 0, 0, []⟩]⟩,
  -- RED_LSEL
  ⟨0xD0030, 1, 0x8, 1, 0x8, false, [⟨11, 0, .rw, 0, 0, []⟩]⟩,
  -- RED_LSTATE
  ⟨0xD0038, 1, 0x8, 1, 0x8, false, [⟨63, 24, .ro, 0, 0, []⟩, ⟨23, 16, .ro, 0, 0, []⟩, ⟨15, 8, .ro, 0, 0, []⟩, ⟨2, 0, .ro, 0, 0, []⟩]⟩,
  -- RED_SEGMENTS
  ⟨0xD0100, 1, 0x8, 1, 0x8, true, counterFields⟩,
  -- RED_BLOCKS
  ⟨0xD0108, 1, 0x8, 1, 0x8, true, counterFields⟩,
  -- RED_TX_BYTES
  ⟨0xD0110, 1, 0x8, 1, 0x8, true, counterFields⟩,
  -- RED_PEER_WAIT
  ⟨0xD0118, 1, 0x8, 1, 0x8, true, counterFields⟩]

/-- Registers of the UPD space. -/
def rowsUpd : List RegRow := [
  -- UPD_STATUS
  ⟨0xE0000, 1, 0x8, 1, 0x8, false, [⟨6, 6, .w1c, 0, 0, []⟩, ⟨5, 5, .w1c, 0, 0, []⟩, ⟨4, 4, .w1c, 0, 0, []⟩, ⟨3, 3, .w1c, 0, 0, []⟩, ⟨2, 2, .w1c, 0, 0, []⟩, ⟨1, 1, .w1c, 0, 0, []⟩, ⟨0, 0, .w1c, 0, 0, []⟩]⟩,
  -- UPD_TABLE
  ⟨0xE0008, 1, 0x8, 1, 0x8, false, [⟨60, 48, .rw, 0, 0, [(0, 4096)]⟩, ⟨47, 8, .rw, 0, 0, []⟩]⟩,
  -- UPD_RNG_KEY
  ⟨0xE0010, 1, 0x8, 1, 0x8, false, [⟨63, 0, .rw, 0, 0, []⟩]⟩,
  -- UPD_NF_CAPTURE
  ⟨0xE0018, 1, 0x8, 1, 0x8, false, [⟨63, 63, .w1c, 0, 0, []⟩, ⟨44, 44, .ro, 0, 0, []⟩, ⟨43, 32, .ro, 0, 0, []⟩, ⟨10, 8, .ro, 0, 0, []⟩, ⟨7, 0, .ro, 0, 0, []⟩]⟩,
  -- UPD_NF_TIDE
  ⟨0xE0020, 1, 0x8, 1, 0x8, false, [⟨63, 0, .ro, 0, 0, []⟩]⟩,
  -- UPD_FAIL
  ⟨0xE0028, 1, 0x8, 1, 0x8, false, [⟨63, 63, .w1c, 0, 0, []⟩, ⟨55, 48, .ro, 0, 0, []⟩, ⟨11, 0, .ro, 0, 0, []⟩]⟩,
  -- UPD_RUNS
  ⟨0xE0100, 1, 0x8, 1, 0x8, true, counterFields⟩,
  -- UPD_ELEMENTS
  ⟨0xE0108, 1, 0x8, 1, 0x8, true, counterFields⟩,
  -- UPD_ACTIVE
  ⟨0xE0110, 1, 0x8, 1, 0x8, true, counterFields⟩,
  -- UPD_COMMIT
  ⟨0xE1000, 4096, 0x8, 1, 0x8, false, [⟨63, 62, .ro, 0, 0, []⟩, ⟨61, 61, .rw, 0, 0, []⟩, ⟨47, 40, .ro, 0, 0, []⟩, ⟨39, 0, .rw, 0, 0, []⟩]⟩]

/-- Registers of the PAN space, part 0. -/
def rowsPan0 : List RegRow := [
  -- PAN_STATUS
  ⟨0xF0000, 1, 0x8, 1, 0x8, false, [⟨15, 8, .ro, 0, 0, []⟩, ⟨7, 7, .w1c, 0, 0, []⟩, ⟨4, 4, .w1c, 0, 0, []⟩, ⟨3, 3, .w1c, 0, 0, []⟩, ⟨2, 2, .w1c, 0, 0, []⟩, ⟨1, 1, .w1c, 0, 0, []⟩, ⟨0, 0, .ro, 0, 0, []⟩]⟩,
  -- PAN_RESERVE
  ⟨0xF0008, 1, 0x8, 1, 0x8, false, [⟨63, 56, .rw, 0, 0, [(0, 128)]⟩, ⟨49, 48, .rw, 0, 0, []⟩, ⟨47, 30, .rw, 0, 0, []⟩]⟩,
  -- PAN_FILL
  ⟨0xF0010, 1, 0x8, 1, 0x8, false, [⟨11, 8, .rw, 4, 0, [(1, 4)]⟩, ⟨7, 0, .rw, 60, 0, [(1, 60)]⟩]⟩,
  -- PAN_CMD
  ⟨0xF0018, 1, 0x8, 1, 0x8, false, [⟨51, 48, .wo, 0, 0, []⟩, ⟨41, 40, .wo, 0, 0, []⟩, ⟨3, 0, .wo, 0, 0, []⟩]⟩,
  -- PAN_RESTORE_SRC
  ⟨0xF0020, 1, 0x8, 1, 0x8, false, [⟨63, 0, .rw, 0, 0, []⟩]⟩,
  -- PAN_SLOT_STATUS
  ⟨0xF0100, 4, 0x40, 1, 0x40, false, [⟨39, 36, .ro, 0, 0, []⟩, ⟨31, 24, .ro, 0, 0, []⟩, ⟨23, 16, .ro, 0, 0, []⟩, ⟨10, 10, .ro, 0, 0, []⟩, ⟨9, 9, .ro, 0, 0, []⟩, ⟨8, 8, .ro, 0, 0, []⟩, ⟨7, 7, .ro, 0, 0, []⟩, ⟨6, 6, .ro, 0, 0, []⟩, ⟨2, 0, .ro, 0, 0, []⟩]⟩,
  -- PAN_SLOT_TIDE
  ⟨0xF0108, 4, 0x40, 1, 0x40, false, [⟨63, 0, .ro, 0, 0, []⟩]⟩,
  -- PAN_SLOT_SEQ
  ⟨0xF0110, 4, 0x40, 1, 0x40, false, [⟨63, 0, .ro, 0, 0, []⟩]⟩,
  -- PAN_SLOT_FILLED
  ⟨0xF0118, 4, 0x40, 1, 0x40, false, [⟨47, 0, .ro, 0, 0, []⟩]⟩,
  -- PAN_SLOT_MIRRORED
  ⟨0xF0120, 4, 0x40, 1, 0x40, false, [⟨47, 0, .ro, 0, 0, []⟩]⟩,
  -- PAN_SLOT_HARVESTED
  ⟨0xF0128, 4, 0x40, 1, 0x40, false, [⟨47, 0, .ro, 0, 0, []⟩]⟩,
  -- PAN_D_CTRL
  ⟨0xF1000, 16, 0x80, 1, 0x80, false, [⟨63, 62, .rw, 0, 0, [(0, 2)]⟩, ⟨11, 0, .rw, 0, 0, []⟩]⟩]

/-- Registers of the PAN space, part 1. -/
def rowsPan1 : List RegRow := [
  -- PAN_D_LIST
  ⟨0xF1008, 16, 0x80, 1, 0x80, false, [⟨60, 48, .rw, 0, 0, [(0, 4096)]⟩, ⟨47, 0, .rw, 0, 5, []⟩]⟩,
  -- PAN_D_CURSOR
  ⟨0xF1010, 16, 0x80, 1, 0x80, false, [⟨63, 63, .rw, 0, 0, []⟩, ⟨47, 0, .rw, 0, 5, []⟩]⟩,
  -- PAN_D_TRIG
  ⟨0xF1018, 16, 0x80, 1, 0x80, false, [⟨63, 63, .rw, 0, 0, []⟩, ⟨55, 48, .rw, 0, 0, []⟩, ⟨20, 0, .rw, 1, 0, [(1, 1048576)]⟩]⟩,
  -- PAN_D_BUDDY
  ⟨0xF1020, 16, 0x80, 1, 0x80, false, [⟨63, 63, .rw, 0, 0, []⟩, ⟨55, 48, .rw, 1, 0, [(1, 128)]⟩, ⟨12, 0, .rw, 0, 0, []⟩]⟩,
  -- PAN_D_STATUS
  ⟨0xF1030, 16, 0x80, 1, 0x80, false, [⟨15, 15, .ro, 0, 0, []⟩, ⟨14, 14, .w1c, 0, 0, []⟩, ⟨13, 13, .w1c, 0, 0, []⟩, ⟨11, 8, .ro, 0, 0, []⟩]⟩,
  -- PAN_D_BUDDY_BASE
  ⟨0xF1028, 16, 0x80, 1, 0x80, false, [⟨47, 16, .rw, 0, 0, []⟩]⟩,
  -- PAN_D_SEQ
  ⟨0xF1038, 16, 0x80, 1, 0x80, false, [⟨63, 0, .ro, 0, 0, []⟩]⟩,
  -- PAN_SLUICE_HOLDS
  ⟨0xF0800, 1, 0x8, 1, 0x8, true, counterFields⟩,
  -- PAN_SLUICE_WAIT
  ⟨0xF0808, 1, 0x8, 1, 0x8, true, counterFields⟩,
  -- PAN_FILL_BYTES
  ⟨0xF0810, 1, 0x8, 1, 0x8, true, counterFields⟩,
  -- PAN_MIR_BYTES
  ⟨0xF0818, 1, 0x8, 1, 0x8, true, counterFields⟩,
  -- PAN_SKIPS
  ⟨0xF0820, 1, 0x8, 1, 0x8, true, counterFields⟩]

/-- Registers of the PAN space. -/
def rowsPan : List RegRow := rowsPan0 ++ rowsPan1

/-- Registers of the HRV space. -/
def rowsHrv : List RegRow := [
  -- HRV_CTRL
  ⟨0xF8000, 1, 0x8, 1, 0x8, false, [⟨63, 63, .rw, 0, 0, []⟩, ⟨39, 32, .rw, 200, 0, [(1, 200)]⟩, ⟨31, 28, .rw, 3, 0, [(3, 8)]⟩, ⟨27, 24, .rw, 3, 0, []⟩, ⟨15, 0, .rw, 1000, 0, [(1, 60000)]⟩]⟩,
  -- HRV_PROTECT
  ⟨0xF8008, 1, 0x8, 1, 0x8, false, [⟨7, 0, .rw, 0, 0, []⟩]⟩,
  -- HRV_STATUS
  ⟨0xF8010, 1, 0x8, 1, 0x8, false, [⟨31, 24, .ro, 0, 0, []⟩, ⟨18, 16, .ro, 0, 0, []⟩, ⟨1, 1, .w1c, 0, 0, []⟩, ⟨0, 0, .ro, 0, 0, []⟩]⟩,
  -- HRV_BYTES
  ⟨0xF8020, 1, 0x8, 1, 0x8, true, counterFields⟩,
  -- HRV_CMDS
  ⟨0xF8028, 1, 0x8, 1, 0x8, true, counterFields⟩,
  -- HRV_RETRIES
  ⟨0xF8030, 1, 0x8, 1, 0x8, true, counterFields⟩,
  -- HRV_T_CTRL
  ⟨0xF8100, 8, 0x20, 1, 0x20, false, [⟨63, 63, .rw, 0, 0, []⟩, ⟨57, 48, .rw, 0, 0, []⟩, ⟨31, 0, .rw, 0, 0, [(1, 4294967294)]⟩]⟩,
  -- HRV_T_BASE
  ⟨0xF8108, 8, 0x20, 1, 0x20, false, [⟨63, 0, .rw, 0, 0, []⟩]⟩,
  -- HRV_T_COUNT
  ⟨0xF8110, 8, 0x20, 1, 0x20, false, [⟨63, 0, .rw, 0, 0, []⟩]⟩]

/-- Registers of the CHK space, part 0. -/
def rowsChk0 : List RegRow := [
  -- CHK_STATUS
  ⟨0x100000, 1, 0x8, 1, 0x8, false, [⟨1, 1, .w1c, 0, 0, []⟩, ⟨0, 0, .w1c, 0, 0, []⟩]⟩,
  -- CHK_JOB
  ⟨0x100008, 1, 0x8, 1, 0x8, false, [⟨63, 0, .rw, 0, 0, []⟩]⟩,
  -- CHK_RUN
  ⟨0x100010, 1, 0x8, 1, 0x8, false, [⟨23, 0, .rw, 1, 0, [(1, 16777215)]⟩]⟩,
  -- CHK_MAN_CTRL
  ⟨0x100018, 1, 0x8, 1, 0x8, false, [⟨63, 63, .rw, 0, 0, []⟩, ⟨59, 56, .rw, 3, 0, [(3, 8)]⟩, ⟨41, 32, .rw, 0, 0, []⟩, ⟨31, 0, .rw, 0, 0, [(1, 4294967294)]⟩]⟩,
  -- CHK_MAN_BASE
  ⟨0x100020, 1, 0x8, 1, 0x8, false, [⟨63, 0, .rw, 0, 0, []⟩]⟩,
  -- CHK_MAN_SLOT_LBAS
  ⟨0x100028, 1, 0x8, 1, 0x8, false, [⟨63, 0, .rw, 0, 0, [(2, 18446744073709551615)]⟩]⟩,
  -- CHK_D_RECTAB
  ⟨0x100100, 16, 0x20, 1, 0x20, false, [⟨60, 48, .rw, 0, 0, [(0, 4096)]⟩, ⟨47, 8, .rw, 0, 0, []⟩]⟩,
  -- CHK_D_FRAG
  ⟨0x100108, 16, 0x20, 1, 0x20, false, [⟨47, 7, .rw, 0, 0, []⟩]⟩,
  -- CHK_D_FRAGTAB
  ⟨0x100110, 16, 0x20, 1, 0x20, false, [⟨47, 7, .rw, 0, 0, []⟩]⟩,
  -- CHK_D_STATUS
  ⟨0x100118, 16, 0x20, 1, 0x20, false, [⟨1, 1, .w1c, 0, 0, []⟩, ⟨0, 0, .w1c, 0, 0, []⟩]⟩,
  -- CHK_TAG_LO
  ⟨0x100400, 8, 0x10, 1, 0x10, false, [⟨63, 0, .rw, 0, 0, []⟩]⟩,
  -- CHK_TAG_HI
  ⟨0x100408, 8, 0x10, 1, 0x10, false, [⟨63, 0, .rw, 0, 0, []⟩]⟩]

/-- Registers of the CHK space, part 1. -/
def rowsChk1 : List RegRow := [
  -- CHK_BYTES
  ⟨0x100800, 1, 0x8, 1, 0x8, true, counterFields⟩,
  -- CHK_CMDS
  ⟨0x100808, 1, 0x8, 1, 0x8, true, counterFields⟩,
  -- CHK_S_CTRL
  ⟨0x101000, 4, 0x1000, 16, 0x100, false, [⟨27, 16, .rw, 0, 0, []⟩, ⟨9, 8, .rw, 0, 0, [(0, 2)]⟩, ⟨5, 4, .rw, 0, 0, []⟩]⟩,
  -- CHK_S_CMD
  ⟨0x101010, 4, 0x1000, 16, 0x100, false, [⟨63, 32, .wo, 0, 0, []⟩, ⟨2, 0, .wo, 0, 0, []⟩]⟩,
  -- CHK_S_STATUS
  ⟨0x101018, 4, 0x1000, 16, 0x100, false, [⟨15, 8, .ro, 0, 0, []⟩, ⟨1, 0, .ro, 0, 0, []⟩]⟩,
  -- CHK_S_SEQ
  ⟨0x101028, 4, 0x1000, 16, 0x100, false, [⟨32, 32, .rw, 0, 0, []⟩, ⟨31, 0, .rw, 0, 0, []⟩]⟩,
  -- CHK_S_MSGLEN
  ⟨0x101030, 4, 0x1000, 16, 0x100, false, [⟨60, 0, .rw, 0, 0, []⟩]⟩,
  -- CHK_S_SRC
  ⟨0x101008, 4, 0x1000, 16, 0x100, false, [⟨63, 0, .rw, 0, 0, []⟩]⟩,
  -- CHK_S_POS
  ⟨0x101020, 4, 0x1000, 16, 0x100, false, [⟨63, 0, .rw, 0, 0, []⟩]⟩,
  -- CHK_S_STATE0
  ⟨0x101040, 4, 0x1000, 16, 0x100, false, [⟨63, 0, .rw, 0, 0, []⟩]⟩,
  -- CHK_S_STATE1
  ⟨0x101048, 4, 0x1000, 16, 0x100, false, [⟨63, 0, .rw, 0, 0, []⟩]⟩,
  -- CHK_S_STATE2
  ⟨0x101050, 4, 0x1000, 16, 0x100, false, [⟨63, 0, .rw, 0, 0, []⟩]⟩]

/-- Registers of the CHK space, part 2. -/
def rowsChk2 : List RegRow := [
  -- CHK_S_STATE3
  ⟨0x101058, 4, 0x1000, 16, 0x100, false, [⟨63, 0, .rw, 0, 0, []⟩]⟩,
  -- CHK_S_BUF0
  ⟨0x101060, 4, 0x1000, 16, 0x100, false, [⟨63, 0, .rw, 0, 0, []⟩]⟩,
  -- CHK_S_BUF1
  ⟨0x101068, 4, 0x1000, 16, 0x100, false, [⟨63, 0, .rw, 0, 0, []⟩]⟩,
  -- CHK_S_BUF2
  ⟨0x101070, 4, 0x1000, 16, 0x100, false, [⟨63, 0, .rw, 0, 0, []⟩]⟩,
  -- CHK_S_BUF3
  ⟨0x101078, 4, 0x1000, 16, 0x100, false, [⟨63, 0, .rw, 0, 0, []⟩]⟩,
  -- CHK_S_BUF4
  ⟨0x101080, 4, 0x1000, 16, 0x100, false, [⟨63, 0, .rw, 0, 0, []⟩]⟩,
  -- CHK_S_BUF5
  ⟨0x101088, 4, 0x1000, 16, 0x100, false, [⟨63, 0, .rw, 0, 0, []⟩]⟩,
  -- CHK_S_BUF6
  ⟨0x101090, 4, 0x1000, 16, 0x100, false, [⟨63, 0, .rw, 0, 0, []⟩]⟩,
  -- CHK_S_BUF7
  ⟨0x101098, 4, 0x1000, 16, 0x100, false, [⟨63, 0, .rw, 0, 0, []⟩]⟩,
  -- CHK_S_RESULT0
  ⟨0x1010A0, 4, 0x1000, 16, 0x100, false, [⟨63, 0, .ro, 0, 0, []⟩]⟩,
  -- CHK_S_RESULT1
  ⟨0x1010A8, 4, 0x1000, 16, 0x100, false, [⟨63, 0, .ro, 0, 0, []⟩]⟩,
  -- CHK_S_RESULT2
  ⟨0x1010B0, 4, 0x1000, 16, 0x100, false, [⟨63, 0, .ro, 0, 0, []⟩]⟩]

/-- Registers of the CHK space, part 3. -/
def rowsChk3 : List RegRow := [
  -- CHK_S_RESULT3
  ⟨0x1010B8, 4, 0x1000, 16, 0x100, false, [⟨63, 0, .ro, 0, 0, []⟩]⟩]

/-- Registers of the CHK space. -/
def rowsChk : List RegRow := rowsChk0 ++ rowsChk1 ++ rowsChk2 ++ rowsChk3

/-- Registers of the SPR space. -/
def rowsSpr : List RegRow := [
  -- SPR_STATUS
  ⟨0x110000, 1, 0x8, 1, 0x8, false, [⟨15, 8, .ro, 0, 0, []⟩, ⟨3, 3, .w1c, 0, 0, []⟩, ⟨2, 2, .w1c, 0, 0, []⟩, ⟨1, 1, .w1c, 0, 0, []⟩, ⟨0, 0, .ro, 0, 0, []⟩]⟩,
  -- SPR_CTRL
  ⟨0x110008, 1, 0x8, 1, 0x8, false, [⟨4, 4, .rw, 0, 0, []⟩, ⟨3, 0, .rw, 1, 0, [(1, 15)]⟩]⟩,
  -- SPR_CMD
  ⟨0x110010, 1, 0x8, 1, 0x8, false, [⟨16, 16, .wo, 0, 0, []⟩, ⟨15, 8, .wo, 0, 0, []⟩, ⟨1, 0, .wo, 0, 0, []⟩]⟩,
  -- SPR_LAST
  ⟨0x110018, 1, 0x8, 1, 0x8, false, [⟨63, 48, .ro, 0, 0, []⟩, ⟨39, 32, .ro, 0, 0, []⟩, ⟨31, 24, .ro, 0, 0, []⟩, ⟨23, 16, .ro, 0, 0, []⟩, ⟨7, 0, .ro, 0, 0, []⟩]⟩,
  -- SPR_DIE_SPARES
  ⟨0x110020, 1, 0x8, 1, 0x8, false, [⟨31, 24, .ro, 4, 0, []⟩, ⟨23, 16, .ro, 4, 0, []⟩, ⟨15, 8, .ro, 4, 0, []⟩, ⟨7, 0, .ro, 4, 0, []⟩]⟩,
  -- SPR_SWAPS
  ⟨0x110100, 1, 0x8, 1, 0x8, true, counterFields⟩,
  -- SPR_TM_UE
  ⟨0x110108, 1, 0x8, 1, 0x8, true, counterFields⟩]

/-- Registers of the RPL space. -/
def rowsRpl : List RegRow := [
  -- RPL_STATUS
  ⟨0x118000, 1, 0x8, 1, 0x8, false, [⟨2, 2, .w1c, 0, 0, []⟩, ⟨1, 1, .w1c, 0, 0, []⟩, ⟨0, 0, .w1c, 0, 0, []⟩]⟩,
  -- RPL_D_CTRL
  ⟨0x118100, 16, 0x40, 1, 0x40, false, [⟨63, 63, .rw, 0, 0, []⟩, ⟨62, 62, .rw, 0, 0, []⟩, ⟨61, 61, .rw, 0, 0, []⟩, ⟨16, 16, .ro, 0, 0, []⟩]⟩,
  -- RPL_D_RING
  ⟨0x118108, 16, 0x40, 1, 0x40, false, [⟨51, 48, .rw, 0, 0, [(0, 10)]⟩, ⟨47, 0, .rw, 0, 18, []⟩]⟩,
  -- RPL_D_WIN
  ⟨0x118110, 16, 0x40, 1, 0x40, false, [⟨58, 48, .rw, 0, 0, [(0, 1024)]⟩, ⟨47, 0, .rw, 0, 5, []⟩]⟩,
  -- RPL_D_RESULT
  ⟨0x118120, 16, 0x40, 1, 0x40, false, [⟨63, 62, .ro, 0, 0, []⟩, ⟨61, 61, .ro, 0, 0, []⟩, ⟨60, 60, .ro, 0, 0, []⟩, ⟨47, 32, .ro, 0, 0, []⟩, ⟨15, 14, .ro, 0, 0, []⟩, ⟨13, 13, .ro, 0, 0, []⟩, ⟨11, 0, .ro, 0, 0, []⟩]⟩,
  -- RPL_D_REF
  ⟨0x118118, 16, 0x40, 1, 0x40, false, [⟨63, 6, .rw, 0, 0, []⟩]⟩,
  -- RPL_RECORDS
  ⟨0x118800, 1, 0x8, 1, 0x8, true, counterFields⟩,
  -- RPL_ITEMS
  ⟨0x118808, 1, 0x8, 1, 0x8, true, counterFields⟩]

/-- Registers of the COM space, part 0. -/
def rowsCom0 : List RegRow := [
  -- COM_STATUS
  ⟨0x120000, 1, 0x8, 1, 0x8, false, [⟨15, 8, .ro, 0, 0, []⟩, ⟨6, 6, .w1c, 0, 0, []⟩, ⟨5, 5, .w1c, 0, 0, []⟩, ⟨4, 4, .w1c, 0, 0, []⟩, ⟨3, 3, .w1c, 0, 0, []⟩, ⟨2, 2, .w1c, 0, 0, []⟩, ⟨1, 1, .w1c, 0, 0, []⟩, ⟨0, 0, .ro, 0, 0, []⟩]⟩,
  -- COM_CTRL
  ⟨0x120008, 1, 0x8, 1, 0x8, false, [⟨63, 63, .rw, 0, 0, []⟩, ⟨62, 62, .rw, 1, 0, []⟩, ⟨61, 60, .rw, 0, 0, [(0, 0), (2, 2)]⟩, ⟨59, 56, .rw, 0, 0, []⟩, ⟨55, 50, .rw, 0, 0, []⟩, ⟨49, 47, .rw, 0, 0, [(0, 4)]⟩, ⟨43, 40, .rw, 0, 0, [(0, 8)]⟩, ⟨39, 34, .rw, 0, 0, [(0, 31)]⟩, ⟨33, 25, .rw, 256, 0, [(1, 256)]⟩, ⟨24, 9, .rw, 10000, 0, [(1, 65535)]⟩, ⟨8, 1, .rw, 100, 0, [(1, 255)]⟩]⟩,
  -- COM_TABLE
  ⟨0x120010, 1, 0x8, 1, 0x8, false, [⟨60, 48, .rw, 0, 0, [(0, 4096)]⟩, ⟨47, 6, .rw, 0, 0, []⟩]⟩,
  -- COM_OUTBUF
  ⟨0x120018, 1, 0x8, 1, 0x8, false, [⟨63, 60, .rw, 0, 0, [(1, 8)]⟩, ⟨47, 30, .rw, 0, 0, []⟩]⟩,
  -- COM_INBUF
  ⟨0x120020, 1, 0x8, 1, 0x8, false, [⟨63, 60, .rw, 0, 0, [(1, 8)]⟩, ⟨47, 30, .rw, 0, 0, []⟩]⟩,
  -- COM_PEERTAB
  ⟨0x120028, 1, 0x8, 1, 0x8, false, [⟨47, 5, .rw, 0, 0, []⟩]⟩,
  -- COM_MREC
  ⟨0x120030, 2, 0x8, 1, 0x8, false, [⟨47, 9, .rw, 0, 0, []⟩]⟩,
  -- COM_OUTER
  ⟨0x120040, 1, 0x8, 1, 0x8, false, [⟨31, 0, .ro, 0, 0, []⟩]⟩,
  -- COM_CMD
  ⟨0x120048, 1, 0x8, 1, 0x8, false, [⟨3, 0, .wo, 0, 0, []⟩]⟩,
  -- COM_OVERDUE
  ⟨0x120050, 1, 0x8, 1, 0x8, false, [⟨63, 0, .w1c, 0, 0, []⟩]⟩,
  -- COM_LEVELS
  ⟨0x120058, 1, 0x8, 1, 0x8, false, [⟨63, 32, .ro, 0, 0, []⟩, ⟨31, 0, .ro, 0, 0, []⟩]⟩,
  -- COM_STALE_W
  ⟨0x120080, 5, 0x8, 1, 0x8, false, [⟨31, 0, .rw, 0, 0, []⟩]⟩]

/-- Registers of the COM space, part 1. -/
def rowsCom1 : List RegRow := [
  -- COM_SITE_CTRL
  ⟨0x120100, 64, 0x10, 1, 0x10, false, [⟨63, 62, .rw, 0, 0, [(0, 2)]⟩, ⟨31, 0, .rw, 0, 0, []⟩]⟩,
  -- COM_SITE_STATUS
  ⟨0x120108, 64, 0x10, 1, 0x10, false, [⟨63, 32, .ro, 0, 0, []⟩, ⟨31, 0, .ro, 0, 0, []⟩]⟩,
  -- COM_LANE
  ⟨0x120600, 64, 0x8, 1, 0x8, false, [⟨63, 63, .rw, 0, 0, []⟩, ⟨56, 51, .rw, 0, 0, []⟩, ⟨50, 50, .rw, 0, 0, []⟩, ⟨41, 32, .rw, 0, 0, []⟩, ⟨9, 0, .rw, 0, 0, [(1, 800)]⟩]⟩,
  -- COM_TX_COMETS
  ⟨0x120800, 1, 0x8, 1, 0x8, true, counterFields⟩,
  -- COM_RX_COMETS
  ⟨0x120808, 1, 0x8, 1, 0x8, true, counterFields⟩,
  -- COM_DISCARDS
  ⟨0x120810, 1, 0x8, 1, 0x8, true, counterFields⟩,
  -- COM_RECOVERED
  ⟨0x120818, 1, 0x8, 1, 0x8, true, counterFields⟩,
  -- COM_RESENDS
  ⟨0x120820, 1, 0x8, 1, 0x8, true, counterFields⟩,
  -- COM_OUT_WAIT
  ⟨0x120828, 1, 0x8, 1, 0x8, true, counterFields⟩]

/-- Registers of the COM space. -/
def rowsCom : List RegRow := rowsCom0 ++ rowsCom1

/-- Registers of the FAB space, part 0. -/
def rowsFab0 : List RegRow := [
  -- FAB_P_CTRL
  ⟨0x130000, 32, 0x1000, 1, 0x1000, false, [⟨63, 63, .rw, 0, 0, []⟩, ⟨23, 20, .rw, 0, 0, []⟩, ⟨19, 16, .rw, 0, 0, []⟩, ⟨15, 12, .rw, 0, 0, []⟩]⟩,
  -- FAB_P_STATUS
  ⟨0x130008, 32, 0x1000, 1, 0x1000, false, [⟨36, 32, .ro, 0, 0, []⟩, ⟨28, 16, .ro, 0, 0, []⟩, ⟨15, 8, .ro, 0, 0, []⟩, ⟨7, 7, .ro, 0, 0, []⟩, ⟨6, 6, .w1c, 0, 0, []⟩, ⟨5, 5, .w1c, 0, 0, []⟩, ⟨2, 0, .ro, 0, 0, []⟩]⟩,
  -- FAB_P_RING
  ⟨0x130100, 32, 0x1000, 9, 0x8, false, [⟨31, 16, .ro, 0, 0, []⟩, ⟨15, 8, .ro, 0, 0, []⟩, ⟨0, 0, .ro, 0, 0, []⟩]⟩,
  -- FAB_P_TX_PKTS
  ⟨0x130200, 32, 0x1000, 1, 0x1000, true, counterFields⟩,
  -- FAB_P_RX_PKTS
  ⟨0x130208, 32, 0x1000, 1, 0x1000, true, counterFields⟩,
  -- FAB_P_RETRIES
  ⟨0x130210, 32, 0x1000, 1, 0x1000, true, counterFields⟩,
  -- FAB_P_CRC_ERRORS
  ⟨0x130218, 32, 0x1000, 1, 0x1000, true, counterFields⟩,
  -- FAB_P_INJECTED
  ⟨0x130220, 32, 0x1000, 1, 0x1000, true, counterFields⟩,
  -- FAB_CTRL
  ⟨0x150000, 1, 0x8, 1, 0x8, false, [⟨63, 63, .rw, 0, 0, []⟩, ⟨27, 24, .rw, 8, 0, [(1, 15)]⟩, ⟨15, 0, .rw, 100, 0, [(10, 10000)]⟩]⟩,
  -- FAB_STATUS
  ⟨0x150008, 1, 0x8, 1, 0x8, false, [⟨5, 5, .w1c, 0, 0, []⟩, ⟨4, 4, .w1c, 0, 0, []⟩, ⟨3, 3, .w1c, 0, 0, []⟩, ⟨2, 2, .w1c, 0, 0, []⟩, ⟨1, 1, .w1c, 0, 0, []⟩, ⟨0, 0, .w1c, 0, 0, []⟩]⟩,
  -- FAB_ID
  ⟨0x150010, 1, 0x8, 1, 0x8, false, [⟨12, 0, .ro, 0, 0, []⟩]⟩,
  -- FAB_INJ_ENABLE
  ⟨0x150018, 1, 0x8, 1, 0x8, false, [⟨31, 0, .rw, 0, 0, []⟩]⟩]

/-- Registers of the FAB space, part 1. -/
def rowsFab1 : List RegRow := [
  -- FAB_NO_ROUTE_DROPS
  ⟨0x150100, 1, 0x8, 1, 0x8, true, counterFields⟩,
  -- FAB_HOP_DROPS
  ⟨0x150108, 1, 0x8, 1, 0x8, true, counterFields⟩,
  -- FAB_E2E_TIMEOUTS
  ⟨0x150110, 1, 0x8, 1, 0x8, true, counterFields⟩,
  -- FAB_LATE
  ⟨0x150118, 1, 0x8, 1, 0x8, true, counterFields⟩,
  -- FAB_TRANSIT
  ⟨0x150120, 1, 0x8, 1, 0x8, true, counterFields⟩,
  -- FAB_LINKLOSS_DROPS
  ⟨0x150128, 1, 0x8, 1, 0x8, true, counterFields⟩,
  -- FAB_ROUTE
  ⟨0x151000, 64, 0x8, 1, 0x8, false, [⟨63, 63, .rw, 0, 0, []⟩, ⟨62, 61, .rw, 0, 0, []⟩, ⟨60, 48, .rw, 0, 0, []⟩, ⟨44, 32, .rw, 0, 0, []⟩, ⟨31, 0, .rw, 0, 0, []⟩]⟩,
  -- FAB_RMAP_CTRL
  ⟨0x152000, 16, 0x20, 1, 0x20, false, [⟨63, 63, .rw, 0, 0, []⟩, ⟨16, 16, .ro, 0, 0, []⟩, ⟨15, 8, .rw, 0, 0, []⟩, ⟨0, 0, .rw, 0, 0, []⟩]⟩,
  -- FAB_RMAP_SLOT
  ⟨0x152008, 16, 0x20, 2, 0x8, false, [⟨63, 50, .rw, 0, 0, [(0, 8192)]⟩, ⟨47, 0, .rw, 0, 6, []⟩]⟩,
  -- FAB_INJ_MATCH
  ⟨0x153000, 32, 0x20, 1, 0x20, false, [⟨63, 32, .rw, 0, 0, []⟩, ⟨31, 31, .rw, 0, 0, []⟩, ⟨30, 19, .rw, 0, 0, []⟩, ⟨18, 18, .rw, 0, 0, []⟩, ⟨17, 5, .rw, 0, 0, []⟩, ⟨4, 0, .rw, 0, 0, []⟩]⟩,
  -- FAB_INJ_ACTION
  ⟨0x153008, 32, 0x20, 1, 0x20, false, [⟨63, 62, .rw, 0, 0, [(0, 2)]⟩, ⟨61, 58, .rw, 0, 0, []⟩, ⟨47, 32, .rw, 0, 0, []⟩, ⟨31, 16, .rw, 0, 0, []⟩, ⟨15, 0, .ro, 0, 0, []⟩]⟩,
  -- FAB_INJ_SEED
  ⟨0x153010, 32, 0x20, 1, 0x20, false, [⟨31, 0, .rw, 1, 0, [(1, 4294967295)]⟩]⟩]

/-- Registers of the FAB space, part 2. -/
def rowsFab2 : List RegRow := [
  -- FAB_MC
  ⟨0x154000, 1024, 0x8, 1, 0x8, false, [⟨63, 63, .rw, 0, 0, []⟩, ⟨62, 62, .rw, 0, 0, []⟩, ⟨61, 61, .rw, 0, 0, []⟩, ⟨60, 56, .rw, 0, 0, []⟩, ⟨55, 44, .rw, 0, 0, []⟩, ⟨31, 0, .rw, 0, 0, []⟩]⟩]

/-- Registers of the FAB space. -/
def rowsFab : List RegRow := rowsFab0 ++ rowsFab1 ++ rowsFab2

/-- Registers of the FLR space. -/
def rowsFlr : List RegRow := [
  -- FLR_STATUS
  ⟨0x160000, 1, 0x8, 1, 0x8, false, [⟨5, 5, .w1c, 0, 0, []⟩, ⟨4, 4, .w1c, 0, 0, []⟩, ⟨3, 3, .w1c, 0, 0, []⟩, ⟨2, 2, .w1c, 0, 0, []⟩, ⟨1, 1, .ro, 0, 0, []⟩]⟩,
  -- FLR_TILE_MAP
  ⟨0x161000, 144, 0x8, 1, 0x8, false, [⟨15, 8, .ro, 0, 0, []⟩, ⟨7, 0, .ro, 0, 0, []⟩]⟩,
  -- FLR_PTILE
  ⟨0x161800, 160, 0x8, 1, 0x8, false, [⟨15, 8, .ro, 0, 0, []⟩, ⟨1, 0, .ro, 0, 0, []⟩]⟩,
  -- FLR_PIN
  ⟨0x162000, 8, 0x8, 1, 0x8, false, [⟨63, 0, .rw, 0, 0, []⟩]⟩,
  -- FLR_LINK_STATUS
  ⟨0x163000, 5, 0x40, 1, 0x40, false, [⟨42, 32, .ro, 0, 0, []⟩, ⟨24, 16, .ro, 0, 0, []⟩, ⟨8, 0, .ro, 0, 0, []⟩]⟩,
  -- FLR_LINK_RETRY
  ⟨0x163008, 5, 0x40, 1, 0x40, true, counterFields⟩,
  -- FLR_TRIM_SEL
  ⟨0x164000, 1, 0x8, 1, 0x8, false, [⟨19, 17, .rw, 0, 0, [(0, 4)]⟩, ⟨16, 16, .rw, 0, 0, []⟩, ⟨15, 8, .rw, 0, 0, []⟩, ⟨7, 0, .rw, 0, 0, [(0, 132)]⟩]⟩,
  -- FLR_TRIM_DATA
  ⟨0x164008, 1, 0x8, 1, 0x8, false, [⟨23, 16, .ro, 0, 0, []⟩, ⟨15, 15, .ro, 0, 0, []⟩, ⟨14, 14, .ro, 0, 0, []⟩, ⟨9, 8, .ro, 0, 0, []⟩, ⟨5, 0, .ro, 0, 0, []⟩]⟩]

/-- Registers of the MEM space, part 0. -/
def rowsMem0 : List RegRow := [
  -- MEM_STATUS
  ⟨0x180000, 1, 0x8, 1, 0x8, false, [⟨15, 8, .ro, 0, 0, []⟩, ⟨7, 7, .w1c, 0, 0, []⟩, ⟨6, 6, .w1c, 0, 0, []⟩, ⟨5, 5, .w1c, 0, 0, []⟩, ⟨4, 4, .w1c, 0, 0, []⟩, ⟨3, 3, .w1c, 0, 0, []⟩, ⟨1, 0, .ro, 0, 0, []⟩]⟩,
  -- MEM_ECC
  ⟨0x180008, 1, 0x8, 1, 0x8, false, [⟨7, 0, .rw, 0, 0, []⟩]⟩,
  -- MEM_SCRUB
  ⟨0x180010, 1, 0x8, 1, 0x8, false, [⟨31, 16, .ro, 0, 0, []⟩, ⟨7, 0, .rw, 12, 0, [(1, 255)]⟩]⟩,
  -- MEM_MAINT
  ⟨0x180018, 1, 0x8, 1, 0x8, false, [⟨0, 0, .rw, 0, 0, []⟩]⟩,
  -- MEM_LB_CTRL
  ⟨0x180020, 1, 0x8, 1, 0x8, false, [⟨10, 8, .rw, 0, 0, []⟩, ⟨5, 4, .rw, 0, 0, []⟩, ⟨1, 1, .rw, 0, 0, []⟩, ⟨0, 0, .rw, 0, 0, []⟩]⟩,
  -- MEM_LB_STATUS
  ⟨0x180028, 1, 0x8, 1, 0x8, false, [⟨63, 32, .ro, 0, 0, []⟩, ⟨31, 24, .ro, 255, 0, []⟩, ⟨12, 8, .ro, 0, 0, []⟩, ⟨0, 0, .ro, 0, 0, []⟩]⟩,
  -- MEM_LB_ERRORS
  ⟨0x180030, 1, 0x8, 1, 0x8, true, counterFields⟩,
  -- MEM_UE_LOG
  ⟨0x180100, 8, 0x8, 1, 0x8, false, [⟨63, 63, .w1c, 0, 0, []⟩, ⟨62, 61, .ro, 0, 0, []⟩, ⟨38, 6, .ro, 0, 0, []⟩]⟩,
  -- MEM_S_STATUS
  ⟨0x181000, 8, 0x100, 1, 0x100, false, [⟨23, 16, .ro, 0, 0, []⟩, ⟨1, 1, .ro, 0, 0, []⟩, ⟨0, 0, .ro, 0, 0, []⟩]⟩,
  -- MEM_S_CE
  ⟨0x181008, 8, 0x100, 1, 0x100, true, counterFields⟩,
  -- MEM_S_UE
  ⟨0x181010, 8, 0x100, 1, 0x100, true, counterFields⟩,
  -- MEM_S_MISDIR
  ⟨0x181018, 8, 0x100, 1, 0x100, true, counterFields⟩]

/-- Registers of the MEM space, part 1. -/
def rowsMem1 : List RegRow := [
  -- MEM_S_SCRUB_FIX
  ⟨0x181020, 8, 0x100, 1, 0x100, true, counterFields⟩]

/-- Registers of the MEM space. -/
def rowsMem : List RegRow := rowsMem0 ++ rowsMem1

/-- Registers of the BC space. -/
def rowsBc : List RegRow := [
  -- BC_CTRL
  ⟨0x1C0000, 1, 0x8, 1, 0x8, false, [⟨31, 16, .rw, 1024, 0, [(64, 65535)]⟩, ⟨3, 0, .rw, 6, 0, [(0, 12)]⟩]⟩,
  -- BC_STATUS
  ⟨0x1C0008, 1, 0x8, 1, 0x8, false, [⟨41, 32, .ro, 0, 0, []⟩, ⟨25, 16, .ro, 0, 0, []⟩, ⟨2, 2, .ro, 0, 0, []⟩, ⟨1, 1, .w1c, 0, 0, []⟩, ⟨0, 0, .w1c, 0, 0, []⟩]⟩,
  -- BC_FLUSH
  ⟨0x1C0010, 1, 0x8, 1, 0x8, false, [⟨28, 28, .wo, 0, 0, []⟩, ⟨27, 16, .wo, 0, 0, []⟩, ⟨1, 0, .wo, 0, 0, []⟩]⟩,
  -- BC_H_HIT
  ⟨0x1C0100, 2, 0x80, 1, 0x80, true, counterFields⟩,
  -- BC_H_MISS
  ⟨0x1C0108, 2, 0x80, 1, 0x80, true, counterFields⟩,
  -- BC_H_WRITEBACK
  ⟨0x1C0110, 2, 0x80, 1, 0x80, true, counterFields⟩,
  -- BC_H_LAST_DROP
  ⟨0x1C0118, 2, 0x80, 1, 0x80, true, counterFields⟩,
  -- BC_H_WCB_FULL
  ⟨0x1C0120, 2, 0x80, 1, 0x80, true, counterFields⟩,
  -- BC_H_WCB_TIMEOUT_CNT
  ⟨0x1C0128, 2, 0x80, 1, 0x80, true, counterFields⟩,
  -- BC_H_WCB_RMW
  ⟨0x1C0130, 2, 0x80, 1, 0x80, true, counterFields⟩,
  -- BC_H_WCB_EVICT
  ⟨0x1C0138, 2, 0x80, 1, 0x80, true, counterFields⟩]

/-- Registers of the STR space, part 0. -/
def rowsStr0 : List RegRow := [
  -- STR_STATUS
  ⟨0x200000, 1, 0x8, 1, 0x8, false, [⟨1, 1, .w1c, 0, 0, []⟩, ⟨0, 0, .w1c, 0, 0, []⟩]⟩,
  -- STR_TG_MASK0
  ⟨0x201000, 64, 0x40, 1, 0x40, false, [⟨63, 0, .rw, 0, 0, []⟩]⟩,
  -- STR_TG_MASK1
  ⟨0x201008, 64, 0x40, 1, 0x40, false, [⟨63, 0, .rw, 0, 0, []⟩]⟩,
  -- STR_TG_MASK2
  ⟨0x201010, 64, 0x40, 1, 0x40, false, [⟨15, 0, .rw, 0, 0, []⟩]⟩,
  -- STR_TG_CTL
  ⟨0x201018, 64, 0x40, 1, 0x40, false, [⟨63, 63, .rw, 0, 0, []⟩, ⟨11, 0, .rw, 0, 0, []⟩]⟩,
  -- STR_TG_STALL
  ⟨0x201020, 64, 0x40, 1, 0x40, true, counterFields⟩,
  -- STR_MC_MASK0
  ⟨0x202000, 256, 0x20, 1, 0x20, false, [⟨63, 0, .rw, 0, 0, []⟩]⟩,
  -- STR_MC_MASK1
  ⟨0x202008, 256, 0x20, 1, 0x20, false, [⟨63, 0, .rw, 0, 0, []⟩]⟩,
  -- STR_MC_MASK2
  ⟨0x202010, 256, 0x20, 1, 0x20, false, [⟨15, 0, .rw, 0, 0, []⟩]⟩,
  -- STR_MC_CTL
  ⟨0x202018, 256, 0x20, 1, 0x20, false, [⟨63, 63, .rw, 0, 0, []⟩, ⟨11, 0, .rw, 0, 0, []⟩]⟩,
  -- STR_Q_MAP
  ⟨0x210000, 1024, 0x40, 1, 0x40, false, [⟨63, 63, .rw, 0, 0, []⟩, ⟨62, 62, .rw, 0, 0, []⟩, ⟨61, 56, .rw, 0, 0, []⟩, ⟨47, 40, .rw, 255, 0, []⟩, ⟨39, 36, .rw, 0, 0, []⟩, ⟨35, 30, .rw, 0, 0, []⟩, ⟨27, 16, .rw, 0, 0, []⟩]⟩,
  -- STR_Q_STATUS
  ⟨0x210008, 1024, 0x40, 1, 0x40, false, [⟨39, 32, .ro, 0, 0, []⟩, ⟨24, 16, .ro, 0, 0, []⟩, ⟨4, 4, .w1c, 0, 0, []⟩, ⟨3, 3, .ro, 0, 0, []⟩, ⟨1, 0, .ro, 0, 0, []⟩]⟩]

/-- Registers of the STR space, part 1. -/
def rowsStr1 : List RegRow := [
  -- STR_Q_DONE
  ⟨0x210010, 1024, 0x40, 1, 0x40, false, [⟨31, 0, .ro, 0, 0, []⟩]⟩,
  -- STR_Q_WM
  ⟨0x210018, 1024, 0x40, 1, 0x40, false, [⟨63, 63, .w1c, 0, 0, []⟩, ⟨62, 62, .ro, 1, 0, []⟩, ⟨58, 48, .ro, 0, 0, []⟩, ⟨47, 32, .rw, 0, 0, []⟩, ⟨26, 16, .rw, 2047, 0, []⟩, ⟨10, 0, .rw, 0, 0, []⟩]⟩,
  -- STR_Q_BYTES
  ⟨0x210020, 1024, 0x40, 1, 0x40, true, counterFields⟩]

/-- Registers of the STR space. -/
def rowsStr : List RegRow := rowsStr0 ++ rowsStr1

/-- Registers of the CHN space. -/
def rowsChn : List RegRow := [
  -- CHN_STATUS
  ⟨0x400000, 1, 0x8, 1, 0x8, false, [⟨0, 0, .w1c, 0, 0, []⟩]⟩,
  -- CHN_CTRL
  ⟨0x401000, 144, 0x1000, 32, 0x40, false, [⟨63, 63, .rw, 0, 0, []⟩, ⟨62, 62, .rw, 0, 0, []⟩, ⟨61, 61, .rw, 0, 0, []⟩, ⟨60, 50, .rw, 0, 0, []⟩, ⟨49, 46, .rw, 0, 0, [(0, 10)]⟩, ⟨43, 36, .rw, 0, 0, []⟩, ⟨35, 24, .rw, 0, 0, []⟩, ⟨21, 7, .rw, 0, 0, []⟩]⟩,
  -- CHN_PTR
  ⟨0x401008, 144, 0x1000, 32, 0x40, false, [⟨63, 60, .ro, 0, 0, []⟩, ⟨31, 16, .ro, 0, 0, []⟩, ⟨15, 0, .ro, 0, 0, []⟩]⟩,
  -- CHN_HEAD
  ⟨0x401010, 144, 0x1000, 32, 0x40, false, [⟨63, 0, .ro, 0, 0, []⟩]⟩,
  -- CHN_WM
  ⟨0x401018, 144, 0x1000, 32, 0x40, false, [⟨63, 63, .w1c, 0, 0, []⟩, ⟨62, 62, .ro, 1, 0, []⟩, ⟨58, 48, .ro, 0, 0, []⟩, ⟨47, 32, .rw, 0, 0, []⟩, ⟨26, 16, .rw, 2047, 0, []⟩, ⟨10, 0, .rw, 0, 0, []⟩]⟩,
  -- CHN_DROPS
  ⟨0x401020, 144, 0x1000, 32, 0x40, true, counterFields⟩,
  -- CHN_ACCEPTS
  ⟨0x401028, 144, 0x1000, 32, 0x40, true, counterFields⟩,
  -- CHN_NOTICES
  ⟨0x401800, 144, 0x1000, 1, 0x1000, false, [⟨31, 0, .ro, 0, 0, []⟩]⟩]

/-- Registers of the TILE space, part 0. -/
def rowsTile0 : List RegRow := [
  -- TILE_CTRL
  ⟨0x1000000, 160, 0x10000, 1, 0x10000, false, [⟨2, 2, .w1s, 0, 0, []⟩, ⟨1, 1, .w1s, 0, 0, []⟩, ⟨0, 0, .w1s, 0, 0, []⟩]⟩,
  -- TILE_STATUS
  ⟨0x1000008, 160, 0x10000, 1, 0x10000, false, [⟨11, 11, .w1c, 0, 0, []⟩, ⟨10, 10, .w1c, 0, 0, []⟩, ⟨9, 9, .w1c, 0, 0, []⟩, ⟨8, 8, .w1c, 0, 0, []⟩, ⟨7, 7, .w1c, 0, 0, []⟩, ⟨6, 4, .ro, 0, 0, []⟩, ⟨2, 0, .ro, 0, 0, []⟩]⟩,
  -- TILE_PC
  ⟨0x1000010, 160, 0x10000, 1, 0x10000, false, [⟨21, 0, .rw, 0, 5, []⟩]⟩,
  -- TILE_PROG
  ⟨0x1000018, 160, 0x10000, 1, 0x10000, false, [⟨54, 32, .rw, 4194304, 5, [(0, 4194304)]⟩, ⟨21, 0, .rw, 0, 5, []⟩]⟩,
  -- TILE_FAULT
  ⟨0x1000020, 160, 0x10000, 1, 0x10000, false, [⟨63, 63, .w1c, 0, 0, []⟩, ⟨62, 62, .ro, 0, 0, []⟩, ⟨57, 56, .ro, 0, 0, []⟩, ⟨55, 48, .ro, 0, 0, []⟩, ⟨21, 0, .ro, 0, 0, []⟩]⟩,
  -- TILE_CTX
  ⟨0x1000028, 160, 0x10000, 1, 0x10000, false, [⟨20, 20, .ro, 0, 0, []⟩, ⟨19, 12, .ro, 0, 0, []⟩, ⟨11, 0, .ro, 0, 0, []⟩]⟩,
  -- TILE_RNG_KEY
  ⟨0x1000030, 160, 0x10000, 1, 0x10000, false, [⟨63, 0, .rw, 0, 0, []⟩]⟩,
  -- TILE_RNG_CTR_LO
  ⟨0x1000038, 160, 0x10000, 1, 0x10000, false, [⟨63, 0, .rw, 0, 0, []⟩]⟩,
  -- TILE_RNG_CTR_HI
  ⟨0x1000040, 160, 0x10000, 1, 0x10000, false, [⟨63, 0, .rw, 0, 0, []⟩]⟩,
  -- TILE_NACK_LOG
  ⟨0x1000100, 160, 0x10000, 8, 0x8, false, [⟨63, 63, .ro, 0, 0, []⟩, ⟨43, 40, .ro, 0, 0, []⟩, ⟨39, 32, .ro, 0, 0, []⟩, ⟨31, 0, .ro, 0, 0, []⟩]⟩,
  -- TILE_BUSY
  ⟨0x1000200, 160, 0x10000, 1, 0x10000, true, counterFields⟩,
  -- TILE_STALL_TIDE
  ⟨0x1000208, 160, 0x10000, 1, 0x10000, true, counterFields⟩]

/-- Registers of the TILE space, part 1. -/
def rowsTile1 : List RegRow := [
  -- TILE_STALL_CREDIT
  ⟨0x1000210, 160, 0x10000, 1, 0x10000, true, counterFields⟩,
  -- TILE_STALL_CHANNEL
  ⟨0x1000218, 160, 0x10000, 1, 0x10000, true, counterFields⟩,
  -- TILE_STALL_OTHER
  ⟨0x1000220, 160, 0x10000, 1, 0x10000, true, counterFields⟩,
  -- TILE_SREG
  ⟨0x1001000, 160, 0x10000, 32, 0x8, false, [⟨63, 0, .rw, 0, 0, []⟩]⟩,
  -- TILE_AREG
  ⟨0x1001100, 160, 0x10000, 16, 0x8, false, [⟨63, 0, .rw, 0, 0, []⟩]⟩,
  -- TILE_PREG
  ⟨0x1001180, 160, 0x10000, 1, 0x10000, false, [⟨7, 0, .rw, 1, 0, []⟩]⟩,
  -- TILE_VREG
  ⟨0x1002000, 160, 0x10000, 4096, 0x8, false, [⟨63, 0, .rw, 0, 0, []⟩]⟩,
  -- MXE_CTRL
  ⟨0x100C000, 160, 0x10000, 1, 0x10000, false, [⟨1, 1, .rw, 1, 0, []⟩, ⟨0, 0, .rw, 1, 0, []⟩]⟩,
  -- MXE_STATUS
  ⟨0x100C008, 160, 0x10000, 1, 0x10000, false, [⟨12, 12, .w1c, 0, 0, []⟩, ⟨11, 11, .w1c, 0, 0, []⟩, ⟨10, 10, .w1c, 0, 0, []⟩, ⟨9, 9, .w1c, 0, 0, []⟩, ⟨8, 8, .w1c, 0, 0, []⟩, ⟨7, 7, .w1c, 0, 0, []⟩, ⟨6, 3, .ro, 0, 0, []⟩, ⟨2, 0, .ro, 0, 0, []⟩]⟩,
  -- MXE_NF_CAPTURE
  ⟨0x100C010, 160, 0x10000, 1, 0x10000, false, [⟨63, 63, .w1c, 0, 0, []⟩, ⟨57, 56, .ro, 0, 0, []⟩, ⟨55, 52, .ro, 0, 0, []⟩, ⟨51, 50, .ro, 0, 0, []⟩, ⟨49, 46, .ro, 0, 0, []⟩, ⟨21, 0, .ro, 0, 0, []⟩]⟩,
  -- MXE_NF_TIDE
  ⟨0x100C018, 160, 0x10000, 1, 0x10000, false, [⟨63, 0, .ro, 0, 0, []⟩]⟩,
  -- MXE_REPAIR
  ⟨0x100C020, 160, 0x10000, 1, 0x10000, false, [⟨31, 24, .ro, 255, 0, []⟩, ⟨23, 16, .ro, 255, 0, []⟩, ⟨15, 8, .ro, 255, 0, []⟩, ⟨7, 0, .ro, 255, 0, []⟩]⟩]

/-- Registers of the TILE space, part 2. -/
def rowsTile2 : List RegRow := [
  -- MXE_ACTIVE
  ⟨0x100C100, 160, 0x10000, 1, 0x10000, true, counterFields⟩,
  -- MXE_CELLS
  ⟨0x100C108, 160, 0x10000, 1, 0x10000, true, counterFields⟩,
  -- MXE_PORT_STALL
  ⟨0x100C110, 160, 0x10000, 1, 0x10000, true, counterFields⟩,
  -- MXE_OUT_SAT_CNT
  ⟨0x100C118, 160, 0x10000, 1, 0x10000, true, counterFields⟩,
  -- VEC_STATUS
  ⟨0x100D000, 160, 0x10000, 1, 0x10000, false, [⟨5, 5, .w1c, 0, 0, []⟩, ⟨4, 4, .w1c, 0, 0, []⟩, ⟨3, 3, .w1c, 0, 0, []⟩, ⟨2, 2, .w1c, 0, 0, []⟩, ⟨1, 1, .w1c, 0, 0, []⟩, ⟨0, 0, .ro, 0, 0, []⟩]⟩,
  -- VEC_NF_CAPTURE
  ⟨0x100D008, 160, 0x10000, 1, 0x10000, false, [⟨63, 63, .w1c, 0, 0, []⟩, ⟨57, 56, .ro, 0, 0, []⟩, ⟨55, 48, .ro, 0, 0, []⟩, ⟨47, 40, .ro, 0, 0, []⟩, ⟨39, 36, .ro, 0, 0, []⟩, ⟨21, 0, .ro, 0, 0, []⟩]⟩,
  -- VEC_NF_TIDE
  ⟨0x100D010, 160, 0x10000, 1, 0x10000, false, [⟨63, 0, .ro, 0, 0, []⟩]⟩,
  -- VEC_ACTIVE
  ⟨0x100D100, 160, 0x10000, 1, 0x10000, true, counterFields⟩,
  -- VEC_SFU
  ⟨0x100D108, 160, 0x10000, 1, 0x10000, true, counterFields⟩,
  -- VEC_OUT_SAT_CNT
  ⟨0x100D110, 160, 0x10000, 1, 0x10000, true, counterFields⟩]

/-- Registers of the TILE space. -/
def rowsTile : List RegRow := rowsTile0 ++ rowsTile1 ++ rowsTile2

/-- Registers of the DB space. -/
def rowsDb : List RegRow := [
  -- DB_SQ_TAIL
  ⟨0x4000000, 4096, 0x1000, 1, 0x1000, false, [⟨15, 0, .rw, 0, 0, []⟩]⟩,
  -- DB_CQ_HEAD
  ⟨0x4000008, 4096, 0x1000, 1, 0x1000, false, [⟨15, 0, .rw, 0, 0, []⟩]⟩,
  -- DB_WAKE
  ⟨0x4000010, 4096, 0x1000, 1, 0x1000, false, [⟨0, 0, .w1s, 0, 0, []⟩]⟩,
  -- DB_CTRL
  ⟨0x4000018, 4096, 0x1000, 1, 0x1000, false, [⟨0, 0, .w1s, 0, 0, []⟩]⟩,
  -- Q_SQ_BASE
  ⟨0x4000100, 4096, 0x1000, 1, 0x1000, false, [⟨63, 12, .rw, 0, 0, []⟩]⟩,
  -- Q_CQ_BASE
  ⟨0x4000108, 4096, 0x1000, 1, 0x1000, false, [⟨63, 12, .rw, 0, 0, []⟩]⟩,
  -- Q_CFG
  ⟨0x4000110, 4096, 0x1000, 1, 0x1000, false, [⟨63, 63, .rw, 0, 0, []⟩, ⟨39, 29, .rw, 0, 0, []⟩, ⟨28, 28, .rw, 0, 0, []⟩, ⟨3, 0, .rw, 4, 0, [(4, 12)]⟩]⟩,
  -- Q_STATUS
  ⟨0x4000118, 4096, 0x1000, 1, 0x1000, false, [⟨63, 62, .ro, 0, 0, []⟩, ⟨47, 32, .ro, 0, 0, []⟩, ⟨31, 16, .ro, 0, 0, []⟩, ⟨15, 8, .ro, 0, 0, []⟩, ⟨0, 0, .ro, 1, 0, []⟩]⟩]

/-- The register rows of one unit. -/
def unitRows : RegUnit → List RegRow
  | .mgt => rowsMgt
  | .cfg => rowsCfg
  | .err => rowsErr
  | .pwr => rowsPwr
  | .hif => rowsHif
  | .tide => rowsTide
  | .ctx => rowsCtx
  | .prt => rowsPrt
  | .stg => rowsStg
  | .red => rowsRed
  | .upd => rowsUpd
  | .pan => rowsPan
  | .hrv => rowsHrv
  | .chk => rowsChk
  | .spr => rowsSpr
  | .rpl => rowsRpl
  | .com => rowsCom
  | .fab => rowsFab
  | .flr => rowsFlr
  | .mem => rowsMem
  | .bc => rowsBc
  | .str => rowsStr
  | .chn => rowsChn
  | .tile => rowsTile
  | .db => rowsDb

/-- The unit whose register space holds an offset; none where no unit's does. -/
def unitOf (off : Nat) : Option RegUnit :=
  (unitRanges.find? fun r => r.1 ≤ off ∧ off ≤ r.2.1).map (·.2.2)

/-- Whether a row holds a register at this offset. -/
def RegRow.has (r : RegRow) (off : Nat) : Bool :=
  r.base ≤ off && (off - r.base) / r.s1 < r.n1 &&
    ((off - r.base) % r.s1) % r.s2 == 0 && ((off - r.base) % r.s1) / r.s2 < r.n2

/-- The register at an offset, if one is assigned. -/
def rowOf (off : Nat) : Option RegRow :=
  match unitOf off with
  | none => none
  | some u => (unitRows u).find? fun r => r.has off

/-- The first index of the register at an offset in its row. -/
def RegRow.idx (r : RegRow) (off : Nat) : Nat := (off - r.base) / r.s1

/-- The reset values of a list of fields, as one word. -/
def fieldsReset : List FieldSpec → Word
  | [] => 0
  | f :: fs => Word.put (fieldsReset fs) ⟨f.hi, f.lo⟩ f.reset

/-- The physical tile that backs logical tile l at reset. DESIGN CHOICE (log 3): the fuses name no bad tile, so under
R37 logical index i of a die is backed by its physical index i. -/
def fusePhys (l : Nat) : Nat := 40 * (l / 36) + l % 36

/-- The value of a register that nothing has written: the reset column of its table. Only FLR_TILE_MAP and FLR_PTILE
depend on the index (R37, log 3). -/
def resetValue (off : Nat) : Word :=
  match rowOf off with
  | none => 0
  | some r =>
    if r.base = Reg.FLR_TILE_MAP 0 then BitVec.ofNat 64 (fusePhys (r.idx off))
    else if r.base = Reg.FLR_PTILE 0 then
      (let p := r.idx off
       if p % 40 < 36 then BitVec.ofNat 64 (256 * (36 * (p / 40) + p % 40) + 1) else BitVec.ofNat 64 (256 * 0xFF + 2))
    else fieldsReset r.fields

end Sys2Proof.Machine
end

