-- ==== Sys2Proof/Machine/Store.lean ====
section
/-! DEFINITION. Sparse tables: a list of (key, value) pairs in one canonical form. Registers, memory cells, accumulator
words and the per-unit records of the State are all kept in such tables, so that equal contents are equal data. -/
namespace Sys2Proof.Machine

/-- A sparse table from numbers to values; what an unlisted key reads as is said where the table is used. -/
abbrev Store (β : Type) := List (Nat × β)

/-- The value at key `k`; an unlisted key reads as `d k`. -/
def Store.lookup {β : Type} (d : Nat → β) : Store β → Nat → β
  | [], k => d k
  | (j, v) :: m, k => if k = j then v else Store.lookup d m k

/-- The table with `v` at key `k`; writing what an unlisted key reads as removes the entry. -/
def Store.update {β : Type} [DecidableEq β] (d : Nat → β) : Store β → Nat → β → Store β
  | [], k, v => if v = d k then [] else [(k, v)]
  | (j, w) :: m, k, v =>
    if k < j then (if v = d k then (j, w) :: m else (k, v) :: (j, w) :: m)
    else if k = j then (if v = d k then m else (k, v) :: m)
    else (j, w) :: Store.update d m k v

/-- The canonical form: keys strictly rising, and no entry equal to what an unlisted key reads as. -/
abbrev Store.Wf {β : Type} [DecidableEq β] (d : Nat → β) (m : Store β) : Prop :=
  (m.map Prod.fst).Pairwise (· < ·) ∧ ∀ e ∈ m, e.2 ≠ d e.1

/-- The table without the entries whose key satisfies `p` (those keys read as unlisted again). -/
def Store.clear {β : Type} (p : Nat → Bool) (m : Store β) : Store β := m.filter fun e => !p e.1

/-- The table with `f` applied to every listed value whose key satisfies `p`. -/
def Store.mapIf {β : Type} [DecidableEq β] (d : Nat → β) (p : Nat → Bool) (f : Nat → β → β) (m : Store β) : Store β :=
  m.foldl (fun acc e => if p e.1 then Store.update d acc e.1 (f e.1 e.2) else acc) m

end Sys2Proof.Machine
end

