-- ==== Sys2Proof/Machine/Parts.lean ====
section
/-! DEFINITION. The parts of the State that no register shows: what each unit of the Damzal remembers between commands
(chapters 01 to 18), as plain data, and the trace of what leaves the device. -/
namespace Sys2Proof.Machine

/-- A control-wavelength frame that this device sends to a tree neighbour or a link peer (chapters 02, 08, 09). -/
inductive Frame where
  | tide (d : Nat) (v : Word) (acts arg : Nat)
  | ready (d : Nat) (v : Word)
  | lost (d : Nat) (dev : Nat)
  | arm (d : Nat) (rec : List Word)
  | ack (d : Nat)
  | nack (d : Nat)
  | commit (d : Nat)
  | abort (d : Nat)
  | rearm (d : Nat) (dev : Nat) (rec : List Word)
  | stale (d : Nat) (dev : Nat)
  | heartbeat (dev : Nat) (gens : List (Nat × Nat))
  | linkAck (ctl : Bool) (seq : Nat)
  | nak (ctl : Bool) (seq : Nat)
  | classCredit (cls : Nat)
  | credit (dev port : Nat)
  | grant (dev port c : Nat)
  | grantAck (dev port : Nat)
  deriving DecidableEq, Repr

/-- An NVMe command that the harvest or NVME_READ sends to a target (R386, R505). -/
structure NvmeCmd where
  qp : Nat
  opcode : Nat
  nsid : Nat
  slba : Nat
  nlb : Nat
  addr : Nat
  deriving DecidableEq, Repr

/-- What leaves the device, in the order in which it leaves (the model's own trace, log 5). -/
inductive Output where
  | msix (func vec : Nat)
  | frame (port : Nat) (f : Frame)
  | packet (port : Nat) (pk : Packet)
  | corrupted (port : Nat) (what : Packet ⊕ Frame)
  | hostWrite (pasid : Nat) (addr : Nat) (data : List Byte)
  | hostRead (pasid : Nat) (addr len : Nat)
  | aerUncorrectable
  | nvme (c : NvmeCmd)
  | comet (lane : Nat) (addr : Option Nat) (c : Comet)
  | rdmaReply (n : Nat) (qp : Nat) (data : List Byte)
  | ethToCore (n : Nat) (k : EthKind)
  | spdm (ok : Bool) (err : Nat) (data : List Byte)
  | pin (name : String) (level : Bool)
  | vid (die : Nat) (mv : Nat)
  deriving DecidableEq, Repr

/-- The levels of the package pins that the part drives or samples (chapter 18). -/
structure Pins where
  tideIn : Bool
  perst : Bool
  pwrGood : Bool
  mainEn : Bool
  thermtrip : Bool
  icrit : Bool
  vrFault : Bool
  throttle : Bool
  deriving DecidableEq, Repr

/-- What a die-link or bridge signal remembers (R43, R44): its two trims, its eye margin, and whether it is failed and
steered onto a repair signal. -/
structure SignalState where
  fine : Nat
  coarse : Nat
  margin : Nat
  failed : Bool
  repaired : Bool
  deriving DecidableEq, Repr

/-- One bundle and direction of a link (R44, R45): the repairs in use and whether it is disabled. -/
structure BundleState where
  repairs : Nat
  disabled : Bool
  deriving DecidableEq, Repr

/-- What a held access to HBM does once it no longer waits: a write of bytes within one line, a write of a poisoned line (R244), a
LAST read that drops a dirty line (R378), or the clear of a granule (R378). -/
inductive HeldKind where
  | write | poison | lastRead | clear
  deriving DecidableEq, Repr

/-- An access to HBM on its way: what it does, where, with which bytes and hint, for which context and epoch, the number of the
operation that it belongs to, and whether the pan engine makes it. -/
structure HbmWrite where
  kind : HeldKind
  addr : Nat
  data : List Byte
  hint : Nat
  ctx : Nat
  epoch : Nat
  op : Nat
  pan : Bool
  deriving DecidableEq, Repr

/-- A line of the base cache (R224 to R228) in its way of its set. -/
structure CLine where
  addr : Nat
  way : Nat
  data : List Byte
  dirty : Bool
  keep : Bool
  poison : Bool
  deriving DecidableEq, Repr

/-- An open write-combining entry (R231), the one whose most recent write is oldest first in its list. -/
structure WEntry where
  addr : Nat
  mask : List Bool
  data : List Byte
  hint : Nat
  ctx : Nat
  epoch : Nat
  deriving DecidableEq, Repr

/-- What ends when an access that waits is served (R50, R235): a WRITE or READ_REQ that gets its answer, the local write of a multicast
packet or of a stream transfer, a read that passes through the cache, a stored reduction result, the outputs of an update run or of its comet
post-pass, a host command, or a stage entry (its port,
and the sender, tag and epoch of its HEAD). -/
inductive Waiter where
  | write (pk : Packet)
  | read (pk : Packet)
  | mcast (op : Nat)
  | transfer (q id : Nat)
  | cacheRead (line hint : Nat)
  | result (layer segment : Nat)
  | run (entry : Nat) (post : Bool)
  | host (c cid : Nat)
  | entry (port src tag epoch : Nat)
  deriving DecidableEq, Repr

/-- An operation that has issued its accesses and is not complete because some of them wait: its number, the pair whose clear its read
waits for, its code so far, and what ends with it. -/
structure WaitingOp where
  op : Nat
  pair : Option Nat
  code : Nat
  what : Waiter
  deriving DecidableEq, Repr

/-- The symbol errors that the controller's reads of a line meet, in the first try and in the retry (R212). -/
structure LineErrors where
  line : Nat
  first : SymbolErrors
  retry : SymbolErrors
  deriving DecidableEq, Repr

/-- The memory path in front of the stacks: both base caches with the recency bits of their sets, both write-combining buffers, the
pairs whose clear has not completed (R50), the accesses held on them or on protected granules (R376), the operations that wait for
them, the number of the operation in progress, the flush in progress (R230), the stacks that a loop-back has used (R222), and the
symbol errors that the command in progress meets. `owed` lists the WCB_MERGE_POISON entries (context, line address) that an operation
has found and not yet posted. `owed` and `met` are empty between commands. -/
structure MemPath where
  cache : List CLine
  order : Store Nat
  wcb : List WEntry
  clearing : List Nat
  guarded : List Nat
  copying : List Nat
  held : List HbmWrite
  waiting : List WaitingOp
  op : Nat
  looped : List Nat
  owed : List (Nat × Nat)
  scrubbed : Nat
  met : List LineErrors
  deriving DecidableEq, Repr

/-- An active loop of a tile (R99, R111): start and end PC of the body, and the runs that remain. -/
structure LoopEntry where
  start : Nat
  stop : Nat
  count : Nat
  deriving DecidableEq, Repr

/-- A matrix-slot instruction in the engine's queue with the operands read at issue (R114, R164), the generator state
reserved for a stochastic MOUT with its key (R174), whether it has started, and the cycles that it still needs at the full rate of the
read port (R168, R176). -/
structure MatEntry where
  ins : Mat
  pc : Nat
  a : Nat
  b : Nat
  desc : Word
  draw : Nat
  key : Nat
  started : Bool
  work : Nat
  deriving DecidableEq, Repr

/-- A message post of a tile that has not completed (R126, R127): its tag and channel, whether it is a CPOSTW's, whether the bundle of that
CPOSTW has been abandoned (R121), and its result once a CPOSTW's has one. -/
structure Post where
  tag : Nat
  chan : Nat
  waits : Bool
  orphan : Bool
  result : Option (Nat × Nat)
  deriving DecidableEq, Repr

/-- The four slots of a bundle with their guards. -/
structure Bundle where
  gc : Guard
  ctl : Ctl
  gm : Guard
  mat : Mat
  gv : Guard
  vec : Vec
  gw : Guard
  mov : Mov
  deriving DecidableEq, Repr

/-- What the control slot of a held bundle has already begun: a CPOSTW its post (R128), an LDONE its notification, of a layer and a
step (R131). -/
inductive Begun where
  | post (tag : Nat)
  | notice (layer step : Nat)
  deriving DecidableEq, Repr

/-- What a physical tile remembers beside its registers (R99, R121, R134, R164): loop and return stacks (innermost and
newest first), engine queue, posts, step and preemption requests, the bundle held by a wait, what its control slot has
already begun, the LIVE mask and 2,048 x the 64 KiB units of a save that awaits the engine queue, whether it has saved and whether it was
HALTED then (R483), and the address of a next bundle that TILE_PC cannot hold. -/
structure TileState where
  loops : List LoopEntry
  rets : List Nat
  queue : List MatEntry
  posts : List Post
  stepping : Bool
  preempt : Bool
  held : Option Bundle
  begun : Option Begun
  saving : Option Nat
  saved : Bool
  halted : Bool
  wild : Option Nat
  deriving DecidableEq, Repr

/-- An advance that the root holds (R70, R81, R94): its value, whether it is a gated NEXT_PHASE, whether it waits only for
two microseconds after COMMIT (not gated), and when it was requested. -/
structure Pending where
  value : Word
  gated : Bool
  atUs : Nat
  deriving DecidableEq, Repr

/-- What the tide unit remembers of a domain (chapter 02): the pending advance, the READY values sent (of this STEP or a later one) and received, the
ACKs received, the mode record held, when COMMIT was sent and the generation before it, the timer, the devices reported stale,
a parent lost and not yet rewritten, and whether TIDE_END has been posted. -/
structure TideDom where
  pending : Option Pending
  readySent : List Word
  childReady : List (Nat × Word)
  acked : List Nat
  ackSent : Bool
  record : Option (List Word)
  commitUs : Nat
  genBefore : Nat
  raised : Bool
  timerStart : Nat
  timerDue : Bool
  staleDevs : List Nat
  lostParent : Bool
  endPosted : Bool
  deriving DecidableEq, Repr

/-- One link sequence of a port (R273, R278): the SEQ that it sends next and the last that it accepted in order, whether it has named
the next one in a NAK and not yet seen it, the replay buffer (SEQ and what was sent, the oldest first), and the SEQ named by the
last NAK received with how often in a row. -/
structure LinkSeq where
  next : Nat
  rx : Nat
  asked : Bool
  replay : List (Nat × (Packet ⊕ Frame))
  nakSeq : Nat
  attempts : Nat
  deriving DecidableEq, Repr

/-- What a fabric port holds between packets (R268, R277 to R280, R288, R556): the link sequence of its data wavelengths and that of its
control wavelength, whether it has answered a LINK_QUERY, the per-class credits, the packets that wait for a credit or for room
in the replay buffer, those held by REORDER (rule, packets still to pass, what is held), and, while it settles, the tag of its
LINK_QUERY, the packets in doubt and those behind. -/
structure PortState where
  data : LinkSeq
  ctl : LinkSeq
  closed : Bool
  credits : List Nat
  queued : List Packet
  delayed : List (Nat × Nat × (Packet ⊕ Frame))
  settling : Option Nat
  doubtful : List Packet
  behind : List Packet
  beenUp : Bool
  deriving DecidableEq, Repr

/-- What an open fabric request is for (R271). -/
inductive Purpose where
  | transferWrite (q id : Nat)
  | transferRead (q id off : Nat)
  | blockList (q : Nat)
  | post (p : Nat)
  | stage (port : Nat)
  | query (port : Nat)
  | mirror (n : Nat)
  | reduce (layer segment : Nat)
  | restore
  | check (set : Nat)
  deriving DecidableEq, Repr

/-- A request that this device originated and that has no answer yet (R271). -/
structure OpenReq where
  tag : Nat
  dest : Nat
  ctx : Nat
  epoch : Nat
  addr : Nat
  bytes : Nat
  purpose : Purpose
  deriving DecidableEq, Repr

/-- A multicast packet on its way through this device's group tree (R282): the DOWN ports that have not acknowledged, the
worst code so far, whether this device is the root, and the number of its local write while that waits. -/
structure McastState where
  group : Nat
  tag : Nat
  src : Nat
  ctx : Nat
  epoch : Nat
  waits : List Nat
  code : Nat
  root : Bool
  op : Option Nat
  deriving DecidableEq, Repr

/-- One slot of a rank map on die (R283): its COUNT, its 16-bit entries, and whether a copy is in progress. -/
structure RankMap where
  count : Nat
  entries : List Nat
  loading : Bool
  deriving DecidableEq, Repr

/-- A stream transfer that is outstanding (R241, R244, R248): the bytes read so far and which of them are poisoned
(offset, length), where they go, the descriptor it belongs to, the tags it waits for, the pair whose clear its read waits
for (R50), and whether its local write waits (R235). -/
structure Transfer where
  id : Nat
  desc : Nat
  dst : Nat
  data : List Byte
  poison : List (Nat × Nat)
  hint : Nat
  mcast : Option (Bool × Nat)
  written : Bool
  waits : List Nat
  code : Nat
  ctx : Nat
  epoch : Nat
  readWait : Option Nat
  holding : Bool
  deriving DecidableEq, Repr

/-- The turns of a stream engine (R249, R480): for each partition the context whose turn it is, and for each context the queue whose turn it
is, each with the transfers that it may still issue in this turn. -/
structure EngineTurn where
  contexts : List (Nat × Nat × Nat)
  queues : List (Nat × Nat × Nat)
  deriving DecidableEq, Repr

/-- The block list in progress of a queue (R238 to R245): its address, how many descriptors have started, the current
descriptor with the run and the byte of the run that the next transfer starts at, the worst code, and how it ends. -/
structure ListRun where
  addr : Nat
  started : Nat
  desc : Option (List Byte)
  run : Nat
  pos : Nat
  fetched : Option (List Byte × Bool × Nat)
  fetching : Option Nat
  code : Nat
  ended : Bool
  halt : Bool
  epoch : Nat
  deriving DecidableEq, Repr

/-- A stream queue (R237): its posted lists not yet complete (the first is the one in progress), the list in progress,
its outstanding transfers, and the number of the next transfer. -/
structure StrQueue where
  lists : List Nat
  run : Option ListRun
  xfers : List Transfer
  nextId : Nat
  deriving DecidableEq, Repr

/-- A stage entry on its way into an inbound port: descriptor, the HEAD's tag and sender (from this device, the outbound port in place of
the tag), its epoch, the bytes and poison so far. -/
structure Arrival where
  desc : Word
  tag : Nat
  src : Nat
  epoch : Nat
  data : List Byte
  poison : List (Nat × Nat)
  deriving DecidableEq, Repr

/-- What a stage port holds (R297 to R305): descriptors of its held, landed and spilled entries (oldest first), how many
entries have landed, head and tail of its spill ring, the entry that is arriving, the packet sequences, an unacknowledged
GRANT, the entries sent to a port of this device that are not yet written, and complete entries that no slot can take while
their context is away (R484), and the PSEQ and number of DATA packets of the last HEAD that it refused. -/
structure StagePort where
  held : List Word
  landed : List Word
  spilled : List Word
  landedCount : Nat
  spillHead : Nat
  spillTail : Nat
  arriving : Option Arrival
  seqIn : Nat
  seqOut : Nat
  granting : Bool
  sending : List Arrival
  parked : List Arrival
  refused : Option (Nat × Nat)
  deriving DecidableEq, Repr

/-- A record of the weight-version table (R308). -/
structure Version where
  base : Nat
  ctx : Nat
  state : Nat
  refs : Nat
  pending : Bool
  supersede : Nat
  supValid : Bool
  deriving DecidableEq, Repr

/-- An entry of a fingerprint window table on die (R440), of a present window. -/
structure FpWindow where
  lo : Nat
  hi : Nat
  layer : Nat
  field : Nat
  ctx : Nat
  deriving DecidableEq, Repr

/-- What the replay unit remembers of a domain (R437 to R445): its windows on die, whether the current step is recorded, and
whether the last load of the window table failed. -/
structure ReplayDom where
  windows : List FpWindow
  recording : Bool
  winBad : Bool
  deriving DecidableEq, Repr

/-- A chunk of a reduction segment in progress (R323): the held bytes read (none before it starts), its poisoned blocks, the
blocks whose exponents came in poisoned packets (R327), the exponents combined so far with the blocks that each child has sent, the final exponents (received so far, then taken),
and the partial sums received (block and lanes) with the blocks that each child has sent. -/
structure RedChunk where
  idx : Nat
  started : Bool
  own : List Byte
  bad : List Nat
  expBad : List Nat
  up : List Nat
  upFrom : List (Nat × Nat)
  upSent : Bool
  down : List Nat
  exps : Option (List Nat)
  sums : List (Nat × List Int)
  sumFrom : List (Nat × Nat)
  deriving DecidableEq, Repr

/-- A reduction segment (R318, R323, R328): its descriptor's fields, parent and children as devices, chunks in progress or
received ahead, chunks started and finished, its requests, those of them and the held writes of results that its end waits for, and its code
once it has ended. -/
structure RedSegment where
  seg : Nat
  src : Nat
  dst : Nat
  blocks : Nat
  shard : Nat
  parent : Option Nat
  children : List Nat
  chunks : List RedChunk
  next : Nat
  finished : Nat
  asked : List Nat
  waits : List Nat
  writes : List Nat
  poisoned : Bool
  posted : Bool
  nf : Bool
  code : Option Nat
  deriving DecidableEq, Repr

/-- The reduction record of a layer (R558): its step, state and code as RED_LSTATE shows them, the logical tiles that have
given LDONE, its context and epoch, its segments, reduce packets that came before it started, and the step of the last record of the layer
that was COMPLETE and has been replaced. -/
structure RedLayer where
  step : Nat
  state : Nat
  code : Nat
  tiles : List Nat
  ctx : Nat
  epoch : Nat
  segs : List RedSegment
  early : List Packet
  last : Option Nat
  deriving DecidableEq, Repr

/-- A run of the shard update unit (R333, R341): the step it is scheduled for, whether it has started, the code that it will complete with,
and what it read when it started (R336, R340): its entry, both programs and its parameters. -/
structure UpdRun where
  step : Nat
  domain : Nat
  started : Bool
  code : Nat
  epoch : Nat
  entry : List Byte
  prog0 : List Byte
  prog1 : List Byte
  params : List Byte
  deriving DecidableEq, Repr

/-- A piece of the cursor or of a region that a fill still has to copy (R380): source and destination address, bytes, and the
context that a poisoned line is charged to. -/
structure PanPiece where
  src : Nat
  dst : Nat
  len : Nat
  ctx : Nat
  deriving DecidableEq, Repr

/-- A buddy mirror in progress (R383): the buddy, the step it is at (0 its commit record is read, 1 the image is written, 2 the
new record is written), the image chosen, the bytes written, and the bytes of the WRITE outstanding. -/
structure Mirror where
  dev : Nat
  stage : Nat
  image : Nat
  pos : Nat
  sent : Nat
  deriving DecidableEq, Repr

/-- What the pan engine remembers of a slot beside its registers (R359 to R393): the order in which its pan was taken, what its
fill has still to copy, its mirror, the harvest area it was given, and the logical tiles whose generator is captured once their swap is
over (R426). -/
structure PanSlot where
  order : Nat
  todo : List PanPiece
  mirror : Option Mirror
  area : Option Nat
  owes : List Nat
  deriving DecidableEq, Repr

/-- A target of a harvest (R388, R390): its next stripe (counted among its own), its outstanding Writes, the oldest first, with
their reissues, its outstanding Flush, and whether it is flushed. -/
structure HrvTarget where
  target : Nat
  next : Nat
  opens : List (Nat × Nat)
  flush : Option Nat
  flushed : Bool
  deriving DecidableEq, Repr

/-- The harvest in progress (R387 to R391, R399, R405): slot, area, the offset and records of its record section once built, and
its targets. -/
structure Harvest where
  slot : Nat
  area : Nat
  recsec : Nat
  records : Option (List Byte)
  targets : List HrvTarget
  deriving DecidableEq, Repr

/-- A RESTORE in progress (R394): its domain, where the image lies (the device, or this one), the image's header and list copy
once read, the range of the image it is at with the bytes of it that have come, and its code once it has ended. -/
structure Restore where
  domain : Nat
  dev : Option Nat
  base : Nat
  head : List Byte
  list : List Byte
  range : Nat
  got : List Byte
  code : Option Nat
  deriving DecidableEq, Repr

/-- An absorption in progress in a check set (R415): bytes still to absorb, whether FINISH follows, and its code once it is
poisoned or refused on the way. -/
structure ChkRun where
  left : Nat
  finish : Bool
  code : Option Nat
  deriving DecidableEq, Repr

/-- The tile swap in progress (R421 to R426): the logical tile, the old tile with the STATE it held, the spare under test or
passed, whether it has passed, whether the old tile has stopped, whether the swap is an ABANDON, whether the context of the tile has been
reset meanwhile (R426), when it began, and the deposits into the tile's memory that are held since (operation, offset, bytes, poisoned
parts). -/
structure Swap where
  ltile : Nat
  old : Nat
  was : Nat
  spare : Nat
  tested : Bool
  stopped : Bool
  abandon : Bool
  reset : Bool
  startUs : Nat
  deposits : List (Nat × Nat × List Byte × List (Nat × Nat))
  deriving DecidableEq, Repr

/-- A group of comets that is being sent to a site (R461, R463): the next index, its parity comets, and the lanes counted when it
started. -/
structure SendGroup where
  group : Nat
  next : Nat
  m : Nat
  lanes : List Nat
  deriving DecidableEq, Repr

/-- What a site still gets of a difference: the groups that wait, the group in progress, and whether MERGED has come. -/
structure OutSite where
  site : Nat
  todo : List Nat
  cur : Option SendGroup
  merged : Bool
  deriving DecidableEq, Repr

/-- A difference in the outbound deep buffer (R455, R458, R464): its outer step, its length, the MiB units of the buffer that
hold it, its K_full, whether sending has begun, whether this device has merged it itself, and its sites. -/
structure OutDiff where
  j : Nat
  bytes : Nat
  units : List Nat
  k : Nat
  started : Bool
  mine : Bool
  sites : List OutSite
  deriving DecidableEq, Repr

/-- A comet held in the inbound deep buffer: its index in the group, its SEQ and the address of its slot. -/
structure InComet where
  index : Nat
  seq : Nat
  slot : Nat
  deriving DecidableEq, Repr

/-- A group of an inbound difference: its K, its good comets, and whether it is complete (every data comet held). -/
structure InGroup where
  group : Nat
  k : Nat
  comets : List InComet
  complete : Bool
  deriving DecidableEq, Repr

/-- A difference of another site that has begun to arrive (R467). -/
structure InDiff where
  site : Nat
  j : Nat
  total : Nat
  bytes : Nat
  groups : List InGroup
  deriving DecidableEq, Repr

/-- A control comet that waits for a lane: site, kind, outer step, SEQ and group. -/
structure CtlComet where
  site : Nat
  kind : Nat
  j : Nat
  seq : Nat
  group : Nat
  deriving DecidableEq, Repr

/-- What the comet engine remembers (chapter 15): the difference being formed (step, parts by comet entry), both deep buffers, the
next SEQ, the FREE_SEQ received and the FREE_SEQ reported by site, the peer table, the frozen merge set (outer step, then outer
step and site of each difference), whether its merge record is written, the overdue sites posted, and control comets waiting. -/
structure Far where
  building : Option (Nat × List (Nat × List Byte))
  outs : List OutDiff
  ins : List InDiff
  seqs : Store Nat
  frees : Store Nat
  reports : Store Nat
  peers : List Byte
  frozen : Option (Nat × List (Nat × Nat))
  recorded : Bool
  overdue : List (Nat × Nat)
  ctl : List CtlComet
  deriving DecidableEq, Repr

/-- What the manager remembers of a context beside its registers (R482, R486 to R491): whether it has been placed since CREATE or
RESET, whether a DESTROY waits for its reset, when it became schedulable while not resident, and whether a wake restarts
its tiles at their next placement. -/
structure CtxExtra where
  placed : Bool
  destroying : Bool
  wokenUs : Option Nat
  restart : Bool
  deriving DecidableEq, Repr

/-- What the manager remembers of a partition (R483, R485): when its resident context became resident, the tile cycles for which
it has been resident but for those excluded from E, and the context that is being restored. -/
structure PartState where
  sinceUs : Nat
  ran : Nat
  placing : Option Nat
  deriving DecidableEq, Repr

/-- A host command that has been issued or disposed of (R505 to R507): CID, opcode, whether its IRQ flag is set, SQ_HEAD after it, its code
once it has ended, the bytes moved, its device address, and the bytes that it awaits from a target. -/
structure HostOp where
  cid : Nat
  opc : Nat
  irq : Bool
  head : Nat
  code : Option Nat
  bytes : Nat
  dev : Nat
  len : Nat
  epoch : Nat
  deriving DecidableEq, Repr

/-- What the host interface remembers of a command queue (R502 to R509): its commands whose completion is not written, the oldest first,
and whether its interrupt is outstanding. -/
structure HostQueue where
  ops : List HostOp
  irqOut : Bool
  deriving DecidableEq, Repr

/-- An accepted image in a firmware slot of the flash (R510): its security version and ACTIVE_SEQ. -/
structure FwSlot where
  svn : Nat
  seq : Nat
  deriving DecidableEq, Repr

/-- A valid configuration image in the flash (R516): SEQ and records. -/
structure CfgImage where
  seq : Nat
  records : List Byte
  deriving DecidableEq, Repr

/-- What the management core and the flash hold (chapter 17): the firmware slots, the security version of an image being staged, the
configuration images, the records of a CFG WRITE in progress, the SPDM sessions, the MGT command that runs (0 none), the MGT and CFG commands
that wait for a hand-over to end, whether a telemetry record is being written, records written since reset, the queue-pair table, the rates
of queue pairs in units of 2^-32 of the line rate, and the addresses of the outer ports and of the SMBus target. -/
structure Mgmt where
  slot0 : Option FwSlot
  slot1 : Option FwSlot
  staging : Nat
  imgA : Option CfgImage
  imgB : Option CfgImage
  writing : List Byte
  sessions : List Nat
  cmd : Nat
  mgtWait : Option Nat
  cfgWait : Option Nat
  recording : Bool
  records : Nat
  qps : List Byte
  rates : Store Nat
  mac : List Byte
  smbus : Nat
  deriving DecidableEq, Repr

/-- What the power loops remember (chapter 18): the closed intervals of the last 200 s, in microseconds, in which the effective clock was
above 1.6 GHz, the start of the open one, when the last clamp ended, the dies at their voltage limit, the tile cycles since reset, and the energy not yet
counted, in units of 10 nJ. -/
structure Power where
  above : List (Nat × Nat)
  since : Option Nat
  clampEnd : Option Nat
  limited : List Nat
  cycles : Nat
  energy : Nat
  deriving DecidableEq, Repr

/-- The PRT_CMD command that is running (R476): its code and its context or partition. -/
structure PrtRun where
  cmd : Nat
  target : Nat
  deriving DecidableEq, Repr

end Sys2Proof.Machine
end

