-- ==== Sys2Proof/Machine/State.lean ====
section
/-! DEFINITION. The state of one Damzal, as plain data: every register of its BAR0 and doorbell spaces (one home each),
memory, accumulators, what each unit remembers, the pins, the time, and the queue of waiting commands. -/
namespace Sys2Proof.Machine

/-- Faults that would stop the machine. The spec gives every command an effect, so no meaning answers with one. -/
inductive Fault where
  /-- Raised by no meaning: the block has no condition that stops it (safe: it allows nothing). -/
  | stopped
  deriving DecidableEq, Repr

/-- Refusals: a command without a meaning. -/
inductive Refusal where
  /-- Raised by an arm of exec whose command has no meaning yet, with the command's mnemonic (safe: nothing follows). -/
  | notModelled (mnemonic : String)
  deriving DecidableEq, Repr

/-- The state of the device. -/
structure State where
  /-- Registers by BAR0 offset (doorbell pages from 0x400_0000); unlisted ones hold their reset value. -/
  regs : Store Word
  /-- Bytes of HBM and of tile memory by local device address; unlisted ones hold 0 (log 4). -/
  mem : List Host.Cell
  /-- Poisoned units: base addresses of 64-byte HBM lines (R215) and of 32-byte tile-memory units (R139). -/
  poison : List Nat
  /-- Accumulator words, keyed by 65,536 x tile + 16,384 x bank + 128 x row + column. -/
  acc : Store (BitVec 32)
  /-- The memory path in front of the stacks. -/
  path : MemPath
  /-- Deskew signals, keyed by `sigKey`. -/
  signals : Store SignalState
  /-- Bundles of the links, keyed by 512 x link + 256 x direction + bundle. -/
  bundles : Store BundleState
  /-- Tide domains 0 to 15. -/
  domains : Store TideDom
  /-- Physical tiles 0 to 159. -/
  tiles : Store TileState
  /-- Fabric ports 0 to 31. -/
  ports : Store PortState
  /-- The open fabric requests of this device. -/
  opens : List OpenReq
  /-- Messages between tiles of this device that have been sent and have not reached their ring. -/
  locals : List Packet
  /-- Tags of requests that a resend could not route, with their codes; empty between commands. -/
  dropped : List (Nat × Nat)
  /-- The tag of the next request. -/
  nextTag : Nat
  /-- Multicast packets on their way. -/
  mcasts : List McastState
  /-- Rank-map slots on die, keyed by 2 x domain + slot. -/
  rmaps : Store RankMap
  /-- The slot that each domain uses in phased mode (R286). -/
  phaseSlots : Store Nat
  /-- Stream queues 0 to 1,023. -/
  queues : Store StrQueue
  /-- The turns of stream engines 0 to 15 (R249, R480). -/
  turns : Store EngineTurn
  /-- Tile groups 0 to 63 that are stalled, as the engines have observed (R251). -/
  stalled : List Nat
  /-- Stage ports 0 to 255. -/
  stagePorts : Store StagePort
  /-- The weight-version table, keyed by 8 x layer + version. -/
  versions : Store Version
  /-- The replay unit's view of domains 0 to 15. -/
  replays : Store ReplayDom
  /-- Reduction records of layers 0 to 4,095 (R558). -/
  reds : Store RedLayer
  /-- Scheduled runs of the shard update unit, by shard entry (R333). -/
  runs : Store (Option UpdRun)
  /-- What the pan engine remembers of slots 0 to 3. -/
  panSlots : Store PanSlot
  /-- The harvest in progress. -/
  harvest : Option Harvest
  /-- Whether a harvest has chosen its area since reset (R389). -/
  harvested : Bool
  /-- The RESTORE in progress. -/
  restoring : Option Restore
  /-- Absorptions in progress, by 16 x unit + set. -/
  checks : Store (Option ChkRun)
  /-- The tile swap in progress. -/
  swap : Option Swap
  /-- Uncorrectable tile-memory errors of physical tiles 0 to 159 since each became ACTIVE (R427). -/
  tmErrors : Store Nat
  /-- Physical tiles whose automatic swap waits for the running one (R427). -/
  swapWaits : List Nat
  /-- The comet engine. -/
  far : Far
  /-- Contexts 0 to 4,095. -/
  ctxs : Store CtxExtra
  /-- Partitions 0 to 15. -/
  parts : Store PartState
  /-- The manager's command in progress. -/
  prtRun : Option PrtRun
  /-- Command queues of contexts 0 to 4,095. -/
  hostQs : Store HostQueue
  /-- The context whose queue the host interface served last (R505). -/
  hostTurn : Nat
  /-- The management core and the flash. -/
  mgmt : Mgmt
  /-- The power loops. -/
  power : Power
  /-- Package pins. -/
  pins : Pins
  /-- Microseconds since power-on (R519). -/
  now : Nat
  /-- Ledger postings since power-on (R519 SEQ). -/
  posted : Nat
  /-- Draws made of free values (the model's own field, log 7). -/
  free : Nat
  /-- What has left the device (the model's own field, log 5). -/
  out : List Output
  /-- The commands that wait, first in, first out. -/
  pending : List Instr
  deriving DecidableEq, Repr

/-- A signal right after power-on, before training (log 2). -/
def SignalState.init : SignalState := ⟨0, 0, 0, false, false⟩

/-- A bundle with no repair in use. -/
def BundleState.init : BundleState := ⟨0, false⟩

/-- A tile with empty stacks and nothing in progress (R100). -/
def TileState.init : TileState := ⟨[], [], [], [], false, false, none, none, none, false, false, none⟩

/-- A domain with nothing pending (R62, R554). -/
def TideDom.init : TideDom := ⟨none, [], [], [], false, none, 0, 0, false, 0, false, [], false, false⟩

/-- An empty memory path. -/
def MemPath.init : MemPath := ⟨[], [], [], [], [], [], [], [], 0, [], [], 0, []⟩

/-- The pins of an unpowered package (log 2): resets asserted, and every open-drain input released. -/
def Pins.init : Pins := ⟨false, false, false, false, true, true, true, true⟩

/-- A link sequence after training: SEQ starts at 0 (DESIGN CHOICE, log 2). -/
def LinkSeq.init : LinkSeq := ⟨0, 65535, false, [], 0, 0⟩

/-- A fabric port that has never trained (R264). Every class starts with 1,024 credits, as many as the replay buffer holds (DESIGN
CHOICE, log 2). -/
def PortState.init : PortState :=
  ⟨LinkSeq.init, LinkSeq.init, false, [1024, 1024, 1024, 1024], [], [], none, [], [], false⟩

/-- An empty rank-map slot. -/
def RankMap.init : RankMap := ⟨0, [], false⟩

/-- An idle stream queue. -/
def StrQueue.init : StrQueue := ⟨[], none, [], 0⟩

/-- A stream engine before its first transfer. -/
def EngineTurn.init : EngineTurn := ⟨[], []⟩

/-- A stage port without entries. -/
def StagePort.init : StagePort := ⟨[], [], [], 0, 0, 0, none, 0, 0, false, [], [], none⟩

/-- A FREE version record. -/
def Version.init : Version := ⟨0, 0, 0, 0, false, 0, false⟩

/-- A domain without windows or record. -/
def ReplayDom.init : ReplayDom := ⟨[], false, false⟩

/-- An IDLE reduction record. -/
def RedLayer.init : RedLayer := ⟨0, 0, 0, [], 0, 0, [], [], none⟩

/-- A slot without a pan. -/
def PanSlot.init : PanSlot := ⟨0, [], none, none, []⟩

/-- A comet engine with empty buffers. -/
def Far.init : Far := ⟨none, [], [], [], [], [], [], none, false, [], []⟩

/-- A context that has not been placed. -/
def CtxExtra.init : CtxExtra := ⟨false, false, none, false⟩

/-- A partition without a resident context. -/
def PartState.init : PartState := ⟨0, 0, none⟩

/-- A command queue with nothing in progress. -/
def HostQueue.init : HostQueue := ⟨[], false⟩

/-- The management core of a part as manufactured (log 2): firmware in slot 0, slot 1 and both configuration images empty, outer port
addresses 0, and the fused SMBus address. -/
def Mgmt.init : Mgmt :=
  ⟨some ⟨0, 1⟩, none, 0, none, none, [], [], 0, none, none, false, 0, [], [], List.replicate 12 0, 0x4C⟩

/-- Power loops with no history. -/
def Power.init : Power := ⟨[], none, none, [], 0, 0⟩

/-- The machine right after power-on: every register at its reset value, memory with nothing listed, nothing in
progress, and no command waiting. -/
def State.reset : State where
  regs := []
  mem := []
  poison := []
  acc := []
  path := MemPath.init
  signals := []
  bundles := []
  domains := []
  tiles := []
  ports := []
  opens := []
  locals := []
  dropped := []
  nextTag := 0
  mcasts := []
  rmaps := []
  phaseSlots := []
  queues := []
  turns := []
  stalled := []
  stagePorts := []
  versions := []
  replays := []
  reds := []
  runs := []
  panSlots := []
  harvest := none
  harvested := false
  restoring := none
  checks := []
  swap := none
  tmErrors := []
  swapWaits := []
  far := Far.init
  ctxs := []
  parts := []
  prtRun := none
  hostQs := []
  hostTurn := 4095
  mgmt := Mgmt.init
  power := Power.init
  pins := Pins.init
  now := 0
  posted := 0
  free := 0
  out := []
  pending := []

end Sys2Proof.Machine
end

