-- ==== Sys2Proof/Machine/Ops.lean ====
section
/-! DEFINITION. The named operations that every unit shares: registers and their fields, bytes and words, completion codes,
statistics counters (R9 to R12), interrupts (R498), the error ledger's record of a posting (R519 to R523), watermarks
(R14 to R18) and free values. Operations take the State last, so that they chain. -/
namespace Sys2Proof.Machine

/-! ### Registers -/

/-- The value a register holds (its one home; R27 access types are applied by the accesses, not here). -/
def State.reg (s : State) (off : Nat) : Word := Store.lookup resetValue s.regs off

/-- The register at `off` set to `v`. -/
def setR (off : Nat) (v : Word) (s : State) : State := { s with regs := Store.update resetValue s.regs off v }

/-- The value of a field of a register. -/
def State.fld (s : State) (off : Nat) (f : Fld) : Nat := (s.reg off).get f

/-- A one-bit field, as a Bool. -/
def State.on (s : State) (off : Nat) (f : Fld) : Bool := s.fld off f ≠ 0

/-- A field of a register set to `v`. -/
def put (off : Nat) (f : Fld) (v : Nat) (s : State) : State := setR off ((s.reg off).put f v) s

/-- A bit field set to one: the setting of a sticky bit (R19). -/
def raise (off : Nat) (f : Fld) (s : State) : State := put off f 1 s

/-- A bit field set from a Bool. -/
def putB (off : Nat) (f : Fld) (b : Bool) (s : State) : State := put off f (if b then 1 else 0) s

/-- `f` where `c` holds, else nothing. -/
def when (c : Bool) (f : State → State) (s : State) : State := if c then f s else s

/-- `f` for every element of a list in order. -/
def forEach {α : Type} (l : List α) (f : α → State → State) (s : State) : State := l.foldl (fun s a => f a s) s

/-- Every listed register whose offset satisfies `p`, put through `f`; unlisted registers hold their reset value. -/
def mapRegs (p : Nat → Bool) (f : Nat → Word → Word) (s : State) : State :=
  { s with regs := Store.mapIf resetValue p f s.regs }

/-- Whether some register that is not at its reset value satisfies `p`. -/
def State.anyReg (s : State) (p : Nat → Word → Bool) : Bool := s.regs.any fun e => p e.1 e.2

/-- Whether any context is present (R475). -/
def State.anyContext (s : State) : Bool :=
  s.anyReg fun off w => Reg.CTX_CTRL 0 ≤ off && off < Reg.CTX_CTRL 4096 && (off - Reg.CTX_CTRL 0) % 0x40 == 0 &&
    w.get F.CTX_CTRL_STATE != 0

/-- Something leaves the device. -/
def emit (o : Output) (s : State) : State := { s with out := s.out ++ [o] }

/-- A draw of a free value: the counter that its opaque function is applied to, and the state after the draw. -/
def drawFree (s : State) : Nat × State := (s.free, { s with free := s.free + 1 })

/-! ### Numbers, bits and bytes -/

/-- The bits [hi:lo] of a number. -/
def bits (v hi lo : Nat) : Nat := (v >>> lo) % 2 ^ (hi + 1 - lo)

/-- Bit `i` of a number. -/
def bit (v i : Nat) : Bool := v.testBit i

/-- The little-endian bytes of a number. -/
def bytesOf (n : Nat) (v : Nat) : List Byte := (List.range n).map fun i => BitVec.ofNat 8 (v >>> (8 * i))

/-- The number that little-endian bytes spell. -/
def ofBytes (l : List Byte) : Nat := l.foldr (fun b acc => b.toNat + 256 * acc) 0

/-- Bytes i to i + n - 1 of a list, as a number. -/
def field (l : List Byte) (i n : Nat) : Nat := ofBytes ((l.drop i).take n)

/-- `l` with its elements from position `i` replaced by those of `r`. -/
def splice {α : Type} (l : List α) (i : Nat) (r : List α) : List α := l.take i ++ r ++ l.drop (i + r.length)

/-- The signed value of the low `n` bits of a number. -/
def signed (n v : Nat) : Int := (BitVec.ofNat n v).toInt

/-- The parity of a number's low 64 bits. -/
def parity (v : Nat) : Bool := ((List.range 64).map fun i => v.testBit i).foldl xor false

/-- Rounding up in units of `n`. -/
def ceilDiv (a n : Nat) : Nat := (a + n - 1) / n

/-- The lowest element of `l` that satisfies `p`. -/
def lowest (l : List Nat) (p : Nat → Bool) : Option Nat := l.find? p

/-! ### Completion codes (R29, R30) -/

namespace Code
def DONE : Nat := 0x00
def FLUSHED : Nat := 0x01
def ABORTED : Nat := 0x02
def EPOCH_STALE : Nat := 0x03
def POISONED : Nat := 0x04
def NONFINITE : Nat := 0x05
def TIMEOUT : Nat := 0x06
def NOT_OWNER : Nat := 0x07
def MODE_STALE : Nat := 0x08
def DEFERRED : Nat := 0x09
def REFUSED : Nat := 0x0A

/-- The precedence number of a completion code (R30's table). -/
def rank (c : Nat) : Nat :=
  [11, 3, 2, 1, 7, 10, 8, 5, 4, 9, 6].getD c 12

/-- Of two completion codes that apply to one operation, the one that is reported (R30). -/
def worse (a b : Nat) : Nat := if rank b < rank a then b else a
end Code

/-- NACK reasons (R31). -/
inductive Nack where
  | ringFull | ringDisabled | epoch | modeStale | noContext | paused
  deriving DecidableEq, Repr

/-- The 4-bit code of a NACK reason (R31). -/
def Nack.code : Nack → Nat
  | .ringFull => 1 | .ringDisabled => 2 | .epoch => 3 | .modeStale => 4 | .noContext => 5 | .paused => 6

/-! ### Tide words -/

/-- STEP of a tide word (R59). -/
def tideStep (v : Word) : Nat := v.toNat >>> 24
/-- PHASE of a tide word (R59). -/
def tidePhase (v : Word) : Nat := (v.toNat >>> 16) % 256
/-- TICK of a tide word (R59). -/
def tideTick (v : Word) : Nat := v.toNat % 65536
/-- The tide word (step, phase, tick). -/
def tideWord (step phase tick : Nat) : Word := BitVec.ofNat 64 (step * 2 ^ 24 + phase % 256 * 65536 + tick % 65536)

namespace Phase
def IDLE : Nat := 0
def FLOW : Nat := 1
def DRAIN : Nat := 2
def UPDATE : Nat := 3
def SEAL : Nat := 4
def OUTER : Nat := 5
def PAUSE : Nat := 6
def REPLAY : Nat := 7
end Phase

/-- The tide of domain `d`. -/
def State.tide (s : State) (d : Nat) : Word := s.reg (Reg.TIDE_VALUE d)
/-- The role of domain `d`: 0 OFF, 1 MEMBER, 2 ROOT. -/
def State.role (s : State) (d : Nat) : Nat := s.fld (Reg.TIDE_CTRL d) F.TIDE_CTRL_ROLE
/-- The phase of domain `d`. -/
def State.phase (s : State) (d : Nat) : Nat := tidePhase (s.tide d)

/-- Whether the tide of a domain has reached `v` (R61, with its exception for PAUSE and REPLAY). -/
def reached (tide v : Word) : Bool :=
  if tidePhase tide = Phase.PAUSE ∨ tidePhase tide = Phase.REPLAY then
    tideStep v < tideStep tide ||
      (tideStep v == tideStep tide && (tidePhase v == Phase.IDLE || tidePhase v == Phase.PAUSE || tidePhase v == Phase.REPLAY) &&
        v.toNat ≤ tide.toNat)
  else v.toNat ≤ tide.toNat

/-- The part of a unit that the State keeps for one index, and its update. -/
def State.dom (s : State) (d : Nat) : TideDom := Store.lookup (fun _ => TideDom.init) s.domains d
def setDom (d : Nat) (x : TideDom) (s : State) : State :=
  { s with domains := Store.update (fun _ => TideDom.init) s.domains d x }
def State.tile (s : State) (p : Nat) : TileState := Store.lookup (fun _ => TileState.init) s.tiles p
def setTile (p : Nat) (x : TileState) (s : State) : State :=
  { s with tiles := Store.update (fun _ => TileState.init) s.tiles p x }

/-! ### Contexts -/

def State.ctx (s : State) (c : Nat) : CtxExtra := Store.lookup (fun _ => CtxExtra.init) s.ctxs c
def setCtx (c : Nat) (x : CtxExtra) (s : State) : State :=
  { s with ctxs := Store.update (fun _ => CtxExtra.init) s.ctxs c x }
def State.part (s : State) (q : Nat) : PartState := Store.lookup (fun _ => PartState.init) s.parts q
def setPart (q : Nat) (x : PartState) (s : State) : State :=
  { s with parts := Store.update (fun _ => PartState.init) s.parts q x }

namespace CtxState
def ABSENT : Nat := 0
def ACTIVE : Nat := 1
def QUARANTINED : Nat := 2
def RESETTING : Nat := 3
end CtxState

/-- The state of context `c` (R475). -/
def State.ctxState (s : State) (c : Nat) : Nat := s.fld (Reg.CTX_CTRL c) F.CTX_CTRL_STATE
/-- The current epoch of context `c`. -/
def State.epoch (s : State) (c : Nat) : Nat := s.fld (Reg.CTX_CTRL c) F.CTX_CTRL_EPOCH
/-- The tide domain of context `c`. -/
def State.ctxDomain (s : State) (c : Nat) : Nat := s.fld (Reg.CTX_CTRL c) F.CTX_CTRL_DOMAIN
/-- The partition of context `c`. -/
def State.ctxPart (s : State) (c : Nat) : Nat := s.fld (Reg.CTX_CTRL c) F.CTX_CTRL_PARTITION
/-- Whether context `c` is present (R475). -/
def State.present (s : State) (c : Nat) : Bool := s.ctxState c ≠ CtxState.ABSENT
/-- This device's ID (FAB_ID). -/
def State.deviceId (s : State) : Nat := s.fld Reg.FAB_ID F.FAB_ID_ID

/-- The fatal stop of R524 is in force: every engine has stopped issuing. -/
def State.fatal (s : State) : Bool := s.on Reg.ERR_STATUS F.ERR_STATUS_FATAL_STOP

/-! ### Interrupts (R498) -/

/-- An MSI-X message to vector `vec` of function `func`; one at or beyond the function's table is not sent and sets
BAD_VECTOR (R498; 2,048 vectors on the PF, 64 on each VF under R497). -/
def sendMsix (func vec : Nat) (s : State) : State :=
  if vec < (if func = 0 then 2048 else 64) then emit (.msix func vec) s
  else raise Reg.HIF_STATUS F.HIF_STATUS_BAD_VECTOR s

/-! ### The error ledger: recording a posting (R519 to R523) -/

/-- Severities (R32). -/
inductive Sev where
  | corrected | contained | fatal
  deriving DecidableEq, Repr

/-- The 2-bit code of a severity. -/
def Sev.code : Sev → Nat
  | .corrected => 0 | .contained => 1 | .fatal => 2

/-- Unit codes of the ledger (R519). -/
inductive LUnit where
  | mgt | cfg | hif | pwr | flr | tide | tile | mem | bc | str | chn | stg | red | upd | pan | chk | spr | rpl | fab | com
  | prt | mxe | vec
  deriving DecidableEq, Repr

/-- The 6-bit code of a unit (R519's table). -/
def LUnit.code : LUnit → Nat
  | .mgt => 0x00 | .cfg => 0x01 | .hif => 0x02 | .pwr => 0x03 | .flr => 0x04 | .tide => 0x05 | .tile => 0x06
  | .mem => 0x07 | .bc => 0x08 | .str => 0x09 | .chn => 0x0A | .stg => 0x0B | .red => 0x0C | .upd => 0x0D
  | .pan => 0x0E | .chk => 0x10 | .spr => 0x11 | .rpl => 0x12 | .fab => 0x13 | .com => 0x14 | .prt => 0x15
  | .mxe => 0x16 | .vec => 0x17

/-- A posting before it is recorded: its code, severity and unit, the context and the domain it concerns, its DETAIL. -/
structure Posting where
  code : Nat
  sev : Sev
  unit : LUnit
  ctx : Option Nat
  dom : Option Nat
  detail : Nat
  deriving DecidableEq, Repr

/-- The domain whose tide an entry carries (R519): the domain concerned, else the context's. -/
def Posting.tideOf (p : Posting) (s : State) : Word :=
  match p.dom with
  | some d => if s.role d = 0 then 0 else s.tide d
  | none =>
    match p.ctx with
    | some c => if s.present c && s.role (s.ctxDomain c) ≠ 0 then s.tide (s.ctxDomain c) else 0
    | none => 0

/-- The four 8-byte words of a ledger entry (R519). A context that is not present leaves CTX_VALID 0 (R521). -/
def Posting.words (p : Posting) (s : State) : List Word :=
  let valid := match p.ctx with | some c => s.present c | none => false
  let c := match p.ctx with | some c => c % 4096 | none => 0
  let ctxw := if valid then c + 4096 else 0
  let ep := if valid then s.epoch c else 0
  [BitVec.ofNat 64 (s.now % 2 ^ 48 + p.code % 65536 * 2 ^ 48),
   p.tideOf s,
   BitVec.ofNat 64 (s.posted % 2 ^ 32 + ctxw * 2 ^ 32 + ep * 2 ^ 48 + (p.sev.code + 4 * p.unit.code) * 2 ^ 56),
   BitVec.ofNat 64 p.detail]

/-- The SEEN bit, the IRQ enable and the vector of a severity. -/
def Sev.seen : Sev → Fld
  | .corrected => F.ERR_STATUS_CORRECTED_SEEN | .contained => F.ERR_STATUS_CONTAINED_SEEN
  | .fatal => F.ERR_STATUS_FATAL_SEEN
def Sev.irq : Sev → Fld
  | .corrected => F.ERR_CTRL_IRQ_CORRECTED | .contained => F.ERR_CTRL_IRQ_CONTAINED | .fatal => F.ERR_CTRL_IRQ_FATAL
def Sev.vec : Sev → Fld
  | .corrected => F.ERR_CTRL_VEC_CORRECTED | .contained => F.ERR_CTRL_VEC_CONTAINED | .fatal => F.ERR_CTRL_VEC_FATAL

/-- The level of the ledger ring, (WP - RP) mod 2^16 (R522). -/
def State.ledgerLevel (s : State) : Nat :=
  (s.fld Reg.ERR_PTR F.ERR_PTR_WP + 65536 - s.fld Reg.ERR_PTR F.ERR_PTR_RP) % 65536

/-- Whether an increment by `n` passes the maximum of a counter whose SAT bit is 0 (R10). -/
def saturates (off n : Nat) (s : State) : Bool :=
  s.fld off ⟨63, 63⟩ = 0 && decide (s.fld off ⟨47, 0⟩ + n > 0xFFFFFFFFFFFF)

/-- A statistics counter increased by `n`, staying at its maximum and setting SAT (R10), without its ledger entry. -/
def addCount (off n : Nat) (s : State) : State :=
  let v := s.fld off ⟨47, 0⟩ + n
  if v > 0xFFFFFFFFFFFF then put off ⟨47, 0⟩ 0xFFFFFFFFFFFF (put off ⟨63, 63⟩ 1 s) else put off ⟨47, 0⟩ v s

/-- Four words written to four consecutive registers. -/
def setWords (off : Nat) (ws : List Word) (s : State) : State :=
  forEach ws.zipIdx (fun (w, i) => setR (off + 8 * i) w) s

/-- One posting recorded (R521 to R523): stored in the ring or lost, captured in FIRST and FATAL, SEEN set and its
interrupt sent, SEQ counted. The COUNTER_SAT entries of the ledger's own counters are posted by `record`. -/
def record1 (p : Posting) (s0 : State) : State :=
  let ws := p.words s0
  let wp := s0.fld Reg.ERR_PTR F.ERR_PTR_WP
  let full := decide (256 ≤ s0.ledgerLevel)
  let s := { s0 with posted := s0.posted + 1 }
  let s := addCount Reg.ERR_POSTED 1 s
  let s := if full then addCount Reg.ERR_LOST 1 (raise Reg.ERR_STATUS F.ERR_STATUS_OVERFLOW s)
    else setWords (Reg.ERR_ENTRY (wp % 256) 0) ws (put Reg.ERR_PTR F.ERR_PTR_WP (wp + 1) s)
  let s := put Reg.ERR_STATUS F.ERR_STATUS_LEVEL s.ledgerLevel s
  let s := if s.on Reg.ERR_STATUS F.ERR_STATUS_FIRST_VALID then s
    else raise Reg.ERR_STATUS F.ERR_STATUS_FIRST_VALID (setWords (Reg.ERR_FIRST 0) ws s)
  let s := if p.sev ≠ .fatal ∨ s.on Reg.ERR_STATUS F.ERR_STATUS_FATAL_VALID then s
    else raise Reg.ERR_STATUS F.ERR_STATUS_FATAL_VALID (setWords (Reg.ERR_FATAL 0) ws s)
  if s.on Reg.ERR_STATUS p.sev.seen then s
  else
    let s := raise Reg.ERR_STATUS p.sev.seen s
    if s.on Reg.ERR_CTRL p.sev.irq then sendMsix 0 (s.fld Reg.ERR_CTRL p.sev.vec) s else s

/-- The COUNTER_SAT posting of a counter (R10): severity CORRECTED, DETAIL the counter's BAR0 offset. -/
def counterSat (unit : LUnit) (off : Nat) : Posting := ⟨0x0001, .corrected, unit, none, none, off⟩

/-- The COUNTER_SAT postings that ERR_POSTED and ERR_LOST owe once the next posting is recorded: one for each of the two
counters that it saturates (R10). -/
def State.ledgerSat (s : State) : List Posting :=
  (if saturates Reg.ERR_POSTED 1 s then [counterSat .mgt Reg.ERR_POSTED] else []) ++
    if decide (256 ≤ s.ledgerLevel) && saturates Reg.ERR_LOST 1 s then [counterSat .mgt Reg.ERR_LOST] else []

/-- Postings recorded in order, each followed at the end of the list by the COUNTER_SAT postings that it owes. -/
def recordAll : Nat → List Posting → State → State
  | n + 1, p :: ps, s => recordAll n (ps ++ s.ledgerSat) (record1 p s)
  | _, _, s => s

/-- A posting recorded, with every COUNTER_SAT entry that it causes. Each of the ledger's two counters sets SAT at most once
on the way, so that at most two postings follow the first. -/
def record (p : Posting) (s : State) : State := recordAll 3 [p] s

/-- The ledger unit that owns a register offset: the unit whose space holds it (R519's unit codes). -/
def ledgerUnit (off : Nat) : LUnit :=
  match unitOf off with
  | some .mgt => .mgt | some .cfg => .cfg | some .err => .mgt | some .pwr => .pwr | some .hif => .hif
  | some .tide => .tide | some .ctx => .prt | some .prt => .prt | some .stg => .stg | some .red => .red
  | some .upd => .upd | some .pan => .pan | some .hrv => .pan | some .chk => .chk | some .spr => .spr
  | some .rpl => .rpl | some .com => .com | some .fab => .fab | some .flr => .flr | some .mem => .mem
  | some .bc => .bc | some .str => .str | some .chn => .chn
  | some .tile =>
    let o := off % 0x10000
    if 0xC000 ≤ o ∧ o < 0xD000 then .mxe else if 0xD000 ≤ o then .vec else .tile
  | some .db => .hif
  | none => .mgt

/-- A statistics counter counts `n` events: it saturates with SAT and posts one COUNTER_SAT entry (R10). -/
def bumpBy (off n : Nat) (s : State) : State :=
  let s' := addCount off n s
  if saturates off n s then record (counterSat (ledgerUnit off) off) s' else s'

/-- A statistics counter counts one event. -/
def bump (off : Nat) (s : State) : State := bumpBy off 1 s

/-- A CORRECTED posting: it is recorded and nothing else happens (R32). -/
def postCorrected (code : Nat) (unit : LUnit) (ctx dom : Option Nat) (detail : Nat) (s : State) : State :=
  record ⟨code, .corrected, unit, ctx, dom, detail⟩ s

/-! ### Watermarks (R14 to R18, R259) -/

/-- A disarmed mark re-arms once NOTICE is clear and the level is below the low mark (R17). -/
def wmRearm (off : Nat) (s : State) : State :=
  if !s.on off F.CHN_WM_ARMED && !s.on off F.CHN_WM_NOTICE && s.fld off F.CHN_WM_LEVEL < s.fld off F.CHN_WM_LOW then
    raise off F.CHN_WM_ARMED s
  else s

/-- The level of the watermark at `off` becomes `lv`: an upward crossing of a nonzero high mark counts (R15), latches
NOTICE and disarms an armed mark (R16), and `irq` happens at a latch (R259); then the re-arm test (R17). The three kinds
of watermark share one layout. -/
def wmLevel (off lv : Nat) (irq : State → State) (s : State) : State :=
  let old := s.fld off F.CHN_WM_LEVEL
  let high := s.fld off F.CHN_WM_HIGH
  let s := put off F.CHN_WM_LEVEL lv s
  let s := if high ≠ 0 ∧ old < high ∧ high ≤ lv then
      let s := put off F.CHN_WM_COUNT (min 0xFFFF (s.fld off F.CHN_WM_COUNT + 1)) s
      if s.on off F.CHN_WM_ARMED then irq (raise off F.CHN_WM_NOTICE (put off F.CHN_WM_ARMED 0 s)) else s
    else s
  wmRearm off s

/-! ### Free values (log 7) -/

end Sys2Proof.Machine
end

