-- ==== Sys2Proof/Machine/Digest.lean ====
section
/-! DEFINITION. The check values of chapter 13: CRC-32C, CRC-64 (ECMA-182, not reflected) and SHA-256 (FIPS 180-4), as the
running values that check sets, packets, comets, records and fingerprints use. -/
namespace Sys2Proof.Machine

/-- `f` applied n times. -/
def iter {α : Type} (f : α → α) : Nat → α → α
  | 0, a => a
  | n + 1, a => iter f n (f a)

/-- One bit of the reflected CRC-32C (polynomial 0x1EDC_6F41, whose reflection is 0x82F6_3B78). -/
def crc32cBit (x : Nat) : Nat := if x % 2 = 1 then (x / 2) ^^^ 0x82F63B78 else x / 2

/-- A byte absorbed by the CRC-32C. -/
def crc32cByte (x : Nat) (b : Byte) : Nat := iter crc32cBit 8 (x ^^^ b.toNat)

/-- Bytes absorbed by the CRC-32C, from running value `x`. -/
def crc32cFrom (x : Nat) (l : List Byte) : Nat := l.foldl crc32cByte x

/-- The CRC-32C of bytes. -/
def crc32c (l : List Byte) : Nat := crc32cFrom 0xFFFFFFFF l ^^^ 0xFFFFFFFF

/-- One bit of the CRC-64 (polynomial 0x42F0_E1EB_A9EA_3693, not reflected). -/
def crc64Bit (x : Nat) : Nat := if 2 ^ 63 ≤ x then (2 * x) % 2 ^ 64 ^^^ 0x42F0E1EBA9EA3693 else 2 * x

/-- A byte absorbed by the CRC-64. -/
def crc64Byte (x : Nat) (b : Byte) : Nat := iter crc64Bit 8 (x ^^^ b.toNat <<< 56)

/-- Bytes absorbed by the CRC-64, from running value `x`. -/
def crc64From (x : Nat) (l : List Byte) : Nat := l.foldl crc64Byte x

/-- The CRC-64 of bytes. -/
def crc64 (l : List Byte) : Nat := crc64From 0 l

/-- The eight 32-bit words of a 256-bit number, the first from its highest bits. -/
def eightWords (n : Nat) : List (BitVec 32) := (List.range 8).map fun i => BitVec.ofNat 32 (n >>> (32 * (7 - i)))

/-- The 64 round constants of SHA-256, eight to a line. -/
def shaK : List (BitVec 32) :=
  [0x428a2f9871374491b5c0fbcfe9b5dba53956c25b59f111f1923f82a4ab1c5ed5,
   0xd807aa9812835b01243185be550c7dc372be5d7480deb1fe9bdc06a7c19bf174,
   0xe49b69c1efbe47860fc19dc6240ca1cc2de92c6f4a7484aa5cb0a9dc76f988da,
   0x983e5152a831c66db00327c8bf597fc7c6e00bf3d5a7914706ca635114292967,
   0x27b70a852e1b21384d2c6dfc53380d13650a7354766a0abb81c2c92e92722c85,
   0xa2bfe8a1a81a664bc24b8b70c76c51a3d192e819d6990624f40e3585106aa070,
   0x19a4c1161e376c082748774c34b0bcb5391c0cb34ed8aa4a5b9cca4f682e6ff3,
   0x748f82ee78a5636f84c878148cc7020890befffaa4506cebbef9a3f7c67178f2].flatMap eightWords

/-- The initial value of SHA-256. -/
def shaInit : List (BitVec 32) := eightWords 0x6a09e667bb67ae853c6ef372a54ff53a510e527f9b05688c1f83d9ab5be0cd19

/-- A word with its rotations to the right by each of `ns` combined. -/
def turned (ns : List Nat) (x : BitVec 32) : BitVec 32 := ns.foldl (fun acc n => acc ^^^ x.rotateRight n) 0

/-- The message schedule extended by one word, the newest word first: from the words 2, 7, 15 and 16 places back. -/
def shaExtend (back : List (BitVec 32)) : List (BitVec 32) :=
  let w (n : Nat) : BitVec 32 := back.getD (n - 1) 0
  let new := (turned [17, 19] (w 2) ^^^ w 2 >>> 10) + w 7 + ((turned [7, 18] (w 15) ^^^ w 15 >>> 3) + w 16)
  new :: back

/-- The 64 words of a block's message schedule, in order. -/
def shaSchedule (block : List Byte) : List (BitVec 32) :=
  (iter shaExtend 48 (((List.range 16).map fun i => BitVec.ofNat 32 (ofBytes ((block.drop (4 * i)).take 4).reverse)).reverse)).reverse

/-- One round on the eight working words a to h, of which `kw` is the round constant plus the schedule word. -/
def shaRound (v : List (BitVec 32)) (kw : BitVec 32) : List (BitVec 32) :=
  let x (i : Nat) : BitVec 32 := v.getD i 0
  let choice := x 6 ^^^ (x 4 &&& (x 5 ^^^ x 6))
  let major := (x 0 &&& x 1) ||| (x 2 &&& (x 0 ||| x 1))
  let add := kw + x 7 + choice + turned [6, 11, 25] (x 4)
  (add + major + turned [2, 13, 22] (x 0)) :: (v.set 3 (x 3 + add)).take 7

/-- A 64-byte block absorbed by SHA-256. -/
def shaBlock (h : List (BitVec 32)) (block : List Byte) : List (BitVec 32) :=
  List.zipWith (· + ·) h ((List.zipWith (· + ·) shaK (shaSchedule block)).foldl shaRound h)

/-- Whole blocks absorbed, and the bytes of the last partial block that remain. -/
def shaBlocks (h : List (BitVec 32)) (l : List Byte) : List (BitVec 32) × List Byte :=
  let n := l.length / 64
  ((List.range n).foldl (fun h i => shaBlock h ((l.drop (64 * i)).take 64)) h, l.drop (64 * n))

/-- The padding of a message of `n` bytes. -/
def shaPad (n : Nat) : List Byte :=
  (0x80 : Byte) :: List.replicate ((119 - n % 64) % 64) 0 ++ ((bytesOf 8 (8 * n)).reverse)

/-- The 32 bytes of a hash value. -/
def shaBytes (h : List (BitVec 32)) : List Byte := h.flatMap fun w => (bytesOf 4 w.toNat).reverse

/-- The SHA-256 digest of bytes. -/
def sha256 (l : List Byte) : List Byte := shaBytes (shaBlocks shaInit (l ++ shaPad l.length)).1

end Sys2Proof.Machine
end

