-- ==== Sys2Proof/Config.lean ====
section
/-! DEFINITION. What the spec leaves open as a value (log 7): opaque functions without a body, applied to the counter of draws
(`State.free`) or to operands. Nothing can be proved about the values they answer. -/
namespace Sys2Proof.Config

/-- Whether a read with more than four symbols in error is reported uncorrectable ("usually but without guarantee", R210). -/
opaque rsReported : Nat → Bool

/-- Byte `i` of what such a read returns where it is not reported. -/
opaque rsData : Nat → Nat → Byte

/-- Which of the FP32 values within its bound a special function answers, by FUNC and the operand's FP32 pattern (R192). -/
opaque sfuPick : Nat → Nat → Nat

/-- Where within its bound a rotated element lies, by the element (0 or 1), the patterns of x0, x1 and theta, and the token
position (R198). -/
opaque ropePick : Nat → Nat → Nat → Nat → Nat → Nat

/-- What lane `l` of register `n` holds at the start of an iteration of an update program (R336 gives no value). -/
opaque updReg : Nat → Nat → BitVec 32

/-- CID and IRQ flag of a host command that is disposed of before any command of the model has named it: they stand in host memory (R507). -/
opaque hostCid : Nat → BitVec 16
opaque hostIrq : Nat → Bool

/-- Word `i` of the signature that SIGN makes of some bytes: r in words 0 to 5, s in words 6 to 11 (R515 gives no value). -/
opaque signature : List Byte → Nat → Nat → BitVec 64

/-- The security version of a firmware image (R510 gives no place in the image). -/
opaque imageSvn : List Byte → Nat

/-- Byte `i` of a poisoned line of a save image that a placement reads (R482 gives no value). -/
opaque poisonByte : Nat → Nat → Byte

end Sys2Proof.Config
end

