-- ==== Sys2Proof/Machine/Symbol.lean ====
section
/-! DEFINITION. The symbol code of stored lines (R209, R215): Reed-Solomon check symbols over GF(2^8), what a read with symbols in
error decodes to (R210, R211), and the poison codeword. The power of x that each symbol is a coefficient of is the model's choice
(DESIGN CHOICE, log 50): the 64 data symbols from the highest power down, then the 5 address symbols, then the check symbols. -/
namespace Sys2Proof.Machine

/-- The product of an element of GF(2^8) by alpha = x, modulo x^8 + x^4 + x^3 + x^2 + 1 (R209). -/
def gfDouble (a : Byte) : Byte := (a <<< 1) ^^^ if a.msb then 0x1D else 0

/-- The product in GF(2^8). -/
def gfMul (a b : Byte) : Byte :=
  ((List.range 8).foldl (fun (x : Byte × Byte) i => (if b.getLsbD i then x.1 ^^^ x.2 else x.1, gfDouble x.2)) ((0 : Byte), a)).1

/-- The generator polynomial (x - alpha^0) ... (x - alpha^7), its coefficients from the highest power down (R209). -/
def generator : List Byte :=
  (List.range 8).foldl (fun g i =>
    List.zipWith (· ^^^ ·) (g ++ [0]) (0 :: g.map (gfMul (BitVec.ofNat 8 (2 ^ i))))) [1]

/-- One step of the division by the generator polynomial: the remainder after one more message symbol. -/
def divStep (rem : List Byte) (m : Byte) : List Byte :=
  let f := rem.headD 0 ^^^ m
  List.zipWith (· ^^^ ·) (rem.drop 1 ++ [0]) (generator.tail.map (gfMul f))

/-- The address symbols of a line: the bytes of addr[38:6], zero-extended to 40 bits (R209). -/
def addrSymbols (la : Nat) : List Byte := bytesOf 5 (la / 64 % 2 ^ 33)

/-- The 8 check symbols of a line over its data and its address symbols (R209). -/
def checkSymbols (data addr : List Byte) : List Byte := (data ++ addr).foldl divStep (List.replicate 8 0)

/-- The 72 symbols that the stacks hold of a line with these address symbols: its data and check symbols, or the poison codeword,
whose check symbols are the inverse of those of an all-zero line at that address (R215). -/
def storedSymbols (addr data : List Byte) (poisoned : Bool) : List Byte :=
  let zeros := List.replicate 64 (0 : Byte)
  if poisoned then zeros ++ (checkSymbols zeros addr).map (~~~ ·) else data ++ checkSymbols data addr

/-- What the symbol at position `p` differs by. -/
def symbolAt (e : SymbolErrors) (p : Nat) : Byte := e.foldl (fun x d => if d.1.val = p then x ^^^ d.2 else x) 0

/-- Whether the 72 symbols that a read of line `la` meets are the poison codeword of that line (R215). They are the symbols of a line
that was written for the address that the errors at positions 72 to 76 give, with the errors at the other positions. -/
def readsPoison (la : Nat) (data : List Byte) (poisoned : Bool) (e : SymbolErrors) : Bool :=
  if e.isEmpty then poisoned
  else
    let addr := List.zipWith (· ^^^ ·) (addrSymbols la) ((List.range 5).map fun i => symbolAt e (72 + i))
    let got := List.zipWith (· ^^^ ·) (storedSymbols addr data poisoned) ((List.range 72).map (symbolAt e))
    got == storedSymbols (addrSymbols la) [] true

/-- How one read of a stored line decodes (R210 to R212): clean, corrected to the data that was encoded, misdirected (an error
located in an address symbol), uncorrectable, or beyond what the code guarantees. -/
inductive Decoded where
  | clean | corrected | misdirected | uncorrectable | beyond
  deriving DecidableEq, Repr

/-- The positions at which a read differs from a codeword of the requested line: those in error, and for a poisoned line, which is no
codeword, also those of the inverted check symbols. -/
def errorPositions (poisoned : Bool) (e : SymbolErrors) : List Nat :=
  (List.range 77).filter fun p => (symbolAt e p ^^^ if poisoned && decide (64 ≤ p ∧ p < 72) then 0xFF else 0) ≠ 0

/-- The decode of a read that is not the poison codeword, in a stack's mode (R210, R211). -/
def decodeLine (correct4 poisoned : Bool) (e : SymbolErrors) : Decoded :=
  let pos := errorPositions poisoned e
  if pos.length = 0 then .clean
  else if pos.length ≤ (if correct4 then 4 else 2) then (if pos.any (72 ≤ ·) then .misdirected else .corrected)
  else if pos.length ≤ 4 then .uncorrectable
  else .beyond

end Sys2Proof.Machine
end

