-- ==== Sys2Proof/Machine/Memory.lean ====
section
/-! DEFINITION. Memory: the address map (R53 to R55), the placement of HBM addresses (R207, R208), the controller's decoded reads
(R210 to R217), the base cache (R224 to R229), write combining (R231 to R235), holds by the sluice (R376) and by pair clears (R50), and tile memory with its poison marks
(R139). Every requester reads and writes memory through these operations. -/
namespace Sys2Proof.Machine

/-! ### The canonical list of bytes and the poison marks -/

/-- The canonical form of memory: addresses strictly rising and no listed byte equal to what an unlisted address reads
as, which is 0 (DESIGN CHOICE, log 4). -/
abbrev Memory.wf (m : List Host.Cell) : Prop := Store.Wf (fun _ => (0 : Byte)) m

/-- The stored byte at a local address. -/
def State.byte (s : State) (a : Nat) : Byte := Store.lookup (fun _ => (0 : Byte)) s.mem a

/-- The stored byte at a local address set. -/
def setByte (a : Nat) (b : Byte) (s : State) : State := { s with mem := Store.update (fun _ => (0 : Byte)) s.mem a b }

/-- `n` stored bytes from a local address. -/
def State.rawBytes (s : State) (a n : Nat) : List Byte := (List.range n).map fun i => s.byte (a + i)

/-- Bytes stored from a local address on. -/
def setRaw (a : Nat) (data : List Byte) (s : State) : State :=
  forEach data.zipIdx (fun (b, i) => setByte (a + i) b) s

/-- Whether the unit at base address `u` carries a poison mark. -/
def State.poisoned (s : State) (u : Nat) : Bool := s.poison.contains u

/-- A sorted list without repeats, with `u` in it. -/
def insertMark (u : Nat) : List Nat → List Nat
  | [] => [u]
  | v :: l => if u < v then u :: v :: l else if u = v then v :: l else v :: insertMark u l

/-- The poison mark of unit `u` set or cleared. -/
def setPoison (u : Nat) (b : Bool) (s : State) : State :=
  { s with poison := if b then insertMark u s.poison else s.poison.filter (· ≠ u) }

/-! ### The address map -/

/-- First address past HBM. -/
def hbmEnd : Nat := 0x8000000000
/-- Base of the tile-memory windows. -/
def tileBase : Nat := 0x10000000000
/-- Bytes of one tile's memory. -/
def tileBytes : Nat := 0x400000
/-- The local address of byte `off` of logical tile `l`'s memory. -/
def tileAddr (l off : Nat) : Nat := tileBase + l * 0x1000000 + off

/-- Where a 64-bit device address leads (the device address layout of chapter 01): HBM, a tile's memory, another device,
or nowhere (R54). -/
inductive Target where
  | hbm (a : Nat)
  | tile (l off : Nat)
  | remote (dev a : Nat)
  | bad
  deriving DecidableEq, Repr

/-- Where local address `a` leads, for an access of `n` bytes. -/
def localTarget (a n : Nat) : Target :=
  if a + n ≤ hbmEnd then .hbm a
  else if tileBase ≤ a ∧ a < tileBase + 144 * 0x1000000 ∧ (a - tileBase) % 0x1000000 + n ≤ tileBytes then
    .tile ((a - tileBase) / 0x1000000) ((a - tileBase) % 0x1000000)
  else .bad

/-- Where a device address leads, for an access of `n` bytes: R54's three refusals, and R53's own device. -/
def State.target (s : State) (addr n : Nat) : Target :=
  if bits addr 63 62 ≠ 0 then .bad
  else if bit addr 61 then
    (if bits addr 60 48 = s.deviceId then localTarget (bits addr 47 0) n else .remote (bits addr 60 48) (bits addr 47 0))
  else if bits addr 60 48 ≠ 0 then .bad
  else localTarget (bits addr 47 0) n

/-! ### Placement of HBM addresses (R49, R207) -/

/-- The pin code of pair `n` (R49). -/
def State.pinCode (s : State) (n : Nat) : Nat := bits (s.reg (Reg.FLR_PIN (n / 32))).toNat (2 * (n % 32) + 1) (2 * (n % 32))

/-- The half that owns an HBM address (R207). -/
def State.half (s : State) (a : Nat) : Nat :=
  let g := bits a 38 12
  match s.pinCode (bits a 38 31) with
  | 1 => bits a 30 30
  | 2 => 1 - bits a 30 30
  | _ => if xor (bit g 0) (parity (bits g 26 4)) then 1 else 0

/-- The word w of R207. -/
def placeWord (a : Nat) : Nat :=
  let g := bits a 38 12
  bits g 7 1 ^^^ bits g 14 8 ^^^ bits g 21 15 ^^^ bits g 26 22

/-- The stack that holds an HBM address (R207). -/
def State.stack (s : State) (a : Nat) : Nat := 4 * s.half a + bits (placeWord a) 6 5

/-- The channel that holds an HBM address (R207). -/
def channel (a : Nat) : Nat := bits (placeWord a) 4 0

/-- The slot of an HBM address in its channel (R207). -/
def State.slot (s : State) (a : Nat) : Nat :=
  let code := s.pinCode (bits a 38 31)
  if code = 1 ∨ code = 2 then bits a 38 31 * 2048 + 2 * bits a 29 20 + bits a 12 12 else bits (bits a 38 12) 26 8

/-- The channel-local address of an HBM address (R207). -/
def State.channelAddr (s : State) (a : Nat) : Nat := s.slot a * 4096 + bits a 11 0

/-- A location in a channel: the fields of a channel-local address (R208). -/
structure Location where
  row : Nat
  sid : Nat
  bank : Nat
  bg : Nat
  col : Nat
  byte : Nat
  deriving DecidableEq, Repr

/-- The fields of channel-local address `c` (R208). -/
def locate (c : Nat) : Location := ⟨bits c 30 17, bits c 16 15, bits c 14 13, bits c 12 11, bits c 10 6, bits c 5 0⟩

/-- Where the stacks hold an HBM address: stack, channel, and location in the channel (R207, R208). Memory is keyed by the HBM
address, of which this is a one-to-one image under any pin codes. -/
def State.place (s : State) (a : Nat) : Nat × Nat × Location := (s.stack a, channel a, locate (s.channelAddr a))

/-- The base-cache set of an HBM address (R224). -/
def cacheSet (a : Nat) : Nat := bits a 22 6 ^^^ (bits a 38 23 <<< 1) % 2 ^ 17

/-- The line base of an address. -/
def lineOf (a : Nat) : Nat := a / 64 * 64

/-! ### The stacks -/

/-- The memory path replaced. -/
def setPath (f : MemPath → MemPath) (s : State) : State := { s with path := f s.path }

/-- A line as the stacks hold it, with its poison. -/
def State.dramLine (s : State) (la : Nat) : List Byte × Bool := (s.rawBytes la 64, s.poisoned la)

/-- A line written to the stacks: the poison codeword (R215), or data, which clears poison. -/
def writeDram (la : Nat) (data : List Byte) (poison : Bool) (s : State) : State :=
  if poison then setPoison la true (setRaw la (List.replicate 64 0) s) else setPoison la false (setRaw la data s)

/-- MEM_UE_LOG takes an address in its lowest free entry, or UE_LOG_OVF is set (R217). KIND: 0 DEMAND, 1 SCRUB,
2 MISDIRECTED, 3 MERGE. -/
def logUe (kind la : Nat) (s : State) : State :=
  match lowest (List.range 8) fun i => !s.on (Reg.MEM_UE_LOG i) F.MEM_UE_LOG_VALID with
  | some i => setR (Reg.MEM_UE_LOG i)
      ((0 : Word).put F.MEM_UE_LOG_VALID 1 |>.put F.MEM_UE_LOG_KIND kind |>.put F.MEM_UE_LOG_LINE (la / 64)) s
  | none => raise Reg.MEM_STATUS F.MEM_STATUS_UE_LOG_OVF s

/-- The mode of the stack that holds a line (R210). -/
def State.correct4 (s : State) (la : Nat) : Bool := bit (s.fld Reg.MEM_ECC F.MEM_ECC_CORRECT4) (s.stack la)

/-- What one decode attempt comes to: the poison codeword, data that was stored without error or was corrected, or a failure, with
whether it was misdirected. -/
inductive Attempt where
  | poison | good | fixed | bad (misdirected : Bool)
  deriving DecidableEq, Repr

/-- One decode attempt of line `la` with symbol errors `e`. A misdirected one is counted and shown (R211). A corrected one writes the
data back as a valid codeword (R213). A pattern beyond the code's guarantee is reported uncorrectable or returns other data, which
the write-back then stores (free values, log 7). -/
def attempt (la : Nat) (e : SymbolErrors) (s : State) : State × Attempt :=
  let poisoned := s.poisoned la
  if readsPoison la (s.rawBytes la 64) poisoned e then (s, .poison)
  else match decodeLine (s.correct4 la) poisoned e with
  | .clean => (s, .good)
  | .corrected => (when poisoned (setPoison la false) s, .fixed)
  | .misdirected => (raise Reg.MEM_STATUS F.MEM_STATUS_MISDIRECT (bump (Reg.MEM_S_MISDIR (s.stack la)) s), .bad true)
  | .uncorrectable => (s, .bad false)
  | .beyond =>
    let (n, s) := drawFree s
    if Config.rsReported n then (s, .bad false)
    else (writeDram la ((List.range 64).map (Config.rsData n)) false s, .fixed)

/-- A line is found uncorrectable: it becomes the poison codeword, is counted and logged (R214, R216). -/
def poisonLine (kind la : Nat) (s : State) : State :=
  logUe kind la (bump (Reg.MEM_S_UE (s.stack la)) (writeDram la [] true s))

/-- A read of line `la` by the controller with the symbol errors that its two tries meet (R212 to R215): a corrected read is counted; one
that is uncorrectable after its retry poisons the line, logged as `kind`, or as MISDIRECTED where an attempt was. -/
def decodeRead (kind la : Nat) (e1 e2 : SymbolErrors) (s : State) : State :=
  let count (s : State) := bump (Reg.MEM_S_CE (s.stack la)) s
  let (s, x) := attempt la e1 s
  match x with
  | .poison => s
  | .good => s
  | .fixed => count s
  | .bad m1 =>
    let (s, y) := attempt la e2 s
    match y with
    | .poison => s
    | .good => s
    | .fixed => count s
    | .bad m2 => poisonLine (if kind = 0 && (m1 || m2) then 2 else kind) la s

/-- A line read from the stacks, with the symbol errors that the command in progress names for it. Answers its data and whether it is
poisoned. -/
def readDram (kind la : Nat) (s : State) : State × List Byte × Bool :=
  let s := match s.path.met.find? (·.line = la) with
    | some e => decodeRead kind la e.first e.retry s
    | none => s
  (s, s.dramLine la)

/-- An operation whose reads of the stacks meet the symbol errors `met`. -/
def meeting (met : List LineErrors) (f : State → State) (s : State) : State :=
  setPath (fun p => { p with met := [] }) (f (setPath (fun p => { p with met := met }) s))

/-! ### The base cache -/

/-- The cached copy of a line. -/
def State.cached (s : State) (la : Nat) : Option CLine := s.path.cache.find? (·.addr = la)

/-- A cached line removed, without write-back. -/
def dropLine (la : Nat) (s : State) : State := setPath (fun p => { p with cache := p.cache.filter (·.addr ≠ la) }) s

/-- A cached line changed. -/
def editLine (la : Nat) (f : CLine → CLine) (s : State) : State :=
  setPath (fun p => { p with cache := p.cache.map fun x => if x.addr = la then f x else x }) s

/-- A cached line written back if it is dirty (counted), and left valid and clean. -/
def cleanLine (la : Nat) (s : State) : State :=
  match s.cached la with
  | some l => if l.dirty then
      editLine la (fun x => { x with dirty := false }) (bump (Reg.BC_H_WRITEBACK (s.half la)) (writeDram la l.data l.poison s))
    else s
  | none => s

/-- KEEP_WAYS of BC_CTRL (R228). -/
def State.keepWays (s : State) : Nat := s.fld Reg.BC_CTRL F.BC_CTRL_KEEP_WAYS

/-- The lines of an address's set, in the half that owns it. -/
def State.setLines (s : State) (la : Nat) : List CLine :=
  s.path.cache.filter fun l => cacheSet l.addr = cacheSet la ∧ s.half l.addr = s.half la

/-- Tree pseudo-LRU (R224): a node splits the ways [lo, hi) at their middle, and its bit is 1 where the less recent half is the upper
one. The least recent way that satisfies `ok`, below node `node`; the shape of the tree is the model's choice (log 51). -/
def leastRecent (ok : Nat → Bool) (order : Nat) : Nat → Nat → Nat → Nat → Nat
  | 0, _, lo, _ => lo
  | n + 1, node, lo, hi =>
    let mid := (lo + hi) / 2
    let some' (a b : Nat) := (List.range (b - a)).any fun i => ok (a + i)
    if hi ≤ lo + 1 then lo
    else if some' mid hi && (bit order node || !some' lo mid) then leastRecent ok order n (2 * node + 1) mid hi
    else leastRecent ok order n (2 * node) lo mid

/-- The bits of the tree after an access to way `w`: every node on its path points away from it. -/
def mostRecent (w : Nat) : Nat → Nat → Nat → Nat → Nat → Nat
  | 0, _, _, _, order => order
  | n + 1, node, lo, hi, order =>
    let mid := (lo + hi) / 2
    if hi ≤ lo + 1 then order
    else if w < mid then mostRecent w n (2 * node) lo mid (order ||| 2 ^ node)
    else mostRecent w n (2 * node + 1) mid hi (if bit order node then order - 2 ^ node else order)

/-- The key of an address's set in `MemPath.order`. -/
def State.setKey (s : State) (la : Nat) : Nat := s.half la * 2 ^ 17 + cacheSet la

/-- The recency bits of an address's set. -/
def State.orderOf (s : State) (la : Nat) : Nat := Store.lookup (fun _ => 0) s.path.order (s.setKey la)

/-- The recency of an address's set after an access to way `w`. -/
def recent (la w : Nat) (s : State) : State :=
  let k := s.setKey la
  let v := mostRecent w 6 1 0 24 (s.orderOf la)
  setPath (fun p => { p with order := Store.update (fun _ => 0) p.order k v }) s

/-- The victim of a fill (R228): a KEEP fill of a set that holds KEEP_WAYS marked lines evicts the least recent marked
one; any other fill of a full set evicts the least recent unmarked one. -/
def victim (la : Nat) (keep : Bool) (s : State) : Option CLine :=
  let set := s.setLines la
  let marked := set.filter (·.keep)
  let pool := if keep ∧ s.keepWays ≤ marked.length then marked
    else if 24 ≤ set.length then set.filter (!·.keep) else []
  let w := leastRecent (fun w => pool.any (·.way = w)) (s.orderOf la) 6 1 0 24
  pool.find? (·.way = w)

/-- A line allocated in the lowest free way of its set, as the most recent, after its victim has been written back and removed. -/
def allocate (la : Nat) (data : List Byte) (dirty keep poison : Bool) (s : State) : State :=
  let keep := keep && decide (0 < s.keepWays)
  let s := match victim la keep s with
    | some v => dropLine v.addr (cleanLine v.addr s)
    | none => s
  let set := s.setLines la
  let w := (lowest (List.range 24) fun w => set.all (·.way ≠ w)).getD 0
  recent la w (setPath (fun p => { p with cache := ⟨la, w, data, dirty, keep, poison⟩ :: p.cache }) s)

/-- A hit on cached line `l` under a hint (R226, R228): NORMAL and KEEP make it the most recent, and KEEP marks it while its set has room. -/
def hitLine (l : CLine) (hint : Nat) (s : State) : State :=
  let s := when (hint = 0 ∨ hint = 2) (recent l.addr l.way) s
  when (hint = 2 ∧ (s.setLines l.addr |>.filter (·.keep)).length < s.keepWays) (editLine l.addr fun x => { x with keep := true }) s

/-! ### Write combining (R231 to R234) -/

/-- The open entries of each half, shown in BC_STATUS. -/
def showLevels (s : State) : State :=
  let n h := (s.path.wcb.filter fun e => s.half e.addr = h).length
  put Reg.BC_STATUS F.BC_STATUS_WCB_LEVEL1 (n 1) (put Reg.BC_STATUS F.BC_STATUS_WCB_LEVEL0 (n 0) s)

/-- A partial write met a poisoned line (R234): its bytes are discarded, MERGE_POISON is set, and an entry is owed for
the writer's context. -/
def mergePoison (la ctx : Nat) (s : State) : State :=
  raise Reg.BC_STATUS F.BC_STATUS_MERGE_POISON (setPath (fun p => { p with owed := p.owed ++ [(ctx, la)] }) s)

/-- The bytes of `new` where the mask holds, else those of `old`. -/
def mergeBytes (mask : List Bool) (new old : List Byte) : List Byte :=
  (List.range 64).map fun i => if mask.getD i false then new.getD i 0 else old.getD i 0

/-- Bytes of context `ctx` written into the cached line `l` under a hint (R226, R231, R234): a partial write of a poisoned line is
discarded, and a whole line clears poison. -/
def writeHit (l : CLine) (mask : List Bool) (data : List Byte) (hint ctx : Nat) (s : State) : State :=
  if l.poison && !mask.all id then mergePoison l.addr ctx s
  else editLine l.addr (fun x => { x with data := mergeBytes mask data x.data, dirty := true, poison := false }) (hitLine l hint s)

/-- A full line that is not cached, written under its hint (R226): NORMAL and KEEP allocate it dirty, STREAM and LAST
write it to the stacks. -/
def writeLineMiss (la : Nat) (data : List Byte) (hint : Nat) (s : State) : State :=
  if hint = 0 ∨ hint = 2 then allocate la data true (hint = 2) false s else writeDram la data false s

/-- An entry closes (R233): into the cached line, as a full-line write miss, or as a read-modify-write of the decoded line (R234). -/
def closeEntry (e : WEntry) (s : State) : State :=
  let h := s.half e.addr
  let full := e.mask.all id
  let s := showLevels (setPath (fun p => { p with wcb := p.wcb.filter (· ≠ e) }) s)
  let s := when full (bump (Reg.BC_H_WCB_FULL h)) s
  match s.cached e.addr with
  | some l => writeHit l e.mask e.data e.hint e.ctx s
  | none =>
    if full then writeLineMiss e.addr e.data e.hint s
    else
      let s := bump (Reg.BC_H_WCB_RMW h) s
      let (s, old, poison) := readDram 3 e.addr s
      if poison then mergePoison e.addr e.ctx s else writeDram e.addr (mergeBytes e.mask e.data old) false s

/-- Every open entry that satisfies `p` closes, the oldest first. -/
def closeEntries (p : WEntry → Bool) (s : State) : State := forEach (s.path.wcb.filter p) closeEntry s

/-- An entry with room for it in its half's 512-entry buffer: a full buffer first closes its oldest entry (R231). -/
def openEntry (e : WEntry) (s : State) : State :=
  let h := s.half e.addr
  let mine := s.path.wcb.filter fun x => s.half x.addr = h
  let s := if 512 ≤ mine.length then
      match mine.head? with
      | some old => bump (Reg.BC_H_WCB_EVICT h) (closeEntry old s)
      | none => s
    else s
  showLevels (setPath (fun p => { p with wcb := p.wcb ++ [e] }) s)

/-- A write accepted by the serving half (R226, R231, R232): `w` stays within one line. -/
def acceptWrite (w : HbmWrite) (s : State) : State :=
  let la := lineOf w.addr
  let o := w.addr - la
  let h := s.half la
  let full := decide (w.data.length = 64)
  let mask := (List.range 64).map fun i => decide (o ≤ i ∧ i < o + w.data.length)
  let data := splice (List.replicate 64 0) o w.data
  let s := closeEntries (fun e => e.addr = la ∧ e.ctx ≠ w.ctx) s
  match s.cached la with
  | some l => writeHit l mask data w.hint w.ctx (bump (Reg.BC_H_HIT h) s)
  | none =>
    let s := bump (Reg.BC_H_MISS h) s
    match s.path.wcb.find? (·.addr = la) with
    | some e =>
      let e' : WEntry := { e with mask := List.zipWith (· || ·) e.mask mask, data := mergeBytes mask data e.data, hint := w.hint }
      let s := setPath (fun p => { p with wcb := p.wcb.filter (· ≠ e) ++ [e'] }) s
      if e'.mask.all id then closeEntry e' s else s
    | none => if full then writeLineMiss la data w.hint s else openEntry ⟨la, mask, data, w.hint, w.ctx, w.epoch⟩ s

/-- A whole line becomes poisoned at once (R244): its open entry is discarded, and its cached copy or the stored line
becomes the poison codeword. -/
def poisonWhole (la : Nat) (s : State) : State :=
  let s := showLevels (setPath (fun p => { p with wcb := p.wcb.filter (·.addr ≠ la) }) s)
  if (s.cached la).isSome then
    editLine la (fun l => { l with data := List.replicate 64 0, dirty := true, poison := true }) s
  else writeDram la [] true s

/-- The HBM bytes that `inside` selects (whole granules) overwritten with zeros and valid check symbols: their cached
lines and open entries are discarded without write-back (R50, R229). -/
def zeroWhere (inside : Nat → Bool) (s : State) : State :=
  showLevels { s with
    mem := Store.clear inside s.mem
    poison := s.poison.filter fun u => !inside u
    path := { s.path with cache := s.path.cache.filter fun l => !inside l.addr, wcb := s.path.wcb.filter fun e => !inside e.addr } }

/-! ### Holds, refusals, and the accesses of a requester -/

/-- The 64 KiB granule of an HBM address. -/
def granuleOf (a : Nat) : Nat := a / 0x10000

/-- The pan slot that holds an address (R359). -/
def State.panSlotOf (s : State) (a : Nat) : Option Nat :=
  let size := s.fld Reg.PAN_RESERVE F.PAN_RESERVE_SIZE_GIB * 0x40000000
  let n := s.fld Reg.PAN_RESERVE F.PAN_RESERVE_NSLOTS + 1
  let base := s.fld Reg.PAN_RESERVE F.PAN_RESERVE_BASE * 0x40000000
  let slot := size / n / 0x10000 * 0x10000
  if size = 0 ∨ a < base then none
  else if (a - base) / slot < n then some ((a - base) / slot) else none

/-- Memory refuses every access in MAINT and FAILED (R221). -/
def State.memRefuses (s : State) : Bool := decide (2 ≤ s.fld Reg.MEM_STATUS F.MEM_STATUS_STATE)

/-- A write to address `a` is refused: in MAINT and FAILED (R221), and of a slot that is not FREE but by the pan engine (R361). -/
def State.writeRefused (s : State) (pan : Bool) (a : Nat) : Bool :=
  s.memRefuses || (!pan && match s.panSlotOf a with
    | some n => s.fld (Reg.PAN_SLOT_STATUS n) F.PAN_SLOT_STATUS_STATE ≠ 0
    | none => false)

/-- The pair of an address is being cleared (R50). -/
def State.pairClears (s : State) (a : Nat) : Bool := s.path.clearing.contains (a / 0x80000000)

/-- Some pair that `n` bytes from `a` touch is being cleared (R50). -/
def State.rangeClears (s : State) (a n : Nat) : Bool :=
  s.path.clearing.any fun q => decide (q * 0x80000000 < a + n ∧ a < (q + 1) * 0x80000000)

/-- A write waits: its pair is being cleared (R50) or its granule is protected (R376). -/
def State.writeWaits (s : State) (a : Nat) : Bool := s.pairClears a || s.path.guarded.contains (granuleOf a)

/-- An access is held; a hold by the sluice is counted, and its granule starts to be copied ahead of its turn
while fewer than 16 are (R376, R377). -/
def holdWrite (w : HbmWrite) (s : State) : State :=
  let g := granuleOf w.addr
  let s := setPath (fun p => { p with held := p.held ++ [w] }) s
  if s.path.guarded.contains g then
    let s := bump Reg.PAN_SLUICE_HOLDS s
    if s.path.copying.contains g ∨ 16 ≤ s.path.copying.length then s
    else setPath (fun p => { p with copying := p.copying ++ [g] }) s
  else s

/-- An access takes effect. -/
def applyWrite (w : HbmWrite) (s : State) : State :=
  match w.kind with
  | .write => acceptWrite w s
  | .poison => poisonWhole (lineOf w.addr) s
  | .clear => zeroWhere (fun a => granuleOf a = granuleOf w.addr) s
  | .lastRead => match s.cached w.addr with
    | some l => when l.dirty (bump (Reg.BC_H_LAST_DROP (s.half w.addr))) (dropLine w.addr s)
    | none => s

/-- A write that stays within one line and is not refused: held, or accepted. -/
def writeLine (w : HbmWrite) (s : State) : State := if s.writeWaits w.addr then holdWrite w s else applyWrite w s

/-- A write cut at line boundaries. -/
def cutLines (addr : Nat) (data : List Byte) : List (Nat × List Byte) :=
  let first := (64 - addr % 64) % 64
  let head := if first = 0 ∨ data = [] then [] else [(addr, data.take first)]
  let rest := data.drop first
  head ++ (List.range (ceilDiv rest.length 64)).map fun i => (addr + first + 64 * i, (rest.drop (64 * i)).take 64)

/-- Whether a part (offset, length) in `marks` meets the `n` bytes from offset `o`. -/
def marked (marks : List (Nat × Nat)) (o n : Nat) : Bool := marks.any fun m => decide (m.1 < o + n ∧ o < m.1 + m.2)

/-- A write to HBM of any length with its poisoned parts: refused as a whole where any line of it is refused, else the writes of its
lines in ascending order; a line that a poisoned part writes to becomes poisoned as a whole (R244). -/
def hbmStore (pan : Bool) (addr : Nat) (data : List Byte) (marks : List (Nat × Nat)) (hint ctx epoch : Nat) (s : State) : State × Nat :=
  let ls := cutLines addr data
  if ls.any fun l => s.writeRefused pan l.1 then (s, Code.REFUSED)
  else
    (forEach ls (fun l s =>
      let kind := if marked marks (l.1 - addr) l.2.length then HeldKind.poison else .write
      writeLine ⟨kind, l.1, l.2, hint, ctx, epoch, s.path.op, pan⟩ s) s, Code.DONE)

/-- A write to HBM without a poisoned part. -/
def hbmWrite (pan : Bool) (addr : Nat) (data : List Byte) (hint ctx epoch : Nat) (s : State) : State × Nat :=
  hbmStore pan addr data [] hint ctx epoch s

/-- What a read that waits for its pair's clear returns of a line (R50): the line with the accesses laid over it that were held before the
read. -/
def overlayHeld (s : State) (la : Nat) (x : List Byte × Bool) : List Byte × Bool :=
  if s.pairClears la then
    s.path.held.foldl (fun x w => match w.kind with
      | .write => if lineOf w.addr = la then (splice x.1 (w.addr - la) w.data, x.2 && w.data.length != 64) else x
      | .poison => if lineOf w.addr = la then (List.replicate 64 0, true) else x
      | .clear => if granuleOf w.addr = granuleOf la then (List.replicate 64 0, false) else x
      | .lastRead => x) x
  else x

/-- A read of one line by a requester (R225 to R228, R233): an open entry closes first; a hit is served by its hint; a
miss reads the stacks and allocates under NORMAL and KEEP. A LAST hit on a dirty line of a protected granule counts as a
write and is held (R378). Answers the bytes and whether the line is poisoned. -/
def readLine (la hint : Nat) (s : State) : State × List Byte × Bool :=
  let h := s.half la
  let s := closeEntries (·.addr = la) s
  match s.cached la with
  | some l =>
    let s := bump (Reg.BC_H_HIT h) s
    let s := if hint = 3 then
        (if l.dirty && s.path.guarded.contains (granuleOf la) then holdWrite ⟨.lastRead, la, [], 3, 4096, 0, s.path.op, false⟩ s
        else when l.dirty (bump (Reg.BC_H_LAST_DROP h)) (dropLine la s))
      else hitLine l hint s
    (s, overlayHeld s la (l.data, l.poison))
  | none =>
    let s := bump (Reg.BC_H_MISS h) s
    let (s, data, poison) := readDram 0 la s
    let s := if hint = 0 ∨ hint = 2 then allocate la data false (hint = 2) poison s else s
    (s, overlayHeld s la (data, poison))

/-- The lines that `n` bytes from `a` touch. -/
def linesOf (a n : Nat) : List Nat :=
  if n = 0 then [] else (List.range ((a + n - 1) / 64 + 1 - a / 64)).map fun i => lineOf a + 64 * i

/-- A read of `n` bytes of HBM: the bytes, and the first poisoned line met, if any. In MAINT and FAILED it is refused
(R221): the caller looks at `memRefuses` first. -/
def hbmRead (a n hint : Nat) (s : State) : State × List Byte × Option Nat :=
  let (s, data, bad) := (linesOf a n).foldl
    (fun (s, data, bad) la =>
      let (s', d, p) := readLine la hint s
      (s', data ++ d, if p ∧ bad = none then some la else bad)) (s, ([] : List Byte), (none : Option Nat))
  (s, (data.drop (a - lineOf a)).take n, bad)

/-- What a read of the byte at HBM address `a` returns now (R225), without the effects of a read: from an open entry, the
cache, or the stacks. -/
def State.hbmByte (s : State) (a : Nat) : Byte :=
  match s.path.wcb.find? (fun e => e.addr = lineOf a ∧ e.mask.getD (a - lineOf a) false) with
  | some e => e.data.getD (a - lineOf a) 0
  | none =>
    match s.cached (lineOf a) with
    | some l => l.data.getD (a - lineOf a) 0
    | none => s.byte a

/-! ### Operations that wait for their accesses -/

/-- Whether a held access still waits. The clear of a granule and a LAST read wait only for the sluice. -/
def State.stillHeld (s : State) (w : HbmWrite) : Bool :=
  if w.kind = .clear ∨ w.kind = .lastRead then s.path.guarded.contains (granuleOf w.addr) else s.writeWaits w.addr

/-- Whether an access of operation `op` is held: on its way to HBM, or a deposit into a tile that is being swapped (R423). -/
def State.opHeld (s : State) (op : Nat) : Bool :=
  s.path.held.any (·.op = op) || match s.swap with | some x => x.deposits.any (·.1 = op) | none => false

/-- Accesses made as an operation of their own: the state after them, their code, and the number of the operation where some of them wait,
so that it is not complete (R235). -/
def asOp (f : State → State × Nat) (s : State) : State × Nat × Option Nat :=
  let id := if s.opHeld s.path.op then s.path.op + 1 else s.path.op
  let (s, c) := f (setPath (fun p => { p with op := id }) s)
  if s.opHeld id then (setPath (fun p => { p with op := id + 1 }) s, c, some id) else (s, c, none)

/-- An operation waits: for the accesses that carry its number, or for the clear of a pair. -/
def waitFor (op : Nat) (pair : Option Nat) (code : Nat) (what : Waiter) (s : State) : State :=
  setPath (fun p => { p with waiting := p.waiting ++ [⟨op, pair, code, what⟩] }) s

/-- A read by an operation that waits for the clear of the pair of address `a` (R50). -/
def waitRead (a : Nat) (what : Waiter) (s : State) : State :=
  waitFor s.path.op (some (a / 0x80000000)) Code.DONE what (setPath (fun p => { p with op := p.op + 1 }) s)

/-- Whether a waiting operation still waits. -/
def State.opWaits (s : State) (w : WaitingOp) : Bool :=
  s.opHeld w.op || (match w.pair with | some n => s.path.clearing.contains n | none => false)

/-- A held access has ended with a code other than DONE: its operation ends with the worse of its codes. -/
def noteOp (op code : Nat) (s : State) : State :=
  setPath (fun p => { p with waiting := p.waiting.map fun w => if w.op = op then { w with code := Code.worse w.code code } else w }) s

/-- Whether a held access carries an epoch older than its context's (R488 step 3); 4096 names no context. -/
def State.staleHeld (s : State) (w : HbmWrite) : Bool := decide (w.ctx < 4096) && s.epoch w.ctx != w.epoch

/-- The operations of context `c` that started under an older epoch and are still held (R489): stream transfers and held writes. -/
def State.opsInFlight (s : State) (c : Nat) : Nat :=
  (s.queues.map fun e => (e.2.xfers.filter fun t => t.ctx == c && t.epoch != s.epoch c).length).sum +
    (s.path.held.filter fun w => w.ctx == c && s.staleHeld w).length

/-- INFLIGHT of context `c` follows them; the other operations of R489 are over as soon as the epoch changes. -/
def showInflight (c : Nat) (s : State) : State := put (Reg.CTX_STATUS c) F.CTX_STATUS_INFLIGHT (min 0xFFFF (s.opsInFlight c)) s

/-- The held accesses that no longer wait take effect in their order (R50, R376); one of an older epoch is suppressed, and one that has
come to be refused has no effect. -/
def releaseHeld (s : State) : State :=
  let ready := s.path.held.filter fun w => !s.stillHeld w
  let s := setPath (fun p => { p with held := p.held.filter fun w => s.stillHeld w }) s
  forEach ready (fun w s =>
    if s.staleHeld w then showInflight w.ctx (noteOp w.op Code.EPOCH_STALE s)
    else if (w.kind = .write ∨ w.kind = .poison) ∧ s.writeRefused w.pan w.addr then noteOp w.op Code.REFUSED s
    else applyWrite w s) s

/-! ### Tile memory -/

/-- Whether any 32-byte unit of `n` bytes from offset `off` of tile `l`'s memory is poisoned (R139). -/
def State.tmPoison (s : State) (l off n : Nat) : Bool :=
  s.poison.any fun u => tileAddr l (off / 32 * 32) ≤ u && u < tileAddr l (off + n)

/-- `n` bytes of tile `l`'s memory from offset `off`. -/
def State.tmBytes (s : State) (l off n : Nat) : List Byte := s.rawBytes (tileAddr l off) n

/-- Bytes stored to tile memory; a store over a whole marked 32-byte unit clears its mark (R139). -/
def tmWrite (l off : Nat) (data : List Byte) (s : State) : State :=
  let a := tileAddr l off
  let s := setRaw a data s
  { s with poison := s.poison.filter fun u => !(a ≤ u && u + 32 ≤ a + data.length) || u < tileBase }

/-- The 32-byte units that `n` bytes from offset `off` touch, marked poisoned (R139, R244). -/
def tmMark (l off n : Nat) (s : State) : State :=
  if n = 0 then s
  else forEach (List.range ((off + n - 1) / 32 + 1 - off / 32)) (fun i => setPoison (tileAddr l (off / 32 * 32 + 32 * i)) true) s

/-! ### Reads and writes of either memory by a unit that moves poison (R244) -/

/-- A read of `n` local bytes with the parts of it that are poisoned (offset, length), for a requester that passes
poison on. -/
def readMarked (t : Target) (n hint : Nat) (s : State) : State × List Byte × List (Nat × Nat) :=
  match t with
  | .hbm a =>
    let (s, data, marks) := (linesOf a n).foldl
      (fun (s, data, marks) la =>
        let (s', d, p) := readLine la hint s
        let lo := max a la
        let hi := min (a + n) (la + 64)
        (s', data ++ d, if p then marks ++ [(lo - a, hi - lo)] else marks)) (s, ([] : List Byte), ([] : List (Nat × Nat)))
    (s, (data.drop (a - lineOf a)).take n, marks)
  | .tile l off =>
    let units := (s.poison.filter fun u => tileAddr l (off / 32 * 32) ≤ u && u < tileAddr l (off + n)).map (· - tileAddr l 0)
    (s, s.tmBytes l off n, units.map fun u => (max off u - off, min (off + n) (u + 32) - max off u))
  | _ => (s, List.replicate n 0, [])

/-- Whether an access of a target waits for the clear of its pair (R50). -/
def State.targetClears (s : State) (t : Target) : Bool := match t with | .hbm a => s.pairClears a | _ => false

/-- Whether logical tile `l` is being swapped (R423). -/
def State.swapping (s : State) (l : Nat) : Bool := match s.swap with | some x => x.ltile == l | none => false

/-- A deposit into the memory of the tile that is being swapped is held for the spare (R423). -/
def holdDeposit (off : Nat) (data : List Byte) (marks : List (Nat × Nat)) (s : State) : State :=
  { s with swap := s.swap.map fun x => { x with deposits := x.deposits ++ [(s.path.op, off, data, marks)] } }

/-- A deposit into tile memory: its bytes are stored, and every unit that a poisoned part touches is marked (R244). -/
def tmDeposit (l off : Nat) (data : List Byte) (marks : List (Nat × Nat)) (s : State) : State :=
  forEach marks (fun m => tmMark l (off + m.1) m.2) (tmWrite l off data s)

/-- A write of local bytes with its poisoned parts, by a unit that moves poison: the bytes are stored, and every line or
unit that a poisoned part touches becomes poisoned in full (R244). A deposit into a tile that is being swapped is held (R423). -/
def writeMarked (t : Target) (data : List Byte) (marks : List (Nat × Nat)) (hint ctx epoch : Nat) (s : State) : State × Nat :=
  match t with
  | .hbm a => hbmStore false a data marks hint ctx epoch s
  | .tile l off => (if s.swapping l then holdDeposit off data marks s else tmDeposit l off data marks s, Code.DONE)
  | _ => (s, Code.REFUSED)

/-! ### Windows of a partition (R479) -/

/-- The windows of partition `p` that hold [a, a + n) and carry the permission, in ascending order. -/
def State.windows (s : State) (p a n : Nat) (write : Bool) : List Nat :=
  (List.range 8).filter fun w =>
    s.on (Reg.PRT_WIN_LO p w) F.PRT_WIN_LO_VALID &&
    s.on (Reg.PRT_WIN_LO p w) (if write then F.PRT_WIN_LO_WRITE else F.PRT_WIN_LO_READ) &&
    decide (s.fld (Reg.PRT_WIN_LO p w) F.PRT_WIN_LO_ADDR * 4096 ≤ a) &&
    decide (a + n ≤ (s.fld (Reg.PRT_WIN_HI p w) F.PRT_WIN_HI_ADDR + 1) * 4096)

/-- Whether context `c` may make an HBM access (R479). -/
def State.allowed (s : State) (c a n : Nat) (write : Bool) : Bool := s.windows (s.ctxPart c) a n write ≠ []

/-- Several windows that match one access set MULTI_MATCH (R7, R479). -/
def noteWindows (c a n : Nat) (write : Bool) (s : State) : State :=
  when (decide (1 < (s.windows (s.ctxPart c) a n write).length)) (raise Reg.PRT_STATUS F.PRT_STATUS_MULTI_MATCH) s

end Sys2Proof.Machine
end

