-- ==== Sys2Proof/Machine/Contain.lean ====
section
/-! DEFINITION. Containment: which tiles a context runs on, the save of a tile (R481, R134, R483), the quarantine of a context
(R477), the fatal stop (R524), and `post`, the posting of a ledger entry with everything it entails (R521). -/
namespace Sys2Proof.Machine

/-! ### Tiles, logical and physical -/

namespace TileSt
def IDLE : Nat := 0
def RUNNING : Nat := 1
def STOPPED : Nat := 2
def HALTED : Nat := 3
def FAULTED : Nat := 4
def SAVED : Nat := 5
end TileSt

/-- STATE of physical tile `p`. -/
def State.tileSt (s : State) (p : Nat) : Nat := s.fld (Reg.TILE_STATUS p) F.TILE_STATUS_STATE
def setTileSt (p v : Nat) (s : State) : State := put (Reg.TILE_STATUS p) F.TILE_STATUS_STATE v s
/-- The physical tile that backs logical tile `l` (R39). -/
def State.phys (s : State) (l : Nat) : Nat := s.fld (Reg.FLR_TILE_MAP l) F.FLR_TILE_MAP_PHYS
/-- The logical tile that physical tile `p` backs; 255 where it backs none. -/
def State.logical (s : State) (p : Nat) : Nat := s.fld (Reg.FLR_PTILE p) F.FLR_PTILE_LOGICAL
/-- Whether a context is placed on physical tile `p`, and which. -/
def State.tileCtx (s : State) (p : Nat) : Option Nat :=
  if s.on (Reg.TILE_CTX p) F.TILE_CTX_PRESENT then some (s.fld (Reg.TILE_CTX p) F.TILE_CTX_CONTEXT) else none
/-- The logical tiles of partition `q`, in ascending order (R478, laid out as R261 gives). -/
def State.partTiles (s : State) (q : Nat) : List Nat :=
  (List.range 144).filter fun l =>
    if l < 64 then bit (s.reg (Reg.PRT_TILES0 q)).toNat l
    else if l < 128 then bit (s.reg (Reg.PRT_TILES1 q)).toNat (l - 64)
    else bit (s.reg (Reg.PRT_TILES2 q)).toNat (l - 128)
/-- The physical tiles on which context `c` is placed. -/
def State.tilesOf (s : State) (c : Nat) : List Nat :=
  ((s.partTiles (s.ctxPart c)).map s.phys).filter fun p => s.tileCtx p = some c

/-- A scalar register: s0 reads as zero. -/
def State.sreg (s : State) (p n : Nat) : Nat := if n = 0 then 0 else (s.reg (Reg.TILE_SREG p n)).toNat
/-- A predicate: p0 reads as 1. -/
def State.preg (s : State) (p n : Nat) : Bool := n == 0 || bit (s.reg (Reg.TILE_PREG p)).toNat n
/-- The PC. -/
def State.tpc (s : State) (p : Nat) : Nat := s.fld (Reg.TILE_PC p) F.TILE_PC_PC
/-- Whether a slot executes (R102). -/
def State.guard (s : State) (p : Nat) (g : Guard) : Bool := xor (s.preg p g.pred.val) g.pn

/-- The 1,024 bytes of vector register `n` of tile `p`: 256 lanes of 32 bits, two lanes to a register word. -/
def State.vreg (s : State) (p n : Nat) : List Byte :=
  (List.range 128).flatMap fun i => bytesOf 8 (s.reg (Reg.TILE_VREG p (128 * n + i))).toNat
def setVreg (p n : Nat) (data : List Byte) (s : State) : State :=
  forEach (List.range 128) (fun i => setR (Reg.TILE_VREG p (128 * n + i)) (BitVec.ofNat 64 (field data (8 * i) 8))) s

/-- Word (row i, column j) of accumulator bank `b` of tile `p`. -/
def accKey (p b i j : Nat) : Nat := 65536 * p + 16384 * b + 128 * i + j
def State.accWord (s : State) (p b i j : Nat) : BitVec 32 := Store.lookup (fun _ => 0) s.acc (accKey p b i j)
def setAcc (p b i j : Nat) (v : BitVec 32) (s : State) : State :=
  { s with acc := Store.update (fun _ => (0 : BitVec 32)) s.acc (accKey p b i j) v }
/-- The 64 KiB of a bank as R148 lays them out: row by row, 4 bytes a word. -/
def State.accBytes (s : State) (p b : Nat) : List Byte :=
  (List.range 128).flatMap fun i => (List.range 128).flatMap fun j => bytesOf 4 (s.accWord p b i j).toNat

/-- Tile `p` abandons what its held bundle has begun (R121): the post of a CPOSTW stays outstanding until it completes, and its completion
is nobody's. -/
def abandon (p : Nat) (s : State) : State :=
  let t := s.tile p
  setTile p { t with held := none, begun := none, posts := (t.posts.filter fun x => !(x.waits && x.result.isSome)).map fun x =>
    if x.waits then { x with orphan := true } else x } s

/-! ### Saving a tile (R481) -/

/-- The image of tile `p` in the save area of context `c`: SAVE_BASE plus 0x48_0000 for each lower tile of the partition. -/
def State.imageBase (s : State) (c p : Nat) : Nat :=
  s.fld (Reg.CTX_SAVE c) F.CTX_SAVE_BASE * 4096 +
    0x480000 * ((s.partTiles (s.ctxPart c)).filter (· < s.logical p)).length

/-- The header block of an image, 0x40_0000 to 0x40_027F, with the register groups that `live` selects. -/
def saveHeader (s : State) (p live tm : Nat) : List Byte :=
  let t := s.tile p
  let w (off : Nat) := bytesOf 8 (s.reg off).toNat
  let zeros n := List.replicate n (0 : Byte)
  let loops := t.loops.reverse
  let info := live % 2048 + s.tileSt p * 2 ^ 16 + tm * 2 ^ 20 + loops.length * 2 ^ 42 + t.rets.length * 2 ^ 45
  (match t.wild with | some a => bytesOf 8 a | none => w (Reg.TILE_PC p)) ++ w (Reg.TILE_PROG p) ++ bytesOf 8 info ++ zeros 8 ++
    w (Reg.TILE_RNG_KEY p) ++ w (Reg.TILE_RNG_CTR_LO p) ++ w (Reg.TILE_RNG_CTR_HI p) ++ zeros 8 ++
    (List.range 4).flatMap (fun i => match loops[i]? with
      | some e => bytesOf 8 e.start ++ bytesOf 8 e.stop ++ bytesOf 8 e.count
      | none => zeros 24) ++
    (List.range 8).flatMap (fun i => bytesOf 8 (t.rets.reverse.getD i 0)) ++ zeros 32 ++
    (if bit live 0 then (List.range 31).flatMap (fun i => w (Reg.TILE_SREG p (i + 1))) else zeros 248) ++
    (if bit live 1 then (List.range 16).flatMap (fun i => w (Reg.TILE_AREG p i)) else zeros 128) ++
    (if bit live 2 then bytesOf 8 ((s.reg (Reg.TILE_PREG p)).toNat / 2 * 2) else zeros 8)

/-- A line of a save image written, or the poison codeword over it (R481). -/
def saveLine (c la : Nat) (data : List Byte) (poison : Bool) (s : State) : State :=
  (hbmStore false la data (if poison then [(0, 64)] else []) 0 c (s.epoch c) s).1

/-- Tile `p` writes its image for context `c`: the header with the groups in `live`, `tm` times 64 KiB of tile memory, the
vector registers and the banks that `live` selects; then the tile leaves the context (R134, R483). A FAULTED tile stays
FAULTED (R477). -/
def saveTile (p c live tm : Nat) (s0 : State) : State :=
  let base := s0.imageBase c p
  let l := s0.logical p
  let s := forEach (List.range (tm * 1024)) (fun i s =>
      saveLine c (base + 64 * i) (s0.tmBytes l (64 * i) 64) (s0.tmPoison l (64 * i) 64) s) s0
  let s := (hbmWrite false (base + 0x400000) (saveHeader s0 p live tm) 0 c (s0.epoch c) s).1
  let s := forEach (List.range 32) (fun n s =>
      if bit live (3 + n / 8) then (hbmWrite false (base + 0x402000 + 1024 * n) (s0.vreg p n) 0 c (s0.epoch c) s).1 else s) s
  let s := forEach (List.range 4) (fun b s =>
      if bit live (7 + b) then (hbmWrite false (base + 0x410000 + 65536 * b) (s0.accBytes p b) 0 c (s0.epoch c) s).1 else s) s
  let s := abandon p s
  let s := setTile p { s.tile p with saved := true, halted := s0.tileSt p == TileSt.HALTED, saving := none, preempt := false } s
  let s := put (Reg.TILE_CTX p) F.TILE_CTX_PRESENT 0 (put (Reg.TILE_STATUS p) F.TILE_STATUS_WAIT 0 s)
  if s.tileSt p = TileSt.FAULTED then s else setTileSt p TileSt.SAVED s

/-- A save of tile `p` with the mask `live`, once its engine queue is empty (R135) and no swap of it runs (R426); until then it is
remembered. -/
def requestSave (p c live tm : Nat) (s : State) : State :=
  if (s.tile p).queue = [] ∧ !s.swapping (s.logical p) then saveTile p c live tm s
  else setTile p { s.tile p with saving := some (live + 2048 * tm) } s

/-- A forced save records every group and all 4 MiB, and is counted (R483). -/
def forceSave (p c : Nat) (s : State) : State := requestSave p c 0x7FF 64 (bump (Reg.PRT_FORCED (s.ctxPart c)) s)

/-! ### Context bits, quarantine and fatal stop -/

/-- SCHEDULABLE of context `c` shows whether it is ACTIVE with RUN 1 and a tile not HALTED (R483). -/
def showSchedulable (c : Nat) (s : State) : State :=
  putB (Reg.CTX_STATUS c) F.CTX_STATUS_SCHEDULABLE
    (s.ctxState c == CtxState.ACTIVE && s.on (Reg.CTX_CTRL c) F.CTX_CTRL_RUN && !s.on (Reg.CTX_STATUS c) F.CTX_STATUS_HALTED) s

/-- Whether SCHEDULABLE holds. -/
def State.schedulable (s : State) (c : Nat) : Bool := s.on (Reg.CTX_STATUS c) F.CTX_STATUS_SCHEDULABLE

/-- The slice of partition `q` ends: its context is being switched out (R483, R484). -/
def endSlice (q : Nat) (s : State) : State := put (Reg.PRT_PSTATUS q) F.PRT_PSTATUS_SWITCHING 1 s

/-- Whether context `c` is resident. -/
def State.resident (s : State) (c : Nat) : Bool := s.on (Reg.CTX_STATUS c) F.CTX_STATUS_RESIDENT

namespace QState
def DISABLED : Nat := 0
def RUNNING : Nat := 1
def HELD : Nat := 2
def FLUSHING : Nat := 3
end QState

/-- STATE of the command queue of context `c`. -/
def State.qState (s : State) (c : Nat) : Nat := s.fld (Reg.Q_STATUS c) F.Q_STATUS_STATE
def setQState (c v : Nat) (s : State) : State := put (Reg.Q_STATUS c) F.Q_STATUS_STATE v s

/-- The cause that QCAUSE records for a posting of a unit: 1 tile fault, 2 stream, 3 stage port, 4 reduction, 5 update,
6 other consumer (CTX_c_STATUS). -/
def causeOf : LUnit → Nat
  | .tile => 1 | .mxe => 1 | .vec => 1 | .str => 2 | .stg => 3 | .red => 4 | .upd => 5 | _ => 6

/-- Quarantine of context `c` (R477): an ACTIVE context becomes QUARANTINED, its tiles stop and are saved as by a forced
save, its slice ends, its command queue is HELD (a flush in progress finishes first, R509), and QVEC is sent to FUNC. A
context being reset only records the cause (R492); a quarantined one changes no more. -/
def quarantine (c cause : Nat) (s : State) : State :=
  if s.ctxState c = CtxState.ACTIVE then
    let tiles := s.tilesOf c
    let s := put (Reg.CTX_STATUS c) F.CTX_STATUS_QCAUSE cause (put (Reg.CTX_CTRL c) F.CTX_CTRL_STATE CtxState.QUARANTINED s)
    let s := showSchedulable c s
    let s := when (s.resident c) (endSlice (s.ctxPart c)) s
    let s := forEach tiles (fun p s => forceSave p c s) s
    let s := when (s.qState c = QState.RUNNING) (setQState c QState.HELD) s
    sendMsix (s.fld (Reg.CTX_HOST c) F.CTX_HOST_FUNC) (s.fld (Reg.CTX_HOST c) F.CTX_HOST_QVEC) s
  else if s.ctxState c = CtxState.RESETTING then put (Reg.CTX_STATUS c) F.CTX_STATUS_QCAUSE cause s
  else s

/-- The fatal stop (R524): every running tile stops without a save, every running command queue becomes HELD,
FATAL_STOP is set and AER signals. Engines, fabric ports and BAR2 look at FATAL_STOP. -/
def fatalStop (s : State) : State :=
  let s := forEach (List.range 160) (fun p s => if s.tileSt p = TileSt.RUNNING then
      setTileSt p TileSt.STOPPED (put (Reg.TILE_STATUS p) F.TILE_STATUS_WAIT 0 (abandon p s)) else s) s
  let s := mapRegs (fun off => decide (Reg.Q_STATUS 0 ≤ off) && (off - Reg.Q_STATUS 0) % 0x1000 == 0)
    (fun _ w => if w.get F.Q_STATUS_STATE = QState.RUNNING then w.put F.Q_STATUS_STATE QState.HELD else w) s
  emit .aerUncorrectable (raise Reg.ERR_STATUS F.ERR_STATUS_FATAL_STOP s)

/-- A ledger posting with all that it entails: it is recorded; a CONTAINED entry that names a present context quarantines
it, whether or not the ledger had room (R521, R477); a FATAL entry makes the fatal stop (R524). -/
def post (p : Posting) (s : State) : State :=
  let s := record p s
  match p.sev with
  | .corrected => s
  | .contained => (match p.ctx with
    | some c => if s.present c then quarantine c (causeOf p.unit) s else s
    | none => s)
  | .fatal => fatalStop s

/-- A CONTAINED posting for context `c` (4,096 and above: none). -/
def postContained (code : Nat) (unit : LUnit) (c detail : Nat) (s : State) : State :=
  post ⟨code, .contained, unit, if c < 4096 then some c else none, none, detail⟩ s

/-- A FATAL posting. -/
def postFatal (code : Nat) (unit : LUnit) (detail : Nat) (s : State) : State :=
  post ⟨code, .fatal, unit, none, none, detail⟩ s

/-! ### Stops and faults of a tile -/

/-- A RUNNING tile stops at its bundle boundary; a wait is abandoned (R121). -/
def stopTile (p : Nat) (s : State) : State :=
  if s.tileSt p = TileSt.RUNNING then
    setTileSt p TileSt.STOPPED (put (Reg.TILE_STATUS p) F.TILE_STATUS_WAIT 0 (abandon p s))
  else s

/-- The TILE_FAULT value of a fault (R142). -/
def faultWord (code slot pc : Nat) (imprecise : Bool) : Word :=
  ((((0 : Word).put F.TILE_FAULT_VALID 1).put F.TILE_FAULT_IMPRECISE (if imprecise then 1 else 0)).put
    F.TILE_FAULT_SLOT slot).put F.TILE_FAULT_CODE code |>.put F.TILE_FAULT_PC pc

/-- A fault of tile `p` (R142): the tile is FAULTED, the fault is captured if VALID is clear, and a CONTAINED entry is posted
for its context. -/
def tileFault (p code slot pc : Nat) (imprecise : Bool) (s : State) : State :=
  let w := faultWord code slot pc imprecise
  let s := abandon p s
  let s := setTile p { s.tile p with stepping := false } s
  let s := setTileSt p TileSt.FAULTED (put (Reg.TILE_STATUS p) F.TILE_STATUS_WAIT 0 s)
  let s := if s.on (Reg.TILE_FAULT p) F.TILE_FAULT_VALID then s else setR (Reg.TILE_FAULT p) w s
  postContained 0x0030 .tile ((s.tileCtx p).getD 4096) (w.toNat + p * 2 ^ 22) s

/-- The WCB_MERGE_POISON entries that memory operations have found (R234), posted in order, in `n` rounds. -/
def settleN : Nat → State → State
  | 0, s => s
  | n + 1, s =>
    match s.path.owed with
    | [] => s
    | (c, la) :: rest => settleN n (postContained 0x0041 .bc c la (setPath (fun p => { p with owed := rest }) s))

/-- The end of a command that used memory: every entry owed is posted. A save that a posting causes can meet another poisoned
line; each context is quarantined at most once, so the rounds suffice. -/
def settle (s : State) : State := setPath (fun p => { p with owed := [] }) (settleN (s.path.owed.length + 8192) s)

/-- An access to an unassigned or malformed address (R54). -/
def addressFault (c addr : Nat) (s : State) : State := postContained 0x0010 .flr c addr s

/-- An access outside the partition's windows (R479). -/
def windowFault (c addr : Nat) (s : State) : State := postContained 0x00B0 .prt c addr s

/-- A reserved code in something read from memory or received (R24). -/
def reservedCode (unit : LUnit) (c detail : Nat) (s : State) : State := postContained 0x0002 unit c detail s

/-- A write to a unit's register that is ignored in whole or in part sets the unit's BAD_WRITE (R21 to R23). -/
def badWrite (off : Nat) (s : State) : State :=
  match unitOf off with
  | some .mgt => raise Reg.MGT_STATUS F.MGT_STATUS_BAD_WRITE s
  | some .cfg => raise Reg.CFG_STATUS F.CFG_STATUS_BAD_WRITE s
  | some .err => raise Reg.ERR_STATUS F.ERR_STATUS_BAD_WRITE s
  | some .pwr => raise Reg.PWR_STATUS F.PWR_STATUS_BAD_WRITE s
  | some .hif => raise Reg.HIF_STATUS F.HIF_STATUS_BAD_WRITE s
  | some .db => raise Reg.HIF_STATUS F.HIF_STATUS_BAD_WRITE s
  | some .tide => raise Reg.TIDE_STATUS F.TIDE_STATUS_BAD_WRITE s
  | some .ctx => raise Reg.PRT_STATUS F.PRT_STATUS_BAD_WRITE s
  | some .prt => raise Reg.PRT_STATUS F.PRT_STATUS_BAD_WRITE s
  | some .stg => raise Reg.STG_STATUS F.STG_STATUS_BAD_WRITE s
  | some .red => raise Reg.RED_STATUS F.RED_STATUS_BAD_WRITE s
  | some .upd => raise Reg.UPD_STATUS F.UPD_STATUS_BAD_WRITE s
  | some .pan => raise Reg.PAN_STATUS F.PAN_STATUS_BAD_WRITE s
  | some .hrv => raise Reg.HRV_STATUS F.HRV_STATUS_BAD_WRITE s
  | some .chk => raise Reg.CHK_STATUS F.CHK_STATUS_BAD_WRITE s
  | some .spr => raise Reg.SPR_STATUS F.SPR_STATUS_BAD_WRITE s
  | some .rpl => raise Reg.RPL_STATUS F.RPL_STATUS_BAD_WRITE s
  | some .com => raise Reg.COM_STATUS F.COM_STATUS_BAD_WRITE s
  | some .fab => raise Reg.FAB_STATUS F.FAB_STATUS_BAD_WRITE s
  | some .flr => raise Reg.FLR_STATUS F.FLR_STATUS_BAD_WRITE s
  | some .mem => raise Reg.MEM_STATUS F.MEM_STATUS_BAD_WRITE s
  | some .bc => raise Reg.BC_STATUS F.BC_STATUS_BAD_WRITE s
  | some .str => raise Reg.STR_STATUS F.STR_STATUS_BAD_WRITE s
  | some .chn => raise Reg.CHN_STATUS F.CHN_STATUS_BAD_WRITE s
  | some .tile =>
    let p := (off - 0x1000000) / 0x10000
    let o := off % 0x10000
    if s.fld (Reg.FLR_PTILE p) F.FLR_PTILE_STATE = 0 ∨ s.fld (Reg.FLR_PTILE p) F.FLR_PTILE_STATE = 3 then
      raise Reg.FLR_STATUS F.FLR_STATUS_BAD_WRITE s
    else if 0xC000 ≤ o ∧ o < 0xD000 then raise (Reg.MXE_STATUS p) F.MXE_STATUS_BAD_WRITE s
    else if 0xD000 ≤ o then raise (Reg.VEC_STATUS p) F.VEC_STATUS_BAD_WRITE s
    else raise (Reg.TILE_STATUS p) F.TILE_STATUS_BAD_WRITE s
  | none => s

end Sys2Proof.Machine
end

