-- ==== Sys2Proof/Machine/RegWrite.lean ====
section
/-! DEFINITION. The field-by-field register write that every register without a rule of its own follows (R19 to R21, R27),
and the write of a statistics counter (R11) and of a watermark (R18, R260). -/
namespace Sys2Proof.Machine

/-- Whether a field admits a value: its ranges that are not reserved (none given: every value). -/
def FieldSpec.admits (f : FieldSpec) (v : Nat) : Bool := f.legal.isEmpty || f.legal.any fun r => r.1 ≤ v && v ≤ r.2

/-- The value that a field's written bits spell: low bits that the field reserves are ignored (R20). -/
def FieldSpec.written (f : FieldSpec) (v : Word) : Nat := v.get ⟨f.hi, f.lo⟩ / 2 ^ f.low * 2 ^ f.low

/-- One field of a write applied to the held word, and whether the field's value was a reserved encoding (R21). -/
def writeField (v : Word) (acc : Word × Bool) (f : FieldSpec) : Word × Bool :=
  let x : Fld := ⟨f.hi, f.lo⟩
  let n := f.written v
  match f.acc with
  | .ro => acc
  | .wo => acc
  | .rw => if f.admits n then (acc.1.put x n, acc.2) else (acc.1, true)
  | .w1c => (acc.1.put x ((acc.1.get x) &&& (2 ^ x.width - 1 - n)), acc.2)
  | .w1s => (acc.1.put x ((acc.1.get x) ||| n), acc.2)

/-- The word that a write of `v` leaves in a register with these fields, and whether some field kept its value because
its written value is reserved. -/
def writeFields (fs : List FieldSpec) (old v : Word) : Word × Bool := fs.foldl (writeField v) (old, false)

/-- The fields of a register. -/
def fieldsOf (off : Nat) : List FieldSpec := match rowOf off with | some r => r.fields | none => []

/-- A 64-bit write to a register that has no rule of its own (R19 to R22). -/
def genericWrite (off : Nat) (v : Word) (s : State) : State :=
  match rowOf off with
  | none => badWrite off s
  | some r =>
    let w := writeFields r.fields (s.reg off) v
    when w.2 (badWrite off) (setR off w.1 s)

/-- A write that is ignored in whole. -/
def refuseWrite (off : Nat) (s : State) : State := badWrite off s

/-- A write that is taken field by field where `ok`, and otherwise ignored in whole with BAD_WRITE. -/
def writeIf (ok : Bool) (off : Nat) (v : Word) (s : State) : State :=
  if ok then genericWrite off v s else refuseWrite off s

/-- A field that a write is about to leave as it is: `v` with field `f` as the register holds it. -/
def keepFld (off : Nat) (f : Fld) (v : Word) (s : State) : Word := v.put f (s.fld off f)

/-- A write to a statistics counter (R11): [47:0] is loaded; one in bit 63 clears SAT, zero leaves it. -/
def counterWrite (off : Nat) (v : Word) (s : State) : State :=
  let s := put off ⟨47, 0⟩ (v.get ⟨47, 0⟩) s
  when (v.get ⟨63, 63⟩ = 1) (put off ⟨63, 63⟩ 0) s

/-- Whether a register is a statistics counter (R9). -/
def isCounter (off : Nat) : Bool := match rowOf off with | some r => r.counter | none => false

/-- A write to a watermark register (R17, R18, R260): marks that would put LOW above HIGH, or reserved values, keep both
marks or that mark with BAD_WRITE; COUNT is cleared by zero and otherwise kept; NOTICE is W1C after the marks; and the
re-arm test follows. -/
def wmWriteAt (off : Nat) (v : Word) (s : State) : State :=
  let admits (f : Fld) : Bool :=
    match rowOf off with
    | some r => r.fields.all fun x => if x.hi = f.hi ∧ x.lo = f.lo then x.admits (x.written v) else true
    | none => true
  let high := if admits F.CHN_WM_HIGH then v.get F.CHN_WM_HIGH else s.fld off F.CHN_WM_HIGH
  let low := if admits F.CHN_WM_LOW then v.get F.CHN_WM_LOW else s.fld off F.CHN_WM_LOW
  let s := when (!(admits F.CHN_WM_HIGH && admits F.CHN_WM_LOW)) (badWrite off) s
  let s := if high < low then badWrite off s else put off F.CHN_WM_LOW low (put off F.CHN_WM_HIGH high s)
  let s := when (v.get F.CHN_WM_COUNT = 0) (put off F.CHN_WM_COUNT 0) s
  let s := when (v.get F.CHN_WM_NOTICE = 1) (put off F.CHN_WM_NOTICE 0) s
  wmRearm off s

end Sys2Proof.Machine
end

