-- ==== Sys2Proof/Machine/Fabric.lean ====
section
/-! DEFINITION. The Ewexia fabric (chapter 08): packets, their CRC and their checks (R265 to R270), routing (R274 to R277), link retry and
ports that leave service (R278 to R280, R556), multicast trees (R282), rank maps (R283 to R286) and injection (R287, R288). -/
namespace Sys2Proof.Machine

open Host (Outcome)

/-! ### Ports -/

namespace PortSt
def DISABLED : Nat := 0
def TRAINING : Nat := 1
def UP : Nat := 2
def DEGRADED : Nat := 3
def DOWN : Nat := 4
end PortSt

def State.port (s : State) (p : Nat) : PortState := Store.lookup (fun _ => PortState.init) s.ports p
def setPort (p : Nat) (x : PortState) (s : State) : State :=
  { s with ports := Store.update (fun _ => PortState.init) s.ports p x }
/-- STATE of fabric port `p`. -/
def State.portSt (s : State) (p : Nat) : Nat := s.fld (Reg.FAB_P_STATUS p) F.FAB_P_STATUS_STATE
def setPortSt (p v : Nat) (s : State) : State := put (Reg.FAB_P_STATUS p) F.FAB_P_STATUS_STATE v s
/-- Whether a port is usable for routing (R264). -/
def State.usable (s : State) (p : Nat) : Bool := s.portSt p == PortSt.UP || s.portSt p == PortSt.DEGRADED

/-! ### Packets -/

namespace Op
def WRITE : Nat := 0
def READ_REQ : Nat := 1
def READ_RESP : Nat := 2
def COMPLETION : Nat := 3
def MCAST_WRITE : Nat := 4
def MCAST_ACK : Nat := 5
def MESSAGE : Nat := 6
def UNIT : Nat := 7
def LINK_QUERY : Nat := 8
end Op

namespace Cls
def DATA : Nat := 0
def STAGE : Nat := 1
def REDUCE : Nat := 2
def CONTROL : Nat := 3
end Cls

/-- Bytes 0 to 27 of a packet's header (R265). -/
def packetHead (pk : Packet) : List Byte :=
  let r (lo n : Nat) : Nat := bits pk.rsv.toNat (lo + n - 1) lo
  bytesOf 2 (pk.dest.toNat + r 0 3 * 2 ^ 13) ++ bytesOf 2 (pk.src.toNat + r 3 3 * 2 ^ 13) ++
    bytesOf 2 (pk.ctx.toNat + r 6 4 * 2 ^ 12) ++ [pk.epoch] ++
    bytesOf 1 (pk.cls.toNat + pk.hops.toNat * 4 + (if pk.poison then 64 else 0) + r 10 1 * 128) ++
    bytesOf 2 pk.seq.toNat ++ bytesOf 2 pk.tag.toNat ++ bytesOf 1 (pk.op.toNat + pk.hint.toNat * 16 + r 11 2 * 64) ++ [pk.len] ++
    bytesOf 2 (pk.group.toNat + r 13 4 * 2 ^ 12) ++ bytesOf 6 pk.addr.toNat ++ [pk.code] ++
    bytesOf 1 (pk.nack.toNat + r 17 4 * 16) ++ bytesOf 4 (r 21 32)

/-- A packet as it stands on a link: its 32-byte header and its payload (R265). -/
def packetBytes (pk : Packet) : List Byte := packetHead pk ++ bytesOf 4 pk.crc.toNat ++ pk.payload

/-- The packet that bytes on a link spell (R265). -/
def readPacket (l : List Byte) : Packet :=
  let v (i n : Nat) : Nat := field l i n
  { dest := BitVec.ofNat 13 (v 0 2), src := BitVec.ofNat 13 (v 2 2), ctx := BitVec.ofNat 12 (v 4 2), epoch := BitVec.ofNat 8 (v 6 1),
    cls := BitVec.ofNat 2 (v 7 1), hops := BitVec.ofNat 4 (v 7 1 / 4), poison := bit (v 7 1) 6, seq := BitVec.ofNat 16 (v 8 2),
    tag := BitVec.ofNat 16 (v 10 2), op := BitVec.ofNat 4 (v 12 1), hint := BitVec.ofNat 2 (v 12 1 / 16),
    len := BitVec.ofNat 8 (v 13 1), group := BitVec.ofNat 12 (v 14 2), addr := BitVec.ofNat 48 (v 16 6),
    code := BitVec.ofNat 8 (v 22 1), nack := BitVec.ofNat 4 (v 23 1), crc := BitVec.ofNat 32 (v 28 4), payload := l.drop 32
    rsv := BitVec.ofNat 53 (v 0 2 / 2 ^ 13 + v 2 2 / 2 ^ 13 * 2 ^ 3 + v 4 2 / 2 ^ 12 * 2 ^ 6 + v 7 1 / 128 * 2 ^ 10 +
      v 12 1 / 64 * 2 ^ 11 + v 14 2 / 2 ^ 12 * 2 ^ 13 + v 23 1 / 16 * 2 ^ 17 + v 24 4 * 2 ^ 21) }

/-- The 8-byte fold word of a link: receiving device and port, and SEQ (R268). -/
def foldWord (dev port seq : Nat) : List Byte :=
  bytesOf 2 (dev % 8192) ++ bytesOf 1 (port % 32) ++ [0] ++ bytesOf 2 seq ++ [0, 0]

/-- The CRC of a packet on the link into port `port` of device `dev` (R268). -/
def packetCrc (dev port : Nat) (pk : Packet) : BitVec 32 :=
  BitVec.ofNat 32 (crc32c (packetHead pk ++ pk.payload ++ foldWord dev port pk.seq.toNat))

/-- A packet from this device (R265); HOPS, SEQ and CRC are set as it is sent. -/
def mkPacket (s : State) (dest ctx epoch cls op tag addr len : Nat) (payload : List Byte) : Packet :=
  { dest := BitVec.ofNat 13 dest, src := BitVec.ofNat 13 s.deviceId, ctx := BitVec.ofNat 12 ctx,
    epoch := BitVec.ofNat 8 epoch, cls := BitVec.ofNat 2 cls, hops := 0, poison := false, seq := 0,
    tag := BitVec.ofNat 16 tag, op := BitVec.ofNat 4 op, hint := 0, len := BitVec.ofNat 8 len, group := 0,
    addr := BitVec.ofNat 48 addr, code := 0, nack := 0, rsv := 0, crc := 0, payload := payload }

/-- Whether a packet is a request (R271): WRITE, READ_REQ, MESSAGE, LINK_QUERY, and UNIT. -/
def isRequest (pk : Packet) : Bool :=
  [Op.WRITE, Op.READ_REQ, Op.MESSAGE, Op.UNIT, Op.LINK_QUERY].contains pk.op.toNat

/-- CLASS matches the table of R266. -/
def classOk (pk : Packet) : Bool :=
  match pk.op.toNat with
  | 3 => true
  | 6 => pk.cls.toNat == Cls.CONTROL
  | 8 => pk.cls.toNat == Cls.CONTROL
  | 7 => pk.cls.toNat == Cls.STAGE || pk.cls.toNat == Cls.REDUCE
  | _ => pk.cls.toNat == Cls.DATA

/-- LEN is permitted for OP and fits the payload (R265, R266, R267). -/
def lenOk (pk : Packet) : Bool :=
  match pk.op.toNat with
  | 1 => pk.payload.isEmpty
  | 3 => pk.payload.isEmpty && pk.len == 0
  | 5 => pk.payload.isEmpty && pk.len == 0
  | 8 => pk.payload.isEmpty && pk.len == 0
  | 6 => pk.len == 63 && pk.payload.length == 64
  | _ => pk.payload.length == pk.len.toNat + 1

/-- The checks of R269, with the reserved groups of R282 and the reserved codes of R29 and R31. -/
def packetOk (pk : Packet) : Bool :=
  pk.rsv == 0 && decide (pk.op.toNat ≤ 8) && classOk pk && lenOk pk &&
    (if pk.op.toNat = Op.MCAST_WRITE ∨ pk.op.toNat = Op.MCAST_ACK then
      decide (1 ≤ pk.group.toNat) && decide (pk.group.toNat < 1024) else true) &&
    decide (pk.code.toNat ≤ 0x0A) && decide (pk.nack.toNat ≤ 6)

/-- The RESERVED_CODE entry of a packet that fails R269 (R24): its DETAIL holds SRC. -/
def packetReserved (pk : Packet) (s : State) : State := reservedCode .fab pk.ctx.toNat pk.src.toNat s

/-! ### Injection (R287, R288) -/

/-- Whether rule `k` applies to what leaves on port `p` with class bit `cls`, context and destination. -/
def injects (s : State) (k p cls : Nat) (ctx dest : Option Nat) : Bool :=
  let m := Reg.FAB_INJ_MATCH k
  bit (s.reg Reg.FAB_INJ_ENABLE).toNat k && bit (s.fld m F.FAB_INJ_MATCH_PORTS) p &&
    bit (s.fld m F.FAB_INJ_MATCH_CLASSES) cls &&
    (!s.on m F.FAB_INJ_MATCH_CTX_EN || ctx == some (s.fld m F.FAB_INJ_MATCH_CONTEXT)) &&
    (!s.on m F.FAB_INJ_MATCH_DEV_EN || dest == some (s.fld m F.FAB_INJ_MATCH_DEVICE))

/-- One draw of the generator of R288. -/
def xorshift (x : Nat) : Nat :=
  let x := (x ^^^ (x <<< 13)) % 2 ^ 32
  let x := x ^^^ (x >>> 17)
  (x ^^^ (x <<< 5)) % 2 ^ 32

/-- Whether a rule holds something by REORDER. -/
def State.ruleHolds (s : State) (k : Nat) : Bool :=
  (List.range 32).any fun p => (s.port p).delayed.any fun e => e.1 = k

/-- The draw for something that leaves on a port: the rule that acts with its ACTION and DEPTH, if one does. -/
def injectDraw (p cls : Nat) (ctx dest : Option Nat) (s : State) : State × Option (Nat × Nat × Nat) :=
  let rules := (List.range 32).filter fun k => injects s k p cls ctx dest
  match rules with
  | [] => (s, none)
  | k :: rest =>
    let s := when (!rest.isEmpty) (raise Reg.FAB_STATUS F.FAB_STATUS_MULTI_MATCH) s
    if s.ruleHolds k then (s, none)
    else
      let a := Reg.FAB_INJ_ACTION k
      let x := xorshift (s.fld (Reg.FAB_INJ_SEED k) F.FAB_INJ_SEED_STATE)
      let s := put (Reg.FAB_INJ_SEED k) F.FAB_INJ_SEED_STATE x s
      let limit := s.fld a F.FAB_INJ_ACTION_LIMIT
      let taken := s.fld a F.FAB_INJ_ACTION_TAKEN
      if x >>> 16 ≤ s.fld a F.FAB_INJ_ACTION_RATE ∧ (limit = 0 ∨ taken < limit) then
        let s := bump (Reg.FAB_P_INJECTED p) (put a F.FAB_INJ_ACTION_TAKEN (min 0xFFFF (taken + 1)) s)
        (s, some (k, s.fld a F.FAB_INJ_ACTION_ACTION, s.fld a F.FAB_INJ_ACTION_DEPTH))
      else (s, none)

/-! ### Sending on a port -/

/-- The link sequence of a port that control-class packets and short frames use, or that of the other packets (R273). -/
def PortState.lane (x : PortState) (ctl : Bool) : LinkSeq := if ctl then x.ctl else x.data

/-- A link sequence of a port changed. -/
def setLane (p : Nat) (ctl : Bool) (f : LinkSeq → LinkSeq) (s : State) : State :=
  let x := s.port p
  setPort p (if ctl then { x with ctl := f x.ctl } else { x with data := f x.data }) s

/-- Whether a packet travels in the control sequence (R273). -/
def onCtl (pk : Packet) : Bool := pk.cls.toNat == Cls.CONTROL

/-- A link sequence that has sent one more item, kept for replay (R278). -/
def LinkSeq.sent (l : LinkSeq) (what : Packet ⊕ Frame) : LinkSeq :=
  { l with next := (l.next + 1) % 65536, replay := l.replay ++ [(l.next, what)] }

/-- A packet as it goes onto port `p`: with the next SEQ of its link sequence and the CRC for the identity that the peer gave at
training (R265, R268). -/
def State.sealed (s : State) (p : Nat) (pk : Packet) : Packet :=
  let st := Reg.FAB_P_STATUS p
  let pk := { pk with seq := BitVec.ofNat 16 ((s.port p).lane (onCtl pk)).next }
  { pk with crc := packetCrc (s.fld st F.FAB_P_STATUS_PEER_DEVICE) (s.fld st F.FAB_P_STATUS_PEER_PORT) pk }

/-- A packet goes onto the link: it takes its SEQ and CRC, enters the replay buffer and is counted (R265, R278). -/
def putOnLink (p : Nat) (corrupt : Bool) (pk : Packet) (s : State) : State :=
  let pk := s.sealed p pk
  let s := setLane p (onCtl pk) (·.sent (.inl pk)) s
  bump (Reg.FAB_P_TX_PKTS p) (emit (if corrupt then .corrupted p (.inl pk) else .packet p pk) s)

/-- A packet goes onto the link, and what REORDER holds on the port comes nearer to its turn; what has waited for DEPTH
packets follows (R288). Each of the 32 rules holds at most one item. -/
def sendNow : Nat → Nat → Bool → Packet → State → State
  | 0, p, corrupt, pk, s => putOnLink p corrupt pk s
  | n + 1, p, corrupt, pk, s =>
    let s := putOnLink p corrupt pk s
    let x := s.port p
    let aged := x.delayed.map fun e => (e.1, e.2.1 - 1, e.2.2)
    let s := setPort p { x with delayed := aged.filter (·.2.1 ≠ 0) } s
    forEach (aged.filter (·.2.1 = 0)) (fun e s => match e.2.2 with
      | .inl q => sendNow n p false q s
      | .inr f => emit (.frame p f) s) s

/-- A packet leaves through injection (R288). -/
def throughInjection (p : Nat) (pk : Packet) (s : State) : State :=
  let (s, act) := injectDraw p pk.cls.toNat (some pk.ctx.toNat) (some pk.dest.toNat) s
  match act with
  | none => sendNow 32 p false pk s
  | some (k, action, depth) =>
    if action = 0 then s
    else if action = 1 then sendNow 32 p true pk s
    else setPort p { s.port p with delayed := (s.port p).delayed ++ [(k, depth, .inl pk)] } s

/-- Whether port `p` can send a packet now: its class has credit (R277), the replay buffer of its link sequence has room (R278), and
no packet of its class waits. -/
def State.canSend (s : State) (p : Nat) (pk : Packet) : Bool :=
  let x := s.port p
  decide (0 < x.credits.getD pk.cls.toNat 0) && decide ((x.lane (onCtl pk)).replay.length < 1024) && !x.queued.any (·.cls == pk.cls)

/-- A packet reaches its egress port: it leaves, or waits until it can. -/
def egress (p : Nat) (pk : Packet) (s : State) : State :=
  let x := s.port p
  let c := pk.cls.toNat
  if s.canSend p pk then throughInjection p pk (setPort p { x with credits := x.credits.set c (x.credits.getD c 0 - 1) } s)
  else setPort p { x with queued := x.queued ++ [pk] } s

/-- A port has got a credit or room: what waits leaves in its order as far as it can. -/
def pump (p : Nat) (s : State) : State :=
  if s.fatal then s else forEach (s.port p).queued (egress p) (setPort p { s.port p with queued := [] } s)

/-- A short frame that takes its place in the control sequence and is kept for replay (R273, R278); nothing is sent in a fatal stop
(R524) or on a port out of service. -/
def frameOut (p : Nat) (f : Frame) (s : State) : State :=
  if s.fatal || !s.usable p then s else emit (.frame p f) (setLane p true (·.sent (.inr f)) s)

/-- An acknowledgement or NAK of a link sequence, which is itself outside the sequences (DESIGN CHOICE, log 56). -/
def linkFrame (p : Nat) (f : Frame) (s : State) : State := if s.fatal || !s.usable p then s else emit (.frame p f) s

/-- A heartbeat leaves through injection, class bit 4 (R287, R288). -/
def heartbeatOut (p : Nat) (f : Frame) (s : State) : State :=
  if s.fatal || !s.usable p then s
  else
    let (s, act) := injectDraw p 4 none none s
    match act with
    | none => emit (.frame p f) s
    | some (k, action, depth) =>
      if action = 0 then s
      else if action = 1 then emit (.corrupted p (.inr f)) s
      else setPort p { s.port p with delayed := (s.port p).delayed ++ [(k, depth, .inr f)] } s

/-! ### Routing (R274 to R277) -/

/-- The valid route entries that match a destination, in ascending order. -/
def State.routes (s : State) (dest : Nat) : List Nat :=
  (List.range 64).filter fun r =>
    s.on (Reg.FAB_ROUTE r) F.FAB_ROUTE_VALID && decide (s.fld (Reg.FAB_ROUTE r) F.FAB_ROUTE_LO ≤ dest) &&
      decide (dest ≤ s.fld (Reg.FAB_ROUTE r) F.FAB_ROUTE_HI)

/-- The matching entries of the highest PRIO; the first wins (R274, R7). -/
def State.bestRoutes (s : State) (dest : Nat) : List Nat :=
  let prio r := s.fld (Reg.FAB_ROUTE r) F.FAB_ROUTE_PRIO
  let all := s.routes dest
  all.filter fun r => all.all fun q => prio q ≤ prio r

/-- The hash of R275. -/
def routeHash (src dest addr : Nat) : Nat := src ^^^ dest ^^^ (bits addr 23 12 ^^^ bits addr 35 24 ^^^ bits addr 47 36)

/-- The port for a packet (R274, R275): `none` where no entry matches or no candidate is usable. -/
def State.routePort (s : State) (src dest cls addr : Nat) : Option Nat :=
  match s.bestRoutes dest with
  | [] => none
  | r :: _ =>
    let cands := (List.range 32).filter fun p => bit (s.fld (Reg.FAB_ROUTE r) F.FAB_ROUTE_PORTS) p && s.usable p
    if s.on Reg.FAB_CTRL F.FAB_CTRL_UNIFORM && cls ≠ Cls.CONTROL then cands[routeHash src dest addr % cands.length]?
    else cands.head?

/-- MULTI_MATCH of a route lookup (R7). -/
def noteRoutes (dest : Nat) (s : State) : State :=
  when (decide (1 < (s.bestRoutes dest).length)) (raise Reg.FAB_STATUS F.FAB_STATUS_MULTI_MATCH) s

/-- How a packet comes to the router: an own request, an own request without a context (LINK_QUERY), an answer, or in
transit. -/
inductive Via where
  | request | query | answer | transit
  deriving DecidableEq, Repr

/-- A packet without a route (R277). Answers whether its request stays open. -/
def noRoute (via : Via) (pk : Packet) (s : State) : State × Bool :=
  let s := raise Reg.FAB_STATUS F.FAB_STATUS_NO_ROUTE s
  match via with
  | .request => (postContained 0x0050 .fab pk.ctx.toNat pk.dest.toNat s, false)
  | .query => (postContained 0x0050 .fab 4096 pk.dest.toNat s, false)
  | _ => (bump Reg.FAB_NO_ROUTE_DROPS s, true)

/-- A packet that would pass HOP_LIMIT is discarded; only the first discard posts (R277). -/
def hopDrop (pk : Packet) (s : State) : State :=
  let first := !s.on Reg.FAB_STATUS F.FAB_STATUS_HOP_DROP
  let s := bump Reg.FAB_HOP_DROPS (raise Reg.FAB_STATUS F.FAB_STATUS_HOP_DROP s)
  when first (postCorrected 0x0051 .fab none none pk.dest.toNat) s

/-- Whether two packets must keep their order (R276): one class, one originator, one destination, and one 4 KiB granule or, of two
messages, one sending tile and one ring. -/
def sameStream (a b : Packet) : Bool :=
  let x := a.addr.toNat
  let y := b.addr.toNat
  a.cls == b.cls && a.src == b.src && a.dest == b.dest &&
    (bits x 47 12 == bits y 47 12 ||
      (a.op.toNat == Op.MESSAGE && b.op.toNat == Op.MESSAGE && bits x 31 24 == bits y 31 24 && bits x 17 5 == bits y 17 5))

/-- The port that settles packets which this one must follow (R279, R556). -/
def State.settlesBefore (s : State) (pk : Packet) : Option Nat :=
  (List.range 32).find? fun p =>
    (s.port p).settling.isSome && ((s.port p).doubtful ++ (s.port p).behind).any fun q => sameStream q pk

/-- The usable port on which an earlier packet that this one must follow still waits (R276). -/
def State.queuesBefore (s : State) (pk : Packet) : Option Nat :=
  (List.range 32).find? fun p => s.usable p && (s.port p).queued.any fun q => sameStream q pk

/-- A packet is routed and sent. HOPS counts the link that it leaves on. Answers whether its request stays open. -/
def routeSend (via : Via) (pk : Packet) (s : State) : State × Bool :=
  if s.fatal then (s, true)
  else if s.fld Reg.FAB_CTRL F.FAB_CTRL_HOP_LIMIT < pk.hops.toNat + 1 then (hopDrop pk s, true)
  else
    let s := noteRoutes pk.dest.toNat s
    match s.settlesBefore pk with
    | some p => (setPort p { s.port p with behind := (s.port p).behind ++ [{ pk with hops := pk.hops + 1 }] } s, true)
    | none =>
      match (s.queuesBefore pk).or (s.routePort pk.src.toNat pk.dest.toNat pk.cls.toNat pk.addr.toNat) with
      | some p => (egress p { pk with hops := pk.hops + 1 } s, true)
      | none => noRoute via pk s

/-- A short frame to a device, through the route table on the lowest usable candidate (R272, R275). -/
def frameTo (dev : Nat) (f : Frame) (s : State) : State :=
  let s := noteRoutes dev s
  match s.routePort s.deviceId dev Cls.CONTROL 0 with
  | some p => frameOut p f s
  | none => s

/-! ### Requests and answers -/

/-- A request opened: its tag, with what the answer will be for (R271). -/
def openReq (dest ctx epoch addr bytes : Nat) (purpose : Purpose) (s : State) : State × Nat :=
  let t := s.nextTag
  ({ s with nextTag := (t + 1) % 65536, opens := s.opens ++ [⟨t, dest, ctx, epoch, addr, bytes, purpose⟩] }, t)

/-- The open request with a tag. -/
def State.openOf (s : State) (tag : Nat) : Option OpenReq := s.opens.find? (·.tag = tag)
def closeReq (tag : Nat) (s : State) : State := { s with opens := s.opens.filter (·.tag ≠ tag) }

/-- A request of a context leaves (R271): DONE once it is on its way, MODE_STALE while this device is stale in the context's
domain (R96), REFUSED where no route takes it. -/
def sendRequest (pk : Packet) (s : State) : State × Nat :=
  if s.on (Reg.TIDE_DSTATUS (s.ctxDomain pk.ctx.toNat)) F.TIDE_DSTATUS_STALE then (s, Code.MODE_STALE)
  else
    let (s, ok) := routeSend .request pk s
    (s, if ok then Code.DONE else Code.REFUSED)

/-- The COMPLETION that answers a request: same class and tag, with a code, a NACK reason and an ADDR. -/
def answerTo (pk : Packet) (code nack addr : Nat) (s : State) : Packet :=
  { mkPacket s pk.src.toNat pk.ctx.toNat pk.epoch.toNat pk.cls.toNat Op.COMPLETION pk.tag.toNat addr 0 []
    with code := BitVec.ofNat 8 code, nack := BitVec.ofNat 4 nack }

/-- That COMPLETION sent. -/
def complete (pk : Packet) (code nack addr : Nat) (s : State) : State := (routeSend .answer (answerTo pk code nack addr s) s).1

/-- Checks 1 to 3 of R270 on a request that has arrived: the code it ends with, if one fails. -/
def State.destCheck (s : State) (ctx epoch : Nat) : Option Nat :=
  if !s.present ctx then some Code.REFUSED
  else if epoch ≠ s.epoch ctx then some Code.EPOCH_STALE
  else if s.on (Reg.TIDE_DSTATUS (s.ctxDomain ctx)) F.TIDE_DSTATUS_STALE then some Code.MODE_STALE
  else none

/-- A local access for a context: where it leads, or the refusal of R54, R479 or R221 with its entry. -/
def contextAccess (c : Nat) (t : Target) (addr n : Nat) (write : Bool) (s : State) : State × Bool :=
  match t with
  | .hbm a =>
    if !s.allowed c a n write then (windowFault c addr s, false)
    else if s.memRefuses then (s, false)
    else (noteWindows c a n write s, true)
  | .tile _ _ => (s, true)
  | _ => (addressFault c addr s, false)

/-- The local write of a packet that has passed R270 (R479, R244): its completion code. -/
def packetWrite (pk : Packet) (s : State) : State × Nat :=
  let n := pk.payload.length
  let t := localTarget pk.addr.toNat n
  let (s, ok) := contextAccess pk.ctx.toNat t pk.addr.toNat n true s
  if !ok then (s, Code.REFUSED)
  else writeMarked t pk.payload (if pk.poison then [(0, n)] else []) pk.hint.toNat pk.ctx.toNat pk.epoch.toNat s

/-- A WRITE or MCAST_WRITE that has arrived, checked and written: its completion code (R270). Check 4 posts nothing here:
its entry is the originator's. -/
def serveWrite (pk : Packet) (s : State) : State × Nat :=
  match s.destCheck pk.ctx.toNat pk.epoch.toNat with
  | some c => (s, c)
  | none =>
    if localTarget pk.addr.toNat pk.payload.length = .bad then (s, Code.REFUSED) else packetWrite pk s

/-! ### Ports that leave service (R264, R279, R280, R556) -/

/-- A packet of a port out of service goes through the route table again (R279). Its HOPS already counts the link it leaves on.
Multicast packets follow their tree, not the route table: an MCAST_WRITE has counted as TIMEOUT, and an MCAST_ACK has no other
port (R275, R282). An own request without a route is remembered for its completion. -/
def resend (pk : Packet) (s : State) : State :=
  if pk.op.toNat = Op.MCAST_WRITE then s
  else if pk.op.toNat = Op.MCAST_ACK then (noRoute .answer pk s).1
  else
    let via := if pk.src.toNat ≠ s.deviceId then Via.transit
      else if pk.op.toNat = Op.LINK_QUERY then .query else if isRequest pk then .request else .answer
    let (s, ok) := routeSend via { pk with hops := pk.hops - 1 } s
    if ok then s else { s with dropped := s.dropped ++ [(pk.tag.toNat, Code.REFUSED)] }

/-- The settlement of a port is over: what it must resend goes first, then what waited behind. -/
def endSettle (p : Nat) (again : List Packet) (s : State) : State :=
  let x := s.port p
  forEach (again ++ x.behind) resend (setPort p { x with settling := none, doubtful := [], behind := [] } s)

/-- No answer to the LINK_QUERY: the packets in doubt are discarded and counted (R556). -/
def giveUpSettle (p : Nat) (s : State) : State :=
  endSettle p [] (bumpBy Reg.FAB_LINKLOSS_DROPS (s.port p).doubtful.length s)

/-- Whether sequence number `b` comes after `a`, of two numbers at most 32,767 apart. -/
def seqAfter (a b : Nat) : Bool := decide (0 < (b + 65536 - a) % 65536 ∧ (b + 65536 - a) % 65536 < 32768)

/-- The peer has accepted everything up to these SEQs of the two link sequences: only the packets after them are resent (R556). -/
def settleUpTo (p data ctl : Nat) (s : State) : State :=
  endSettle p ((s.port p).doubtful.filter fun q => seqAfter (if onCtl q then ctl else data) q.seq.toNat) s

/-! ### Group reports (R282) -/

/-- A member's report up the tree. -/
def mcastReport (m : McastState) (s : State) : State :=
  let up := s.fld (Reg.FAB_MC m.group) F.FAB_MC_UP_PORT
  let pk := mkPacket s m.src m.ctx m.epoch Cls.DATA Op.MCAST_ACK m.tag 0 0 []
  let pk := { pk with group := BitVec.ofNat 12 m.group, code := BitVec.ofNat 8 m.code, hops := 1 }
  if s.fatal then s else if !s.usable up then (noRoute .answer pk s).1 else egress up pk s

/-- A multicast packet whose report has changed: once its local write is complete and every DOWN port has reported, the report goes up,
or at the root the request ends (R282). -/
def mcastNote (m : McastState) (s : State) : State :=
  if m.waits = [] ∧ m.op = none then
    (if m.root then { s with dropped := s.dropped ++ [(m.tag, m.code)] } else mcastReport m s)
  else { s with mcasts := s.mcasts ++ [m] }

/-- A port is not usable any more: it counts as TIMEOUT in the reports that wait for it (R282). -/
def mcastLose (p : Nat) (s : State) : State :=
  let (lost, rest) := s.mcasts.partition (·.waits.contains p)
  forEach lost (fun m => mcastNote { m with waits := m.waits.erase p, code := Code.worse m.code Code.TIMEOUT }) { s with mcasts := rest }

/-- Port `p` leaves UP or DEGRADED for state `st` (R279, R556): its unacknowledged packets are settled by a LINK_QUERY to
the peer, those not yet sent go through the route table again, its short frames are lost, and FAB_LINK_DOWN is posted. -/
def leaveService (p st : Nat) (exhausted : Bool) (s : State) : State :=
  let was := s.usable p
  let s := put (Reg.FAB_P_STATUS p) F.FAB_P_STATUS_LANES 0 (setPortSt p st s)
  if !was then s
  else
    let x := s.port p
    let packet (w : Packet ⊕ Frame) : Option Packet := match w with | .inl pk => some pk | .inr _ => none
    let doubt := (x.data.replay ++ x.ctl.replay).filterMap fun e => packet e.2
    let loose := x.queued ++ x.delayed.filterMap fun e => packet e.2.2
    let clear (l : LinkSeq) : LinkSeq := { l with replay := [] }
    let s := setPort p { x with data := clear x.data, ctl := clear x.ctl, queued := [], delayed := [], doubtful := doubt, behind := loose } s
    let s := if doubt = [] then endSettle p [] s
      else
        let dev := s.fld (Reg.FAB_P_STATUS p) F.FAB_P_STATUS_PEER_DEVICE
        let (s, t) := openReq dev 4096 0 0 0 (.query p) s
        let pk := mkPacket s dev 0 0 Cls.CONTROL Op.LINK_QUERY t (s.fld (Reg.FAB_P_STATUS p) F.FAB_P_STATUS_PEER_PORT) 0 []
        let (s, ok) := routeSend .query pk s
        let s := setPort p { s.port p with settling := some t } s
        if ok then s else giveUpSettle p (closeReq t s)
    postCorrected 0x0052 .fab none none (p + if exhausted then 256 else 0) (mcastLose p s)

/-! ### Receiving -/

/-- Something arrives in a link sequence of port `p` with this SEQ, its CRC good or not (R268, R278). A port that is out of service or has
answered a LINK_QUERY accepts nothing (R556). A failed CRC is counted and answered with a NAK of the first SEQ expected, and so is the
first item after a gap; everything is then discarded until that SEQ comes. Answers whether the item is accepted. -/
def takeSeq (p : Nat) (ctl : Bool) (seq : Nat) (ok : Bool) (s : State) : State × Bool :=
  let l := (s.port p).lane ctl
  let want := (l.rx + 1) % 65536
  let ask (s : State) : State := linkFrame p (.nak ctl want) (setLane p ctl (fun l => { l with asked := true }) s)
  if !s.usable p || (s.port p).closed then (s, false)
  else if !ok then (ask (bump (Reg.FAB_P_CRC_ERRORS p) s), false)
  else if seq ≠ want then (if l.asked then s else ask s, false)
  else (linkFrame p (.linkAck ctl seq) (setLane p ctl (fun l => { l with rx := seq, asked := false }) s), true)

/-- A packet arrives on port `p`: it is checked with this device's own identity (R268), taken in its order (R278), and an accepted one is
counted, acknowledged, and its class credit returned. -/
def arrive (p : Nat) (pk : Packet) (s : State) : State × Bool :=
  let (s, ok) := takeSeq p (onCtl pk) pk.seq.toNat (pk.crc == packetCrc s.deviceId p pk) s
  (when ok (fun s => frameOut p (.classCredit pk.cls.toNat) (bump (Reg.FAB_P_RX_PKTS p) s)) s, ok)

/-- A short frame arrives: what it does, where it is accepted (R273). -/
def takeFrame (h : Hop) (f : State → State) (s : State) : State :=
  let (s, ok) := takeSeq h.port.val true h.seq.toNat h.ok s
  when ok f s

/-- A short frame from a unit of this device, or from a port. -/
def takeFrom (h : Option Hop) (f : State → State) (s : State) : State :=
  match h with
  | some h => takeFrame h f s
  | none => f s

/-- A packet of a given operation for this device: discarded on its link, turned away by R269 (`reserved`), or served. -/
def receive (p : Nat) (pk : Packet) (op : Nat) (reserved serve : State → State) (s : State) : State :=
  let (s, ok) := arrive p pk s
  if !ok || pk.dest.toNat ≠ s.deviceId then s
  else settle (if !packetOk pk || pk.op.toNat ≠ op then reserved (packetReserved pk s) else serve s)

/-- A request that R269 turns away is answered REFUSED. -/
def refusePacket (pk : Packet) (s : State) : State := when (isRequest pk) (complete pk Code.REFUSED 0 0) s

/-- WRITE (R269, R270): the write is checked and written, and answered once it is complete (R271, R235). -/
def execWrite (p : Fin 32) (pk : Packet) (s : State) : Outcome State Fault Refusal :=
  .next (receive p.val pk Op.WRITE (refusePacket pk) (fun s =>
    let (s, c, op) := asOp (serveWrite pk) s
    match op with
    | some id => waitFor id none c (.write pk) s
    | none => complete pk c 0 0 s) s)

/-- The answer to a READ_REQ (R270): a refusal, or the data; poisoned data travels with POISON (R244). -/
def serveRead (pk : Packet) (s : State) : State × Packet :=
  let n := pk.len.toNat + 1
  let t := localTarget pk.addr.toNat n
  let refuse (c : Nat) (s : State) : State × Packet := (s, answerTo pk c 0 0 s)
  match s.destCheck pk.ctx.toNat pk.epoch.toNat with
  | some c => refuse c s
  | none =>
    if t = .bad then refuse Code.REFUSED s
    else
      let (s, ok) := contextAccess pk.ctx.toNat t pk.addr.toNat n false s
      if !ok then refuse Code.REFUSED s
      else
        let (s, data, marks) := readMarked t n pk.hint.toNat s
        (s, { mkPacket s pk.src.toNat pk.ctx.toNat pk.epoch.toNat Cls.DATA Op.READ_RESP pk.tag.toNat 0 (n - 1) data
          with poison := !marks.isEmpty })

/-- READ_REQ (R269, R270): the read is checked, served and answered; the answer waits while the pair is being cleared (R50). -/
def execReadReq (p : Fin 32) (pk : Packet) (s : State) : Outcome State Fault Refusal :=
  .next (receive p.val pk Op.READ_REQ (refusePacket pk) (fun s =>
    let (s, resp) := serveRead pk s
    if resp.op.toNat = Op.READ_RESP && s.targetClears (localTarget pk.addr.toNat (pk.len.toNat + 1)) then
      waitRead pk.addr.toNat (.read resp) s
    else (routeSend .answer resp s).1) s)

/-- TRANSIT (R269, R274 to R277): a packet for another device is routed onward. -/
def execTransit (p : Fin 32) (pk : Packet) (s : State) : Outcome State Fault Refusal :=
  let (s, ok) := arrive p.val pk s
  if !ok || pk.dest.toNat = s.deviceId then .next s
  else if !packetOk pk then .next (settle (refusePacket pk (packetReserved pk s)))
  else .next (settle (routeSend .transit pk (bump Reg.FAB_TRANSIT s)).1)

/-- LINK_QUERY (R556): the SEQ of the last packet that the named port accepted in order, in ADDR[15:0], and that of its control
sequence in ADDR[31:16] (DESIGN CHOICE, log 56); the port accepts nothing further until it next completes training. -/
def execLinkQuery (p : Fin 32) (pk : Packet) (s : State) : Outcome State Fault Refusal :=
  let q := pk.addr.toNat % 32
  .next (receive p.val pk Op.LINK_QUERY (refusePacket pk) (fun s =>
    let x := s.port q
    complete pk Code.DONE 0 (x.data.rx + 65536 * x.ctl.rx) (setPort q { x with closed := true } s)) s)

/-- LINK_ACK (R278): what was sent up to a SEQ leaves the replay buffer, and what waited for room follows. A frame whose CRC fails is
discarded. -/
def execLinkAck (p : Fin 32) (ok ctl : Bool) (seq : BitVec 16) (s : State) : Outcome State Fault Refusal :=
  if !ok then .next (bump (Reg.FAB_P_CRC_ERRORS p.val) s)
  else match ((s.port p.val).lane ctl).replay.findIdx? (·.1 = seq.toNat) with
    | some i => .next (pump p.val (setLane p.val ctl (fun l => { l with replay := l.replay.drop (i + 1), attempts := 0 }) s))
    | none => .next s

/-- CLASS_CREDIT (R277): the class may send again. -/
def execClassCredit (h : Hop) (cls : BitVec 2) (s : State) : Outcome State Fault Refusal :=
  let p := h.port.val
  let c := cls.toNat
  .next (takeFrame h (fun s =>
    let x := s.port p
    pump p (setPort p { x with credits := x.credits.set c (x.credits.getD c 0 + 1) } s)) s)

/-- NAK (R278, R279): the port resends from the named SEQ; the sixteenth failure of one item in a row exhausts retry. -/
def nakAt (p : Nat) (ctl : Bool) (seq : Nat) (s : State) : State :=
  let l := (s.port p).lane ctl
  match l.replay.findIdx? (·.1 = seq) with
  | none => s
  | some i =>
    let n := if l.nakSeq = seq ∧ l.attempts ≠ 0 then l.attempts + 1 else 1
    if 16 ≤ n then
      leaveService p PortSt.DOWN true (raise (Reg.FAB_P_STATUS p) F.FAB_P_STATUS_RETRY_EXHAUSTED s)
    else
      let again := l.replay.drop i
      let s := setLane p ctl (fun l => { l with nakSeq := seq, attempts := n }) s
      if s.fatal then s
      else forEach again (fun e => emit (match e.2 with | .inl pk => .packet p pk | .inr f => .frame p f))
        (bumpBy (Reg.FAB_P_RETRIES p) again.length s)

/-- PORT_RETRAIN (R264): an enabled DOWN port trains again; a training attempt still running has failed, silently. -/
def execPortRetrain (p : Fin 32) (s : State) : Outcome State Fault Refusal :=
  if !s.on (Reg.FAB_P_CTRL p.val) F.FAB_P_CTRL_ENABLE then .next s
  else if s.portSt p.val = PortSt.DOWN then .next (setPortSt p.val PortSt.TRAINING s)
  else if s.portSt p.val = PortSt.TRAINING then .next (setPortSt p.val PortSt.DOWN s)
  else .next s

/-- The lock margin that a ring shows once it has locked: at least 1, since 0 would mean unlocked (R280). -/
def ringLocked (p w margin : Nat) (s : State) : State :=
  let r := Reg.FAB_P_RING p w
  put r F.FAB_P_RING_MARGIN (max 1 margin) (put r F.FAB_P_RING_LOCKED 1 s)

/-- PORT_TRAINED (R264): every ring is locked, the identities are exchanged, the port is UP, and SEQ starts anew. -/
def execPortTrained (p : Fin 32) (peer : BitVec 13) (peerPort : Fin 32) (margins : List (BitVec 8)) (s : State) :
    Outcome State Fault Refusal :=
  let r := Reg.FAB_P_STATUS p.val
  if s.portSt p.val ≠ PortSt.TRAINING then .next s
  else
    let s := forEach (List.range 9) (fun w => ringLocked p.val w (margins.getD w 1).toNat) s
    let s := put r F.FAB_P_STATUS_PEER_DEVICE peer.toNat (put r F.FAB_P_STATUS_PEER_PORT peerPort.val s)
    let s := put r F.FAB_P_STATUS_LANES 0xFF (put r F.FAB_P_STATUS_CTRL_LOCK 1 s)
    let x := s.port p.val
    .next (setPortSt p.val PortSt.UP
      (setPort p.val { PortState.init with settling := x.settling, doubtful := x.doubtful, behind := x.behind, beenUp := true } s))

/-- A ring unlocks (R280, R264): the first data ring of an UP port leaves it DEGRADED; another, or the control ring, makes
the port DOWN. -/
def unlockRing (p w : Nat) (s : State) : State :=
  let r := Reg.FAB_P_STATUS p
  let ring := Reg.FAB_P_RING p w
  if !s.on ring F.FAB_P_RING_LOCKED then s
  else
    let up := s.portSt p
    let s := put ring F.FAB_P_RING_LOCKED 0 (put ring F.FAB_P_RING_MARGIN 0 s)
    let s := when (w = 8) (put r F.FAB_P_STATUS_CTRL_LOCK 0) s
    let s := when (w ≠ 8) (put r F.FAB_P_STATUS_LANES (s.fld r F.FAB_P_STATUS_LANES &&& (255 - 2 ^ w))) s
    if up = PortSt.UP ∧ w ≠ 8 then
      postCorrected 0x0053 .fab none none (p + 256 * w)
        (raise r F.FAB_P_STATUS_LOCK_LOST (setPortSt p PortSt.DEGRADED s))
    else if up = PortSt.UP ∨ up = PortSt.DEGRADED then
      leaveService p PortSt.DOWN false (raise r F.FAB_P_STATUS_LOCK_LOST s)
    else s

/-- RING_RELOCK (R280): the ring locks again; with all nine locked a DEGRADED port returns to UP. -/
def execRingRelock (p : Fin 32) (w : Fin 9) (margin : BitVec 8) (s : State) : Outcome State Fault Refusal :=
  let r := Reg.FAB_P_STATUS p.val
  let s := ringLocked p.val w.val margin.toNat s
  let s := when (w.val = 8) (put r F.FAB_P_STATUS_CTRL_LOCK 1) s
  let all := (List.range 9).all fun i => s.on (Reg.FAB_P_RING p.val i) F.FAB_P_RING_LOCKED
  if s.portSt p.val = PortSt.DEGRADED ∧ all then .next (setPortSt p.val PortSt.UP (put r F.FAB_P_STATUS_LANES 0xFF s))
  else .next s

/-- REORDER_RELEASE (R288): the packet held longest on the port is sent, its microsecond over. -/
def execReorderRelease (p : Fin 32) (s : State) : Outcome State Fault Refusal :=
  let x := s.port p.val
  match x.delayed with
  | [] => .next s
  | e :: rest =>
    let s := setPort p.val { x with delayed := rest } s
    if s.fatal then .next s
    else match e.2.2 with
      | .inl pk => .next (sendNow 32 p.val false pk s)
      | .inr f => .next (linkFrame p.val f s)

/-- A write to FAB_Pp_CTRL (R264, R279): setting ENABLE starts training; clearing it takes the port out of service. -/
def portCtrl (p : Nat) (v : Word) (s : State) : State :=
  let r := Reg.FAB_P_CTRL p
  let was := s.on r F.FAB_P_CTRL_ENABLE
  let s := genericWrite r v s
  let now := s.on r F.FAB_P_CTRL_ENABLE
  if !was && now then setPortSt p PortSt.TRAINING (setPort p { s.port p with beenUp := false } s)
  else if was && !now then leaveService p PortSt.DISABLED false s
  else s

/-- INJ_ACTION_WRITE (R288): ACTION 3 is reserved; DEPTH must be 1 to 15 for REORDER and 0 otherwise, judged against the
ACTION that the write leaves; TAKEN becomes zero. -/
def execInjActionWrite (k : Fin 32) (v : Word) (s : State) : Outcome State Fault Refusal :=
  let r := Reg.FAB_INJ_ACTION k.val
  let a := v.get F.FAB_INJ_ACTION_ACTION
  let action := if a = 3 then s.fld r F.FAB_INJ_ACTION_ACTION else a
  let d := v.get F.FAB_INJ_ACTION_DEPTH
  let okD := decide (if action = 2 then d ≠ 0 else d = 0)
  let s := put r F.FAB_INJ_ACTION_ACTION action s
  let s := when okD (put r F.FAB_INJ_ACTION_DEPTH d) s
  let s := put r F.FAB_INJ_ACTION_RATE (v.get F.FAB_INJ_ACTION_RATE) s
  let s := put r F.FAB_INJ_ACTION_LIMIT (v.get F.FAB_INJ_ACTION_LIMIT) s
  let s := put r F.FAB_INJ_ACTION_TAKEN 0 s
  .next (when (decide (a = 3) || !okD) (badWrite r) s)

/-! ### Multicast groups (R282) -/

/-- The ports of a mask, in ascending order. -/
def portsOf (mask : Nat) : List Nat := (List.range 32).filter fun p => bit mask p

/-- A group packet copied to the ports of DOWN and written where LOCAL is 1. Answers the ports that owe a report, the
worst code so far, and the number of a local write that waits; a port out of service counts as TIMEOUT. -/
def mcastSpread (g : Nat) (pk : Packet) (s : State) : State × List Nat × Nat × Option Nat :=
  let down := portsOf (s.fld (Reg.FAB_MC g) F.FAB_MC_DOWN)
  let live := down.filter s.usable
  let (s, c, op) := if s.on (Reg.FAB_MC g) F.FAB_MC_LOCAL then asOp (serveWrite pk) s else (s, Code.DONE, none)
  let s := match op with | some id => waitFor id none Code.DONE (.mcast id) s | none => s
  let code := if live.length < down.length then Code.worse c Code.TIMEOUT else c
  let s := if s.fatal then s
    else if s.fld Reg.FAB_CTRL F.FAB_CTRL_HOP_LIMIT < pk.hops.toNat + 1 then when (!live.isEmpty) (hopDrop pk) s
    else forEach live (fun p => egress p { pk with hops := pk.hops + 1 }) s
  (s, live, code, op)

/-- MCAST_WRITE (R282): accepted only on the entry's UP_PORT, copied down and written locally; the report goes up once the local write is
complete and every DOWN port has reported. -/
def execMcastWrite (p : Fin 32) (pk : Packet) (s : State) : Outcome State Fault Refusal :=
  let g := pk.group.toNat
  let mc := Reg.FAB_MC g
  let (s, ok) := arrive p.val pk s
  if !ok then .next s
  else if !packetOk pk || pk.op.toNat ≠ Op.MCAST_WRITE then .next (settle (packetReserved pk s))
  else if !s.on mc F.FAB_MC_VALID || s.on mc F.FAB_MC_ROOT || s.fld mc F.FAB_MC_UP_PORT ≠ p.val then
    .next (raise Reg.FAB_STATUS F.FAB_STATUS_MCAST_PORT s)
  else
    let (s, live, code, op) := mcastSpread g pk s
    .next (settle (mcastNote ⟨g, pk.tag.toNat, pk.src.toNat, pk.ctx.toNat, pk.epoch.toNat, live, code, false, op⟩ s))

/-! ### Rank maps (R283 to R286, R557) -/

/-- Whether the tide of domain `d` stands in IDLE or PAUSE. -/
def State.restful (s : State) (d : Nat) : Bool := s.phase d == Phase.IDLE || s.phase d == Phase.PAUSE

def State.rmap (s : State) (d sl : Nat) : RankMap := Store.lookup (fun _ => RankMap.init) s.rmaps (2 * d + sl)
def setRmap (d sl : Nat) (x : RankMap) (s : State) : State :=
  { s with rmaps := Store.update (fun _ => RankMap.init) s.rmaps (2 * d + sl) x }

/-- The slot that the phase code of domain `d` selects in PHASE_SLOT. -/
def State.phaseSlotBit (s : State) (d : Nat) : Nat :=
  if bit (s.fld (Reg.FAB_RMAP_CTRL d) F.FAB_RMAP_CTRL_PHASE_SLOT) (s.phase d) then 1 else 0

/-- The current slot of domain `d` (R285, R286). -/
def State.rankSlot (s : State) (d : Nat) : Nat :=
  if s.on (Reg.FAB_RMAP_CTRL d) F.FAB_RMAP_CTRL_PHASED then Store.lookup (fun _ => 0) s.phaseSlots d
  else s.fld (Reg.FAB_RMAP_CTRL d) F.FAB_RMAP_CTRL_CURRENT

/-- The phased slot follows PHASE_SLOT and the phase (R286): at step 1 of a change of PHASE. -/
def takePhaseSlot (d : Nat) (s : State) : State :=
  { s with phaseSlots := Store.update (fun _ => 0) s.phaseSlots d (s.phaseSlotBit d) }

/-- The device that rank `k` of domain `d` names, if the current map translates it (R284). -/
def State.rankDevice (s : State) (d k : Nat) : Option Nat :=
  let m := s.rmap d (s.rankSlot d)
  let e := m.entries.getD k 0
  if k < m.count ∧ bit e 15 then some (e % 8192) else none

/-- Translation of a rank for a context (R284): a failure sets RMAP_FAULT and posts RANK_FAULT. -/
def translateRank (d c k : Nat) (s : State) : State × Option Nat :=
  match s.rankDevice d k with
  | some dev => (s, some dev)
  | none => (postContained 0x0054 .fab c (k + 65536 * d) (raise Reg.FAB_STATUS F.FAB_STATUS_RMAP_FAULT s), none)

/-- The ranks that a device has in the current map of domain `d`, in ascending order. -/
def State.ranksOf (s : State) (d dev : Nat) : List Nat :=
  let m := s.rmap d (s.rankSlot d)
  (List.range m.count).filter fun k => bit (m.entries.getD k 0) 15 && m.entries.getD k 0 % 8192 == dev

/-- Reverse translation: the lowest matching rank, several setting MULTI_MATCH (R284, R7). -/
def rankOfDevice (d dev : Nat) (s : State) : State × Option Nat :=
  let ks := s.ranksOf d dev
  (when (decide (1 < ks.length)) (raise Reg.FAB_STATUS F.FAB_STATUS_MULTI_MATCH) s, ks.head?)

/-- LOADING of a domain shows whether a slot copy is in progress. -/
def showLoading (d : Nat) (s : State) : State :=
  putB (Reg.FAB_RMAP_CTRL d) F.FAB_RMAP_CTRL_LOADING ((s.rmap d 0).loading || (s.rmap d 1).loading) s

/-- RMAP_SLOT_WRITE (R283). -/
def execRmapSlotWrite (d : Fin 16) (sl : Fin 2) (v : Word) (s : State) : Outcome State Fault Refusal :=
  let r := Reg.FAB_RMAP_SLOT d.val sl.val
  let inUse := s.rankSlot d.val == sl.val || s.on (Reg.FAB_RMAP_CTRL d.val) F.FAB_RMAP_CTRL_PHASED
  let base := v.get F.FAB_RMAP_SLOT_BASE
  if (inUse && !s.restful d.val) || decide (hbmEnd ≤ base) || decide (base % 64 ≠ 0) then .next (badWrite r s)
  else
    let s := genericWrite r v s
    .next (showLoading d.val (setRmap d.val sl.val { s.rmap d.val sl.val with loading := true } s))

/-- RMAP_LOAD_DONE (R283), with R54 and R50: the table and COUNT replace the old ones at once; a poisoned line, or a table that memory cannot
give, leaves COUNT 0 and sets RMAP_FAULT. -/
def execRmapLoadDone (d : Fin 16) (sl : Fin 2) (s : State) : Outcome State Fault Refusal :=
  let r := Reg.FAB_RMAP_SLOT d.val sl.val
  if !(s.rmap d.val sl.val).loading then .next s
  else
    let n := s.fld r F.FAB_RMAP_SLOT_COUNT
    let base := s.fld r F.FAB_RMAP_SLOT_BASE
    let fail (s : State) : State :=
      raise Reg.FAB_STATUS F.FAB_STATUS_RMAP_FAULT (put r F.FAB_RMAP_SLOT_COUNT 0 (setRmap d.val sl.val RankMap.init s))
    if s.rangeClears base (2 * n) then .next s
    else if decide (hbmEnd < base + 2 * n) then .next (settle (showLoading d.val (fail (addressFault 4096 base s))))
    else if s.memRefuses then .next (showLoading d.val (fail s))
    else
      let (s, data, bad) := hbmRead base (2 * n) 0 s
      match bad with
      | some _ => .next (settle (showLoading d.val (fail s)))
      | none =>
        .next (settle (showLoading d.val
          (setRmap d.val sl.val ⟨n, (List.range n).map fun i => field data (2 * i) 2, false⟩ s)))

/-- RMAP_CTRL_WRITE (R557, R285, R286): PHASED and CURRENT change only in IDLE or PAUSE; a domain that enters phased mode
uses the slot of its phase. -/
def execRmapCtrlWrite (d : Fin 16) (v : Word) (s : State) : Outcome State Fault Refusal :=
  let r := Reg.FAB_RMAP_CTRL d.val
  let was := s.on r F.FAB_RMAP_CTRL_PHASED
  let locked (f : Fld) : Bool := !s.restful d.val && decide (v.get f ≠ s.fld r f)
  let bad := locked F.FAB_RMAP_CTRL_PHASED || locked F.FAB_RMAP_CTRL_CURRENT
  let v := if locked F.FAB_RMAP_CTRL_PHASED then keepFld r F.FAB_RMAP_CTRL_PHASED v s else v
  let v := if locked F.FAB_RMAP_CTRL_CURRENT then keepFld r F.FAB_RMAP_CTRL_CURRENT v s else v
  let s := when bad (badWrite r) (genericWrite r v s)
  .next (when (!was && s.on r F.FAB_RMAP_CTRL_PHASED) (takePhaseSlot d.val) s)

end Sys2Proof.Machine
end

