-- ==== Sys2Proof/Machine/Fingerprint.lean ====
section
/-! DEFINITION. Fingerprint items (R437, R439, R440): the hook that the writes of streams, reductions and updates go through. -/
namespace Sys2Proof.Machine

def State.replay (s : State) (d : Nat) : ReplayDom := Store.lookup (fun _ => ReplayDom.init) s.replays d
def setReplay (d : Nat) (x : ReplayDom) (s : State) : State :=
  { s with replays := Store.update (fun _ => ReplayDom.init) s.replays d x }

/-- The base of the record of step `n` of domain `d` (R437). -/
def State.recordBase (s : State) (d n : Nat) : Nat :=
  s.fld (Reg.RPL_D_RING d) F.RPL_D_RING_BASE + n % 2 ^ s.fld (Reg.RPL_D_RING d) F.RPL_D_RING_SIZE * 0x40000

/-- `n` bytes of HBM as a unit of the device reads them now, without effects on the cache. -/
def State.hbmPeek (s : State) (a n : Nat) : List Byte := (List.range n).map fun i => s.hbmByte (a + i)

/-- `n` bytes of a table in HBM as the unit that looks something up in it finds them: nothing valid where memory refuses (R221) or the
place lies outside HBM (R54). -/
def State.tableBytes (s : State) (a n : Nat) : List Byte :=
  if s.memRefuses || decide (hbmEnd < a + n) then List.replicate n 0 else s.hbmPeek a n

/-- A write to HBM by a unit of the device on no context's behalf, unless memory refuses it; one that leaves HBM is refused (R54). -/
def unitWrite (a : Nat) (data : List Byte) (s : State) : State :=
  if hbmEnd < a + data.length then addressFault 4096 a s else (hbmWrite false a data 0 4096 0 s).1

/-- A 64-bit word of HBM exclusive-ored with `v`. -/
def xorWord (a v : Nat) (s : State) : State := unitWrite a (bytesOf 8 (ofBytes (s.hbmPeek a 8) ^^^ v)) s

/-- A write by context `c` of `data` at local address `a` is an item of its domain's record when its first byte lies in a
window of the context: its CRC-64 is exclusive-ored into the window's word, and ITEMS counts it (R439, R440). -/
def fingerprint (c a : Nat) (data : List Byte) (s : State) : State :=
  let d := s.ctxDomain c
  let x := s.replay d
  if !x.recording then s
  else match x.windows.filter fun w => w.ctx = c ∧ w.lo ≤ a ∧ a ≤ w.hi with
    | [] => s
    | w :: rest =>
      let s := when (!rest.isEmpty) (raise Reg.RPL_STATUS F.RPL_STATUS_MULTI_MATCH) s
      let base := s.recordBase d (tideStep (s.tide d))
      let s := xorWord (base + 0x4000 + 32 * w.layer + 8 * w.field) (crc64 (bytesOf 8 a ++ data)) s
      let items := base + 24
      bump Reg.RPL_ITEMS (unitWrite items (bytesOf 8 (ofBytes (s.hbmPeek items 8) + 1)) s)

end Sys2Proof.Machine
end

