-- ==== Sys2Proof/Machine/Operands.lean ====
section
/-! DEFINITION. The operand formats and their arithmetic (R28, R149 to R157, R172 to R175, R183 to R190): exact values, decoding,
rounding and encoding of every format, MX blocks, and the Philox generator (R137). -/
namespace Sys2Proof.Machine

/-! ### Exact values -/

/-- What an operand denotes: NaN, a signed infinity, or a signed exact number m x 2^e. -/
inductive Val where
  | nan
  | inf (neg : Bool)
  | fin (neg : Bool) (m : Nat) (e : Int)
  deriving DecidableEq, Repr

namespace Val
def zero : Val := .fin false 0 0
def isNan : Val → Bool
  | .nan => true
  | _ => false
def isInf : Val → Bool
  | .inf _ => true
  | _ => false
def finite : Val → Bool
  | .fin _ _ _ => true
  | _ => false
def neg : Val → Val
  | .nan => .nan
  | .inf n => .inf (!n)
  | .fin n m e => .fin (!n) m e
end Val

/-- The integer that a signed number is in units of 2^u, for u at most its exponent. -/
def scaled (n : Bool) (m : Nat) (e u : Int) : Int :=
  let k : Int := (m * 2 ^ (e - u).toNat : Nat)
  if n then -k else k

/-- A signed integer in units of 2^u, as an exact value; an exact zero is positive. -/
def ofScaled (k : Int) (u : Int) : Val := .fin (k < 0) k.natAbs u

/-- The exact sum (R157, R184): opposite infinities give NaN; only two negative zeros give -0. -/
def Val.add (a b : Val) : Val :=
  match a, b with
  | .nan, _ => .nan
  | _, .nan => .nan
  | .inf x, .inf y => if x = y then .inf x else .nan
  | .inf x, _ => .inf x
  | _, .inf y => .inf y
  | .fin nx mx ex, .fin ny my ey =>
    if mx = 0 ∧ my = 0 then .fin (nx && ny) 0 0
    else if mx = 0 then .fin ny my ey
    else if my = 0 then .fin nx mx ex
    else
      let u := min ex ey
      ofScaled (scaled nx mx ex u + scaled ny my ey u) u

/-- The exact product (R157): an infinity times zero is NaN. -/
def Val.mul (a b : Val) : Val :=
  match a, b with
  | .nan, _ => .nan
  | _, .nan => .nan
  | .inf x, .inf y => .inf (xor x y)
  | .inf x, .fin y m _ => if m = 0 then .nan else .inf (xor x y)
  | .fin x m _, .inf y => if m = 0 then .nan else .inf (xor x y)
  | .fin x m e, .fin y n f => .fin (xor x y) (m * n) (e + f)

/-- The exact value times a power of two. -/
def Val.scale (a : Val) (k : Int) : Val :=
  match a with
  | .fin n m e => .fin n m (e + k)
  | a => a

/-- Order of two numbers that are not NaN: less, equal or greater; -0 and +0 are equal. -/
def Val.cmp (a b : Val) : Ordering :=
  match a, b with
  | .inf x, .inf y => if x = y then .eq else if x then .lt else .gt
  | .inf x, _ => if x then .lt else .gt
  | _, .inf y => if y then .gt else .lt
  | .fin nx mx ex, .fin ny my ey =>
    let u := min ex ey
    compare (scaled nx mx ex u) (scaled ny my ey u)
  | _, _ => .eq

/-- Whether a value is negative or -0. -/
def Val.sign : Val → Bool
  | .nan => false
  | .inf n => n
  | .fin n _ _ => n

/-- floor(log2 |a|) of a nonzero number. -/
def Val.log2 : Val → Int
  | .fin _ m e => (Nat.log2 m : Int) + e
  | _ => 0

/-- Whether the magnitude of `a` is less than that of `b`, for finite values. -/
def Val.absLt (a b : Val) : Bool :=
  match a, b with
  | .fin _ m e, .fin _ n f => decide (scaled false m e (min e f) < scaled false n f (min e f))
  | _, _ => false

/-! ### Rounding (R173) -/

namespace Rnd
def NEAREST : Nat := 0
def ZERO : Nat := 1
def STOCHASTIC : Nat := 2
def SATURATE : Nat := 3
end Rnd

/-- A magnitude m x 2^e in whole units of 2^sp, rounded by mode, with the 32-bit draw `w` for mode 2. -/
def roundUnits (mode w : Nat) (m : Nat) (e sp : Int) : Nat :=
  if sp ≤ e then m * 2 ^ (e - sp).toNat
  else
    let k := (sp - e).toNat
    let q := m / 2 ^ k
    let r := m % 2 ^ k
    let up : Bool :=
      if mode = Rnd.ZERO then false
      else if mode = Rnd.STOCHASTIC then decide (2 ^ 32 * 2 ^ k ≤ r * 2 ^ 32 + w * 2 ^ k)
      else decide (2 ^ k < 2 * r) || (decide (2 * r = 2 ^ k) && q % 2 == 1)
    if up then q + 1 else q

/-- What an encoding reports: the code, whether it was clamped or saturated, whether a NaN or infinity was written. -/
structure Enc where
  code : Nat
  sat : Bool
  nf : Bool
  deriving DecidableEq, Repr

/-! ### Floating formats (the element bit layouts of chapter 04) -/

/-- A floating format: mantissa bits, bias, the code of the largest finite value, of infinity and of the canonical NaN
where it has them, and the position of its sign. -/
structure FloatFmt where
  man : Nat
  bias : Int
  top : Nat
  inf : Option Nat
  nan : Option Nat
  sign : Nat
  deriving DecidableEq, Repr

def fp32 : FloatFmt := ⟨23, 127, 0x7F7FFFFF, some 0x7F800000, some 0x7FC00000, 31⟩
def bf16 : FloatFmt := ⟨7, 127, 0x7F7F, some 0x7F80, some 0x7FC0, 15⟩
def fp16 : FloatFmt := ⟨10, 15, 0x7BFF, some 0x7C00, some 0x7E00, 15⟩
def e4m3 : FloatFmt := ⟨3, 7, 0x7E, none, some 0x7F, 7⟩
def e5m2 : FloatFmt := ⟨2, 15, 0x7B, some 0x7C, some 0x7E, 7⟩
def e3m2 : FloatFmt := ⟨2, 3, 0x1F, none, none, 5⟩
def e2m3 : FloatFmt := ⟨3, 1, 0x1F, none, none, 5⟩
def e2m1 : FloatFmt := ⟨1, 1, 0x7, none, none, 3⟩

/-- What a code of a floating format denotes; subnormals at full value (R153). -/
def FloatFmt.decode (f : FloatFmt) (c : Nat) : Val :=
  let neg := bit c f.sign
  let mag := c % 2 ^ f.sign
  let ex := mag / 2 ^ f.man
  let fr := mag % 2 ^ f.man
  if f.inf = some mag then .inf neg
  else if f.top < mag then .nan
  else if ex = 0 then .fin neg fr (1 - f.bias - f.man)
  else .fin neg (2 ^ f.man + fr) (ex - f.bias - f.man)

/-- The spacing exponent of a format in the binade of a magnitude (R173). -/
def FloatFmt.spacing (f : FloatFmt) (m : Nat) (e : Int) : Int := max ((Nat.log2 m : Int) + e) (1 - f.bias) - f.man

/-- The magnitude code of a nonzero number rounded to a format, which may lie beyond its largest finite code. -/
def FloatFmt.round (f : FloatFmt) (mode w m : Nat) (e : Int) : Nat :=
  let sp := f.spacing m e
  (sp - (1 - f.bias - f.man)).toNat * 2 ^ f.man + roundUnits mode w m e sp

/-- A sign placed on a magnitude code. -/
def FloatFmt.signed (f : FloatFmt) (neg : Bool) (mag : Nat) : Nat := if neg then 2 ^ f.sign + mag else mag

/-- A value encoded into a plain floating format (R173, R175). -/
def FloatFmt.encode (f : FloatFmt) (mode w : Nat) (v : Val) : Enc :=
  let largest (n : Bool) : Enc := ⟨f.signed n f.top, true, false⟩
  let beyond (n : Bool) : Enc := match f.inf with
    | some i => ⟨f.signed n i, false, true⟩
    | none => ⟨f.nan.getD 0, false, true⟩
  match v with
  | .nan => ⟨f.nan.getD 0, false, true⟩
  | .inf n => if mode = Rnd.SATURATE then largest n else beyond n
  | .fin n m e =>
    if m = 0 then ⟨f.signed n 0, false, false⟩
    else
      let mag := f.round mode w m e
      if mag ≤ f.top then ⟨f.signed n mag, false, false⟩
      else if mode = Rnd.ZERO ∨ mode = Rnd.SATURATE then largest n
      else beyond n

/-- A value rounded once to FP32 with round-to-nearest-even, as a 32-bit pattern. -/
def toFp32 (v : Val) : Nat := (fp32.encode Rnd.NEAREST 0 v).code

/-- What a 32-bit pattern denotes as FP32. -/
def ofFp32 (c : Nat) : Val := fp32.decode c

/-! ### Integers -/

/-- A value rounded to an integer by mode and saturated to [lo, hi] (R190); NaN gives 0. -/
def toInt (mode w : Nat) (lo hi : Int) (v : Val) : Int × Bool :=
  match v with
  | .nan => (0, false)
  | .inf n => (if n then lo else hi, true)
  | .fin n m e =>
    let q : Int := roundUnits mode w m e 0
    let k := if n then -q else q
    if k < lo then (lo, true) else if hi < k then (hi, true) else (k, false)

/-- An integer as an exact value. -/
def ofInt (k : Int) : Val := ofScaled k 0

/-! ### Format codes (R28) -/

/-- The floating format of a plain format code. -/
def plainFmt (c : Nat) : Option FloatFmt :=
  match c with
  | 0 => some fp32 | 1 => some bf16 | 2 => some fp16 | 3 => some e4m3 | 4 => some e5m2 | _ => none

/-- The floating format of an MX code's elements; MXINT8 has none. -/
def mxFmt (c : Nat) : Option FloatFmt :=
  match c with
  | 5 => some e4m3 | 6 => some e5m2 | 7 => some e3m2 | 8 => some e2m3 | 9 => some e2m1 | _ => none

/-- Whether a format code is an MX code. -/
def isMx (c : Nat) : Bool := decide (5 ≤ c ∧ c ≤ 10)

/-- Bits of one element. -/
def elemBits (c : Nat) : Nat :=
  match c with
  | 0 => 32 | 12 => 32 | 1 => 16 | 2 => 16 | 7 => 6 | 8 => 6 | 9 => 4 | _ => 8

/-- Bytes of one MX block (R28). -/
def blockBytes (c : Nat) : Nat := 1 + 4 * elemBits c

/-- Bytes of `k` elements of a format packed from one address (R149). -/
def pitch (c k : Nat) : Nat := if isMx c then ceilDiv k 32 * blockBytes c else k * (elemBits c / 8)

/-- The largest exponent of an MX element format (R172). -/
def emax (c : Nat) : Int :=
  match c with
  | 5 => 8 | 6 => 15 | 7 => 4 | 8 => 2 | 9 => 2 | _ => 0

/-- What a plain element's bits denote; INT8 and INT32 are integers. -/
def decodePlain (c bits : Nat) : Val :=
  match plainFmt c with
  | some f => f.decode bits
  | none => if c = 12 then ofInt (signed 32 bits) else ofInt (signed 8 bits)

/-- What an MX element denotes under a scale (R153). -/
def decodeMx (c scale bits : Nat) : Val :=
  if scale = 0xFF then .nan
  else match mxFmt c with
    | some f => (f.decode bits).scale ((scale : Int) - 127)
    | none => (ofInt (signed 8 bits)).scale ((scale : Int) - 133)

/-- The element codes of a block (R150). -/
def blockCodes (c : Nat) (b : List Byte) : List Nat :=
  let raw := ofBytes (b.drop 1)
  (List.range 32).map fun e => (raw >>> (elemBits c * e)) % 2 ^ elemBits c

/-- What the 32 elements of a block denote. -/
def decodeBlock (c : Nat) (b : List Byte) : List Val :=
  (blockCodes c b).map (decodeMx c (field b 0 1))

/-- The bytes of a block from its scale and codes. -/
def blockOf (c scale : Nat) (codes : List Nat) : List Byte :=
  let raw := codes.foldr (fun x acc => x + 2 ^ elemBits c * acc) 0
  bytesOf 1 scale ++ bytesOf (4 * elemBits c) raw

/-- The FP32 largest finite value. -/
def fp32Largest : Val := ofFp32 0x7F7FFFFF

/-- One element of an MX block under scale exponent `x` (R172): clamped at the ends of its format's range. -/
def encodeMx (c : Nat) (x : Int) (mode w : Nat) (v : Val) : Enc :=
  match mxFmt c with
  | some f =>
    (match v with
      | .fin n m e =>
        if m = 0 then ⟨f.signed n 0, false, false⟩
        else
          let mag := f.round mode w m (e - x)
          if mag ≤ f.top then ⟨f.signed n mag, false, false⟩ else ⟨f.signed n f.top, true, false⟩
      | .inf n => ⟨f.signed n f.top, true, false⟩
      | .nan => ⟨0, false, true⟩)
  | none =>
    let (k, sat) := toInt mode w (-128) 127 (v.scale (6 - x))
    ⟨(k % 256).toNat, sat, false⟩

/-- A block of real elements encoded (R172, R175): its bytes, how many elements were clamped, and whether it is written
with scale 0xFF. `draws` holds the words of mode 2. -/
def encodeBlock (c mode : Nat) (draws : List Nat) (vs : List Val) : List Byte × Nat × Bool :=
  if vs.any Val.isNan || (vs.any Val.isInf && mode != Rnd.SATURATE) then (blockOf c 0xFF (List.replicate 32 0), 0, true)
  else
    let mags := vs.map fun v => if v.isInf then fp32Largest else v
    let amax := mags.foldl (fun a v => if a.absLt v then v else a) Val.zero
    let x : Int := match amax with
      | .fin _ m _ => if m = 0 then -127 else max (-127) (min 127 (amax.log2 - emax c))
      | _ => -127
    let es := vs.zipIdx.map fun (v, i) => encodeMx c x mode (draws.getD i 0) v
    let codes := (es.map (·.code)) ++ List.replicate (32 - vs.length) 0
    (blockOf c (x + 127).toNat codes, (es.filter (·.sat)).length, false)

/-- A value encoded into a plain format code (R175, R190); INT8 and INT32 saturate. -/
def encodePlain (c mode w : Nat) (v : Val) : Enc :=
  match plainFmt c with
  | some f => f.encode mode w v
  | none =>
    if c = 12 then let (k, s) := toInt mode w (-2147483648) 2147483647 v; ⟨(k % 2 ^ 32).toNat, s, false⟩
    else let (k, s) := toInt mode w (-128) 127 v; ⟨(k % 256).toNat, s, false⟩

/-! ### Philox-4x32-10 (R137) -/

/-- One round on (c0, c1, c2, c3) with key (k0, k1). -/
def philoxRound (k0 k1 : Nat) (c : List Nat) : List Nat :=
  match c with
  | [c0, c1, c2, c3] =>
    let p0 := 0xD2511F53 * c0
    let p1 := 0xCD9E8D57 * c2
    [(p1 / 2 ^ 32) ^^^ c1 ^^^ k0, p1 % 2 ^ 32, (p0 / 2 ^ 32) ^^^ c3 ^^^ k1, p0 % 2 ^ 32]
  | c => c

/-- Ten rounds; the key is raised before each round but the first. -/
def philoxRounds : Nat → Nat → Nat → List Nat → List Nat
  | 0, _, _, c => c
  | n + 1, k0, k1, c => philoxRounds n ((k0 + 0x9E3779B9) % 2 ^ 32) ((k1 + 0xBB67AE85) % 2 ^ 32) (philoxRound k0 k1 c)

/-- The four words of a call with a 64-bit key and a 128-bit counter. -/
def philox (key ctr : Nat) : List Nat :=
  philoxRounds 10 (key % 2 ^ 32) (key / 2 ^ 32 % 2 ^ 32)
    [ctr % 2 ^ 32, ctr / 2 ^ 32 % 2 ^ 32, ctr / 2 ^ 64 % 2 ^ 32, ctr / 2 ^ 96 % 2 ^ 32]

/-- Word `i` of the draws that start at counter `ctr`: word i mod 4 of call ctr + i div 4. -/
def philoxWord (key ctr i : Nat) : Nat := (philox key ((ctr + i / 4) % 2 ^ 128)).getD (i % 4) 0

end Sys2Proof.Machine
end

