-- ==== Sys2Proof/Machine/Special.lean ====
section
/-! DEFINITION. The functions that the spec gives by a bound (R192, R198): each is computed in fixed point far beyond FP32, and
the value answered is one of those within the bound, picked by an opaque function of the operands (R186, log 7). -/
namespace Sys2Proof.Machine

/-- One in the fixed-point scale 2^-320. -/
def fx1 : Nat := 2 ^ 320
/-- ln 2, log2 e, pi and 2 / sqrt pi in that scale. -/
def fxLn2 : Nat := 1480553391661173448385607439722553250922680800745876974795605978609098082859138712941075737848984
def fxLog2e : Nat := 3081577904126213121686167198097690134163479766071396094403848907535455306605342191083616308484524
def fxPi : Nat := 6710401180212168915155840974220003240804194089427148950727106424351713218671805380099500388914039
def fxErf : Nat := 2410203272519249216264429303418431786590919952803993071303316359311055940753903742343790935809570

/-- 1 + t/1 (1 + t/2 (1 + ... t/n)): the exponential series of `t`. -/
def expSeries : Nat → Nat → Nat → Nat
  | 0, _, acc => acc
  | n + 1, t, acc => expSeries n t (fx1 + t * acc / ((n + 1) * fx1))

/-- 2^f for f in [0, 1], in fixed point. -/
def exp2Fx (f : Nat) : Nat := expSeries 80 (f * fxLn2 / fx1) fx1

/-- 2^(-t) in fixed point, for t in fixed point. -/
def negExp2Fx (t : Nat) : Nat :=
  let k := t / fx1
  if 400 ≤ k then 0 else if t % fx1 = 0 then fx1 / 2 ^ k else exp2Fx (fx1 - t % fx1) / 2 ^ (k + 1)

/-- `n` bits of log2 z for z in [1, 2), by repeated squaring. -/
def log2Bits : Nat → Nat → Nat → Nat
  | 0, _, acc => acc
  | n + 1, z, acc =>
    let z := z * z / fx1
    if 2 * fx1 ≤ z then log2Bits n (z / 2) (2 * acc + 1) else log2Bits n z (2 * acc)

/-- The integer square root of a number below 4^n, bit by bit. -/
def isqrtBits : Nat → Nat → Nat → Nat
  | 0, _, r => r
  | n + 1, x, r => isqrtBits n x (if (r + 2 ^ n) * (r + 2 ^ n) ≤ x then r + 2 ^ n else r)

/-- 1 + 2t/3 (1 + 2t/5 (1 + ...)), the series of erf. -/
def erfSeries : Nat → Nat → Nat → Nat
  | 0, _, acc => acc
  | n + 1, t, acc => erfSeries n t (fx1 + 2 * t * acc / ((2 * n + 3) * fx1))

/-- 1 - t/(a a') (1 - ...), where the divisors of term n are (2n + b)(2n + b + 1): the series of cosine (b = 1 under) and of
sine over its argument (b = 2). -/
def trigSeries (b : Nat) : Nat → Nat → Nat → Nat
  | 0, _, acc => acc
  | n + 1, t, acc => trigSeries b n t (fx1 - t * acc / ((2 * n + b) * (2 * n + b + 1) * fx1))

/-- How far the exact value may lie below and above the computed one, in units of 2^-64 of the last place of FP32. The fixed point is so
fine that cutting the computed value to such units is what remains of its error. -/
inductive Near where
  | exact | above | about | saturated
  deriving DecidableEq, Repr

/-- Below. A saturated function lies within 2^34 units below 1. -/
def Near.lo : Near → Nat
  | .exact => 0 | .above => 0 | .about => 1 | .saturated => 2 ^ 34
/-- Above. -/
def Near.hi : Near → Nat
  | .exact => 0 | .above => 1 | .about => 1 | .saturated => 1

/-- The FP32 values within `b2` half units in the last place of the exact value that y 2^k stands for, as signed counts of the unit 2^u:
half a place, which FP32 has only below the binade of the value. -/
def nearby (b2 : Nat) (e : Near) (y : Nat) (k : Int) : List Int × Int :=
  let lg : Int := if y = 0 then -200 else (Nat.log2 y : Int) + k
  let u : Int := max lg (-126) - 23
  let sh := k - u + 64
  let w : Nat := if 0 ≤ sh then y * 2 ^ sh.toNat else y / 2 ^ (-sh).toNat
  let base : Int := (w / 2 ^ 64 : Nat)
  (((List.range 12).map fun (i : Nat) => 2 * base + (i : Int) - 5).filter fun c =>
    (c % 2 == 0 || (decide (c < 2 ^ 24) && decide (-149 < u))) &&
      decide (c * 2 ^ 64 + 2 * e.lo ≤ 2 * w + b2 * 2 ^ 64 ∧ 2 * (w : Int) + 2 * e.hi ≤ c * 2 ^ 64 + b2 * 2 ^ 64), u - 1)

/-- A result within `b2` half units in the last place of FP32 of (-1)^neg y 2^k, as `x`, which names the operands, picks it. -/
def within (b2 : Nat) (e : Near) (func x : Nat) (neg : Bool) (y : Nat) (k : Int) : Val :=
  let (cs, u) := nearby b2 e y k
  let c := cs.getD (Config.sfuPick func x % cs.length) 0
  let v : Val := .fin (xor neg (c < 0)) c.natAbs u
  ofFp32 (toFp32 v)

/-- A finite number's magnitude in fixed point; FP32 exponents are at least -149. -/
def fxAbs (m : Nat) (e : Int) : Nat := if 0 ≤ e + 320 then m * 2 ^ (e + 320).toNat else 0

/-- Special function `func` of a number, with the bounds and the special cases of R192; `x` names the operands that the number comes
from. -/
def sfuOf (func x : Nat) (v : Val) : Val :=
  match v with
  | .nan => .nan
  | .inf n =>
    (match func with
    | 0 => if n then Val.zero else .inf false
    | 1 => if n then .nan else .inf false
    | 2 => .fin n 0 0
    | 3 => if n then .nan else Val.zero
    | _ => .fin n 1 0)
  | .fin n m e =>
    match func with
    | 0 =>
      let a := fxAbs m e
      if !n && decide (128 * fx1 ≤ a) then .inf false
      else
        let e : Near := if a % fx1 = 0 then .exact else .above
        if n then within 2 (if 400 * fx1 ≤ a then .above else e) 0 x false (negExp2Fx a) (-320)
        else within 2 e 0 x false (exp2Fx (a % fx1)) ((a / fx1 : Nat) - 320)
    | 1 =>
      if m = 0 then .inf true
      else if n then .nan
      else
        let l := Nat.log2 m
        let f := log2Bits 200 (m * 2 ^ (320 - l)) 0
        let y : Int := ((l : Int) + e) * 2 ^ 200 + f
        within 2 (if f = 0 then .exact else if y < 0 then .about else .above) 1 x (y < 0) y.natAbs (-200)
    | 2 => if m = 0 then .inf n else within 1 (if 2 ^ 350 % m = 0 then .exact else .above) 2 x n (2 ^ 350 / m) (-350 - e)
    | 3 =>
      if m = 0 then .inf n
      else if n then .nan
      else
        let odd := e % 2 ≠ 0
        let m' := if odd then 2 * m else m
        let e' := if odd then e - 1 else e
        let r := isqrtBits 351 (2 ^ 700 / m') 0
        within 2 (if r * r * m' = 2 ^ 700 then .exact else .above) 3 x false r (-350 - e' / 2)
    | 4 =>
      if m = 0 then .fin n 0 0
      else
        let a := fxAbs m e
        if 32 * fx1 ≤ a then within 4 .saturated 4 x n (fx1 - 2 ^ 232) (-320)
        else
          let w := negExp2Fx (2 * (a * fxLog2e / fx1))
          within 4 .about 4 x n ((fx1 - w) * fx1 / (fx1 + w)) (-320)
    | _ =>
      if m = 0 then .fin n 0 0
      else
        let a := fxAbs m e
        if 6 * fx1 ≤ a then within 4 .saturated 5 x n (fx1 - 2 ^ 232) (-320)
        else
          let t := a * a / fx1
          let c := fxErf * (negExp2Fx (t * fxLog2e / fx1)) / fx1 * (erfSeries 300 t fx1) / fx1
          within 4 .about 5 x n (m * c) (e - 320)

/-- Special function `func` of a number in FP32. -/
def sfu (func : Nat) (v : Val) : Val := sfuOf func (toFp32 v) v

/-- cos and sin of 2 pi u, for u in [0, 1) in fixed point. -/
def cosSin (u : Nat) : Val × Val :=
  let q := 4 * u / fx1
  let a := 4 * u % fx1 * fxPi / (2 * fx1)
  let t := a * a / fx1
  let c := trigSeries 1 60 t fx1
  let sn := a * trigSeries 2 60 t fx1 / fx1
  let v (neg : Bool) (y : Nat) : Val := .fin neg y (-320)
  match q with
  | 0 => (v false c, v false sn)
  | 1 => (v true sn, v false c)
  | 2 => (v true c, v true sn)
  | _ => (v false sn, v true c)

/-- The fractional part of t x theta, exactly (R198), in fixed point. -/
def turnFrac (t : Nat) (neg : Bool) (m : Nat) (e : Int) : Nat :=
  let p : Int := if neg then -((t * m : Nat) : Int) else ((t * m : Nat) : Int)
  if 0 ≤ e then 0 else ((p % 2 ^ (-e).toNat) * 2 ^ (320 - (-e).toNat)).toNat

/-- An error within 2^-23 (|x0| + |x1|), as the operands pick it. -/
def ropeError (i : Nat) (x0 x1 theta : Val) (t : Nat) : Val :=
  let k : Int := (Config.ropePick i (toFp32 x0) (toFp32 x1) (toFp32 theta) t % (2 ^ 41 + 1) : Nat) - 2 ^ 40
  let mag (v : Val) : Val := if v.sign then v.neg else v
  ((mag x0).add (mag x1)).mul (ofScaled k (-63))

/-- A pair rotated by position `t` at frequency theta (R198). -/
def rope (x0 x1 theta : Val) (t : Nat) : Val × Val :=
  match theta with
  | .fin n m e =>
    let (c, sn) := cosSin (turnFrac t n m e)
    let y0 := (x0.mul c).add ((x1.mul sn).neg)
    let y1 := (x0.mul sn).add (x1.mul c)
    if x0.finite && x1.finite then (y0.add (ropeError 0 x0 x1 theta t), y1.add (ropeError 1 x0 x1 theta t)) else (y0, y1)
  | _ => (.nan, .nan)

end Sys2Proof.Machine
end

