-- ==== Sys2Proof/Machine/Lanes.lean ====
section
/-! DEFINITION. What the vector opcodes compute over the elements of registers (R180 to R198), apart from any tile: the update
unit runs the same opcodes. -/
namespace Sys2Proof.Machine

/-! ### Flags (R187) -/

/-- What an instruction's elements raise, and how many conversions saturated or clamped. -/
structure VFlags where
  nanIn : Bool
  nanGen : Bool
  infGen : Bool
  sat : Nat
  deriving DecidableEq, Repr

def VFlags.none : VFlags := ⟨false, false, false, 0⟩

/-- The flags of two instructions' elements together. -/
def VFlags.or (a b : VFlags) : VFlags := ⟨a.nanIn || b.nanIn, a.nanGen || b.nanGen, a.infGen || b.infGen, a.sat + b.sat⟩

/-- The flags of one result formed from these inputs. -/
def flagsOf (ins : List Val) (r : Val) : VFlags :=
  let nan := ins.any Val.isNan
  ⟨nan, r.isNan && !nan, r.isInf && ins.all Val.finite, 0⟩

/-! ### Elements (R180) -/

/-- Bytes of one element of a plain format. -/
def elemBytes (fmt : Nat) : Nat := elemBits fmt / 8
/-- Elements that a register holds. -/
def capacity (fmt : Nat) : Nat := 1024 / elemBytes fmt
/-- The element codes of a register image, `n` of them. -/
def takeElems (w : Nat) : Nat → List Byte → List Nat
  | 0, _ => []
  | n + 1, b => ofBytes (b.take w) :: takeElems w n (b.drop w)
def elems (fmt : Nat) (b : List Byte) : List Nat := takeElems (elemBytes fmt) (capacity fmt) b
/-- The image that element codes make. -/
def image (fmt : Nat) (codes : List Nat) : List Byte := codes.flatMap (bytesOf (elemBytes fmt))

/-- A result encoded into a format with round-to-nearest-even, with its flags. -/
def encodeWith (fmt : Nat) (ins : List Val) (r : Val) : Nat × VFlags :=
  let c := (encodePlain fmt Rnd.NEAREST 0 r).code
  (c, flagsOf ins (decodePlain fmt c))

/-- Codes with the flags of all of them. -/
def gather (l : List (Nat × VFlags)) : List Nat × VFlags :=
  (l.map Prod.fst, l.foldl (fun f x => f.or x.2) VFlags.none)

/-! ### Element by element (R183, R184) -/

/-- The lesser or the greater of two elements: NaN if either is, and -0 below +0. -/
def minMax (max : Bool) (a b : Val) : Val :=
  if a.isNan || b.isNan then .nan
  else match a.cmp b with
    | .lt => if max then b else a
    | .gt => if max then a else b
    | .eq => if a.sign = max then b else a

/-- Whether a comparison holds: FUNC 0 EQ, 1 NE, 2 LT, 4 GE (R182, R184). -/
def compareHolds (func : Nat) (a b : Val) : Bool :=
  if a.isNan || b.isNan then func == 1
  else match func, a.cmp b with
    | 0, .eq => true
    | 1, .lt => true
    | 1, .gt => true
    | 2, .lt => true
    | 4, .eq => true
    | 4, .gt => true
    | _, _ => false

/-- The exact result of an arithmetic opcode. -/
def arith (o : VOp) (a b c : Val) : Val :=
  match o with
  | .vadd => a.add b
  | .vsub => a.add b.neg
  | .vmul => a.mul b
  | .vfma => (a.mul b).add c
  | .vmin => minMax false a b
  | _ => minMax true a b

/-- VADD, VSUB, VMUL, VFMA, VMIN, VMAX: VFMA reads its third operand, the others two. -/
def arithOp (o : VOp) (fmt : Nat) (a b c : List Nat) : List Nat × VFlags :=
  let d := decodePlain fmt
  if o = .vfma then
    gather ((a.zip (b.zip c)).map fun (x, y, z) => encodeWith fmt [d x, d y, d z] (arith o (d x) (d y) (d z)))
  else gather ((a.zip b).map fun (x, y) => encodeWith fmt [d x, d y] (arith o (d x) (d y) .nan))

/-- The all-ones element of a format's width. -/
def ones (fmt : Nat) : Nat := 2 ^ elemBits fmt - 1

/-- VCMP. -/
def cmpOp (fmt func : Nat) (a b : List Nat) : List Nat × VFlags :=
  let d := decodePlain fmt
  gather ((a.zip b).map fun (x, y) =>
    (if compareHolds func (d x) (d y) then ones fmt else 0, ⟨(d x).isNan || (d y).isNan, false, false, 0⟩))

/-- VSEL: the test is on the bits of the third operand (R182); the elements of the other two are read. -/
def selOp (fmt : Nat) (a b c : List Nat) : List Nat × VFlags :=
  let d := decodePlain fmt
  gather ((a.zip (b.zip c)).map fun (x, y, z) =>
    (if z ≠ 0 then x else y, ⟨(d x).isNan || (d y).isNan, false, false, 0⟩))

/-- VSFU (R192): in FP32, then rounded to the format. -/
def sfuOp (fmt func : Nat) (a : List Nat) : List Nat × VFlags :=
  let d := decodePlain fmt
  gather (a.map fun x => encodeWith fmt [d x] (sfu func (d x)))

/-- VLOG: AND, OR, XOR. -/
def logOp (func : Nat) (a b : List Nat) : List Nat :=
  List.zipWith (fun x y => match func with | 0 => x &&& y | 1 => x ||| y | _ => x ^^^ y) a b

/-- VIADD: INT32 lanes modulo 2^32. -/
def iaddOp (a b : List Nat) : List Nat := List.zipWith (fun x y => (x + y) % 2 ^ 32) a b

/-! ### Reductions (R185) -/

/-- One level of the pairwise tree. -/
def pairUp (f : Val → Val → Val) : List Val → List Val
  | x :: y :: l => f x y :: pairUp f l
  | l => l

/-- `n` levels of the tree. -/
def treeFold (f : Val → Val → Val) : Nat → List Val → Val
  | 0, l => l.headD Val.zero
  | n + 1, l => treeFold f n (pairUp f l)

/-- The sum of FP32 values in tree order, each combination rounded. -/
def treeSum (n : Nat) (l : List Val) : Val := treeFold (fun x y => ofFp32 (toFp32 (x.add y))) n l

/-- VRED: the FP32 pattern, and the flags. -/
def redOp (fmt func : Nat) (a : List Nat) : Nat × VFlags :=
  let vs := a.map (decodePlain fmt)
  let r := if func = 0 then treeSum 10 vs else treeFold (minMax true) 10 vs
  (toFp32 r, flagsOf vs r)

/-! ### Online softmax (R193 to R195) -/

/-- exp2 of the exact difference of two FP32 values, within the bound of R192. -/
def exp2Diff (a b : Val) : Val := sfuOf 0 (2 ^ 64 + toFp32 a * 2 ^ 32 + toFp32 b) (a.add b.neg)

/-- -infinity. -/
def negInf : Val := .inf true

/-- MAX on one row: the new maximum and sum. -/
def smxMax (m l : Val) (row : List Val) : (Nat × VFlags) × (Nat × VFlags) :=
  let mx := row.foldl (minMax true) m
  if mx = negInf then ((toFp32 mx, VFlags.none), (toFp32 l, VFlags.none))
  else
    let l' := ofFp32 (toFp32 (l.mul (exp2Diff m mx)))
    ((toFp32 mx, flagsOf (m :: row) mx), (toFp32 l', flagsOf [l, m, mx] l'))

/-- EXP of one score. -/
def smxExp (x m : Val) : Nat × VFlags :=
  if m = negInf ∧ x.finite then (0, VFlags.none)
  else if m = negInf ∧ x = negInf then (0, VFlags.none)
  else
    let r := exp2Diff x m
    (toFp32 r, flagsOf [x, m] r)

/-- FACTOR of one row. -/
def smxFactor (old new : Val) : Nat × VFlags :=
  if new = negInf ∧ !old.isNan then (toFp32 (.fin false 1 0), VFlags.none)
  else
    let r := exp2Diff old new
    (toFp32 r, flagsOf [old, new] r)

/-- VSMX with FUNC (R194): scores or probabilities `a`, old state `b`, state `c`. -/
def smxOp (func : Nat) (a b c : List Nat) : List Nat × VFlags :=
  let i := func % 64
  let v (l : List Nat) (k : Nat) : Val := ofFp32 (l.getD k 0)
  let row (k : Nat) : List Val := ((a.drop (128 * k)).take 128).map ofFp32
  match func / 64 with
  | 0 =>
    let r (k : Nat) := smxMax (v c (4 * i + 2 * k)) (v c (4 * i + 2 * k + 1)) (row k)
    let (l, f) := gather [(r 0).1, (r 0).2, (r 1).1, (r 1).2]
    (splice c (4 * i) l, f)
  | 1 => gather ((row 0).map (smxExp · (v c (4 * i))) ++ (row 1).map (smxExp · (v c (4 * i + 2))))
  | 2 =>
    let r (k : Nat) : Nat × VFlags :=
      let l := v c (4 * i + 2 * k + 1)
      let x := ofFp32 (toFp32 (l.add (treeSum 7 (row k))))
      (toFp32 x, flagsOf (l :: row k) x)
    ((c.set (4 * i + 1) (r 0).1).set (4 * i + 3) (r 1).1, (r 0).2.or (r 1).2)
  | _ =>
    let r (k : Nat) := smxFactor (v b (4 * i + 2 * k)) (v c (4 * i + 2 * k))
    (List.replicate 128 (r 0).1 ++ List.replicate 128 (r 1).1, (r 0).2.or (r 1).2)

/-! ### Masks (R196) and rotation (R197, R198) -/

/-- Whether an element of query `q` at key position `k` is masked. -/
def maskHides (func p q k : Nat) : Bool :=
  if k > 0xFFFFFFFF then true
  else match func % 4 with
    | 0 => decide (k > q)
    | 1 => decide (k > q) || decide (q - k ≥ p)
    | _ => q / 2 ^ (p % 32) != k / 2 ^ (p % 32) || (bit func 2 && decide (k > q))

/-- Whether P has a bit that the kind forbids (BAD_OPERAND). -/
def maskBadP (func p : Nat) : Bool :=
  match func % 4 with
  | 0 => p != 0
  | 1 => false
  | _ => decide (32 ≤ p)

/-- VMASK. -/
def maskOp (fmt func sa sb : Nat) : List Nat :=
  let half := capacity fmt / 2
  (List.range (capacity fmt)).map fun e =>
    let q := if e < half then sa % 2 ^ 32 else sa / 2 ^ 32 % 2 ^ 32
    if maskHides func (sb / 2 ^ 32 % 2 ^ 32) q (sb % 2 ^ 32 + e % half) then ones fmt else 0

/-- VROPE: the elements, the position operand and the frequencies. -/
def ropeOp (fmt func : Nat) (a : List Nat) (sb : Nat) (freq : List Nat) : List Nat × VFlags :=
  let g := func + 1
  let d := decodePlain fmt
  gather ((List.range (capacity fmt / 2)).flatMap fun p =>
    let q := sb / 2 ^ 32 % 256 + p
    let t := (sb % 2 ^ 32 + q / g) % 2 ^ 32
    let theta := ofFp32 (freq.getD (q % g) 0)
    let x0 := d (a.getD (2 * p) 0)
    let x1 := d (a.getD (2 * p + 1) 0)
    let (y0, y1) := rope x0 x1 theta t
    [encodeWith fmt [x0, x1, theta] y0, encodeWith fmt [x0, x1, theta] y1])

/-! ### Conversion (R188 to R191) -/

/-- Whether a source and destination pair, part and use of vB are permitted (R188, R189). -/
def cvtOk (src dst h vb : Nat) (high : Bool) : Bool :=
  let plain (c : Nat) : Bool := decide (c ≤ 4) || c == 0xB
  !high &&
  (if plain src && plain dst then
    let cs := capacity src
    let cd := capacity dst
    let parts := max cs cd / min cs cd
    decide (h < parts) && (decide (cs < cd) || vb == 0)
  else if src == 0 && isMx dst then decide (h < 1024 / (8 * blockBytes dst))
  else if isMx src && dst == 0 then decide (h < 1024 / (8 * blockBytes src)) && vb == 0
  else false)

/-- Elements that a conversion handles. -/
def cvtCount (src dst : Nat) : Nat := if isMx src || isMx dst then 256 else min (capacity src) (capacity dst)

/-- The flags of a converted element. -/
def cvtFlags (v : Val) (dst : Nat) (e : Enc) : VFlags :=
  if dst = 0xB then ⟨v.isNan, false, false, if e.sat then 1 else 0⟩
  else
    let r := decodePlain dst e.code
    { flagsOf [v] r with sat := if e.sat then 1 else 0 }

/-- VCVT of a register image `a` into an image over `b`: mode `rnd`, the draw of element e being `draw e`. -/
def cvtOp (src dst h rnd : Nat) (draw : Nat → Nat) (a b : List Byte) : List Byte × VFlags :=
  let n := cvtCount src dst
  if isMx dst then
    let vs := (elems 0 a).map ofFp32
    let blocks := (List.range 8).map fun i =>
      encodeBlock dst rnd ((List.range 32).map fun e => draw (32 * i + e)) ((vs.drop (32 * i)).take 32)
    let nan := vs.any Val.isNan
    let off := h * 8 * blockBytes dst
    let ins (i : Nat) := (vs.drop (32 * i)).take 32
    let gen := blocks.zipIdx.any fun (x, i) => x.2.2 && !(ins i).any Val.isNan
    (splice b off (blocks.flatMap (·.1)), ⟨nan, gen, false, (blocks.map (·.2.1)).sum⟩)
  else if isMx src then
    let off := h * 8 * blockBytes src
    let vs := (List.range 8).flatMap fun i => decodeBlock src ((a.drop (off + i * blockBytes src)).take (blockBytes src))
    let (cs, f) := gather (vs.zipIdx.map fun (v, e) =>
      let x := encodePlain 0 rnd (draw e) v
      (x.code, cvtFlags v 0 x))
    (image 0 cs, f)
  else
    let cs := elems src a
    let part := if capacity src ≤ capacity dst then cs else (cs.drop (h * n)).take n
    let (out, f) := gather (part.zipIdx.map fun (c, e) =>
      let v := decodePlain src c
      let x := encodePlain dst rnd (draw e) v
      (x.code, cvtFlags v dst x))
    if capacity src < capacity dst then (image dst (splice (elems dst b) (h * n) out), f) else (image dst out, f)

end Sys2Proof.Machine
end

