-- ==== Sys2Proof/Machine/Bundle.lean ====
section
/-! DEFINITION. Bundles (chapter 03): the decoding of the four 64-bit slots (R101, R104, the body formats), the encoding checks of
R103 and R553 with those of R113, R116, R154, R171 and R182, and the destinations that R107 compares. -/
namespace Sys2Proof.Machine

/-! ### Slot fields -/

/-- The guard of a slot: PN and PRED. -/
def slotGuard (w : Nat) : Guard := ⟨bit w 55, ⟨bits w 54 52 % 8, Nat.mod_lt _ (by decide)⟩⟩
/-- The opcode of a slot. -/
def slotOpc (w : Nat) : Nat := bits w 63 56

/-- A field as a register number. -/
def f32 (w lo : Nat) : Fin 32 := ⟨(w >>> lo) % 32, Nat.mod_lt _ (by decide)⟩
def f16 (w lo : Nat) : Fin 16 := ⟨(w >>> lo) % 16, Nat.mod_lt _ (by decide)⟩
def f8 (w lo : Nat) : Fin 8 := ⟨(w >>> lo) % 8, Nat.mod_lt _ (by decide)⟩
def f4 (w lo : Nat) : Fin 4 := ⟨(w >>> lo) % 4, Nat.mod_lt _ (by decide)⟩
def f64 (w lo : Nat) : Fin 64 := ⟨(w >>> lo) % 64, Nat.mod_lt _ (by decide)⟩

/-- The bits of a body that the fields [hi:lo] of a list cover. -/
def bodyMask (l : List (Nat × Nat)) : Nat := l.foldl (fun a f => a ||| (2 ^ (f.1 + 1 - f.2) - 1) <<< f.2) 0

/-- `i` where the body has no bit outside the fields used (R553), else nothing. -/
def usedOnly {α : Type} (w : Nat) (used : List (Nat × Nat)) (i : α) : Option α :=
  let body := w % 2 ^ 52
  if body &&& bodyMask used = body then some i else none

/-! ### Decoding -/

/-- The control slot. Predicate fields use 3 of their 5 bits and address fields 4 (R104). -/
def decodeCtl (w : Nat) : Option Ctl :=
  let imm := BitVec.ofNat 32 w
  let func := BitVec.ofNat 8 (bits w 31 24)
  match slotOpc w with
  | 0x00 => usedOnly w [] .nop
  | 0x01 => usedOnly w [(51, 47), (31, 0)] (.li (f32 w 47) imm)
  | 0x02 => usedOnly w [(51, 42), (31, 0)] (.lui (f32 w 47) (f32 w 42) imm)
  | 0x03 => usedOnly w [(51, 42), (31, 0)] (.addi (f32 w 47) (f32 w 42) imm)
  | 0x04 => usedOnly w [(51, 37), (31, 24)] (.alu (f32 w 47) (f32 w 42) (f32 w 37) func)
  | 0x05 => usedOnly w [(49, 37), (31, 24)] (.cmp (f8 w 47) (f32 w 42) (f32 w 37) func)
  | 0x06 => usedOnly w [(49, 39), (31, 0)] (.cmpi (f8 w 47) (f32 w 42) (BitVec.ofNat 3 (bits w 41 39)) imm)
  | 0x07 => usedOnly w [(49, 47), (44, 42), (39, 37), (31, 24)] (.plog (f8 w 47) (f8 w 42) (f8 w 37) func)
  | 0x08 => usedOnly w [(50, 42)] (.movsa (f16 w 47) (f32 w 42))
  | 0x09 => usedOnly w [(51, 47), (45, 42)] (.movas (f32 w 47) (f16 w 42))
  | 0x0A => usedOnly w [(50, 47), (45, 42), (31, 0)] (.adda (f16 w 47) (f16 w 42) imm)
  | 0x0B => usedOnly w [(50, 47), (31, 0)] (.lia (f16 w 47) imm)
  | 0x10 => usedOnly w [(31, 0)] (.br imm)
  | 0x11 => usedOnly w [(51, 47)] (.jmp (f32 w 47))
  | 0x12 => usedOnly w [(31, 0)] (.call imm)
  | 0x13 => usedOnly w [] .ret
  | 0x14 => usedOnly w [(51, 47), (31, 0)] (.loop (f32 w 47) imm)
  | 0x20 => usedOnly w [(51, 37)] (.twait (f8 w 49) (BitVec.ofNat 2 (bits w 48 47)) (f32 w 42) (f32 w 37))
  | 0x21 => usedOnly w [(51, 49), (46, 32)] (.cwait (f8 w 49) (f32 w 42) (f32 w 37) (f32 w 32))
  | 0x22 => usedOnly w [(46, 33)] (.cpost (f32 w 42) (f32 w 37) (f16 w 33))
  | 0x23 => usedOnly w [(51, 33)] (.cpostw (f32 w 47) (f32 w 42) (f32 w 37) (f16 w 33))
  | 0x24 => usedOnly w [(51, 33), (31, 29)] (.crecv (f32 w 47) (f32 w 42) (f32 w 37) (f16 w 33) (f8 w 29))
  | 0x25 => usedOnly w [(46, 42)] (.cfree (f32 w 42))
  | 0x26 => usedOnly w [(46, 41)] (.ldone (f32 w 42) (bit w 41))
  | 0x27 => usedOnly w [(47, 32)] (.yield (BitVec.ofNat 16 (bits w 47 32)))
  | 0x28 => usedOnly w [] .halt
  | 0x29 => usedOnly w [] .mfence
  | 0x2A => usedOnly w [(51, 47), (11, 0)] (.csrr (f32 w 47) (BitVec.ofNat 12 w))
  | 0x2B => usedOnly w [(46, 42), (31, 24)] (.rngset (f32 w 42) func)
  | _ => none

/-- The matrix slot. -/
def decodeMat (w : Nat) : Option Mat :=
  let fa := BitVec.ofNat 4 (bits w 49 46)
  match slotOpc w with
  | 0x00 => usedOnly w [] .nop
  | 0x01 => usedOnly w [(51, 28)]
      (.mma (f4 w 50) fa (BitVec.ofNat 4 (bits w 45 42)) (f16 w 38) (f16 w 34) (f32 w 29) (bit w 28))
  | 0x02 => usedOnly w [(51, 46), (41, 38), (33, 29), (27, 26)]
      (.mout (f4 w 50) fa (f16 w 38) (f32 w 29) (BitVec.ofNat 2 (bits w 27 26)))
  | 0x03 => usedOnly w [(51, 50)] (.mclr (f4 w 50))
  | 0x04 => usedOnly w [(51, 50), (41, 38)] (.mlda (f4 w 50) (f16 w 38))
  | 0x05 => usedOnly w [(51, 50), (41, 38)] (.msta (f4 w 50) (f16 w 38))
  | _ => none

/-- The vector opcode of a code. -/
def vopOf (c : Nat) : Option VOp :=
  [VOp.vadd, .vsub, .vmul, .vfma, .vmin, .vmax, .vcvt, .vsfu, .vsmx, .vrope, .vmask, .vred, .vsel, .vbcast, .vcmp, .vlog,
    .viadd, .vrng][c - 1]?

/-- The code of a vector opcode. -/
def vopCode : VOp → Nat
  | .vadd => 1 | .vsub => 2 | .vmul => 3 | .vfma => 4 | .vmin => 5 | .vmax => 6 | .vcvt => 7 | .vsfu => 8 | .vsmx => 9
  | .vrope => 10 | .vmask => 11 | .vred => 12 | .vsel => 13 | .vbcast => 14 | .vcmp => 15 | .vlog => 16 | .viadd => 17
  | .vrng => 18

/-- The vector slot (format V). -/
def decodeVec (w : Nat) : Option Vec :=
  if slotOpc w = 0 then usedOnly w [] .nop
  else match vopOf (slotOpc w) with
    | some o => usedOnly w [(51, 18)] (.op o (f32 w 47) (f32 w 42) (f32 w 37) (f32 w 32)
        (BitVec.ofNat 4 (bits w 31 28)) (BitVec.ofNat 2 (bits w 27 26)) (BitVec.ofNat 8 (bits w 25 18)))
    | none => none

/-- The move slot (format MEM). X is a field only where AM is INDEXED; AM 0b11 and an IMM under INDEXED are judged by
`Mov.legal`. -/
def decodeMov (w : Nat) : Option Mov :=
  let imm := BitVec.ofNat 32 w
  let am := BitVec.ofNat 2 (bits w 42 41)
  let mem : List (Nat × Nat) := if am = 2 then [(51, 36), (31, 0)] else [(51, 41), (31, 0)]
  match slotOpc w with
  | 0x00 => usedOnly w [] .nop
  | 0x01 => usedOnly w mem (.vld (f32 w 47) (f16 w 43) am (f32 w 36) imm)
  | 0x02 => usedOnly w mem (.vst (f32 w 47) (f16 w 43) am (f32 w 36) imm)
  | 0x03 => usedOnly w mem (.sld (f32 w 47) (f16 w 43) am (f32 w 36) imm)
  | 0x04 => usedOnly w mem (.sst (f32 w 47) (f16 w 43) am (f32 w 36) imm)
  | 0x05 => usedOnly w [(51, 45), (5, 0)] (.accrd (f32 w 47) (f4 w 45) (f64 w 0))
  | 0x06 => usedOnly w [(51, 45), (5, 0)] (.accwr (f32 w 47) (f4 w 45) (f64 w 0))
  | 0x07 => usedOnly w [(51, 47), (40, 36)] (.sqpost (f32 w 47) (f32 w 36))
  | 0x08 => usedOnly w [(51, 47), (40, 36)] (.sqtest (f32 w 47) (f32 w 36))
  | 0x09 => usedOnly w [(51, 47), (40, 36)] (.sget (f32 w 47) (f32 w 36))
  | 0x0A => usedOnly w [(51, 43), (40, 36)] (.sput (f32 w 47) (f16 w 43) (f32 w 36))
  | _ => none

/-! ### Codes that an instruction admits (R103, R553) -/

/-- Reserved FUNC, MODE, OFF, LIVE and CSR codes of the control slot. -/
def ctlLegal : Ctl → Bool
  | .alu _ _ _ f => decide (f.toNat ≤ 0x0D)
  | .cmp _ _ _ f => decide (f.toNat ≤ 5)
  | .cmpi _ _ f _ => decide (f.toNat ≤ 5)
  | .plog _ _ _ f => decide (f.toNat ≤ 3)
  | .loop _ off => decide (1 ≤ off.toInt)
  | .twait _ m _ _ => decide (m.toNat ≤ 1)
  | .yield live => decide (live.toNat < 2048)
  | .csrr _ c => decide (c.toNat ≤ 6) || (decide (0x10 ≤ c.toNat) && decide (c.toNat ≤ 0x12))
  | .rngset _ f => decide (f.toNat ≤ 2)
  | _ => true

/-- The pairings of R154. -/
def pairingOk (a b : Nat) : Bool :=
  (a == 1 && b == 1) || (a == 2 && b == 2) || ((a == 3 || a == 4) && (b == 3 || b == 4)) ||
    (decide (5 ≤ a) && decide (a ≤ 9) && decide (5 ≤ b) && decide (b ≤ 9)) || (a == 10 && b == 10) || (a == 11 && b == 11)

/-- The matrix slot's formats (R113, R154, R171). -/
def matLegal : Mat → Bool
  | .mma _ fa fb _ _ _ _ => pairingOk fa.toNat fb.toNat
  | .mout _ fa _ _ rnd => (decide (1 ≤ fa.toNat) && decide (fa.toNat ≤ 10)) ||
      ((fa.toNat == 0 || fa.toNat == 11 || fa.toNat == 12) && rnd == 0)
  | _ => true

/-- The fields of the vector slot that an opcode uses, and the codes it accepts (R116, R182, R188, R189, R193, R196). -/
def vecLegal : Vec → Bool
  | .nop => true
  | .op o _ a b c fmt rnd func =>
    let ft := fmt.toNat
    let fn := func.toNat
    let float := decide (ft ≤ 4)
    (rnd == 0 || o == .vcvt) &&
    (match o with
    | .vadd => float && c == 0 && fn == 0
    | .vsub => float && c == 0 && fn == 0
    | .vmul => float && c == 0 && fn == 0
    | .vfma => float && fn == 0
    | .vmin => float && c == 0 && fn == 0
    | .vmax => float && c == 0 && fn == 0
    | .vcmp => float && c == 0 && [0, 1, 2, 4].contains fn
    | .vsfu => float && b == 0 && c == 0 && decide (fn ≤ 5)
    | .vsmx => ft == 0 && (if fn / 64 = 3 then a == 0 else b == 0)
    | .vrope => decide (ft ≤ 2)
    | .vmask => float && c == 0 && decide (fn < 8) && fn % 4 != 3 && (!bit fn 2 || fn % 4 == 2)
    | .vred => float && b == 0 && c == 0 && decide (fn ≤ 1)
    | .vsel => float && fn == 0
    | .vbcast => (float || ft == 12) && b == 0 && c == 0 && fn == 0
    | .vcvt => c == 0 && cvtOk (fn % 16) ft (bits fn 6 4) b.val (bit fn 7)
    | .vlog => ft == 12 && c == 0 && decide (fn ≤ 2)
    | .viadd => ft == 12 && c == 0 && fn == 0
    | .vrng => ft == 12 && a == 0 && b == 0 && c == 0 && fn == 0)

/-- AM 0b11 is reserved; X is used and IMM is zero under INDEXED alone (R117, R553). -/
def amLegal (am : BitVec 2) (x : Fin 32) (imm : BitVec 32) : Bool :=
  am != 3 && (if am = 2 then imm == 0 else x == 0)

def movLegal : Mov → Bool
  | .vld _ _ am x imm => amLegal am x imm
  | .vst _ _ am x imm => amLegal am x imm
  | .sld _ _ am x imm => amLegal am x imm
  | .sst _ _ am x imm => amLegal am x imm
  | _ => true

/-- A bundle of 32 bytes decoded, or the first slot that its encoding makes illegal (R103). -/
def decodeBundle (b : List Byte) : Except Nat Bundle :=
  let w (k : Nat) : Nat := field b (8 * k) 8
  match decodeCtl (w 0), decodeMat (w 1), decodeVec (w 2), decodeMov (w 3) with
  | some c, some m, some v, some x =>
    if !ctlLegal c then .error 0 else if !matLegal m then .error 1 else if !vecLegal v then .error 2
    else if !movLegal x then .error 3
    else .ok ⟨slotGuard (w 0), c, slotGuard (w 1), m, slotGuard (w 2), v, slotGuard (w 3), x⟩
  | none, _, _, _ => .error 0
  | some c, none, _, _ => if !ctlLegal c then .error 0 else .error 1
  | some c, some m, none, _ => if !ctlLegal c then .error 0 else if !matLegal m then .error 1 else .error 2
  | some c, some m, some v, none =>
    if !ctlLegal c then .error 0 else if !matLegal m then .error 1 else if !vecLegal v then .error 2 else .error 3

/-- The first slot of a bundle whose instruction has a reserved code. -/
def Bundle.illegal (b : Bundle) : Option Nat :=
  if !ctlLegal b.ctl then some 0 else if !matLegal b.mat then some 1 else if !vecLegal b.vec then some 2
  else if !movLegal b.mov then some 3 else none

/-! ### Destinations (R107) -/

/-- A destination that R107 compares. -/
inductive Dest where
  | s (n : Nat)
  | a (n : Nat)
  | v (n : Nat)
  | p (n : Nat)
  | bank (n : Nat)
  deriving DecidableEq, Repr

/-- The destinations of the control slot. -/
def ctlDests : Ctl → List Dest
  | .li d _ => [.s d.val] | .lui d _ _ => [.s d.val] | .addi d _ _ => [.s d.val] | .alu d _ _ _ => [.s d.val]
  | .cmp d _ _ _ => [.p d.val] | .cmpi d _ _ _ => [.p d.val] | .plog d _ _ _ => [.p d.val]
  | .movsa d _ => [.a d.val] | .movas d _ => [.s d.val] | .adda d _ _ => [.a d.val] | .lia d _ => [.a d.val]
  | .twait d _ _ _ => [.p d.val] | .cwait d _ _ _ => [.p d.val] | .cpostw d _ _ _ => [.s d.val]
  | .crecv d _ _ ar pd => [.s d.val, .a ar.val, .p pd.val] | .csrr d _ => [.s d.val]
  | _ => []

/-- The destinations of the vector slot. -/
def vecDests : Vec → List Dest
  | .nop => []
  | .op .vred d _ _ _ _ _ _ => [.s d.val]
  | .op _ d _ _ _ _ _ _ => [.v d.val]

/-- The address register that a post-increment updates. -/
def postDest (ar : Fin 16) (am : BitVec 2) : List Dest := if am = 1 then [.a ar.val] else []

/-- The destinations of the move slot. -/
def movDests : Mov → List Dest
  | .vld d ar am _ _ => .v d.val :: postDest ar am
  | .vst _ ar am _ _ => postDest ar am
  | .sld d ar am _ _ => .s d.val :: postDest ar am
  | .sst _ ar am _ _ => postDest ar am
  | .accrd d _ _ => [.v d.val]
  | .accwr _ b _ => [.bank b.val]
  | .sqtest d _ => [.s d.val]
  | .sget d _ => [.s d.val]
  | _ => []

/-- Whether a destination is exempt: s0 and p0. -/
def Dest.exempt : Dest → Bool
  | .s n => n == 0
  | .p n => n == 0
  | _ => false

/-- The lower slot of the first pair that names one destination, given the banks that the matrix slot writes (which slot of
the pair is reported is the model's choice). -/
def Bundle.conflict (b : Bundle) (banks : List Nat) : Option Nat :=
  let ds : List (Nat × Dest) := ((ctlDests b.ctl).map ((0, ·))) ++ (banks.map fun n => (1, Dest.bank n)) ++
    ((vecDests b.vec).map ((2, ·))) ++ ((movDests b.mov).map ((3, ·)))
  (ds.find? fun x => !x.2.exempt && ds.any fun y => x.1 < y.1 && y.2 == x.2).map Prod.fst

end Sys2Proof.Machine
end

