-- ==== Sys2Proof/Machine/Reduction.lean ====
section
/-! DEFINITION. Layer reduction (chapter 10): LDONE records (R316, R317, R558), segments over trees (R318 to R322), the passes and
their packets (R323 to R327), completion and failure (R328, R329), and the discard on leaving PAUSE or REPLAY (R330). -/
namespace Sys2Proof.Machine

open Host (Outcome)

namespace RedSt
def IDLE : Nat := 0
def WAITING : Nat := 1
def RUNNING : Nat := 2
def COMPLETE : Nat := 3
def FAILED : Nat := 4
end RedSt

def State.red (s : State) (l : Nat) : RedLayer := Store.lookup (fun _ => RedLayer.init) s.reds l
def setRed (l : Nat) (x : RedLayer) (s : State) : State :=
  { s with reds := Store.update (fun _ => RedLayer.init) s.reds l x }

/-- The segment with number `n` of a record. -/
def State.redSeg (s : State) (l n : Nat) : Option RedSegment := (s.red l).segs.find? (·.seg = n)
def updSeg (l n : Nat) (f : RedSegment → RedSegment) (s : State) : State :=
  let x := s.red l
  setRed l { x with segs := x.segs.map fun g => if g.seg = n then f g else g } s

/-! ### The layer table (R315, R316) -/

/-- Address of a layer entry. -/
def State.layerAddr (s : State) (l : Nat) : Nat := s.fld Reg.RED_LT F.RED_LT_BASE + 64 * l
/-- The 64 bytes of a layer entry. -/
def State.layerEntry (s : State) (l : Nat) : List Byte := s.tableBytes (s.layerAddr l) 64
def entryValid (e : List Byte) : Bool := bit (field e 0 2) 15
def entryCtx (e : List Byte) : Nat := field e 0 2 % 4096
def entryTiles (e : List Byte) : List Nat := (List.range 144).filter fun t => bit (field e 16 18) t

/-- Whether LDONE for a layer by a logical tile of a context is refused (R316). -/
def State.ldoneRefused (s : State) (c tile l : Nat) : Bool :=
  decide (s.fld Reg.RED_LT F.RED_LT_COUNT ≤ l) ||
    (let e := s.layerEntry l
     !entryValid e || entryCtx e != c || !(entryTiles e).contains tile)

/-- Whether an earlier step's record still holds a new LDONE (R558). -/
def State.ldoneHeld (s : State) (l step : Nat) : Bool :=
  let r := s.red l
  r.step != step && (r.state == RedSt.WAITING || r.state == RedSt.RUNNING)

/-- Whether a tile has already given LDONE for a layer and step (R131). -/
def State.ldoneGiven (s : State) (l step tile : Nat) : Bool :=
  let r := s.red l
  r.step == step && r.state != RedSt.IDLE && r.tiles.contains tile

/-- Whether the reduction of a layer has completed for a step (R131, R328), in its record or in the one that it replaced. -/
def State.layerDone (s : State) (l step : Nat) : Bool :=
  let r := s.red l
  (r.step == step && r.state == RedSt.COMPLETE) || r.last == some step

/-- The LDONE notification of a tile, where no earlier record holds it (R131, R558). -/
def ldone (c tile l step : Nat) (s : State) : State :=
  let r := s.red l
  if r.step = step ∧ r.state ≠ RedSt.IDLE then setRed l { r with tiles := insertMark tile r.tiles } s
  else setRed l { RedLayer.init with
    step := step, state := RedSt.WAITING, tiles := [tile], ctx := c, epoch := s.epoch c, early := r.early,
    last := if r.state = RedSt.COMPLETE then some r.step else r.last } s

/-! ### Held values (R150, R313, R320, R321) -/

/-- Block `j` of held bytes, expanded to FP32 patterns. -/
def heldCodes (own : List Byte) (j : Nat) : List Nat := (decodeBlock 10 ((own.drop (33 * j)).take 33)).map toFp32

/-- ex(x) of R320. -/
def exOf (x : Nat) : Nat := max 1 (x / 2 ^ 23 % 256)

/-- k(x) of R321. -/
def classOf (x : Nat) : Nat :=
  if x / 2 ^ 23 % 256 ≠ 255 then 0 else if x % 2 ^ 23 ≠ 0 then 4 else if bit x 31 then 2 else 1

/-- a(x) of R320: x times 2^(157 - E), truncated toward zero. -/
def alignTo (e x : Nat) : Int :=
  match ofFp32 x with
  | .fin n m k =>
    let sh := k + 157 - (e : Int)
    let q : Nat := if 0 ≤ sh then m * 2 ^ sh.toNat else m / 2 ^ (-sh).toNat
    if n then -(q : Int) else q
  | _ => 0

/-- The lanes that a device contributes to a block with exponent `e`. -/
def ownLanes (e : Nat) (codes : List Nat) : List Int :=
  codes.map fun x => if e = 255 then (classOf x : Int) else alignTo e x

/-- Two partial sums of a block joined: added, or OR-ed where E is 0xFF. Both are the same in any order (R322). -/
def joinLanes (e : Nat) (a b : List Int) : List Int :=
  List.zipWith (fun x y => if e = 255 then ((x.toNat ||| y.toNat : Nat) : Int) else x + y) a b

/-- An element's FP32 result from its total (R320, R321). -/
def laneResult (e : Nat) (t : Int) : Nat :=
  if e = 255 then (if t = 1 then 0x7F800000 else if t = 2 then 0xFF800000 else 0x7FC00000)
  else toFp32 (ofScaled t ((e : Int) - 157))

/-! ### Failure and completion (R328, R329) -/

/-- A failure shown: SEG_FAIL, the capture, and the entry of R329's table. -/
def noteFail (l n code : Nat) (s : State) : State :=
  let r := s.red l
  let s := raise Reg.RED_STATUS F.RED_STATUS_SEG_FAIL s
  let f := Reg.RED_FAIL
  let s := if s.on f F.RED_FAIL_VALID then s
    else put f F.RED_FAIL_VALID 1 (put f F.RED_FAIL_CODE code (put f F.RED_FAIL_LAYER l
      (put f F.RED_FAIL_SEG n (put f F.RED_FAIL_STEP r.step s))))
  let detail := l + n * 4096 + code * 2 ^ 24
  if code = Code.POISONED ∨ code = Code.EPOCH_STALE then s
  else if code = Code.REFUSED ∨ code = Code.NOT_OWNER then postContained 0x0071 .red r.ctx detail s
  else postCorrected 0x0071 .red (some r.ctx) none detail s

/-- The layer fails with a code. -/
def failLayer (l code : Nat) (s : State) : State :=
  let r := s.red l
  setRed l { r with state := RedSt.FAILED, code := if r.state = RedSt.FAILED then Code.worse r.code code else code } s

/-- The layer ends once every segment has (R328): COMPLETE, or FAILED where one of them failed. -/
def endLayer (l : Nat) (s : State) : State :=
  let r := s.red l
  if r.state ≠ RedSt.RUNNING ∨ !r.segs.all fun g => g.code.isSome then s
  else
    let good := r.segs.all fun g => g.code = some Code.DONE || g.code = some Code.NONFINITE
    setRed l { r with
      state := if good then RedSt.COMPLETE else RedSt.FAILED
      code := r.segs.foldl (fun a g => Code.worse a (g.code.getD 0)) Code.DONE } s

/-- The segment ends with a code, and with it the layer, if that was its last. The other segments of the layer go on (R329). -/
def endSegment (l n code : Nat) (s : State) : State :=
  match s.redSeg l n with
  | none => s
  | some g =>
    if g.code.isSome then s
    else
      let s := endLayer l (updSeg l n (fun g => { g with code := some code, chunks := [], waits := [], writes := [] }) s)
      if code = Code.DONE ∨ code = Code.NONFINITE then bump Reg.RED_SEGMENTS s else noteFail l n code s

/-- The segment completes once its chunks are finished: at the root when its result writes are complete, elsewhere when its requests of the
passes SUM and EXP_DOWN have been answered (R328). -/
def checkSegment (l n : Nat) (s : State) : State :=
  match s.redSeg l n with
  | none => s
  | some g =>
    if g.code = none ∧ g.finished = ceilDiv g.blocks 256 ∧ (if g.parent.isNone then g.writes = [] else g.waits = []) then
      endSegment l n (if g.poisoned then Code.POISONED else if g.nf then Code.NONFINITE else Code.DONE) s
    else s

/-- A non-finite block (kind 0) or an overflowed result (kind 1) noted and captured (R346). -/
def noteNf (l n block : Nat) (kind : Nat) (s : State) : State :=
  let s := raise Reg.RED_STATUS (if kind = 0 then F.RED_STATUS_NF_IN else F.RED_STATUS_RES_INF) s
  let s := updSeg l n (fun g => { g with nf := true }) s
  let r := Reg.RED_NF_CAPTURE
  if s.on r F.RED_NF_CAPTURE_VALID then s
  else
    let s := put r F.RED_NF_CAPTURE_VALID 1 (put r F.RED_NF_CAPTURE_KIND kind (put r F.RED_NF_CAPTURE_LAYER l
      (put r F.RED_NF_CAPTURE_SEG n (put r F.RED_NF_CAPTURE_BLOCK block s))))
    setR Reg.RED_NF_TIDE (s.tide (s.ctxDomain (s.red l).ctx)) s

/-! ### Packets (R324, R325) -/

namespace Pass
def EXP_UP : Nat := 0
def EXP_DOWN : Nat := 1
def SUM : Nat := 2
end Pass

/-- The ADDR of a reduce packet. -/
def redAddr (l n chunk blk pass : Nat) : Nat := l * 2 ^ 36 + n * 2 ^ 28 + chunk * 2 ^ 12 + blk * 16 + pass * 4

/-- One pass of a chunk sent to a device: pieces are (first block, bytes after the prefix, poisoned); only the last is a
request (R325). The segment's end waits for its answer in the passes SUM and EXP_DOWN (R328). -/
def sendPass (l n dev chunk pass : Nat) (parts : List (Nat × List Byte × Bool)) (s : State) : State :=
  let r := s.red l
  let (s, tag) := openReq dev r.ctx r.epoch 0 0 (.reduce l n) s
  let s := updSeg l n (fun g => { g with
    asked := g.asked ++ [tag], waits := if pass = Pass.EXP_UP then g.waits else g.waits ++ [tag] }) s
  let last := parts.length - 1
  forEach parts.zipIdx (fun (part, i) s =>
    let payload := bytesOf 8 (r.step % 2 ^ 40) ++ part.2.1
    let pk := { mkPacket s dev r.ctx r.epoch Cls.REDUCE Op.UNIT tag (redAddr l n chunk part.1 pass) (payload.length - 1) payload
      with poison := part.2.2 }
    if i < last then
      (if s.on (Reg.TIDE_DSTATUS (s.ctxDomain r.ctx)) F.TIDE_DSTATUS_STALE then s
       else (routeSend .answer pk (bumpBy Reg.RED_TX_BYTES payload.length s)).1)
    else
      let (s, code) := sendRequest pk (bumpBy Reg.RED_TX_BYTES payload.length s)
      if code = Code.DONE then s else endSegment l n code (closeReq tag s)) s

/-- The parts of an EXP pass: 128 exponents to a packet. -/
def expParts (es : List Nat) (bad : List Nat) : List (Nat × List Byte × Bool) :=
  (List.range (ceilDiv es.length 128)).map fun i =>
    (128 * i, ((es.drop (128 * i)).take 128).map (BitVec.ofNat 8), bad.any fun b => 128 * i ≤ b ∧ b < 128 * i + 128)

/-- The parts of a SUM pass: one block to a packet. -/
def sumParts (rows : List (List Int)) (bad : List Nat) : List (Nat × List Byte × Bool) :=
  rows.zipIdx.map fun (row, i) => (i, row.flatMap fun x => bytesOf 6 (x % 2 ^ 48).toNat, bad.contains i)

/-! ### Chunks (R323) -/

/-- Blocks of chunk `i` of a segment. -/
def RedSegment.chunkLen (g : RedSegment) (i : Nat) : Nat := min 256 (g.blocks - 256 * i)

/-- The chunk `i` of a segment, new if nothing of it is known yet. -/
def RedSegment.chunk (g : RedSegment) (i : Nat) : RedChunk :=
  (g.chunks.find? (·.idx = i)).getD ⟨i, false, [], [], [], List.replicate (g.chunkLen i) 1, [], false, [], none, [], []⟩

/-- Whether chunk `i` of a segment has finished: it has started and is no longer in progress. -/
def RedSegment.chunkDone (g : RedSegment) (i : Nat) : Bool := decide (i < g.next) && !g.chunks.any (·.idx == i)

def putChunk (l n : Nat) (c : RedChunk) (s : State) : State :=
  updSeg l n (fun g => { g with chunks := g.chunks.filter (·.idx ≠ c.idx) ++ [c] }) s

/-- Whether a sender has sent every block of a chunk in a pass. -/
def gotFrom (g : RedSegment) (i d : Nat) (fr : List (Nat × Nat)) : Bool := fr.any fun e => e.1 == d && decide (g.chunkLen i ≤ e.2)

/-- Whether every child has sent every block of a chunk in a pass. -/
def allFrom (g : RedSegment) (i : Nat) (fr : List (Nat × Nat)) : Bool := g.children.all fun d => gotFrom g i d fr

/-- A chunk starts: the device reads its own held blocks (R317, R327, R329). -/
def startChunk (l n i : Nat) (g : RedSegment) (s : State) : State :=
  let c := (s.red l).ctx
  let len := g.chunkLen i
  let a := g.src + 33 * 256 * i
  let t := localTarget a (33 * len)
  let (s, ok) := contextAccess c t a (33 * len) false s
  if !ok then endSegment l n Code.REFUSED s
  else
    let (s, own, marks) := readMarked t (33 * len) 0 s
    let s := bumpBy Reg.RED_BLOCKS len s
    let bad := (List.range len).filter fun j => marks.any fun m => m.1 < 33 * j + 33 ∧ 33 * j < m.1 + m.2
    let ch := (s.redSeg l n).getD g |>.chunk i
    let es := (List.range len).map fun j => (heldCodes own j).foldl (fun a x => max a (exOf x)) 1
    let s := putChunk l n { ch with
      started := true
      own := own
      bad := bad.foldl (fun acc b => insertMark b acc) ch.bad
      up := List.zipWith max ch.up es } s
    let s := updSeg l n (fun g => { g with next := i + 1, poisoned := g.poisoned || !bad.isEmpty }) s
    if bad.isEmpty || g.posted then s
    else postContained 0x0070 .red c (l + n * 4096) (updSeg l n (fun g => { g with posted := true }) s)

/-- The exponents of a chunk are known: they go to the children, and the non-finite blocks are noted (R321). -/
def takeExps (l n : Nat) (ch : RedChunk) (es : List Nat) (s : State) : State :=
  let s := putChunk l n { ch with exps := some es } s
  let s := forEach es.zipIdx (fun (e, j) s => when (e = 255) (noteNf l n (256 * ch.idx + j) 0) s) s
  match s.redSeg l n with
  | none => s
  | some g => forEach g.children (fun d s => sendPass l n d ch.idx Pass.EXP_DOWN (expParts es (ch.bad ++ ch.expBad)) s) s

/-- A block's result written at the root, poisoned where the block is (R320, R321, R327); a refused write ends the
segment. -/
def writeResult (l n : Nat) (g : RedSegment) (i j e : Nat) (row : List Int) (bad : Bool) (s : State) : State :=
  let codes := row.map (laneResult e)
  let a := g.dst + 128 * (256 * i + j)
  let data := codes.flatMap (bytesOf 4)
  let r := s.red l
  let s := when (e ≠ 255 && codes.any fun x => x / 2 ^ 23 % 256 == 255) (noteNf l n (256 * i + j) 1) s
  let t := localTarget a 128
  let (s, ok) := contextAccess r.ctx t a 128 true s
  if !ok then endSegment l n Code.REFUSED s
  else
    let (s, c, op) := asOp (writeMarked t data (if bad then [(0, 128)] else []) 0 r.ctx r.epoch) s
    let s := match op with
      | some id => waitFor id none c (.result l n) (updSeg l n (fun g => { g with writes := g.writes ++ [id] }) s)
      | none => s
    if c = Code.DONE then fingerprint r.ctx a data s else endSegment l n c s

/-- The sums of a chunk are complete: the total goes to the parent, or the root writes it (R323). -/
def finishChunk (l n : Nat) (g : RedSegment) (ch : RedChunk) (es : List Nat) (s : State) : State :=
  let rows := es.zipIdx.map fun (e, j) =>
    (ch.sums.filter (·.1 = j)).foldl (fun row x => joinLanes e row x.2) (ownLanes e (heldCodes ch.own j))
  let s := match g.parent with
    | some p => sendPass l n p ch.idx Pass.SUM (sumParts rows ch.bad) s
    | none => forEach (List.zip es rows).zipIdx (fun ((e, row), j) s =>
        if ((s.redSeg l n).bind (·.code)).isSome then s else writeResult l n g ch.idx j e row (ch.bad.contains j) s) s
  updSeg l n (fun g => { g with finished := g.finished + 1, chunks := g.chunks.filter (·.idx ≠ ch.idx) }) s

/-- Everything that chunk `i` can do now (R323). A read of held blocks waits while their pair is being cleared (R50). -/
def advanceChunk (l n i : Nat) (s : State) : State :=
  let live (s : State) : Option RedSegment := (s.redSeg l n).filter fun g => g.code.isNone
  let s := match live s with
    | some g =>
      if g.next = i ∧ g.next - g.finished ≤ s.fld Reg.RED_CTRL F.RED_CTRL_WINDOW ∧
          !s.rangeClears (g.src + 33 * 256 * i) (33 * g.chunkLen i) then startChunk l n i g s
      else s
    | none => s
  let s := match live s with
    | some g =>
      let ch := g.chunk i
      if ch.started && !ch.upSent && allFrom g i ch.upFrom then
        let ch := { ch with upSent := true }
        match g.parent with
        | some p => sendPass l n p i Pass.EXP_UP (expParts ch.up (ch.bad ++ ch.expBad)) (putChunk l n ch s)
        | none => takeExps l n ch ch.up s
      else s
    | none => s
  let s := match live s with
    | some g =>
      let ch := g.chunk i
      if ch.started && ch.exps.isNone && g.parent.isSome && ch.down.length == g.chunkLen i then takeExps l n ch ch.down s else s
    | none => s
  match live s with
  | some g =>
    let ch := g.chunk i
    (match ch.exps with
      | some es => if allFrom g i ch.sumFrom then finishChunk l n g ch es s else s
      | none => s)
  | none => s

/-- Everything that a segment can do now, its chunks in ascending order. -/
def advanceSegment (l n : Nat) (s : State) : State :=
  match s.redSeg l n with
  | none => s
  | some g =>
    let todo := (List.range (ceilDiv g.blocks 256)).filter fun i => !g.chunkDone i
    checkSegment l n (forEach todo (fun i s => advanceChunk l n i s) s)

/-- Every segment that runs does what it can do now. -/
def advanceReductions (s : State) : State :=
  forEach s.reds (fun e s => forEach e.2.segs (fun g s => advanceSegment e.1 g.seg s) s) s

/-! ### Receiving (R325, R326) -/

/-- What a reduce packet carries joins its chunk; answers whether every block of the pass has now come from the sender. Nothing more is
kept for a segment that has ended or never existed, nor for a finished chunk. -/
def absorb (l n dev i blk pass : Nat) (data : List Byte) (poison : Bool) (s : State) : State × Bool :=
  match (s.redSeg l n).filter fun g => g.code.isNone && !g.chunkDone i with
  | none => (s, true)
  | some g =>
    let ch := g.chunk i
    let k := if pass = Pass.SUM then 1 else data.length
    let mark (ch : RedChunk) : RedChunk :=
      if !poison then ch
      else if pass = Pass.SUM then { ch with bad := insertMark blk ch.bad }
      else { ch with expBad := (List.range k).foldl (fun acc j => insertMark (blk + j) acc) ch.expBad }
    let count (fr : List (Nat × Nat)) : List (Nat × Nat) :=
      let m := ((fr.find? (·.1 = dev)).map (·.2)).getD 0
      fr.filter (·.1 ≠ dev) ++ [(dev, m + k)]
    let ch' : RedChunk :=
      if pass = Pass.EXP_UP then
        { ch with
          up := ch.up.zipIdx.map fun (e, j) => if blk ≤ j ∧ j < blk + k then max e ((data.getD (j - blk) 0).toNat) else e
          upFrom := count ch.upFrom }
      else if pass = Pass.EXP_DOWN then { ch with down := splice ch.down blk (data.map (·.toNat)) }
      else { ch with
        sums := ch.sums ++ [(blk, (List.range 32).map fun j => signed 48 (field data (6 * j) 6))]
        sumFrom := count ch.sumFrom }
    let s := putChunk l n (mark ch') s
    let s := when poison (updSeg l n fun g => { g with poisoned := true }) s
    (s, if pass = Pass.EXP_UP then gotFrom g i dev ch'.upFrom
      else if pass = Pass.EXP_DOWN then decide (g.chunkLen i ≤ ch'.down.length)
      else gotFrom g i dev ch'.sumFrom)

/-- The fields of a reduce packet's ADDR (R324): layer, segment, chunk, block, pass. -/
def redFields (pk : Packet) : Nat × Nat × Nat × Nat × Nat :=
  let a := pk.addr.toNat
  (bits a 47 36, bits a 35 28, bits a 27 12, bits a 11 4, bits a 3 2)

/-- The descriptor of segment `n` of a layer entry. -/
def State.segDesc (s : State) (e : List Byte) (n : Nat) : Option (List Byte) :=
  ((List.range (min 256 (field e 2 2))).map fun i => s.tableBytes (field e 8 8 + 64 * i) 64).find? fun d => field d 42 1 = n

/-- The child ranks of a descriptor. -/
def descChildren (d : List Byte) : List Nat :=
  ((List.range 7).map fun i => field d (24 + 2 * i) 2).filter (· ≠ 0xFFFF)

/-- Whether a reduce packet of pass `want` that has passed steps 1 to 3 of R270 passes R326. -/
def State.redAccepts (s : State) (pk : Packet) (want : Nat) (rank : Option Nat) : Bool :=
  let (l, n, _, _, pass) := redFields pk
  let d := s.ctxDomain pk.ctx.toNat
  let e := s.layerEntry l
  pass == want && decide (l < s.fld Reg.RED_LT F.RED_LT_COUNT) && entryValid e && entryCtx e == pk.ctx.toNat &&
    field pk.payload 0 5 == tideStep (s.tide d) && s.phase d != Phase.PAUSE &&
    (match s.segDesc e n, rank with
      | some sd, some r => if pass = Pass.EXP_DOWN then field sd 22 2 == r else (descChildren sd).contains r
      | _, _ => false)

/-- Whether a packet is the request of its chunk and pass (R325): its last block is the chunk's last. -/
def State.redLast (s : State) (pk : Packet) : Bool :=
  let (l, n, i, blk, pass) := redFields pk
  match s.segDesc (s.layerEntry l) n with
  | some sd =>
    let len := min 256 (field sd 16 4 - 256 * i)
    blk + (if pass = Pass.SUM then 1 else pk.payload.length - 8) == len
  | none => true

/-- Whether a reduce packet is well formed (R269, R324). -/
def reduceOk (pk : Packet) : Bool :=
  packetOk pk && pk.cls.toNat == Cls.REDUCE && pk.addr.toNat % 4 == 0 && field pk.payload 5 3 == 0

/-- A reduce packet that fails R326: it is discarded with LATE_PACKET, and a request completes with REFUSED. Where the running segment
expects the packet's sender but the current rank map does not, the segment ends with TIMEOUT (R355), at once (DESIGN CHOICE, log 62). -/
def lateReduce (pk : Packet) (s : State) : State :=
  let (l, n, _, _, _) := redFields pk
  let s := when (s.redLast pk) (complete pk Code.REFUSED 0 0) (raise Reg.RED_STATUS F.RED_STATUS_LATE_PACKET s)
  match s.redSeg l n with
  | some g =>
    if (s.red l).ctx = pk.ctx.toNat ∧ (s.red l).step = field pk.payload 0 5 ∧ (g.parent.toList ++ g.children).contains pk.src.toNat ∧
        s.phase (s.ctxDomain pk.ctx.toNat) ≠ Phase.PAUSE then endSegment l n Code.TIMEOUT s
    else s
  | none => s

/-- A reduce packet that has passed R326 joins its segment, or waits for the reduction to start; it is answered where it is a request
whose pass has come whole (R325). -/
def takeReduce (pk : Packet) (s : State) : State :=
  let (l, n, i, blk, pass) := redFields pk
  let r := s.red l
  if r.step = field pk.payload 0 5 ∧ r.state ≠ RedSt.IDLE ∧ r.state ≠ RedSt.WAITING then
    let (s, whole) := absorb l n pk.src.toNat i blk pass (pk.payload.drop 8) pk.poison s
    advanceSegment l n (when (whole && s.redLast pk) (complete pk Code.DONE 0 0) s)
  else when (s.redLast pk) (complete pk Code.DONE 0 0) (setRed l { r with early := r.early ++ [pk] } s)

/-- A reduce packet of a pass: R269, steps 1 to 3 of R270, then R326. -/
def reducePacket (pass : Nat) (pk : Packet) (s : State) : State :=
  if !reduceOk pk then refusePacket pk (packetReserved pk s)
  else match s.destCheck pk.ctx.toNat pk.epoch.toNat with
    | some c => when (s.redLast pk) (complete pk c 0 0) s
    | none =>
      let (s, rank) := rankOfDevice (s.ctxDomain pk.ctx.toNat) pk.src.toNat s
      if s.redAccepts pk pass rank then takeReduce pk s else lateReduce pk s

/-- EXP_UP (R323). -/
def execExpUp (p : Fin 32) (pk : Packet) (s : State) : Outcome State Fault Refusal :=
  .next (receive p.val pk Op.UNIT (refusePacket pk) (reducePacket Pass.EXP_UP pk) s)

/-- EXP_DOWN (R323). -/
def execExpDown (p : Fin 32) (pk : Packet) (s : State) : Outcome State Fault Refusal :=
  .next (receive p.val pk Op.UNIT (refusePacket pk) (reducePacket Pass.EXP_DOWN pk) s)

/-- SUM (R323). -/
def execSum (p : Fin 32) (pk : Packet) (s : State) : Outcome State Fault Refusal :=
  .next (receive p.val pk Op.UNIT (refusePacket pk) (reducePacket Pass.SUM pk) s)

/-- The answer to a request of a reduction (R328, R329). One of an earlier record of the layer is not looked at. -/
def reduceAnswer (l n tag code : Nat) (s : State) : State :=
  match (s.redSeg l n).filter fun g => g.asked.contains tag with
  | none => s
  | some _ =>
    let s := updSeg l n (fun g => { g with waits := g.waits.filter (· ≠ tag) }) s
    if code = Code.DONE then checkSegment l n s else endSegment l n code s

/-- A held result write of a segment is complete, or has failed (R328, R235). -/
def resultDone (l n op code : Nat) (s : State) : State :=
  match (s.redSeg l n).filter fun g => g.writes.contains op with
  | none => s
  | some _ =>
    let s := updSeg l n (fun g => { g with writes := g.writes.filter (· ≠ op) }) s
    if code = Code.DONE then checkSegment l n s else endSegment l n code s

/-! ### Starting (R317, R319) -/

/-- Whether an entry's reserved fields and codes are as R315 asks. -/
def entryOk (e : List Byte) : Bool :=
  bits (field e 0 2) 14 12 == 0 && decide (1 ≤ field e 2 2) && decide (field e 2 2 ≤ 256) && field e 4 4 == 0 &&
    field e 8 8 % 64 == 0 && field e 16 18 / 2 ^ 144 == 0 && field e 34 30 == 0

/-- Whether a descriptor's reserved fields and codes are as R318 asks. -/
def segOk (d : List Byte) : Bool :=
  field d 8 8 % 64 == 0 && decide (1 ≤ field d 16 4) && decide (field d 16 4 ≤ 16777216) && field d 43 21 == 0

/-- Address of a shard entry (R331). -/
def State.shardAddr (s : State) (k : Nat) : Nat := s.fld Reg.UPD_TABLE F.UPD_TABLE_BASE * 256 + 256 * k
/-- The 256 bytes of a shard entry. -/
def State.shardEntry (s : State) (k : Nat) : List Byte := s.tableBytes (s.shardAddr k) 256
/-- The shard entries of the table, with their numbers. -/
def State.shards (s : State) : List (Nat × List Byte) :=
  (List.range (s.fld Reg.UPD_TABLE F.UPD_TABLE_COUNT)).map fun k => (k, s.shardEntry k)
def shardCtx (e : List Byte) : Nat := field e 0 2 % 4096
def shardEnabled (e : List Byte) : Bool := bit (field e 2 2) 0
/-- The enabled entries that name a shard for a context, in ascending order. -/
def State.shardsOf (s : State) (c id : Nat) : List (Nat × List Byte) :=
  s.shards.filter fun e => shardEnabled e.2 && shardCtx e.2 == c && field e.2 8 4 == id

/-- A segment as its descriptor gives it (R318), before its ranks are translated. -/
def newSegment (sd : List Byte) : RedSegment :=
  ⟨field sd 42 1, field sd 0 8, field sd 8 8, field sd 16 4, field sd 38 4, none, [], [], 0, 0, [], [], [], false, false, false, none⟩

/-- A segment finds its tree, and at the root its shard entry, or fails (R319, R331). -/
def startSegment (l : Nat) (sd : List Byte) (s : State) : State :=
  let r := s.red l
  let d := s.ctxDomain r.ctx
  let n := field sd 42 1
  let parentRank := field sd 22 2
  let root := decide (parentRank = 0xFFFF)
  let (s, owner) := translateRank d r.ctx (field sd 20 2) s
  let ranks := if root then descChildren sd else parentRank :: descChildren sd
  let (s, devs) := ranks.foldl (fun (s, acc) k =>
    let (s', x) := translateRank d r.ctx k s
    (s', acc ++ [x])) (s, ([] : List (Option Nat)))
  if owner = none || devs.any Option.isNone || root != (owner == some s.deviceId) then endSegment l n Code.REFUSED s
  else
    let own := s.shardsOf r.ctx (field sd 38 4)
    if root && own.isEmpty then endSegment l n Code.NOT_OWNER s
    else
      let devs := devs.map (·.getD 0)
      updSeg l n (fun g => { g with
        parent := if root then none else devs.head?
        children := if root then devs else devs.drop 1 })
        (when (root && decide (1 < own.length)) (raise Reg.UPD_STATUS F.UPD_STATUS_MULTI_MATCH) s)

/-- A read of the layer's table for its context (R317): the bytes, or the layer fails. -/
def readSched (l a n : Nat) (s : State) : State × Option (List Byte) :=
  let c := (s.red l).ctx
  let t := localTarget a n
  let (s, ok) := contextAccess c t a n false s
  if !ok then (noteFail l 0 Code.REFUSED (failLayer l Code.REFUSED s), none)
  else
    let (s, b, marks) := readMarked t n 0 s
    if marks = [] then (s, some b)
    else (postContained 0x0070 .red c l (noteFail l 0 Code.POISONED (failLayer l Code.POISONED s)), none)

/-- A reserved code in the layer's table (R24): the layer fails with REFUSED. -/
def schedReserved (l a : Nat) (s : State) : State :=
  reservedCode .red (s.red l).ctx a (noteFail l 0 Code.REFUSED (failLayer l Code.REFUSED s))

/-- The tiles whose LDONE a waiting record needs have all given it (R317). -/
def State.redReady (s : State) (l : Nat) : Bool :=
  let r := s.red l
  r.state == RedSt.WAITING && (entryTiles (s.layerEntry l)).all r.tiles.contains

/-- A layer whose descriptors have been read and found good: its segments start, packets that came early join them, and each does what it
can (R319, R323). Two descriptors that name one segment, which R318 excludes, count as the first. -/
def startLayer (l : Nat) (ds : List (List Byte)) (s : State) : State :=
  let r := s.red l
  let (early, rest) := r.early.partition fun pk => field pk.payload 0 5 = r.step
  let s := forEach ds (startSegment l) (setRed l { r with segs := ds.map newSegment, early := rest } s)
  let s := forEach early (fun pk s =>
    let (_, n, i, blk, pass) := redFields pk
    (absorb l n pk.src.toNat i blk pass (pk.payload.drop 8) pk.poison s).1) s
  forEach ds (fun d s => advanceSegment l (field d 42 1) s) s

/-- REDUCTION_START (R317, R319, R323). A layer that is not ready has no such event (log 6), nor has one whose table lies in a pair that
is being cleared (R50). -/
def execReductionStart (layer : BitVec 12) (s : State) : Outcome State Fault Refusal :=
  let l := layer.toNat
  let a := s.layerAddr l
  let e := s.layerEntry l
  if !s.redReady l || s.rangeClears a 64 || s.rangeClears (field e 8 8) (64 * field e 2 2) then .next s
  else
    let (s, e) := readSched l a 64 (setRed l { s.red l with state := RedSt.RUNNING } s)
    match e with
    | none => .next (settle s)
    | some e =>
      if !entryOk e then .next (settle (schedReserved l a s))
      else
        let (s, ds) := readSched l (field e 8 8) (64 * field e 2 2) s
        match ds with
        | none => .next (settle s)
        | some b =>
          let ds := (List.range (field e 2 2)).map fun i => (b.drop (64 * i)).take 64
          match ds.findIdx? (fun d => !segOk d) with
          | some i => .next (settle (schedReserved l (field e 8 8 + 64 * i) s))
          | none => .next (settle (startLayer l ds s))

/-! ### What the tide and contexts do to reductions -/

/-- A record discarded, with the requests of its segments. -/
def dropRed (l : Nat) (s : State) : State :=
  let s := { s with opens := s.opens.filter fun o => match o.purpose with | .reduce l' _ => l' ≠ l | _ => true }
  setRed l { RedLayer.init with early := (s.red l).early } s

/-- Leaving PAUSE or REPLAY discards every record of the domain's STEP (R330), with the packets of that step that came before their
record started; `step` none: every record of the domain (R554). -/
def discardReds (d : Nat) (step : Option Nat) (s : State) : State :=
  let old (pk : Packet) : Bool := s.ctxDomain pk.ctx.toNat == d && (step == none || step == some (field pk.payload 0 5))
  let s := forEach (s.reds.filter fun e => e.2.early.any old)
    (fun e s => setRed e.1 { s.red e.1 with early := (s.red e.1).early.filter fun pk => !old pk } s) s
  forEach (s.reds.filter fun e => s.ctxDomain e.2.ctx == d && (step == none || step == some e.2.step))
    (fun e s => dropRed e.1 s) s

/-- The context's epoch changes: its running segments fail with EPOCH_STALE and its records are discarded (R329, R488). -/
def redsForEpoch (c : Nat) (s : State) : State :=
  forEach (s.reds.filter fun e => e.2.ctx == c && e.2.state != RedSt.IDLE) (fun e s =>
    let s := forEach (e.2.segs.filter fun g => g.code.isNone) (fun g s => endSegment e.1 g.seg Code.EPOCH_STALE s) s
    dropRed e.1 s)
    (forEach (s.reds.filter fun e => e.2.early.any fun pk => pk.ctx.toNat = c)
      (fun e s => setRed e.1 { s.red e.1 with early := (s.red e.1).early.filter fun pk => pk.ctx.toNat ≠ c } s) s)

/-- RED_DONE of domain `d` for a step (R328): every VALID layer entry of the domain has completed. -/
def State.redDone (s : State) (d step : Nat) : Bool :=
  !s.memRefuses && (List.range (s.fld Reg.RED_LT F.RED_LT_COUNT)).all fun l =>
    let e := s.layerEntry l
    !entryValid e || s.ctxDomain (entryCtx e) != d || s.layerDone l step

/-- What RED_LSTATE reads for the layer that RED_LSEL selects. -/
def State.redLstate (s : State) : Word :=
  let r := s.red (s.fld Reg.RED_LSEL F.RED_LSEL_LAYER)
  BitVec.ofNat 64 (r.step * 2 ^ 24 + r.tiles.length * 2 ^ 16 + r.code * 256 + r.state)

end Sys2Proof.Machine
end

