-- ==== Sys2Proof/Machine/Stage.lean ====
section
/-! DEFINITION. Stages, stage ports and weight versions (chapter 09): entries and their places (R290 to R305), micro-batch
counts (R306, R307), the version table (R308 to R310), readiness (R311), and halts (R312). -/
namespace Sys2Proof.Machine

open Host (Outcome)

def State.stagePort (s : State) (p : Nat) : StagePort := Store.lookup (fun _ => StagePort.init) s.stagePorts p
def setStagePort (p : Nat) (x : StagePort) (s : State) : State :=
  { s with stagePorts := Store.update (fun _ => StagePort.init) s.stagePorts p x }

namespace StgSt
def DISABLED : Nat := 0
def ACTIVE : Nat := 1
def HALTED : Nat := 2
end StgSt

/-! ### What a port's registers say -/

def State.stgState (s : State) (p : Nat) : Nat := s.fld (Reg.STG_P_STATUS p) F.STG_P_STATUS_STATE
def State.stgStage (s : State) (p : Nat) : Nat := s.fld (Reg.STG_P_CTRL p) F.STG_P_CTRL_STAGE
def State.stgInbound (s : State) (p : Nat) : Bool := !s.on (Reg.STG_P_CTRL p) F.STG_P_CTRL_DIR
/-- The context of a port: its stage's. -/
def State.stgCtx (s : State) (p : Nat) : Nat := s.fld (Reg.STG_S_CTRL (s.stgStage p)) F.STG_S_CTRL_CONTEXT
def State.stgTile (s : State) (p : Nat) : Nat := s.fld (Reg.STG_P_CTRL p) F.STG_P_CTRL_TILE
/-- Bytes of one slot, 64 x (MAX_LEN + 1). -/
def State.slotBytes (s : State) (p : Nat) : Nat := 64 * (s.fld (Reg.STG_P_CTRL p) F.STG_P_CTRL_MAX_LEN + 1)
def State.landSlots (s : State) (p : Nat) : Nat := s.fld (Reg.STG_P_CTRL p) F.STG_P_CTRL_LAND_SLOTS + 1
def State.spillSlots (s : State) (p : Nat) : Nat := s.fld (Reg.STG_P_SPILL p) F.STG_P_SPILL_SLOTS
/-- The capacity C of an inbound port. -/
def State.stgCapacity (s : State) (p : Nat) : Nat := s.landSlots p + s.spillSlots p
/-- Tile-memory offset of a landing slot (R297). -/
def State.landOff (s : State) (p slot : Nat) : Nat := 64 * s.fld (Reg.STG_P_CTRL p) F.STG_P_CTRL_LAND_BASE + slot * s.slotBytes p
/-- HBM address of a spill slot. -/
def State.spillAddr (s : State) (p n : Nat) : Nat :=
  s.fld (Reg.STG_P_SPILL p) F.STG_P_SPILL_BASE + n % max 1 (s.spillSlots p) * s.slotBytes p
def State.stgHold (s : State) (p : Nat) : Nat := s.fld (Reg.STG_P_CTRL p) F.STG_P_CTRL_HOLD + 1
def State.stgCredits (s : State) (p : Nat) : Nat := s.fld (Reg.STG_P_STATUS p) F.STG_P_STATUS_CREDITS
def State.stgPeer (s : State) (p : Nat) : Nat := s.fld (Reg.STG_P_STATUS p) F.STG_P_STATUS_PEER_DEVICE
def State.stgPeerPort (s : State) (p : Nat) : Nat := s.fld (Reg.STG_P_PEER p) F.STG_P_PEER_PEER_PORT

/-- Fields of an entry descriptor (R294). -/
def descVer (d : Word) : Nat := bits d.toNat 47 45
def descPart (d : Word) : Nat := bits d.toNat 43 36
def descLen (d : Word) : Nat := d.toNat % 4096
/-- Payload bytes of an entry. -/
def descBytes (d : Word) : Nat := 64 * (descLen d + 1)
/-- A descriptor with SLOT set. -/
def descAtSlot (d : Word) (slot : Nat) : Word := d.put ⟨15, 12⟩ slot

/-- Entries that a port holds, untaken or spilled (its watermark's level, R304). -/
def State.stgLevel (s : State) (p : Nat) : Nat :=
  let x := s.stagePort p
  x.held.length + x.landed.length + x.spilled.length + x.parked.length

/-- HELD, SPILL_LEVEL and the watermark follow the port. -/
def showStage (p : Nat) (s : State) : State :=
  let x := s.stagePort p
  let r := Reg.STG_P_STATUS p
  let s := put r F.STG_P_STATUS_HELD x.held.length (put r F.STG_P_STATUS_SPILL_LEVEL x.spilled.length s)
  if s.fld (Reg.STG_P_WM p) F.STG_P_WM_LEVEL = s.stgLevel p then s else wmLevel (Reg.STG_P_WM p) (s.stgLevel p) id s

def putStage (p : Nat) (x : StagePort) (s : State) : State := showStage p (setStagePort p x s)

/-- The ports that context port `n` of context `c` names, in ascending order (R292). -/
def State.stagePortsOf (s : State) (c n : Nat) : List Nat :=
  (List.range 256).filter fun p =>
    s.stgState p == StgSt.ACTIVE && s.on (Reg.STG_S_CTRL (s.stgStage p)) F.STG_S_CTRL_VALID && s.stgCtx p == c &&
      s.fld (Reg.STG_P_CTRL p) F.STG_P_CTRL_CTXP == n

/-- The port that an instruction of logical tile `l` uses, in a direction (R292); `none` raises STAGE_PORT. -/
def State.stagePortFor (s : State) (c n l : Nat) (inbound : Bool) : Option Nat :=
  match s.stagePortsOf c n with
  | p :: _ => if s.stgInbound p = inbound ∧ s.stgTile p = l then some p else none
  | [] => none

/-- MULTI_MATCH of a context port number (R292). -/
def noteStagePorts (c n : Nat) (s : State) : State :=
  when (decide (1 < (s.stagePortsOf c n).length)) (raise Reg.STG_STATUS F.STG_STATUS_MULTI_MATCH) s

/-! ### Halts (R312) -/

/-- The slot of the bundle held on physical tile `t` that waits on stage port `p` (R292): the move slot, else the control slot. -/
def State.heldOn (s : State) (t p : Nat) : Option Nat :=
  match s.tileCtx t, (s.tile t).held with
  | some c, some b =>
    let uses (g : Guard) (x : Fin 32) (inbound : Bool) : Bool :=
      s.guard t g && s.stagePortFor c (s.sreg t x.val % 64) (s.logical t) inbound == some p
    let mov := match b.mov with
      | .sget _ x => uses b.gw x true
      | .sput d _ _ => uses b.gw d false
      | _ => false
    let ctl := match b.ctl with
      | .cwait _ a _ _ => uses b.gc a false
      | _ => false
    if mov then some 3 else if ctl then some 0 else none
  | _, _ => none

/-- A bundle that is held on a port which halts raises STAGE_PORT (R292, R140). -/
def faultHeld (p : Nat) (s : State) : State :=
  let t := s.phys (s.stgTile p)
  match s.heldOn t p with
  | some slot => tileFault t 0x09 slot (s.tpc t) false s
  | none => s

/-- A port enters HALTED with a code; `posts` says whether an entry is posted (not for an epoch change). Its partial entry
is discarded. -/
def haltPort (p code : Nat) (posts : Bool) (s : State) : State :=
  if s.stgState p ≠ StgSt.ACTIVE then s
  else
    let k := s.stgStage p
    let c := s.stgCtx p
    let rank := s.fld (Reg.STG_S_CTRL k) F.STG_S_CTRL_PIPE_RANK
    let r := Reg.STG_P_STATUS p
    let s := faultHeld p s
    let s := put r F.STG_P_STATUS_LAST_CODE code (put r F.STG_P_STATUS_STATE StgSt.HALTED s)
    let s := setStagePort p { s.stagePort p with arriving := none } (raise Reg.STG_STATUS F.STG_STATUS_PORT_HALT s)
    when posts (postContained 0x0060 .stg c (p + code * 256 + rank * 65536)) s

/-- A port's entries discarded and its counts zero (R304, R312). -/
def clearPort (p : Nat) (s : State) : State :=
  let r := Reg.STG_P_STATUS p
  let s := put r F.STG_P_STATUS_CREDITS 0 (put r F.STG_P_STATUS_OUTSTANDING 0 s)
  putStage p StagePort.init s

/-- The ports of a context halt because its epoch changed, and those that are HALTED already lose their entries too: no entry is posted
(R312, R488). -/
def haltForEpoch (c : Nat) (s : State) : State :=
  forEach ((List.range 256).filter fun p => s.stgState p != StgSt.DISABLED && s.stgCtx p == c)
    (fun p s => clearPort p (haltPort p Code.EPOCH_STALE false s)) s

/-! ### Micro-batches in flight (R306, R307) -/

def State.version (s : State) (l v : Nat) : Version := Store.lookup (fun _ => Version.init) s.versions (8 * l + v)
def setVersion (l v : Nat) (x : Version) (s : State) : State :=
  { s with versions := Store.update (fun _ => Version.init) s.versions (8 * l + v) x }

namespace VerSt
def FREE : Nat := 0
def FILLING : Nat := 1
def LIVE : Nat := 2
def RETIRING : Nat := 3
end VerSt

/-- The layers of stage `k` (R290). -/
def State.stageLayers (s : State) (k : Nat) : List Nat :=
  let lo := s.fld (Reg.STG_S_CTRL k) F.STG_S_CTRL_LAYER_LO
  let hi := s.fld (Reg.STG_S_CTRL k) F.STG_S_CTRL_LAYER_HI
  (List.range (hi + 1 - lo)).map (lo + ·)

def State.inflight (s : State) (k : Nat) : Nat := s.fld (Reg.STG_S_STATUS k) F.STG_S_STATUS_INFLIGHT

/-- REF_ACQUIRE (R306). -/
def acquire (k v : Nat) (s : State) : State :=
  let c := s.fld (Reg.STG_S_CTRL k) F.STG_S_CTRL_CONTEXT
  let s := put (Reg.STG_S_STATUS k) F.STG_S_STATUS_INFLIGHT (s.inflight k + 1) s
  forEach (s.stageLayers k) (fun l s =>
    let x := s.version l v
    if x.ctx ≠ c then raise Reg.STG_STATUS F.STG_STATUS_VER_NOT_LIVE s
    else
      let s := when (x.state ≠ VerSt.LIVE) (raise Reg.STG_STATUS F.STG_STATUS_VER_NOT_LIVE) s
      if x.refs = 0xFFFF then raise Reg.STG_STATUS F.STG_STATUS_REF_OVERFLOW s
      else setVersion l v { x with refs := x.refs + 1 } s) s

/-- REF_RELEASE (R307). -/
def release (k v : Nat) (s : State) : State :=
  let c := s.fld (Reg.STG_S_CTRL k) F.STG_S_CTRL_CONTEXT
  let n := s.inflight k
  let s := if n = 0 then raise Reg.STG_STATUS F.STG_STATUS_REF_UNDERFLOW s
    else put (Reg.STG_S_STATUS k) F.STG_S_STATUS_INFLIGHT (n - 1) s
  forEach (s.stageLayers k) (fun l s =>
    let x := s.version l v
    if x.ctx ≠ c then s
    else if x.refs = 0 then raise Reg.STG_STATUS F.STG_STATUS_REF_UNDERFLOW s
    else setVersion l v { x with refs := x.refs - 1 } s) s

/-- The REF setting of a port applied to an entry (only to PART 0). -/
def countEntry (p : Nat) (d : Word) (s : State) : State :=
  if descPart d ≠ 0 then s
  else match s.fld (Reg.STG_P_CTRL p) F.STG_P_CTRL_REF with
    | 1 => acquire (s.stgStage p) (descVer d) s
    | 2 => release (s.stgStage p) (descVer d) s
    | _ => s

/-- Whether R306 holds an instruction on this entry: it would acquire a 257th micro-batch. -/
def State.acquireWaits (s : State) (p : Nat) (d : Word) : Bool :=
  descPart d == 0 && s.fld (Reg.STG_P_CTRL p) F.STG_P_CTRL_REF == 1 && decide (256 ≤ s.inflight (s.stgStage p))

/-! ### Places (R299) -/

/-- Whether the next landing slot can take an entry: a slot is free and the context is resident on the port's tile
(R484). -/
def State.canLand (s : State) (p : Nat) : Bool :=
  let x := s.stagePort p
  decide (x.held.length + x.landed.length < s.landSlots p) && s.tileCtx (s.phys (s.stgTile p)) == some (s.stgCtx p)

/-- An entry written into the next landing slot, in rotation. -/
def landEntry (p : Nat) (d : Word) (data : List Byte) (marks : List (Nat × Nat)) (s : State) : State :=
  let x := s.stagePort p
  let slot := x.landedCount % s.landSlots p
  let (s, _) := writeMarked (.tile (s.stgTile p) (s.landOff p slot)) data marks 0 (s.stgCtx p) 0 s
  let x := s.stagePort p
  putStage p { x with landed := x.landed ++ [descAtSlot d slot], landedCount := x.landedCount + 1 } s

/-- An entry written at the tail of the spill ring, where the context may write there (R479, R221). Answers the code of the write. -/
def spillEntry (p : Nat) (a : Arrival) (s : State) : State × Nat :=
  let c := s.stgCtx p
  let at' := s.spillAddr p (s.stagePort p).spillTail
  let (s, ok) := contextAccess c (.hbm at') at' (descBytes a.desc) true s
  if !ok then (s, Code.REFUSED)
  else
    let (s, code) := writeMarked (.hbm at') a.data a.poison 0 c (s.epoch c) s
    if code ≠ Code.DONE then (s, code)
    else
      let x := s.stagePort p
      (putStage p { x with spilled := x.spilled ++ [a.desc], spillTail := x.spillTail + 1 } (bump (Reg.STG_P_SPILLED p) s), code)

/-- The COMPLETION of an entry's HEAD (R305), to a sender on another device. -/
def answerHead (p : Nat) (a : Arrival) (code : Nat) (s : State) : State :=
  let pk := mkPacket s a.src (s.stgCtx p) a.epoch Cls.STAGE Op.COMPLETION a.tag 0 0 []
  (routeSend .answer { pk with code := BitVec.ofNat 8 code } s).1

/-- An outbound port's entry is done: OUTSTANDING falls. -/
def sputDone (p : Nat) (s : State) : State :=
  let r := Reg.STG_P_STATUS p
  put r F.STG_P_STATUS_OUTSTANDING (s.fld r F.STG_P_STATUS_OUTSTANDING - 1) s

/-- A HEAD ends at its sender (R271, R312): DONE, or the port halts. -/
def headAnswer (p code : Nat) (s : State) : State :=
  if code = Code.DONE then sputDone p s else haltPort p code true (sputDone p s)

/-- An entry ends at its sender: on this device the outbound port, elsewhere the HEAD. -/
def endEntry (p src tag epoch code : Nat) (s : State) : State :=
  if src = s.deviceId then headAnswer tag code s else answerHead p ⟨0, tag, src, epoch, [], []⟩ code s

/-- A whole entry takes its place (R299): the next landing slot while nothing is spilled, else the ring's tail; while neither has
room, because the context is away, it stays where it arrived, and so do those behind it (R302, R484). Its sender hears once it is
written. An entry whose place in the ring is refused finds none (R312). -/
def placeEntry (p : Nat) (a : Arrival) (s : State) : State :=
  let x := s.stagePort p
  let land := x.spilled == [] && s.canLand p
  if x.parked ≠ [] || !(land || decide (x.spilled.length < s.spillSlots p)) then
    putStage p { x with parked := x.parked ++ [a] } s
  else
    let (s, code, op) := asOp (fun s =>
      if land then (landEntry p a.desc a.data a.poison s, Code.DONE) else spillEntry p a s) s
    match op with
    | some id => waitFor id none code (.entry p a.src a.tag a.epoch) s
    | none => endEntry p a.src a.tag a.epoch code (when (code ≠ Code.DONE) (haltPort p code true) s)

/-- The entries that stay where they arrived take their places, as far as there is room (R299, R484). -/
def unpark (p : Nat) (s : State) : State :=
  forEach (s.stagePort p).parked (placeEntry p) (setStagePort p { s.stagePort p with parked := [] } s)

/-- The peer outbound port of an inbound port hears of a credit: over the fabric, or on this device (shown as port 32). -/
def sendToPeer (p : Nat) (f : Frame) (s : State) : State :=
  if s.fatal then s
  else if s.stgPeer p = s.deviceId then emit (.frame 32 f) s else frameTo (s.stgPeer p) f s

/-- The oldest held entry is released: its slot is free and one credit returns, unless the context is quarantined (R298,
R477). -/
def releaseOldest (p : Nat) (s : State) : State :=
  let x := s.stagePort p
  let s := unpark p (putStage p { x with held := x.held.drop 1 } s)
  when (s.ctxState (s.stgCtx p) == CtxState.ACTIVE) (sendToPeer p (.credit (s.stgPeer p) (s.stgPeerPort p))) s

/-- SGET takes the head entry (R297): at HOLD entries the oldest is released first. Answers the descriptor. -/
def takeEntry (p : Nat) (s : State) : State × Word :=
  let s := when (decide (s.stgHold p ≤ (s.stagePort p).held.length)) (releaseOldest p) s
  let x := s.stagePort p
  let d := x.landed.headD 0
  (countEntry p d (putStage p { x with held := x.held ++ [d], landed := x.landed.drop 1 } s), d)

/-- SGET with FREE 1 (R297). -/
def freeEntry (p : Nat) (s : State) : State :=
  if (s.stagePort p).held = [] then raise Reg.STG_STATUS F.STG_STATUS_RELEASE_EMPTY s else releaseOldest p s

/-- The ADDR of a stage UNIT packet (R305). -/
def stageAddr (dport : Nat) (head : Bool) (seq : Nat) : Nat := dport * 2 ^ 32 + (if head then 2048 else 0) + seq % 2048

/-- SPUT sends an entry (R295, R296, R305): one credit is consumed, OUTSTANDING counts it, and it travels to the peer, on
this device as one entry, over the fabric as a HEAD and DATA packets. -/
def sendEntry (p : Nat) (d : Word) (data : List Byte) (marks : List (Nat × Nat)) (s : State) : State :=
  let r := Reg.STG_P_STATUS p
  let c := s.stgCtx p
  let s := countEntry p d s
  let s := put r F.STG_P_STATUS_CREDITS (s.stgCredits p - 1) s
  let s := bump (Reg.STG_P_ENTRIES p) (put r F.STG_P_STATUS_OUTSTANDING (s.fld r F.STG_P_STATUS_OUTSTANDING + 1) s)
  let dev := s.stgPeer p
  if dev = s.deviceId then
    let x := s.stagePort p
    setStagePort p { x with sending := x.sending ++ [⟨d, p, dev, s.epoch c, data, marks⟩] } s
  else
    let (s, t) := openReq dev c (s.epoch c) 0 0 (.stage p) s
    let x := s.stagePort p
    let rank := s.fld (Reg.STG_S_CTRL (s.stgStage p)) F.STG_S_CTRL_PIPE_RANK
    let head := mkPacket s dev c (s.epoch c) Cls.STAGE Op.UNIT t (stageAddr (s.stgPeerPort p) true x.seqOut) 15
      (bytesOf 8 d.toNat ++ bytesOf 2 rank ++ List.replicate 6 0)
    let n := ceilDiv data.length 256
    let s := setStagePort p { x with seqOut := (x.seqOut + 1 + n) % 2048 } s
    let (s, code) := sendRequest head s
    if code ≠ Code.DONE then headAnswer p code (closeReq t s)
    else forEach (List.range n) (fun i s =>
      let piece := (data.drop (256 * i)).take 256
      let pk := mkPacket s dev c (s.epoch c) Cls.STAGE Op.UNIT t (stageAddr (s.stgPeerPort p) false (x.seqOut + 1 + i))
        (piece.length - 1) piece
      let bad := marks.any fun m => m.1 < 256 * i + 256 ∧ 256 * i < m.1 + m.2
      (routeSend .answer { pk with poison := bad } s).1) s

/-- Whether a port can take an entry of this descriptor from a context (R312): it is an ACTIVE inbound port of that
context and the entry fits its slots. -/
def State.stageTakes (s : State) (p c : Nat) (d : Word) : Bool :=
  s.stgState p == StgSt.ACTIVE && s.stgInbound p && s.stgCtx p == c &&
    decide (descLen d ≤ s.fld (Reg.STG_P_CTRL p) F.STG_P_CTRL_MAX_LEN)

/-- STAGE_ENTRY_WRITTEN (R299, R312): the oldest entry that outbound port `p` sends on this device is checked by the peer
port, takes its place, and ends OUTSTANDING. -/
def execStageEntryWritten (p : Fin 256) (s : State) : Outcome State Fault Refusal :=
  let x := s.stagePort p.val
  match x.sending with
  | [] => .next s
  | a :: rest =>
    let q := s.stgPeerPort p.val
    let s := setStagePort p.val { x with sending := rest } s
    if s.stgState p.val ≠ StgSt.ACTIVE then .next s
    else if !s.stageTakes q (s.stgCtx p.val) a.desc then .next (settle (headAnswer p.val Code.REFUSED s))
    else if s.stgCapacity q ≤ s.stgLevel q then
      .next (settle (headAnswer p.val Code.REFUSED (haltPort q Code.REFUSED true s)))
    else
      .next (settle (placeEntry q a (bump (Reg.STG_P_ENTRIES q) s)))

/-- The port that a stage UNIT packet names. -/
def dport (pk : Packet) : Nat := bits pk.addr.toNat 39 32

/-- Whether a stage UNIT packet is well formed (R269, R305). -/
def stageUnitOk (pk : Packet) (head : Bool) : Bool :=
  packetOk pk && pk.cls.toNat == Cls.STAGE && bits pk.addr.toNat 47 40 == 0 && bits pk.addr.toNat 31 12 == 0 &&
    bit pk.addr.toNat 11 == head

/-- The HEAD's own fields (R294, R305): LEN, and the reserved bits of the descriptor and of the payload. -/
def headOk (pk : Packet) : Bool :=
  pk.len == 15 && field pk.payload 10 6 == 0 && bits (field pk.payload 0 8) 19 12 == 0 && decide (field pk.payload 8 2 < 2048)

/-- A HEAD that has passed R269: R270's checks, then the port and the HEAD's own fields, then its place in the sequence (R305, R312). -/
def takeHead (pk : Packet) (s : State) : State :=
  let p := dport pk
  let d : Word := BitVec.ofNat 64 (field pk.payload 0 8)
  let c := pk.ctx.toNat
  let x := s.stagePort p
  match s.destCheck c pk.epoch.toNat with
  | some code => complete pk code 0 0 s
  | none =>
    if !headOk pk then complete pk Code.REFUSED 0 0 (packetReserved pk s)
    else if !s.stageTakes p c d then
      complete pk Code.REFUSED 0 0 (when (s.stgState p == StgSt.ACTIVE && s.stgCtx p == c)
        (setStagePort p { x with refused := some (pk.addr.toNat % 2048, ceilDiv (descBytes d) 256) }) s)
    else if x.arriving.isSome || pk.addr.toNat % 2048 ≠ x.seqIn then haltPort p Code.REFUSED true s
    else if s.stgCapacity p ≤ s.stgLevel p then haltPort p Code.REFUSED true (complete pk Code.REFUSED 0 0 s)
    else
      setStagePort p { x with
        seqIn := (x.seqIn + 1) % 2048
        refused := none
        arriving := some ⟨d, pk.tag.toNat, pk.src.toNat, pk.epoch.toNat, [], []⟩ } s

/-- STAGE_HEAD (R305, R312). -/
def execStageHead (p : Fin 32) (pk : Packet) (s : State) : Outcome State Fault Refusal :=
  .next (receive p.val pk Op.UNIT (refusePacket pk) (fun s =>
    if stageUnitOk pk true then takeHead pk s else refusePacket pk (packetReserved pk s)) s)

/-- Whether a DATA packet with this PSEQ belongs to the last entry whose HEAD the port refused (R312). -/
def ofRefused (x : StagePort) (seq : Nat) : Bool :=
  match x.refused with
  | some (q, n) => decide ((seq + 2048 - q) % 2048 - 1 < n) && seq != q
  | none => false

/-- A DATA packet that has passed R269 (R299, R312): its bytes join the entry; the last completes it. A packet that no ACTIVE port
expects is discarded, and so is one of an entry whose HEAD the port refused, which leaves the port unchanged. -/
def takeData (pk : Packet) (s : State) : State :=
  let p := dport pk
  let x := s.stagePort p
  if (s.destCheck pk.ctx.toNat pk.epoch.toNat).isSome || s.stgState p ≠ StgSt.ACTIVE || !s.stgInbound p ||
      s.stgCtx p ≠ pk.ctx.toNat || ofRefused x (pk.addr.toNat % 2048) then s
  else if pk.addr.toNat % 2048 ≠ x.seqIn then haltPort p Code.REFUSED true s
  else match x.arriving with
    | none => haltPort p Code.REFUSED true s
    | some a =>
      let n := a.data.length
      let a := { a with data := a.data ++ pk.payload, poison := if pk.poison then a.poison ++ [(n, pk.payload.length)] else a.poison }
      let s := setStagePort p { x with seqIn := (x.seqIn + 1) % 2048, arriving := some a } s
      if a.data.length < descBytes a.desc then s
      else
        let s := setStagePort p { s.stagePort p with arriving := none } s
        placeEntry p { a with data := a.data.take (descBytes a.desc) } (bump (Reg.STG_P_ENTRIES p) s)

/-- STAGE_DATA (R299, R305, R312). -/
def execStageData (p : Fin 32) (pk : Packet) (s : State) : Outcome State Fault Refusal :=
  .next (receive p.val pk Op.UNIT id (fun s => if stageUnitOk pk false then takeData pk s else packetReserved pk s) s)

/-- SPILL_COPY (R299, R484): the head spill entry is copied into a free landing slot, once its own write is no longer held and its pair
is clear; a read that R479 or R221 refuses halts the port. With nothing spilled, entries that stay where they arrived take their places. -/
def execSpillCopy (p : Fin 256) (s : State) : Outcome State Fault Refusal :=
  let x := s.stagePort p.val
  let a := s.spillAddr p.val x.spillHead
  if s.stgState p.val ≠ StgSt.ACTIVE || !s.canLand p.val then .next s
  else match x.spilled with
  | [] => .next (settle (unpark p.val s))
  | d :: rest =>
    let n := descBytes d
    if s.rangeClears a n || s.path.held.any (fun w => decide (a < w.addr + w.data.length ∧ w.addr < a + n)) then .next s
    else
      let (s, ok) := contextAccess (s.stgCtx p.val) (.hbm a) a n false s
      if !ok then .next (settle (haltPort p.val Code.REFUSED true s))
      else
        let (s, data, marks) := readMarked (.hbm a) n 0 s
        let s := setStagePort p.val { s.stagePort p.val with spilled := rest, spillHead := x.spillHead + 1 } s
        .next (settle (unpark p.val (landEntry p.val d data marks s)))

/-! ### Credits and grants (R298, R301) -/

/-- CREDIT: one credit reaches outbound port `p`, over a fabric port or on this device. -/
def execCredit (p : Fin 256) (h : Option Hop) (s : State) : Outcome State Fault Refusal :=
  .next (takeFrom h (fun s =>
    if s.stgState p.val ≠ StgSt.ACTIVE || s.stgInbound p.val then s
    else put (Reg.STG_P_STATUS p.val) F.STG_P_STATUS_CREDITS (s.stgCredits p.val + 1) s) s)

/-- GRANT: CREDITS becomes C and the grant is acknowledged; a port that is not ACTIVE does not acknowledge. -/
def execGrant (p : Fin 256) (h : Option Hop) (c : BitVec 11) (s : State) : Outcome State Fault Refusal :=
  .next (takeFrom h (fun s =>
    if s.stgState p.val ≠ StgSt.ACTIVE || s.stgInbound p.val then s
    else sendToPeer p.val (.grantAck (s.stgPeer p.val) (s.stgPeerPort p.val))
      (put (Reg.STG_P_STATUS p.val) F.STG_P_STATUS_CREDITS c.toNat s)) s)

/-- The GRANT of an inbound port. -/
def sendGrant (p : Nat) (s : State) : State :=
  sendToPeer p (.grant (s.stgPeer p) (s.stgPeerPort p) (s.stgCapacity p)) s

/-- GRANT_REPEAT: an unacknowledged GRANT goes out again. -/
def execGrantRepeat (p : Fin 256) (s : State) : Outcome State Fault Refusal :=
  .next (when ((s.stagePort p.val).granting && s.stgState p.val == StgSt.ACTIVE) (sendGrant p.val) s)

/-- GRANT_ACKNOWLEDGE: the repeats stop. -/
def execGrantAcknowledge (p : Fin 256) (h : Option Hop) (s : State) : Outcome State Fault Refusal :=
  .next (takeFrom h (fun s => setStagePort p.val { s.stagePort p.val with granting := false } s) s)

/-! ### Registers of stages and ports -/

/-- STAGE_CTRL_WRITE (R291): only PIPE_RANK changes while a port of the stage is ACTIVE or INFLIGHT is not zero. -/
def execStageCtrlWrite (k : Fin 16) (v : Word) (s : State) : Outcome State Fault Refusal :=
  let off := Reg.STG_S_CTRL k.val
  let same (f : Fld) : Bool := v.get f == s.fld off f
  let keeps := same F.STG_S_CTRL_VALID && same F.STG_S_CTRL_GROUP && same F.STG_S_CTRL_LAYER_LO &&
    same F.STG_S_CTRL_LAYER_HI && same F.STG_S_CTRL_CONTEXT
  let busy := (List.range 256).any (fun p => s.stgState p == StgSt.ACTIVE && s.stgStage p == k.val) ||
    decide (s.inflight k.val ≠ 0)
  if busy && !keeps then .next (badWrite off s) else .next (genericWrite off v s)

/-- The requirements of R303 on the registers that an ENABLE write would leave. -/
def State.stageFits (s : State) (p : Nat) : Bool :=
  let r := Reg.STG_P_CTRL p
  let spillEnd := s.fld (Reg.STG_P_SPILL p) F.STG_P_SPILL_BASE + s.spillSlots p * s.slotBytes p
  (s.spillSlots p == 0 || decide (spillEnd ≤ hbmEnd)) &&
    (if s.stgInbound p then decide (s.landOff p (s.landSlots p) ≤ tileBytes) && decide (s.stgHold p + 1 ≤ s.landSlots p)
     else s.fld r F.STG_P_CTRL_HOLD == 0 && s.fld r F.STG_P_CTRL_LAND_SLOTS == 0 && s.spillSlots p == 0)

/-- A write to STG_Pp_CTRL (R293, R301, R303, R304). While ENABLE is 1 only ENABLE can change, to 0; a write that sets
ENABLE is ignored in whole where its requirements or its rank translation fail. -/
def stagePortWrite (p : Nat) (v : Word) (s : State) : State :=
  let off := Reg.STG_P_CTRL p
  let now := decide (v.get F.STG_P_CTRL_ENABLE = 1)
  if s.on off F.STG_P_CTRL_ENABLE then
    let w := v.put F.STG_P_CTRL_ENABLE 1
    let changes := (fieldsOf off).any fun f => f.acc == .rw && f.written w != s.fld off ⟨f.hi, f.lo⟩
    let s := when changes (badWrite off) s
    if now then s else put (Reg.STG_P_STATUS p) F.STG_P_STATUS_STATE StgSt.DISABLED (clearPort p (put off F.STG_P_CTRL_ENABLE 0 s))
  else
    let t := genericWrite off v s
    if !now then t
    else
      let d := t.ctxDomain (t.stgCtx p)
      if !t.stageFits p then badWrite off s
      else match t.rankDevice d (t.fld (Reg.STG_P_PEER p) F.STG_P_PEER_PEER_RANK) with
        | none => badWrite off (raise Reg.FAB_STATUS F.FAB_STATUS_RMAP_FAULT s)
        | some dev =>
          let r := Reg.STG_P_STATUS p
          let t := put r F.STG_P_STATUS_STATE StgSt.ACTIVE (put r F.STG_P_STATUS_PEER_DEVICE dev (clearPort p t))
          if t.stgInbound p then sendGrant p (setStagePort p { t.stagePort p with granting := true } t) else t

/-- STAGE_PORT_ENABLE. -/
def execStagePortEnable (p : Fin 256) (v : Word) (s : State) : Outcome State Fault Refusal := .next (stagePortWrite p.val v s)

/-- STAGE_PORT_DISABLE. -/
def execStagePortDisable (p : Fin 256) (v : Word) (s : State) : Outcome State Fault Refusal := .next (stagePortWrite p.val v s)

/-! ### The weight-version table (R308 to R310) -/

/-- The record that STG_VT_SEL selects. -/
def State.vtLayer (s : State) : Nat := s.fld Reg.STG_VT_SEL F.STG_VT_SEL_LAYER
def State.vtVer (s : State) : Nat := s.fld Reg.STG_VT_SEL F.STG_VT_SEL_VER

/-- A version command on the selected record: its effect where its requirements hold, else REFUSED; LAST_CMD shows which. -/
def vtCommand (ok : Version → Bool) (f : Version → Version) (s : State) : State :=
  let x := s.version s.vtLayer s.vtVer
  if ok x then put Reg.STG_STATUS F.STG_STATUS_LAST_CMD Code.DONE (setVersion s.vtLayer s.vtVer (f x) s)
  else put Reg.STG_STATUS F.STG_STATUS_LAST_CMD Code.REFUSED s

/-- ALLOC. -/
def execAlloc (s : State) : Outcome State Fault Refusal :=
  let base := s.fld Reg.STG_VT_ARG F.STG_VT_ARG_BASE * 4096
  .next (vtCommand (fun x => x.state == VerSt.FREE && x.refs == 0 && decide (base < hbmEnd))
    (fun x => { x with state := VerSt.FILLING, base := base, ctx := s.fld Reg.STG_VT_ARG F.STG_VT_ARG_CONTEXT }) s)

/-- PUBLISH. -/
def execPublish (s : State) : Outcome State Fault Refusal :=
  let sup := s.fld Reg.STG_VT_ARG F.STG_VT_ARG_SUPERSEDE
  let sv := s.on Reg.STG_VT_ARG F.STG_VT_ARG_SUP_VALID
  .next (vtCommand (fun x => x.state == VerSt.FILLING && !x.pending && s.role (s.ctxDomain x.ctx) != 0 &&
      (!sv || sup != s.vtVer))
    (fun x => { x with pending := true, supersede := sup, supValid := sv }) s)

/-- RETIRE, the command. -/
def execVtRetire (s : State) : Outcome State Fault Refusal :=
  .next (vtCommand (fun x => x.state == VerSt.LIVE) (fun x => { x with state := VerSt.RETIRING }) s)

/-- WITHDRAW. -/
def execWithdraw (s : State) : Outcome State Fault Refusal :=
  .next (vtCommand (fun x => x.pending) (fun x => { x with pending := false }) s)

/-- FREE_NOW. -/
def execFreeNow (s : State) : Outcome State Fault Refusal :=
  .next (vtCommand (fun x => x.state == VerSt.RETIRING && x.refs == 0 && s.restful (s.ctxDomain x.ctx))
    (fun x => { x with state := VerSt.FREE }) s)

/-- RESET, the version command. -/
def execVtReset (s : State) : Outcome State Fault Refusal :=
  .next (vtCommand (fun x => s.restful (s.ctxDomain x.ctx))
    (fun x => { x with state := VerSt.FREE, refs := 0, pending := false }) s)

/-- The publications due at a fence of domain `d` (R309). -/
def publishVersions (d : Nat) (s : State) : State :=
  forEach (s.versions.filter fun e => e.2.pending && s.ctxDomain e.2.ctx == d) (fun e s =>
    let l := e.1 / 8
    let v := e.1 % 8
    let x := e.2
    let s := setVersion l v { x with state := VerSt.LIVE, pending := false } s
    let old := s.version l x.supersede
    if x.supValid && old.state == VerSt.LIVE then setVersion l x.supersede { old with state := VerSt.RETIRING } s else s) s

/-- The RETIRE action frees every RETIRING version with no micro-batch in flight (R89, R310). -/
def retireVersions (s : State) : State :=
  forEach (s.versions.filter fun e => e.2.state == VerSt.RETIRING && e.2.refs == 0)
    (fun e s => setVersion (e.1 / 8) (e.1 % 8) { e.2 with state := VerSt.FREE } s) s

/-- STG_EMPTY of domain `d` (R311). -/
def State.stagesEmpty (s : State) (d : Nat) : Bool :=
  (List.range 256).all fun p =>
    s.stgState p == StgSt.DISABLED || s.ctxDomain (s.stgCtx p) != d ||
      (s.stgLevel p == 0 && (s.stagePort p).arriving.isNone && s.fld (Reg.STG_P_STATUS p) F.STG_P_STATUS_OUTSTANDING == 0)

end Sys2Proof.Machine
end

