-- ==== Sys2Proof/Machine/Update.lean ====
section
/-! DEFINITION. The shard update unit (chapter 10): shard entries (R331, R332), scheduled runs (R333), update programs and their
checks (R334 to R340), completion (R341 to R343), the flip at the seal (R344, R345), and the commit words (R348). -/
namespace Sys2Proof.Machine

open Host (Outcome)

namespace RunSt
def IDLE : Nat := 0
def RUNNING : Nat := 1
def UPDATED : Nat := 2
def FAILED : Nat := 3
end RunSt

def State.upd (s : State) (k : Nat) : Option UpdRun := Store.lookup (fun _ => none) s.runs k
def setUpd (k : Nat) (x : Option UpdRun) (s : State) : State := { s with runs := Store.update (fun _ => none) s.runs k x }
/-- RUN and CUR of a commit word. -/
def State.runSt (s : State) (k : Nat) : Nat := s.fld (Reg.UPD_COMMIT k) F.UPD_COMMIT_RUN
def setRunSt (k v : Nat) (s : State) : State := put (Reg.UPD_COMMIT k) F.UPD_COMMIT_RUN v s
def State.cur (s : State) (k : Nat) : Nat := s.fld (Reg.UPD_COMMIT k) F.UPD_COMMIT_CUR

/-! ### Shard entries (R331) -/

/-- A stream of an entry. -/
structure ShardStream where
  addr : Nat × Nat
  fmt : Nat
  role : Nat
  rnd : Nat
  slot : Nat
  rsv : Bool
  deriving DecidableEq, Repr

/-- A shard entry's fields; `rsv` says that a reserved field is not zero. -/
structure Shard where
  ctx : Nat
  hasRed : Bool
  pub : Bool
  ver : Nat
  supValid : Bool
  sup : Nat
  layer : Nat
  c : Nat
  id : Nat
  n : Nat
  prog : Nat × Nat
  len : Nat × Nat
  param : Nat
  streams : List ShardStream
  rsv : Bool
  deriving DecidableEq, Repr

namespace Role
def UNUSED : Nat := 0
def IN : Nat := 1
def OUT : Nat := 2
def IN_ROW : Nat := 3
def IN_COL : Nat := 4
def ACC_ROW : Nat := 5
def ACC_COL : Nat := 6
end Role

def ShardStream.isIn (t : ShardStream) : Bool := t.role == Role.IN || t.role == Role.IN_ROW || t.role == Role.IN_COL
def ShardStream.isAcc (t : ShardStream) : Bool := t.role == Role.ACC_ROW || t.role == Role.ACC_COL
def ShardStream.isOut (t : ShardStream) : Bool := t.role == Role.OUT || t.isAcc

/-- Stream `k` of an entry. -/
def readStream (e : List Byte) (k : Nat) : ShardStream :=
  let o := 128 + 16 * k
  let b := field e (o + 12) 1
  let r := field e (o + 13) 1
  { addr := (field e o 6, field e (o + 6) 6), fmt := b % 16, role := b / 16, rnd := r % 4, slot := r / 4 % 4
    rsv := r / 16 != 0 || field e (o + 14) 2 != 0 }

/-- An entry read from its 256 bytes. -/
def readShard (e : List Byte) : Shard :=
  let f := field e 2 2
  { ctx := shardCtx e, hasRed := bit f 1, pub := bit f 2, ver := bits f 5 3, supValid := bit f 6, sup := bits f 9 7
    layer := field e 4 2 % 4096, c := 256 * field e 6 2, id := field e 8 4, n := field e 12 4
    prog := (field e 16 8, field e 24 8), len := (field e 32 2, field e 34 2), param := field e 40 8
    streams := (List.range 8).map (readStream e)
    rsv := field e 0 2 / 4096 != 0 || f / 1024 != 0 || field e 4 2 / 4096 != 0 || field e 36 4 != 0 || field e 48 80 != 0 ||
      field e 40 8 % 8 != 0 }

/-- The enabled shard entries of domain `d`; of two that name one shard for a context the lower is used (R331, R7). -/
def State.domShards (s : State) (d : Nat) : List (Nat × List Byte) :=
  s.shards.filter fun e => shardEnabled e.2 && s.ctxDomain (shardCtx e.2) == d

/-- Whether a lower enabled entry names the same shard and context. -/
def State.shardShadowed (s : State) (k : Nat) (e : List Byte) : Bool :=
  match s.shardsOf (shardCtx e) (field e 8 4) with
  | x :: _ => decide (x.1 < k)
  | [] => false

/-! ### Scheduling (R333) -/

/-- Reaching a step's UPDATE schedules every enabled entry of the domain (R333, R7, R8); a table that does not lie in HBM posts
ADDRESS_FAULT for no context (R54). -/
def scheduleRuns (d : Nat) (s : State) : State :=
  let step := tideStep (s.tide d)
  let s := when (decide (hbmEnd < s.shardAddr (s.fld Reg.UPD_TABLE F.UPD_TABLE_COUNT))) (addressFault 4096 (s.shardAddr 0)) s
  forEach (s.domShards d) (fun e s =>
    if s.shardShadowed e.1 e.2 then raise Reg.UPD_STATUS F.UPD_STATUS_MULTI_MATCH s
    else setRunSt e.1 RunSt.IDLE (setUpd e.1 (some ⟨step, d, false, 0, s.epoch (shardCtx e.2), [], [], [], []⟩) s)) s

/-- The root segments of a context and shard in the layer table, with the codes that their reductions of a step have
(none: not complete). -/
def State.shardSegments (s : State) (c id step : Nat) : List (Option Nat) :=
  (List.range (s.fld Reg.RED_LT F.RED_LT_COUNT)).flatMap fun l =>
    let e := s.layerEntry l
    if !entryValid e || entryCtx e ≠ c then []
    else
      let ds := (List.range (min 256 (field e 2 2))).map fun i => s.tableBytes (field e 8 8 + 64 * i) 64
      (ds.filter fun d => field d 22 2 == 0xFFFF && field d 38 4 == id).map fun d =>
        let r := s.red l
        if r.step = step ∧ r.state ≠ RedSt.IDLE then
          (if r.state = RedSt.FAILED ∧ r.segs = [] then some r.code else (s.redSeg l (field d 42 1)).bind (·.code))
        else none

/-- What a scheduled run waits for (R333): nothing (`some none`), a failure (`some (some code)`), or a reduction (`none`). -/
def State.runWaits (s : State) (e : List Byte) (step : Nat) : Option (Option Nat) :=
  if !(readShard e).hasRed then some none
  else
    let cs := s.shardSegments (shardCtx e) (field e 8 4) step
    match cs.find? fun c => c.isSome && c != some Code.DONE && c != some Code.NONFINITE with
    | some c => some c
    | none => if cs.all Option.isSome then some none else none

/-! ### Update programs (R335, R340) -/

/-- A bundle of an update program. -/
structure UBundle where
  vec : Vec
  mov : Mov
  deriving DecidableEq, Repr

/-- A bundle of 16 bytes, where R335 permits it. -/
def readUBundle (b : List Byte) : Option UBundle :=
  let v := field b 0 8
  let m := field b 8 8
  if bits v 55 52 ≠ 0 ∨ bits m 55 52 ≠ 0 then none
  else match decodeVec v, decodeMov m with
    | some v, some m => if vecLegal v && movLegal m then some ⟨v, m⟩ else none
    | _, _ => none

/-- Whether the vector slot is one of R335's opcodes and formats, and a VBCAST names one of s0 to s15 (R336). -/
def uVecOk : Vec → Bool
  | .nop => true
  | .op o _ a _ _ fmt _ _ =>
    match o with
    | .vadd => fmt == 0 | .vsub => fmt == 0 | .vmul => fmt == 0 | .vfma => fmt == 0 | .vmin => fmt == 0 | .vmax => fmt == 0
    | .vcmp => fmt == 0 | .vsel => fmt == 0 | .vsfu => fmt == 0
    | .vbcast => (fmt == 0 || fmt == 0xC) && decide (a.val < 16)
    | .vlog => fmt == 0xC | .viadd => fmt == 0xC
    | _ => false

/-- Whether the move slot is a NOP, or a VLD of an input or a VST of an output of this pass. -/
def uMovOk (e : Shard) (pass : Nat) : Mov → Bool
  | .nop => true
  | .vld _ ar am x imm => ar == 0 && am == 0 && x == 0 && decide (imm.toNat < 8) &&
      ((e.streams[imm.toNat]?).map (·.isIn)).getD false
  | .vst _ ar am x imm => ar == 0 && am == 0 && x == 0 && decide (imm.toNat < 8) &&
      ((e.streams[imm.toNat]?).map fun t => t.isOut && !(pass == 1 && t.isAcc)).getD false
  | _ => false

/-- Whether a bundle's two slots name one destination register (R107). -/
def uConflict (b : UBundle) : Bool := (vecDests b.vec).any (movDests b.mov).contains

/-- A program parsed, where R340 permits it for a pass. -/
def parseProg (e : Shard) (pass : Nat) (n : Nat) (b : List Byte) : Option (List UBundle) :=
  (List.range n).foldr (fun i acc =>
    match acc, readUBundle ((b.drop (16 * i)).take 16) with
    | some l, some x => if uVecOk x.vec && uMovOk e pass x.mov && !uConflict x then some (x :: l) else none
    | _, _ => none) (some [])

/-- Bytes of a stream of `n` elements. -/
def streamBytes (fmt n : Nat) : Nat := pitch fmt n

/-- Elements that a stream holds for an entry. -/
def Shard.count (e : Shard) (t : ShardStream) : Nat :=
  if t.role = Role.IN_ROW ∨ t.role = Role.ACC_ROW then e.n / max 1 e.c
  else if t.role = Role.IN_COL ∨ t.role = Role.ACC_COL then e.c else e.n

/-- An address in HBM and 64-byte aligned. -/
def addrOk (a n : Nat) : Bool := a % 64 == 0 && decide (a + n ≤ hbmEnd)

/-- The checks of R340 on a stream. -/
def streamOk (e : Shard) (t : ShardStream) : Bool :=
  !t.rsv && decide (t.fmt ≤ 0xA) && decide (t.role ≤ 6) && t.slot != 3 && !(t.isOut && t.slot == 2) &&
    !(t.isAcc && t.fmt != 0) &&
    (t.role == 0 || (addrOk t.addr.1 (streamBytes t.fmt (e.count t)) &&
      (t.slot == 0 || addrOk t.addr.2 (streamBytes t.fmt (e.count t)))))

/-- The checks of R340 on an entry apart from its programs. -/
def shardOk (e : Shard) : Bool :=
  let rc := e.streams.any fun t => decide (3 ≤ t.role)
  !e.rsv && decide (e.len.1 ≤ 256) && decide (1 ≤ e.len.2) && decide (e.len.2 ≤ 256) && e.n != 0 && e.n % 32 == 0 &&
    (e.c == 0 || e.n % e.c == 0) && !(rc && (e.c == 0 || decide (65536 < e.c))) && e.streams.all (streamOk e) &&
    (e.prog.1 == 0 || addrOk e.prog.1 (16 * e.len.1)) && addrOk e.prog.2 (16 * e.len.2) && decide (e.param + 104 ≤ hbmEnd)

/-- The programs of an entry from their bytes, pass 0 empty where PROG0 is 0, if R340 permits them. -/
def programs (e : Shard) (b0 b1 : List Byte) : Option (List UBundle × List UBundle) :=
  match if e.prog.1 = 0 then some [] else parseProg e 0 e.len.1 b0, parseProg e 1 e.len.2 b1 with
  | some a, some b => some (a, b)
  | _, _ => none

/-! ### A run's reads and writes -/

/-- What a run carries while it executes: the state, how it failed, what it wrote non-finite, and its row or column sums
(FP32 patterns) by stream. -/
structure RunEnv where
  s : State
  fail : Option Nat
  line : Nat
  nf : Bool
  sums : List (Nat × List Nat)
  deriving DecidableEq, Repr

/-- Bytes that a run reads for its context: poison or a refusal fails it (R342, R479). -/
def runRead (c a n : Nat) (x : RunEnv) : RunEnv × List Byte :=
  if x.fail.isSome then (x, [])
  else
    let t := localTarget a n
    let (s, ok) := contextAccess c t a n false x.s
    if !ok then ({ x with s := s, fail := some Code.REFUSED }, [])
    else
      let (s, b, marks) := readMarked t n 0 s
      match marks with
      | [] => ({ x with s := s }, b)
      | m :: _ => ({ x with s := s, fail := some Code.POISONED, line := lineOf (a + m.1) }, b)

/-- The address that a stream reads, and the one that it writes (R334's slot modes). -/
def ShardStream.readAddr (t : ShardStream) (cur : Nat) : Nat :=
  match t.slot with
  | 0 => t.addr.1
  | 1 => if cur = 0 then t.addr.1 else t.addr.2
  | _ => if cur = 0 then t.addr.2 else t.addr.1
def ShardStream.writeAddr (t : ShardStream) (cur : Nat) : Nat :=
  if t.slot = 0 then t.addr.1 else if cur = 0 then t.addr.2 else t.addr.1

/-- Elements [i, i + n) of a stored array, as FP32 patterns; i and n whole blocks for an MX format (R337). An FP32 element is
its own pattern (R175). -/
def readElems (c fmt base i n : Nat) (x : RunEnv) : RunEnv × List Nat :=
  if n = 0 then (x, [])
  else if isMx fmt then
    let (x, b) := runRead c (base + i / 32 * blockBytes fmt) (ceilDiv n 32 * blockBytes fmt) x
    (x, (((List.range (ceilDiv n 32)).flatMap fun j =>
      decodeBlock fmt ((b.drop (j * blockBytes fmt)).take (blockBytes fmt))).take n).map toFp32)
  else
    let (x, b) := runRead c (base + i * elemBytes fmt) (n * elemBytes fmt) x
    (x, (takeElems (elemBytes fmt) n b).map fun e => if fmt = 0 then e else toFp32 (decodePlain fmt e))

/-- The 256 lanes of a list of elements, +0 beyond its end. -/
def toLanes (l : List Nat) : List Nat := (l ++ List.replicate (256 - l.length) 0).take 256

/-- What VLD returns in iteration `i` (R334, R337). -/
def runLoad (e : Shard) (cur : Nat) (t : ShardStream) (i : Nat) (x : RunEnv) : RunEnv × List Nat :=
  let n := min 256 (e.n - 256 * i)
  let base := t.readAddr cur
  if t.role = Role.IN then
    let (x, l) := readElems e.ctx t.fmt base (256 * i) n x
    (x, toLanes l)
  else
    let pick (l : Nat) : Nat := if t.role = Role.IN_ROW then (256 * i + l) / e.c else (256 * i + l) % e.c
    let lo := pick 0 / 32 * 32
    let hi := (List.range n).foldl (fun a l => max a (pick l)) 0
    let low := if t.role = Role.IN_ROW then lo else (List.range n).foldl (fun a l => min a (pick l)) lo / 32 * 32
    let (x, l) := readElems e.ctx t.fmt base low (hi + 1 - low) x
    (x, toLanes ((List.range n).map fun j => l.getD (pick j - low) 0))

/-- The draw for element `el` of stream `k` in step `step` (R339). -/
def State.updDraw (s : State) (id step k el : Nat) : Nat :=
  (philox (s.reg Reg.UPD_RNG_KEY).toNat (id * 2 ^ 96 + step % 2 ^ 32 * 2 ^ 64 + k * 2 ^ 56 + el / 4)).getD (el % 4) 0

/-- A non-finite write noted and captured (R341, R346). -/
def noteUpdNf (k d pass stream bundle : Nat) (s : State) : State :=
  let s := raise Reg.UPD_STATUS F.UPD_STATUS_NF_OUT s
  let r := Reg.UPD_NF_CAPTURE
  if s.on r F.UPD_NF_CAPTURE_VALID then s
  else
    let s := put r F.UPD_NF_CAPTURE_VALID 1 (put r F.UPD_NF_CAPTURE_PASS pass (put r F.UPD_NF_CAPTURE_ENTRY k
      (put r F.UPD_NF_CAPTURE_STREAM stream (put r F.UPD_NF_CAPTURE_BUNDLE bundle s))))
    setR Reg.UPD_NF_TIDE (s.tide d) s

/-- Lanes encoded from element `first` on into a stream's format (R337, R339): the bytes, how many were clamped, and whether
one is non-finite. -/
def encodeLanes (fmt rnd : Nat) (draw : Nat → Nat) (first : Nat) (lanes : List Nat) : List Byte × Nat × Bool :=
  let vs := lanes.map ofFp32
  if isMx fmt then
    let blocks := (List.range (ceilDiv lanes.length 32)).map fun j =>
      encodeBlock fmt rnd ((List.range 32).map fun l => draw (first + 32 * j + l)) ((vs.drop (32 * j)).take 32)
    (blocks.flatMap (·.1), (blocks.map (·.2.1)).sum, blocks.any (·.2.2))
  else if fmt = 0 then (lanes.flatMap (bytesOf 4), 0, vs.any fun v => !v.finite)
  else
    let es := vs.zipIdx.map fun (v, l) => encodePlain fmt rnd (draw (first + l)) v
    (es.flatMap fun x => bytesOf (elemBytes fmt) x.code, (es.filter (·.sat)).length, es.any (·.nf))

/-- Bytes that a run writes for its context; each iteration's bytes to a stream may be a fingerprint item (R439). -/
def runWrite (c a : Nat) (data : List Byte) (item : Bool) (x : RunEnv) : RunEnv :=
  if x.fail.isSome ∨ data = [] then x
  else
    let t := localTarget a data.length
    let (s, ok) := contextAccess c t a data.length true x.s
    if !ok then { x with s := s, fail := some Code.REFUSED }
    else
      let (s, code) := writeMarked t data [] 0 c (s.epoch c) s
      if code = Code.DONE then { x with s := when item (fingerprint c a data) s } else { x with s := s, fail := some code }

/-- One stream's VST of an iteration takes effect (R337, R338). -/
def runStore (k : Nat) (e : Shard) (r : UpdRun) (cur pass i : Nat) (st : Nat × Nat × List Nat) (x : RunEnv) : RunEnv :=
  let (sn, bundle, lanes) := st
  match e.streams[sn]? with
  | none => x
  | some t =>
    let n := min 256 (e.n - 256 * i)
    if t.isAcc then
      let old := ((x.sums.find? (·.1 = sn)).map (·.2)).getD (List.replicate (e.count t) 0)
      let pick (l : Nat) : Nat := if t.role = Role.ACC_ROW then (256 * i + l) / e.c else (256 * i + l) % e.c
      let new := (lanes.take n).zipIdx.foldl (fun acc (v, l) =>
        acc.set (pick l) (toFp32 ((ofFp32 (acc.getD (pick l) 0)).add (ofFp32 v)))) old
      { x with sums := x.sums.filter (·.1 ≠ sn) ++ [(sn, new)] }
    else
      let (data, sat, nf) := encodeLanes t.fmt t.rnd (x.s.updDraw e.id r.step sn) (256 * i) (lanes.take n)
      let base := t.writeAddr cur
      let a := if isMx t.fmt then base + 8 * i * blockBytes t.fmt else base + 256 * i * elemBytes t.fmt
      let x := { x with s := when (sat ≠ 0) (raise Reg.UPD_STATUS F.UPD_STATUS_OUT_SAT) x.s }
      let x := if nf then { x with s := noteUpdNf k r.domain pass sn bundle x.s, nf := true } else x
      runWrite e.ctx a data (t.role == Role.OUT) x

/-- The vector slot of an update bundle over the registers of an iteration (R335, R336). -/
def uVec (v : Vec) (sregs : List Nat) (regs : List (List Nat)) : List (List Nat) :=
  let g (n : Fin 32) : List Nat := regs.getD n.val []
  match v with
  | .nop => regs
  | .op o d a b c fmt _ func =>
    let out := match o with
      | .vcmp => (cmpOp 0 func.toNat (g a) (g b)).1
      | .vsel => (selOp 0 (g a) (g b) (g c)).1
      | .vsfu => (sfuOp 0 func.toNat (g a)).1
      | .vbcast => List.replicate 256 (sregs.getD a.val 0 % 2 ^ 32)
      | .vlog => logOp func.toNat (g a) (g b)
      | .viadd => iaddOp (g a) (g b)
      | _ => (arithOp o fmt.toNat (g a) (g b) (g c)).1
    regs.set d.val out

/-- One bundle of an iteration: both slots read before either writes; a VST replaces an earlier one to its stream. -/
def uStep (e : Shard) (cur i : Nat) (sregs : List Nat)
    (acc : RunEnv × List (List Nat) × List (Nat × Nat × List Nat)) (b : UBundle × Nat) :
    RunEnv × List (List Nat) × List (Nat × Nat × List Nat) :=
  let (x, regs, stores) := acc
  match b.1.mov with
  | .vld d _ _ _ imm =>
    (match e.streams[imm.toNat]? with
    | some t =>
      let (x, l) := runLoad e cur t i x
      (x, (uVec b.1.vec sregs regs).set d.val l, stores)
    | none => (x, uVec b.1.vec sregs regs, stores))
  | .vst d _ _ _ imm =>
    (x, uVec b.1.vec sregs regs, stores.filter (·.1 ≠ imm.toNat) ++ [(imm.toNat, b.2, regs.getD d.val [])])
  | _ => (x, uVec b.1.vec sregs regs, stores)

/-- One iteration of a pass: its bundles in order, then its stores. -/
def uIteration (k : Nat) (e : Shard) (r : UpdRun) (cur pass : Nat) (sregs : List Nat) (prog : List UBundle) (i : Nat)
    (x : RunEnv) : RunEnv :=
  if x.fail.isSome then x
  else
    let regs0 := (List.range 32).map fun n => (List.range 256).map fun l => (Config.updReg n l).toNat
    let (x, _, stores) := prog.zipIdx.foldl (uStep e cur i sregs) (x, regs0, [])
    stores.foldl (fun x st => runStore k e r cur pass i st x) x

/-- One pass over every iteration. -/
def uPass (k : Nat) (e : Shard) (r : UpdRun) (cur pass : Nat) (sregs : List Nat) (prog : List UBundle) (x : RunEnv) : RunEnv :=
  (List.range (ceilDiv e.n 256)).foldl (fun x i => uIteration k e r cur pass sregs prog i x) x

/-- The row and column sums written once pass 0 ends (R338). -/
def writeSums (k : Nat) (e : Shard) (r : UpdRun) (cur : Nat) (x : RunEnv) : RunEnv :=
  e.streams.zipIdx.foldl (fun x (t, sn) =>
    if !t.isAcc then x
    else
      let sums := ((x.sums.find? (·.1 = sn)).map (·.2)).getD (List.replicate (e.count t) 0)
      let x := if sums.any fun v => v / 2 ^ 23 % 256 == 255 then
          { x with s := noteUpdNf k r.domain 0 sn 0 x.s, nf := true } else x
      runWrite e.ctx (t.writeAddr cur) (sums.flatMap (bytesOf 4)) false x) x

/-- The parameter registers s0 to s15 (R336). -/
def paramRegs (e : Shard) (step : Nat) (b : List Byte) : List Nat :=
  [0] ++ (List.range 13).map (fun i => field b (8 * i) 8) ++ [toFp32 (ofInt (step + 1)), if e.c = 0 then 0 else toFp32 (ofInt e.c)]

/-- The whole run (R335 to R341), from what it read when it started. -/
def runProgram (k : Nat) (e : Shard) (r : UpdRun) (p : List UBundle × List UBundle) (s : State) : RunEnv :=
  let cur := s.cur k
  let x : RunEnv := ⟨s, none, 0, false, []⟩
  let sregs := paramRegs e r.step r.params
  let x := if e.prog.1 = 0 then x else writeSums k e r cur (uPass k e r cur 0 sregs p.1 x)
  uPass k e r cur 1 sregs p.2 x

/-- Whether a pair that the run of an entry reads is being cleared, so that it waits (R50). -/
def State.shardClears (s : State) (e : Shard) : Bool :=
  s.rangeClears e.param 104 || s.rangeClears e.prog.1 (16 * e.len.1) || s.rangeClears e.prog.2 (16 * e.len.2) ||
    e.streams.any fun t => t.role != 0 &&
      (s.rangeClears t.addr.1 (streamBytes t.fmt (e.count t)) || s.rangeClears t.addr.2 (streamBytes t.fmt (e.count t)))

/-! ### Starting and ending runs -/

/-- A run ends FAILED with a code (R333, R340, R342). -/
def failRun (k code : Nat) (s : State) : State :=
  let s := raise Reg.UPD_STATUS F.UPD_STATUS_RUN_FAIL (setRunSt k RunSt.FAILED s)
  let s := put (Reg.UPD_COMMIT k) F.UPD_COMMIT_CODE code (setUpd k ((s.upd k).map fun r => { r with started := false }) s)
  let f := Reg.UPD_FAIL
  if s.on f F.UPD_FAIL_VALID then s
  else put f F.UPD_FAIL_VALID 1 (put f F.UPD_FAIL_CODE code (put f F.UPD_FAIL_ENTRY k s))

/-- Whether a scheduled run may start now: nothing that it waits for is open, and it has neither ended nor been stopped by its
context's epoch (R342). -/
def State.runReady (s : State) (k : Nat) : Bool :=
  match s.upd k with
  | some r => !r.started && r.code != Code.EPOCH_STALE && s.runSt k == RunSt.IDLE && s.phase r.domain != Phase.PAUSE && (s.runWaits (s.shardEntry k) r.step).isSome
  | none => false

/-- Runs in progress. -/
def State.runsActive (s : State) : Nat := (s.runs.filter fun e => match e.2 with | some r => r.started | none => false).length

/-- A run that may start reads its entry, checks it, and reads its programs and its parameters (R336, R340, R342). -/
def startRun (n : Nat) (r : UpdRun) (s : State) : State :=
  let t := localTarget (s.shardAddr n) 256
  let (s, b, marks) := readMarked t 256 0 s
  let s := bump Reg.UPD_RUNS s
  let e := readShard b
  let poisoned (s : State) : State := postContained 0x0072 .upd e.ctx n (failRun n Code.POISONED s)
  let reserved (s : State) : State := reservedCode .upd e.ctx (s.shardAddr n) (failRun n Code.REFUSED s)
  if marks ≠ [] then poisoned s
  else if !shardOk e then reserved s
  else
    let x : RunEnv := ⟨s, none, 0, false, []⟩
    let (x, b0) := if e.prog.1 = 0 then (x, []) else runRead e.ctx e.prog.1 (16 * e.len.1) x
    let (x, b1) := runRead e.ctx e.prog.2 (16 * e.len.2) x
    let (x, ps) := runRead e.ctx e.param 104 x
    match x.fail with
    | some code => if code = Code.POISONED then poisoned x.s else failRun n code x.s
    | none =>
      if (programs e b0 b1).isNone then reserved x.s
      else setRunSt n RunSt.RUNNING (setUpd n (some { r with started := true, entry := b, prog0 := b0, prog1 := b1, params := ps }) x.s)

/-- RUN_START (R333, R340): a ready run starts, in ascending entry order and up to eight at once; while a pair that it reads is being
cleared it waits (R50). -/
def execRunStart (k : Fin 4096) (s : State) : Outcome State Fault Refusal :=
  let n := k.val
  match s.upd n with
  | none => .next s
  | some r =>
    if !s.runReady n || decide (8 ≤ s.runsActive) || s.fatal || s.rangeClears (s.shardAddr n) 256 ||
        s.runs.any (fun e => decide (e.1 < n) && s.runReady e.1) then .next s
    else
      let b := s.shardEntry n
      match s.runWaits b r.step with
      | some (some code) => .next (failRun n code s)
      | _ => .next (if s.shardClears (readShard b) then s else settle (startRun n r s))

/-- Whether the comet engine adds a post-pass to an entry's run (R448, R451). -/
def State.postPass (s : State) (k d : Nat) : Bool :=
  s.on Reg.COM_CTRL F.COM_CTRL_EN && s.fld Reg.COM_CTRL F.COM_CTRL_DOMAIN == d &&
    (List.range (s.fld Reg.COM_TABLE F.COM_TABLE_COUNT)).any fun i =>
      field (s.tableBytes (s.fld Reg.COM_TABLE F.COM_TABLE_BASE * 64 + 64 * i) 64) 32 2 % 4096 == k

/-- An entry becomes UPDATED; the last of a version's publishing entries publishes it (R341, R343), an entry that loses under R7 not
counting (R8). -/
def finishRun (k : Nat) (s : State) : State :=
  match s.upd k with
  | none => s
  | some r =>
    let s := setRunSt k RunSt.UPDATED (put (Reg.UPD_COMMIT k) F.UPD_COMMIT_CODE r.code (setUpd k (some { r with started := false }) s))
    let e := readShard r.entry
    if !e.pub then s
    else
      let mates := (s.domShards r.domain).filter fun x => !s.shardShadowed x.1 x.2 &&
        (readShard x.2).pub && (readShard x.2).layer == e.layer && (readShard x.2).ver == e.ver
      if mates.any fun x => s.runSt x.1 != RunSt.UPDATED then s
      else
        let e0 := ((mates.head?).map fun x => readShard x.2).getD e
        let v := s.version e.layer e.ver
        if v.state == VerSt.FILLING && !v.pending && s.role (s.ctxDomain v.ctx) != 0 && (!e0.supValid || e0.sup != e.ver) then
          setVersion e.layer e.ver { v with pending := true, supersede := e0.sup, supValid := e0.supValid } s
        else raise Reg.UPD_STATUS F.UPD_STATUS_PUB_REFUSED s

/-- A run whose program (or, `post`, whose post-pass) has ended and whose outputs are complete: it fails with the code of a write, a comet post-pass follows (for which
RUN stays RUNNING with the program no longer in progress), or the entry becomes UPDATED (R341, R451). -/
def endRun (n : Nat) (post : Bool) (code : Nat) (s : State) : State :=
  match s.upd n with
  | none => s
  | some r =>
    if s.runSt n ≠ RunSt.RUNNING then s
    else if code ≠ Code.DONE then failRun n code s
    else
      let s := setUpd n (some { r with started := false }) s
      if !post && s.postPass n r.domain then s else finishRun n s

/-- The accesses that follow are an operation of their own. -/
def freshOp (s : State) : State := if s.opHeld s.path.op then setPath (fun m => { m with op := m.op + 1 }) s else s

/-- Whether outputs of a run are still awaited. -/
def State.runHeld (s : State) (n : Nat) : Bool :=
  s.path.waiting.any fun w => w.what == .run n false || w.what == .run n true

/-- The accesses of a run, or of its post-pass, have been made: it ends, at once or when those that are held are served (R235). -/
def closeRun (n : Nat) (post : Bool) (s : State) : State :=
  let id := s.path.op
  if s.opHeld id then waitFor id none Code.DONE (.run n post) (setPath (fun m => { m with op := id + 1 }) s)
  else endRun n post Code.DONE s

/-- RUN_COMPLETE (R341 to R343): the program has run, and its outputs are written; those that the sluice holds are awaited (R235). -/
def execRunComplete (k : Fin 4096) (s : State) : Outcome State Fault Refusal :=
  let n := k.val
  match s.upd n with
  | none => .next s
  | some r =>
    let e := readShard r.entry
    if !r.started || s.runSt n ≠ RunSt.RUNNING || s.fatal || s.shardClears e ||
        s.runHeld n then .next s
    else match programs e r.prog0 r.prog1 with
      | none => .next s
      | some p =>
        let x := runProgram n e r p (freshOp s)
        let cycles := (p.1.length + p.2.length) * ceilDiv (ceilDiv e.n 256) 4
        let s := bumpBy Reg.UPD_ACTIVE cycles (bumpBy Reg.UPD_ELEMENTS e.n x.s)
        match x.fail with
        | some code => .next (settle (when (code = Code.POISONED) (postContained 0x0072 .upd e.ctx n) (failRun n code s)))
        | none =>
          let s := setUpd n (some { r with code := if x.nf then Code.NONFINITE else Code.DONE }) s
          .next (settle (closeRun n false s))

/-! ### What the tide and contexts do to runs -/

/-- The outputs of a run that has been stopped are awaited no more. -/
def forgetRun (k : Nat) (s : State) : State :=
  setPath (fun m => { m with waiting := m.waiting.filter fun w => w.what ≠ .run k false ∧ w.what ≠ .run k true }) s

/-- Entering PAUSE stops every run of the domain (R342). What is scheduled stays so until the domain leaves PAUSE. -/
def stopRuns (d : Nat) (s : State) : State :=
  forEach s.runs (fun e s => match e.2 with
    | some r => if r.domain = d ∧ s.runSt e.1 = RunSt.RUNNING then
        forgetRun e.1 (setRunSt e.1 RunSt.IDLE (setUpd e.1 (some { r with started := false }) s)) else s
    | none => s) s

/-- Leaving PAUSE or REPLAY, or ROLE OFF, returns every shard of the domain to IDLE, with nothing scheduled, and withdraws the step's pending
publications (R342, R554). -/
def resetRuns (d : Nat) (s : State) : State :=
  let s := forEach s.runs (fun e s => match e.2 with
    | some r => if r.domain = d then forgetRun e.1 (setUpd e.1 none (setRunSt e.1 RunSt.IDLE s)) else s
    | none => s) s
  let s := forEach s.shards (fun e s =>
    when (s.ctxDomain (shardCtx e.2) == d && s.runSt e.1 != RunSt.IDLE) (setRunSt e.1 RunSt.IDLE) s) s
  forEach (s.versions.filter fun e => e.2.pending && s.ctxDomain e.2.ctx == d)
    (fun e s => setVersion (e.1 / 8) (e.1 % 8) { e.2 with pending := false } s) s

/-- The context's epoch changes: its runs stop and record EPOCH_STALE (R342). They stay scheduled for their step (R345), and do
not start again in it. -/
def runsForEpoch (c : Nat) (s : State) : State :=
  forEach s.runs (fun e s => match e.2 with
    | some r =>
      if s.runSt e.1 = RunSt.RUNNING ∧ (readShard r.entry).ctx = c then
        put (Reg.UPD_COMMIT e.1) F.UPD_COMMIT_CODE Code.EPOCH_STALE (setRunSt e.1 RunSt.IDLE
          (forgetRun e.1 (setUpd e.1 (some { r with started := false, code := Code.EPOCH_STALE }) s)))
      else s
    | none => s) s

/-- UPD_DONE of domain `d` for a step (R79): every entry scheduled for it is UPDATED. -/
def State.updDone (s : State) (d step : Nat) : Bool :=
  s.runs.all fun e => match e.2 with
    | some r => !(r.domain == d && r.step == step) || s.runSt e.1 == RunSt.UPDATED
    | none => true

/-- The seal of a step (R344 step 1, R345): UPDATED entries flip, others scheduled for it are left and counted. -/
def sealRuns (d : Nat) (s : State) : State :=
  let step := tideStep (s.tide d)
  let mine := s.runs.filter fun e => match e.2 with | some r => r.domain == d && r.step == step | none => false
  let left := (mine.filter fun e => s.runSt e.1 != RunSt.UPDATED).length
  let s := forEach mine (fun e s =>
    let w := Reg.UPD_COMMIT e.1
    let s := if s.runSt e.1 = RunSt.UPDATED then put w F.UPD_COMMIT_STEP step (put w F.UPD_COMMIT_CUR (1 - s.cur e.1) s) else s
    setUpd e.1 none (setRunSt e.1 RunSt.IDLE s)) s
  if left = 0 then s
  else postCorrected 0x0073 .upd none (some d) left (raise Reg.UPD_STATUS F.UPD_STATUS_SEAL_PARTIAL s)

/-! ### Registers (R347, R348) -/

/-- UPD_COMMIT_WRITE (R348): only while RUN is not RUNNING and the entry's domain is in IDLE or PAUSE. An entry beyond the
table has no domain. -/
def execUpdCommitWrite (k : Fin 4096) (v : Word) (s : State) : Outcome State Fault Refusal :=
  let inTable := decide (k.val < s.fld Reg.UPD_TABLE F.UPD_TABLE_COUNT)
  let ok := s.runSt k.val != RunSt.RUNNING && (!inTable || s.restful (s.ctxDomain (shardCtx (s.shardEntry k.val))))
  .next (writeIf ok (Reg.UPD_COMMIT k.val) v s)

/-- TABLE_WRITE (R347): RED_LT or UPD_TABLE, only while no context is present. -/
def execTableWrite (upd : Bool) (v : Word) (s : State) : Outcome State Fault Refusal :=
  .next (writeIf (!s.anyContext) (if upd then Reg.UPD_TABLE else Reg.RED_LT) v s)

end Sys2Proof.Machine
end

