-- ==== Sys2Proof/Machine/Pan.lean ====
section
/-! DEFINITION. Pans (chapter 12): the reserve and its slots (R359 to R361), region lists (R362 to R366), the decision at the
fence (R367 to R372), the slot image (R373 to R375), the sluice and the fill (R376 to R382), the buddy mirror (R383 to R385),
release and commands (R392, R393, R429), RESTORE (R394), and the PAN registers (R395). -/
namespace Sys2Proof.Machine

open Host (Outcome)

namespace PanSt
def FREE : Nat := 0
def FILLING : Nat := 1
def FULL : Nat := 2
end PanSt

/-! ### Slots (R359) -/

def State.panSlot (s : State) (n : Nat) : PanSlot := Store.lookup (fun _ => PanSlot.init) s.panSlots n
def setPanSlot (n : Nat) (x : PanSlot) (s : State) : State :=
  { s with panSlots := Store.update (fun _ => PanSlot.init) s.panSlots n x }
/-- STATE of a slot. -/
def State.panSt (s : State) (n : Nat) : Nat := s.fld (Reg.PAN_SLOT_STATUS n) F.PAN_SLOT_STATUS_STATE
def setPanSt (n v : Nat) (s : State) : State := put (Reg.PAN_SLOT_STATUS n) F.PAN_SLOT_STATUS_STATE v s
/-- The domain of a slot's pan. -/
def State.panDom (s : State) (n : Nat) : Nat := s.fld (Reg.PAN_SLOT_STATUS n) F.PAN_SLOT_STATUS_DOMAIN
/-- A one-bit field of a slot's status. -/
def State.panBit (s : State) (n : Nat) (f : Fld) : Bool := s.on (Reg.PAN_SLOT_STATUS n) f
/-- The slots that the reserve holds. -/
def State.panCount (s : State) : Nat :=
  if s.fld Reg.PAN_RESERVE F.PAN_RESERVE_SIZE_GIB = 0 then 0 else s.fld Reg.PAN_RESERVE F.PAN_RESERVE_NSLOTS + 1
/-- Bytes of a slot. -/
def State.panBytes (s : State) : Nat :=
  s.fld Reg.PAN_RESERVE F.PAN_RESERVE_SIZE_GIB * 0x40000000 / (s.fld Reg.PAN_RESERVE F.PAN_RESERVE_NSLOTS + 1) /
    0x10000 * 0x10000
/-- Base address of slot `n`. -/
def State.panBase (s : State) (n : Nat) : Nat :=
  s.fld Reg.PAN_RESERVE F.PAN_RESERVE_BASE * 0x40000000 + n * s.panBytes

/-- Whether a slot of domain `d` is FILLING. -/
def State.panFilling (s : State) (d : Nat) : Bool :=
  (List.range s.panCount).any fun n => s.panSt n == PanSt.FILLING && s.panDom n == d
/-- Whether a mirror of domain `d` is running. -/
def State.panMirroring (s : State) (d : Nat) : Bool :=
  (List.range s.panCount).any fun n => (s.panSlot n).mirror.isSome && s.panDom n == d
/-- The lowest FREE slot. -/
def State.panFreeSlot (s : State) : Option Nat := (List.range s.panCount).find? fun n => s.panSt n = PanSt.FREE
/-- The readiness source PAN_FREE (R370). -/
def State.panReady (s : State) (d : Nat) : Bool := s.panFreeSlot.isSome && !s.panFilling d

/-- Offset of the region data in a slot (R373). -/
def panData : Nat := 0x100000

/-- A write of the pan engine, with the hint STREAM (R361, R380). -/
def panWrite (a : Nat) (data : List Byte) (s : State) : State := (hbmWrite true a data 1 4096 0 s).1

/-! ### Region lists (R362 to R364) -/

/-- Fields of a region entry's 32 bytes. -/
def regLen (e : List Byte) : Nat := field e 16 4
def regSel (e : List Byte) : Nat := field e 20 1 % 4
def regRef (e : List Byte) : Bool := bit (field e 20 1) 2
def regCommit (e : List Byte) : Nat := field e 22 2 % 4096
def regRefRank (e : List Byte) : Nat := field e 24 2 % 8192
def regCtx (e : List Byte) : Nat := field e 26 2 % 4096
def regRec (e : List Byte) : Nat := field e 28 4

/-- Whether an entry holds a reserved code or a nonzero reserved field. -/
def regReserved (e : List Byte) : Bool :=
  regSel e == 3 || field e 20 1 / 8 != 0 || field e 21 1 != 0 || field e 22 2 / 4096 != 0 || field e 24 2 / 8192 != 0 ||
    field e 26 2 / 4096 != 0

/-- The source address of an entry at the fence of step `step` (R363). -/
def State.regAddr (s : State) (step : Nat) (e : List Byte) : Nat :=
  match regSel e with
  | 1 => if s.cur (regCommit e) = 1 then field e 8 8 else field e 0 8
  | 2 => if step % 2 = 1 then field e 8 8 else field e 0 8
  | _ => field e 0 8

/-- Whether bytes of [a, a + n) lie in the pan reserve. -/
def State.inReserve (s : State) (a n : Nat) : Bool :=
  let b := s.fld Reg.PAN_RESERVE F.PAN_RESERVE_BASE * 0x40000000
  decide (a < b + s.fld Reg.PAN_RESERVE F.PAN_RESERVE_SIZE_GIB * 0x40000000) && decide (b < a + n)

/-- The requirements of R364 on the resolved regions (address and length). -/
def State.regionsOk (s : State) (l : List (Nat × Nat)) : Bool :=
  l.all (fun r => r.1 % 64 == 0 && r.2 % 64 == 0 && r.2 != 0 && decide (r.1 + r.2 ≤ hbmEnd) && !s.inReserve r.1 r.2) &&
    (List.zip l (l.drop 1)).all fun p => decide (p.1.1 + p.1.2 ≤ p.2.1)

/-- The address of the cursor record of domain `d`, where it is saved (R366). -/
def State.cursorAddr (s : State) (d : Nat) : Option Nat :=
  if s.on (Reg.PAN_D_CURSOR d) F.PAN_D_CURSOR_EN then some (s.fld (Reg.PAN_D_CURSOR d) F.PAN_D_CURSOR_ADDR) else none

/-- The list of domain `d` read for a fence: every reserved entry is posted (R24); `none` where the list is not valid. A list
or a cursor outside HBM, and a poisoned list, are no valid list either (DEDUCED, log 40). -/
def readRegions (d step : Nat) (s : State) : State × Option (List (Nat × List Byte)) :=
  let n := s.fld (Reg.PAN_D_LIST d) F.PAN_D_LIST_COUNT
  let base := s.fld (Reg.PAN_D_LIST d) F.PAN_D_LIST_BASE
  if hbmEnd < base + 32 * n ∨ s.memRefuses then (s, none)
  else
    let (s, raw, bad) := hbmRead base (32 * n) 0 s
    let entries := (List.range n).map fun i => (raw.drop (32 * i)).take 32
    let rsv := entries.zipIdx.filter fun e => regReserved e.1
    let rs := entries.map fun e => (s.regAddr step e, e)
    let cursorOk := match s.cursorAddr d with
      | some a => decide (a + 32 ≤ hbmEnd) && !s.inReserve a 32
      | none => true
    if bad.isSome then (s, none)
    else if rsv ≠ [] then (forEach rsv (fun e => reservedCode .pan (regCtx e.1) (base + 32 * e.2)) s, none)
    else if s.regionsOk (rs.map fun r => (r.1, regLen r.2)) && cursorOk then (s, some rs)
    else (s, none)

/-! ### The step trigger (R371, R372) -/

/-- The step-trigger slot of domain `d` is written for the step `step` (R371); a STEP beyond its maximum leaves it disabled. -/
def armTrigger (d step : Nat) (s : State) : State :=
  let k := s.fld (Reg.PAN_D_TRIG d) F.PAN_D_TRIG_EVSLOT
  let next := step + s.fld (Reg.PAN_D_TRIG d) F.PAN_D_TRIG_EVERY
  let c := Reg.TIDE_SLOT_CTRL d k
  if 0xFFFFFFFFFF < next then put c F.TIDE_SLOT_CTRL_ENABLE 0 s
  else
    let s := setR (Reg.TIDE_SLOT_VALUE d k) (tideWord next Phase.SEAL 0) s
    put c F.TIDE_SLOT_CTRL_ENABLE 1 (put c F.TIDE_SLOT_CTRL_ACTIONS 2 (put c F.TIDE_SLOT_CTRL_ARG 0 s))

/-- A CHECKPOINT action makes a checkpoint due (R368). -/
def checkpointDue (d : Nat) (s : State) : State := put (Reg.PAN_D_STATUS d) F.PAN_D_STATUS_CKPT_DUE 1 s

/-- Event slot `k` of domain `d` was suppressed: if it is the step slot, its checkpoint is lost and it is armed again from the
step of the suppression (R372). -/
def panSuppressed (d k : Nat) (s : State) : State :=
  if s.on (Reg.PAN_D_TRIG d) F.PAN_D_TRIG_EN && s.fld (Reg.PAN_D_TRIG d) F.PAN_D_TRIG_EVSLOT == k then
    armTrigger d (tideStep (s.tide d)) (raise (Reg.PAN_D_STATUS d) F.PAN_D_STATUS_TRIG_SUPPRESSED s)
  else s

/-! ### On-die items (R373 to R375) -/

/-- Whether a context of domain `d` is saved from logical tile `l`, and which: the lowest one of the tile's partition that has
been placed before and is not resident. -/
def State.savedFrom (s : State) (d l : Nat) : Option Nat :=
  (List.range 4096).find? fun c =>
    s.present c && s.ctxDomain c == d && !s.resident c && (s.ctx c).placed && (s.partTiles (s.ctxPart c)).contains l

/-- The image of logical tile `l` in the save area of context `c` (R481). -/
def State.imageOf (s : State) (c l : Nat) : Nat :=
  s.fld (Reg.CTX_SAVE c) F.CTX_SAVE_BASE * 4096 + 0x480000 * ((s.partTiles (s.ctxPart c)).filter (· < l)).length

/-- The generator state of logical tile `l` for domain `d`: 32 bytes, VALID when a context of the domain is placed on, or saved
from, the tile (R374). -/
def State.generatorOf (s : State) (d l : Nat) : List Byte :=
  let p := s.phys l
  let entry (c : Nat) (g : List Byte) : List Byte := g ++ bytesOf 2 (c + 0x8000) ++ List.replicate 6 0
  let placed := match s.tileCtx p with
    | some c => if s.present c && s.ctxDomain c == d then some c else none
    | none => none
  match placed with
  | some c => entry c (bytesOf 8 (s.reg (Reg.TILE_RNG_KEY p)).toNat ++ bytesOf 8 (s.reg (Reg.TILE_RNG_CTR_LO p)).toNat ++
      bytesOf 8 (s.reg (Reg.TILE_RNG_CTR_HI p)).toNat)
  | none =>
    match s.savedFrom d l with
    | some c => entry c (s.hbmPeek (s.imageOf c l + 0x400020) 24)
    | none => List.replicate 32 0

/-- Whether the capture of logical tile `l`'s generator waits for the end of its swap (R426): a context of the domain is placed on it. -/
def State.captureWaits (s : State) (d l : Nat) : Bool :=
  s.swapping l && (match s.tileCtx (s.phys l) with
    | some c => s.present c && s.ctxDomain c == d
    | none => false)

/-- The generator states of all logical tiles. -/
def State.generators (s : State) (d : Nat) : List Byte := (List.range 144).flatMap (s.generatorOf d)

/-- The shard entries whose context belongs to domain `d`. -/
def State.domEntries (s : State) (d : Nat) : List Nat :=
  (s.shards.filter fun e => s.ctxDomain (shardCtx e.2) == d).map (·.1)

/-- A version record as a pan saves it: 16 bytes (R374). -/
def versionBytes (v : Version) : List Byte :=
  bytesOf 8 v.base ++ bytesOf 2 v.ctx ++ bytesOf 1 (v.state + (if v.supValid then 4 else 0) + 8 * v.supersede) ++
    List.replicate 5 0

/-- The version records of domain `d`: key and record. -/
def State.domVersions (s : State) (d : Nat) : List (Nat × Version) :=
  s.versions.filter fun e => e.2.state ≠ VerSt.FREE && s.ctxDomain e.2.ctx == d

/-- An NF capture of RED or UPD is VALID. -/
def State.nonfinite (s : State) : Bool :=
  s.on Reg.RED_NF_CAPTURE F.RED_NF_CAPTURE_VALID || s.on Reg.UPD_NF_CAPTURE F.UPD_NF_CAPTURE_VALID
/-- FLAGS of a slot header (R373). -/
def State.panFlags (s : State) (ckpt : Bool) : Nat :=
  (if ckpt then 1 else 0) + (if s.nonfinite then 2 else 0) + (if s.on Reg.UPD_STATUS F.UPD_STATUS_SEAL_PARTIAL then 4 else 0)

/-- The rank of this device in domain `d`, by reverse translation; 0 where the map gives none (DESIGN CHOICE, log 41). -/
def ownRank (d : Nat) (s : State) : State × Nat :=
  let (s, r) := rankOfDevice d s.deviceId s
  (s, r.getD 0)

/-- The mode generation of domain `d`. -/
def State.modeGen (s : State) (d : Nat) : Nat := s.fld (Reg.TIDE_MODE_STATUS d) F.TIDE_MODE_STATUS_GEN

/-- The offsets of the regions in the data area: each starts where the one before it ends (lengths are multiples of 64). -/
def regionOffsets : List Nat → Nat → List Nat
  | [], _ => []
  | n :: l, o => o :: regionOffsets l (o + n)

/-- A copy cut at the 64 KiB granules of its source (R376, R380). -/
def cutGranules (src dst n ctx : Nat) : List PanPiece :=
  if n = 0 then []
  else (List.range ((src + n - 1) / 0x10000 + 1 - src / 0x10000)).map fun i =>
    let lo := max src ((src / 0x10000 + i) * 0x10000)
    let hi := min (src + n) ((src / 0x10000 + i + 1) * 0x10000)
    ⟨lo, dst + (lo - src), hi - lo, ctx⟩

/-- The on-die items of a pan of domain `d` written into slot `n` (R373 to R375). -/
def writeOnDie (n d step seq : Nat) (ckpt : Bool) (rs : List (Nat × List Byte)) (s : State) : State :=
  let base := s.panBase n
  let (s, rank) := ownRank d s
  let total := (rs.map fun r => regLen r.2).sum
  let offs := regionOffsets (rs.map fun r => regLen r.2) 0
  let head := bytesOf 8 (tideWord step Phase.SEAL 0).toNat ++ bytesOf 2 s.deviceId ++ bytesOf 2 rank ++ bytesOf 1 d ++
    bytesOf 1 (s.panFlags ckpt) ++ bytesOf 2 rs.length ++ bytesOf 8 total ++ bytesOf 8 seq ++ bytesOf 4 (s.modeGen d)
  let gens := (List.range 144).flatMap fun l => if s.captureWaits d l then List.replicate 32 0 else s.generatorOf d l
  let s := zeroWhere (fun a => base ≤ a ∧ a < base + s.panBytes) s
  let s := panWrite base head s
  let s := panWrite (base + 0x200) gens s
  let s := forEach (s.domEntries d) (fun k s =>
    panWrite (base + 0x2000 + 8 * k) (bytesOf 8 ((s.reg (Reg.UPD_COMMIT k)).put F.UPD_COMMIT_RUN 0).toNat) s) s
  let s := forEach (s.domVersions d) (fun e => panWrite (base + 0x10000 + 16 * e.1) (versionBytes e.2)) s
  forEach (List.zip rs offs).zipIdx (fun e =>
    panWrite (base + 0x90000 + 32 * e.2) (bytesOf 8 e.1.1.1 ++ bytesOf 8 e.1.2 ++ e.1.1.2.drop 16)) s

/-! ### The sluice (R376 to R379) -/

/-- The protected granules follow what the fills have still to copy, writes that no longer wait are accepted, and up to 16
granules with held writes are copied ahead of their turn (R376, R377). -/
def reguard (s : State) : State :=
  let gs := ((List.range 4).flatMap fun n => (s.panSlot n).todo.map fun p => granuleOf p.src).foldl
    (fun l g => insertMark g l) []
  let s := setPath (fun p => { p with guarded := gs, copying := p.copying.filter gs.contains }) s
  let s := releaseHeld s
  let waiting := ((s.path.held.map fun w => granuleOf w.addr).filter fun g =>
    s.path.guarded.contains g && !s.path.copying.contains g).foldl (fun l g => insertMark g l) []
  setPath (fun p => { p with copying := p.copying ++ waiting.take (16 - p.copying.length) }) s

/-! ### The mirror (R383 to R385) -/

/-- The context of domain `d`'s mirror packets (R384). -/
def State.panCtx (s : State) (d : Nat) : Nat := s.fld (Reg.PAN_D_CTRL d) F.PAN_D_CTRL_CONTEXT
/-- The buddy's area. -/
def State.buddyBase (s : State) (d : Nat) : Nat := s.fld (Reg.PAN_D_BUDDY_BASE d) F.PAN_D_BUDDY_BASE_BASE * 0x10000

/-- The requests of slot `n`'s mirror are no longer waited for. -/
def dropMirrorReqs (n : Nat) (s : State) : State := { s with opens := s.opens.filter (·.purpose ≠ .mirror n) }

/-- A mirror ends other than DONE (R385). -/
def mirrorFail (n code : Nat) (s : State) : State :=
  let s := dropMirrorReqs n (setPanSlot n { s.panSlot n with mirror := none } s)
  let s := put (Reg.PAN_SLOT_STATUS n) F.PAN_SLOT_STATUS_MIR_CODE code s
  postCorrected 0x0082 .pan none (some (s.panDom n)) (code + 256 * n) (raise Reg.PAN_STATUS F.PAN_STATUS_MIR_FAIL s)

/-- A fabric request of slot `n`'s mirror (R384, R96). -/
def mirrorSend (n op addr len : Nat) (payload : List Byte) (s : State) : State :=
  match (s.panSlot n).mirror with
  | none => s
  | some m =>
    let c := s.panCtx (s.panDom n)
    let (s, t) := openReq m.dev c (s.epoch c) addr payload.length (.mirror n) s
    let (s, code) := sendRequest (mkPacket s m.dev c (s.epoch c) Cls.DATA op t addr len payload) s
    if code = Code.DONE then s else mirrorFail n code s

/-- The length of slot `n`'s image. -/
def State.imageBytes (s : State) (n : Nat) : Nat := panData + ofBytes (s.hbmPeek (s.panBase n + 16) 8)

/-- The new commit record is written (R383 step 4). -/
def mirrorCommit (n : Nat) (s : State) : State :=
  match (s.panSlot n).mirror with
  | none => s
  | some m =>
    let d := s.panDom n
    let (s, rank) := ownRank d s
    let rec' := bytesOf 8 (s.reg (Reg.PAN_SLOT_TIDE n)).toNat ++ bytesOf 8 (s.reg (Reg.PAN_SLOT_SEQ n)).toNat ++
      bytesOf 1 m.image ++ bytesOf 1 1 ++ bytesOf 2 s.deviceId ++ bytesOf 2 rank ++ bytesOf 1 d ++ bytesOf 1 0 ++
      bytesOf 8 (s.imageBytes n) ++ List.replicate 32 0
    mirrorSend n Op.WRITE (s.buddyBase d) 63 rec' (setPanSlot n { s.panSlot n with mirror := some { m with stage := 2, sent := 0 } } s)

/-- Where the next bytes of the image go on the buddy. -/
def State.mirrorAddr (s : State) (n : Nat) (m : Mirror) : Nat :=
  let d := s.panDom n
  s.buddyBase d + 0x10000 + m.image * s.fld (Reg.PAN_D_BUDDY d) F.PAN_D_BUDDY_IMG_GIB * 0x40000000 + m.pos

/-- Whether the fill has copied the first `n` bytes of slot `k`'s image: the header and lists are written at the fence, a generator whose
capture waits and the cursor come later, the regions with the end of the fill (R380, R383). -/
def State.panCopied (s : State) (k n : Nat) : Bool :=
  s.panSt k == PanSt.FULL ||
    (decide (n ≤ panData) && (decide (n ≤ 0x100) || !(s.panSlot k).todo.any fun p => decide (p.dst < s.panBase k + panData)) &&
      (decide (n ≤ 0x200) || (s.panSlot k).owes.isEmpty))

/-- The mirror writes the next 256 bytes that the fill has copied (the model sends one WRITE at a time, log 42), or, with the
whole image written, its commit record. -/
def mirrorPump (n : Nat) (s : State) : State :=
  match (s.panSlot n).mirror with
  | none => s
  | some m =>
    let full := s.panSt n == PanSt.FULL
    let len := s.imageBytes n
    let k := min 256 (len - m.pos)
    if m.stage ≠ 1 ∨ m.sent ≠ 0 then s
    else if len ≤ m.pos then (if full then mirrorCommit n s else s)
    else if s.panCopied n (m.pos + k) then
      let (s, data, _) := hbmRead (s.panBase n + m.pos) k 0 s
      mirrorSend n Op.WRITE (s.mirrorAddr n m) (k - 1) data
        (setPanSlot n { s.panSlot n with mirror := some { m with sent := k } } s)
    else s

/-- A mirror of slot `n` starts (R383 step 1): its buddy is translated and its commit record is read. -/
def mirrorStart (n : Nat) (s : State) : State :=
  let d := s.panDom n
  let (s, dev) := translateRank d (s.panCtx d) (s.fld (Reg.PAN_D_BUDDY d) F.PAN_D_BUDDY_RANK) s
  match dev with
  | none => mirrorFail n Code.REFUSED s
  | some dev =>
    mirrorSend n Op.READ_REQ (s.buddyBase d) 63 [] (setPanSlot n { s.panSlot n with mirror := some ⟨dev, 0, 0, 0, 0⟩ } s)

/-- The buddy's commit record has come: the image is chosen, and its writes begin (R383 steps 2 and 3). -/
def mirrorRecord (n code : Nat) (data : List Byte) (s : State) : State :=
  match (s.panSlot n).mirror with
  | none => s
  | some m =>
    if m.stage ≠ 0 then s
    else if code ≠ Code.DONE then mirrorFail n code s
    else if s.fld (Reg.PAN_D_BUDDY (s.panDom n)) F.PAN_D_BUDDY_IMG_GIB * 0x40000000 < s.imageBytes n then
      mirrorFail n Code.REFUSED s
    else
      let image := if field data 17 1 = 1 then 1 - field data 16 1 else 0
      mirrorPump n (setPanSlot n { s.panSlot n with mirror := some { m with stage := 1, image := image } } s)

/-- Bytes of the image are written on the buddy. -/
def mirrorCount (n k : Nat) (s : State) : State :=
  let r := Reg.PAN_SLOT_MIRRORED n
  bumpBy Reg.PAN_MIR_BYTES k (put r F.PAN_SLOT_MIRRORED_V (s.fld r F.PAN_SLOT_MIRRORED_V + k) s)

/-- The commit record is written: the mirror is acknowledged (R383 step 5). -/
def mirrorAcked (n code : Nat) (s : State) : State :=
  match (s.panSlot n).mirror with
  | none => s
  | some m =>
    if m.stage ≠ 2 then s
    else if code ≠ Code.DONE then mirrorFail n code s
    else
      let r := Reg.PAN_SLOT_STATUS n
      let s := dropMirrorReqs n (setPanSlot n { s.panSlot n with mirror := none } s)
      put r F.PAN_SLOT_STATUS_MIR_CODE Code.DONE (put r F.PAN_SLOT_STATUS_MIR_ACK 1 s)

/-- The answer to a request of slot `n`'s mirror. -/
def mirrorAnswer (n code : Nat) (data : List Byte) (s : State) : State :=
  match (s.panSlot n).mirror with
  | none => s
  | some m =>
    match m.stage with
    | 0 => mirrorRecord n code data s
    | 1 =>
      if code ≠ Code.DONE then mirrorFail n code s
      else mirrorPump n (mirrorCount n m.sent
        (setPanSlot n { s.panSlot n with mirror := some { m with pos := m.pos + m.sent, sent := 0 } } s))
    | _ => mirrorAcked n code s

/-- MIRROR_RECORD_READ (R383 steps 2 and 3). -/
def execMirrorRecordRead (n : Fin 4) (code : BitVec 8) (data : List Byte) (s : State) : Outcome State Fault Refusal :=
  match (s.panSlot n.val).mirror with
  | some m => .next (settle (if m.stage = 0 then mirrorRecord n.val code.toNat data (dropMirrorReqs n.val s) else s))
  | none => .next s

/-- The writes of the image that have not been sent, in order. -/
def mirrorRest (n : Nat) (m : Mirror) (s : State) : State :=
  let len := s.imageBytes n
  let from' := m.pos + m.sent
  forEach (List.range (ceilDiv (len - from') 256)) (fun i s =>
    let pos := from' + 256 * i
    let k := min 256 (len - pos)
    let (s, data, _) := hbmRead (s.panBase n + pos) k 0 s
    dropMirrorReqs n (mirrorSend n Op.WRITE (s.mirrorAddr n { m with pos := pos }) (k - 1) data s)) s

/-- MIRROR_WRITES_DONE (R383 step 4): every WRITE of the image has completed, and the new commit record is written. It can only
be once the fill is complete. -/
def execMirrorWritesDone (n : Fin 4) (code : BitVec 8) (s : State) : Outcome State Fault Refusal :=
  match (s.panSlot n.val).mirror with
  | none => .next s
  | some m =>
    if m.stage ≠ 1 then .next s
    else if code.toNat ≠ Code.DONE then .next (mirrorFail n.val code.toNat s)
    else if s.panSt n.val ≠ PanSt.FULL then .next s
    else
      let s := mirrorRest n.val m (dropMirrorReqs n.val s)
      .next (settle (mirrorCommit n.val (mirrorCount n.val (s.imageBytes n.val - m.pos) s)))

/-- MIRROR_ACK (R383 step 5, R385). -/
def execMirrorAck (n : Fin 4) (code : BitVec 8) (s : State) : Outcome State Fault Refusal :=
  .next (mirrorAcked n.val code.toNat s)

/-! ### The fill (R380 to R382) -/

/-- A poisoned line met by a fill of slot `n` (R381): the slot's line becomes the poison codeword, the slot is marked, its
mirror ends, and an entry is posted for the region's context. -/
def fillPoison (n : Nat) (p : PanPiece) (la dst : Nat) (s : State) : State :=
  let s := poisonWhole (lineOf dst) s
  let s := put (Reg.PAN_SLOT_STATUS n) F.PAN_SLOT_STATUS_POISON 1 s
  let s := when (s.panSlot n).mirror.isSome (mirrorFail n Code.POISONED) (raise Reg.PAN_STATUS F.PAN_STATUS_POISON_SEEN s)
  postContained 0x0081 .pan p.ctx la s

/-- A piece copied into slot `n`. -/
def copyPiece (n : Nat) (p : PanPiece) (s : State) : State :=
  let s := forEach (linesOf p.src p.len) (fun la s =>
    let lo := max p.src la
    let hi := min (p.src + p.len) (la + 64)
    let (s, data, bad) := readLine la 1 s
    if bad then fillPoison n p la (p.dst + (lo - p.src)) s
    else panWrite (p.dst + (lo - p.src)) ((data.drop (lo - la)).take (hi - lo)) s) s
  let r := Reg.PAN_SLOT_FILLED n
  bumpBy Reg.PAN_FILL_BYTES p.len (put r F.PAN_SLOT_FILLED_V (s.fld r F.PAN_SLOT_FILLED_V + p.len) s)

/-- The pieces of slot `n` that satisfy `f`, copied in order. -/
def copyPieces (f : PanPiece → Bool) (n : Nat) (s : State) : State :=
  let x := s.panSlot n
  let s := setPanSlot n { x with todo := x.todo.filter fun p => !f p } s
  forEach (x.todo.filter f) (copyPiece n) s

/-- A protected granule is copied, its writes are released, and another granule with held writes takes its place (R376, R377). A granule
that is not protected has no such event (log 6). -/
def granuleCopied (g : Nat) (s : State) : State :=
  if !s.path.guarded.contains g then s
  else forEach (List.range 4) mirrorPump (reguard (forEach (List.range 4) (copyPieces fun p => granuleOf p.src == g) s))

/-- What is left of a pan is copied, its slot becomes FULL, and its granules are unprotected (R380). A slot that still owes a generator has
no such event (R426, log 6). -/
def fillCompleted (n : Nat) (s : State) : State :=
  if s.panSt n ≠ PanSt.FILLING ∨ (s.panSlot n).owes ≠ [] then s
  else mirrorPump n (reguard (setPanSt n PanSt.FULL (copyPieces (fun _ => true) n s)))

/-- The generators whose capture has waited for a swap that is now over reach their slots (R426). -/
def takeCaptures (s : State) : State :=
  forEach (List.range 4) (fun n s =>
    let x := s.panSlot n
    let now := x.owes.filter fun l => !s.swapping l
    if now = [] then s
    else
      let s := forEach now (fun l s => panWrite (s.panBase n + 0x200 + 32 * l) (s.generatorOf (s.panDom n) l) s) s
      mirrorPump n (setPanSlot n { x with owes := x.owes.filter s.swapping } s)) s

/-! ### The decision at the fence (R367 to R369) -/

/-- A pan of domain `d` taken into slot `n` (R369, R371, R373 to R376, R383). -/
def startPan (n d step : Nat) (due : Bool) (rs : List (Nat × List Byte)) (s : State) : State :=
  let st := Reg.PAN_SLOT_STATUS n
  let seq := (s.reg (Reg.PAN_D_SEQ d)).toNat + 1
  let order := 1 + ((List.range 4).map fun i => (s.panSlot i).order).foldl max 0
  let base := s.panBase n
  let offs := regionOffsets (rs.map fun r => regLen r.2) 0
  let cursor := match s.cursorAddr d with
    | some a => cutGranules a (base + 0x100) 32 (s.panCtx d)
    | none => []
  let todo := cursor ++ (List.zip rs offs).flatMap fun r =>
    cutGranules r.1.1 (base + panData + r.2) (regLen r.1.2) (regCtx r.1.2)
  let s := setR (Reg.PAN_D_SEQ d) (BitVec.ofNat 64 seq) s
  let s := setR st (((0 : Word).put F.PAN_SLOT_STATUS_STATE PanSt.FILLING).put F.PAN_SLOT_STATUS_DOMAIN d) s
  let s := putB st F.PAN_SLOT_STATUS_CKPT due s
  let s := setR (Reg.PAN_SLOT_TIDE n) (tideWord step Phase.SEAL 0) (setR (Reg.PAN_SLOT_SEQ n) (BitVec.ofNat 64 seq) s)
  let s := setR (Reg.PAN_SLOT_FILLED n) 0 (setR (Reg.PAN_SLOT_MIRRORED n) 0 (setR (Reg.PAN_SLOT_HARVESTED n) 0 s))
  let s := when due (fun s =>
    when (s.on (Reg.PAN_D_TRIG d) F.PAN_D_TRIG_EN) (armTrigger d step) (put (Reg.PAN_D_STATUS d) F.PAN_D_STATUS_CKPT_DUE 0 s)) s
  let owes := (List.range 144).filter (s.captureWaits d)
  let s := writeOnDie n d step seq due rs s
  let s := reguard (setPanSlot n ⟨order, todo, none, none, owes⟩ s)
  when (s.on (Reg.PAN_D_BUDDY d) F.PAN_D_BUDDY_EN) (mirrorStart n) s

/-- A pan that cannot be taken (R369). -/
def skipPan (d reason : Nat) (s : State) : State :=
  let s := put (Reg.PAN_D_STATUS d) F.PAN_D_STATUS_LAST_SKIP reason s
  let s := bump Reg.PAN_SKIPS (raise Reg.PAN_STATUS F.PAN_STATUS_SKIPPED s)
  postCorrected 0x0080 .pan none (some d) (reason + 256 * d) s

/-- A pan is to be taken for domain `d`: taken, or skipped with the first reason that applies (R369). -/
def takePan (d step : Nat) (due : Bool) (s : State) : State :=
  match s.panFreeSlot with
  | none => skipPan d 1 s
  | some n =>
    if s.panFilling d then skipPan d 2 s
    else
      let (s, rs) := readRegions d step s
      match rs with
      | none => skipPan d 3 s
      | some rs =>
        if s.panBytes < panData + (rs.map fun r => regLen r.2).sum then skipPan d 4 s
        else startPan n d step due rs s

/-- The decision at the fence of domain `d` (R367, R368, R442), after step 3 of R89. -/
def panFence (d : Nat) (s : State) : State :=
  let st := Reg.PAN_D_STATUS d
  let due := s.on st F.PAN_D_STATUS_CKPT_DUE
  let mode := s.fld (Reg.PAN_D_CTRL d) F.PAN_D_CTRL_MODE
  if s.on (Reg.RPL_D_CTRL d) F.RPL_D_CTRL_SANDBOX then put st F.PAN_D_STATUS_CKPT_DUE 0 s
  else if mode = 0 then when due (fun s => raise st F.PAN_D_STATUS_CKPT_DROPPED (put st F.PAN_D_STATUS_CKPT_DUE 0 s)) s
  else if mode = 1 ∧ !due then s
  else takePan d (tideStep (s.tide d)) due s

/-! ### Releasing slots and commands (R392, R393, R429) -/

/-- A slot becomes FREE: its registers but TIDE and SEQ are at rest, and nothing of it is in progress. -/
def freeSlot (n : Nat) (s : State) : State :=
  dropMirrorReqs n (setPanSlot n PanSlot.init (setR (Reg.PAN_SLOT_STATUS n)
    ((0 : Word).put F.PAN_SLOT_STATUS_DOMAIN (s.panDom n)) s))

/-- Whether R392 and R429 let slot `n` become FREE. -/
def State.panReleasable (s : State) (n : Nat) : Bool :=
  let d := s.panDom n
  let buddy := s.on (Reg.PAN_D_BUDDY d) F.PAN_D_BUDDY_EN
  s.panSt n == PanSt.FULL && !s.panBit n F.PAN_SLOT_STATUS_HOLD && s.phase d != Phase.PAUSE &&
    (!s.panBit n F.PAN_SLOT_STATUS_CKPT || s.panBit n F.PAN_SLOT_STATUS_HRV_ACK) &&
    (s.panBit n F.PAN_SLOT_STATUS_MIR_ACK || s.panBit n F.PAN_SLOT_STATUS_POISON || !buddy) &&
    (List.range s.panCount).any fun m =>
      s.panSt m == PanSt.FULL && s.panDom m == d && decide ((s.reg (Reg.PAN_SLOT_SEQ n)).toNat < (s.reg (Reg.PAN_SLOT_SEQ m)).toNat) &&
        !s.panBit m F.PAN_SLOT_STATUS_POISON && (s.panBit m F.PAN_SLOT_STATUS_MIR_ACK || !buddy)

/-- SLOT_FREE (R392, R429). A slot that the rules keep has no such event (log 6). -/
def execSlotFree (n : Fin 4) (s : State) : Outcome State Fault Refusal :=
  .next (when (decide (n.val < s.panCount) && s.panReleasable n.val) (freeSlot n.val) s)

/-- COMPLETION of PAN_STATUS. -/
def panDone (code : Nat) (s : State) : State := put Reg.PAN_STATUS F.PAN_STATUS_COMPLETION code s

/-- A PAN_CMD command on slot `n` (R393): ignored with BAD_WRITE while one runs, REFUSED unless the slot is FULL and `ok`. -/
def panCmd (n : Nat) (ok : State → Bool) (f : State → State) (s : State) : State :=
  if s.on Reg.PAN_STATUS F.PAN_STATUS_CMD_BUSY then badWrite Reg.PAN_CMD s
  else if decide (n < s.panCount) && s.panSt n == PanSt.FULL && ok s then panDone Code.DONE (f s)
  else panDone Code.REFUSED s

/-- HOLD (R393). -/
def execHold (n : Fin 4) (s : State) : Outcome State Fault Refusal :=
  .next (panCmd n.val (fun _ => true) (put (Reg.PAN_SLOT_STATUS n.val) F.PAN_SLOT_STATUS_HOLD 1) s)

/-- UNHOLD (R393). -/
def execUnhold (n : Fin 4) (s : State) : Outcome State Fault Refusal :=
  .next (panCmd n.val (fun _ => true) (put (Reg.PAN_SLOT_STATUS n.val) F.PAN_SLOT_STATUS_HOLD 0) s)

/-- The harvest of slot `n` stops without acknowledgement. -/
def stopHarvest (n : Nat) (s : State) : State :=
  match s.harvest with
  | some h => if h.slot = n then put Reg.HRV_STATUS F.HRV_STATUS_BUSY 0 { s with harvest := none } else s
  | none => s

/-- DISCARD (R393). -/
def execDiscard (n : Fin 4) (s : State) : Outcome State Fault Refusal :=
  .next (panCmd n.val (fun s => !s.panBit n.val F.PAN_SLOT_STATUS_HOLD) (fun s => freeSlot n.val (stopHarvest n.val s)) s)

/-- MIR_RETRY (R385, R393): the mirror restarts from step 1. -/
def execMirRetry (n : Fin 4) (s : State) : Outcome State Fault Refusal :=
  .next (settle (panCmd n.val
    (fun s => !s.panBit n.val F.PAN_SLOT_STATUS_POISON && (s.panSlot n.val).mirror.isNone)
    (fun s => mirrorStart n.val (put (Reg.PAN_SLOT_STATUS n.val) F.PAN_SLOT_STATUS_MIR_ACK 0 s)) s))

/-! ### RESTORE (R394) -/

/-- The ranges of an image that a RESTORE reads, in order: the header, the list copy, each region's data, the commit words, the
version records, the generator states, and the cursor. -/
def restoreRange (x : Restore) : Option (Nat × Nat) :=
  let n := field x.head 14 2
  let entry := (x.list.drop (32 * (x.range - 2))).take 32
  if x.range = 0 then some (0, 256)
  else if x.range = 1 then some (0x90000, 32 * n)
  else if x.range < 2 + n then some (panData + field entry 8 8, field entry 16 4)
  else match x.range - (2 + n) with
    | 0 => some (0x2000, 0x8000)
    | 1 => some (0x10000, 0x80000)
    | 2 => some (0x200, 4608)
    | 3 => some (0x100, 32)
    | _ => none

/-- Step 2 of R394: CUR and STEP of the domain's commit words, where R348 lets them be written. -/
def restoreCommits (d : Nat) (data : List Byte) (s : State) : State :=
  forEach (s.domEntries d) (fun k s =>
    let w : Word := BitVec.ofNat 64 (field data (8 * k) 8)
    let r := Reg.UPD_COMMIT k
    if s.runSt k = RunSt.RUNNING then s
    else put r F.UPD_COMMIT_CUR (w.get F.UPD_COMMIT_CUR) (put r F.UPD_COMMIT_STEP (w.get F.UPD_COMMIT_STEP) s)) s

/-- Step 3 of R394: the saved version records, and INFLIGHT of the domain's stages. -/
def restoreVersions (d : Nat) (data : List Byte) (s : State) : State :=
  let s := forEach (s.domVersions d) (fun e s =>
    { s with versions := Store.update (fun _ => Version.init) s.versions e.1 Version.init }) s
  let s := forEach (List.range 32768) (fun i s =>
    let r := (data.drop (16 * i)).take 16
    let b := field r 10 1
    let v : Version := ⟨field r 0 8, field r 8 2 % 4096, b % 4, 0, false, bits b 5 3, bit b 2⟩
    if b % 4 = 0 then s else { s with versions := Store.update (fun _ => Version.init) s.versions i v }) s
  forEach (List.range 16) (fun k s =>
    let c := s.fld (Reg.STG_S_CTRL k) F.STG_S_CTRL_CONTEXT
    when (s.on (Reg.STG_S_CTRL k) F.STG_S_CTRL_VALID && s.ctxDomain c == d)
      (put (Reg.STG_S_STATUS k) F.STG_S_STATUS_INFLIGHT 0) s) s

/-- A write of a RESTORE. -/
def restoreWrite (a : Nat) (data : List Byte) (s : State) : State := (hbmWrite true a data 0 4096 0 s).1

/-- Step 4 of R394: each VALID generator state, into its tile or into its context's saved state. -/
def restoreGenerators (data : List Byte) (s : State) : State :=
  forEach (List.range 144) (fun l s =>
    let g := (data.drop (32 * l)).take 32
    let c := field g 24 2 % 4096
    let p := s.phys l
    if !bit (field g 24 2) 15 then s
    else if s.tileCtx p = some c then
      setWords (Reg.TILE_RNG_KEY p) ((List.range 3).map fun i => BitVec.ofNat 64 (field g (8 * i) 8)) s
    else if s.present c && (s.partTiles (s.ctxPart c)).contains l then restoreWrite (s.imageOf c l + 0x400020) (g.take 24) s
    else s) s

/-- The requirements on the header (R394). -/
def restoreHeadOk (d : Nat) (h : List Byte) : Bool :=
  tidePhase (BitVec.ofNat 64 (field h 0 8)) == Phase.SEAL && field h 12 1 % 16 == d && decide (field h 14 2 ≤ 4096)

/-- A range of the image has been read: it takes effect, and the next one is to be read. The code is the end's. -/
def restoreTake (x : Restore) (data : List Byte) (s : State) : State × Restore :=
  let n := field x.head 14 2
  let next : Restore := { x with range := x.range + 1, got := [] }
  if x.range = 0 then
    (s, if restoreHeadOk x.domain data then { next with head := data } else { x with code := some Code.REFUSED })
  else if x.range = 1 then (s, { next with list := data })
  else if x.range < 2 + n then
    let a := field ((x.list.drop (32 * (x.range - 2))).take 32) 0 8
    if hbmEnd < a + data.length then (addressFault 4096 a s, { x with code := some Code.REFUSED })
    else
      let (s, c) := hbmWrite true a data 0 4096 0 s
      (s, if c = Code.DONE then next else { x with code := some c })
  else match x.range - (2 + n) with
    | 0 => (restoreCommits x.domain data s, next)
    | 1 => (restoreVersions x.domain data s, next)
    | 2 => (restoreGenerators data s, next)
    | _ =>
      ((match s.cursorAddr x.domain with
        | some a => if a + 32 ≤ hbmEnd then restoreWrite a data s else addressFault 4096 a s
        | none => s), { next with code := some Code.DONE })

/-- A RESTORE reads its ranges from this device until it ends; there are at most 4,102 of them. -/
def restoreLocal : Nat → Restore → State → State × Restore
  | 0, x, s => (s, x)
  | f + 1, x, s =>
    match x.code, restoreRange x with
    | some _, _ => (s, x)
    | none, none => (s, { x with code := some Code.DONE })
    | none, some (o, n) =>
      if s.memRefuses ∨ hbmEnd < x.base + o + n then (s, { x with code := some Code.REFUSED })
      else
        let (s, data, bad) := hbmRead (x.base + o) n 0 s
        if bad.isSome then (s, { x with code := some Code.POISONED })
        else
          let (s, x) := restoreTake x data s
          restoreLocal f x s

/-- A RESTORE from another device asks for the next 256 bytes of its range (R394); an empty range takes effect at once. -/
def restoreAsk : Nat → State → State
  | 0, s => s
  | f + 1, s =>
    match s.restoring with
    | none => s
    | some x =>
      match x.dev, x.code, restoreRange x with
      | some dev, none, some (o, n) =>
        if n = 0 then
          let (s, x) := restoreTake x [] s
          restoreAsk f { s with restoring := some x }
        else
          let c := s.panCtx x.domain
          let k := min 256 (n - x.got.length)
          let a := x.base + o + x.got.length
          let (s, t) := openReq dev c (s.epoch c) a k .restore s
          let (s, code) := sendRequest (mkPacket s dev c (s.epoch c) Cls.DATA Op.READ_REQ t a (k - 1) []) s
          if code = Code.DONE then s else closeReq t { s with restoring := some { x with code := some code } }
      | some _, none, none => { s with restoring := some { x with code := some Code.DONE } }
      | _, _, _ => s

/-- The answer to a read of a RESTORE. -/
def restoreAnswer (code : Nat) (data : List Byte) (s : State) : State :=
  match s.restoring with
  | none => s
  | some x =>
    if x.code.isSome then s
    else if code ≠ Code.DONE then { s with restoring := some { x with code := some code } }
    else
      let got := x.got ++ data
      match restoreRange x with
      | none => s
      | some (_, n) =>
        if got.length < n then restoreAsk 8192 { s with restoring := some { x with got := got } }
        else
          let (s, x) := restoreTake x got s
          restoreAsk 8192 { s with restoring := some x }

/-- Whether no tile holds a context of domain `d` in STATE RUNNING. -/
def State.domStill (s : State) (d : Nat) : Bool :=
  (List.range 160).all fun p => match s.tileCtx p with
    | some c => !(s.present c && s.ctxDomain c == d && s.tileSt p == TileSt.RUNNING)
    | none => true

/-- RESTORE (R394): refused unless its requirements hold; from this device it acts at once, from another one it reads the image
over the fabric. A source that is not HBM is refused (DEDUCED, log 43). -/
def execRestore (d : Fin 16) (s : State) : Outcome State Fault Refusal :=
  let src := (s.reg Reg.PAN_RESTORE_SRC).toNat
  let busy := put Reg.PAN_STATUS F.PAN_STATUS_CMD_BUSY 1
  let fresh (dev : Option Nat) (a : Nat) : Restore := ⟨d.val, dev, a, [], [], 0, [], none⟩
  if s.on Reg.PAN_STATUS F.PAN_STATUS_CMD_BUSY then .next (badWrite Reg.PAN_CMD s)
  else if !(s.restful d.val && !s.panFilling d.val && s.domStill d.val) then .next (panDone Code.REFUSED s)
  else match s.target src 256 with
    | .hbm a =>
      let (s, x) := restoreLocal 8192 (fresh none a) s
      if x.range = 0 ∧ x.code = some Code.REFUSED then .next (settle (panDone Code.REFUSED s))
      else .next (settle (busy { s with restoring := some x }))
    | .remote dev a => .next (settle (restoreAsk 8192 (busy { s with restoring := some (fresh (some dev) a) })))
    | _ => .next (panDone Code.REFUSED s)

/-- RESTORE_DONE (R394): the command completes with its code. A RESTORE that still reads has no such event (log 6). -/
def execRestoreDone (s : State) : Outcome State Fault Refusal :=
  match s.restoring with
  | none => .next s
  | some x => match x.code with
    | none => .next s
    | some c => .next (panDone c (put Reg.PAN_STATUS F.PAN_STATUS_CMD_BUSY 0 { s with restoring := none }))

/-! ### Registers (R360, R371, R395) -/

/-- PAN_RESERVE_WRITE (R360): only while every slot is FREE, and with every byte of the reserve within HBM; a reserved SIZE_GIB keeps its value. -/
def execPanReserveWrite (v : Word) (s : State) : Outcome State Fault Refusal :=
  let size := v.get F.PAN_RESERVE_SIZE_GIB
  let size := if 128 < size then s.fld Reg.PAN_RESERVE F.PAN_RESERVE_SIZE_GIB else size
  let free := (List.range s.panCount).all fun n => s.panSt n = PanSt.FREE
  let inside := decide (size = 0 ∨ v.get F.PAN_RESERVE_BASE * 0x40000000 + size * 0x40000000 ≤ hbmEnd)
  .next (writeIf (free && inside) Reg.PAN_RESERVE v s)

/-- A write to PAN_Dd_TRIG: EN going from 0 to 1 arms the step slot from the current step (R371). -/
def panTrig (d : Nat) (v : Word) (s : State) : State :=
  let was := s.on (Reg.PAN_D_TRIG d) F.PAN_D_TRIG_EN
  let s := genericWrite (Reg.PAN_D_TRIG d) v s
  when (!was && s.on (Reg.PAN_D_TRIG d) F.PAN_D_TRIG_EN) (armTrigger d (tideStep (s.tide d))) s

/-- PAN_TRIG_WRITE (R371). -/
def execPanTrigWrite (d : Fin 16) (v : Word) (s : State) : Outcome State Fault Refusal := .next (panTrig d.val v s)

/-- PAN_DOMAIN_WRITE (R395): the settings of a domain are locked while one of its fills or mirrors runs; MODE and TRIG are not. -/
def execPanDomainWrite (d : Fin 16) (off : BitVec 7) (v : Word) (s : State) : Outcome State Fault Refusal :=
  let r := Reg.PAN_D_CTRL d.val + off.toNat
  let busy := s.panFilling d.val || s.panMirroring d.val
  if r = Reg.PAN_D_TRIG d.val then .next (panTrig d.val v s)
  else if r = Reg.PAN_D_CTRL d.val then
    let locked := busy && v.get F.PAN_D_CTRL_CONTEXT != s.panCtx d.val
    .next (if locked then badWrite r (genericWrite r (keepFld r F.PAN_D_CTRL_CONTEXT v s) s) else genericWrite r v s)
  else if [Reg.PAN_D_LIST d.val, Reg.PAN_D_CURSOR d.val, Reg.PAN_D_BUDDY d.val, Reg.PAN_D_BUDDY_BASE d.val].contains r then
    .next (writeIf (!busy) r v s)
  else .next (genericWrite r v s)

end Sys2Proof.Machine
end

