-- ==== Sys2Proof/Machine/Telemetry.lean ====
section
/-! DEFINITION. Telemetry records (R527, R528), and what a tide value does to a deferred activation (R512): what the management
core takes from the tide; and the loaded queue-pair table (R529). -/
namespace Sys2Proof.Machine

/-- Every statistics counter of the device, in ascending BAR0 offset (R528). -/
def allCounters : List Nat := ((List.range 0xA00000).map (8 * ·)).filter isCounter

/-- The physical tile in whose register space an offset lies. -/
def tileOfOff (off : Nat) : Option Nat :=
  if unitOf off = some .tile then some ((off - Reg.TILE_CTRL 0) / 0x10000) else none

/-- Whether an offset lies in the space of a tile that is FUSED_OFF or RETIRED, whose registers read zero (R40). -/
def State.deadTile (s : State) (off : Nat) : Bool :=
  match tileOfOff off with
  | some p => s.fld (Reg.FLR_PTILE p) F.FLR_PTILE_STATE == 0 || s.fld (Reg.FLR_PTILE p) F.FLR_PTILE_STATE == 3
  | none => false

/-- The bytes of a telemetry record (R528). -/
def State.telemetry (s : State) : List Byte :=
  let d := s.fld Reg.MGT_TELEM F.MGT_TELEM_DOMAIN
  bytesOf 8 (s.tide d).toNat ++ bytesOf 8 s.now ++ bytesOf 4 allCounters.length ++ bytesOf 4 s.mgmt.records ++
    List.replicate 40 0 ++
    allCounters.flatMap fun off => bytesOf 8 (if s.deadTile off then 0 else (s.reg off).toNat)

/-- A trigger of a record: it is written, or dropped while one is being written (R528); one that leaves HBM is refused (R54). The first
record is number 0. -/
def takeRecord (s : State) : State :=
  if s.mgmt.recording then raise Reg.MGT_TELEM F.MGT_TELEM_TELEM_OVERRUN s
  else
    let data := s.telemetry
    let a := s.fld Reg.MGT_TELEM F.MGT_TELEM_DEST * 64
    let s := if hbmEnd < a + data.length then addressFault 4096 a s else (hbmWrite false a data 0 4096 0 s).1
    { s with mgmt := { s.mgmt with recording := true, records := s.mgmt.records + 1 } }

/-- A fence of domain `d` takes a record where FENCE_EN names it (R528). -/
def telemFence (d : Nat) (s : State) : State :=
  when (s.on Reg.MGT_TELEM F.MGT_TELEM_FENCE_EN && s.fld Reg.MGT_TELEM F.MGT_TELEM_DOMAIN == d) takeRecord s

/-- Domain `d` no longer holds back an activation (R512). -/
def fwClear (d : Nat) (s : State) : State := put Reg.MGT_CMD_STATUS ⟨48 + d, 48 + d⟩ 0 s

/-- Whether the loaded table holds local queue pair `qp` as a valid pair of a USER, reliable (RC) or not (R529, R530). -/
def State.qpIs (s : State) (qp user : Nat) (rc : Bool) : Bool :=
  let e := (s.mgmt.qps.drop (64 * qp)).take 64
  decide (2 ≤ qp) && e.length == 64 && bit (field e 0 1) 0 && bit (field e 0 1) 1 != rc && field e 1 1 == user

end Sys2Proof.Machine
end

