-- ==== Sys2Proof/Machine/Comet.lean ====
section
/-! DEFINITION. The comet engine (chapter 15): outer steps and the post-pass (R448 to R457), comets, their check and their
parity (R458 to R461), lanes and deep buffers (R462 to R466), the gate and the merge set (R467 to R469), commands (R473) and the
COM registers (R474). -/
namespace Sys2Proof.Machine

open Host (Outcome)

namespace Kind
def DATA : Nat := 0
def PARITY : Nat := 1
def MERGED : Nat := 2
def REQUEST : Nat := 3
end Kind

namespace SiteSt
def ABSENT : Nat := 0
def JOINING : Nat := 1
def ACTIVE : Nat := 2
end SiteSt

/-- The group number that names every group (R459). -/
def everyGroup : Nat := 0xFFFFFFFF
/-- Bytes of a comet's payload. -/
def cometBytes : Nat := 0x100000
/-- Bytes of an inbound slot. -/
def slotStride : Nat := 0x101000

def setFar (f : Far → Far) (s : State) : State := { s with far := f s.far }

/-! ### Outer steps (R448) -/

/-- Whether the comet engine serves domain `d`. -/
def State.comOn (s : State) (d : Nat) : Bool :=
  s.on Reg.COM_CTRL F.COM_CTRL_EN && s.fld Reg.COM_CTRL F.COM_CTRL_DOMAIN == d
/-- The domain that COM_CTRL names. -/
def State.comDom (s : State) : Nat := s.fld Reg.COM_CTRL F.COM_CTRL_DOMAIN
/-- OUTER_EVERY of a domain. -/
def State.outerEvery (s : State) (d : Nat) : Nat := s.fld (Reg.TIDE_CTRL d) F.TIDE_CTRL_OUTER_EVERY
/-- Whether an outer step follows step `n`, with H = `h`. -/
def outerStep (h n : Nat) : Bool := h != 0 && (n + 1) % h == 0
/-- Whether step `n` is a merge step, with H = `h`. -/
def mergeStep (h n : Nat) : Bool := h != 0 && n != 0 && n % h == 0
/-- This device's site. -/
def State.site (s : State) : Nat := s.fld Reg.COM_CTRL F.COM_CTRL_SITE
/-- STATE, NEXT_J and ARRIVED_J of a site. -/
def State.siteSt (s : State) (p : Nat) : Nat := s.fld (Reg.COM_SITE_CTRL p) F.COM_SITE_CTRL_STATE
def State.nextJ (s : State) (p : Nat) : Nat := s.fld (Reg.COM_SITE_STATUS p) F.COM_SITE_STATUS_NEXT_J
def State.arrivedJ (s : State) (p : Nat) : Nat := s.fld (Reg.COM_SITE_STATUS p) F.COM_SITE_STATUS_ARRIVED_J
/-- The sites in one of the states of `l` other than this device's own, in ascending order. -/
def State.sitesIn (s : State) (l : List Nat) : List Nat :=
  (List.range 64).filter fun p => l.contains (s.siteSt p) && p != s.site

/-- READY of a domain is raised, never lowered (R79, R468). -/
def raiseReady (d : Nat) (v : Word) (s : State) : State :=
  when (decide ((s.reg (Reg.TIDE_READY d)).toNat < v.toNat)) (setR (Reg.TIDE_READY d) v) s

/-! ### The comet table (R449) -/

/-- A comet entry; `rsv` says that a reserved field is not zero. -/
structure ComEntry where
  anchor : Nat × Nat
  cb : Nat × Nat
  k : Nat
  mstream : Nat
  wstream : Nat
  rsv : Bool
  deriving DecidableEq, Repr

/-- A comet entry read from its 64 bytes. -/
def readComEntry (b : List Byte) : ComEntry :=
  { anchor := (field b 0 8, field b 8 8), cb := (field b 16 8, field b 24 8), k := field b 32 2 % 4096
    mstream := field b 34 1 % 8, wstream := field b 34 1 / 8 % 8
    rsv := field b 32 2 / 4096 != 0 || field b 34 1 / 64 != 0 || field b 35 29 != 0 }

/-- The address of comet entry `i`. -/
def State.comEntryAddr (s : State) (i : Nat) : Nat := s.fld Reg.COM_TABLE F.COM_TABLE_BASE * 64 + 64 * i
/-- Comet entry `i`. -/
def State.comEntry (s : State) (i : Nat) : ComEntry := readComEntry (s.tableBytes (s.comEntryAddr i) 64)
def State.comCount (s : State) : Nat := s.fld Reg.COM_TABLE F.COM_TABLE_COUNT
/-- The comet entry that names shard entry `k`. -/
def State.comIndex (s : State) (k : Nat) : Option Nat := (List.range s.comCount).find? fun i => (s.comEntry i).k = k

/-- Of a pair of slots, the committed one (`cur`), and the other. -/
def slotOf (p : Nat × Nat) (cur : Nat) : Nat := if cur = 0 then p.1 else p.2

/-- MSTREAM and WSTREAM are what R449 requires. -/
def streamsOk (c : ComEntry) (e : Shard) : Bool :=
  (match e.streams[c.mstream]? with
    | some t => t.role == Role.OUT && t.slot == 1 && t.fmt == 0
    | none => false) &&
  match e.streams[c.wstream]? with
  | some t => t.role == Role.OUT
  | none => false

/-- K, the blocks that the compression keeps of B (R454). -/
def State.keptCount (s : State) (b : Nat) : Nat := ceilDiv (s.fld Reg.COM_CTRL F.COM_CTRL_KEEP * b) 256
/-- Bytes of an entry's part of the serialised difference (R455). -/
def State.partBytes (s : State) (b : Nat) : Nat := 16 + ceilDiv b 8 + 17 * s.keptCount b
/-- Bytes of the whole serialised difference. -/
def State.diffBytes (s : State) : Nat :=
  ((List.range s.comCount).map fun i => s.partBytes ((readShard (s.shardEntry (s.comEntry i).k)).n / 32)).sum

/-! ### Deep buffers (R455, R463) -/

/-- MiB units of the outbound buffer. -/
def State.outUnits (s : State) : Nat := 1024 * s.fld Reg.COM_OUTBUF F.COM_OUTBUF_GIB
/-- The address of MiB unit `u` of the outbound buffer. -/
def State.outAddr (s : State) (u : Nat) : Nat := s.fld Reg.COM_OUTBUF F.COM_OUTBUF_BASE * 0x40000000 + u * cometBytes
/-- The units in use. -/
def State.usedUnits (s : State) : List Nat := s.far.outs.flatMap (·.units)
/-- The address of slot `n` of the inbound buffer. -/
def State.inAddr (s : State) (n : Nat) : Nat := s.fld Reg.COM_INBUF F.COM_INBUF_BASE * 0x40000000 + n * slotStride

/-- COM_LEVELS shows the MiB in use. -/
def showFar (s : State) : State :=
  let slots := (s.far.ins.map fun d => (d.groups.map fun g => g.comets.length).sum).sum
  put Reg.COM_LEVELS F.COM_LEVELS_OUT s.usedUnits.length (put Reg.COM_LEVELS F.COM_LEVELS_IN (ceilDiv (slots * slotStride) 0x100000) s)

/-- Fields of the peer table's entry of site `p` (32 bytes; DESIGN CHOICE, log 45). -/
def State.peer (s : State) (p : Nat) : List Byte := (s.far.peers.drop (32 * p)).take 32
def State.remoteBase (s : State) (p : Nat) : Nat := field (s.peer p) 0 8
def State.remoteSlots (s : State) (p : Nat) : Nat := field (s.peer p) 12 4
def State.inOff (s : State) (p : Nat) : Nat := field (s.peer p) 16 4
def State.inSlots (s : State) (p : Nat) : Nat := field (s.peer p) 20 4

/-- Bytes of HBM read by the comet engine for itself, with the hint NORMAL (R226): a place outside HBM (R54), memory that refuses (R221) and
poison fail the work in hand. -/
def farRead (a n : Nat) (x : RunEnv) : RunEnv × List Byte :=
  if x.fail.isSome then (x, [])
  else if hbmEnd < a + n then ({ x with s := addressFault 4096 a x.s, fail := some Code.REFUSED }, [])
  else if x.s.memRefuses then ({ x with fail := some Code.REFUSED }, [])
  else
    let (s, b, bad) := hbmRead a n 0 x.s
    match bad with
    | none => ({ x with s := s }, b)
    | some la => ({ x with s := s, fail := some Code.POISONED, line := la }, b)

/-- Work of the comet engine on a state, with nothing failed yet. -/
def RunEnv.fresh (s : State) : RunEnv := ⟨s, none, 0, false, []⟩

/-- Bytes [off, off + n) of a difference whose MiB `c` lies at address `loc c`, read by the comet engine. -/
def spanRead (loc : Nat → Nat) (off n : Nat) (x : RunEnv) : RunEnv × List Byte :=
  if n = 0 then (x, [])
  else (List.range ((off + n - 1) / cometBytes + 1 - off / cometBytes)).foldl (fun (x, acc) i =>
    let c := off / cometBytes + i
    let lo := max off (c * cometBytes)
    let hi := min (off + n) ((c + 1) * cometBytes)
    let (x, b) := farRead (loc c + (lo - c * cometBytes)) (hi - lo) x
    (x, acc ++ b)) (x, [])

/-- Where MiB `c` of an inbound difference lies. -/
def InDiff.loc (d : InDiff) (c : Nat) : Nat :=
  let k := max 1 (((d.groups.find? (·.group = 0)).map (·.k)).getD 1)
  (((d.groups.find? (·.group = c / k)).bind fun g => g.comets.find? (·.index = c % k)).map fun x => x.slot + 0x1000).getD 0

/-! ### Parity in GF(2^8) (R209, R461) -/

/-- A power of an element. -/
def gfPow (a : Byte) : Nat → Byte
  | 0 => 1
  | n + 1 => gfMul a (gfPow a n)

/-- The inverse, 0 for 0. -/
def gfInv (a : Byte) : Byte := gfPow a 254

/-- The coefficient c(i, d) of data comet `d` in parity comet `i`. -/
def parityCoef (i d : Nat) : Byte := gfInv (gfPow 2 (32 + i) ^^^ gfPow 2 d)

/-- Bytes multiplied by a field element, and the sum of two byte lists. -/
def gfScale (c : Byte) (l : List Byte) : List Byte := l.map (gfMul c)
def gfAdd (a b : List Byte) : List Byte := List.zipWith (· ^^^ ·) a b

/-- Parity payload `i` of a group's data payloads. -/
def parityOf (i : Nat) (ds : List (List Byte)) : List Byte :=
  ds.zipIdx.foldl (fun acc (d, n) => gfAdd acc (gfScale (parityCoef i n) d)) (List.replicate cometBytes 0)

/-- One column of an elimination on rows of coefficients and payloads. -/
def eliminate (rows : List (List Byte × List Byte)) (col : Nat) : List (List Byte × List Byte) :=
  match rows[col]? with
  | none => rows
  | some r =>
    let v := gfInv (r.1.getD col 0)
    let p : List Byte × List Byte := (r.1.map (gfMul v), gfScale v r.2)
    rows.zipIdx.map fun (q, i) =>
      if i = col then p
      else
        let f := q.1.getD col 0
        (List.zipWith (fun a b => a ^^^ gfMul f b) q.1 p.1, gfAdd q.2 (gfScale f p.2))

/-- The data payloads at `missing` of a group with `k` data comets, from the data held and as many parity payloads
(index i, payload) as are missing. Every square part of the coefficients is invertible, so no row is exchanged. -/
def recover (missing : List Nat) (held : List (Nat × List Byte)) (par : List (Nat × List Byte)) : List (List Byte) :=
  let rows := par.map fun (i, b) =>
    (missing.map (parityCoef i), held.foldl (fun acc (d, x) => gfAdd acc (gfScale (parityCoef i d) x)) b)
  ((List.range missing.length).foldl eliminate rows).map (·.2)

/-! ### The check of a comet (R459, R460) -/

/-- The 60 header bytes before the CRC. -/
def cometHead (c : Comet) : List Byte :=
  bytesOf 8 c.job.toNat ++ bytesOf 4 c.outerJ.toNat ++ bytesOf 1 c.kind.toNat ++ bytesOf 1 c.srcSite.toNat ++
    bytesOf 1 c.dstSite.toNat ++ bytesOf 1 0 ++ bytesOf 2 c.rank.toNat ++ bytesOf 2 0 ++ bytesOf 4 c.seq.toNat ++
    bytesOf 4 c.group.toNat ++ bytesOf 1 c.index.toNat ++ bytesOf 1 c.k.toNat ++ bytesOf 1 c.m.toNat ++ bytesOf 1 0 ++
    bytesOf 4 c.total.toNat ++ bytesOf 4 c.bytes.toNat ++ List.replicate 20 0

/-- The fold word (R460), with the SEQ, site and rank of the end that forms it. -/
def cometFold (c : Comet) (seq site rank : Nat) : List Byte :=
  bytesOf 4 c.outerJ.toNat ++ bytesOf 4 seq ++ bytesOf 4 c.group.toNat ++ bytesOf 1 c.index.toNat ++ bytesOf 1 site ++ bytesOf 2 rank

/-- The CRC of a comet with that fold word. -/
def cometCrc (c : Comet) (seq site rank : Nat) : Nat := crc32c (cometHead c ++ c.payload ++ cometFold c seq site rank)

/-- A comet from this device with its CRC. -/
def mkComet (s : State) (kind site j seq group index k m total bytes : Nat) (payload : List Byte) : Comet :=
  let c : Comet := { job := s.reg Reg.CHK_JOB, outerJ := BitVec.ofNat 32 j, kind := BitVec.ofNat 8 kind
                     srcSite := BitVec.ofNat 6 s.site, dstSite := BitVec.ofNat 6 site
                     rank := BitVec.ofNat 13 (ownRank s.comDom s).2, seq := BitVec.ofNat 32 seq
                     group := BitVec.ofNat 32 group, index := BitVec.ofNat 8 index, k := BitVec.ofNat 8 k, m := BitVec.ofNat 8 m
                     total := BitVec.ofNat 32 total, bytes := BitVec.ofNat 32 bytes, crc := 0, payload := payload }
  { c with crc := BitVec.ofNat 32 (cometCrc c seq site c.rank.toNat) }

/-! ### Sending (R458, R461 to R464) -/

/-- The valid lanes of a site, in ascending order; a lane without a connected queue pair carries nothing (R530). -/
def State.lanesOf (s : State) (p : Nat) : List Nat :=
  (List.range 64).filter fun l => s.on (Reg.COM_LANE l) F.COM_LANE_VALID && s.fld (Reg.COM_LANE l) F.COM_LANE_SITE == p &&
    s.qpIs (s.fld (Reg.COM_LANE l) F.COM_LANE_QP) 3 false

/-- The next SEQ and the FREE_SEQ received, by site. -/
def State.comSeq (s : State) (p : Nat) : Nat := Store.lookup (fun _ => 0) s.far.seqs p
def State.freeSeq (s : State) (p : Nat) : Nat := Store.lookup (fun _ => 0) s.far.frees p

/-- Data comets and groups of a difference. -/
def OutDiff.total (d : OutDiff) : Nat := ceilDiv d.bytes cometBytes
def OutDiff.groups (d : OutDiff) : Nat := ceilDiv d.total (max 1 d.k)
/-- K of a group. -/
def OutDiff.groupK (d : OutDiff) (g : Nat) : Nat := min d.k (d.total - g * d.k)

/-- The payload of data comet `c` of a difference: its MiB, zero after BYTES. -/
def State.dataPayload (s : State) (d : OutDiff) (c : Nat) : List Byte :=
  let n := min cometBytes (d.bytes - c * cometBytes)
  (match d.units[c]? with | some u => s.tableBytes (s.outAddr u) n | none => List.replicate n 0) ++ List.replicate (cometBytes - n) 0

/-- Outbound difference `j` changed. -/
def updOut (j : Nat) (f : OutDiff → OutDiff) (s : State) : State :=
  setFar (fun x => { x with outs := x.outs.map fun d => if d.j = j then f d else d }) s
def updSite (j p : Nat) (f : OutSite → OutSite) (s : State) : State :=
  updOut j (fun d => { d with sites := d.sites.map fun x => if x.site = p then f x else x }) s

/-- One step of sending difference `j` to site `p`: a group starts or ends, or a comet leaves; `none` where it must wait. Comets of a group
whose lane has been removed go on the lanes that are left of those counted, or, with none left, on the site's lanes of now (R463;
DESIGN CHOICE, log 65). -/
def sendOne (j p : Nat) (s : State) : Option State :=
  match s.far.outs.find? (·.j = j) with
  | none => none
  | some d =>
    match d.sites.find? (·.site = p) with
    | none => none
    | some x =>
      match x.cur with
      | none =>
        (match x.todo with
        | [] => none
        | g :: rest =>
          if s.lanesOf p = [] then none
          else
            let c : SendGroup := ⟨g, 0, s.fld Reg.COM_CTRL F.COM_CTRL_M, s.lanesOf p⟩
            some (updSite j p (fun y => { y with cur := some c, todo := rest }) s))
      | some c =>
        let k := d.groupK c.group
        if k + c.m ≤ c.next then some (updSite j p (fun y => { y with cur := none }) s)
        else
          let n := s.comSeq p
          let now := s.lanesOf p
          let kept := c.lanes.filter now.contains
          let c := if kept = [] then { c with lanes := now } else c
          let lanes := if kept = [] then now else kept
          if s.freeSeq p + s.remoteSlots p ≤ n ∨ lanes = [] ∨ s.memRefuses then none
          else
            let first := c.group * d.k
            let payload := if c.next < k then s.dataPayload d (first + c.next)
              else parityOf (c.next - k) ((List.range k).map fun i => s.dataPayload d (first + i))
            let kind := if c.next < k then Kind.DATA else Kind.PARITY
            let out := mkComet s kind p j n c.group c.next k c.m d.total d.bytes payload
            let addr := s.remoteBase p + n % max 1 (s.remoteSlots p) * slotStride
            let lane := lanes.getD (c.next % c.lanes.length % lanes.length) 0
            let s := emit (.comet lane (some addr) out) (bump Reg.COM_TX_COMETS s)
            let s := setFar (fun y => { y with seqs := Store.update (fun _ => 0) y.seqs p ((n + 1) % 2 ^ 32) }) s
            some (updSite j p (fun y => { y with cur := some { c with next := c.next + 1 } }) s)

/-- Sending to a site until it must wait, at most `n` steps. -/
def sendAll : Nat → Nat → Nat → State → State
  | 0, _, _, s => s
  | n + 1, j, p, s => match sendOne j p s with
    | some s => sendAll n j p s
    | none => s

/-- A control comet leaves on the lowest valid lane of its site, or waits (R463). -/
def sendControl (c : CtlComet) (s : State) : State :=
  match s.lanesOf c.site with
  | l :: _ => emit (.comet l none (mkComet s c.kind c.site c.j c.seq c.group 0 0 0 0 0 [])) (bump Reg.COM_TX_COMETS s)
  | [] => setFar (fun x => { x with ctl := x.ctl ++ [c] }) s

/-- Everything that may leave does: control comets, then each difference to each of its sites. With OUTER_EVERY 0 nothing is sent (R448). -/
def pumpComets (s : State) : State :=
  if s.fatal || !s.on Reg.COM_CTRL F.COM_CTRL_EN || s.outerEvery s.comDom == 0 then s
  else
    let ctl := s.far.ctl
    let s := forEach ctl sendControl (setFar (fun x => { x with ctl := [] }) s)
    showFar (forEach s.far.outs (fun d s =>
      forEach d.sites (fun x s => sendAll (48 * (x.todo.length + 1)) d.j x.site s) s) s)

/-- A control comet to a site. -/
def postControl (site kind j seq group : Nat) (s : State) : State :=
  setFar (fun x => { x with ctl := x.ctl ++ [⟨site, kind, j, seq, group⟩] }) s

/-- A difference that this device and every site that received it have merged leaves the outbound buffer (R464). -/
def dropMerged (s : State) : State :=
  showFar (setFar (fun x => { x with outs := x.outs.filter fun d => !(d.started && d.mine && d.sites.all (·.merged)) }) s)

/-- Sending of difference `j` begins, to every JOINING or ACTIVE site but the own (R458). -/
def beginSending (j : Nat) (s : State) : State :=
  let k := s.fld Reg.COM_CTRL F.COM_CTRL_K_FULL + 1
  let sites := s.sitesIn [SiteSt.JOINING, SiteSt.ACTIVE]
  let s := updOut j (fun d =>
    if d.started then d
    else
      let d := { d with started := true, k := if d.sites = [] then k else d.k }
      { d with sites := sites.map fun p =>
        ⟨p, List.range d.groups, (d.sites.find? (·.site = p)).bind (·.cur), false⟩ }) s
  pumpComets (dropMerged s)

/-- The domain is a sandbox (R442). -/
def State.sandbox (s : State) (d : Nat) : Bool := s.on (Reg.RPL_D_CTRL d) F.RPL_D_CTRL_SANDBOX

/-- Domain `d` enters OUTER of step `step` (R458). -/
def comEnterOuter (d step : Nat) (s : State) : State :=
  let h := s.outerEvery d
  when (s.comOn d && outerStep h step && !s.sandbox d) (beginSending ((step + 1) / max 1 h)) s

/-- An OUTER_START action: the newest difference begins if it has not (R458). -/
def comOuterStart (d : Nat) (s : State) : State :=
  match s.far.outs.getLast? with
  | some x => when (s.comOn d && s.outerEvery d != 0 && !x.started && !s.sandbox d) (beginSending x.j) s
  | none => s

/-! ### Receiving (R465 to R467) -/

/-- A comet fails a check (R465). -/
def discardComet (late : Bool) (s : State) : State :=
  bump Reg.COM_DISCARDS (when late (raise Reg.COM_STATUS F.COM_STATUS_LATE) s)

/-- The slots of site `p`'s differences that satisfy `q` are freed, with those of the comets `late` that are discarded on arrival, and the
FREE_SEQ that will be reported rises to the lowest SEQ still held, or to one above the highest that was held (DESIGN CHOICE, log 46). -/
def freeSlots (p : Nat) (q : InDiff → Bool) (late : List Nat) (s : State) : State :=
  let seqsOf (l : List InDiff) : List Nat := (l.filter (·.site = p)).flatMap fun d => d.groups.flatMap fun g => g.comets.map (·.seq)
  let old := seqsOf s.far.ins ++ late
  let left := s.far.ins.filter fun d => !(d.site == p && q d)
  let n := match (seqsOf left).min? with
    | some m => m
    | none => (old.foldl max 0) + (if old = [] then 0 else 1)
  let was := Store.lookup (fun _ => 0) s.far.reports p
  let s := setFar (fun x => { x with ins := left, reports := Store.update (fun _ => 0) x.reports p (max was n) }) s
  showFar s

/-- A payload comet lands: its header and payload are written into a slot of the inbound buffer. -/
def landComet (slot : Nat) (c : Comet) (s : State) : State :=
  let a := s.inAddr slot
  unitWrite (a + 0x1000) c.payload (unitWrite a (cometHead c ++ bytesOf 4 c.crc.toNat) s)

/-- A control or payload comet of `kind` that passes the checks of R465 goes to `k`; another kind's is none of this row's, unless
it is reserved. `at'` gives the slot that a payload comet lands in and its immediate value: a comet in another slot than its immediate
value names fails the first check, as does one whose fold word differs from the receiver's (R460, R462). -/
def takeComet (kind : Nat) (at' : Option (Nat × Nat)) (c : Comet) (k : State → State) (s : State) : State :=
  if !s.on Reg.COM_CTRL F.COM_CTRL_EN || (c.kind.toNat != kind && decide (c.kind.toNat < 4)) then s
  else
    let p := c.srcSite.toNat
    let s := bump Reg.COM_RX_COMETS s
    let slots := s.inSlots p
    let total := s.fld Reg.COM_INBUF F.COM_INBUF_GIB * 0x40000000 / slotStride
    let s := match at' with
      | some (slot, _) => when (decide (slot < total)) (landComet slot c) s
      | none => s
    let own := (rankOfDevice s.comDom s.deviceId s).2
    let seq := match at' with | some (_, imm) => imm | none => c.seq.toNat
    let placed := match at' with | some (slot, imm) => slots != 0 && slot == s.inOff p + imm % slots | none => true
    if !placed || c.crc.toNat != cometCrc c seq s.site (own.getD 0) || c.payload.length != (if at'.isSome then cometBytes else 0) then
      discardComet false s
    else if c.job ≠ s.reg Reg.CHK_JOB ∨ c.dstSite.toNat ≠ s.site ∨ own ≠ some c.rank.toNat then discardComet false s
    else if c.kind.toNat ≠ kind ∨ s.siteSt p = SiteSt.ABSENT then discardComet false s
    else if at'.isSome && c.outerJ.toNat < s.nextJ p then
      freeSlots p (fun d => decide (d.j < s.nextJ p)) [c.seq.toNat] (discardComet true s)
    else k s

/-- Whether every group of an inbound difference is complete (R467). -/
def InDiff.arrived (d : InDiff) : Bool :=
  let gs := (List.range d.groups.length).map fun g => d.groups.find? (·.group = g)
  gs.all (fun g => match g with | some g => g.complete | none => false) && ((d.groups.map (·.k)).sum == d.total) && d.total != 0

/-- The highest outer step through which every difference from `j` on has arrived, among the next `n`. -/
def arrivedFrom (ins : List InDiff) (p : Nat) : Nat → Nat → Nat
  | 0, j => j
  | n + 1, j => if ins.any fun d => d.site == p && d.j == j + 1 && d.arrived then arrivedFrom ins p n (j + 1) else j

/-- ARRIVED_J of site `p` follows what is held (R467). Outer steps begin at 1. -/
def showArrived (p : Nat) (s : State) : State :=
  let j := arrivedFrom s.far.ins p s.far.ins.length (max 1 (s.nextJ p) - 1)
  put (Reg.COM_SITE_STATUS p) F.COM_SITE_STATUS_ARRIVED_J (max j (s.arrivedJ p)) s

/-- A JOINING site whose difference arrives becomes ACTIVE, and its NEXT_J rises to it (R467). -/
def activateSite (p j : Nat) (s : State) : State :=
  if s.siteSt p = SiteSt.JOINING then
    let s := put (Reg.COM_SITE_CTRL p) F.COM_SITE_CTRL_STATE SiteSt.ACTIVE s
    put (Reg.COM_SITE_STATUS p) F.COM_SITE_STATUS_NEXT_J (max j (s.nextJ p)) s
  else s

/-- A payload held in a slot. -/
def State.slotPayload (s : State) (c : InComet) : List Byte := s.tableBytes (c.slot + 0x1000) cometBytes

/-- A group with K good comets: its missing data comets are rebuilt into the slots of its parity comets (R461). -/
def completeGroup (g : InGroup) (s : State) : State × InGroup :=
  let data := g.comets.filter (·.index < g.k)
  let par := g.comets.filter (g.k ≤ ·.index)
  let missing := (List.range g.k).filter fun i => !data.any (·.index = i)
  if missing = [] then (s, { g with complete := true })
  else
    let use := par.take missing.length
    let out := recover missing (data.map fun c => (c.index, s.slotPayload c)) (use.map fun c => (c.index - g.k, s.slotPayload c))
    let s := forEach (List.zip use out) (fun e s => unitWrite (e.1.slot + 0x1000) e.2 s) s
    let rebuilt := (List.zip missing use).map fun e => { e.2 with index := e.1 }
    (bump Reg.COM_RECOVERED s, { g with comets := data ++ rebuilt ++ par.drop missing.length, complete := true })

/-- A good data or parity comet is stored in its group (R465, R467). -/
def storeComet (c : Comet) (s : State) : State :=
  let p := c.srcSite.toNat
  let j := c.outerJ.toNat
  let slot := s.inAddr (s.inOff p + c.seq.toNat % max 1 (s.inSlots p))
  let d := (s.far.ins.find? fun d => d.site = p ∧ d.j = j).getD ⟨p, j, c.total.toNat, c.bytes.toNat, []⟩
  let g := (d.groups.find? (·.group = c.group.toNat)).getD ⟨c.group.toNat, c.k.toNat, [], false⟩
  if g.complete || g.comets.any (·.index = c.index.toNat) then s
  else
    let g := { g with comets := g.comets ++ [⟨c.index.toNat, c.seq.toNat, slot⟩] }
    let (s, g) := if g.k ≤ g.comets.length then completeGroup g s else (s, g)
    let d := { d with groups := d.groups.filter (·.group ≠ g.group) ++ [g] }
    let s := setFar (fun x => { x with ins := (x.ins.filter fun y => !(y.site == p && y.j == j)) ++ [d] }) s
    let s := when d.arrived (activateSite p j) s
    showFar (showArrived p s)

/-- DATA (R465, R467). -/
def execData (slot imm : BitVec 32) (c : Comet) (s : State) : Outcome State Fault Refusal :=
  .next (settle (takeComet Kind.DATA (some (slot.toNat, imm.toNat)) c (storeComet c) s))

/-- PARITY (R461, R465, R467). -/
def execParity (slot imm : BitVec 32) (c : Comet) (s : State) : Outcome State Fault Refusal :=
  .next (settle (takeComet Kind.PARITY (some (slot.toNat, imm.toNat)) c (storeComet c) s))

/-- MERGED (R464): FREE_SEQ rises, and a difference that every site has merged is dropped. -/
def execMerged (c : Comet) (s : State) : Outcome State Fault Refusal :=
  .next (settle (takeComet Kind.MERGED none c (fun s =>
    let p := c.srcSite.toNat
    let s := setFar (fun x => { x with frees := Store.update (fun _ => 0) x.frees p (max (s.freeSeq p) c.seq.toNat) }) s
    pumpComets (dropMerged (updSite c.outerJ.toNat p (fun y => { y with merged := true }) s))) s))

/-- Groups of difference `j` are sent to site `p` again (R466). -/
def resendGroups (j p : Nat) (gs : List Nat) (s : State) : State :=
  let s := updOut j (fun d => if d.sites.any (·.site = p) then d else { d with sites := d.sites ++ [⟨p, [], none, false⟩] }) s
  bumpBy Reg.COM_RESENDS gs.length (updSite j p (fun y => { y with todo := y.todo ++ gs }) s)

/-- REQUEST (R466): the group is sent again with fresh SEQ values, while its difference is held. -/
def execRequest (c : Comet) (s : State) : Outcome State Fault Refusal :=
  .next (settle (takeComet Kind.REQUEST none c (fun s =>
    match s.far.outs.find? (·.j = c.outerJ.toNat) with
    | none => s
    | some d =>
      if s.outerEvery s.comDom = 0 then s else
      let gs := if c.group.toNat = everyGroup then List.range d.groups
        else if c.group.toNat < d.groups then [c.group.toNat] else []
      pumpComets (resendGroups d.j c.srcSite.toNat gs s)) s))

/-- REQUEST_TIMER (R466): a group with some, but fewer than K, good comets is requested again. -/
def execRequestTimer (site : Fin 64) (j : BitVec 32) (group : BitVec 32) (s : State) : Outcome State Fault Refusal :=
  let g := (s.far.ins.find? fun d => d.site = site.val ∧ d.j = j.toNat).bind fun d => d.groups.find? (·.group = group.toNat)
  match g with
  | some g =>
    .next (if g.complete || g.comets = [] then s else pumpComets (postControl site.val Kind.REQUEST j.toNat 0 group.toNat s))
  | none => .next s

/-! ### The gate (R468) -/

/-- The ACTIVE sites that keep the gate of outer step `j` from holding. -/
def State.overdueSites (s : State) (j : Nat) : List Nat :=
  (s.sitesIn [SiteSt.ACTIVE]).filter fun p => decide (s.arrivedJ p + s.fld Reg.COM_CTRL F.COM_CTRL_W < j)

/-- The merge set of outer step `j`, in ascending (j′, p) order. -/
def State.mergeSet (s : State) (j : Nat) : List (Nat × Nat) :=
  (List.range (j + 1)).flatMap fun i =>
    ((List.range 64).filter fun p =>
      (p == s.site && i == j) ||
        (p != s.site && s.siteSt p == SiteSt.ACTIVE && decide (max 1 (s.nextJ p) ≤ i) && decide (i ≤ min (s.arrivedJ p) j))).map
      fun p => (i, p)

/-- OUTER_GATE (R468): the gate of the step in OUTER holds, so the merge set is frozen and READY is raised. A set that is frozen already
stays as it is. -/
def execOuterGate (s : State) : Outcome State Fault Refusal :=
  let d := s.comDom
  let step := tideStep (s.tide d)
  let h := s.outerEvery d
  let j := (step + 1) / max 1 h
  if !s.comOn d || s.phase d != Phase.OUTER || !outerStep h step || s.overdueSites j != [] || s.fatal ||
      (match s.far.frozen with | some (i, _) => i == j | none => false) then .next s
  else
    let m := s.mergeSet j
    .next (raiseReady d (tideWord (step + 1) Phase.FLOW 0)
      (setFar (fun x => { x with frozen := some (j, m), recorded := false }) s))

/-- The comet engine at the fence of domain `d`, before the pan engine decides (R457, R468). -/
def comFence (d : Nat) (s : State) : State :=
  if !s.comOn d then s
  else
    let step := tideStep (s.tide d)
    if outerStep (s.outerEvery d) step then checkpointDue d s else raiseReady d (tideWord (step + 1) Phase.FLOW 0) s

/-- The commit at a merge step's fence (R465, R469): NEXT_J follows the merge record, the differences merged leave the inbound
buffer, and MERGED goes to their sites. Called before the flips, with the comet entry 0's run still showing UPDATED. -/
def comSeal (d : Nat) (s : State) : State :=
  match s.far.frozen with
  | none => s
  | some (j, m) =>
    let step := tideStep (s.tide d)
    if !s.comOn d || !mergeStep (s.outerEvery d) step || !s.far.recorded || s.runSt (s.comEntry 0).k != RunSt.UPDATED then s
    else
      let sites := (List.range 64).filter fun p => m.any (·.2 = p)
      let s := setFar (fun x => { x with frozen := none, recorded := false }) s
      let s := updOut j (fun o => { o with mine := true }) s
      let s := forEach sites (fun p s =>
        let top := (m.filter (·.2 = p)).foldl (fun a e => max a e.1) 0
        let s := put (Reg.COM_SITE_STATUS p) F.COM_SITE_STATUS_NEXT_J (top + 1) s
        if p = s.site then s
        else
          let s := freeSlots p (fun x => decide (x.j ≤ top)) [] s
          forEach (m.filter (·.2 = p)) (fun e s => postControl p Kind.MERGED e.1 (Store.lookup (fun _ => 0) s.far.reports p) 0 s) s) s
      pumpComets (dropMerged s)

/-! ### The merge sum (R469) -/

/-- Elements of kept blocks, and none for the others, from a bitmap and the kept blocks. -/
def unpackBlocks : List Bool → List Byte → List (Option Val)
  | [], _ => []
  | true :: l, b => (decodeBlock 9 (b.take 17)).map some ++ unpackBlocks l (b.drop 17)
  | false :: l, b => List.replicate 32 none ++ unpackBlocks l b

/-- The elements of part `i` of a difference. -/
def readPart (loc : Nat → Nat) (i : Nat) (x : RunEnv) : RunEnv × List (Option Val) :=
  let (x, off) := (List.range i).foldl (fun (x, off) _ =>
    let (x, h) := spanRead loc off 16 x
    (x, off + 16 + ceilDiv (field h 4 4) 8 + 17 * field h 8 4)) (x, 0)
  let (x, h) := spanRead loc off 16 x
  let b := field h 4 4
  let (x, bm) := spanRead loc (off + 16) (ceilDiv b 8) x
  let (x, blocks) := spanRead loc (off + 16 + ceilDiv b 8) (17 * field h 8 4) x
  if x.fail.isSome then (x, [])
  else (x, unpackBlocks ((List.range b).map fun n => bit ((bm.getD (n / 8) 0).toNat) (n % 8)) blocks)

/-- The difference of the merge set at (j′, p): where its MiBs lie. -/
def State.diffLoc (s : State) (j p : Nat) : Nat → Nat :=
  if p = s.site then
    match s.far.outs.find? (·.j = j) with
    | some d => fun c => s.outAddr (d.units.getD c 0)
    | none => fun _ => 0
  else
    match s.far.ins.find? fun d => d.site = p ∧ d.j = j with
    | some d => d.loc
    | none => fun _ => 0

/-- The sum Mg of every element of comet entry `i` (FP32 patterns). -/
def mergeSums (i n j : Nat) (m : List (Nat × Nat)) (x : RunEnv) : RunEnv × List Nat :=
  m.foldl (fun (x, acc) (e : Nat × Nat) =>
    let old := decide (4 < j - e.1)
    let x := if old then { x with s := raise Reg.COM_STATUS F.COM_STATUS_STALE_DROP x.s } else x
    let w := if old then Val.zero
      else ofFp32 (toFp32 ((ofFp32 (x.s.fld (Reg.COM_STALE_W (j - e.1)) F.COM_STALE_W_V)).mul
        (ofFp32 (x.s.fld (Reg.COM_SITE_CTRL e.2) F.COM_SITE_CTRL_SITE_W))))
    let (x, q) := readPart (x.s.diffLoc e.1 e.2) i x
    (x, acc.zipIdx.map fun (a, l) => match q.getD l none with
      | some v => toFp32 ((ofFp32 a).add (ofFp32 (toFp32 (w.mul v))))
      | none => a)) (x, List.replicate n 0)

/-! ### The post-pass (R451 to R456) -/

/-- FP32 patterns as bytes. -/
def fp32Bytes (l : List Nat) : List Byte := l.flatMap (bytesOf 4)
def addF (a b : Nat) : Nat := toFp32 ((ofFp32 a).add (ofFp32 b))
def subF (a b : Nat) : Nat := toFp32 ((ofFp32 a).add (ofFp32 b).neg)

/-- Bytes copied from one slot to another for a context. -/
def carryBytes (c src dst n : Nat) (x : RunEnv) : RunEnv :=
  let (x, b) := runRead c src n x
  runWrite c dst b false x

/-- The merge of an entry (R452). -/
def mergeEntry (ce : ComEntry) (e : Shard) (cur i j : Nat) (m : List (Nat × Nat)) (x : RunEnv) : RunEnv :=
  let (x, mg) := mergeSums i e.n j m x
  let (x, a) := readElems e.ctx 0 (slotOf ce.anchor cur) 0 e.n x
  let a' := List.zipWith addF a mg
  match e.streams[ce.mstream]?, e.streams[ce.wstream]? with
  | some ms, some ws =>
    let (x, old) := readElems e.ctx 0 (ms.readAddr cur) 0 e.n x
    let (x, new) := readElems e.ctx 0 (ms.writeAddr cur) 0 e.n x
    let master := List.zipWith addF new (List.zipWith subF a' old)
    let x := runWrite e.ctx (slotOf ce.anchor (1 - cur)) (fp32Bytes a') false x
    let x := runWrite e.ctx (ms.writeAddr cur) (fp32Bytes master) false x
    runWrite e.ctx (ws.writeAddr cur) (encodeLanes ws.fmt 0 (fun _ => 0) 0 master).1 false x
  | _, _ => { x with fail := some Code.REFUSED }

/-- Which blocks the compression keeps (R454): those with the largest amax patterns, ties to the lower index. -/
def keptBlocks (amax : List Nat) (k : Nat) : List Bool :=
  amax.zipIdx.map fun (a, i) =>
    decide ((amax.zipIdx.filter fun (b, n) => decide (a < b) || (a == b && decide (n < i))).length < k)

/-- The compression of an entry (R453 to R455): its part of the difference, and its bittern where `store`. -/
def compressEntry (ce : ComEntry) (e : Shard) (step master anchor cbOld cbNew : Nat) (store : Bool) (x : RunEnv) :
    RunEnv × List Byte :=
  let (x, ms) := readElems e.ctx 0 master 0 e.n x
  let (x, as) := readElems e.ctx 0 anchor 0 e.n x
  let (x, cs) := readElems e.ctx 10 cbOld 0 e.n x
  if x.fail.isSome then (x, [])
  else
    let v := List.zipWith addF (List.zipWith subF ms as) cs
    let nb := e.n / 32
    let block (b : Nat) : List Nat := (v.drop (32 * b)).take 32
    let amax := (List.range nb).map fun b => (block b).foldl (fun a y => max a (y % 2 ^ 31)) 0
    let kept := keptBlocks amax (x.s.keptCount nb)
    let x := if amax.any fun a => decide (0x7F800000 < a) then { x with s := raise Reg.COM_STATUS F.COM_STATUS_NF_OUT x.s } else x
    let rnd := x.s.fld Reg.COM_CTRL F.COM_CTRL_RND
    let done := kept.zipIdx.map fun (k, b) =>
      let vs := block b
      if k then
        let q := (encodeBlock 9 rnd ((List.range 32).map fun l => x.s.updDraw e.id step 8 (32 * b + l)) (vs.map ofFp32)).1
        let left := List.zipWith (fun (y : Nat) (d : Val) => ofFp32 (toFp32 ((ofFp32 y).add d.neg))) vs (decodeBlock 9 q)
        (q, (encodeBlock 10 0 [] left).1)
      else ([], (encodeBlock 10 0 [] (vs.map ofFp32)).1)
    let x := if store then runWrite e.ctx cbNew (done.flatMap (·.2)) false x else x
    let head := bytesOf 2 ce.k ++ bytesOf 2 0 ++ bytesOf 4 nb ++ bytesOf 4 (x.s.keptCount nb) ++ bytesOf 4 0
    let bitmap := (List.range (ceilDiv nb 8)).map fun i =>
      BitVec.ofNat 8 ((List.range 8).foldl (fun a n => a + if kept.getD (8 * i + n) false then 2 ^ n else 0) 0)
    (x, head ++ bitmap ++ done.flatMap (·.1))

/-- The merge record in slot `to` from slot `from`, with NEXT_J of the merged sites (R450, R451, R469). -/
def writeRecord (cur c : Nat) (m : List (Nat × Nat)) (x : RunEnv) : RunEnv :=
  let slot (i : Nat) : Nat := x.s.fld (Reg.COM_MREC i) F.COM_MREC_ADDR * 512
  let (x, b) := farRead (slot cur) 512 x
  if x.fail.isSome then x
  else
    let new := (List.range 64).flatMap fun p =>
      let top := (m.filter (·.2 = p)).foldl (fun a e => max a e.1) 0
      bytesOf 8 (if m.any (·.2 = p) then top + 1 else field b (8 * p) 4)
    if hbmEnd < slot (1 - cur) + 512 then { x with s := addressFault 4096 (slot (1 - cur)) x.s, fail := some Code.REFUSED }
    else { x with s := (hbmWrite false (slot (1 - cur)) new 0 c (x.s.epoch c) x.s).1 }

/-- A finished difference is written into the outbound buffer (R455). -/
def formDiff (j : Nat) (data : List Byte) (s : State) : State :=
  let used := s.usedUnits
  let units := ((List.range s.outUnits).filter fun u => !used.contains u).take (ceilDiv data.length cometBytes)
  let s := forEach units.zipIdx (fun e s =>
    let b := (data.drop (e.2 * cometBytes)).take cometBytes
    unitWrite (s.outAddr e.1) b s) s
  let d : OutDiff := ⟨j, data.length, units, s.fld Reg.COM_CTRL F.COM_CTRL_K_FULL + 1, false, false, []⟩
  let s := setFar (fun x => { x with building := none, outs := (x.outs.filter (·.j ≠ j)) ++ [d] }) s
  showFar (put Reg.COM_OUTER F.COM_OUTER_J j s)

/-- One entry's part of difference `j`; the last part forms the difference (R455). -/
def addPart (j step i : Nat) (part : List Byte) (s : State) : State :=
  let old := match s.far.building with
    | some (n, l) => if n = step then l else []
    | none => []
  let parts := old.filter (·.1 ≠ i) ++ [(i, part)]
  if (List.range s.comCount).all fun n => parts.any (·.1 = n) then
    formDiff j ((List.range s.comCount).flatMap fun n => ((parts.find? (·.1 = n)).map (·.2)).getD []) s
  else setFar (fun x => { x with building := some (step, parts) }) s

/-- The work of a post-pass on comet entry `i` (R451): what was read and written, and the part of the difference. -/
def postPassWork (i : Nat) (ce : ComEntry) (e : Shard) (cur step : Nat) (s : State) : RunEnv × List Byte :=
  let h := s.outerEvery s.comDom
  let merge := mergeStep h step
  let outer := outerStep h step
  let m := match s.far.frozen with
    | some (j, l) => if merge ∧ j = step / max 1 h then l else []
    | none => []
  let x := RunEnv.fresh s
  let x := if merge then mergeEntry ce e cur i (step / max 1 h) m x
    else carryBytes e.ctx (slotOf ce.anchor cur) (slotOf ce.anchor (1 - cur)) (4 * e.n) x
  let (x, part) := if outer then
      compressEntry ce e step (((e.streams[ce.mstream]?).map (·.writeAddr cur)).getD 0)
        (slotOf ce.anchor (if merge then 1 - cur else cur)) (slotOf ce.cb cur) (slotOf ce.cb (1 - cur)) true x
    else (carryBytes e.ctx (slotOf ce.cb cur) (slotOf ce.cb (1 - cur)) (33 * (e.n / 32)) x, [])
  (if i = 0 ∧ x.fail.isNone then writeRecord cur e.ctx m x else x, part)

/-- Whether the post-pass of run `k` of an outer step waits for room in the outbound buffer (R455). -/
def State.roomWaits (s : State) (k : Nat) : Bool :=
  match s.upd k, s.comIndex k with
  | some r, some _ =>
    let need := ceilDiv s.diffBytes cometBytes
    !r.started && s.runSt k == RunSt.RUNNING && !s.fatal && s.comOn r.domain && outerStep (s.outerEvery r.domain) r.step &&
      decide (need ≤ s.outUnits) && decide (s.outUnits < s.usedUnits.length + need)
  | _, _ => false

/-- COMET_POST_PASS (R451): once the entry's program has ended, its outer state is carried, merged or compressed, and RUN becomes
UPDATED. Without room for the difference the post-pass waits. -/
def execCometPostPass (k : Fin 4096) (s : State) : Outcome State Fault Refusal :=
  let n := k.val
  match s.upd n, s.comIndex n with
  | some r, some i =>
    let e := readShard r.entry
    if r.started || s.runSt n != RunSt.RUNNING || s.fatal || !s.comOn r.domain || s.runHeld n || s.shardClears e ||
        s.rangeClears (s.comEntryAddr i) 64 then .next s
    else
      let ce := s.comEntry i
      let h := s.outerEvery r.domain
      let outer := outerStep h r.step
      let (x, _) := farRead (s.comEntryAddr i) 64 (RunEnv.fresh s)
      let s := x.s
      let need := ceilDiv s.diffBytes cometBytes
      let bad (line : Nat) (s : State) : State :=
        postContained 0x00A0 .com e.ctx line (raise Reg.COM_STATUS F.COM_STATUS_POISON_SEEN (failRun n Code.POISONED s))
      if x.fail = some Code.POISONED then .next (settle (bad x.line s))
      else if x.fail.isSome then .next (settle (failRun n Code.REFUSED s))
      else if ce.rsv || !streamsOk ce e then
        .next (settle (reservedCode .com e.ctx (s.comEntryAddr i) (failRun n Code.REFUSED s)))
      else if outer && decide (s.outUnits < need) then .next (settle (failRun n Code.REFUSED s))
      else if outer && decide (s.outUnits < s.usedUnits.length + need) then .next (raise Reg.COM_STATUS F.COM_STATUS_OUT_FULL s)
      else
        let (x, part) := postPassWork i ce e (s.cur n) r.step (freshOp s)
        match x.fail with
        | some code => .next (settle (if code = Code.POISONED then bad x.line x.s else failRun n code x.s))
        | none =>
          let s := when (decide (i = 0) && mergeStep h r.step) (setFar (fun y => { y with recorded := true })) x.s
          let s := when outer (addPart ((r.step + 1) / max 1 h) r.step i part) s
          .next (settle (closeRun n true s))
  | _, _ => .next s

/-! ### Commands (R473) -/

/-- A COM command: REFUSED outside IDLE and PAUSE, else it answers its code. -/
def comCmd (f : State → State × Nat) (s : State) : State :=
  if !s.restful s.comDom then put Reg.COM_STATUS F.COM_STATUS_COMPLETION Code.REFUSED s
  else
    let (s, code) := f s
    put Reg.COM_STATUS F.COM_STATUS_COMPLETION code s

/-- RELOAD (R473): NEXT_J from the committed merge record, ARRIVED_J one below it, and both deep buffers empty. -/
def reload (s : State) : State × Nat :=
  let a := s.fld (Reg.COM_MREC (s.cur (s.comEntry 0).k)) F.COM_MREC_ADDR * 512
  let (x, b) := farRead a 512 (RunEnv.fresh s)
  let s := x.s
  if x.fail = some Code.POISONED then (raise Reg.COM_STATUS F.COM_STATUS_POISON_SEEN s, Code.POISONED)
  else if x.fail.isSome then (s, Code.REFUSED)
  else
    let s := forEach (List.range 64) (fun p s =>
      let n := field b (8 * p) 4
      put (Reg.COM_SITE_STATUS p) F.COM_SITE_STATUS_NEXT_J n (put (Reg.COM_SITE_STATUS p) F.COM_SITE_STATUS_ARRIVED_J (n - 1) s)) s
    (showFar (setFar (fun x => { x with building := none, outs := [], ins := [], frozen := none, recorded := false }) s), Code.DONE)

def execReload (s : State) : Outcome State Fault Refusal := .next (settle (comCmd reload s))

/-- REGEN (R473): the compression of the committed outer step runs again from what the commit holds. The slots are those that the
run used, now on the other side of CUR; nothing but the difference is written (R456). -/
def regen (s : State) : State × Nat :=
  let k0 := (s.comEntry 0).k
  let step := s.fld (Reg.UPD_COMMIT k0) F.UPD_COMMIT_STEP
  let h := s.outerEvery s.comDom
  let need := ceilDiv s.diffBytes cometBytes
  if !outerStep h step || s.outUnits < s.usedUnits.length + need || s.comCount == 0 then (s, Code.REFUSED)
  else
    let (s, code, _) := (List.range s.comCount).foldl (fun (acc : State × Nat × Nat) i =>
      let (s, code, n) := acc
      if code ≠ Code.DONE then acc
      else
        let ce := s.comEntry i
        let e := readShard (s.shardEntry ce.k)
        let cur := s.cur ce.k
        if ce.rsv || !streamsOk ce e then (s, Code.REFUSED, n)
        else
          let (x, part) := compressEntry ce e step (((e.streams[ce.mstream]?).map (·.readAddr cur)).getD 0)
            (slotOf ce.anchor cur) (slotOf ce.cb (1 - cur)) (slotOf ce.cb cur) false (RunEnv.fresh s)
          match x.fail with
          | some c =>
            (when (c = Code.POISONED) (fun s => postContained 0x00A0 .com e.ctx x.line
              (raise Reg.COM_STATUS F.COM_STATUS_POISON_SEEN s)) x.s, c, n)
          | none => (addPart ((step + 1) / max 1 h) step i part x.s, Code.DONE, n + 1)) (s, Code.DONE, 0)
    (s, code)

def execRegen (s : State) : Outcome State Fault Refusal := .next (settle (comCmd regen s))

/-- REQUEST_ALL (R473): every group of every outer step from NEXT_J on is requested from each ACTIVE site, up to W outer steps beyond the
newest that this device's committed step or tide gives, which is as far as a partner's gate lets it come (DESIGN CHOICE, log 64). With
OUTER_EVERY 0 nothing is requested (R448). -/
def requestAll (s : State) : State × Nat :=
  let d := s.comDom
  let h := s.outerEvery d
  let step := max (tideStep (s.tide d)) (s.fld (Reg.UPD_COMMIT (s.comEntry 0).k) F.UPD_COMMIT_STEP)
  let top := if h = 0 then 0 else (step + 1) / h + s.fld Reg.COM_CTRL F.COM_CTRL_W
  let s := forEach (s.sitesIn [SiteSt.ACTIVE]) (fun p s =>
    let lo := max 1 (s.nextJ p)
    forEach (List.range (top + 1 - lo)) (fun i s => postControl p Kind.REQUEST (lo + i) 0 everyGroup s) s) s
  (pumpComets s, Code.DONE)

def execRequestAll (s : State) : Outcome State Fault Refusal := .next (settle (comCmd requestAll s))

/-! ### Registers (R474) -/

/-- A site becomes ABSENT: its differences that no frozen merge set names are dropped, and it is waited for no more (R472). -/
def removeSite (p : Nat) (s : State) : State :=
  let fixed := match s.far.frozen with | some (_, m) => m | none => []
  let s := freeSlots p (fun d => !fixed.contains (d.j, p)) [] s
  let s := setFar (fun x => { x with outs := x.outs.map fun d => { d with sites := d.sites.filter (·.site ≠ p) } }) s
  dropMerged s

/-- A write to COM_CTRL (R474): EN, DOMAIN and SITE change only in IDLE or PAUSE of the domain; EN going from 0 to 1 reads the peer
table, which is empty where it cannot be read. -/
def comCtrl (v : Word) (s : State) : State :=
  let r := Reg.COM_CTRL
  let rest := s.restful s.comDom
  let locked (f : Fld) : Bool := !rest && decide (v.get f ≠ s.fld r f)
  let fs := [F.COM_CTRL_EN, F.COM_CTRL_DOMAIN, F.COM_CTRL_SITE]
  let w := fs.foldl (fun v f => if locked f then keepFld r f v s else v) v
  let was := s.on r F.COM_CTRL_EN
  let s := when (fs.any locked) (badWrite r) (genericWrite r w s)
  if !was && s.on r F.COM_CTRL_EN then
    let a := s.fld Reg.COM_PEERTAB F.COM_PEERTAB_ADDR * 32
    let (x, b) := farRead a 2048 (RunEnv.fresh s)
    setFar (fun y => { y with peers := if x.fail.isSome then [] else b }) x.s
  else s

/-- COM_WRITE (R474): a write to a COM register at `off` from the space's base, by its own rule. -/
def comWrite (off : Nat) (v : Word) (s : State) : State :=
  let r := 0x120000 + off
  if r = Reg.COM_CTRL then pumpComets (comCtrl v s)
  else if r = Reg.COM_CMD then
    match v.get F.COM_CMD_CMD with
    | 0 => s
    | 1 => comCmd reload s
    | 2 => comCmd regen s
    | 3 => comCmd requestAll s
    | _ => badWrite r s
  else if [Reg.COM_TABLE, Reg.COM_OUTBUF, Reg.COM_INBUF, Reg.COM_PEERTAB, Reg.COM_MREC 0, Reg.COM_MREC 1].contains r then
    writeIf (s.restful s.comDom) r v s
  else if isCounter r then counterWrite r v s
  else
    let s := genericWrite r v s
    let p := (off - 0x100) / 0x10
    let s := when (decide (Reg.COM_SITE_CTRL 0 ≤ r) && decide (r < Reg.COM_SITE_CTRL 64) && off % 0x10 == 0 && s.siteSt p == SiteSt.ABSENT)
      (removeSite p) s
    pumpComets s

def execComWrite (off : BitVec 12) (v : Word) (s : State) : Outcome State Fault Refusal := .next (settle (comWrite off.toNat v s))

end Sys2Proof.Machine
end

