-- ==== Sys2Proof/Machine/Check.lean ====
section
/-! DEFINITION. The check-value units (chapter 13, R414 to R420): running values, fold words, the commands of a set, and writes to
its registers. -/
namespace Sys2Proof.Machine

open Host (Outcome)

/-! ### Running values (R414, R420) -/

/-- The running value of a set: algorithm, fold, POS, SEQ, PEND, MSGLEN, the state (a CRC's value, or the hash words of
SHA-256), and the bytes of the pending block. -/
structure ChkVal where
  alg : Nat
  fold : Nat
  pos : Nat
  seq : Nat
  pend : Bool
  len : Nat
  crc : Nat
  hash : List (BitVec 32)
  buf : List Byte
  deriving DecidableEq, Repr

namespace ChkAlg
def CRC32C : Nat := 0
def CRC64 : Nat := 1
def SHA256 : Nat := 2
end ChkAlg

/-- A byte absorbed by the algorithm, data or fold. -/
def ChkVal.byte (x : ChkVal) (b : Byte) : ChkVal :=
  let x := { x with len := (x.len + 1) % 2 ^ 61 }
  match x.alg with
  | 0 => { x with crc := crc32cByte x.crc b }
  | 1 => { x with crc := crc64Byte x.crc b }
  | _ =>
    let buf := x.buf ++ [b]
    if buf.length = 64 then { x with hash := shaBlock x.hash buf, buf := [] } else { x with buf := buf }

/-- The fold word at the present position (R414). -/
def ChkVal.foldWord (x : ChkVal) : List Byte :=
  let base := (x.pos + 2 ^ 64 - 1) % 2 ^ 64 / 4096 * 4096
  bytesOf 8 (if x.fold = 1 ∨ x.fold = 3 then base else 0) ++ bytesOf 4 (if x.fold = 2 ∨ x.fold = 3 then x.seq else 0) ++
    List.replicate 4 0

/-- The fold word absorbed: no data byte is pending after it. -/
def ChkVal.absorbFold (x : ChkVal) : ChkVal := { x.foldWord.foldl ChkVal.byte x with pend := false }

/-- A data byte absorbed, and after it the fold word where POS comes to a multiple of 4,096 (R414). -/
def ChkVal.data (x : ChkVal) (b : Byte) : ChkVal :=
  let x := x.byte b
  let x := { x with pos := (x.pos + 1) % 2 ^ 64, pend := true }
  if x.fold ≠ 0 ∧ x.pos % 4096 = 0 then x.absorbFold else x

/-- Any final fold word absorbed. -/
def ChkVal.close (x : ChkVal) : ChkVal := if x.fold ≠ 0 ∧ x.pend then x.absorbFold else x

/-- The result of a closed value: 32 bytes, of which a CRC fills the first (R420). -/
def ChkVal.result (x : ChkVal) : List Byte :=
  match x.alg with
  | 0 => bytesOf 32 (x.crc ^^^ 0xFFFFFFFF)
  | 1 => bytesOf 32 x.crc
  | _ => shaBytes (shaBlocks x.hash (x.buf ++ shaPad x.len)).1

/-- A value as INIT sets it (R415). -/
def ChkVal.start (x : ChkVal) : ChkVal :=
  { x with pend := false, len := 0, crc := if x.alg = 0 then 0xFFFFFFFF else 0, hash := shaInit, buf := [] }

/-! ### The registers of a set -/

/-- Register `i` of STATE0 to STATE3, BUF0 to BUF7 and RESULT0 to RESULT3 of set `k` of unit `u`. -/
def chkState (u k i : Nat) : Nat := Reg.CHK_S_STATE0 u k + 8 * i
def chkBuf (u k i : Nat) : Nat := Reg.CHK_S_BUF0 u k + 8 * i
def chkResult (u k i : Nat) : Nat := Reg.CHK_S_RESULT0 u k + 8 * i

namespace ChkSt
def IDLE : Nat := 0
def OPEN : Nat := 1
def BUSY : Nat := 2
def FINISHED : Nat := 3
end ChkSt

def State.chkSt (s : State) (u k : Nat) : Nat := s.fld (Reg.CHK_S_STATUS u k) F.CHK_S_STATUS_STATE
def setChkSt (u k v : Nat) (s : State) : State := put (Reg.CHK_S_STATUS u k) F.CHK_S_STATUS_STATE v s
/-- The context charged with a set's entries. -/
def State.chkCtx (s : State) (u k : Nat) : Nat := s.fld (Reg.CHK_S_CTRL u k) F.CHK_S_CTRL_CONTEXT
def State.chkRun (s : State) (u k : Nat) : Option ChkRun := Store.lookup (fun _ => none) s.checks (16 * u + k)
def setChkRun (u k : Nat) (x : Option ChkRun) (s : State) : State :=
  { s with checks := Store.update (fun _ => none) s.checks (16 * u + k) x }

/-- The running value that a set's registers hold. -/
def State.chkVal (s : State) (u k : Nat) : ChkVal :=
  let len := s.fld (Reg.CHK_S_MSGLEN u k) F.CHK_S_MSGLEN_MSGLEN
  let words := (List.range 4).map fun i => (s.reg (chkState u k i)).toNat
  let buf := (List.range 8).flatMap fun i => bytesOf 8 (s.reg (chkBuf u k i)).toNat
  { alg := s.fld (Reg.CHK_S_CTRL u k) F.CHK_S_CTRL_ALG, fold := s.fld (Reg.CHK_S_CTRL u k) F.CHK_S_CTRL_FOLD
    pos := (s.reg (Reg.CHK_S_POS u k)).toNat, seq := s.fld (Reg.CHK_S_SEQ u k) F.CHK_S_SEQ_SEQ
    pend := s.on (Reg.CHK_S_SEQ u k) F.CHK_S_SEQ_PEND, len := len
    crc := words.getD 0 0 % (if s.fld (Reg.CHK_S_CTRL u k) F.CHK_S_CTRL_ALG = 0 then 2 ^ 32 else 2 ^ 64)
    hash := words.flatMap fun w => [BitVec.ofNat 32 (w >>> 32), BitVec.ofNat 32 w], buf := buf.take (len % 64) }

/-- A running value put into a set's registers; what an algorithm does not use reads zero (R420). -/
def setChkVal (u k : Nat) (x : ChkVal) (s : State) : State :=
  let sha := x.alg == ChkAlg.SHA256
  let words := if sha then (List.range 4).map fun i => (x.hash.getD (2 * i) 0).toNat * 2 ^ 32 + (x.hash.getD (2 * i + 1) 0).toNat
    else [x.crc, 0, 0, 0]
  let buf := if sha then x.buf else []
  let s := setR (Reg.CHK_S_POS u k) (BitVec.ofNat 64 x.pos) s
  let s := put (Reg.CHK_S_MSGLEN u k) F.CHK_S_MSGLEN_MSGLEN x.len (putB (Reg.CHK_S_SEQ u k) F.CHK_S_SEQ_PEND x.pend s)
  let s := setWords (chkState u k 0) (words.map (BitVec.ofNat 64)) s
  setWords (chkBuf u k 0) ((List.range 8).map fun i => BitVec.ofNat 64 (field buf (8 * i) 8)) s

/-- A command of a set completes. -/
def chkDone (u k st code : Nat) (s : State) : State :=
  put (Reg.CHK_S_STATUS u k) F.CHK_S_STATUS_COMPLETION code (setChkSt u k st (setChkRun u k none s))

/-! ### Commands (R415, R416) -/

/-- A command of set `k`: ignored with BAD_WRITE for the harvest's sets (R418) and while BUSY, refused unless the set is OPEN
(INIT needs no such thing), and counted. -/
def chkCmd (u k : Nat) (needsOpen : Bool) (f : State → State) (s : State) : State :=
  if 8 ≤ k ∨ s.chkSt u k = ChkSt.BUSY then badWrite (Reg.CHK_S_CMD u k) s
  else
    let s := bump Reg.CHK_CMDS s
    if needsOpen && s.chkSt u k != ChkSt.OPEN then
      put (Reg.CHK_S_STATUS u k) F.CHK_S_STATUS_COMPLETION Code.REFUSED s
    else f s

/-- FINISH: the value is closed and RESULT written. -/
def chkFinish (u k : Nat) (s : State) : State :=
  let x := (s.chkVal u k).close
  let r := x.result
  let s := setWords (chkResult u k 0) ((List.range 4).map fun i => BitVec.ofNat 64 (field r (8 * i) 8)) (setChkVal u k x s)
  chkDone u k ChkSt.FINISHED Code.DONE s

/-- Data absorbed by a set: SRC advances, and CHK_BYTES counts. -/
def chkAbsorb (u k : Nat) (data : List Byte) (s : State) : State :=
  let s := setChkVal u k (data.foldl ChkVal.data (s.chkVal u k)) s
  let src := Reg.CHK_S_SRC u k
  bumpBy Reg.CHK_BYTES data.length (setR src (s.reg src + BitVec.ofNat 64 data.length) s)

/-- A poisoned line met by a set (R416). -/
def chkPoison (u k la : Nat) (s : State) : State :=
  postContained 0x0084 .chk (s.chkCtx u k) la (raise Reg.CHK_STATUS F.CHK_STATUS_POISON_SEEN s)

/-- The next line of an absorption from another device, or the part of it in the range: an answer names one line, so that a poisoned one is
known (R416). -/
def chkAsk (u k : Nat) (r : ChkRun) (dev a : Nat) (s : State) : State :=
  let c := s.chkCtx u k
  let n := min (64 - a % 64) r.left
  let (s, t) := openReq dev c (s.epoch c) a n (.check (16 * u + k)) s
  let (s, code) := sendRequest (mkPacket s dev c (s.epoch c) Cls.DATA Op.READ_REQ t a (n - 1) []) s
  if code = Code.DONE then s else closeReq t (setChkRun u k (some { r with code := some code }) s)

/-- UPDATE (R415, R416): an empty one is done at once; a range that fails R54 is refused with an entry; any other begins to
absorb. `finish` says that FINISH follows. -/
def chkUpdate (u k len : Nat) (finish : Bool) (s : State) : State :=
  let src := (s.reg (Reg.CHK_S_SRC u k)).toNat
  if len = 0 then (if finish then chkFinish u k s else chkDone u k ChkSt.OPEN Code.DONE s)
  else
    let run : ChkRun := ⟨len, finish, none⟩
    match s.target src len with
    | .bad => chkDone u k ChkSt.OPEN Code.REFUSED (addressFault (s.chkCtx u k) src s)
    | .remote dev a =>
      if localTarget a len = .bad then chkDone u k ChkSt.OPEN Code.REFUSED (addressFault (s.chkCtx u k) src s)
      else chkAsk u k run dev a (setChkSt u k ChkSt.BUSY (setChkRun u k (some run) s))
    | _ => setChkSt u k ChkSt.BUSY (setChkRun u k (some run) s)

/-- Local lines read by a set with the hint NORMAL until one is poisoned: the bytes before it, and it. -/
def chkRead (t : Target) (n : Nat) (s : State) : State × List Byte × Option Nat :=
  match t with
  | .hbm a =>
    let (s, data, bad) := (linesOf a n).foldl
      (fun (s, data, bad) la =>
        if bad.isSome then (s, data, bad)
        else
          let (s, d, p) := readLine la 0 s
          if p then (s, data, some la)
          else
            let lo := max a la - la
            (s, data ++ (d.drop lo).take (min (a + n) (la + 64) - la - lo), none))
      (s, ([] : List Byte), (none : Option Nat))
    (s, data, bad)
  | .tile l off =>
    let units := (s.poison.filter fun u => tileAddr l (off / 32 * 32) ≤ u && u < tileAddr l (off + n))
    match units.head? with
    | some u => (s, s.tmBytes l off (u - tileAddr l 0 - off), some u)
    | none => (s, s.tmBytes l off n, none)
  | _ => (s, [], none)

/-- The answer to a read of an absorption from another device (R416). -/
def chkAnswer (set code : Nat) (data : List Byte) (poison : Bool) (s : State) : State :=
  let u := set / 16
  let k := set % 16
  match s.chkRun u k with
  | none => s
  | some r =>
    let src := (s.reg (Reg.CHK_S_SRC u k)).toNat
    if r.code.isSome then s
    else if poison then chkPoison u k (lineOf src) (setChkRun u k (some { r with code := some Code.POISONED }) s)
    else if code ≠ Code.DONE then setChkRun u k (some { r with code := some code }) s
    else
      let s := chkAbsorb u k data s
      let r : ChkRun := { r with left := r.left - data.length }
      let s := setChkRun u k (some r) s
      if r.left = 0 then s
      else match s.target (s.reg (Reg.CHK_S_SRC u k)).toNat 1 with
        | .remote dev a => chkAsk u k r dev a s
        | _ => setChkRun u k (some { r with code := some Code.REFUSED }) s

/-- An absorption ends: DONE (and FINISH where it follows), or with its code, the set OPEN. -/
def chkEnd (u k : Nat) (r : ChkRun) (code : Nat) (s : State) : State :=
  if code = Code.DONE ∧ r.finish then chkFinish u k s else chkDone u k ChkSt.OPEN code s

/-- INIT (R415). -/
def execInit (u : Fin 4) (k : Fin 16) (s : State) : Outcome State Fault Refusal :=
  .next (chkCmd u.val k.val false
    (fun s => chkDone u.val k.val ChkSt.OPEN Code.DONE (setChkVal u.val k.val (s.chkVal u.val k.val).start s)) s)

/-- UPDATE (R415, R416). -/
def execUpdate (u : Fin 4) (k : Fin 16) (len : BitVec 32) (s : State) : Outcome State Fault Refusal :=
  .next (settle (chkCmd u.val k.val true (chkUpdate u.val k.val len.toNat false) s))

/-- FINISH (R415). -/
def execFinish (u : Fin 4) (k : Fin 16) (s : State) : Outcome State Fault Refusal :=
  .next (chkCmd u.val k.val true (chkFinish u.val k.val) s)

/-- UPDATE_FINISH (R415). -/
def execUpdateFinish (u : Fin 4) (k : Fin 16) (len : BitVec 32) (s : State) : Outcome State Fault Refusal :=
  .next (settle (chkCmd u.val k.val true (chkUpdate u.val k.val len.toNat true) s))

/-- UPDATE_DONE (R415, R416): the absorption of local bytes happens here; one from another device ends once its last answer has
come. A set that absorbs nothing, or still waits for an answer or for the clear of a pair (R50), has no such event (log 6). -/
def execUpdateDone (u : Fin 4) (k : Fin 16) (s : State) : Outcome State Fault Refusal :=
  match s.chkRun u.val k.val with
  | none => .next s
  | some r =>
    match r.code with
    | some c => .next (chkEnd u.val k.val r c s)
    | none =>
      let src := (s.reg (Reg.CHK_S_SRC u.val k.val)).toNat
      if r.left = 0 then .next (chkEnd u.val k.val r Code.DONE s)
      else match s.target src r.left with
        | .remote _ _ => .next s
        | .bad => .next (chkEnd u.val k.val r Code.REFUSED s)
        | t =>
          if (match t with | .hbm a => s.rangeClears a r.left | _ => false) then .next s
          else if (match t with | .hbm _ => s.memRefuses | _ => false) then .next (chkEnd u.val k.val r Code.REFUSED s)
          else
            let (s, data, bad) := chkRead t r.left s
            let s := chkAbsorb u.val k.val data s
            .next (settle (match bad with
              | none => chkEnd u.val k.val r Code.DONE s
              | some la => chkPoison u.val k.val la (chkDone u.val k.val ChkSt.OPEN Code.POISONED s)))

/-- The absorptions of a context whose epoch rises end at once with EPOCH_STALE, their sets OPEN (R488 step 4). -/
def checksForEpoch (c : Nat) (s : State) : State :=
  forEach (List.range 64) (fun i s =>
    let u := i / 16
    let k := i % 16
    if (s.chkRun u k).isSome ∧ s.chkCtx u k = c then chkDone u k ChkSt.OPEN Code.EPOCH_STALE s else s) s

/-! ### Register writes (R417 to R420) -/

/-- What a CRC does not use of a set's state and result registers reads zero (R420). -/
def showState (u k : Nat) (s : State) : State :=
  let alg := s.fld (Reg.CHK_S_CTRL u k) F.CHK_S_CTRL_ALG
  if alg = ChkAlg.SHA256 then s
  else
    let first (off : Nat) (s : State) : State := when (alg = ChkAlg.CRC32C) (setR off (s.reg off &&& 0xFFFFFFFF)) s
    let zero (f : Nat → Nat) (l : List Nat) (s : State) : State := forEach l (fun i => setR (f i) 0) s
    first (chkState u k 0) (first (chkResult u k 0)
      (zero (chkState u k) [1, 2, 3] (zero (chkResult u k) [1, 2, 3] (zero (chkBuf u k) (List.range 8) s))))

/-- CHK_STATE_WRITE (R417, R418, R420): nothing of the harvest's sets; nothing of the running value while BUSY; MSGLEN, STATE and
BUF only while OPEN; and nothing that a CRC does not use. -/
def execChkStateWrite (u : Fin 4) (k : Fin 16) (off : BitVec 8) (v : Word) (s : State) : Outcome State Fault Refusal :=
  let r := Reg.CHK_S_CTRL u.val k.val + off.toNat
  let o := off.toNat
  let st := s.chkSt u.val k.val
  let alg := s.fld (Reg.CHK_S_CTRL u.val k.val) F.CHK_S_CTRL_ALG
  let held := o = 0x30 ∨ (0x40 ≤ o ∧ o < 0xA0)
  if 8 ≤ k.val then .next (badWrite r s)
  else if st = ChkSt.BUSY ∧ (o = 0 ∨ o = 0x20 ∨ o = 0x28 ∨ held) then .next (badWrite r s)
  else if st ≠ ChkSt.OPEN ∧ held then .next (badWrite r s)
  else if alg ≠ ChkAlg.SHA256 ∧ 0x48 ≤ o ∧ o < 0xA0 then .next s
  else if alg = ChkAlg.CRC32C ∧ o = 0x40 then .next (setR r (v &&& 0xFFFFFFFF) s)
  else .next (when (o = 0) (showState u.val k.val) (genericWrite r v s))

end Sys2Proof.Machine
end

