-- ==== Sys2Proof/Machine/Channel.lean ====
section
/-! DEFINITION. Message channels (chapter 07): rings, the checks and the delivery of messages (R252 to R260), and the
completion of posts (R126 to R128). -/
namespace Sys2Proof.Machine

open Host (Outcome)

/-! ### Posts -/

/-- A completion other than DONE of a CPOST: NACKED, and the log or NACK_OVF (R127). -/
def logNack (p chan code nack : Nat) (s : State) : State :=
  let s := raise (Reg.TILE_STATUS p) F.TILE_STATUS_NACKED s
  match lowest (List.range 8) fun i => !s.on (Reg.TILE_NACK_LOG p i) F.TILE_NACK_LOG_VALID with
  | some i => setR (Reg.TILE_NACK_LOG p i)
      ((0 : Word).put F.TILE_NACK_LOG_VALID 1 |>.put F.TILE_NACK_LOG_REASON nack
        |>.put F.TILE_NACK_LOG_COMPLETION code |>.put F.TILE_NACK_LOG_CHANNEL chan) s
  | none => raise (Reg.TILE_STATUS p) F.TILE_STATUS_NACK_OVF s

/-- A post of tile `p` completes (R127): a code other than DONE sets NACKED. One from CPOSTW is never logged (R128) and keeps its
completion for its bundle, unless that has been abandoned; any other ends, and is logged unless DONE. A post that the tile no longer has
completes nothing. -/
def finishPost (p tag code nack : Nat) (s : State) : State :=
  let t := s.tile p
  match t.posts.find? fun x => x.tag = tag ∧ x.result = none with
  | none => s
  | some x =>
    let s := setTile p { t with posts := t.posts.filterMap fun y =>
      if y.tag = tag then (if y.waits && !y.orphan then some { y with result := some (code, nack) } else none) else some y } s
    when (code ≠ Code.DONE) (fun s =>
      if x.waits then raise (Reg.TILE_STATUS p) F.TILE_STATUS_NACKED s else logNack p x.chan code nack s) s

/-- POST_TIMEOUT (R127): 100 microseconds without an answer; a post that the tile no longer has times out no more (log 6). -/
def execPostTimeout (p : Fin 160) (tag : BitVec 16) (s : State) : Outcome State Fault Refusal :=
  .next (if (s.tile p.val).posts.any fun x => x.tag = tag.toNat ∧ x.result = none then
    closeReq tag.toNat (finishPost p.val tag.toNat Code.TIMEOUT 0 s) else s)

/-! ### Rings -/

/-- Occupancy of a ring, (WP - RP) mod 2^16 (R253). -/
def State.ringLevel (s : State) (l r : Nat) : Nat :=
  (s.fld (Reg.CHN_PTR l r) F.CHN_PTR_WP + 65536 - s.fld (Reg.CHN_PTR l r) F.CHN_PTR_RP) % 65536

/-- Entries of a ring, 2^SIZE. -/
def State.ringSize (s : State) (l r : Nat) : Nat := 2 ^ s.fld (Reg.CHN_CTRL l r) F.CHN_CTRL_SIZE

/-- Tile-memory offset of entry `x` of a ring (R252). -/
def State.ringEntry (s : State) (l r x : Nat) : Nat :=
  s.fld (Reg.CHN_CTRL l r) F.CHN_CTRL_BASE * 128 + x % s.ringSize l r * 128

/-- The ring's watermark takes its new level; a latch with NOTICE_IRQ sends VECTOR to the context's function (R259). -/
def ringWm (l r : Nat) (s : State) : State :=
  let c := Reg.CHN_CTRL l r
  let func := s.fld (Reg.CTX_HOST (s.fld c F.CHN_CTRL_CONTEXT)) F.CTX_HOST_FUNC
  wmLevel (Reg.CHN_WM l r) (s.ringLevel l r)
    (fun s => when (s.on c F.CHN_CTRL_NOTICE_IRQ) (sendMsix func (s.fld c F.CHN_CTRL_VECTOR)) s) s

/-- The header at RP, or zero when the ring is empty: what HEAD reads and CRECV returns (R257). -/
def State.ringHead (s : State) (l r : Nat) : Nat :=
  if s.ringLevel l r = 0 then 0
  else ofBytes (s.tmBytes l (s.ringEntry l r (s.fld (Reg.CHN_PTR l r) F.CHN_PTR_RP) + 64) 8)

/-- CFREE's effect on a ring that is not empty: RP advances (R129). -/
def ringFree (l r : Nat) (s : State) : State :=
  ringWm l r (put (Reg.CHN_PTR l r) F.CHN_PTR_RP (s.fld (Reg.CHN_PTR l r) F.CHN_PTR_RP + 1) s)

/-- The 8-byte header of a message (R252). -/
def msgHeader (m : Msg) : Nat :=
  m.srcDev.toNat * 2 ^ 51 + m.srcTile.toNat * 2 ^ 43 + m.epoch.toNat * 2 ^ 35 + m.ctx.toNat * 2 ^ 23 +
    (if m.remote then 2 ^ 22 else 0) + m.tag.toNat

/-- The message in a MESSAGE packet (R267). -/
def readMsg (remote stale : Bool) (pk : Packet) : Msg :=
  let a := pk.addr.toNat
  { srcDev := pk.src, srcTile := BitVec.ofNat 8 (bits a 31 24), epoch := pk.epoch, ctx := pk.ctx, remote := remote,
    tile := Fin.ofNat 144 (bits a 17 10), ring := Fin.ofNat 32 (bits a 9 5), tag := BitVec.ofNat 16 (bits a 47 32), reqTag := pk.tag,
    stale := stale, payload := pk.payload }

/-- The checks of R269 on a MESSAGE packet: with the reserved bits of its ADDR (R267), and a target tile that the device has. -/
def messageOk (pk : Packet) : Bool :=
  let a := pk.addr.toNat
  packetOk pk && pk.op.toNat == Op.MESSAGE && bits a 23 18 == 0 && bits a 4 0 == 0 && decide (bits a 17 10 < 144)

/-- The checks of R254, in order: the reason of the first that fails. A context that is not ACTIVE is about to leave its tiles and counts
as not resident (R477). -/
def State.msgCheck (s : State) (m : Msg) : Option Nack :=
  let c := m.ctx.toNat
  let l := m.tile.val
  let r := Reg.CHN_CTRL l m.ring.val
  if !s.present c then some .noContext
  else if m.epoch.toNat ≠ s.epoch c then some .epoch
  else if !s.on r F.CHN_CTRL_ENABLE || s.fld r F.CHN_CTRL_CONTEXT ≠ c then some .ringDisabled
  else if s.fld r F.CHN_CTRL_EPOCH ≠ s.epoch c then some .epoch
  else if m.stale || s.on (Reg.TIDE_DSTATUS (s.ctxDomain c)) F.TIDE_DSTATUS_STALE then some .modeStale
  else if s.on r F.CHN_CTRL_PAUSE || s.swapping l || s.tileCtx (s.phys l) ≠ some c || s.ctxState c = CtxState.QUARANTINED then
    some .paused
  else if s.ringLevel l m.ring.val = s.ringSize l m.ring.val then some .ringFull
  else none

/-- The sender learns of the outcome: over the fabric by a COMPLETION, on this device by the post itself (R127, R266). -/
def answerMsg (m : Msg) (code nack : Nat) (s : State) : State :=
  if m.remote then
    let pk := mkPacket s m.srcDev.toNat m.ctx.toNat m.epoch.toNat Cls.CONTROL Op.COMPLETION m.reqTag.toNat 0 0 []
    (routeSend .answer { pk with code := BitVec.ofNat 8 code, nack := BitVec.ofNat 4 nack } s).1
  else finishPost (s.phys m.srcTile.toNat) m.reqTag.toNat code nack s

/-- A message reaches its ring (R252 to R255, R259): dropped with a NACK at the first check that fails, or accepted: the entry is written,
then WP advances (R130). -/
def takeMessage (m : Msg) (s : State) : State :=
  let l := m.tile.val
  let r := m.ring.val
  let ptr := Reg.CHN_PTR l r
  match s.msgCheck m with
  | some n =>
    let s := bump (Reg.CHN_DROPS l r) (put ptr F.CHN_PTR_LAST_REASON n.code s)
    answerMsg m Code.REFUSED n.code s
  | none =>
    let wp := s.fld ptr F.CHN_PTR_WP
    let s := tmWrite l (s.ringEntry l r wp) (m.payload ++ bytesOf 8 (msgHeader m) ++ List.replicate 56 0) s
    let s := ringWm l r (put ptr F.CHN_PTR_WP (wp + 1) s)
    answerMsg m Code.DONE 0 (bump (Reg.CHN_ACCEPTS l r) s)

/-- Whether a message between tiles of this device may reach its ring now: it has been sent, and none that its tile sent to the same ring
before it still waits (R255). -/
def State.localNext (s : State) (pk : Packet) : Bool := s.locals.find? (sameStream pk) == some pk

/-- MESSAGE (R252 to R255): from a port, checked as a packet, or between two tiles of this device, in the order of their posts. One that
is not the next of its stream is no event (log 6). -/
def execMessage (p : Option (Fin 32)) (pk : Packet) (stale : Bool) (s : State) : Outcome State Fault Refusal :=
  match p with
  | some p =>
    let (s, ok) := arrive p.val pk s
    if !ok || pk.dest.toNat ≠ s.deviceId then .next s
    else if !messageOk pk then .next (settle (refusePacket pk (packetReserved pk s)))
    else .next (settle (takeMessage (readMsg true stale pk) s))
  | none =>
    if !s.localNext pk then .next s
    else .next (settle (takeMessage (readMsg false stale pk) { s with locals := s.locals.erase pk }))

/-- RING_CTRL_WRITE (R258): BASE, SIZE, CONTEXT and EPOCH change only while ENABLE is 0 and stays 0 in the same write; a
ring must end below 0x40_0000; setting ENABLE zeroes WP and RP. -/
def execRingCtrlWrite (l : Fin 144) (r : Fin 32) (v : Word) (s : State) : Outcome State Fault Refusal :=
  let off := Reg.CHN_CTRL l.val r.val
  let size := if v.get F.CHN_CTRL_SIZE ≤ 10 then v.get F.CHN_CTRL_SIZE else s.fld off F.CHN_CTRL_SIZE
  let was := s.on off F.CHN_CTRL_ENABLE
  let now := decide (v.get F.CHN_CTRL_ENABLE = 1)
  let changes := decide (v.get F.CHN_CTRL_BASE ≠ s.fld off F.CHN_CTRL_BASE) ||
    decide (size ≠ s.fld off F.CHN_CTRL_SIZE) ||
    decide (v.get F.CHN_CTRL_CONTEXT ≠ s.fld off F.CHN_CTRL_CONTEXT) ||
    decide (v.get F.CHN_CTRL_EPOCH ≠ s.fld off F.CHN_CTRL_EPOCH)
  if (changes && (was || now)) || decide (tileBytes < v.get F.CHN_CTRL_BASE * 128 + 2 ^ size * 128) then
    .next (badWrite off s)
  else
    let s := genericWrite off v s
    let ptr := Reg.CHN_PTR l.val r.val
    .next (when (!was && now) (fun s => ringWm l.val r.val (put ptr F.CHN_PTR_WP 0 (put ptr F.CHN_PTR_RP 0 s))) s)

end Sys2Proof.Machine
end

