-- ==== Sys2Proof/Machine/Engine.lean ====
section
/-! DEFINITION. The outer-product engine (chapter 04): shapes and their folding (R160, R161), what an entry of the queue computes
(R155 to R163, R170 to R176), and the rules of its start (R164 to R167). The slot's issue is in Issue.lean. -/
namespace Sys2Proof.Machine

/-! ### Shapes (R114, R160, R161) -/

/-- A shape descriptor's fields. -/
structure Shape where
  m : Nat
  n : Nat
  k : Nat
  pack : Bool
  quad : Nat
  deriving DecidableEq, Repr

/-- The descriptor read from sSD (R114). -/
def shapeOf (d : Word) : Shape :=
  let v := d.toNat
  ⟨16 * (bits v 22 17 + 1), 16 * (bits v 28 23 + 1), bits v 16 0 + 1, bit v 31, bits v 30 29⟩

/-- A block of the fold: its bank, its place in the bank, its first row of A and of B, and its size. -/
structure Block where
  bank : Nat
  r0 : Nat
  c0 : Nat
  a0 : Nat
  b0 : Nat
  rows : Nat
  cols : Nat
  deriving DecidableEq, Repr

/-- The width of a slice, from the narrow dimension (R160). -/
def sliceWidth (x : Nat) : Nat := if x = 16 then 16 else if x = 32 then 32 else 64

/-- Blocks per bank (R160). -/
def Shape.perBank (h : Shape) : Nat :=
  if h.pack then 1
  else if h.n ≤ 64 ∧ 64 < h.m then 128 / sliceWidth h.n
  else if h.m ≤ 64 ∧ 64 < h.n then 128 / sliceWidth h.m
  else 1

/-- Blocks of the fold. -/
def Shape.blockCount (h : Shape) : Nat := ceilDiv h.m 128 * ceilDiv h.n 128

/-- Banks that the fold uses. -/
def Shape.bankCount (h : Shape) : Nat := ceilDiv h.blockCount h.perBank

/-- Origin of slice `x` in its bank. -/
def Shape.origin (h : Shape) (x : Nat) : Nat × Nat :=
  if h.pack then (64 * (h.quad / 2), 64 * (h.quad % 2))
  else if h.n ≤ 64 ∧ 64 < h.m then (0, x * sliceWidth h.n)
  else if h.m ≤ 64 ∧ 64 < h.n then (x * sliceWidth h.m, 0)
  else (0, 0)

/-- The blocks in the order of R161's pseudocode. -/
def Shape.blocks (h : Shape) (bank : Nat) : List Block :=
  let nseg := ceilDiv h.n 128
  (List.range h.blockCount).map fun b =>
    let o := h.origin (b % h.perBank)
    ⟨bank + b / h.perBank, o.1, o.2, 128 * (b / nseg), 128 * (b % nseg), min 128 (h.m - 128 * (b / nseg)),
      min 128 (h.n - 128 * (b % nseg))⟩

/-- Whether a descriptor is good for a first bank (R114). -/
def descGood (d : Word) (bank : Nat) : Bool :=
  let h := shapeOf d
  bits d.toNat 63 32 == 0 && (!h.pack || (decide (h.m ≤ 64) && decide (h.n ≤ 64))) && (h.pack || h.quad == 0) &&
    decide (bank + h.bankCount ≤ 4)

/-! ### What an entry names -/

/-- The scalar register of the shape descriptor. -/
def matSd : Mat → Option Nat
  | .mma _ _ _ _ _ sd _ => some sd.val
  | .mout _ _ _ sd _ => some sd.val
  | _ => none

/-- The address registers, A or the only one first. -/
def matAddrs : Mat → Nat × Nat
  | .mma _ _ _ aa ab _ _ => (aa.val, ab.val)
  | .mout _ _ aa _ _ => (aa.val, 0)
  | .mlda _ aa => (aa.val, 0)
  | .msta _ aa => (aa.val, 0)
  | _ => (0, 0)

/-- The banks that a matrix-slot instruction writes (R107). -/
def matBanks (i : Mat) (d : Word) : List Nat :=
  match i with
  | .mma b _ _ _ _ _ _ => (List.range (shapeOf d).bankCount).map (b.val + ·)
  | .mclr b => [b.val]
  | .mlda b _ => [b.val]
  | _ => []

/-- The tile-memory ranges of a matrix-slot instruction with addresses `a` and `b` (R152, R171, R176): offset, bytes, and
whether it writes them. -/
def matRanges (i : Mat) (a b : Nat) (d : Word) : List (Nat × Nat × Bool) :=
  let h := shapeOf d
  match i with
  | .mma _ fa fb _ _ _ _ => [(a, h.m * pitch fa.toNat h.k, false), (b, h.n * pitch fb.toNat h.k, false)]
  | .mout _ f _ _ _ => [(a, h.m * pitch f.toNat h.n, true)]
  | .mlda _ _ => [(a, 65536, false)]
  | .msta _ _ => [(a, 65536, true)]
  | _ => []

/-- The faults of a matrix-slot instruction at issue (R114, R139, R152, R176). -/
def matFaults (i : Mat) (a b : Nat) (d : Word) : List Nat :=
  let bank : Option Nat := match i with
    | .mma b _ _ _ _ _ _ => some b.val
    | .mout b _ _ _ _ => some b.val
    | _ => none
  let bad := match bank with | some n => !descGood d n | none => false
  let rs := matRanges i a b d
  (if rs.any fun r => 0x400000 < r.1 + r.2.1 then [0x03] else []) ++ (if rs.any fun r => r.1 % 32 ≠ 0 then [0x04] else []) ++
    (if bad then [0x07] else [])

/-- Whether two byte ranges overlap. -/
def overlaps (a n b m : Nat) : Bool := decide (a < b + m) && decide (b < a + n)

/-- Whether a move-slot access of `n` bytes at `ea` must wait for an incomplete entry (R115): its write range for any access, its
read range for a store. -/
def MatEntry.guards (e : MatEntry) (ea n : Nat) (store : Bool) : Bool :=
  (matRanges e.ins e.a e.b e.desc).any fun r => overlaps r.1 r.2.1 ea n && (r.2.2 || store)

/-- The bank regions that an entry uses: bank, first row, first column, rows, columns. -/
def MatEntry.regions (e : MatEntry) : List (Nat × Nat × Nat × Nat × Nat) :=
  let h := shapeOf e.desc
  let region (b : Block) := (b.bank, b.r0, b.c0, b.rows, b.cols)
  match e.ins with
  | .mma b _ _ _ _ _ clr => (h.blocks b.val).map region ++
      (if clr then
        (if h.pack then [(b.val, 64 * (h.quad / 2), 64 * (h.quad % 2), 64, 64)]
         else (List.range h.bankCount).map fun i => (b.val + i, 0, 0, 128, 128))
       else [])
  | .mout b _ _ _ _ => (h.blocks b.val).map region
  | .mclr b => [(b.val, 0, 0, 128, 128)]
  | .mlda b _ => [(b.val, 0, 0, 128, 128)]
  | .msta b _ => [(b.val, 0, 0, 128, 128)]
  | .nop => []

/-- Whether two entries use a common bank region. -/
def MatEntry.shares (x y : MatEntry) : Bool :=
  x.regions.any fun r => y.regions.any fun q =>
    r.1 == q.1 && overlaps r.2.1 r.2.2.2.1 q.2.1 q.2.2.2.1 && overlaps r.2.2.1 r.2.2.2.2 q.2.2.1 q.2.2.2.2

/-- Whether an entry uses a bank. -/
def MatEntry.usesBank (e : MatEntry) (b : Nat) : Bool := e.regions.any (·.1 == b)

/-- The array quadrants that an entry needs (R164, R165), as a mask. -/
def MatEntry.quads (e : MatEntry) (conc : Bool) : Nat :=
  match e.ins with
  | .mma _ _ _ _ _ _ _ => let h := shapeOf e.desc; if h.pack && conc then 2 ^ h.quad else 15
  | _ => 0

/-- Whether two entries need one resource other than quadrants: the conversion path or the bank path (R164). -/
def samePath (x y : Mat) : Bool :=
  match x, y with
  | .mout _ _ _ _ _, .mout _ _ _ _ _ => true
  | .mma _ _ _ _ _ _ _, _ => false
  | .mout _ _ _ _ _, _ => false
  | _, .mma _ _ _ _ _ _ _ => false
  | _, .mout _ _ _ _ _ => false
  | _, _ => true

/-! ### Accumulation (R155 to R158) -/

/-- The product of two elements as step 2 of R155 leaves it. -/
def product (a b : Val) : Val :=
  match a.mul b with
  | .fin n m e =>
    if m = 0 then .fin n 0 0
    else if fp32Largest.absLt (.fin n m e) then .inf n
    else if (Val.fin n m e).absLt (.fin false 1 (-126)) then ofFp32 (toFp32 (.fin n m e))
    else .fin n m e
  | v => v

/-- An element's integer value. -/
def valInt : Val → Int
  | .fin n m e => let k : Int := (m * 2 ^ e.toNat : Nat); if n then -k else k
  | _ => 0

/-- A cell on its way: its accumulator, the first step that made it non-finite from finite values (R159), whether a sum wrapped
(R158). -/
structure CellRun where
  acc : Nat
  bad : Option Nat
  wrap : Bool
  deriving DecidableEq, Repr

/-- One step of a cell: the products of the k named are added at once. -/
def cellStep (int : Bool) (a b : List Val) (c : CellRun) (step : Nat × List Nat) : CellRun :=
  let at' (l : List Val) (k : Nat) : Val := l.getD k Val.zero
  if int then
    step.2.foldl (fun c k =>
      let t := signed 32 c.acc + valInt (at' a k) * valInt (at' b k)
      ⟨(t % 2 ^ 32).toNat, c.bad, c.wrap || t < -2147483648 || 2147483647 < t⟩) c
  else
    let old := ofFp32 c.acc
    let sum := step.2.foldl (fun v k => v.add (product (at' a k) (at' b k))) old
    let new := toFp32 sum
    let fin := old.finite && step.2.all fun k => (at' a k).finite && (at' b k).finite
    ⟨new, if c.bad = none ∧ fin ∧ !(ofFp32 new).finite then some step.1 else c.bad, c.wrap⟩

/-- The k-steps of a block: pairs when both formats are MXFP4 (R156), as far as no element from `stop` on is needed. -/
def kSteps (pairs : Bool) (k stop : Nat) : List (Nat × List Nat) :=
  let all := if pairs then (List.range (ceilDiv k 2)).map fun j => (j, [2 * j, 2 * j + 1].filter (· < k))
    else (List.range k).map fun j => (j, [j])
  all.takeWhile fun x => x.2.all (· < stop)

/-- The `k` elements of a row of an operand (R149 to R151). -/
def rowVals (f k : Nat) (b : List Byte) : List Val :=
  if isMx f then
    ((List.range (ceilDiv k 32)).flatMap fun i => decodeBlock f ((b.drop (blockBytes f * i)).take (blockBytes f))).take k
  else (takeElems (elemBytes f) k b).map (decodePlain f)

/-- The bytes of a row that element `k` needs: its own, and its block's scale. -/
def elemSpans (f k : Nat) : List (Nat × Nat) :=
  if isMx f then
    let o := k / 32 * blockBytes f
    let lo := elemBits f * (k % 32) / 8
    let hi := (elemBits f * (k % 32) + elemBits f - 1) / 8
    [(o, 1), (o + 1 + lo, hi + 1 - lo)]
  else [(k * elemBytes f, elemBytes f)]

/-- The first k of a block at which an element of its rows is poisoned (R141), or K. -/
def State.poisonStop (s : State) (l f base rows k : Nat) : Nat :=
  let pt := pitch f k
  let bad (i : Nat) : Bool := (List.range rows).any fun r =>
    (elemSpans f i).any fun x => s.tmPoison l (base + r * pt + x.1) x.2
  if s.tmPoison l base (rows * pt) then ((List.range k).find? bad).getD k else k

/-! ### Non-finite capture (R159) -/

/-- A first non-finite event: KIND, OPC, BANK, FMT and PC, with the tide of the tile's context. -/
def captureNf (p kind opc bank fmt pc : Nat) (s : State) : State :=
  let off := Reg.MXE_NF_CAPTURE p
  if s.on off F.MXE_NF_CAPTURE_VALID then s
  else
    let w : Word := (((0 : Word).put F.MXE_NF_CAPTURE_VALID 1).put F.MXE_NF_CAPTURE_KIND kind).put F.MXE_NF_CAPTURE_OPC opc
    let w := ((w.put F.MXE_NF_CAPTURE_BANK bank).put F.MXE_NF_CAPTURE_FMT fmt).put F.MXE_NF_CAPTURE_PC pc
    let d := s.ctxDomain ((s.tileCtx p).getD 0)
    setR (Reg.MXE_NF_TIDE p) (if s.role d = 0 then 0 else s.tide d) (setR off w s)

/-- The earlier of two steps at which an event may have come. -/
def earlier (a b : Option Nat) : Option Nat :=
  match a, b with
  | some x, some y => some (min x y)
  | some x, none => some x
  | none, y => y

/-! ### The instructions -/

/-- A bank region zeroed. -/
def zeroRegion (p bank r0 c0 rows cols : Nat) (s : State) : State :=
  forEach (List.range rows) (fun i s => forEach (List.range cols) (fun j s => setAcc p bank (r0 + i) (c0 + j) 0 s) s) s

/-- One block of an MMA of tile `p`, which is logical tile `l`: its k-steps, as far as no poisoned element stops it. Answers
whether one did. -/
def mmaBlock (p l : Nat) (e : MatEntry) (fa fb : Nat) (h : Shape) (b : Block) (s : State) : State × Bool :=
  let pa := pitch fa h.k
  let pb := pitch fb h.k
  let aBase := e.a + b.a0 * pa
  let bBase := e.b + b.b0 * pb
  let stop := min (s.poisonStop l fa aBase b.rows h.k) (s.poisonStop l fb bBase b.cols h.k)
  let steps := kSteps (fa == 9 && fb == 9) h.k stop
  let as := (List.range b.rows).map fun i => rowVals fa h.k (s.tmBytes l (aBase + i * pa) pa)
  let bs := (List.range b.cols).map fun j => rowVals fb h.k (s.tmBytes l (bBase + j * pb) pb)
  let cells := as.zipIdx.flatMap fun (a, i) => bs.zipIdx.map fun (v, j) =>
    (i, j, steps.foldl (cellStep (fa == 11) a v) ⟨(s.accWord p b.bank (b.r0 + i) (b.c0 + j)).toNat, none, false⟩)
  let nfIn := (steps.find? fun x => x.2.any fun k => (as ++ bs).any fun r => !(r.getD k Val.zero).finite).map (·.1)
  let nfAcc := cells.foldl (fun o c => earlier o c.2.2.bad) none
  let s := forEach cells (fun c s => setAcc p b.bank (b.r0 + c.1) (b.c0 + c.2.1) (BitVec.ofNat 32 c.2.2.acc) s) s
  let s := when (cells.any (·.2.2.wrap)) (raise (Reg.MXE_STATUS p) F.MXE_STATUS_INT_WRAP) s
  let s := when nfIn.isSome (raise (Reg.MXE_STATUS p) F.MXE_STATUS_NF_IN) s
  let s := when nfAcc.isSome (raise (Reg.MXE_STATUS p) F.MXE_STATUS_NF_ACC) s
  let s := match nfIn, nfAcc with
    | none, none => s
    | some x, some y => captureNf p (if x ≤ y then 0 else 1) 1 b.bank fa e.pc s
    | some _, none => captureNf p 0 1 b.bank fa e.pc s
    | none, some _ => captureNf p 1 1 b.bank fa e.pc s
  (bumpBy (Reg.MXE_CELLS p) (b.rows * b.cols * (steps.map (·.2.length)).sum / 256) s, decide (stop < h.k))

/-- Tile cycles that an MMA occupies its quadrants (R168). -/
def mmaCycles (fa fb : Nat) (h : Shape) : Nat :=
  h.blockCount * (if fa ≤ 2 then 2 * h.k else if fa = 9 ∧ fb = 9 then ceilDiv h.k 2 else h.k)

/-- MMA (R155 to R163): CLR, then the blocks in order until a poisoned element (R141). -/
def runMma (p l : Nat) (e : MatEntry) (bank fa fb : Nat) (clr : Bool) (s : State) : State :=
  let h := shapeOf e.desc
  let s := if !clr then s
    else if h.pack then zeroRegion p bank (64 * (h.quad / 2)) (64 * (h.quad % 2)) 64 64 s
    else forEach (List.range h.bankCount) (fun i s => zeroRegion p (bank + i) 0 0 128 128 s) s
  let s := bumpBy (Reg.MXE_ACTIVE p) (mmaCycles fa fb h) s
  let (s, bad) := (h.blocks bank).foldl
    (fun (s, bad) b => if bad then (s, bad) else mmaBlock p l e fa fb h b s) (s, false)
  if bad then tileFault p 0x0A 1 e.pc true s else s

/-- The block of the fold that holds element (m, n) of the result. -/
def Shape.blockAt (h : Shape) (bank m n : Nat) : Option Block :=
  (h.blocks bank).find? fun b => b.a0 ≤ m ∧ m < b.a0 + b.rows ∧ b.b0 ≤ n ∧ n < b.b0 + b.cols

/-- Word (m, n) of the result. -/
def State.outWord (s : State) (p bank : Nat) (h : Shape) (m n : Nat) : Nat :=
  match h.blockAt bank m n with
  | some b => (s.accWord p b.bank (b.r0 + (m - b.a0)) (b.c0 + (n - b.b0))).toNat
  | none => 0

/-- The elements (m, n) to (m, n + c - 1) of a MOUT converted: bytes, saturations, and whether a NaN or infinity is written. -/
def State.outPart (s : State) (p bank fmt rnd key draw : Nat) (h : Shape) (m n c : Nat) : List Byte × Nat × Bool :=
  let ws := (List.range c).map fun i => s.outWord p bank h m (n + i)
  let w (i : Nat) : Nat := if rnd = Rnd.STOCHASTIC then philoxWord key draw (m * h.n + n + i) else 0
  if isMx fmt then encodeBlock fmt rnd ((List.range c).map w) (ws.map ofFp32)
  else if fmt = 0 then (ws.flatMap (bytesOf 4), 0, ws.any fun x => !(ofFp32 x).finite)
  else if fmt = 12 then (ws.flatMap (bytesOf 4), 0, false)
  else
    let es := ws.zipIdx.map fun (x, i) => encodePlain fmt rnd (w i) (if fmt = 11 then ofInt (signed 32 x) else ofFp32 x)
    (es.flatMap fun x => bytesOf (elemBytes fmt) x.code, (es.filter (·.sat)).length, es.any (·.nf))

/-- MOUT (R170 to R175): the result row by row at the address, and its flags. The bank captured is that of the first non-finite
part in row order. -/
def runMout (p l : Nat) (e : MatEntry) (bank fmt rnd : Nat) (s : State) : State :=
  let h := shapeOf e.desc
  let parts := (List.range h.m).flatMap fun m => (List.range (ceilDiv h.n 32)).map fun j =>
    (m, 32 * j, s.outPart p bank fmt rnd e.key e.draw h m (32 * j) (min 32 (h.n - 32 * j)))
  let sat := (parts.map (·.2.2.2.1)).sum
  let nf := parts.find? fun x => x.2.2.2.2
  let s := tmWrite l e.a (parts.flatMap (·.2.2.1)) s
  let s := when (decide (0 < sat)) (fun s => bumpBy (Reg.MXE_OUT_SAT_CNT p) sat (raise (Reg.MXE_STATUS p) F.MXE_STATUS_OUT_SAT s)) s
  match nf with
  | none => s
  | some x =>
    let b := ((h.blockAt bank x.1 x.2.1).map (·.bank)).getD bank
    captureNf p 2 2 b fmt e.pc (raise (Reg.MXE_STATUS p) F.MXE_STATUS_NF_OUT s)

/-- MLDA (R176): the words before the first poisoned 32-byte unit are loaded, and a poisoned unit faults as in R141. -/
def runMlda (p l : Nat) (e : MatEntry) (bank : Nat) (s : State) : State :=
  let bad := (List.range 2048).find? fun u => s.tmPoison l (e.a + 32 * u) 32
  let n := 8 * bad.getD 2048
  let s := forEach (List.range n) (fun i s =>
    setAcc p bank (i / 128) (i % 128) (BitVec.ofNat 32 (ofBytes (s.tmBytes l (e.a + 4 * i) 4))) s) s
  if bad.isSome then tileFault p 0x0A 1 e.pc true s else s

/-- What an entry does once it has started. -/
def runEntry (p : Nat) (e : MatEntry) (s : State) : State :=
  let l := s.logical p
  match e.ins with
  | .nop => s
  | .mma b fa fb _ _ _ clr => runMma p l e b.val fa.toNat fb.toNat clr s
  | .mout b f _ _ r => runMout p l e b.val f.toNat r.toNat s
  | .mclr b => zeroRegion p b.val 0 0 128 128 s
  | .mlda b _ => runMlda p l e b.val s
  | .msta b _ => tmWrite l e.a (s.accBytes p b.val) s

/-- QUEUE and QUADS_BUSY of MXE_STATUS follow the queue. -/
def showEngine (p : Nat) (s : State) : State :=
  let conc := s.on (Reg.MXE_CTRL p) F.MXE_CTRL_QUAD_CONC
  let q := (s.tile p).queue
  let busy := (q.filter (·.started)).foldl (fun a e => a ||| e.quads conc) 0
  put (Reg.MXE_STATUS p) F.MXE_STATUS_QUADS_BUSY busy (put (Reg.MXE_STATUS p) F.MXE_STATUS_QUEUE q.length s)

/-- The queue of tile `p` replaced. -/
def setMatQueue (p : Nat) (q : List MatEntry) (s : State) : State := showEngine p (setTile p { s.tile p with queue := q } s)

/-- Whether the entry after `before` in a queue may start (R164). -/
def mayStart (conc : Bool) (before : List MatEntry) (e : MatEntry) : Bool :=
  before.all fun x => x.started && !x.shares e && !samePath x.ins e.ins && x.quads conc &&& e.quads conc == 0

/-- What a running entry asks of the tile-memory read port in a cycle, in 32nds of a byte (R169, R176): of an MMA the elements and scale
bytes of its first block, the largest, by its k-steps per cycle (R154). -/
def MatEntry.demand (e : MatEntry) : Nat :=
  match e.ins with
  | .mma bank fa fb _ _ _ _ =>
    let f := fa.toNat
    let g := fb.toNat
    let side (f n : Nat) : Nat := n * (if isMx f then 4 * elemBits f + 1 else 32 * elemBytes f)
    (match ((shapeOf e.desc).blocks bank.val).head? with
    | some b =>
      let d := side f b.rows + side g b.cols
      if f ≤ 2 then d / 2 else if f = 9 ∧ g = 9 then 2 * d else d
    | none => 0)
  | .mlda _ _ => 16384
  | .msta _ _ => 16384
  | _ => 0

/-- The cycles that an entry needs of the read port at its full rate. -/
def MatEntry.cycles (e : MatEntry) : Nat :=
  match e.ins with
  | .mma _ fa fb _ _ _ _ => mmaCycles fa.toNat fb.toNat (shapeOf e.desc)
  | .mlda _ _ => 128
  | .msta _ _ => 128
  | _ => 0

/-- The demand of the running entries of tile `p` that still need the port. -/
def State.portDemand (s : State) (p : Nat) : Nat :=
  (((s.tile p).queue.filter fun e => e.started && decide (0 < e.work)).map (·.demand)).sum

/-- A move-slot read of `n` bytes takes the port from a running engine for the cycles that it needs (R169). -/
def portStall (p n : Nat) (s : State) : State := when (decide (0 < s.portDemand p)) (bumpBy (Reg.MXE_PORT_STALL p) (ceilDiv n 512)) s

/-- The running entries advance by `w` cycles at the full rate; where they ask for more than 512 bytes a cycle, the cycles that this
costs are counted (R169). -/
def advanceEngine (p w : Nat) (s : State) : State :=
  let d := s.portDemand p
  let t := s.tile p
  let s := setTile p { t with queue := t.queue.map fun e => if e.started then { e with work := e.work - w } else e } s
  when (decide (16384 < d)) (bumpBy (Reg.MXE_PORT_STALL p) (ceilDiv (w * d) 16384 - w)) s

/-- MATRIX_START's effect: the first entry that has not started starts, where R164 lets it. -/
def startMatrix (p : Nat) (s : State) : State :=
  let q := (s.tile p).queue
  let before := q.takeWhile (·.started)
  match q.drop before.length with
  | [] => s
  | e :: rest =>
    if !mayStart (s.on (Reg.MXE_CTRL p) F.MXE_CTRL_QUAD_CONC) before e then s
    else runEntry p e (setMatQueue p (before ++ [{ e with started := true, work := e.cycles }] ++ rest) s)

/-- A save that waits for the engine queue is made once it is empty (R135). -/
def saveIfIdle (p : Nat) (s : State) : State :=
  match (s.tile p).saving, s.tileCtx p with
  | some m, some c => if (s.tile p).queue = [] ∧ !s.swapping (s.logical p) then saveTile p c (m % 2048) (m / 2048) s else s
  | _, _ => s

/-- MATRIX_COMPLETE's effect: entry `i` of the queue, which has started, completes. Time passes for the engine only in this way, so that
entries which run at once are taken to have started together (DESIGN CHOICE, log 59). -/
def completeMatrix (p i : Nat) (s : State) : State :=
  let q := (s.tile p).queue
  match q[i]? with
  | none => s
  | some e =>
    if e.started then
      let s := advanceEngine p e.work s
      saveIfIdle p (setMatQueue p ((s.tile p).queue.eraseIdx i) s)
    else s

end Sys2Proof.Machine
end

