-- ==== Sys2Proof/Machine/Stream.lean ====
section
/-! DEFINITION. Stream engines (chapter 07): queues and block lists (R236 to R238), descriptors (R239 to R243), transfers and
their poison (R241, R244, R245), multicast (R246, R247), and standby queues (R250, R251). -/
namespace Sys2Proof.Machine

open Host (Outcome)

def State.queue (s : State) (q : Nat) : StrQueue := Store.lookup (fun _ => StrQueue.init) s.queues q
def setQueue (q : Nat) (x : StrQueue) (s : State) : State :=
  { s with queues := Store.update (fun _ => StrQueue.init) s.queues q x }

namespace StrSt
def IDLE : Nat := 0
def ACTIVE : Nat := 1
def HALTED : Nat := 2
end StrSt

/-- The context that a queue serves. -/
def State.queueCtx (s : State) (q : Nat) : Nat := s.fld (Reg.STR_Q_MAP q) F.STR_Q_MAP_CONTEXT

/-- The physical queues that serve context queue `n` of context `c`, in ascending order (R236). -/
def State.queuesOf (s : State) (c n : Nat) : List Nat :=
  (List.range 1024).filter fun q =>
    s.on (Reg.STR_Q_MAP q) F.STR_Q_MAP_VALID && s.queueCtx q == c && s.fld (Reg.STR_Q_MAP q) F.STR_Q_MAP_CTXQ == n

/-- OUTSTANDING, STATE and the watermark's level follow the queue (R245, R248; the level is the posted lists not yet
complete). -/
def showQueue (q : Nat) (s : State) : State :=
  let r := Reg.STR_Q_STATUS q
  let x := s.queue q
  let s := put r F.STR_Q_STATUS_OUTSTANDING x.xfers.length s
  let s := if s.fld r F.STR_Q_STATUS_STATE = StrSt.HALTED then s
    else put r F.STR_Q_STATUS_STATE (if x.lists = [] then StrSt.IDLE else StrSt.ACTIVE) s
  if s.fld (Reg.STR_Q_WM q) F.STR_Q_WM_LEVEL = x.lists.length then s else wmLevel (Reg.STR_Q_WM q) x.lists.length id s

/-- A queue changed, and its registers with it. -/
def putQueue (q : Nat) (x : StrQueue) (s : State) : State := showQueue q (setQueue q x s)

/-- A block list posted to a queue (R237). -/
def postList (q addr : Nat) (s : State) : State :=
  let x := s.queue q
  putQueue q { x with lists := x.lists ++ [addr] } s

/-! ### Descriptors (R239) -/

structure Desc where
  src : Nat
  dst : Nat
  len0 : Nat
  cnt : Nat × Nat × Nat
  mcast : Nat
  sstr : Int × Int × Int
  dstr : Int × Int × Int
  ctrl : Nat
  rsv : Nat
  deriving DecidableEq, Repr

/-- A descriptor read from its 64 bytes. -/
def readDesc (b : List Byte) : Desc :=
  let str i := signed 32 (field b i 4)
  { src := field b 0 8, dst := field b 8 8, len0 := field b 16 4
    cnt := (field b 20 2, field b 22 2, field b 24 2), mcast := field b 26 2
    sstr := (str 28, str 32, str 36), dstr := (str 40, str 44, str 48)
    ctrl := field b 52 4, rsv := field b 56 8 }

def Desc.zero (d : Desc) : Bool := bits d.ctrl 9 8 = 1
def Desc.fence (d : Desc) : Bool := bit d.ctrl 5
def Desc.last (d : Desc) : Bool := bit d.ctrl 4
def Desc.dhint (d : Desc) : Nat := bits d.ctrl 3 2
def Desc.shint (d : Desc) : Nat := bits d.ctrl 1 0
def Desc.fabric (d : Desc) : Bool := bit d.mcast 15
def Desc.group (d : Desc) : Nat := d.mcast % 4096

/-- The number of runs (R240). -/
def Desc.runs (d : Desc) : Nat := (d.cnt.1 + 1) * (d.cnt.2.1 + 1) * (d.cnt.2.2 + 1)

/-- The address of run `r`, from a base and strides, modulo 2^64 (R240). -/
def Desc.runAddr (d : Desc) (base : Nat) (str : Int × Int × Int) (r : Nat) : Nat :=
  let i1 := r % (d.cnt.1 + 1)
  let i2 := r / (d.cnt.1 + 1) % (d.cnt.2.1 + 1)
  let i3 := r / ((d.cnt.1 + 1) * (d.cnt.2.1 + 1))
  ((base + i1 * str.1 + i2 * str.2.1 + i3 * str.2.2 : Int) % 2 ^ 64).toNat

/-- The tiles of an on-package multicast entry (R261). -/
def State.mcTiles (s : State) (m : Nat) : List Nat :=
  (List.range 144).filter fun l =>
    if l < 64 then bit (s.reg (Reg.STR_MC_MASK0 m)).toNat l
    else if l < 128 then bit (s.reg (Reg.STR_MC_MASK1 m)).toNat (l - 64)
    else bit (s.reg (Reg.STR_MC_MASK2 m)).toNat (l - 128)

/-- Whether a descriptor's multicast is allowed to context `c` (R246, R247). -/
def State.mcastOk (s : State) (c : Nat) (d : Desc) : Bool :=
  let g := d.group
  if d.fabric then
    decide (1 ≤ g) && decide (g < 1024) && s.on (Reg.FAB_MC g) F.FAB_MC_VALID && s.on (Reg.FAB_MC g) F.FAB_MC_ROOT &&
      s.fld (Reg.FAB_MC g) F.FAB_MC_CONTEXT == c && !bit d.dst 61
  else if g = 0 then true
  else
    decide (g < 256) && s.on (Reg.STR_MC_CTL g) F.STR_MC_CTL_VALID && s.fld (Reg.STR_MC_CTL g) F.STR_MC_CTL_CONTEXT == c &&
      (s.mcTiles g).all (s.partTiles (s.ctxPart c)).contains && decide (tileBase ≤ d.dst) && decide (d.dst < tileBase + tileBytes)

/-- The encoding checks of R243. -/
def State.descOk (s : State) (c : Nat) (d : Desc) : Bool :=
  d.ctrl / 1024 == 0 && bits d.ctrl 7 6 == 0 && decide (bits d.ctrl 9 8 ≤ 1) && bits d.mcast 14 12 == 0 && d.rsv == 0 &&
    d.len0 != 0 && !(d.zero && d.src != 0) && s.mcastOk c d

/-! ### Lists -/

/-- The list in progress completes once it has ended and nothing of it is outstanding (R245). -/
def completeList (q : Nat) (s : State) : State :=
  let x := s.queue q
  match x.run with
  | none => s
  | some r =>
    if !r.ended || x.xfers ≠ [] then s
    else
      let st := Reg.STR_Q_STATUS q
      let s := put (Reg.STR_Q_DONE q) F.STR_Q_DONE_COUNT (s.fld (Reg.STR_Q_DONE q) F.STR_Q_DONE_COUNT + 1) s
      let s := put st F.STR_Q_STATUS_LAST_CODE r.code s
      let s := when (r.code ≠ Code.DONE && r.code ≠ Code.NONFINITE) (raise st F.STR_Q_STATUS_NOT_DONE) s
      let s := when r.halt (put st F.STR_Q_STATUS_STATE StrSt.HALTED) s
      putQueue q { x with lists := x.lists.drop 1, run := none } s

/-- The list in progress changed. -/
def setRun (q : Nat) (f : ListRun → ListRun) (s : State) : State :=
  let x := s.queue q
  putQueue q { x with run := x.run.map f } s

/-- The list in progress runs no later descriptor: it will complete with at least `code`, and where `halt`, its queue
becomes HALTED (R238, R243). -/
def endList (q code : Nat) (halt : Bool) (s : State) : State :=
  let s := when halt (put (Reg.STR_Q_STATUS q) F.STR_Q_STATUS_STATE StrSt.HALTED) s
  completeList q (setRun q (fun r => { r with ended := true, desc := none, halt := r.halt || halt, code := Code.worse r.code code }) s)

/-- Whether a queue may start and issue at all: its context is ACTIVE (R477), it is not HALTED, and no fatal stop holds
(R524). -/
def State.queueRuns (s : State) (q : Nat) : Bool :=
  s.ctxState (s.queueCtx q) == CtxState.ACTIVE && s.fld (Reg.STR_Q_STATUS q) F.STR_Q_STATUS_STATE != StrSt.HALTED && !s.fatal

/-- LIST_START (R237, R238): the next posted list starts; a misaligned address completes it with REFUSED. -/
def execListStart (q : Fin 1024) (s : State) : Outcome State Fault Refusal :=
  let x := s.queue q.val
  match x.run, x.lists with
  | none, a :: _ =>
    if !s.queueRuns q.val then .next s
    else
      let s := setQueue q.val { x with run := some ⟨a, 0, none, 0, 0, none, none, Code.DONE, false, false, s.epoch (s.queueCtx q.val)⟩ } s
      .next (if a % 64 ≠ 0 then endList q.val Code.REFUSED false s else s)
  | _, _ => .next s

/-- A descriptor's bytes have come (or a refusal, or poison): it is checked before any of its transfers issues (R243). -/
def takeDesc (q a : Nat) (b : List Byte) (poison : Bool) (code : Nat) (s : State) : State :=
  let c := s.queueCtx q
  if code ≠ Code.DONE then endList q code (code == Code.REFUSED) s
  else if poison then postContained 0x0042 .str c a (endList q Code.POISONED true s)
  else if s.descOk c (readDesc b) then
    setRun q (fun r => { r with started := r.started + 1, desc := some b, run := 0, pos := 0, fetched := none }) s
  else reservedCode .str c a (endList q Code.REFUSED true s)

/-- A descriptor fetched from another device: a READ_REQ of its 64 bytes. -/
def fetchRemote (q dev a : Nat) (s : State) : State :=
  let c := s.queueCtx q
  let (s, t) := openReq dev c (s.epoch c) a 64 (.blockList q) s
  let (s, code) := sendRequest (mkPacket s dev c (s.epoch c) Cls.DATA Op.READ_REQ t a 63 []) s
  if code = Code.DONE then setRun q (fun r => { r with fetching := some t }) s
  else endList q code (code == Code.REFUSED) (closeReq t s)

/-- DESCRIPTOR_START (R238, R243): the next descriptor is read, once the pair of its line is clear (R50), and checked; a list of 65,536 descriptors without LAST ends. -/
def execDescriptorStart (q : Fin 1024) (s : State) : Outcome State Fault Refusal :=
  match (s.queue q.val).run with
  | none => .next s
  | some r =>
    if r.ended || r.desc.isSome || r.fetching.isSome || !s.queueRuns q.val then .next s
    else if 65536 ≤ r.started then .next (settle (reservedCode .str (s.queueCtx q.val) r.addr (endList q.val Code.REFUSED true s)))
    else
      let c := s.queueCtx q.val
      let a := (r.addr + 64 * r.started) % 2 ^ 64
      match r.fetched with
      | some (b, p, code) => .next (settle (takeDesc q.val a b p code s))
      | none =>
        match s.target a 64 with
        | .remote dev la => .next (settle (fetchRemote q.val dev la s))
        | t =>
          let (s', ok) := contextAccess c t a 64 false s
          if !ok then .next (settle (endList q.val Code.REFUSED true s'))
          else if s.targetClears t then .next s
          else
            let (s, b, marks) := readMarked t 64 0 s'
            .next (settle (takeDesc q.val a b (!marks.isEmpty) Code.DONE s))

/-! ### Transfers -/

/-- Transfers outstanding on an engine (R248). -/
def State.engineLoad (s : State) (e : Nat) : Nat :=
  ((List.range 64).map fun n => (s.queue (64 * e + n)).xfers.length).sum

/-- Whether tile memory that a transfer touches belongs to its context and the context is not resident there (R484). -/
def State.tileAway (s : State) (c : Nat) (t : Target) : Bool :=
  match t with
  | .tile l _ => (s.partTiles (s.ctxPart c)).contains l && s.tileCtx (s.phys l) != some c
  | _ => false

/-- The parts of [off, off + n) that marks cover, relative to off. -/
def marksWithin (marks : List (Nat × Nat)) (off n : Nat) : List (Nat × Nat) :=
  marks.filterMap fun m =>
    let lo := max m.1 off
    let hi := min (m.1 + m.2) (off + n)
    if lo < hi then some (lo - off, hi - lo) else none

/-- The 256-byte pieces of `n` bytes: offset and length. -/
def pieces (n : Nat) : List (Nat × Nat) := (List.range (ceilDiv n 256)).map fun i => (256 * i, min 256 (n - 256 * i))

/-- A transfer of a queue changed; gone where `f` answers none. -/
def updXfer (q id : Nat) (f : Transfer → Transfer) (s : State) : State :=
  let x := s.queue q
  setQueue q { x with xfers := x.xfers.map fun t => if t.id = id then f t else t } s

def State.xfer (s : State) (q id : Nat) : Option Transfer := (s.queue q).xfers.find? (·.id = id)

/-- Whether a transfer's writes still count: its context is present in the epoch it started under (R488 step 3). -/
def State.xferLive (s : State) (t : Transfer) : Bool := s.present t.ctx && s.epoch t.ctx == t.epoch

/-- A transfer is over: its list takes its code, ends where that is REFUSED, and may complete (R243, R245). -/
def finishXfer (q id : Nat) (s : State) : State :=
  match s.xfer q id with
  | none => s
  | some t =>
    let code := if t.poison = [] then t.code else Code.worse t.code Code.POISONED
    let x := s.queue q
    let s := putQueue q { x with xfers := x.xfers.filter (·.id ≠ id) } s
    if !s.xferLive t then showInflight t.ctx s
    else
      let s := setRun q (fun r => { r with code := Code.worse r.code code }) s
      if t.code = Code.REFUSED then endList q Code.REFUSED true s else completeList q s

/-- The WRITE packets of a transfer to another device (R244: those with poisoned bytes carry POISON). -/
def sendWrites (q : Nat) (t : Transfer) (dev a : Nat) (s : State) : State :=
  forEach (pieces t.data.length) (fun piece s =>
    let (s, tag) := openReq dev t.ctx t.epoch (a + piece.1) piece.2 (.transferWrite q t.id) s
    let pk := { mkPacket s dev t.ctx t.epoch Cls.DATA Op.WRITE tag (a + piece.1) (piece.2 - 1) ((t.data.drop piece.1).take piece.2)
      with poison := !(marksWithin t.poison piece.1 piece.2).isEmpty }
    let (s, code) := sendRequest pk s
    if code = Code.DONE then updXfer q t.id (fun t => { t with waits := t.waits ++ [tag] }) s
    else updXfer q t.id (fun t => { t with code := Code.worse t.code code }) (closeReq tag s)) s

/-- The MCAST_WRITE packets of a transfer to a fabric group that this device originates (R247, R282, R96). -/
def sendGroup (q g : Nat) (t : Transfer) (s : State) : State :=
  if s.on (Reg.TIDE_DSTATUS (s.ctxDomain t.ctx)) F.TIDE_DSTATUS_STALE then
    updXfer q t.id (fun t => { t with code := Code.worse t.code Code.MODE_STALE }) s
  else forEach (pieces t.data.length) (fun piece s =>
    let a := t.dst + piece.1
    let (s, tag) := openReq s.deviceId t.ctx t.epoch a piece.2 (.transferWrite q t.id) s
    let pk := { mkPacket s s.deviceId t.ctx t.epoch Cls.DATA Op.MCAST_WRITE tag a (piece.2 - 1) ((t.data.drop piece.1).take piece.2)
      with poison := !(marksWithin t.poison piece.1 piece.2).isEmpty, group := BitVec.ofNat 12 g }
    let (s, live, code, op) := mcastSpread g pk s
    if live = [] ∧ op = none then updXfer q t.id (fun t => { t with code := Code.worse t.code code }) (closeReq tag s)
    else
      let s := { s with mcasts := s.mcasts ++ [⟨g, tag, s.deviceId, t.ctx, t.epoch, live, code, true, op⟩] }
      updXfer q t.id (fun t => { t with waits := t.waits ++ [tag] }) s) s

/-- A transfer whose data is complete is written where its destination is not local memory: to a group of devices, or to
another device. Its end comes with the last answer. -/
def sendOnward (q id : Nat) (s : State) : State :=
  match s.xfer q id with
  | none => s
  | some t =>
    if t.waits ≠ [] || t.written || !s.xferLive t || t.code ≠ Code.DONE then s
    else
      match t.mcast, s.target t.dst t.data.length with
      | some (true, g), _ =>
        sendGroup q g t (bumpBy (Reg.STR_Q_BYTES q) t.data.length (updXfer q id (fun t => { t with written := true }) s))
      | none, .remote dev a =>
        sendWrites q t dev a (bumpBy (Reg.STR_Q_BYTES q) t.data.length (updXfer q id (fun t => { t with written := true }) s))
      | _, _ => s

/-- The local write of a transfer, in whole units where it is poisoned, to its memory or to every tile of its on-package
group; each write may be a fingerprint item. A write that is held leaves the transfer outstanding (R235, R423). -/
def writeXfer (q : Nat) (t : Transfer) (s : State) : State :=
  let n := t.data.length
  let store (tgt : Target) (s : State) : State × Nat := writeMarked tgt t.data t.poison t.hint t.ctx t.epoch s
  let (s, c, op) := asOp (fun s => match t.mcast with
    | some (false, m) => (forEach (s.mcTiles m) (fun l s => (store (.tile l (t.dst - tileBase)) s).1) s, Code.DONE)
    | _ => store (s.target t.dst n) s) (bumpBy (Reg.STR_Q_BYTES q) n s)
  let s := match op with
    | some id => waitFor id none Code.DONE (.transfer q t.id) s
    | none => s
  let s := updXfer q t.id (fun t => { t with written := true, holding := op.isSome, code := Code.worse t.code c }) s
  when (c = Code.DONE) (fingerprint t.ctx (if t.mcast.isSome then t.dst else t.dst % 2 ^ 48) t.data) s

/-- The source of a transfer read (R240, R242, R244): zeros, local bytes with their poison, or READ_REQs to another
device. -/
def readSource (q : Nat) (d : Desc) (t : Transfer) (n : Nat) (tgt : Target) (s : State) : State :=
  if d.zero then updXfer q t.id (fun t => { t with data := List.replicate n 0 }) s
  else match tgt with
    | .remote dev a =>
      forEach (pieces n) (fun piece s =>
        let (s, tag) := openReq dev t.ctx t.epoch (a + piece.1) piece.2 (.transferRead q t.id piece.1) s
        let pk := mkPacket s dev t.ctx t.epoch Cls.DATA Op.READ_REQ tag (a + piece.1) (piece.2 - 1) []
        let (s, code) := sendRequest pk s
        if code = Code.DONE then updXfer q t.id (fun t => { t with waits := t.waits ++ [tag] }) s
        else updXfer q t.id (fun t => { t with code := Code.worse t.code code }) (closeReq tag s))
        (updXfer q t.id (fun t => { t with data := List.replicate n 0 }) s)
    | _ =>
      let (s, data, marks) := readMarked tgt n d.shint s
      updXfer q t.id (fun t => { t with data := data, poison := marks }) s

/-- The next transfer of descriptor `d` after run and position: source, destination, length (R241). -/
def Desc.next (d : Desc) (run pos : Nat) : Nat × Nat × Nat :=
  let src := (d.runAddr d.src d.sstr run + pos) % 2 ^ 64
  let dst := (d.runAddr d.dst d.dstr run + pos) % 2 ^ 64
  (src, dst, min (d.len0 - pos) (min (4096 - src % 4096) (4096 - dst % 4096)))

/-- Whether the issue rules hold for a queue with descriptor `d` (R241 FENCE, R248 LIMIT, R251 standby). -/
def State.mayIssue (s : State) (q : Nat) (r : ListRun) (d : Desc) : Bool :=
  let x := s.queue q
  let m := Reg.STR_Q_MAP q
  s.queueRuns q && decide (x.xfers.length ≤ s.fld m F.STR_Q_MAP_LIMIT) && decide (s.engineLoad (q / 64) < 1024) &&
    !(d.fence && x.xfers.any fun t => t.desc != r.started) &&
    (!s.on m F.STR_Q_MAP_STANDBY || s.stalled.contains (s.fld m F.STR_Q_MAP_GROUP))

/-- The next transfer of descriptor `d` of a list in progress: its source and destination addresses and its length. -/
def ListRun.move (r : ListRun) (d : Desc) : Nat × Nat × Nat := d.next r.run r.pos

/-- Where the next transfer of a descriptor reads; an OP ZERO reads nothing. -/
def State.moveSource (s : State) (r : ListRun) (d : Desc) : Target :=
  if d.zero then .hbm 0 else s.target (r.move d).1 (r.move d).2.2

/-- Whether the next transfer touches tile memory of its context while that is not resident there, so that it waits (R484). -/
def State.moveAway (s : State) (q : Nat) (r : ListRun) (d : Desc) : Bool :=
  let c := s.queueCtx q
  (!d.zero && s.tileAway c (s.moveSource r d)) ||
    (if d.group = 0 then s.tileAway c (s.target (r.move d).2.1 (r.move d).2.2)
     else !d.fabric && (s.mcTiles d.group).any fun l => s.tileAway c (.tile l 0))

/-- Whether a queue has a transfer that can issue now. -/
def State.canIssue (s : State) (q : Nat) : Bool :=
  match (s.queue q).run with
  | some r => (match r.desc with
    | some b => s.mayIssue q r (readDesc b) && !s.moveAway q r (readDesc b)
    | none => false)
  | none => false

/-! ### Turns (R249, R480) -/

/-- The turns of stream engine `e`. -/
def State.turn (s : State) (e : Nat) : EngineTurn := Store.lookup (fun _ => EngineTurn.init) s.turns e
def setTurn (e : Nat) (x : EngineTurn) (s : State) : State :=
  { s with turns := Store.update (fun _ => EngineTurn.init) s.turns e x }

/-- In a weighted round robin over `ready`, in ascending order, whose turn it is after `cur` had it with some left: still its own, or that
of the next one that is ready. -/
def whoseTurn (ready : List Nat) (cur : Option (Nat × Nat)) : Option Nat :=
  match cur with
  | some (x, left) => if 0 < left ∧ ready.contains x then some x else (ready.find? (x < ·)).or ready.head?
  | none => ready.head?

/-- What a round robin with these turns remembers once `x` has issued in its turn, of `weight` transfers. -/
def takeTurn (key x weight : Nat) (l : List (Nat × Nat × Nat)) : List (Nat × Nat × Nat) :=
  let left := match l.find? (·.1 = key) with
    | some (_, y, n) => if y = x ∧ 0 < n then n else weight
    | none => weight
  (key, x, left - 1) :: l.filter (·.1 ≠ key)

/-- The queues of stream engine `e`. -/
def engineQueues (e : Nat) : List Nat := (List.range 64).map (64 * e + ·)

/-- Whether it is the turn of queue `q` among those of its context, and of its context among those of its partition, that can issue on
their engine (R249, R480). -/
def State.hasTurn (s : State) (q : Nat) : Bool :=
  let e := q / 64
  let c := s.queueCtx q
  let p := s.ctxPart c
  let ready := (engineQueues e).filter s.canIssue
  let ctxs := ((ready.map s.queueCtx).filter fun c => s.ctxPart c == p).foldl (fun l c => insertMark c l) []
  whoseTurn (ready.filter fun q => s.queueCtx q == c) (((s.turn e).queues.find? (·.1 = c)).map (·.2)) == some q &&
    whoseTurn ctxs (((s.turn e).contexts.find? (·.1 = p)).map (·.2)) == some c

/-- A transfer of queue `q` issues in its turn: of WEIGHT transfers of the queue, and of SHARE transfers of its context. -/
def spendTurn (q : Nat) (s : State) : State :=
  let e := q / 64
  let c := s.queueCtx q
  let x := s.turn e
  setTurn e ⟨takeTurn (s.ctxPart c) c (max 1 (s.fld (Reg.CTX_SCHED c) F.CTX_SCHED_SHARE)) x.contexts,
    takeTurn c q (s.fld (Reg.STR_Q_MAP q) F.STR_Q_MAP_WEIGHT + 1) x.queues⟩ s

/-- The destinations of a transfer checked for context `c` (R54, R479): the tiles of a group, a group of devices, another
device, or local memory. -/
def checkDest (c : Nat) (d : Desc) (tgt : Target) (dst n : Nat) (s : State) : State × Bool :=
  if d.group ≠ 0 then
    (if d.fabric then (if localTarget dst n = .bad then (addressFault c dst s, false) else (s, true))
     else if dst < tileBase ∨ tileBase + tileBytes < dst + n then (addressFault c dst s, false) else (s, true))
  else match tgt with
    | .remote _ _ => (s, true)
    | t => contextAccess c t dst n true s

/-- A list in progress after its next transfer, of `n` bytes, has issued (R240, R241). -/
def ListRun.after (r : ListRun) (d : Desc) (n : Nat) : ListRun :=
  let runOver := decide (r.pos + n = d.len0)
  let allOver := runOver && decide (r.run + 1 = d.runs)
  { r with
    run := if runOver then r.run + 1 else r.run
    pos := if runOver then 0 else r.pos + n
    desc := if allOver then none else r.desc
    ended := allOver && d.last }

/-- TRANSFER_ISSUE (R241 to R249, R251, R480, R484): the next transfer of the current descriptor issues, unless it must wait or it is not
its queue's turn; one refused under R54 or R479 ends the list. Between partitions and engines the command chooses (log 60). -/
def execTransferIssue (q : Fin 1024) (s : State) : Outcome State Fault Refusal :=
  match (s.queue q.val).run with
  | none => .next s
  | some r =>
    match r.desc with
    | none => .next s
    | some b =>
      let d := readDesc b
      let c := s.queueCtx q.val
      let (src, dst, n) := r.move d
      let stgt := s.moveSource r d
      if !s.canIssue q.val || !s.hasTurn q.val then .next s
      else
        let remoteSrc := match stgt with | .remote _ _ => true | _ => false
        let s := spendTurn q.val s
        let (s, okS) := if d.zero || remoteSrc then (s, true) else contextAccess c stgt src n false s
        let (s, okD) := if okS then checkDest c d (s.target dst n) dst n s else (s, false)
        if !okD then .next (settle (endList q.val Code.REFUSED true s))
        else
          let x := s.queue q.val
          let readWait := match stgt with
            | .hbm a => if !d.zero && s.pairClears a then some (a / 0x80000000) else none
            | _ => none
          let t : Transfer := ⟨x.nextId, r.started, dst, [], [], d.dhint,
            if d.group = 0 then none else some (d.fabric, d.group), false, [], Code.DONE, c, s.epoch c, readWait, false⟩
          let s := putQueue q.val { x with run := some (r.after d n), xfers := x.xfers ++ [t], nextId := x.nextId + 1 } s
          .next (settle (sendOnward q.val t.id (readSource q.val d t n stgt s)))

/-- TRANSFER_COMPLETE (R235, R243 to R245, R248): a transfer that waits neither for an answer nor, with its read, for the clear
of a pair is written, unless it was written already, failed, or its epoch is gone; it is over unless its write is held. -/
def execTransferComplete (q : Fin 1024) (id : Nat) (s : State) : Outcome State Fault Refusal :=
  match s.xfer q.val id with
  | none => .next s
  | some t =>
    let reading := match t.readWait with
      | some n => s.path.clearing.contains n
      | none => false
    if t.waits ≠ [] || reading || t.holding then .next s
    else
      let s := when (!t.written && t.code == Code.DONE && s.xferLive t) (writeXfer q.val t) s
      let holding := match s.xfer q.val id with | some t => t.holding | none => false
      .next (settle (if holding then s else finishXfer q.val id s))

/-- The answer to one request of a transfer: its code counts; the last answer of a remote write ends the transfer, and the
last answer of a remote read lets its data go on. -/
def xferAnswer (q id tag code : Nat) (s : State) : State :=
  let s := updXfer q id (fun t => { t with waits := t.waits.filter (· ≠ tag), code := Code.worse t.code code }) s
  match s.xfer q id with
  | none => s
  | some t => if t.waits = [] && t.written then finishXfer q id s else sendOnward q id s

/-- Read data of a transfer: laid at its offset, poisoned in whole where the packet is (R244). -/
def xferData (q id off tag : Nat) (data : List Byte) (poison : Bool) (s : State) : State :=
  xferAnswer q id tag Code.DONE (updXfer q id (fun t =>
    { t with data := splice t.data off data, poison := if poison then t.poison ++ [(off, data.length)] else t.poison }) s)

/-! ### Standby (R250, R251) -/

/-- The tiles of a tile group that run its context, by physical number. -/
def State.groupTiles (s : State) (g : Nat) : List Nat :=
  let c := s.fld (Reg.STR_TG_CTL g) F.STR_TG_CTL_CONTEXT
  let inMask l := if l < 64 then bit (s.reg (Reg.STR_TG_MASK0 g)).toNat l
    else if l < 128 then bit (s.reg (Reg.STR_TG_MASK1 g)).toNat (l - 64) else bit (s.reg (Reg.STR_TG_MASK2 g)).toNat (l - 128)
  ((List.range 144).filter inMask |>.map s.phys).filter fun p => s.tileSt p == TileSt.RUNNING && s.tileCtx p == some c

/-- Whether a tile group is stalled (R250). -/
def State.groupStalled (s : State) (g : Nat) : Bool :=
  s.on (Reg.STR_TG_CTL g) F.STR_TG_CTL_VALID && !(s.groupTiles g).isEmpty &&
    (s.groupTiles g).all fun p => [1, 2, 5].contains (s.fld (Reg.TILE_STATUS p) F.TILE_STATUS_WAIT)

/-- ISSUING of a queue: it is a standby queue whose group's stall the engine has observed. -/
def showIssuing (q : Nat) (s : State) : State :=
  putB (Reg.STR_Q_STATUS q) F.STR_Q_STATUS_ISSUING
    (s.on (Reg.STR_Q_MAP q) F.STR_Q_MAP_STANDBY && s.stalled.contains (s.fld (Reg.STR_Q_MAP q) F.STR_Q_MAP_GROUP)) s

/-- The standby queues of a group. -/
def State.standbys (s : State) (g : Nat) : List Nat :=
  (List.range 1024).filter fun q => s.on (Reg.STR_Q_MAP q) F.STR_Q_MAP_STANDBY && s.fld (Reg.STR_Q_MAP q) F.STR_Q_MAP_GROUP == g

/-- GROUP_STALL_START (R251). A group that is not stalled has no such event (log 6). -/
def execGroupStallStart (g : Fin 64) (s : State) : Outcome State Fault Refusal :=
  if !s.groupStalled g.val then .next s
  else
    let s := { s with stalled := insertMark g.val s.stalled }
    .next (forEach (s.standbys g.val) showIssuing s)

/-- GROUP_STALL_END (R251). A group that is still stalled has no such event (log 6). -/
def execGroupStallEnd (g : Fin 64) (s : State) : Outcome State Fault Refusal :=
  if s.groupStalled g.val then .next s
  else
    let s := { s with stalled := s.stalled.filter (· ≠ g.val) }
    .next (forEach (s.standbys g.val) showIssuing s)

/-- STR_MAP_WRITE (R262): LIMIT and WEIGHT at any time; a change of the rest only while nothing is posted or outstanding. -/
def execStrMapWrite (q : Fin 1024) (v : Word) (s : State) : Outcome State Fault Refusal :=
  let off := Reg.STR_Q_MAP q.val
  let same (f : Fld) : Bool := v.get f == s.fld off f
  let busy := decide ((s.queue q.val).lists ≠ []) || decide ((s.queue q.val).xfers ≠ [])
  let keeps := same F.STR_Q_MAP_VALID && same F.STR_Q_MAP_STANDBY && same F.STR_Q_MAP_GROUP && same F.STR_Q_MAP_CTXQ &&
    same F.STR_Q_MAP_CONTEXT
  if busy && !keeps then .next (badWrite off s) else .next (showIssuing q.val (genericWrite off v s))

end Sys2Proof.Machine
end

