-- ==== Sys2Proof/Machine/Issue.lean ====
section
/-! DEFINITION. The sequencer of a tile (chapter 03): its registers, the faults and the holds of each slot (R105 to R140), what each
slot does once its bundle issues, and the presentation of a bundle. An instruction other than a matrix-slot one completes as it issues:
the latencies of the scoreboard are timing and are left out. -/
namespace Sys2Proof.Machine

/-! ### Registers (R99) -/

/-- A scalar register written, modulo 2^64; writes to s0 are discarded. -/
def setSreg (p n v : Nat) (s : State) : State := if n = 0 then s else setR (Reg.TILE_SREG p n) (BitVec.ofNat 64 v) s
/-- An address register. -/
def State.areg (s : State) (p n : Nat) : Nat := (s.reg (Reg.TILE_AREG p n)).toNat
def setAreg (p n v : Nat) (s : State) : State := setR (Reg.TILE_AREG p n) (BitVec.ofNat 64 v) s
/-- A predicate written; writes to p0 are discarded. -/
def setPreg (p n : Nat) (v : Bool) (s : State) : State := if n = 0 then s else putB (Reg.TILE_PREG p) ⟨n, n⟩ v s
/-- The 128-bit Philox counter. -/
def State.rngCtr (s : State) (p : Nat) : Nat :=
  (s.reg (Reg.TILE_RNG_CTR_LO p)).toNat + 2 ^ 64 * (s.reg (Reg.TILE_RNG_CTR_HI p)).toNat
def State.rngKey (s : State) (p : Nat) : Nat := (s.reg (Reg.TILE_RNG_KEY p)).toNat
/-- The counter advanced by `n` calls, modulo 2^128. -/
def advanceRng (p n : Nat) (s : State) : State :=
  let c := s.rngCtr p + n
  setR (Reg.TILE_RNG_CTR_HI p) (BitVec.ofNat 64 (c / 2 ^ 64)) (setR (Reg.TILE_RNG_CTR_LO p) (BitVec.ofNat 64 c) s)

/-- The context whose program runs on a tile. -/
def State.runCtx (s : State) (p : Nat) : Nat := (s.tileCtx p).getD 0
/-- Its tide domain. -/
def State.runDomain (s : State) (p : Nat) : Nat := s.ctxDomain (s.runCtx p)

/-- The next bundle's address: an address that TILE_PC cannot hold is remembered until it is fetched (R110). -/
def setNext (p a : Nat) (s : State) : State :=
  let ok := decide (a < 2 ^ 22) && a % 32 == 0
  put (Reg.TILE_PC p) F.TILE_PC_PC (a % 2 ^ 22 / 32 * 32)
    (setTile p { s.tile p with wild := if ok then none else some a } s)

/-- A sign-extended 32-bit immediate, modulo 2^64. -/
def sext (imm : BitVec 32) : Nat := (imm.signExtend 64).toNat

/-! ### Scalar operations (R108) -/

/-- ALU by FUNC. -/
def aluOp (f : Nat) (a b : Word) : Word :=
  match f with
  | 0x0 => a + b
  | 0x1 => a - b
  | 0x2 => a * b
  | 0x3 => BitVec.ofNat 64 (a.toNat * b.toNat / 2 ^ 64)
  | 0x4 => a &&& b
  | 0x5 => a ||| b
  | 0x6 => a ^^^ b
  | 0x7 => if 64 ≤ b.toNat then 0 else a <<< b.toNat
  | 0x8 => if 64 ≤ b.toNat then 0 else a >>> b.toNat
  | 0x9 => a.sshiftRight (min b.toNat 64)
  | 0xA => if a.slt b then a else b
  | 0xB => if a.slt b then b else a
  | 0xC => if a.ult b then a else b
  | _ => if a.ult b then b else a

/-- Compare by FUNC. -/
def cmpHolds (f : Nat) (a b : Word) : Bool :=
  match f with
  | 0 => a == b
  | 1 => a != b
  | 2 => a.slt b
  | 3 => a.ult b
  | 4 => !a.slt b
  | _ => !a.ult b

/-- PLOG by FUNC. -/
def plogOp (f : Nat) (a b : Bool) : Bool :=
  match f with
  | 0 => a && b
  | 1 => a || b
  | 2 => xor a b
  | _ => a && !b

/-- A scalar register as a word. -/
def State.sword (s : State) (p n : Nat) : Word := BitVec.ofNat 64 (s.sreg p n)

/-! ### Channel addresses (R125) and effective addresses (R117) -/

/-- Whether a channel address is well formed. -/
def chanOk (v : Nat) : Bool :=
  bits v 63 32 == 0 && bits v 4 0 == 0 && decide (bits v 17 10 ≤ 143) && (bit v 31 || bits v 30 18 == 0)

/-- EA of a MEM-format instruction. -/
def State.ea (s : State) (p : Nat) (ar : Fin 16) (am : BitVec 2) (x : Fin 32) (imm : BitVec 32) : Nat :=
  match am.toNat with
  | 0 => (s.areg p ar.val + sext imm) % 2 ^ 64
  | 1 => s.areg p ar.val
  | _ => (s.areg p ar.val + s.sreg p x.val) % 2 ^ 64

/-- ADDRESS and MISALIGNED of an access (R117). -/
def eaFaults (ea n align : Nat) : List Nat :=
  (if 0x400000 < ea + n then [0x03] else []) ++ (if ea % align ≠ 0 then [0x04] else [])

/-- The post-increment of an access (R117). -/
def postInc (p : Nat) (ar : Fin 16) (am : BitVec 2) (imm : BitVec 32) (s0 s : State) : State :=
  if am = 1 then setAreg p ar.val (s0.areg p ar.val + sext imm) s else s

/-! ### The control slot -/

/-- Whether ring `r` of logical tile `l` is enabled for context `c` (R129). -/
def State.ringFor (s : State) (l r c : Nat) : Bool :=
  s.on (Reg.CHN_CTRL l r) F.CHN_CTRL_ENABLE && s.fld (Reg.CHN_CTRL l r) F.CHN_CTRL_CONTEXT == c

/-- The operand faults of a control-slot instruction (R139). -/
def ctlFaults (p : Nat) (i : Ctl) (s : State) : List Nat :=
  let t := s.tile p
  let c := s.runCtx p
  let l := s.logical p
  let ring (a : Fin 32) : List Nat :=
    if 31 < s.sreg p a.val then [0x07] else if s.ringFor l (s.sreg p a.val) c then [] else [0x0B]
  let post (a : Fin 32) (ar : Fin 16) : List Nat :=
    let o := s.areg p ar.val
    (if chanOk (s.sreg p a.val) then [] else [0x07]) ++ eaFaults o 64 64 ++
      (if o + 64 ≤ 0x400000 ∧ s.tmPoison l o 64 then [0x0A] else [])
  let head (r : Nat) : List Nat :=
    if s.ringLevel l r ≠ 0 ∧ s.tmPoison l (s.ringEntry l r (s.fld (Reg.CHN_PTR l r) F.CHN_PTR_RP) + 64) 8 then [0x0A] else []
  match i with
  | .call _ => if 8 ≤ t.rets.length then [0x06] else []
  | .ret => if t.rets = [] then [0x06] else []
  | .loop a _ => if s.sreg p a.val ≠ 0 ∧ 4 ≤ t.loops.length then [0x06] else []
  | .twait _ _ _ _ => if s.role (s.runDomain p) = 0 then [0x08] else []
  | .cwait _ a b _ =>
    (if 63 < s.sreg p a.val ∨ 256 < s.sreg p b.val then [0x07] else []) ++
      (if (s.stagePortFor c (s.sreg p a.val % 64) l false).isNone then [0x09] else [])
  | .cpost a _ ar => post a ar
  | .cpostw _ a _ ar => post a ar
  | .crecv _ a _ _ _ => ring a ++ (if s.sreg p a.val ≤ 31 then head (s.sreg p a.val) else [])
  | .cfree a => ring a
  | .ldone a _ =>
    (if 0xFFF < s.sreg p a.val then [0x07] else []) ++ (if s.role (s.runDomain p) = 0 then [0x08] else []) ++
      (if s.sreg p a.val ≤ 0xFFF ∧ s.ldoneRefused c l (s.sreg p a.val) then [0x0B] else [])
  | _ => []

/-- The posts of a tile that have not completed (R126, R136). -/
def TileState.postsOut (t : TileState) : Nat := (t.posts.filter (·.result.isNone)).length

/-- Whether an earlier store of the tile is not yet visible: a MOUT or MSTA that has not completed (R132, R115). -/
def TileState.storesPending (t : TileState) : Bool :=
  t.queue.any fun e => match e.ins with
    | .mout _ _ _ _ _ => true
    | .msta _ _ => true
    | _ => false

/-- The control slot's own wait, as a WAIT code, or 0 where nothing waits (R121 to R132). -/
def ctlWait (p : Nat) (i : Ctl) (s : State) : Nat :=
  let t := s.tile p
  let d := s.runDomain p
  let c := s.runCtx p
  let l := s.logical p
  match i with
  | .twait _ mode a _ =>
    let v := s.sword p a.val
    let ph := s.phase d
    let met := if ph = Phase.PAUSE ∨ ph = Phase.REPLAY then false
      else if mode = 0 then reached (s.tide d) v
      else tideStep (s.tide d) == tideStep v && ph == tidePhase v
    if met then 0 else 1
  | .cwait _ a b _ =>
    (match s.stagePortFor c (s.sreg p a.val % 64) l false with
    | some q => if s.sreg p b.val ≤ s.stgCredits q then 0 else 2
    | none => 0)
  | .cpost _ _ _ => if 64 ≤ t.postsOut then 4 else 0
  | .cpostw _ _ _ _ =>
    (match t.begun with
    | some (.post g) => if t.posts.any fun x => x.tag = g ∧ x.result ≠ none then 0 else 3
    | _ => if 64 ≤ t.postsOut then 4 else 3)
  | .crecv _ a _ _ _ => if s.ringLevel l (s.sreg p a.val) = 0 then 3 else 0
  | .ldone _ w =>
    (match t.begun with
    | some (.notice layer step) => if w && !s.layerDone layer step then 5 else 0
    | _ => 5)
  | .mfence => if t.storesPending then 7 else 0
  | _ => 0

/-- The timeout register of a wait (R122). -/
def ctlTimeout : Ctl → Nat
  | .twait _ _ _ t => t.val
  | .cwait _ _ _ t => t.val
  | .crecv _ _ t _ _ => t.val
  | _ => 0

/-- The ADDR of a MESSAGE packet (R267). -/
def msgAddr (tag src chan : Nat) : Nat := tag % 65536 * 2 ^ 32 + src * 2 ^ 24 + bits chan 17 5 * 32

/-- A post leaves tile `p` (R126): the message with its payload, towards another device over the fabric, or on this one (shown as
port 32), where it waits for its MESSAGE. Answers its tag. -/
def sendPost (p : Nat) (chan tag : Nat) (payload : List Byte) (waits : Bool) (s : State) : State × Nat :=
  let c := s.runCtx p
  let dev := if bit chan 31 then bits chan 30 18 else s.deviceId
  let loc := dev = s.deviceId
  let (s, t) := if loc then ({ s with nextTag := (s.nextTag + 1) % 65536 }, s.nextTag)
    else openReq dev c (s.epoch c) 0 0 (.post p) s
  let s := setTile p { s.tile p with posts := (s.tile p).posts ++ [⟨t, chan % 2 ^ 32, waits, false, none⟩] } s
  let pk := mkPacket s dev c (s.epoch c) Cls.CONTROL Op.MESSAGE t (msgAddr tag (s.logical p) chan) 63 payload
  if loc then (emit (.packet 32 pk) { s with locals := s.locals ++ [pk] }, t)
  else
    let (s, code) := sendRequest pk s
    (if code = Code.DONE then s else finishPost p t code 0 (closeReq t s), t)

/-- What a held control slot begins as soon as nothing else holds its bundle: a CPOSTW's post (R128), an LDONE's notification, once every
earlier store is visible (R131, R316). A second LDONE for a layer and step sets DUP_LDONE. A CPOSTW that was abandoned after its post left and
is presented again sends a second message (DESIGN CHOICE, log 76: R121 and R128 do not say). -/
def beginCtl (p : Nat) (i : Ctl) (s : State) : State :=
  match i with
  | .cpostw _ a b ar =>
    if (s.tile p).begun.isSome ∨ 64 ≤ (s.tile p).postsOut then s
    else
      let (s, t) := sendPost p (s.sreg p a.val) (s.sreg p b.val) (s.tmBytes (s.logical p) (s.areg p ar.val) 64) true s
      setTile p { s.tile p with begun := some (.post t) } s
  | .ldone a _ =>
    let layer := s.sreg p a.val
    let l := s.logical p
    let step := tideStep (s.tide (s.runDomain p))
    if (s.tile p).begun.isSome ∨ (s.tile p).storesPending ∨ s.ldoneHeld layer step then s
    else
      let s := setTile p { s.tile p with begun := some (.notice layer step) } s
      if s.ldoneGiven layer step l then raise (Reg.TILE_STATUS p) F.TILE_STATUS_DUP_LDONE s
      else ldone (s.runCtx p) l layer step s
  | _ => s

/-- The value of a CSR (R136). -/
def csrValue (p csr : Nat) (s : State) : Nat :=
  match csr with
  | 0x000 => s.power.cycles % 2 ^ 64
  | 0x001 => s.logical p
  | 0x002 => s.fld (Reg.TILE_CTX p) F.TILE_CTX_EPOCH * 4096 + s.fld (Reg.TILE_CTX p) F.TILE_CTX_CONTEXT
  | 0x003 => if s.role (s.runDomain p) = 0 then 0 else (s.tide (s.runDomain p)).toNat
  | 0x004 => s.deviceId
  | 0x005 => (s.tile p).postsOut
  | 0x006 => (s.reg (Reg.TILE_NACK_LOG p 0)).toNat
  | 0x010 => s.rngKey p
  | 0x011 => (s.reg (Reg.TILE_RNG_CTR_LO p)).toNat
  | _ => (s.reg (Reg.TILE_RNG_CTR_HI p)).toNat

/-- NACK_POP (R136, R145): the oldest entry leaves the log and the others move down. -/
def popNack (p : Nat) (s : State) : State :=
  forEach (List.range 8) (fun i t =>
    setR (Reg.TILE_NACK_LOG p i) (if i = 7 then 0 else s.reg (Reg.TILE_NACK_LOG p (i + 1))) t) s

/-- The effect of a control-slot instruction other than on the PC; `s0` is the state before the bundle issued (R106), and `timed` says
that its wait timed out (R122). -/
def ctlEffect (p : Nat) (i : Ctl) (timed : Bool) (s0 s : State) : State :=
  let sr (a : Fin 32) : Nat := s0.sreg p a.val
  let l := s0.logical p
  match i with
  | .li d imm => setSreg p d.val (sext imm) s
  | .lui d a imm => setSreg p d.val (imm.toNat * 2 ^ 32 + sr a % 2 ^ 32) s
  | .addi d a imm => setSreg p d.val (sr a + sext imm) s
  | .alu d a b f => setSreg p d.val (aluOp f.toNat (s0.sword p a.val) (s0.sword p b.val)).toNat s
  | .cmp d a b f => setPreg p d.val (cmpHolds f.toNat (s0.sword p a.val) (s0.sword p b.val)) s
  | .cmpi d a f imm => setPreg p d.val (cmpHolds f.toNat (s0.sword p a.val) (imm.signExtend 64)) s
  | .plog d a b f => setPreg p d.val (plogOp f.toNat (s0.preg p a.val) (s0.preg p b.val)) s
  | .movsa d a => setAreg p d.val (sr a) s
  | .movas d a => setSreg p d.val (s0.areg p a.val) s
  | .adda d a imm => setAreg p d.val (s0.areg p a.val + sext imm) s
  | .lia d imm => setAreg p d.val (sext imm) s
  | .twait pd _ _ _ => setPreg p pd.val (!timed) s
  | .cwait pd _ _ _ => setPreg p pd.val (!timed) s
  | .cpost a b ar => (sendPost p (sr a) (sr b) (s0.tmBytes l (s0.areg p ar.val) 64) false s).1
  | .cpostw d _ _ _ =>
    let t := s0.tile p
    (match t.posts.find? fun x => some (.post x.tag) = t.begun with
    | some x =>
      let v := match x.result with | some (code, nack) => nack * 256 + code | none => 0
      setSreg p d.val v (setTile p { s.tile p with posts := (s.tile p).posts.filter fun y => some (.post y.tag) ≠ t.begun } s)
    | none => s)
  | .crecv d a _ ar pd =>
    if timed then setPreg p pd.val false s
    else
      let r := sr a
      setPreg p pd.val true (setSreg p d.val (s0.ringHead l r)
        (setAreg p ar.val (s0.ringEntry l r (s0.fld (Reg.CHN_PTR l r) F.CHN_PTR_RP)) s))
  | .cfree a =>
    if s0.ringLevel l (sr a) = 0 then raise (Reg.TILE_STATUS p) F.TILE_STATUS_RING_UNDERRUN s else ringFree l (sr a) s
  | .csrr d csr =>
    let s := setSreg p d.val (csrValue p csr.toNat s0) s
    if csr = 6 then popNack p s else s
  | .rngset a f =>
    let w := s0.sword p a.val
    setR (if f = 0 then Reg.TILE_RNG_KEY p else if f = 1 then Reg.TILE_RNG_CTR_LO p else Reg.TILE_RNG_CTR_HI p) w s
  | _ => s

/-- The taken target of a control-slot instruction at `pc` (R109). -/
def ctlTarget (p : Nat) (i : Ctl) (pc : Nat) (s0 : State) : Option Nat :=
  let rel (off : BitVec 32) : Nat := (pc + 32 * sext off) % 2 ^ 64
  match i with
  | .br off => some (rel off)
  | .jmp a => some (s0.sreg p a.val)
  | .call off => some (rel off)
  | .ret => some ((s0.tile p).rets.headD 0)
  | _ => none

/-- The stacks after the control slot (R111, R112). -/
def ctlStacks (p : Nat) (i : Ctl) (pc : Nat) (s0 s : State) : State :=
  let t := s.tile p
  match i with
  | .call _ => setTile p { t with rets := (pc + 32) :: t.rets } s
  | .ret => setTile p { t with rets := t.rets.drop 1 } s
  | .loop a off =>
    let n := s0.sreg p a.val
    let e : LoopEntry := ⟨pc + 32, pc + 32 * off.toNat, n⟩
    if n = 0 then s else setTile p { t with loops := e :: t.loops } s
  | _ => s

/-- The loops that a bundle at `last` ends or repeats when control goes on in sequence, and where it goes (R111). -/
def backEdge (last : Nat) : List LoopEntry → List LoopEntry × Nat
  | [] => ([], last + 32)
  | e :: rest =>
    if e.stop ≠ last then (e :: rest, last + 32)
    else if 1 < e.count then ({ e with count := e.count - 1 } :: rest, e.start)
    else backEdge last rest

/-- The loops that a taken transfer to `a` leaves active (R112). -/
def exitLoops (a : Nat) : List LoopEntry → List LoopEntry
  | [] => []
  | e :: rest => if e.start ≤ a ∧ a ≤ e.stop then e :: rest else exitLoops a rest

/-- The PC, the loops and the return stack after a bundle at `pc` whose control slot is `i`, where it executes (R109 to R112). -/
def advancePc (p : Nat) (i : Ctl) (pc : Nat) (s0 s : State) : State :=
  let s := ctlStacks p i pc s0 s
  let t := s.tile p
  match ctlTarget p i pc s0 with
  | some a => setNext p a (setTile p { t with loops := exitLoops a t.loops } s)
  | none =>
    let last := match i with
      | .loop a off => if s0.sreg p a.val = 0 then pc + 32 * off.toNat else pc
      | _ => pc
    let r := backEdge last t.loops
    setNext p r.2 (setTile p { t with loops := r.1 } s)

/-! ### The matrix slot -/

/-- The descriptor that a matrix-slot instruction reads from sSD. -/
def State.matDesc (s : State) (p : Nat) (i : Mat) : Word :=
  match matSd i with | some n => s.sword p n | none => 0

/-- Its entry as it enters the queue, with the generator's state (R114, R174, R138). -/
def State.matEntry (s : State) (p : Nat) (i : Mat) (pc : Nat) : MatEntry :=
  ⟨i, pc, s.areg p (matAddrs i).1, s.areg p (matAddrs i).2, s.matDesc p i, s.rngCtr p, s.rngKey p, false, 0⟩

/-- The effect of a matrix-slot instruction at issue: it joins the queue; a stochastic MOUT reserves its draws. -/
def matEffect (p : Nat) (i : Mat) (pc : Nat) (s0 s : State) : State :=
  match i with
  | .nop => s
  | _ =>
    let e := s0.matEntry p i pc
    let s := setMatQueue p ((s.tile p).queue ++ [e]) s
    match i with
    | .mout _ _ _ _ r =>
      let h := shapeOf e.desc
      if r = 2 then advanceRng p (ceilDiv (h.m * h.n) 4) s else s
    | _ => s

/-! ### The vector slot -/

/-- The operand faults of a vector-slot instruction (R196, R197). -/
def vecFaults (p : Nat) (i : Vec) (s : State) : List Nat :=
  match i with
  | .op .vmask _ _ b _ _ _ f => if maskBadP f.toNat (bits (s.sreg p b.val) 63 32) then [0x07] else []
  | .op .vrope _ _ b _ _ _ _ => if bits (s.sreg p b.val) 63 40 ≠ 0 then [0x07] else []
  | _ => []

/-- What a vector-slot instruction writes: a vector register's image or a scalar, with its flags and the draws it takes. -/
structure VecResult where
  vec : Option (List Byte)
  scalar : Nat
  flags : VFlags
  draws : Nat
  deriving DecidableEq, Repr

/-- The result of a vector-slot instruction (R180 to R198). -/
def vecResult (p : Nat) (o : VOp) (a b c : Nat) (fmt rnd func : Nat) (s : State) : VecResult :=
  let va := elems fmt (s.vreg p a)
  let vb := elems fmt (s.vreg p b)
  let vc := elems fmt (s.vreg p c)
  let out (x : List Nat × VFlags) : VecResult := ⟨some (image fmt x.1), 0, x.2, 0⟩
  let plain (l : List Nat) : VecResult := out (l, VFlags.none)
  match o with
  | .vadd => out (arithOp o fmt va vb vc)
  | .vsub => out (arithOp o fmt va vb vc)
  | .vmul => out (arithOp o fmt va vb vc)
  | .vfma => out (arithOp o fmt va vb vc)
  | .vmin => out (arithOp o fmt va vb vc)
  | .vmax => out (arithOp o fmt va vb vc)
  | .vcvt =>
    let src := func % 16
    let draw := philoxWord (s.rngKey p) (s.rngCtr p)
    let r := cvtOp src fmt (bits func 6 4) rnd draw (s.vreg p a) (s.vreg p b)
    ⟨some r.1, 0, r.2, if rnd = Rnd.STOCHASTIC then ceilDiv (cvtCount src fmt) 4 else 0⟩
  | .vsfu => out (sfuOp fmt func va)
  | .vsmx => out (smxOp func va vb vc)
  | .vrope => out (ropeOp fmt func va (s.sreg p b) (elems 0 (s.vreg p c)))
  | .vmask => plain (maskOp fmt func (s.sreg p a) (s.sreg p b))
  | .vred => let r := redOp fmt func va; ⟨none, r.1, r.2, 0⟩
  | .vsel => out (selOp fmt va vb vc)
  | .vbcast => plain (List.replicate (capacity fmt) (s.sreg p a % 2 ^ elemBits fmt))
  | .vcmp => out (cmpOp fmt func va vb)
  | .vlog => plain (logOp func va vb)
  | .viadd => plain (iaddOp va vb)
  | .vrng => ⟨some (image 12 ((List.range 256).map fun i => philoxWord (s.rngKey p) (s.rngCtr p) i)), 0, VFlags.none, 64⟩

/-- Engine cycles of a vector-slot instruction (R199), and those of them that count in VEC_SFU. -/
def vecCycles (o : VOp) (fmt func : Nat) : Nat × Nat :=
  match o with
  | .vsfu => if fmt ≤ 2 then (2, 2) else (4, 4)
  | .vsmx => if func / 64 = 1 then (2, 2) else (1, 0)
  | .vrope => (2, 0)
  | _ => (1, 0)

/-- The flags of R187 and the first capture; of several kinds in one instruction, the lowest KIND is captured. -/
def noteVec (p : Nat) (o : VOp) (fmt func pc : Nat) (f : VFlags) (s : State) : State :=
  let st := Reg.VEC_STATUS p
  let s := when f.nanIn (raise st F.VEC_STATUS_NAN_IN) s
  let s := when f.nanGen (raise st F.VEC_STATUS_NAN_GEN) s
  let s := when f.infGen (raise st F.VEC_STATUS_INF_GEN) s
  let s := when (decide (0 < f.sat)) (fun s => bumpBy (Reg.VEC_OUT_SAT_CNT p) f.sat (raise st F.VEC_STATUS_OUT_SAT s)) s
  let r := Reg.VEC_NF_CAPTURE p
  if s.on r F.VEC_NF_CAPTURE_VALID || !(f.nanIn || f.nanGen || f.infGen) then s
  else
    let kind := if f.nanIn then 0 else if f.nanGen then 1 else 2
    let w : Word := (((0 : Word).put F.VEC_NF_CAPTURE_VALID 1).put F.VEC_NF_CAPTURE_KIND kind).put F.VEC_NF_CAPTURE_OPC (vopCode o)
    let w := ((w.put F.VEC_NF_CAPTURE_FUNC func).put F.VEC_NF_CAPTURE_FMT fmt).put F.VEC_NF_CAPTURE_PC pc
    let d := s.runDomain p
    setR (Reg.VEC_NF_TIDE p) (if s.role d = 0 then 0 else s.tide d) (setR r w s)

/-- The effect of a vector-slot instruction. Its draws advance the counter on top of what an RNGSET of the same bundle has set (DESIGN
CHOICE, log 75: R106 and R107 do not say). -/
def vecEffect (p : Nat) (i : Vec) (pc : Nat) (s0 s : State) : State :=
  match i with
  | .nop => s
  | .op o d a b c fmt rnd func =>
    let r := vecResult p o a.val b.val c.val fmt.toNat rnd.toNat func.toNat s0
    let n := vecCycles o fmt.toNat func.toNat
    let s := match r.vec with
      | some x => setVreg p d.val x s
      | none => setSreg p d.val r.scalar s
    let s := when (decide (0 < r.draws)) (advanceRng p r.draws) s
    let s := bumpBy (Reg.VEC_ACTIVE p) n.1 s
    let s := when (decide (0 < n.2)) (bumpBy (Reg.VEC_SFU p) n.2) s
    noteVec p o fmt.toNat func.toNat pc r.flags s

/-! ### The move slot -/

/-- The operand faults of a move-slot instruction (R117, R120, R292, R295, R297). A load that R115 still holds finds no poison yet: its
source is not ready. -/
def movFaults (p : Nat) (i : Mov) (s : State) : List Nat :=
  let c := s.runCtx p
  let l := s.logical p
  let load (ea n align : Nat) : List Nat :=
    eaFaults ea n align ++
      (if ea + n ≤ 0x400000 ∧ s.tmPoison l ea n ∧ !((s.tile p).queue.any fun e => e.guards ea n false) then [0x0A] else [])
  match i with
  | .vld _ ar am x imm => load (s.ea p ar am x imm) 1024 32
  | .vst _ ar am x imm => eaFaults (s.ea p ar am x imm) 1024 32
  | .sld _ ar am x imm => load (s.ea p ar am x imm) 8 8
  | .sst _ ar am x imm => eaFaults (s.ea p ar am x imm) 8 8
  | .sqpost d _ => if s.queuesOf c (s.sreg p d.val % 64) = [] then [0x0B] else []
  | .sqtest _ x => if s.queuesOf c (s.sreg p x.val % 64) = [] then [0x0B] else []
  | .sget _ x =>
    let v := s.sreg p x.val
    (if bits v 7 6 ≠ 0 ∨ bits v 63 9 ≠ 0 then [0x07] else []) ++
      (if (s.stagePortFor c (v % 64) l true).isNone then [0x09] else [])
  | .sput d ar x =>
    let v := s.sreg p d.val
    let desc := s.sword p x.val
    let q := s.stagePortFor c (v % 64) l false
    let long := match q with | some q => decide (s.fld (Reg.STG_P_CTRL q) F.STG_P_CTRL_MAX_LEN < descLen desc) | none => false
    (if 63 < v ∨ bits desc.toNat 19 12 ≠ 0 ∨ long = true then [0x07] else []) ++ (if q.isNone then [0x09] else []) ++
      eaFaults (s.areg p ar.val) (descBytes desc) 64
  | _ => []

/-- The holds of a move-slot instruction, as a WAIT code (R115, R119, R167, R237, R306). -/
def movWait (p : Nat) (i : Mov) (s : State) : Nat :=
  let c := s.runCtx p
  let l := s.logical p
  let q := (s.tile p).queue
  let mem (ea n : Nat) (store : Bool) : Nat := if q.any fun e => e.guards ea n store then 6 else 0
  match i with
  | .vld _ ar am x imm => mem (s.ea p ar am x imm) 1024 false
  | .vst _ ar am x imm => mem (s.ea p ar am x imm) 1024 true
  | .sld _ ar am x imm => mem (s.ea p ar am x imm) 8 false
  | .sst _ ar am x imm => mem (s.ea p ar am x imm) 8 true
  | .accrd _ b _ => if q.any (·.usesBank b.val) then 6 else 0
  | .accwr _ b _ => if q.any (·.usesBank b.val) then 6 else 0
  | .sqpost d _ => (match s.queuesOf c (s.sreg p d.val % 64) with
    | k :: _ => if 256 ≤ (s.queue k).lists.length then 6 else 0
    | [] => 0)
  | .sget _ x => (match s.stagePortFor c (s.sreg p x.val % 64) l true with
    | some k => if bit (s.sreg p x.val) 8 then 0 else
        (match (s.stagePort k).landed with
        | [] => 2
        | d :: _ => if s.acquireWaits k d then 2 else 0)
    | none => 0)
  | .sput d ar x => (match s.stagePortFor c (s.sreg p d.val % 64) l false with
    | some k => if s.stgCredits k = 0 ∨ s.acquireWaits k (s.sword p x.val) then 2
        else mem (s.areg p ar.val) (descBytes (s.sword p x.val)) false
    | none => 0)
  | _ => 0

/-- Rows 2i and 2i + 1 of a bank as a vector register's image (R148). -/
def State.accRows (s : State) (p b i : Nat) : List Byte :=
  (List.range 2).flatMap fun r => (List.range 128).flatMap fun j => bytesOf 4 (s.accWord p b (2 * i + r) j).toNat

/-- A vector register's image written to rows 2i and 2i + 1 of a bank. -/
def setAccRows (p b i : Nat) (data : List Byte) (s : State) : State :=
  forEach (List.range 256) (fun k s => setAcc p b (2 * i + k / 128) (k % 128) (BitVec.ofNat 32 (field data (4 * k) 4)) s) s

/-- MULTI_MATCH of a context queue number (R236). -/
def noteQueues (c n : Nat) (s : State) : State :=
  when (decide (1 < (s.queuesOf c n).length)) (raise Reg.STR_STATUS F.STR_STATUS_MULTI_MATCH) s

/-- The effect of a move-slot instruction. -/
def movEffect (p : Nat) (i : Mov) (s0 s : State) : State :=
  let c := s0.runCtx p
  let l := s0.logical p
  let sr (a : Fin 32) : Nat := s0.sreg p a.val
  match i with
  | .nop => s
  | .vld d ar am x imm => postInc p ar am imm s0 (setVreg p d.val (s0.tmBytes l (s0.ea p ar am x imm) 1024) (portStall p 1024 s))
  | .vst d ar am x imm => postInc p ar am imm s0 (tmWrite l (s0.ea p ar am x imm) (s0.vreg p d.val) s)
  | .sld d ar am x imm => postInc p ar am imm s0 (setSreg p d.val (ofBytes (s0.tmBytes l (s0.ea p ar am x imm) 8)) (portStall p 8 s))
  | .sst d ar am x imm => postInc p ar am imm s0 (tmWrite l (s0.ea p ar am x imm) (bytesOf 8 (sr d)) s)
  | .accrd d b i => setVreg p d.val (s0.accRows p b.val i.val) s
  | .accwr d b i => setAccRows p b.val i.val (s0.vreg p d.val) s
  | .sqpost d x =>
    (match s0.queuesOf c (sr d % 64) with
    | k :: _ => postList k (sr x) s
    | [] => s)
  | .sqtest d x =>
    (match s0.queuesOf c (sr x % 64) with
    | k :: _ => setSreg p d.val (s0.fld (Reg.STR_Q_DONE k) F.STR_Q_DONE_COUNT) s
    | [] => s)
  | .sget d x =>
    (match s0.stagePortFor c (sr x % 64) l true with
    | some k =>
      if bit (sr x) 8 then setSreg p d.val 0 (freeEntry k s)
      else
        let (s, desc) := takeEntry k s
        setSreg p d.val desc.toNat s
    | none => s)
  | .sput d ar x =>
    (match s0.stagePortFor c (sr d % 64) l false with
    | some k =>
      let desc := s0.sword p x.val
      let r := readMarked (.tile l (s0.areg p ar.val)) (descBytes desc) 0 s
      sendEntry k desc r.2.1 r.2.2 r.1
    | none => s)

/-! ### Presentation and issue (R105, R140) -/

/-- A slot that takes part: its guard holds (R102). -/
def Bundle.live (b : Bundle) (p : Nat) (s : State) : Bundle :=
  { b with
    ctl := if s.guard p b.gc then b.ctl else .nop
    mat := if s.guard p b.gm then b.mat else .nop
    vec := if s.guard p b.gv then b.vec else .nop
    mov := if s.guard p b.gw then b.mov else .nop }

/-- The faults of a bundle's executing slots, as (code, slot). -/
def slotFaults (p : Nat) (b : Bundle) (s : State) : List (Nat × Nat) :=
  let d := s.matDesc p b.mat
  let a := matAddrs b.mat
  ((ctlFaults p b.ctl s).map ((·, 0))) ++ ((matFaults b.mat (s.areg p a.1) (s.areg p a.2) d).map ((·, 1))) ++
    ((vecFaults p b.vec s).map ((·, 2))) ++ ((movFaults p b.mov s).map ((·, 3)))

/-- The fault that is reported: the lowest code, then the lowest slot (R140). -/
def leastFault : List (Nat × Nat) → Option (Nat × Nat)
  | [] => none
  | x :: rest => match leastFault rest with
    | none => some x
    | some y => if y.1 < x.1 ∨ (y.1 = x.1 ∧ y.2 < x.2) then some y else some x

/-- The fault of a presented bundle, if any: its encoding, a conflict of destinations, then its operands (R140). -/
def bundleFault (p : Nat) (b : Bundle) (s : State) : Option (Nat × Nat) :=
  match b.illegal with
  | some k => some (0x01, k)
  | none =>
    match b.conflict (matBanks b.mat (s.matDesc p b.mat)) with
    | some k => some (0x02, k)
    | none => leastFault (slotFaults p (b.live p s) s)

/-- What holds a bundle beside its control slot's own wait: a full engine queue, or the move slot. -/
def otherHold (p : Nat) (b : Bundle) (s : State) : Nat :=
  if b.mat ≠ .nop ∧ 4 ≤ (s.tile p).queue.length then 6 else movWait p b.mov s

/-- A bundle is held with a WAIT code; BUNDLE_ISSUE presents it again. -/
def holdBundle (p w : Nat) (b : Bundle) (s : State) : State :=
  put (Reg.TILE_STATUS p) F.TILE_STATUS_WAIT w (setTile p { s.tile p with held := some b } s)

/-- The physical tiles of the partition of context `c`. -/
def State.ctxTiles (s : State) (c : Nat) : List Nat := (s.partTiles (s.ctxPart c)).map s.phys

/-- Whether every tile of a context is HALTED, those counted that have been saved under the same preemption (R483). -/
def State.allHalted (s : State) (c : Nat) : Bool :=
  !(s.ctxTiles c).isEmpty && (s.ctxTiles c).all fun p =>
    if s.tileCtx p = some c then s.tileSt p == TileSt.HALTED else (s.tile p).halted

/-- A tile restarts at BASE of its TILE_PROG (R487). -/
def restartTile (p : Nat) (s : State) : State :=
  setTileSt p TileSt.RUNNING (setNext p (s.fld (Reg.TILE_PROG p) F.TILE_PROG_BASE) s)

/-- The last tile of a context has halted (R484, R487): a pending wake restarts it, and otherwise it is switched out at once, its images
holding the scalar, address and predicate registers and TM_SAVE x 64 KiB. Where some of its tiles have been saved already, a pending
wake restarts all of them at the next placement (DEDUCED, log 72). -/
def contextHalted (c : Nat) (s : State) : State :=
  let st := Reg.CTX_STATUS c
  let q := s.ctxPart c
  let tm := s.fld (Reg.PRT_CTRL q) F.PRT_CTRL_TM_SAVE
  let tiles := s.tilesOf c
  if s.on st F.CTX_STATUS_DB_PENDING then
    let s := put st F.CTX_STATUS_DB_PENDING 0 s
    if tiles = s.ctxTiles c then forEach tiles restartTile s
    else forEach tiles (fun p s => requestSave p c 7 tm s) (setCtx c { s.ctx c with restart := true } s)
  else
    let s := showSchedulable c (put st F.CTX_STATUS_HALTED 1 s)
    forEach tiles (fun p s => requestSave p c 7 tm s) (endSlice q s)

/-- What follows the issue of a bundle (R110, R133, R134, R555): HALT, a YIELD under a pending preemption, the stop of a step, or the
next fetch, which may find its address outside the program window. -/
def afterIssue (p : Nat) (i : Ctl) (s : State) : State :=
  let c := s.runCtx p
  let t := s.tile p
  match i with
  | .halt =>
    let s := setTileSt p TileSt.HALTED (setTile p { t with stepping := false } s)
    if s.allHalted c then contextHalted c s else s
  | .yield live =>
    if t.preempt then
      requestSave p c live.toNat (s.fld (Reg.PRT_CTRL (s.ctxPart c)) F.PRT_CTRL_TM_SAVE) (setTile p { t with stepping := false } s)
    else when t.stepping (fun s => setTileSt p TileSt.STOPPED (setTile p { s.tile p with stepping := false } s)) s
  | _ => when t.stepping (fun s => setTileSt p TileSt.STOPPED (setTile p { s.tile p with stepping := false } s)) s

/-- A bundle issues: every slot reads the state `s0` before it (R106), and the slots' effects apply together. -/
def issueBundle (p : Nat) (b : Bundle) (timed : Bool) (s0 : State) : State :=
  let pc := s0.tpc p
  let s := ctlEffect p b.ctl timed s0 s0
  let s := matEffect p b.mat pc s0 s
  let s := vecEffect p b.vec pc s0 s
  let s := movEffect p b.mov s0 s
  let s := advancePc p b.ctl pc s0 s
  let s := setTile p { s.tile p with held := none, begun := none } s
  let s := bump (Reg.TILE_BUSY p) (put (Reg.TILE_STATUS p) F.TILE_STATUS_WAIT 0 s)
  afterIssue p b.ctl s

/-- The look-ups that a presented bundle makes and that can meet two matches (R7, R236, R292). -/
def noteLookups (p : Nat) (x : Bundle) (s : State) : State :=
  let c := s.runCtx p
  let sr (a : Fin 32) : Nat := s.sreg p a.val
  let t := match x.ctl with
    | .cwait _ a _ _ => noteStagePorts c (sr a % 64) s
    | _ => s
  match x.mov with
  | .sqpost d _ => noteQueues c (sr d % 64) t
  | .sqtest _ a => noteQueues c (sr a % 64) t
  | .sget _ a => noteStagePorts c (sr a % 64) t
  | .sput d _ _ => noteStagePorts c (sr d % 64) t
  | _ => t

/-- The layer entry that an LDONE looks up lies outside HBM (R54): its look-up posts ADDRESS_FAULT beside the fault of the bundle. -/
def ldoneFault (p : Nat) (i : Ctl) (s : State) (t : State) : State :=
  match i with
  | .ldone a _ =>
    let l := s.sreg p a.val
    when (decide (l < s.fld Reg.RED_LT F.RED_LT_COUNT ∧ hbmEnd < s.layerAddr l + 64)) (addressFault (s.runCtx p) (s.layerAddr l)) t
  | _ => t

/-- A bundle presented at tile `p` (R140): a fault is taken; a hold keeps it; else it issues. `expire` says that the timeout of its wait
has come (R122); a timeout of zero cycles comes at once. -/
def presentBundle (p : Nat) (b : Bundle) (expire : Bool) (s : State) : State :=
  let x := b.live p s
  let s := when (b.illegal.isNone) (noteLookups p x) s
  match bundleFault p b s with
  | some (code, slot) => ldoneFault p x.ctl s (tileFault p code slot (s.tpc p) false s)
  | none =>
    let w := otherHold p x s
    if w ≠ 0 then holdBundle p w b s
    else
      let s := beginCtl p x.ctl s
      let w := ctlWait p x.ctl s
      let t := ctlTimeout x.ctl
      if w = 0 then issueBundle p x false s
      else if t ≠ 0 ∧ (expire ∨ s.sreg p t = 0) then issueBundle p x true s
      else holdBundle p w b s

/-- Whether tile `p` may be presented a bundle: it runs, nothing has stopped the device, and no save of it waits. -/
def State.mayPresent (s : State) (p : Nat) : Bool :=
  s.tileSt p == TileSt.RUNNING && !s.fatal && (s.tile p).saving.isNone

/-- The address of the next bundle. -/
def State.nextPc (s : State) (p : Nat) : Nat := ((s.tile p).wild).getD (s.tpc p)

/-- The fault of the next fetch, if any: outside the program window (R110), or poisoned (R139). -/
def State.fetchFault (s : State) (p : Nat) : Option Nat :=
  let pc := s.nextPc p
  let r := Reg.TILE_PROG p
  if (s.tile p).wild.isSome ∨ pc < s.fld r F.TILE_PROG_BASE ∨ s.fld r F.TILE_PROG_LIMIT ≤ pc then some 0x05
  else if s.tmPoison (s.logical p) pc 32 then some 0x0A
  else none

/-- The bundle that a tile fetches (R103, R110, R139), or the code and slot of the fault: a fault of the fetch is reported in slot 0, and an
encoding that no instruction has is an illegal bundle. -/
def fetchBundle (p : Nat) (s : State) : Except (Nat × Nat) Bundle :=
  match s.fetchFault p with
  | some code => .error (code, 0)
  | none => match decodeBundle (s.tmBytes (s.logical p) (s.nextPc p) 32) with
    | .ok b => .ok b
    | .error k => .error (0x01, k)

/-- BUNDLE_ISSUE's effect: the held bundle, or the next one fetched, is presented. -/
def presentNext (p : Nat) (s : State) : State :=
  match (s.tile p).held with
  | some b => presentBundle p b false s
  | none =>
    match fetchBundle p s with
    | .ok b => presentBundle p b false s
    | .error (code, slot) => tileFault p code slot (s.nextPc p) false s

/-- A bundle of one slot, the others NOP: what a command that names one instruction presents. -/
def oneSlot (g : Guard) (c : Ctl) (m : Mat) (v : Vec) (x : Mov) : Bundle := ⟨g, c, g, m, g, v, g, x⟩

/-- A command that names one instruction: a running tile that holds no other bundle is presented a bundle of that one slot, which stands
for the one that it would fetch at its PC, so that the fetch faults as any other (R110, R139); else there is no such event (log 6). -/
def presentSlot (p : Nat) (b : Bundle) (s : State) : State :=
  if !s.mayPresent p then s
  else match (s.tile p).held with
    | some h => if h = b then presentBundle p b false s else s
    | none => match s.fetchFault p with
      | some code => tileFault p code 0 (s.nextPc p) false s
      | none => presentBundle p b false s

/-- A control-slot instruction presented. -/
def presentCtl (p : Nat) (g : Guard) (i : Ctl) (s : State) : State := presentSlot p (oneSlot g i .nop .nop .nop) s
/-- A matrix-slot instruction presented. -/
def presentMat (p : Nat) (g : Guard) (i : Mat) (s : State) : State := presentSlot p (oneSlot g .nop i .nop .nop) s
/-- A vector-slot instruction presented. -/
def presentVec (p : Nat) (g : Guard) (i : Vec) (s : State) : State := presentSlot p (oneSlot g .nop .nop i .nop) s
/-- A move-slot instruction presented. -/
def presentMov (p : Nat) (g : Guard) (i : Mov) (s : State) : State := presentSlot p (oneSlot g .nop .nop .nop i) s

end Sys2Proof.Machine
end

