-- ==== Sys2Proof/Machine/Queue.lean ====
section
/-! DEFINITION. Command queues (chapter 17): their pointers (R502, R503), completion entries (R505), and what flush, reset and quarantine
make of queued commands (R507 to R509). -/
namespace Sys2Proof.Machine

/-- What the host interface remembers of the queue of context `c`. -/
def State.hostQ (s : State) (c : Nat) : HostQueue := Store.lookup (fun _ => HostQueue.init) s.hostQs c
def setHostQ (c : Nat) (x : HostQueue) (s : State) : State :=
  { s with hostQs := Store.update (fun _ => HostQueue.init) s.hostQs c x }

/-- Entries of each ring. -/
def State.qSize (s : State) (c : Nat) : Nat := 2 ^ s.fld (Reg.Q_CFG c) F.Q_CFG_SIZE_LOG
/-- The commands that are posted and not fetched. -/
def State.qWaiting (s : State) (c : Nat) : Nat :=
  (s.fld (Reg.DB_SQ_TAIL c) F.DB_SQ_TAIL_TAIL + s.qSize c - s.fld (Reg.Q_STATUS c) F.Q_STATUS_SQ_HEAD) % s.qSize c
/-- The completion entries that the driver has not freed. -/
def State.cqHeld (s : State) (c : Nat) : Nat :=
  (s.fld (Reg.Q_STATUS c) F.Q_STATUS_CQ_TAIL + s.qSize c - s.fld (Reg.DB_CQ_HEAD c) F.DB_CQ_HEAD_HEAD % s.qSize c) % s.qSize c
/-- Whether the completion ring has room for `n` more entries: one place of a ring stays empty. -/
def State.cqRoom (s : State) (c n : Nat) : Bool := decide (s.cqHeld c + n < s.qSize c)

/-- A firmware hand-over holds every queue (R512). -/
def State.handover (s : State) : Bool := s.fld Reg.MGT_CMD_STATUS F.MGT_CMD_STATUS_FW_STATE == 3

/-- Whether the queue of context `c` must be HELD: by a quarantine, the fatal stop or a hand-over. -/
def State.mustHold (s : State) (c : Nat) : Bool := s.ctxState c == CtxState.QUARANTINED || s.fatal || s.handover

/-- The queue runs, or is HELD where something holds it. -/
def runQueue (c : Nat) (s : State) : State := setQState c (if s.mustHold c then QState.HELD else QState.RUNNING) s

/-- The 16 bytes of a completion entry (R505). -/
def completionEntry (op : HostOp) (code phase : Nat) : List Byte :=
  bytesOf 2 op.cid ++ bytesOf 1 code ++ bytesOf 1 phase ++ bytesOf 2 op.head ++ bytesOf 2 0 ++ bytesOf 8 op.bytes

/-- A completion entry written at CQ_TAIL, with its interrupt, of which one is outstanding at a time (R505). -/
def writeCompletion (c : Nat) (op : HostOp) (s : State) : State :=
  let code := op.code.getD Code.DONE
  let st := Reg.Q_STATUS c
  let tail := s.fld st F.Q_STATUS_CQ_TAIL
  let phase := s.fld st F.Q_STATUS_PHASE
  let host := Reg.CTX_HOST c
  let s := emit (.hostWrite (s.fld host F.CTX_HOST_PASID) (s.fld (Reg.Q_CQ_BASE c) F.Q_CQ_BASE_BASE * 4096 + 16 * tail)
    (completionEntry op code phase)) s
  let next := (tail + 1) % s.qSize c
  let s := put st F.Q_STATUS_CQ_TAIL next (put st F.Q_STATUS_LAST_CODE code s)
  let s := when (next == 0) (put st F.Q_STATUS_PHASE (1 - phase)) s
  let s := bump Reg.HIF_CMDS s
  if op.irq && s.on (Reg.Q_CFG c) F.Q_CFG_IRQ_EN && !(s.hostQ c).irqOut then
    sendMsix (s.fld host F.CTX_HOST_FUNC) (s.fld (Reg.Q_CFG c) F.Q_CFG_VECTOR) (setHostQ c { s.hostQ c with irqOut := true } s)
  else s

/-- A command that stands in host memory is disposed of without being issued: its CID and IRQ flag are free values. -/
def disposeOne (c code : Nat) (s : State) : State :=
  let (n, s) := drawFree s
  let st := Reg.Q_STATUS c
  let head := (s.fld st F.Q_STATUS_SQ_HEAD + 1) % s.qSize c
  let op : HostOp := ⟨(Config.hostCid n).toNat, 0, Config.hostIrq n, head, some code, 0, 0, 0, 0⟩
  let x := s.hostQ c
  put st F.Q_STATUS_SQ_HEAD head (setHostQ c { x with ops := x.ops ++ [op] } s)

/-- Every unissued command disposed of with a code (R507). -/
def disposeAll (c code : Nat) (s : State) : State := forEach (List.range (s.qWaiting c)) (fun _ => disposeOne c code) s

/-- A flush ends once nothing of it is left (R507, R509). -/
def flushEnd (c : Nat) (s : State) : State :=
  if s.qState c = QState.FLUSHING ∧ (s.hostQ c).ops = [] then runQueue c s else s

/-- A FLUSH (R507, R509): the commands posted so far complete with FLUSHED after those in progress; a HELD queue stays HELD; nothing
happens while FLUSHING, while DISABLED, or during a reset of the context. -/
def flushQueue (c : Nat) (s : State) : State :=
  if s.ctxState c = CtxState.RESETTING then s
  else if s.qState c = QState.RUNNING then flushEnd c (setQState c QState.FLUSHING (disposeAll c Code.FLUSHED s))
  else if s.qState c = QState.HELD then disposeAll c Code.FLUSHED s
  else s

/-- The end of a context reset (R507, R508): every command completes with ABORTED, in order, and the queue runs with SQ_HEAD at TAIL. -/
def abortQueue (c : Nat) (s : State) : State :=
  if s.qState c = QState.DISABLED then s
  else
    let s := disposeAll c Code.ABORTED s
    let ops := (s.hostQ c).ops
    let s := forEach ops (fun op s => writeCompletion c { op with code := some Code.ABORTED } s) s
    runQueue c (setHostQ c { s.hostQ c with ops := [] } s)

/-- A function-level or device reset: the queue is DISABLED and writes no completion (R507). The registers of its page return to their
reset values. -/
def dropQueue (c : Nat) (s : State) : State :=
  setHostQ c HostQueue.init { s with regs := s.regs.filter fun e => !(Reg.DB_SQ_TAIL c ≤ e.1 && e.1 < Reg.DB_SQ_TAIL (c + 1)) }

/-- The queue of a context is enabled (R503). -/
def enableQueue (c : Nat) (s : State) : State :=
  let st := Reg.Q_STATUS c
  let s := put (Reg.DB_CQ_HEAD c) F.DB_CQ_HEAD_HEAD 0 (put (Reg.DB_SQ_TAIL c) F.DB_SQ_TAIL_TAIL 0 s)
  let s := put st F.Q_STATUS_PHASE 1 (put st F.Q_STATUS_CQ_TAIL 0 (put st F.Q_STATUS_SQ_HEAD 0 s))
  runQueue c (setHostQ c HostQueue.init s)

/-- A write to Q_SQ_BASE, Q_CQ_BASE or Q_CFG (R503): the bases, SIZE_LOG and VECTOR change only while EN is 0. -/
def queueConfig (c off : Nat) (v : Word) (s : State) : State :=
  let cfg := Reg.Q_CFG c
  let en := s.on cfg F.Q_CFG_EN
  if off = cfg then
    let same := v.get F.Q_CFG_SIZE_LOG == s.fld cfg F.Q_CFG_SIZE_LOG && v.get F.Q_CFG_VECTOR == s.fld cfg F.Q_CFG_VECTOR
    if en && !same then badWrite off s
    else
      let s := genericWrite off v s
      if !en && s.on cfg F.Q_CFG_EN then enableQueue c s
      else if en && !s.on cfg F.Q_CFG_EN then setQState c QState.DISABLED (setHostQ c HostQueue.init s)
      else s
  else writeIf (!en) off v s

/-- A write of DB_SQ_TAIL: a TAIL at or above 2^SIZE_LOG is reserved (R502). -/
def queueTail (c : Nat) (v : Word) (s : State) : State :=
  let off := Reg.DB_SQ_TAIL c
  writeIf (decide (v.get F.DB_SQ_TAIL_TAIL < s.qSize c)) off v s

/-- A write of DB_CQ_HEAD: entries are freed and the queue may interrupt again (R505). -/
def queueHead (c : Nat) (v : Word) (s : State) : State :=
  genericWrite (Reg.DB_CQ_HEAD c) v (setHostQ c { s.hostQ c with irqOut := false } s)

end Sys2Proof.Machine
end

