-- ==== Sys2Proof/Machine/Spare.lean ====
section
/-! DEFINITION. Spare tiles (chapter 14, R421 to R426): swaps of a logical tile onto a spare of its compute die. -/
namespace Sys2Proof.Machine

open Host (Outcome)

namespace PtSt
def FUSED_OFF : Nat := 0
def ACTIVE : Nat := 1
def SPARE : Nat := 2
def RETIRED : Nat := 3
end PtSt

/-- STATE of physical tile `p` in the floor's map. -/
def State.ptile (s : State) (p : Nat) : Nat := s.fld (Reg.FLR_PTILE p) F.FLR_PTILE_STATE
/-- The lowest SPARE tile of a compute die. -/
def State.spareOf (s : State) (die : Nat) : Option Nat :=
  ((List.range 40).map (40 * die + ·)).find? fun p => s.ptile p = PtSt.SPARE

/-- The count of a die's spares in SPR_DIE_SPARES follows the map. -/
def showSpares (die : Nat) (s : State) : State :=
  let n := (((List.range 40).map (40 * die + ·)).filter fun p => s.ptile p = PtSt.SPARE).length
  put Reg.SPR_DIE_SPARES ⟨8 * die + 7, 8 * die⟩ n s

/-- A physical tile leaves service. -/
def retireTile (p : Nat) (s : State) : State :=
  showSpares (p / 40) (put (Reg.FLR_PTILE p) F.FLR_PTILE_LOGICAL 0xFF (put (Reg.FLR_PTILE p) F.FLR_PTILE_STATE PtSt.RETIRED s))

/-- Whether an offset lies in the register space of physical tile `p`. -/
def inTile (p off : Nat) : Bool := Reg.TILE_CTRL p ≤ off && off < Reg.TILE_CTRL (p + 1)

/-- The registers of tile `p` but its statistics counters return to their reset values, its stacks and queue are empty, and its
accumulators are zero. -/
def clearTile (p : Nat) (s : State) : State :=
  setTile p TileState.init { s with
    regs := s.regs.filter fun e => !inTile p e.1 || isCounter e.1
    acc := s.acc.filter fun e => e.1 / 65536 ≠ p }

/-- Everything that the old tile holds goes to the spare (R422 phase C). Its memory is addressed by logical tile and needs no
copy; posts that have no answer yet belong to the spare from now on. -/
def moveTile (old new : Nat) (s0 : State) : State :=
  let s := clearTile new s0
  let s := forEach (s0.regs.filter fun e => inTile old e.1 && !isCounter e.1) (fun e =>
    setR (e.1 - Reg.TILE_CTRL old + Reg.TILE_CTRL new) e.2) s
  let s := setTile new (s0.tile old) s
  let s := { s with
    acc := (s0.acc.filter fun e => e.1 / 65536 = old).foldl
      (fun m e => Store.update (fun _ => (0 : BitVec 32)) m (e.1 - 65536 * old + 65536 * new) e.2) s.acc }
  { clearTile old s with
    opens := s.opens.map fun r => if r.purpose = .post old then { r with purpose := .post new } else r }

/-- The swap ends: SPR_LAST tells it, and `done` says whether a spare took over (R422, R425). -/
def swapEnd (x : Swap) (code : Nat) (done : Bool) (s : State) : State :=
  let last := ((((0 : Word).put F.SPR_LAST_TIME_US (min 0xFFFF (s.now - x.startUs))).put F.SPR_LAST_CODE code).put
    F.SPR_LAST_NEW_PHYS (s.phys x.ltile)).put F.SPR_LAST_OLD_PHYS x.old |>.put F.SPR_LAST_LTILE x.ltile
  let s := put Reg.SPR_STATUS F.SPR_STATUS_COMPLETION code (put Reg.SPR_STATUS F.SPR_STATUS_BUSY 0 s)
  let s := setR Reg.SPR_LAST last { s with swap := none }
  if done then postCorrected 0x0090 .spr (s.tileCtx (s.phys x.ltile)) none last.toNat (bump Reg.SPR_SWAPS s)
  else postCorrected 0x0091 .spr none none x.ltile (raise Reg.SPR_STATUS F.SPR_STATUS_NO_SPARE s)

/-- The deposits that have been held since the swap began reach the tile's memory (R423). -/
def deliver (x : Swap) (s : State) : State := forEach x.deposits (fun d => tmDeposit x.ltile d.2.1 d.2.2.1 d.2.2.2) s

/-- The map names the spare (R422 phase D). -/
def remap (x : Swap) (s : State) : State :=
  let m := Reg.FLR_TILE_MAP x.ltile
  let s := put m F.FLR_TILE_MAP_PHYS x.spare (put m F.FLR_TILE_MAP_SWAPS (s.fld m F.FLR_TILE_MAP_SWAPS + 1) s)
  let p := Reg.FLR_PTILE x.spare
  let s := { s with tmErrors := Store.update (fun _ => 0) s.tmErrors x.spare 0 }
  let s := put p F.FLR_PTILE_LOGICAL x.ltile (put p F.FLR_PTILE_STATE PtSt.ACTIVE s)
  retireTile x.old s

/-- Tile `p` leaves its context without a save, its matrix queue discarded, and becomes IDLE (R488 step 2). -/
def idleTile (p : Nat) (s : State) : State :=
  let s := put (Reg.TILE_CTX p) F.TILE_CTX_PRESENT 0 (put (Reg.TILE_STATUS p) F.TILE_STATUS_WAIT 0 (setTileSt p TileSt.IDLE s))
  put (Reg.MXE_STATUS p) F.MXE_STATUS_QUADS_BUSY 0 (put (Reg.MXE_STATUS p) F.MXE_STATUS_QUEUE 0 (setTile p TileState.init s))

/-- A MIGRATE swap completes (R422 phases C and D, R426): the tile returns to the STATE it held, unless it has changed since, a save that
was pending is carried out, and so is a reset of its context. -/
def migrate (x : Swap) (s : State) : State :=
  let st := if s.tileSt x.old = TileSt.STOPPED then x.was else s.tileSt x.old
  let s := setTileSt x.spare st (remap x (moveTile x.old x.spare s))
  let s := deliver x (swapEnd x Code.DONE true s)
  if x.reset then idleTile x.spare s
  else match (s.tile x.spare).saving, s.tileCtx x.spare with
    | some m, some c => requestSave x.spare c (m % 2048) (m / 2048) s
    | _, _ => s

/-- An ABANDON swap completes (R424): the spare's registers read as R100 gives, its memory is poisoned, and it is FAULTED. -/
def abandonTile (x : Swap) (s : State) : State :=
  let ctx := s.reg (Reg.TILE_CTX x.old)
  let s := setR (Reg.TILE_CTX x.spare) ctx (clearTile x.spare s)
  let s := tmMark x.ltile 0 tileBytes (remap x (clearTile x.old s))
  let s := raise Reg.SPR_STATUS F.SPR_STATUS_ABANDONED (deliver x (swapEnd x Code.TIMEOUT true s))
  if x.reset then idleTile x.spare s else tileFault x.spare 0x0A 0 (s.fld (Reg.TILE_PC x.spare) F.TILE_PC_PC) false s

/-- The next spare of the die goes under test; with none left the swap is refused, and the tile returns to its STATE (R425). -/
def nextSpare (x : Swap) (s : State) : State :=
  match s.spareOf (x.old / 40) with
  | some p => { s with swap := some { x with spare := p } }
  | none =>
    let s := if s.tileSt x.old = TileSt.STOPPED then setTileSt x.old x.was s else s
    let s := deliver x (swapEnd x Code.REFUSED false s)
    when x.reset (idleTile x.old) s

/-- A swap of logical tile `lt` begins (R421). -/
def beginSwap (lt : Nat) (abandon : Bool) (s : State) : State :=
  let p := s.phys lt
  let x : Swap := ⟨lt, p, s.tileSt p, 0, false, false, abandon, false, s.now, []⟩
  nextSpare x (stopTile p (raise Reg.SPR_STATUS F.SPR_STATUS_BUSY s))

/-- The automatic swaps that wait begin once none runs (R427). One of a tile that is no longer ACTIVE has nothing left to do. Each begins
or is dropped, so as many rounds as there are requests suffice. -/
def nextAuto : Nat → State → State
  | 0, s => s
  | n + 1, s =>
    if s.on Reg.SPR_STATUS F.SPR_STATUS_BUSY then s
    else match s.swapWaits with
      | [] => s
      | p :: rest =>
        let s := { s with swapWaits := rest }
        nextAuto n (when (s.ptile p = PtSt.ACTIVE) (beginSwap (s.logical p) false) s)

/-- What waits for the end of a swap follows it (R427). -/
def afterSwap (s : State) : State := nextAuto s.swapWaits.length s

/-- A SWAP command (R421): ignored with BAD_WRITE while one runs or beyond tile 143. -/
def startSwap (lt : Nat) (abandon : Bool) (s : State) : State :=
  if s.on Reg.SPR_STATUS F.SPR_STATUS_BUSY ∨ 143 < lt then badWrite Reg.SPR_CMD s else afterSwap (beginSwap lt abandon s)

/-- An uncorrectable error in a 32-byte unit of the memory of physical tile `p` (R139, R427): the unit is marked poisoned and the error
counted; with AUTO, the THRESH-th since the tile became ACTIVE starts a MIGRATE swap. -/
def tmError (p unit : Nat) (s : State) : State :=
  let n := Store.lookup (fun _ => 0) s.tmErrors p + 1
  let s := { s with tmErrors := Store.update (fun _ => 0) s.tmErrors p n }
  let s := bump Reg.SPR_TM_UE (setPoison (tileAddr (s.logical p) (32 * unit)) true s)
  if s.on Reg.SPR_CTRL F.SPR_CTRL_AUTO ∧ n = s.fld Reg.SPR_CTRL F.SPR_CTRL_THRESH then
    afterSwap { s with swapWaits := s.swapWaits ++ [p] }
  else s

/-- The uncorrectable errors that reads of the memory of physical tile `p` meet, by 32-byte unit; a tile that backs no logical tile has no
reads. -/
def tmErrorsAt (p : Nat) (units : List (BitVec 17)) (s : State) : State :=
  when (decide (s.logical p < 144)) (forEach units (fun u => tmError p u.toNat)) s

/-- SWAP_MIGRATE (R421, R422). -/
def execSwapMigrate (lt : BitVec 8) (s : State) : Outcome State Fault Refusal := .next (startSwap lt.toNat false s)

/-- SWAP_ABANDON (R421, R424). -/
def execSwapAbandon (lt : BitVec 8) (s : State) : Outcome State Fault Refusal := .next (startSwap lt.toNat true s)

/-- The self-test of a spare ends (R422, R425): a spare that fails is retired and the next one is tried; a spare that passes ends phase A,
and an ABANDON swap with it. With no swap under test nothing happens (log 6). -/
def selfTested (ok : Bool) (s : State) : State :=
  match s.swap with
  | none => s
  | some x =>
    if x.tested then s
    else if !ok then nextSpare x (retireTile x.spare s)
    else if x.abandon then abandonTile { x with tested := true } s
    else { s with swap := some { x with tested := true } }

/-- SWAP_STOP_DONE (R422 phase B): the old tile has stopped and its matrix queue has drained. Until it has, there is no such
event (log 6). -/
def execSwapStopDone (s : State) : Outcome State Fault Refusal :=
  match s.swap with
  | none => .next s
  | some x => .next (if (s.tile x.old).queue = [] then { s with swap := some { x with stopped := true } } else s)

/-- Phase B has not finished within 3 ms, and the swap goes on as ABANDON (R424). -/
def stopLate (s : State) : State :=
  match s.swap with
  | none => s
  | some x =>
    if x.stopped then s
    else
      let x : Swap := { x with abandon := true }
      if x.tested then abandonTile x s else { s with swap := some x }

/-- The copy is complete and the swap ends, with the units that it could not read marked poisoned (R423), or the old tile cannot be read
and the swap ends as ABANDON (R422, R424). Before phases A and B are over there is no such event (log 6). -/
def copied (readable : Bool) (units : List (BitVec 17)) (s : State) : State :=
  match s.swap with
  | none => s
  | some x =>
    if !(x.tested && x.stopped) then s
    else if readable then migrate x (tmErrorsAt x.old units s)
    else abandonTile { x with abandon := true } s

end Sys2Proof.Machine
end

