-- ==== Sys2Proof/Machine/Answers.lean ====
section
/-! DEFINITION. The answers to this device's fabric requests (R271): COMPLETION, READ_RESP, group reports (R282) and timeouts, handed
to the unit that made the request; and the events of a port that can end requests on the way (R278 to R280, R556). -/
namespace Sys2Proof.Machine

open Host (Outcome)

/-- Whether a request of this purpose names memory of the destination, so that check 4 of R270 is about its ADDR. -/
def Purpose.memory : Purpose → Bool
  | .transferWrite _ _ => true
  | .transferRead _ _ _ => true
  | .blockList _ => true
  | .mirror _ => true
  | .restore => true
  | .check _ => true
  | _ => false

/-- The class of a request of this purpose (R266), which its COMPLETION must have as well. -/
def Purpose.cls : Purpose → Nat
  | .post _ => Cls.CONTROL
  | .query _ => Cls.CONTROL
  | .stage _ => Cls.STAGE
  | .reduce _ _ => Cls.REDUCE
  | _ => Cls.DATA

/-- The answer of an open request goes to the unit that waits for it. `seq` is the ADDR of a LINK_QUERY's answer. -/
def handAnswer (r : OpenReq) (code nack seq : Nat) (data : List Byte) (poison : Bool) (s : State) : State :=
  let marked := if poison && code == Code.DONE then Code.POISONED else code
  match r.purpose with
  | .transferWrite q id => xferAnswer q id r.tag code s
  | .transferRead q id off => if code = Code.DONE then xferData q id off r.tag data poison s else xferAnswer q id r.tag code s
  | .blockList q => setRun q (fun x => { x with fetched := some (data, poison, code), fetching := none }) s
  | .post p => finishPost p r.tag code nack s
  | .stage port => headAnswer port code s
  | .query port => if code = Code.DONE then settleUpTo port (seq % 65536) (seq / 65536 % 65536) s else giveUpSettle port s
  | .mirror n => mirrorAnswer n marked data s
  | .reduce l n => reduceAnswer l n r.tag code s
  | .restore => restoreAnswer marked data s
  | .check set => chkAnswer set code data poison s

/-- An open request ends: it is closed, the ADDRESS_FAULT of R270's fourth check is posted where its ADDR leads nowhere, and its unit
gets the answer. -/
def endRequest (r : OpenReq) (code nack seq : Nat) (data : List Byte) (poison : Bool) (s : State) : State :=
  let s := closeReq r.tag s
  let bad := r.purpose.memory && code == Code.REFUSED && decide (localTarget r.addr r.bytes = .bad)
  let s := when bad (addressFault r.ctx (2 ^ 61 + r.dest * 2 ^ 48 + r.addr)) s
  handAnswer r code nack seq data poison s

/-- The requests that a resend could not route end with REFUSED (R277, R279). Giving up a LINK_QUERY among them resends what its port
held, which can leave further requests without a route; they are the next round's. -/
def finishRounds : Nat → State → State
  | 0, s => { s with dropped := [] }
  | n + 1, s => finishRounds n (forEach s.dropped (fun e s => match s.openOf e.1 with
    | some r => endRequest r e.2 0 0 [] false s
    | none => s) { s with dropped := [] })

/-- Every request that a resend could not route has ended. A round that leaves new ones has closed a LINK_QUERY, and none is opened here,
so one round more than there are open LINK_QUERY requests is enough. -/
def finishDropped (s : State) : State :=
  finishRounds ((s.opens.filter fun r => match r.purpose with
    | .query _ => true
    | _ => false).length + 1) s

/-- An answer without an open request is discarded and counted (R271). -/
def lateAnswer (s : State) : State := bump Reg.FAB_LATE s

/-- The request that an answer ends, if it is open: one that R269 turns away ends it with REFUSED (R24). -/
def answered (pk : Packet) (finish : OpenReq → State → State) (s : State) : State :=
  match s.openOf pk.tag.toNat with
  | some r => finishDropped (finish r s)
  | none => lateAnswer s

/-- An answer with reserved contents ends its request with REFUSED (R24). -/
def refuseAnswer (pk : Packet) (s : State) : State :=
  match s.openOf pk.tag.toNat with
  | some r => finishDropped (endRequest r Code.REFUSED 0 0 [] false s)
  | none => s

/-- READ_RESP (R269, R271): the data, with the code that the packet carries (R265). -/
def execReadResp (p : Fin 32) (pk : Packet) (s : State) : Outcome State Fault Refusal :=
  .next (receive p.val pk Op.READ_RESP (refuseAnswer pk)
    (answered pk fun r => endRequest r pk.code.toNat 0 0 pk.payload pk.poison) s)

/-- COMPLETION (R269, R271); one of another class than its request is a reserved one (R266). -/
def execCompletion (p : Fin 32) (pk : Packet) (s : State) : Outcome State Fault Refusal :=
  .next (receive p.val pk Op.COMPLETION (refuseAnswer pk)
    (answered pk fun r s =>
      if r.purpose.cls = pk.cls.toNat then endRequest r pk.code.toNat pk.nack.toNat pk.addr.toNat [] false s
      else endRequest r Code.REFUSED 0 0 [] false (packetReserved pk s)) s)

/-- Whether a report up the tree that came on port `p` is one that a multicast packet waits for. -/
def McastState.reports (m : McastState) (p : Nat) (pk : Packet) : Bool :=
  m.group == pk.group.toNat && m.tag == pk.tag.toNat && m.waits.contains p && m.ctx == pk.ctx.toNat &&
    (m.root || m.src == pk.dest.toNat)

/-- MCAST_ACK (R282): the port's report is in; with the last one and the local write, the transfer completes at the root or the report goes
up the tree. One with reserved contents reports REFUSED (R24). -/
def execMcastAck (p : Fin 32) (pk : Packet) (s : State) : Outcome State Fault Refusal :=
  let (s, ok) := arrive p.val pk s
  let good := packetOk pk && pk.op.toNat == Op.MCAST_ACK
  if !ok then .next s
  else
    let s := when (!good) (packetReserved pk) s
    match s.mcasts.find? (·.reports p.val pk) with
    | none => .next (settle (when good lateAnswer s))
    | some m =>
      let code := Code.worse m.code (if good then pk.code.toNat else Code.REFUSED)
      .next (settle (finishDropped
        (mcastNote { m with waits := m.waits.erase p.val, code := code } { s with mcasts := s.mcasts.erase m })))

/-- E2E_TIMEOUT (R271, R556): the request ends with TIMEOUT and is counted. A message post keeps its own bound, and a LINK_QUERY is
given up without a count. -/
def execE2eTimeout (tag : BitVec 16) (s : State) : Outcome State Fault Refusal :=
  match s.openOf tag.toNat with
  | none => .next s
  | some r =>
    let counted := match r.purpose with | .query _ => false | _ => true
    match r.purpose with
    | .post _ => .next s
    | _ =>
      let s := when counted (bump Reg.FAB_E2E_TIMEOUTS) s
      let s := { s with mcasts := s.mcasts.filter fun m => !(m.root && m.tag == r.tag) }
      .next (settle (finishDropped (endRequest r Code.TIMEOUT 0 0 [] false s)))

/-- NAK (R278, R279). A frame whose CRC fails is discarded. -/
def execNak (p : Fin 32) (ok ctl : Bool) (seq : BitVec 16) (s : State) : Outcome State Fault Refusal :=
  if !ok then .next (bump (Reg.FAB_P_CRC_ERRORS p.val) s)
  else .next (settle (finishDropped (nakAt p.val ctl seq.toNat s)))

/-- RING_UNLOCK (R280, R264). -/
def execRingUnlock (p : Fin 32) (w : Fin 9) (s : State) : Outcome State Fault Refusal :=
  .next (settle (finishDropped (unlockRing p.val w.val s)))

/-- PORT_ENABLE_WRITE (R264, R279). -/
def execPortEnableWrite (p : Fin 32) (v : Word) (s : State) : Outcome State Fault Refusal :=
  .next (settle (finishDropped (portCtrl p.val v s)))

end Sys2Proof.Machine
end

