-- ==== Sys2Proof/Machine/Waiting.lean ====
section
/-! DEFINITION. Operations that end once the accesses that they wait for are served (R50, R235, R376, R423): what each does then, and the
commands that end a wait: the clear of a pair, the copies of the pan engine, and the end of a tile swap. -/
namespace Sys2Proof.Machine

open Host (Outcome)

/-- An answer that has waited goes to the reader, unless the context's epoch has changed or this device has become stale (R270). -/
def lateRead (resp : Packet) (s : State) : State :=
  match s.destCheck resp.ctx.toNat resp.epoch.toNat with
  | none => (routeSend .answer resp s).1
  | some c =>
    (routeSend .answer
      { resp with op := BitVec.ofNat 4 Op.COMPLETION, code := BitVec.ofNat 8 c, len := 0, poison := false, payload := [] } s).1

/-- The local write of a multicast packet is complete: its report may go up (R282). -/
def mcastWritten (op code : Nat) (s : State) : State :=
  match s.mcasts.find? (·.op = some op) with
  | none => s
  | some m => mcastNote { m with op := none, code := Code.worse m.code code } { s with mcasts := s.mcasts.erase m }

/-- A device write of a host command is complete, with this code (R505). -/
def hostWritten (c cid code : Nat) (s : State) : State :=
  if code = Code.DONE then s
  else
    let x := s.hostQ c
    setHostQ c { x with ops := x.ops.map fun o =>
      if o.cid = cid then { o with code := some (Code.worse (o.code.getD Code.DONE) code), bytes := 0 } else o } s

/-- What an operation does once it no longer waits. -/
def endWaiting (w : WaitingOp) (s : State) : State :=
  match w.what with
  | .write pk => complete pk w.code 0 0 s
  | .read resp => lateRead resp s
  | .mcast op => mcastWritten op w.code s
  | .transfer q id => finishXfer q id (updXfer q id (fun t => { t with holding := false, code := Code.worse t.code w.code }) s)
  | .cacheRead line hint => if s.memRefuses then s else (readLine line hint s).1
  | .result l n => resultDone l n w.op w.code s
  | .run n post => endRun n post w.code s
  | .host c cid => hostWritten c cid w.code s
  | .entry p src tag epoch => endEntry p src tag epoch w.code s

/-- Every operation that waits no longer ends, in the order in which they began; requests without a route end with them, and reductions
go on. -/
def finishWaiting (s : State) : State :=
  let ready := s.path.waiting.filter fun w => !s.opWaits w
  let s := setPath (fun p => { p with waiting := p.waiting.filter fun w => !ready.contains w }) s
  advanceReductions (finishDropped (forEach ready endWaiting s))

/-- What follows when accesses that waited have been served: the operations end, and their ledger entries are posted. -/
def served (s : State) : State := settle (finishWaiting s)

/-- PAIR_CLEAR_DONE (R50): the first pair of the queue is clear, its waiting accesses proceed, and PIN_BUSY clears after
the last. A pair with a granule whose clear the sluice still holds is not yet clear; with no clear running nothing
happens (log 6). -/
def execPairClearDone (s : State) : Outcome State Fault Refusal :=
  match s.path.clearing with
  | [] => .next s
  | n :: rest =>
    if s.path.held.any fun w => w.kind = .clear ∧ w.addr / 0x80000000 = n then .next s
    else
      let s := releaseHeld (setPath (fun p => { p with clearing := rest }) s)
      .next (served (when (rest = []) (put Reg.FLR_STATUS F.FLR_STATUS_PIN_BUSY 0) s))

/-- GRANULE_COPY_DONE (R376, R377). -/
def execGranuleCopyDone (g : BitVec 23) (s : State) : Outcome State Fault Refusal := .next (served (granuleCopied g.toNat s))

/-- FILL_COMPLETE (R380). -/
def execFillComplete (n : Fin 4) (s : State) : Outcome State Fault Refusal := .next (served (fillCompleted n.val s))

/-- What follows a step of a tile swap: swaps that wait begin (R427), and what waited for the end of one goes on (R423, R426). -/
def swapServed (s : State) : State := served (takeCaptures (afterSwap s))

/-- SELF_TEST_DONE (R422, R425). -/
def execSelfTestDone (ok : Bool) (s : State) : Outcome State Fault Refusal := .next (swapServed (selfTested ok s))

/-- SWAP_STOP_TIMEOUT (R424): phase B has not finished within 3 ms. -/
def execSwapStopTimeout (s : State) : Outcome State Fault Refusal := .next (swapServed (stopLate s))

/-- SWAP_COPY_DONE (R422 phases C and D, R423, R424): `ue` names the units that the copy could not read. -/
def execSwapCopyDone (readable : Bool) (ue : List (BitVec 17)) (s : State) : Outcome State Fault Refusal :=
  .next (swapServed (copied readable ue s))

end Sys2Proof.Machine
end

