-- ==== Sys2Proof/Machine/Partition.lean ====
section
/-! DEFINITION. The partition and context manager (chapter 16): slices, credits and placement (R481 to R487), its commands and the reset
of a context (R476, R488 to R492), and the PRT and CTX registers (R478, R480, R495, R496). -/
namespace Sys2Proof.Machine

open Host (Outcome)

/-! ### Shares and credits (R485) -/

def State.credit (s : State) (c : Nat) : Int := signed 48 (s.fld (Reg.CTX_CREDIT c) F.CTX_CREDIT_CREDIT)
/-- CREDIT saturates at 2^47 - 1 either way. -/
def setCredit (c : Nat) (v : Int) (s : State) : State :=
  let lim : Int := 2 ^ 47 - 1
  put (Reg.CTX_CREDIT c) F.CTX_CREDIT_CREDIT ((max (-lim) (min lim v)) % 2 ^ 48).toNat s
def State.share (s : State) (c : Nat) : Nat := s.fld (Reg.CTX_SCHED c) F.CTX_SCHED_SHARE

/-- The schedulable contexts of a partition, in ascending order. -/
def State.candidates (s : State) (q : Nat) : List Nat :=
  (List.range 4096).filter fun c => s.schedulable c && s.ctxPart c == q

/-- The schedulable context with the highest CREDIT; of equal ones, the lowest ID. -/
def State.nextContext (s : State) (q : Nat) : Option Nat :=
  (s.candidates q).foldl
    (fun b c => match b with
      | none => some c
      | some x => if s.credit x < s.credit c then some c else some x) none

/-- Steps 1 to 3 of R485 at the end of a slice of context `c`: a context that is not schedulable neither gains nor loses. -/
def sliceCredits (q c : Nat) (s0 : State) : State :=
  let e := (s0.part q).ran
  let cs := s0.candidates q
  let sum := (cs.map s0.share).sum
  let s := forEach cs (fun x s => setCredit x (s.credit x + (e * s0.share x / sum : Nat)) s) s0
  let s := when (cs.contains c) (fun s => setCredit c (s.credit c - e) s) s
  setPart q { s.part q with ran := 0 } s

/-- The next context of a partition starts to be restored, if there is one (R483). -/
def startPlacing (q : Nat) (s : State) : State :=
  let n := s.nextContext q
  putB (Reg.PRT_PSTATUS q) F.PRT_PSTATUS_SWITCHING n.isSome (setPart q { s.part q with placing := n } s)

/-- The resident context has left its tiles: its slice is accounted, and the next one is chosen. -/
def leaveTiles (q c : Nat) (s : State) : State :=
  let s := sliceCredits q c s
  startPlacing q (put (Reg.CTX_STATUS c) F.CTX_STATUS_RESIDENT 0 (put (Reg.PRT_PSTATUS q) F.PRT_PSTATUS_RESIDENT 0 s))

/-- The resident context of a partition. -/
def State.residentOf (s : State) (q : Nat) : Option Nat :=
  if s.on (Reg.PRT_PSTATUS q) F.PRT_PSTATUS_RESIDENT then some (s.fld (Reg.PRT_PSTATUS q) F.PRT_PSTATUS_CONTEXT) else none
def State.switching (s : State) (q : Nat) : Bool := s.on (Reg.PRT_PSTATUS q) F.PRT_PSTATUS_SWITCHING

/-- Preemption becomes pending on each tile of the resident context (R483). -/
def preempt (q c : Nat) (s : State) : State :=
  forEach (s.tilesOf c) (fun p s => setTile p { s.tile p with preempt := true } s) (endSlice q s)

/-- A context that is not resident, or is being switched out, has become schedulable (R483, R486): where its partition is free it is
restored at once; a latency target can end the slice of the resident context. -/
def becomeSchedulable (c : Nat) (s : State) : State :=
  let q := s.ctxPart c
  if !s.schedulable c || (s.resident c && !s.switching q) then s
  else
    let s := setCtx c { s.ctx c with wokenUs := some s.now } s
    if s.resident c then s
    else match s.residentOf q with
    | none => if (s.part q).placing.isSome then s else startPlacing q s
    | some r =>
      if s.fld (Reg.CTX_SCHED c) F.CTX_SCHED_LAT_US ≠ 0 ∧ 0 ≤ s.credit c ∧ (s.part q).sinceUs + 100 ≤ s.now ∧ !s.switching q then
        preempt q r s
      else s

/-- A wake doorbell (R487): an ACTIVE context whose tiles have all halted restarts at its next placement; otherwise one wake is kept. -/
def wakeContext (c : Nat) (s : State) : State :=
  let st := Reg.CTX_STATUS c
  if s.ctxState c ≠ CtxState.ACTIVE then s
  else if s.on st F.CTX_STATUS_HALTED then
    let s := setCtx c { s.ctx c with restart := true } (put st F.CTX_STATUS_HALTED 0 s)
    becomeSchedulable c (showSchedulable c s)
  else raise st F.CTX_STATUS_DB_PENDING s

/-! ### Placement (R481, R482) -/

/-- Lines of a save image; what a poisoned line holds is free. -/
def imageBytes (a n : Nat) (s : State) : State × List Byte :=
  (linesOf a n).foldl
    (fun (s, data) la =>
      let (s, d, p) := readLine la 0 s
      if p then
        let (k, s) := drawFree s
        (s, data ++ (List.range 64).map (Config.poisonByte k))
      else (s, data ++ d)) (s, ([] : List Byte))

/-- The memory of logical tile `l` written as zero. -/
def clearTm (l : Nat) (s : State) : State :=
  let inside (a : Nat) : Bool := tileAddr l 0 ≤ a && a < tileAddr l tileBytes
  { s with
    mem := s.mem.filter fun e => !inside e.1
    poison := s.poison.filter fun u => !inside u }

/-- `n` lines of an image read into the memory of logical tile `l`: a poisoned line marks both its units. -/
def restoreTm (l base n : Nat) (s : State) : State :=
  forEach (List.range n) (fun i s =>
    let (s, d, p) := readLine (base + 64 * i) 0 s
    if p then tmMark l (64 * i) 64 s else setRaw (tileAddr l (64 * i)) d s) s

/-- Whether an offset into a tile's space is an architectural register, the program window or the NACK log. -/
def archOff (o : Nat) : Bool :=
  o == 0x10 || o == 0x18 || (0x30 ≤ o && o ≤ 0x40) || (0x100 ≤ o && o < 0x140) || (0x1000 ≤ o && o < 0xA000)

/-- The registers, stacks and accumulators of a tile as R100 gives them, but for the PC, and its NACK log empty (R145). -/
def clearArch (p : Nat) (s : State) : State :=
  setTile p TileState.init { s with
    regs := s.regs.filter fun e => !(inTile p e.1 && archOff (e.1 - Reg.TILE_CTRL p))
    acc := s.acc.filter fun e => e.1 / 65536 ≠ p }

/-- The stacks of an image's header block. -/
def imageStacks (h : List Byte) : List LoopEntry × List Nat :=
  let info := field h 16 8
  let loops := (List.range (min 4 (bits info 44 42))).map fun i =>
    (⟨field h (0x40 + 24 * i) 8, field h (0x48 + 24 * i) 8, field h (0x50 + 24 * i) 8⟩ : LoopEntry)
  let rets := (List.range (min 8 (bits info 48 45))).map fun i => field h (0xA0 + 8 * i) 8
  (loops.reverse, rets.reverse)

/-- The register groups that an image records (R135, R482): the others stay zero. -/
def restoreGroups (p base : Nat) (h : List Byte) (s : State) : State :=
  let live := bits (field h 16 8) 15 0
  let s := forEach [(Reg.TILE_RNG_KEY p, 0x20), (Reg.TILE_RNG_CTR_LO p, 0x28), (Reg.TILE_RNG_CTR_HI p, 0x30)]
    (fun x => setR x.1 (BitVec.ofNat 64 (field h x.2 8))) s
  let s := when (bit live 0) (forEach (List.range 31) fun i =>
    setR (Reg.TILE_SREG p (i + 1)) (BitVec.ofNat 64 (field h (0x100 + 8 * i) 8))) s
  let s := when (bit live 1) (forEach (List.range 16) fun i =>
    setR (Reg.TILE_AREG p i) (BitVec.ofNat 64 (field h (0x1F8 + 8 * i) 8))) s
  let s := when (bit live 2) (put (Reg.TILE_PREG p) ⟨7, 1⟩ (field h 0x278 8 / 2)) s
  let s := forEach (List.range 32) (fun n s =>
    if bit live (3 + n / 8) then
      let (s, d) := imageBytes (base + 0x402000 + 1024 * n) 1024 s
      setVreg p n d s
    else s) s
  forEach (List.range 4) (fun b s =>
    if bit live (7 + b) then
      let (s, d) := imageBytes (base + 0x410000 + 65536 * b) 65536 s
      forEach (List.range 16384) (fun k => setAcc p b (k / 128) (k % 128) (BitVec.ofNat 32 (field d (4 * k) 4))) s
    else s) s

/-- Context `c` is placed on physical tile `p` (R100, R482): the first placement loads all of tile memory and TILE_PROG, any later one what
the image records; a tile saved HALTED or STOPPED is so again, unless a wake restarts it. -/
def placeTile (c p : Nat) (s0 : State) : State :=
  let x := s0.ctx c
  let first := !x.placed
  let l := s0.logical p
  let base := s0.imageBase c p
  let (s, h) := imageBytes (base + 0x400000) 0x280 s0
  let info := field h 16 8
  let s := restoreTm l base (if first then 65536 else min 65536 (1024 * bits info 41 20)) (clearTm l s)
  let prog : Word := BitVec.ofNat 64 (field h 8 8)
  let s := clearArch p s
  let r := Reg.TILE_PROG p
  let s := put r F.TILE_PROG_LIMIT (prog.get F.TILE_PROG_LIMIT / 32 * 32) (put r F.TILE_PROG_BASE (prog.get F.TILE_PROG_BASE / 32 * 32) s)
  let t := Reg.TILE_CTX p
  let s := put t F.TILE_CTX_CONTEXT c (put t F.TILE_CTX_EPOCH (s.epoch c) (put t F.TILE_CTX_PRESENT 1 s))
  if first then restartTile p s
  else
    let s := restoreGroups p base h s
    let frames := imageStacks h
    let s := setNext p (field h 0 8) (setTile p { s.tile p with loops := frames.1, rets := frames.2 } s)
    let st := bits info 18 16
    if x.restart then restartTile p s
    else setTileSt p (if st = TileSt.HALTED ∨ st = TileSt.STOPPED then st else TileSt.RUNNING) s

/-- The context that was being restored becomes resident (R483, R486), and the stage entries that waited for it take their places (R484). -/
def placeContext (q c : Nat) (s : State) : State :=
  let tiles := (s.partTiles q).map s.phys
  let s := forEach tiles (placeTile c) s
  let lat := s.fld (Reg.CTX_SCHED c) F.CTX_SCHED_LAT_US
  let late := match (s.ctx c).wokenUs with | some t => lat ≠ 0 && t + lat < s.now | none => false
  let s := when late (raise (Reg.CTX_STATUS c) F.CTX_STATUS_LAT_MISS) s
  let s := setCtx c { s.ctx c with placed := true, wokenUs := none, restart := false } s
  let s := setPart q ⟨s.now, 0, none⟩ (raise (Reg.CTX_STATUS c) F.CTX_STATUS_RESIDENT s)
  let st := Reg.PRT_PSTATUS q
  let s := put st F.PRT_PSTATUS_CONTEXT c (put st F.PRT_PSTATUS_RESIDENT 1 (put st F.PRT_PSTATUS_SWITCHING 0 s))
  let s := forEach (List.range 256) (fun p s => if s.stgInbound p ∧ s.stgCtx p = c then unpark p s else s) s
  bump (Reg.PRT_SWITCHES q) s

/-- Whether the images of context `c` can be read: memory serves them, and their pair is not being cleared (R50, R221). -/
def State.imagesServed (s : State) (c : Nat) : Bool :=
  !s.memRefuses && !s.rangeClears (s.fld (Reg.CTX_SAVE c) F.CTX_SAVE_BASE * 4096) (0x480000 * (s.partTiles (s.ctxPart c)).length)

/-! ### Commands of slices -/

/-- SLICE_END (R483): preemption becomes pending; the only schedulable context goes on with its next slice. -/
def execSliceEnd (part : Fin 16) (s : State) : Outcome State Fault Refusal :=
  let q := part.val
  match s.residentOf q with
  | none => .next s
  | some c =>
    if s.switching q then .next s
    else if s.candidates q = [c] then
      .next (sliceCredits q c s)
    else .next (preempt q c s)

/-- FORCED_SAVE (R483): a tile under a pending preemption saves all it holds. -/
def execForcedSave (p : Fin 160) (s : State) : Outcome State Fault Refusal :=
  let t := s.tile p.val
  match s.tileCtx p.val with
  | some c => .next (if t.preempt && t.saving.isNone && !s.fatal then settle (forceSave p.val c s) else s)
  | none => .next s

/-- SAVE_DONE (R483, R485): every tile of the context has saved, and the next one is chosen. -/
def execSaveDone (part : Fin 16) (s : State) : Outcome State Fault Refusal :=
  let q := part.val
  match s.residentOf q with
  | none => .next s
  | some c => .next (if s.switching q && (s.tilesOf c).isEmpty then leaveTiles q c s else s)

/-- PLACEMENT_DONE (R482): the context that was being restored becomes resident; if it can no longer be scheduled, another is chosen. With
memory not serving the images, after a fatal stop, or while a tile of the partition is being swapped (R426, log 71), there is no such event
(log 6). -/
def execPlacementDone (part : Fin 16) (s : State) : Outcome State Fault Refusal :=
  let q := part.val
  match (s.part q).placing with
  | none => .next s
  | some c =>
    if !s.imagesServed c || s.fatal || (s.partTiles q).any s.swapping then .next s
    else .next (if s.schedulable c then settle (placeContext q c s) else startPlacing q s)

/-- DB_WAKE (R487). -/
def execDbWake (c : BitVec 12) (s : State) : Outcome State Fault Refusal := .next (wakeContext c.toNat s)

/-! ### Reset of a context (R488 to R492) -/

/-- The stream queues of a context at its reset: every list ends uncounted, and what is outstanding waits for no answer (R245, R488). -/
def endStreams (c : Nat) (s : State) : State :=
  forEach (s.queues.filter fun e => s.queueCtx e.1 == c) (fun e s =>
    putQueue e.1 { e.2 with lists := [], run := none, xfers := e.2.xfers.map fun t => { t with waits := [] } } s) s

/-- The stream queues of a context IDLE and empty (R488 step 6). -/
def idleStreams (c : Nat) (s : State) : State :=
  forEach ((List.range 1024).filter fun q => s.queueCtx q == c) (fun q s =>
    putQueue q { s.queue q with lists := [], run := none, xfers := [] } (put (Reg.STR_Q_STATUS q) F.STR_Q_STATUS_STATE StrSt.IDLE s)) s

/-- Whether an open request belongs to the operations of a context. -/
def Purpose.ofContext : Purpose → Bool
  | .transferWrite _ _ => true
  | .transferRead _ _ _ => true
  | .blockList _ => true
  | .post _ => true
  | .stage _ => true
  | .reduce _ _ => true
  | .check _ => true
  | .query _ => false
  | .mirror _ => false
  | .restore => false

/-- The tiles of a context become IDLE without a save, and their matrix queues are discarded (R488 step 2); one that is being swapped, once
its spare has taken over (R426). -/
def idleTiles (c : Nat) (s : State) : State :=
  let mine := (s.ctxTiles c).filter fun p => s.tileCtx p == some c || (s.resident c && s.tileSt p == TileSt.SAVED)
  forEach mine (fun p s =>
    if s.swapping (s.logical p) then { s with swap := s.swap.map fun x => { x with reset := true } } else idleTile p s) s

/-- Steps 1 to 5 of R488. -/
def resetSteps (c : Nat) (s : State) : State :=
  let q := s.ctxPart c
  let r := Reg.CTX_CTRL c
  let st := Reg.CTX_STATUS c
  let s := put r F.CTX_CTRL_RUN 0 (put r F.CTX_CTRL_STATE CtxState.RESETTING (put r F.CTX_CTRL_EPOCH (s.epoch c + 1) s))
  let s := put st F.CTX_STATUS_LAT_MISS 0 (put st F.CTX_STATUS_DB_PENDING 0 (put st F.CTX_STATUS_HALTED 0 s))
  let s := setCtx c { s.ctx c with placed := false, wokenUs := none, restart := false } (showSchedulable c s)
  let s := idleTiles c s
  let s := showLevels (setPath (fun p => { p with wcb := p.wcb.filter (·.ctx ≠ c) }) s)
  let s := checksForEpoch c (runsForEpoch c (redsForEpoch c (haltForEpoch c (endStreams c s))))
  let s := { s with opens := s.opens.filter fun o => !(o.ctx == c && o.purpose.ofContext) }
  let s := showInflight c s
  if s.resident c then leaveTiles q c s
  else if (s.part q).placing = some c then startPlacing q s
  else s

/-- The manager's command completes. -/
def prtDone (code : Nat) (s : State) : State :=
  put Reg.PRT_STATUS F.PRT_STATUS_COMPLETION code (put Reg.PRT_STATUS F.PRT_STATUS_CMD_BUSY 0 { s with prtRun := none })

/-- The end of a context's reset (R488 step 6, R507): ACTIVE with RUN 0, or ABSENT after DESTROY; its command queue's commands complete with
ABORTED, and a command that awaits it completes with `code`. -/
def finishReset (code c : Nat) (s : State) : State :=
  let s := forEach (s.path.held.filter (·.ctx = c)) (fun w => noteOp w.op Code.EPOCH_STALE) s
  let s := setPath (fun p => { p with held := p.held.filter (·.ctx ≠ c) }) s
  let s := put (Reg.CTX_CTRL c) F.CTX_CTRL_STATE CtxState.ACTIVE (idleStreams c s)
  let s := put (Reg.CTX_STATUS c) F.CTX_STATUS_INFLIGHT 0 (setCredit c 0 s)
  let s := abortQueue c s
  let s := when (s.ctx c).destroying (put (Reg.CTX_CTRL c) F.CTX_CTRL_STATE CtxState.ABSENT) s
  let s := setCtx c CtxExtra.init s
  match s.prtRun with
  | some r => if (r.cmd = 2 ∨ r.cmd = 3) ∧ r.target = c then prtDone code s else s
  | none => s

/-- A partition reset (R491): steps 1 to 5 for every present context, the rest discarded without waiting, and an entry for each context but
the one whose reset escalated. Each context is then ACTIVE. -/
def partitionReset (q : Nat) (but : Option Nat) (code : Nat) (s : State) : State :=
  let cs := (List.range 4096).filter fun c => s.present c && s.ctxPart c == q
  let s := forEach cs resetSteps s
  let s := forEach (cs.filter fun c => some c ≠ but) (fun c => postContained 0x00B2 .prt c q) s
  forEach cs (finishReset code) s

/-- The area that the images of a context of partition `q` take lies in a write window of it (R476). -/
def State.saveAreaOk (s : State) (q c : Nat) : Bool :=
  let n := 0x480000 * (s.partTiles q).length
  let a := s.fld (Reg.CTX_SAVE c) F.CTX_SAVE_BASE * 4096
  n == 0 || (decide (a + n ≤ hbmEnd) && !(s.windows q a n true).isEmpty)

/-- CREATE's effect (R476): ACTIVE with the epoch given, in the partition given, RUN 0, CREDIT 0, and nothing recorded. -/
def createContext (c q epoch : Nat) (s : State) : State :=
  let r := Reg.CTX_CTRL c
  let s := put r F.CTX_CTRL_EPOCH epoch (put r F.CTX_CTRL_PARTITION q s)
  let s := put r F.CTX_CTRL_RUN 0 (put r F.CTX_CTRL_STATE CtxState.ACTIVE s)
  let s := setCredit c 0 (put (Reg.CTX_STATUS c) F.CTX_STATUS_QCAUSE 0 s)
  showSchedulable c (setCtx c CtxExtra.init s)

/-- A manager command that meets its requirements, or REFUSED (R476). -/
def runPrt (cmd c q epoch : Nat) (s : State) : State :=
  let st := s.ctxState c
  let valid := s.on (Reg.PRT_CTRL q) F.PRT_CTRL_VALID
  let live := st = CtxState.ACTIVE ∨ st = CtxState.QUARANTINED
  let begin (s : State) : State := raise Reg.PRT_STATUS F.PRT_STATUS_CMD_BUSY { s with prtRun := some ⟨cmd, c⟩ }
  match cmd with
  | 1 => if st = CtxState.ABSENT ∧ valid ∧ s.saveAreaOk q c then prtDone Code.DONE (createContext c q epoch s) else prtDone Code.REFUSED s
  | 2 => if live then resetSteps c (begin s) else prtDone Code.REFUSED s
  | 3 => if live then resetSteps c (setCtx c { s.ctx c with destroying := true } (begin s)) else prtDone Code.REFUSED s
  | 4 => if st = CtxState.ACTIVE then prtDone Code.DONE (quarantine c 7 s) else prtDone Code.REFUSED s
  | _ => if valid then prtDone Code.DONE (partitionReset q none Code.DONE s) else prtDone Code.REFUSED s

/-- A PRT_CMD write: ignored with BAD_WRITE while a command runs and for a reserved code (R476). -/
def prtCommand (cmd c q epoch : Nat) (s : State) : State :=
  if s.on Reg.PRT_STATUS F.PRT_STATUS_CMD_BUSY ∨ 5 < cmd then badWrite Reg.PRT_CMD s
  else if cmd = 0 then s
  else runPrt cmd c q epoch s

/-- CREATE (R476). -/
def execCreate (c : BitVec 12) (part : Fin 16) (epoch : BitVec 8) (s : State) : Outcome State Fault Refusal :=
  .next (settle (prtCommand 1 c.toNat part.val epoch.toNat s))
/-- CTX_RESET (R476, R488). -/
def execCtxReset (c : BitVec 12) (s : State) : Outcome State Fault Refusal := .next (settle (prtCommand 2 c.toNat 0 0 s))
/-- DESTROY (R476). -/
def execDestroy (c : BitVec 12) (s : State) : Outcome State Fault Refusal := .next (settle (prtCommand 3 c.toNat 0 0 s))
/-- QUARANTINE (R476, R477). -/
def execQuarantine (c : BitVec 12) (s : State) : Outcome State Fault Refusal := .next (settle (prtCommand 4 c.toNat 0 0 s))
/-- PRT_RESET (R476, R491). -/
def execPrtReset (part : Fin 16) (s : State) : Outcome State Fault Refusal := .next (served (prtCommand 5 0 part.val 0 s))

/-- RESET_DRAIN_DONE (R488): nothing of the older epoch is in flight. -/
def execResetDrainDone (c : BitVec 12) (s : State) : Outcome State Fault Refusal :=
  .next (if s.ctxState c.toNat = CtxState.RESETTING ∧ s.opsInFlight c.toNat = 0 then served (finishReset Code.DONE c.toNat s) else s)

/-- RESET_ESCALATE (R490): a reset that has not drained becomes a reset of its partition. -/
def execResetEscalate (c : BitVec 12) (s : State) : Outcome State Fault Refusal :=
  let c := c.toNat
  let q := s.ctxPart c
  if s.ctxState c ≠ CtxState.RESETTING ∨ s.opsInFlight c = 0 then .next s
  else .next (served (partitionReset q (some c) Code.TIMEOUT (postCorrected 0x00B1 .prt (some c) none q s)))

/-- FLR (R491, R500): the contexts of function `f` are reset and their queues DISABLED; an FLR of the physical function takes those of every
function. -/
def execFlr (f : Fin 64) (s : State) : Outcome State Fault Refusal :=
  let cs := (List.range 4096).filter fun c => f.val == 0 || s.fld (Reg.CTX_HOST c) F.CTX_HOST_FUNC == f.val
  let s := forEach cs dropQueue s
  .next (settle (forEach (cs.filter s.present) resetSteps s))

/-! ### Registers (R478, R480, R495, R496) -/

/-- Whether a partition has a context that is not ABSENT (R495). -/
def State.partUsed (s : State) (q : Nat) : Bool :=
  s.anyReg fun off w => Reg.CTX_CTRL 0 ≤ off && off < Reg.CTX_CTRL 4096 && (off - Reg.CTX_CTRL 0) % 0x40 == 0 &&
    w.get F.CTX_CTRL_STATE != 0 && w.get F.CTX_CTRL_PARTITION == q

/-- The VALID partitions. -/
def State.validParts (s : State) : List Nat := (List.range 16).filter fun q => s.on (Reg.PRT_CTRL q) F.PRT_CTRL_VALID

/-- No tile lies in two VALID partitions (R478), and neither guarantee sums to more than 100 (R480). -/
def State.partsOk (s : State) : Bool :=
  let qs := s.validParts
  let sum (f : Fld) : Nat := (qs.map fun q => s.fld (Reg.PRT_BW q) f).sum
  decide (qs.flatMap s.partTiles).Nodup && decide (sum F.PRT_BW_HBM_PCT ≤ 100) && decide (sum F.PRT_BW_FAB_PCT ≤ 100)

/-- A write to a register of a partition that keeps R478 and R480, or is ignored in whole. -/
def partWrite (locked : Bool) (off : Nat) (v : Word) (s : State) : State :=
  let t := genericWrite off v s
  if locked || !t.partsOk then badWrite off s else t

/-- A PRT_p_CTRL write: SLICE_US and TM_SAVE are locked while the partition has a context (R495). -/
def partCtrl (q : Nat) (v : Word) (s : State) : State :=
  let off := Reg.PRT_CTRL q
  let same := v.get F.PRT_CTRL_SLICE_US == s.fld off F.PRT_CTRL_SLICE_US && v.get F.PRT_CTRL_TM_SAVE == s.fld off F.PRT_CTRL_TM_SAVE
  partWrite (s.partUsed q && !same) off v s

/-- PRT_TILES_WRITE (R478, R495). -/
def execPrtTilesWrite (part : Fin 16) (i : Fin 3) (v : Word) (s : State) : Outcome State Fault Refusal :=
  .next (partWrite (s.partUsed part.val) (Reg.PRT_TILES0 part.val + 8 * i.val) v s)

/-- PRT_BW_WRITE (R480, R495). -/
def execPrtBwWrite (part : Fin 16) (v : Word) (s : State) : Outcome State Fault Refusal :=
  .next (partWrite (s.partUsed part.val) (Reg.PRT_BW part.val) v s)

/-- A CTX_c_CTRL write (R496): DOMAIN and PARTITION change only while ABSENT, and RUN is set only while ACTIVE. -/
def ctxCtrl (c : Nat) (v : Word) (s : State) : State :=
  let off := Reg.CTX_CTRL c
  let same := v.get F.CTX_CTRL_DOMAIN == s.fld off F.CTX_CTRL_DOMAIN && v.get F.CTX_CTRL_PARTITION == s.fld off F.CTX_CTRL_PARTITION
  let sets := v.get F.CTX_CTRL_RUN == 1 && !s.on off F.CTX_CTRL_RUN
  if (!same && s.present c) || (sets && s.ctxState c != CtxState.ACTIVE) then badWrite off s
  else
    let s := showSchedulable c (genericWrite off v s)
    when sets (becomeSchedulable c) s

/-- A write into entry `c` of the context table (R496). -/
def ctxTable (c o : Nat) (v : Word) (s : State) : State :=
  let off := Reg.CTX_CTRL c + o
  if o = 0 then ctxCtrl c v s
  else if o = 0x08 ∨ o = 0x18 then writeIf (!s.present c) off v s
  else if isCounter off then counterWrite off v s
  else genericWrite off v s

/-- CTX_WRITE (R496). -/
def execCtxWrite (c : BitVec 12) (off : BitVec 6) (v : Word) (s : State) : Outcome State Fault Refusal :=
  .next (ctxTable c.toNat off.toNat v s)

end Sys2Proof.Machine
end

