-- ==== Sys2Proof/Machine/Floor.lean ====
section
/-! DEFINITION. The floor (chapter 01): die links and their repair (R41 to R46), trim selection (R56, R57), pin codes and the
clears they start (R49 to R52). -/
namespace Sys2Proof.Machine

open Host (Outcome)

/-- The key of a signal in `State.signals`. -/
def sigKey (g : Signal) : Nat := ((g.link.val * 2 + g.dir.val) * 256 + g.bundle.val) * 133 + g.sig.val
/-- The key of a signal's bundle in `State.bundles`. -/
def bundleKey (g : Signal) : Nat := 512 * g.link.val + 256 * g.dir.val + g.bundle.val

def State.signal (s : State) (g : Signal) : SignalState := Store.lookup (fun _ => SignalState.init) s.signals (sigKey g)
def setSignal (g : Signal) (x : SignalState) (s : State) : State :=
  { s with signals := Store.update (fun _ => SignalState.init) s.signals (sigKey g) x }
def State.bundle (s : State) (g : Signal) : BundleState := Store.lookup (fun _ => BundleState.init) s.bundles (bundleKey g)
def setBundle (g : Signal) (x : BundleState) (s : State) : State :=
  { s with bundles := Store.update (fun _ => BundleState.init) s.bundles (bundleKey g) x }

/-- Whether a signal exists: the bridge (link 4) has 128 bundles in a direction. -/
def sigExists (g : Signal) : Bool := g.link.val < 4 || g.bundle.val < 128

/-- The fewest working bundles of a link's direction before LINK_FATAL (R46). -/
def minBundles (link : Nat) : Nat := if link < 4 then 224 else 112

/-- DETAIL of LINK_REPAIR and LINK_DEGRADED (R520). -/
def signalDetail (g : Signal) : Nat := g.link.val + 8 * g.dir.val + 256 * g.bundle.val + 65536 * g.sig.val

/-- FLIT_RETRY (R41): the retry is counted; no data is lost and no entry posted. -/
def execFlitRetry (link : Fin 5) (s : State) : Outcome State Fault Refusal := .next (bump (Reg.FLR_LINK_RETRY link.val) s)

/-- The field of FLR_LINKn_STATUS that counts a direction's working bundles. -/
def dirBundles (dir : Nat) : Fld := if dir = 0 then F.FLR_LINK_STATUS_DIR0_BUNDLES else F.FLR_LINK_STATUS_DIR1_BUNDLES

/-- A link below its minimum sets LINK_FATAL and posts a FATAL entry (R46). -/
def checkLink (link dir : Nat) (s : State) : State :=
  if s.fld (Reg.FLR_LINK_STATUS link) (dirBundles dir) < minBundles link then
    postFatal 0x0013 .flr link (raise Reg.FLR_STATUS F.FLR_STATUS_LINK_FATAL s)
  else s

/-- A signal is declared failed (R44): it is steered onto a free repair signal, or its bundle is disabled when it needs a
third repair (R45), which may leave the link below its minimum (R46). A repair signal that fails, idle or in use, is repaired like any
other and takes one of the bundle's two repairs (DESIGN CHOICE: R44 does not say; log 52). -/
def failSignal (g : Signal) (s : State) : State :=
  let b := s.bundle g
  if !sigExists g || (s.signal g).failed || b.disabled then s
  else if b.repairs < 2 then
    let s := setSignal g { s.signal g with failed := true, repaired := true } s
    let s := setBundle g { b with repairs := b.repairs + 1 } s
    let st := Reg.FLR_LINK_STATUS g.link.val
    let s := put st F.FLR_LINK_STATUS_REPAIRS (s.fld st F.FLR_LINK_STATUS_REPAIRS + 1) s
    postCorrected 0x0011 .flr none none (signalDetail g) (raise Reg.FLR_STATUS F.FLR_STATUS_REPAIR_USED s)
  else
    let s := setSignal g { s.signal g with failed := true } s
    let s := setBundle g { b with disabled := true } s
    let st := Reg.FLR_LINK_STATUS g.link.val
    let s := put st (dirBundles g.dir.val) (s.fld st (dirBundles g.dir.val) - 1) s
    let s := postCorrected 0x0012 .flr none none (signalDetail g) (raise Reg.FLR_STATUS F.FLR_STATUS_LINK_DEGRADED s)
    checkLink g.link.val g.dir.val s

/-- TRIM_TRACK (R43): the margin is sampled and the fine trim moves by at most one step, carrying into the coarse trim; a
coarse trim that would leave 0 to 3 fails the signal (R44). Failed signals and signals that do not exist are not tracked. -/
def execTrimTrack (sg : Signal) (mv : TrimMove) (margin : BitVec 8) (s : State) : Outcome State Fault Refusal :=
  let x := s.signal sg
  if !sigExists sg || x.failed || (s.bundle sg).disabled then .next s
  else
    let s := setSignal sg { x with margin := margin.toNat } s
    let x := s.signal sg
    .next (match mv with
      | .stay => s
      | .up =>
        if x.fine < 63 then setSignal sg { x with fine := x.fine + 1 } s
        else if x.coarse < 3 then setSignal sg { x with fine := 31, coarse := x.coarse + 1 } s
        else failSignal sg s
      | .down =>
        if 0 < x.fine then setSignal sg { x with fine := x.fine - 1 } s
        else if 0 < x.coarse then setSignal sg { x with fine := 32, coarse := x.coarse - 1 } s
        else failSignal sg s)

/-- SIGNAL_FAILED (R44). -/
def execSignalFailed (sg : Signal) (s : State) : Outcome State Fault Refusal := .next (failSignal sg s)

/-- One pair takes its new code at the write and its clear is queued (R50): its 2 GiB read as zeros from now on, but for
protected granules, whose clear the sluice holds (R378). -/
def startPairClear (n code : Nat) (s : State) : State :=
  let guarded := s.path.guarded.filter fun g => g / 0x8000 = n
  let s := put (Reg.FLR_PIN (n / 32)) ⟨2 * (n % 32) + 1, 2 * (n % 32)⟩ code s
  let s := zeroWhere (fun a => a / 0x80000000 = n ∧ !guarded.contains (granuleOf a)) s
  let s := forEach guarded (fun g s => holdWrite ⟨.clear, g * 0x10000, [], 0, 4096, 0, s.path.op, false⟩ s) s
  raise Reg.FLR_STATUS F.FLR_STATUS_PIN_BUSY (setPath (fun p => { p with clearing := p.clearing ++ [n] }) s)

/-- FLR_PIN_WRITE (R49 to R51): ignored with BAD_WRITE while PIN_BUSY; otherwise each pair whose code changes takes it and
is cleared, in ascending order; code 0b11 keeps the pair's code and sets BAD_WRITE. -/
def execFlrPinWrite (i : Fin 8) (v : Word) (s : State) : Outcome State Fault Refusal :=
  let off := Reg.FLR_PIN i.val
  if s.on Reg.FLR_STATUS F.FLR_STATUS_PIN_BUSY then .next (badWrite off s)
  else .next (forEach (List.range 32) (fun j s =>
    let n := 32 * i.val + j
    let code := bits v.toNat (2 * j + 1) (2 * j)
    if code = 3 then badWrite off s
    else if code = s.pinCode n then s
    else startPairClear n code s) s)

/-- TRIM_SEL_WRITE (R56): each field is judged against the other fields as written; a reserved one keeps its value and
sets BAD_WRITE. -/
def execTrimSelWrite (v : Word) (s : State) : Outcome State Fault Refusal :=
  let r := Reg.FLR_TRIM_SEL
  let link := v.get F.FLR_TRIM_SEL_LINK
  let bundle := v.get F.FLR_TRIM_SEL_BUNDLE
  let sig := v.get F.FLR_TRIM_SEL_SIGNAL
  let okL := decide (link ≤ 4)
  let okB := decide (link ≠ 4 ∨ bundle < 128)
  let okS := decide (sig ≤ 132)
  let s := put r F.FLR_TRIM_SEL_DIR (v.get F.FLR_TRIM_SEL_DIR) s
  let s := when okL (put r F.FLR_TRIM_SEL_LINK link) s
  let s := when okB (put r F.FLR_TRIM_SEL_BUNDLE bundle) s
  let s := when okS (put r F.FLR_TRIM_SEL_SIGNAL sig) s
  .next (when (!(okL && okB && okS)) (badWrite r) s)

/-- What FLR_TRIM_DATA reads: the selected signal's state, or zero where the held combination names none (R57, R58). -/
def State.trimData (s : State) : Word :=
  let r := Reg.FLR_TRIM_SEL
  let link := s.fld r F.FLR_TRIM_SEL_LINK
  let bundle := s.fld r F.FLR_TRIM_SEL_BUNDLE
  let sig := s.fld r F.FLR_TRIM_SEL_SIGNAL
  if hl : link < 5 then if hb : bundle < 256 then if hs : sig < 133 then
    let g : Signal := ⟨⟨link, hl⟩, Fin.ofNat 2 (s.fld r F.FLR_TRIM_SEL_DIR), ⟨bundle, hb⟩, ⟨sig, hs⟩⟩
    if sigExists g then
      let x := s.signal g
      (0 : Word).put F.FLR_TRIM_DATA_MARGIN x.margin |>.put F.FLR_TRIM_DATA_REPAIRED (if x.repaired then 1 else 0)
        |>.put F.FLR_TRIM_DATA_FAILED (if x.failed then 1 else 0) |>.put F.FLR_TRIM_DATA_COARSE x.coarse
        |>.put F.FLR_TRIM_DATA_FINE x.fine
    else 0
  else 0 else 0 else 0

end Sys2Proof.Machine
end

