-- ==== Sys2Proof/Machine/Harvest.lean ====
section
/-! DEFINITION. The harvest (R386 to R391, R396) and what it writes: the stored image (R397, R399), shard records (R400 to R405)
and manifest fragments (R406). -/
namespace Sys2Proof.Machine

open Host (Outcome)

/-! ### The stored image (R397, R399) -/

/-- The generation number of a pan of step `step` (R397). -/
def State.genOf (s : State) (step : Nat) : Nat := s.fld Reg.CHK_RUN F.CHK_RUN_RUN * 2 ^ 40 + step

/-- The entries of slot `n`'s list copy. -/
def State.listCopy (s : State) (n : Nat) : List (List Byte) :=
  let base := s.panBase n
  (List.range (ofBytes (s.hbmPeek (base + 14) 2))).map fun i => s.hbmPeek (base + 0x90000 + 32 * i) 32

/-- The offset of each region's data in the stored image (none for a region with REF 1), and the end of the data. -/
def storedOffsets : List (List Byte) → Nat → List (Option Nat) × Nat
  | [], o => ([], o)
  | e :: l, o =>
    if regRef e then
      let (r, z) := storedOffsets l o
      (none :: r, z)
    else
      let a := ceilDiv o 64 * 64
      let (r, z) := storedOffsets l (a + regLen e)
      (some a :: r, z)

/-- STORED_BYTES and RECSEC_OFFSET of slot `n` (R399). -/
def State.storedBytes (s : State) (n : Nat) : Nat := (storedOffsets (s.listCopy n) panData).2
def State.recsecOffset (s : State) (n : Nat) : Nat := ceilDiv (s.storedBytes n) 4096 * 4096

/-- Bytes 0 to 0xF_FFFF of the stored image of slot `n` in area `a` with `t` targets (R399). -/
def State.storedHead (s : State) (n a t : Nat) : List Byte :=
  let raw := s.hbmPeek (s.panBase n) panData
  let fields (crc : Nat) : List Byte :=
    bytesOf 8 (s.genOf (tideStep (s.reg (Reg.PAN_SLOT_TIDE n)))) ++ bytesOf 8 (s.reg Reg.CHK_JOB).toNat ++
      bytesOf 8 (s.storedBytes n) ++ bytesOf 4 (s.listCopy n).length ++ bytesOf 1 a ++ bytesOf 1 t ++ bytesOf 2 0 ++
      bytesOf 8 (s.recsecOffset n) ++ bytesOf 8 crc ++ List.replicate 16 0
  splice raw 64 (fields (crc64 (splice raw 64 (fields 0))))

/-! ### Shard records (R400 to R405) -/

/-- `l` cut into pieces of `n`. -/
def cutEvery {α : Type} (n : Nat) (l : List α) : List (List α) :=
  (List.range (ceilDiv l.length n)).map fun i => (l.drop (n * i)).take n

/-- The piece digest (R401). -/
def pieceDigest (l : List Byte) : List Byte := sha256 ((cutEvery 0x100000 l).flatMap sha256)

/-- The folded CRC-64 of a region's data (R402): FOLD BOTH, POS from 0, SEQ the record index. -/
def foldedCrc (seq : Nat) (l : List Byte) : Nat :=
  let x : ChkVal := ⟨ChkAlg.CRC64, 3, 0, seq, false, 0, 0, [], []⟩
  (l.foldl ChkVal.data x).close.crc

/-- Whether a template is well-formed (R404): only NAME_HASH, FMT, NDIM and COORD hold anything, FMT is no reserved code, NDIM is
1 to 8, and the pairs beyond NDIM are zero. -/
def templateOk (t : List Byte) : Bool :=
  let zero (i n : Nat) : Bool := field t i n == 0
  let dims := field t 14 1
  zero 8 5 && zero 15 81 && zero 224 32 && decide (field t 13 1 ≤ 12) && decide (1 ≤ dims) && decide (dims ≤ 8) &&
    zero (96 + 16 * dims) (128 - 16 * dims)

/-- A piece hashed on set `k` of unit `u`, whose registers show it (R405, R418): SHA256 without fold, from INIT to FINISH. -/
def hashOn (u k ctx addr : Nat) (data : List Byte) (s : State) : State :=
  let c := Reg.CHK_S_CTRL u k
  let s := put c F.CHK_S_CTRL_ALG ChkAlg.SHA256 (put c F.CHK_S_CTRL_FOLD 0 (put c F.CHK_S_CTRL_CONTEXT ctx s))
  let s := setR (Reg.CHK_S_SRC u k) (BitVec.ofNat 64 addr) s
  let s := setChkVal u k { (s.chkVal u k).start with pos := 0 } s
  chkFinish u k (chkAbsorb u k data s)

/-- The pieces of a region hashed on sets 8 to 15 of the four units (R405): piece i on unit i mod 4, set 8 + (i div 4) mod 8 (DESIGN CHOICE,
log 57). -/
def hashPieces (ctx addr : Nat) (data : List Byte) (s : State) : State :=
  forEach (cutEvery 0x100000 data).zipIdx (fun (b, i) s => hashOn (i % 4) (8 + i / 4 % 8) ctx (addr + 0x100000 * i) b s) s

/-- Where the data of a region of slot `n` lies in its image. -/
def State.regionCopy (s : State) (n : Nat) (e : List Byte) : Nat := s.panBase n + panData + field e 8 8

/-- The record of a region (R400): list entry, template, stored offset, and the data of its slot copy. -/
def buildRecord (s : State) (n : Nat) (e t data : List Byte) (stored : Option Nat) : List Byte :=
  let step := tideStep (s.reg (Reg.PAN_SLOT_TIDE n))
  let version := if regSel e = 1 then field (s.hbmPeek (s.panBase n + 0x2000 + 8 * regCommit e) 8) 0 5 else step
  let body := t.take 8 ++ bytesOf 4 (regRec e) ++ bytesOf 1 (if regRef e then 1 else 0) ++ (t.drop 13).take 2 ++ bytesOf 1 0 ++
    bytesOf 8 version ++ bytesOf 8 (regLen e) ++ bytesOf 8 (stored.getD 0) ++
    bytesOf 2 (if regRef e then regRefRank e else 0) ++ List.replicate 6 0 ++ bytesOf 8 (foldedCrc (regRec e) data) ++
    pieceDigest data ++ List.replicate 8 0 ++ (t.drop 96).take 128 ++ List.replicate 24 0
  body ++ bytesOf 8 (crc64 body)

/-- The record section of slot `n`, or the code that ends its harvest: a malformed template is refused and handled under R24 (R404), and a
poisoned line ends it POISONED. -/
def buildRecords (n : Nat) (s : State) : State × Except Nat (List Byte) :=
  let d := s.panDom n
  let count := s.fld (Reg.CHK_D_RECTAB d) F.CHK_D_RECTAB_COUNT
  let base := s.fld (Reg.CHK_D_RECTAB d) F.CHK_D_RECTAB_BASE * 256
  let list := s.listCopy n
  (List.zip list (storedOffsets list panData).1).foldl
    (fun (s, r) (e, o) => match r with
      | .error c => (s, .error c)
      | .ok acc =>
        let a := base + 256 * regRec e
        let refuse (s : State) : State := reservedCode .pan (regCtx e) a s
        if count ≤ regRec e ∨ hbmEnd < a + 256 then (refuse s, .error Code.REFUSED)
        else
          let (s, t, bad) := hbmRead a 256 0 s
          if bad.isSome then (s, .error Code.POISONED)
          else if !templateOk t then (refuse s, .error Code.REFUSED)
          else
            let (s, data, bad) := hbmRead (s.regionCopy n e) (regLen e) 0 s
            if bad.isSome then (s, .error Code.POISONED)
            else
              let s := hashPieces (regCtx e) (s.regionCopy n e) data s
              (s, .ok (acc ++ buildRecord s n e t data o)))
    (s, .ok [])

/-! ### Targets, stripes and areas (R388, R389) -/

/-- The enabled targets, in ascending order. -/
def State.hrvTargets (s : State) : List Nat := (List.range 8).filter fun t => s.on (Reg.HRV_T_CTRL t) F.HRV_T_CTRL_EN
/-- Blocks of an area of target `t`. -/
def State.areaLbas (s : State) (t : Nat) : Nat := (s.reg (Reg.HRV_T_COUNT t)).toNat / s.fld Reg.HRV_CTRL F.HRV_CTRL_AREAS

/-- Bytes of a harvest's output. -/
def State.outBytes (s : State) (n : Nat) : Nat := s.recsecOffset n + 256 * (s.listCopy n).length
/-- Stripes of an output of `b` bytes. -/
def stripesOf (b : Nat) : Nat := ceilDiv b 0x100000
/-- The stripes that the `i`-th of `n` targets receives of `total`. -/
def shareOf (total n i : Nat) : Nat := ceilDiv (total - i) n

/-- The first area after the last one that is not protected (R389). -/
def State.nextArea (s : State) : Option Nat :=
  let areas := s.fld Reg.HRV_CTRL F.HRV_CTRL_AREAS
  let first := if s.harvested then s.fld Reg.HRV_STATUS F.HRV_STATUS_LAST_AREA + 1 else 0
  ((List.range areas).map fun i => (first + i) % areas).find? fun a => !bit (s.reg Reg.HRV_PROTECT).toNat a

/-! ### The harvest (R387, R390, R391) -/

/-- A harvest ends other than DONE (R390). -/
def harvestFail (n code t : Nat) (s : State) : State :=
  let s := put (Reg.PAN_SLOT_STATUS n) F.PAN_SLOT_STATUS_HRV_CODE code { s with harvest := none }
  let s := put Reg.HRV_STATUS F.HRV_STATUS_LAST_CODE code (put Reg.HRV_STATUS F.HRV_STATUS_BUSY 0 s)
  postCorrected 0x0083 .pan none (some (s.panDom n)) (code + 256 * t) (raise Reg.PAN_STATUS F.PAN_STATUS_HRV_FAIL s)

/-- An NVMe command to target `t` leaves; `addr` of a Write is the stripe's offset in the output (log 44). -/
def sendNvme (t opcode slba nlb addr : Nat) (s : State) : State :=
  let c := Reg.HRV_T_CTRL t
  bump Reg.HRV_CMDS (emit (.nvme ⟨s.fld c F.HRV_T_CTRL_QP, opcode, s.fld c F.HRV_T_CTRL_NSID, slba, nlb, addr⟩) s)

/-- The Write of the `j`-th stripe of the `i`-th target: a last stripe is padded to whole blocks (R388). -/
def sendStripe (h : Harvest) (i t j : Nat) (s : State) : State :=
  let stripe := i + h.targets.length * j
  let bytes := min 0x100000 (s.outBytes h.slot - stripe * 0x100000)
  sendNvme t 1 ((s.reg (Reg.HRV_T_BASE t)).toNat + h.area * s.areaLbas t + 256 * j) (ceilDiv bytes 4096 - 1)
    (stripe * 0x100000) s

/-- Whether a stripe may be written now: those that hold a part of the record section follow the last data Write (R405). -/
def stripeReady (h : Harvest) (stripe : Nat) : Bool := h.records.isSome || decide ((stripe + 1) * 0x100000 ≤ h.recsec)

/-- The `i`-th target of a harvest is given its next stripes, up to 64 commands at a time, and its Flush once its last Write has
completed (R386, R391). -/
def issueTarget : Nat → Nat → State → State
  | 0, _, s => s
  | f + 1, i, s =>
    match s.harvest with
    | none => s
    | some h =>
      match h.targets[i]? with
      | none => s
      | some x =>
        let share := shareOf (stripesOf (s.outBytes h.slot)) h.targets.length i
        let set (y : HrvTarget) (s : State) : State := { s with harvest := some { h with targets := h.targets.set i y } }
        if x.next < share ∧ x.opens.length < 64 ∧ stripeReady h (i + h.targets.length * x.next) then
          issueTarget f i (set { x with next := x.next + 1, opens := x.opens ++ [(x.next, 0)] } (sendStripe h i x.target x.next s))
        else if x.next = share ∧ x.opens = [] ∧ x.flush = none ∧ !x.flushed then
          set { x with flush := some 0 } (sendNvme x.target 0 0 0 0 s)
        else s

/-- Whether the domain of slot `n`'s pan is a sandbox, for which the harvest writes nothing (R442). -/
def State.sandboxed (s : State) (n : Nat) : Bool := s.on (Reg.RPL_D_CTRL (s.panDom n)) F.RPL_D_CTRL_SANDBOX

/-- Every target is given what it can take. -/
def issueHarvest (s : State) : State :=
  match s.harvest with
  | none => s
  | some h => forEach (List.range h.targets.length) (issueTarget 65) s

/-- Whether every data Write has completed and the records are still to be built (R405). -/
def recordsDue (s : State) (h : Harvest) : Bool :=
  let n := h.targets.length
  h.records.isNone && h.targets.zipIdx.all fun x =>
    x.1.opens.isEmpty && (decide (shareOf (stripesOf (s.outBytes h.slot)) n x.2 ≤ x.1.next) || !stripeReady h (x.2 + n * x.1.next))

/-- The manifest fragment of an acknowledged harvest (R406). -/
def State.fragment (s : State) (h : Harvest) : List Byte :=
  let n := h.slot
  let head := s.hbmPeek (s.panBase n) 32
  let k := h.targets.length
  let records := h.records.getD []
  let targets := h.targets.zipIdx.flatMap fun x =>
    bytesOf 8 (s.reg (Reg.CHK_TAG_LO x.2)).toNat ++ bytesOf 8 (s.reg (Reg.CHK_TAG_HI x.2)).toNat ++
      bytesOf 4 (s.fld (Reg.HRV_T_CTRL x.1.target) F.HRV_T_CTRL_NSID) ++ bytesOf 4 x.1.next ++
      bytesOf 8 ((s.reg (Reg.HRV_T_BASE x.1.target)).toNat + h.area * s.areaLbas x.1.target)
  let front := bytesOf 8 (s.genOf (tideStep (s.reg (Reg.PAN_SLOT_TIDE n)))) ++ bytesOf 8 (s.reg Reg.CHK_JOB).toNat ++
    head.take 8 ++ (head.drop 8).take 6 ++ bytesOf 1 h.area ++ bytesOf 1 k ++ bytesOf 8 (h.recsec + records.length) ++
    sha256 (s.storedHead n h.area k ++ records) ++ List.replicate 48 0
  let back := targets ++ List.replicate (256 - targets.length) 0
  front ++ bytesOf 8 (crc64 (front ++ List.replicate 8 0 ++ back)) ++ back

/-- A harvest is acknowledged (R391), and its fragment is written (R406). -/
def harvestAcked (h : Harvest) (s : State) : State :=
  let d := s.panDom h.slot
  let st := Reg.CHK_D_STATUS d
  let frag := s.fragment h
  let s := put (Reg.PAN_SLOT_STATUS h.slot) F.PAN_SLOT_STATUS_HRV_ACK 1 { s with harvest := none }
  let s := put (Reg.PAN_SLOT_STATUS h.slot) F.PAN_SLOT_STATUS_HRV_CODE Code.DONE s
  let s := put Reg.HRV_STATUS F.HRV_STATUS_LAST_CODE Code.DONE (put Reg.HRV_STATUS F.HRV_STATUS_BUSY 0 s)
  let s := unitWrite (s.fld (Reg.CHK_D_FRAG d) F.CHK_D_FRAG_ADDR * 128) frag s
  let s := when (s.on st F.CHK_D_STATUS_FRAG_READY) (raise st F.CHK_D_STATUS_FRAG_OVERRUN) s
  raise st F.CHK_D_STATUS_FRAG_READY s

/-- The harvest goes on, unless its domain is a sandbox (R442): the record section is built after the last data Write, commands are issued,
and with every target flushed it is acknowledged. -/
def pumpHarvest (s : State) : State :=
  match s.harvest with
  | none => s
  | some h =>
    if s.sandboxed h.slot then s
    else if s.memRefuses then harvestFail h.slot Code.REFUSED 0 s
    else if recordsDue s h then
      let (s, r) := buildRecords h.slot s
      match r with
      | .error c => harvestFail h.slot c 0 s
      | .ok l => issueHarvest { s with harvest := some { h with records := some l } }
    else if h.targets.all (·.flushed) then harvestAcked h s
    else issueHarvest s

/-- A harvest of slot `n` starts, in the area of its last try or in the next one (R387 to R389). `other` names the targets whose namespace
has another format than 4,096-byte blocks without metadata (R386). -/
def startHarvest (n : Nat) (other : List (Fin 8)) (s : State) : State :=
  let ts := s.hrvTargets
  let area := match (s.panSlot n).area with | some a => some a | none => s.nextArea
  if s.panBit n F.PAN_SLOT_STATUS_POISON then harvestFail n Code.POISONED 0 s
  else if s.memRefuses then harvestFail n Code.REFUSED 0 s
  else match area with
    | none => harvestFail n Code.REFUSED 0 s
    | some a =>
      let s := put Reg.HRV_STATUS F.HRV_STATUS_LAST_AREA a { s with harvested := true }
      let s := setPanSlot n { s.panSlot n with area := some a } s
      let need := ceilDiv (stripesOf (s.outBytes n)) ts.length * 256
      if ts = [] ∨ ts.any (fun t => s.areaLbas t < need ∨ !s.qpIs (s.fld (Reg.HRV_T_CTRL t) F.HRV_T_CTRL_QP) 1 true ∨
          other.any (·.val == t)) then harvestFail n Code.REFUSED 0 s
      else
        let s := setR (Reg.PAN_SLOT_HARVESTED n) 0 (put Reg.HRV_STATUS F.HRV_STATUS_BUSY 1 s)
        pumpHarvest { s with harvest := some ⟨n, a, s.recsecOffset n, none, ts.map fun t => ⟨t, 0, [], none, false⟩⟩ }

/-- Whether a slot waits for its harvest. -/
def State.harvestable (s : State) (n : Nat) : Bool :=
  s.panSt n == PanSt.FULL && s.panBit n F.PAN_SLOT_STATUS_CKPT && !s.panBit n F.PAN_SLOT_STATUS_HRV_ACK &&
    s.fld (Reg.PAN_SLOT_STATUS n) F.PAN_SLOT_STATUS_HRV_CODE == 0 && !s.sandboxed n

/-- The waiting slot whose pan was taken first. -/
def State.nextHarvest (s : State) : Option Nat :=
  ((List.range s.panCount).filter s.harvestable).foldl
    (fun b n => match b with
      | none => some n
      | some m => if (s.panSlot n).order < (s.panSlot m).order then some n else some m) none

/-- HARVEST_START (R387): one at a time, the oldest first, while EN is 1. With none waiting nothing happens (log 6). -/
def execHarvestStart (other : List (Fin 8)) (s : State) : Outcome State Fault Refusal :=
  if !s.on Reg.HRV_CTRL F.HRV_CTRL_EN || s.harvest.isSome || s.fatal then .next s
  else match s.nextHarvest with
    | none => .next s
    | some n => .next (settle (startHarvest n other s))

/-- The position of target `t` in the harvest in progress. -/
def State.hrvPos (s : State) (t : Nat) : Option (Harvest × Nat × HrvTarget) :=
  match s.harvest with
  | none => none
  | some h => match h.targets.findIdx? (·.target = t) with
    | none => none
    | some i => match h.targets[i]? with
      | some x => some (h, i, x)
      | none => none

/-- The `i`-th target of the harvest replaced. -/
def setHrvTarget (h : Harvest) (i : Nat) (x : HrvTarget) (s : State) : State :=
  { s with harvest := some { h with targets := h.targets.set i x } }

/-- The oldest Write of a target fails, with the code of the failure: it is reissued, or ends the harvest (R390), as it
does in a sandbox, for which nothing is written (R442; DESIGN CHOICE, log 63). -/
def writeFailed (code : Nat) (h : Harvest) (i : Nat) (x : HrvTarget) (s : State) : State :=
  match x.opens with
  | [] => s
  | (j, tries) :: rest =>
    if s.fld Reg.HRV_CTRL F.HRV_CTRL_RETRY ≤ tries ∨ s.sandboxed h.slot then harvestFail h.slot code x.target s
    else sendStripe h i x.target j (bump Reg.HRV_RETRIES (setHrvTarget h i { x with opens := (j, tries + 1) :: rest } s))

/-- The Flush of a target fails. -/
def flushFailed (code : Nat) (h : Harvest) (i : Nat) (x : HrvTarget) (s : State) : State :=
  match x.flush with
  | none => s
  | some tries =>
    if s.fld Reg.HRV_CTRL F.HRV_CTRL_RETRY ≤ tries ∨ s.sandboxed h.slot then harvestFail h.slot code x.target s
    else sendNvme x.target 0 0 0 0 (bump Reg.HRV_RETRIES (setHrvTarget h i { x with flush := some (tries + 1) } s))

/-- HARVEST_WRITE_DONE (R390): the oldest Write of target `t` completes, or fails with an error status. -/
def execHarvestWriteDone (t : Fin 8) (ok : Bool) (s : State) : Outcome State Fault Refusal :=
  match s.hrvPos t.val with
  | none => .next s
  | some (h, i, x) =>
    match x.opens with
    | [] => .next s
    | (j, _) :: rest =>
      if !ok then .next (writeFailed Code.REFUSED h i x s)
      else
        let n := min 0x100000 (s.outBytes h.slot - (i + h.targets.length * j) * 0x100000)
        let r := Reg.PAN_SLOT_HARVESTED h.slot
        let s := bumpBy Reg.HRV_BYTES n (put r F.PAN_SLOT_HARVESTED_V (s.fld r F.PAN_SLOT_HARVESTED_V + n) s)
        .next (settle (pumpHarvest (setHrvTarget h i { x with opens := rest } s)))

/-- NVME_TIMEOUT (R390): the oldest command of target `t` has not completed within TIMEOUT_MS. -/
def execNvmeTimeout (t : Fin 8) (s : State) : Outcome State Fault Refusal :=
  match s.hrvPos t.val with
  | none => .next s
  | some (h, i, x) =>
    .next (if x.opens = [] then flushFailed Code.TIMEOUT h i x s else writeFailed Code.TIMEOUT h i x s)

/-- HARVEST_FLUSH_DONE (R391): with every target flushed the harvest is acknowledged. -/
def execHarvestFlushDone (t : Fin 8) (ok : Bool) (s : State) : Outcome State Fault Refusal :=
  match s.hrvPos t.val with
  | none => .next s
  | some (h, i, x) =>
    if x.flush = none then .next s
    else if !ok then .next (flushFailed Code.REFUSED h i x s)
    else
      let targets := h.targets.set i { x with flush := none, flushed := true }
      let h : Harvest := { h with targets := targets }
      .next (settle (pumpHarvest { s with harvest := some h }))

/-- HRV_RETRY (R390, R393): the harvest of the slot restarts from stripe 0 in the same area, at once where none runs. -/
def execHrvRetry (n : Fin 4) (other : List (Fin 8)) (s : State) : Outcome State Fault Refusal :=
  .next (settle (panCmd n.val
    (fun s => s.panBit n.val F.PAN_SLOT_STATUS_CKPT && !s.panBit n.val F.PAN_SLOT_STATUS_HRV_ACK &&
      s.fld (Reg.PAN_SLOT_STATUS n.val) F.PAN_SLOT_STATUS_HRV_CODE != Code.DONE)
    (fun s =>
      let s := put (Reg.PAN_SLOT_STATUS n.val) F.PAN_SLOT_STATUS_HRV_CODE Code.DONE s
      when (s.on Reg.HRV_CTRL F.HRV_CTRL_EN && s.harvest.isNone && !s.fatal && !s.sandboxed n.val) (startHarvest n.val other) s) s))

/-- HRV_WRITE (R396): but for EN, RATE and the protection bits, the settings are locked while a harvest runs. -/
def execHrvWrite (off : BitVec 12) (v : Word) (s : State) : Outcome State Fault Refusal :=
  let r := Reg.HRV_CTRL + off.toNat
  let busy := s.on Reg.HRV_STATUS F.HRV_STATUS_BUSY
  let locked := [F.HRV_CTRL_AREAS, F.HRV_CTRL_RETRY, F.HRV_CTRL_TIMEOUT_MS]
  if isCounter r then .next (counterWrite r v s)
  else if r = Reg.HRV_CTRL ∧ busy then
    let kept := locked.foldl (fun w f => w.put f (s.fld r f)) v
    .next (when (locked.any fun f => v.get f != s.fld r f) (badWrite r) (genericWrite r kept s))
  else if Reg.HRV_T_CTRL 0 ≤ r ∧ busy then .next (badWrite r s)
  else .next (genericWrite r v s)

end Sys2Proof.Machine
end

