-- ==== Sys2Proof/Machine/Host.lean ====
section
/-! DEFINITION. The commands of the host (chapter 17): doorbell pages (R502, R503), the host commands and how they end (R504 to R507,
R499), and what the outer ports bring (R529, R530). -/
namespace Sys2Proof.Machine

open Host (Outcome)

/-! ### Issue (R505, R506) -/

namespace HostOpc
def NOP : Nat := 0x00
def COPY_IN : Nat := 0x01
def COPY_OUT : Nat := 0x02
def WAKE : Nat := 0x03
def WRITE64 : Nat := 0x04
def NVME_READ : Nat := 0x05
end HostOpc

/-- The local address that DEV of a command names, where it leads to this device (R53). -/
def hostLocal (h : HostCmd) : Nat := bits h.dev.toNat 47 0

/-- Whether the queue of context `c` can issue its next command: it runs, a command is posted, fewer than eight are in progress, and the
completion ring has room for them all; a command with FENCE and a WAKE wait for every earlier one. -/
def State.hostCan (s : State) (c : Nat) (alone : Bool) : Bool :=
  let n := (s.hostQ c).ops.length
  s.qState c == QState.RUNNING && s.ctxState c == CtxState.ACTIVE && decide (0 < s.qWaiting c) && decide (n < 8) &&
    s.cqRoom c (n + 1) && (!alone || n == 0)

/-- Whether a queue that can issue whatever its next command is comes before the queue of context `c` in the round robin, which serves the
queues in ascending order from the one after that served last (DESIGN CHOICE, log 47). -/
def State.hostAhead (s : State) (c : Nat) : Bool :=
  let place (c : Nat) : Nat := (c + 4095 - s.hostTurn) % 4096
  s.path.clearing.isEmpty && s.anyReg fun off _ =>
    let d := (off - Reg.Q_STATUS 0) / 0x1000
    off == Reg.Q_STATUS d && decide (place d < place c) && s.hostCan d true

/-- Whether the queue of context `c` may issue its next command now: it can, and it is its turn. -/
def State.hostMay (s : State) (c : Nat) (alone : Bool) : Bool := s.hostCan c alone && !s.hostAhead c

/-- The next command of a queue is issued as `opc`: with a reserved code or an unused field it is refused under R24; else `act` does what
it does, and answers its code, once it has one, and the bytes moved. A queue that may not issue has no such event (log 6). -/
def issueHost (c opc len : Nat) (h : HostCmd) (ok : Bool) (act : State → State × Option Nat × Nat) (s : State) : State :=
  if !s.hostMay c (h.fence || opc == HostOpc.WAKE) then s
  else
    let st := Reg.Q_STATUS c
    let at' := s.fld st F.Q_STATUS_SQ_HEAD
    let head := (at' + 1) % s.qSize c
    let epoch := s.epoch c
    let s := put st F.Q_STATUS_SQ_HEAD head { s with hostTurn := c }
    let r := if ok then act s
      else (reservedCode .hif c (s.fld (Reg.Q_SQ_BASE c) F.Q_SQ_BASE_BASE * 4096 + 64 * at') s, some Code.REFUSED, 0)
    let op : HostOp := ⟨h.cid.toNat, opc, h.irq, head, r.2.1, r.2.2, hostLocal h, len, epoch⟩
    let x := r.1.hostQ c
    setHostQ c { x with ops := x.ops ++ [op] } r.1

/-- A device access of a host command: of its addresses only those of HBM are assigned (R505). -/
def hostAccess (c addr n : Nat) (write : Bool) (s : State) : State × Bool :=
  match s.target addr n with
  | .hbm a => contextAccess c (.hbm a) addr n write s
  | _ => (addressFault c addr s, false)

/-- The PASID of a context's host accesses. -/
def State.pasid (s : State) (c : Nat) : Nat := s.fld (Reg.CTX_HOST c) F.CTX_HOST_PASID

/-- Bytes written to HBM for command `cid` of a queue; where they wait, so does its completion (R235, R505). Answers its code. -/
def hostWrite (c cid addr : Nat) (data : List Byte) (epoch : Nat) (s : State) : State × Nat :=
  let (s, code, op) := asOp (hbmWrite false addr data 0 c epoch) s
  (match op with | some id => waitFor id none code (.host c cid) s | none => s, code)

/-- The device write of a host command: its code and the bytes moved. -/
def hostStore (c cid addr : Nat) (data : List Byte) (s : State) : State × Option Nat × Nat :=
  let r := hostWrite c cid addr data (s.epoch c) s
  (r.1, some r.2, if r.2 = Code.DONE then data.length else 0)

/-- COPY_IN: the access in host memory begins; with its LEN bytes at hand they are written, else the command waits for how it ends. -/
def doCopyIn (c : Nat) (h : HostCmd) (data : List Byte) (s : State) : State × Option Nat × Nat :=
  let (s, ok) := hostAccess c h.dev.toNat h.len.toNat true s
  if !ok then (s, some Code.REFUSED, 0)
  else
    let s := emit (.hostRead (s.pasid c) h.host.toNat h.len.toNat) s
    if data.length = h.len.toNat then hostStore c h.cid.toNat (hostLocal h) data (bumpBy Reg.HIF_H2D_BYTES data.length s)
    else (s, none, 0)

/-- COPY_OUT: poisoned data is not sent, and the command ends POISONED. -/
def doCopyOut (c : Nat) (h : HostCmd) (s : State) : State × Option Nat × Nat :=
  let n := h.len.toNat
  let (s, ok) := hostAccess c h.dev.toNat n false s
  if !ok then (s, some Code.REFUSED, 0)
  else
    let (s, data, bad) := hbmRead (hostLocal h) n 0 s
    if bad.isSome then (s, some Code.POISONED, 0)
    else (bumpBy Reg.HIF_D2H_BYTES n (emit (.hostWrite (s.pasid c) h.host.toNat data) s), some Code.DONE, n)

/-- WRITE64. -/
def doWrite64 (c : Nat) (h : HostCmd) (s : State) : State × Option Nat × Nat :=
  let (s, ok) := hostAccess c h.dev.toNat 8 true s
  if ok then hostStore c h.cid.toNat (hostLocal h) (bytesOf 8 h.len.toNat) s else (s, some Code.REFUSED, 0)

/-- NVME_READ: without a connected RC queue pair of USER DATA it is refused; else the Read leaves and its data is awaited. -/
def doNvmeRead (c : Nat) (h : HostCmd) (s : State) : State × Option Nat × Nat :=
  let n := (h.nlb.toNat + 1) * 4096
  let (s, ok) := hostAccess c h.dev.toNat n true s
  if !ok || !s.qpIs h.qp.toNat 2 true then (s, some Code.REFUSED, 0)
  else (emit (.nvme ⟨h.qp.toNat, 2, h.nsid.toNat, h.slba.toNat, h.nlb.toNat, hostLocal h⟩) s, none, 0)

/-- The NVMe fields of a command, all unused. -/
def noNvme (h : HostCmd) : Bool := h.qp == 0 && h.nlb == 0 && h.nsid == 0 && h.slba == 0

/-- NOP (R504). -/
def execNop (c : BitVec 12) (h : HostCmd) (s : State) : Outcome State Fault Refusal :=
  .next (settle (issueHost c.toNat HostOpc.NOP 0 h (!h.rsv && noNvme h && h.host == 0 && h.dev == 0 && h.len == 0)
    (fun s => (s, some Code.DONE, 0)) s))

/-- COPY_IN (R504, R505): LEN is 1 to 2^32. -/
def execCopyIn (c : BitVec 12) (h : HostCmd) (data : List Byte) (s : State) : Outcome State Fault Refusal :=
  .next (settle (issueHost c.toNat HostOpc.COPY_IN h.len.toNat h
    (!h.rsv && noNvme h && decide (1 ≤ h.len.toNat) && decide (h.len.toNat ≤ 2 ^ 32)) (doCopyIn c.toNat h data) s))

/-- COPY_OUT (R504, R505). While the pair of its source is being cleared its first access waits, so that it is not issued (R50, R506). -/
def execCopyOut (c : BitVec 12) (h : HostCmd) (s : State) : Outcome State Fault Refusal :=
  if s.rangeClears (hostLocal h) h.len.toNat then .next s
  else .next (settle (issueHost c.toNat HostOpc.COPY_OUT h.len.toNat h
    (!h.rsv && noNvme h && decide (1 ≤ h.len.toNat) && decide (h.len.toNat ≤ 2 ^ 32)) (doCopyOut c.toNat h) s))

/-- WAKE (R504, R487). -/
def execWake (c : BitVec 12) (h : HostCmd) (s : State) : Outcome State Fault Refusal :=
  .next (settle (issueHost c.toNat HostOpc.WAKE 0 h (!h.rsv && noNvme h && h.host == 0 && h.dev == 0 && h.len == 0)
    (fun s => (wakeContext c.toNat s, some Code.DONE, 0)) s))

/-- WRITE64 (R504): DEV is 8-byte aligned. -/
def execWrite64 (c : BitVec 12) (h : HostCmd) (s : State) : Outcome State Fault Refusal :=
  .next (settle (issueHost c.toNat HostOpc.WRITE64 0 h (!h.rsv && noNvme h && h.host == 0 && h.dev.toNat % 8 == 0)
    (doWrite64 c.toNat h) s))

/-- NVME_READ (R504, R505): DEV is 4 KiB aligned and NLB at most 255. -/
def execNvmeRead (c : BitVec 12) (h : HostCmd) (s : State) : Outcome State Fault Refusal :=
  .next (settle (issueHost c.toNat HostOpc.NVME_READ ((h.nlb.toNat + 1) * 4096) h
    (!h.rsv && h.host == 0 && h.len == 0 && h.dev.toNat % 4096 == 0 && decide (h.nlb.toNat ≤ 255)) (doNvmeRead c.toNat h) s))

/-! ### How commands end (R499, R505) -/

/-- Whether a device write of a command of a queue is not yet complete (R505). -/
def State.hostWaits (s : State) (c cid : Nat) : Bool := s.path.waiting.any fun w => w.what == .host c cid && s.opWaits w

/-- HOST_CMD_COMPLETE (R505): the oldest command has ended, and its completion entry is written, after its device writes are complete. -/
def execHostCmdComplete (c : BitVec 12) (s : State) : Outcome State Fault Refusal :=
  let c := c.toNat
  match (s.hostQ c).ops with
  | [] => .next s
  | op :: rest =>
    if op.code.isNone || s.hostWaits c op.cid then .next s
    else
      let s := writeCompletion c op s
      .next (flushEnd c (setHostQ c { s.hostQ c with ops := rest } s))

/-- The oldest command in progress with a CID. -/
def State.hostOp (s : State) (c cid : Nat) : Option HostOp := (s.hostQ c).ops.find? fun o => o.cid == cid && o.code.isNone

/-- A command in progress ends. -/
def endHostOp (c : Nat) (op : HostOp) (code bytes : Nat) (s : State) : State :=
  let x := s.hostQ c
  setHostQ c { x with ops := x.ops.map fun o => if o = op then { o with code := some code, bytes := bytes } else o } s

/-- A failed host-memory access (R499): the command ends, DMA_FAULT is set, and an entry is posted. -/
def dmaFailed (c : Nat) (op : HostOp) (code entry detail : Nat) (s : State) : State :=
  postContained entry .hif c detail (raise Reg.HIF_STATUS F.HIF_STATUS_DMA_FAULT (endHostOp c op code 0 s))

/-- The PCIe completion status of a host status. -/
def pcieStatus : HostStatus → Nat
  | .ok => 0 | .unsupported => 1 | .aborted => 4 | .poisoned => 0 | .nvmeError => 0

/-- HOST_COMPLETION (R499, R505): how a host-memory access of COPY_IN or an NVMe Read ended. A status that the command cannot have is no
event of it (log 6). -/
def execHostCompletion (c : BitVec 12) (cid : BitVec 16) (st : HostStatus) (s : State) : Outcome State Fault Refusal :=
  let c := c.toNat
  match s.hostOp c cid.toNat with
  | none => .next s
  | some op =>
    let nvme := op.opc == HostOpc.NVME_READ
    .next (match st with
      | .ok => when nvme (endHostOp c op Code.DONE op.len) s
      | .nvmeError => when nvme (endHostOp c op Code.REFUSED 0) s
      | .poisoned => when (!nvme) (fun s => settle (dmaFailed c op Code.POISONED 0x00C1 op.cid s)) s
      | .unsupported => when (!nvme) (fun s => settle (dmaFailed c op Code.REFUSED 0x00C0 (op.cid + (pcieStatus st) * 65536 + op.opc * 2 ^ 24) s)) s
      | .aborted => when (!nvme) (fun s => settle (dmaFailed c op Code.REFUSED 0x00C0 (op.cid + (pcieStatus st) * 65536 + op.opc * 2 ^ 24) s)) s)

/-- DMA_TIMEOUT (R499, R505): no completion within 50 ms; an NVMe Read without an answer ends likewise, with no entry. -/
def execDmaTimeout (c : BitVec 12) (cid : BitVec 16) (s : State) : Outcome State Fault Refusal :=
  let c := c.toNat
  match s.hostOp c cid.toNat with
  | none => .next s
  | some op =>
    if op.opc = HostOpc.NVME_READ then .next (endHostOp c op Code.TIMEOUT 0 s)
    else .next (settle (dmaFailed c op Code.TIMEOUT 0x00C0 (op.cid + op.opc * 2 ^ 24) s))

/-! ### Doorbell pages (R502, R503) -/

/-- A write into the doorbell page of context `c`. -/
def pageWrite (c o : Nat) (v : Word) (s : State) : State :=
  let off := Reg.DB_SQ_TAIL c + o
  if o = 0x000 then queueTail c v s
  else if o = 0x008 then queueHead c v s
  else if o = 0x010 then when (v.get F.DB_WAKE_WAKE == 1) (wakeContext c) s
  else if o = 0x018 then when (v.get F.DB_CTRL_FLUSH == 1) (flushQueue c) s
  else if o = 0x100 ∨ o = 0x108 ∨ o = 0x110 then queueConfig c off v s
  else genericWrite off v s

/-- DB_SQ_TAIL (R502, R505). -/
def execDbSqTail (c : BitVec 12) (v : Word) (s : State) : Outcome State Fault Refusal := .next (pageWrite c.toNat 0x000 v s)
/-- DB_CQ_HEAD (R502, R505). -/
def execDbCqHead (c : BitVec 12) (v : Word) (s : State) : Outcome State Fault Refusal := .next (pageWrite c.toNat 0x008 v s)
/-- FLUSH (R507, R509). -/
def execFlush (c : BitVec 12) (s : State) : Outcome State Fault Refusal := .next (pageWrite c.toNat 0x018 1 s)
/-- Q_CFG_WRITE (R503): a write to the queue's configuration, or elsewhere in its page. -/
def execQCfgWrite (c : BitVec 12) (off : BitVec 12) (v : Word) (s : State) : Outcome State Fault Refusal :=
  .next (pageWrite c.toNat off.toNat v s)

/-! ### Outer ports (R529, R530) -/

/-- The output of a harvest, as its Writes carry it (R397, R399). -/
def State.harvestOut (s : State) (h : Harvest) : List Byte :=
  let n := h.slot
  let list := s.listCopy n
  let data := (List.zip list (storedOffsets list panData).1).foldl
    (fun acc x => match x.2 with
      | some o => acc ++ List.replicate (o - acc.length) 0 ++ s.hbmPeek (s.panBase n + panData + field x.1 8 8) (regLen x.1)
      | none => acc) (s.storedHead n h.area h.targets.length)
  data ++ List.replicate (h.recsec - data.length) 0 ++ h.records.getD []

/-- Whether outer port `n` is up. -/
def State.portUp (s : State) (n : Nat) : Bool := s.on (Reg.HIF_ETH_STATUS n) F.HIF_ETH_STATUS_LINK_UP
/-- The byte counters of an outer port. -/
def txBytes (n : Nat) : Nat := if n = 0 then Reg.HIF_ETH0_TX_BYTES else Reg.HIF_ETH1_TX_BYTES
def rxBytes (n : Nat) : Nat := if n = 0 then Reg.HIF_ETH0_RX_BYTES else Reg.HIF_ETH1_RX_BYTES

/-- Whether a NVME_READ in progress awaits `n` bytes at `addr`. -/
def HostOp.awaits (o : HostOp) (addr n : Nat) : Bool :=
  o.opc == HostOpc.NVME_READ && o.code.isNone && decide (o.dev ≤ addr) && decide (addr + n ≤ o.dev + o.len)

/-- The NVME_READ that awaits bytes at an address, with its context. -/
def State.awaiting (s : State) (addr n : Nat) : Option (Nat × HostOp) :=
  s.hostQs.findSome? fun e => (e.2.ops.find? (·.awaits addr n)).map fun o => (e.1, o)

/-- Whether what a harvest or NVME_READ reads of the slot of `h` can be read now (R50, R221). -/
def State.slotServed (s : State) (h : Harvest) : Bool := !s.memRefuses && !s.rangeClears (s.panBase h.slot) s.panBytes

/-- RDMA_REQUEST_SERVED (R505, R529): the target of a harvest reads `data.length` bytes of its output, zeros beyond its end, or the target
of an NVME_READ writes data, which is dropped where the context's epoch has changed (R488). A request on a queue pair of another USER, or
that nothing awaits, is no such event, nor is a read while memory cannot give the slot (log 6). -/
def execRdmaRequestServed (n : Fin 2) (qp : BitVec 10) (isRead : Bool) (addr : Word) (data : List Byte) (s : State) :
    Outcome State Fault Refusal :=
  if !s.portUp n.val then .next s
  else if isRead then
    match s.harvest with
    | none => .next s
    | some h =>
      if !s.qpIs qp.toNat 1 true || !s.slotServed h then .next s
      else
        let out := (s.harvestOut h).drop addr.toNat
        let reply := (out ++ List.replicate data.length 0).take data.length
        .next (emit (.rdmaReply n.val qp.toNat reply) (bumpBy (txBytes n.val) data.length s))
  else
    match s.awaiting addr.toNat data.length with
    | none => .next s
    | some (c, o) =>
      if !s.qpIs qp.toNat 2 true then .next s
      else
        let s := bumpBy (rxBytes n.val) data.length s
        .next (if s.epoch c = o.epoch ∧ s.present c then settle (hostWrite c o.cid addr.toNat data o.epoch s).1 else s)

/-- ETH_FRAME (R529): frames of the management core are passed on, others dropped and counted. A port that is down receives none (log 6). -/
def execEthFrame (n : Fin 2) (k : EthKind) (len : Nat) (s : State) : Outcome State Fault Refusal :=
  if !s.portUp n.val then .next s
  else
    let s := bumpBy (rxBytes n.val) len s
    .next (if k = .other then bump Reg.HIF_ETH_DROPS s else emit (.ethToCore n.val k) s)

/-- The rate of a queue pair, in units of 2^-32 of the line rate. -/
def State.qpRate (s : State) (qp : Nat) : Nat := Store.lookup (fun _ => 2 ^ 32) s.mgmt.rates qp
def setQpRate (qp v : Nat) (s : State) : State :=
  { s with mgmt := { s.mgmt with rates := Store.update (fun _ => 2 ^ 32) s.mgmt.rates qp v } }

/-- CNP (R529): the queue pair halves its rate. -/
def execCnp (qp : BitVec 10) (s : State) : Outcome State Fault Refusal := .next (setQpRate qp.toNat (s.qpRate qp.toNat / 2) s)

/-- CNP_RATE_RECOVERY (R529): it regains 5 % of the line rate. -/
def execCnpRateRecovery (qp : BitVec 10) (s : State) : Outcome State Fault Refusal :=
  .next (setQpRate qp.toNat (min (2 ^ 32) (s.qpRate qp.toNat + 2 ^ 32 / 20)) s)

/-- OUTER_PORT_LINK (R529). -/
def execOuterPortLink (n : Fin 2) (up fec : Bool) (s : State) : Outcome State Fault Refusal :=
  let r := Reg.HIF_ETH_STATUS n.val
  .next (putB r F.HIF_ETH_STATUS_FEC_LOCK fec (putB r F.HIF_ETH_STATUS_LINK_UP up s))

/-- PFC_PAUSE_FRAME (R529): honoured while PFC_EN is 1. -/
def execPfcPauseFrame (n : Fin 2) (pause : Bool) (s : State) : Outcome State Fault Refusal :=
  .next (when (s.on Reg.HIF_CTRL F.HIF_CTRL_PFC_EN) (putB (Reg.HIF_ETH_STATUS n.val) F.HIF_ETH_STATUS_PFC_PAUSED pause) s)

/-- Whether a queue pair of USER HARVEST, DATA or COMET is in use (R530): by the harvest in progress, an NVME_READ in progress, or a valid
lane. -/
def State.qpInUse (s : State) : Bool :=
  s.harvest.isSome || (s.hostQs.any fun e => e.2.ops.any fun o => o.opc == HostOpc.NVME_READ && o.code.isNone) ||
    (List.range 64).any fun l => s.on (Reg.COM_LANE l) F.COM_LANE_VALID && s.qpIs (s.fld (Reg.COM_LANE l) F.COM_LANE_QP) 3 false

/-- A write to HIF_QPTAB (R530): it starts the copy of the table. -/
def loadQps (v : Word) (s : State) : State :=
  if s.qpInUse then badWrite Reg.HIF_QPTAB s
  else raise Reg.HIF_STATUS F.HIF_STATUS_QP_LOADING (genericWrite Reg.HIF_QPTAB v s)

/-- QPTAB_WRITE (R530). -/
def execQptabWrite (v : Word) (s : State) : Outcome State Fault Refusal := .next (loadQps v s)

/-- A queue-pair table read from HBM; a poisoned entry is not valid, nor is any entry of a table that memory cannot give. -/
def readQps (base n : Nat) (s : State) : State × List Byte :=
  if hbmEnd < base + 64 * n then (addressFault 4096 base s, List.replicate (64 * n) 0)
  else if s.memRefuses then (s, List.replicate (64 * n) 0)
  else (List.range n).foldl (fun (s, t) i =>
    let (s, d, p) := readLine (base + 64 * i) 0 s
    (s, t ++ (if p then List.replicate 64 0 else d))) (s, ([] : List Byte))

/-- QP_TABLE_LOADED (R530): the table on die is the one in HBM. With no copy running, or the pair of the table
being cleared (R50), there is no such event (log 6). -/
def execQpTableLoaded (s : State) : Outcome State Fault Refusal :=
  let base := s.fld Reg.HIF_QPTAB F.HIF_QPTAB_BASE * 64
  if !s.on Reg.HIF_STATUS F.HIF_STATUS_QP_LOADING || s.rangeClears base (64 * s.fld Reg.HIF_QPTAB F.HIF_QPTAB_COUNT) then .next s
  else
    let r := readQps (s.fld Reg.HIF_QPTAB F.HIF_QPTAB_BASE * 64) (s.fld Reg.HIF_QPTAB F.HIF_QPTAB_COUNT) s
    let s := put Reg.HIF_STATUS F.HIF_STATUS_QP_LOADING 0 r.1
    .next (settle { s with mgmt := { s.mgmt with qps := r.2 } })

end Sys2Proof.Machine
end

