-- ==== Sys2Proof/Machine/Replay.lean ====
section
/-! DEFINITION. Step records and replay (chapter 14, R437 to R447). -/
namespace Sys2Proof.Machine

open Host (Outcome)

/-! ### The window table (R440) -/

/-- Whether the domain is in IDLE, PAUSE or REPLAY. -/
def State.replayable (s : State) (d : Nat) : Bool := s.restful d || s.phase d == Phase.REPLAY

/-- A write to RPL_Dd_WIN (R440): the table is copied on die. -/
def winWrite (d : Nat) (v : Word) (s : State) : State :=
  let r := Reg.RPL_D_WIN d
  if s.replayable d then put (Reg.RPL_D_CTRL d) F.RPL_D_CTRL_LOADING 1 (genericWrite r v s) else badWrite r s

/-- RPL_WIN_WRITE (R440). -/
def execRplWinWrite (d : Fin 16) (v : Word) (s : State) : Outcome State Fault Refusal := .next (winWrite d.val v s)

/-- Whether a window entry's reserved fields are zero. -/
def windowOk (e : List Byte) : Bool :=
  bits (field e 16 2) 14 12 == 0 && field e 18 1 / 4 == 0 && field e 19 1 == 0 && field e 20 2 / 4096 == 0 && field e 22 10 == 0

/-- WIN_LOAD_DONE (R440): the valid windows of the table, or none with WIN_FAULT where a line is poisoned, a field reserved, or memory
refuses the table (R54, R221). While its pair is being cleared the copy waits (R50). -/
def execWinLoadDone (d : Fin 16) (s : State) : Outcome State Fault Refusal :=
  let d := d.val
  let c := Reg.RPL_D_CTRL d
  let n := s.fld (Reg.RPL_D_WIN d) F.RPL_D_WIN_COUNT
  let base := s.fld (Reg.RPL_D_WIN d) F.RPL_D_WIN_BASE
  let fail (s : State) : State :=
    raise Reg.RPL_STATUS F.RPL_STATUS_WIN_FAULT (setReplay d { s.replay d with windows := [], winBad := true } s)
  if !s.on c F.RPL_D_CTRL_LOADING || s.rangeClears base (32 * n) then .next s
  else
    let s := put c F.RPL_D_CTRL_LOADING 0 s
    if hbmEnd < base + 32 * n then .next (settle (addressFault 4096 base (fail s)))
    else if s.memRefuses then .next (fail s)
    else
      let (s, raw, bad) := hbmRead base (32 * n) 0 s
      let es := (List.range n).map fun i => (raw.drop (32 * i)).take 32
      let rsv := es.zipIdx.filter fun e => !windowOk e.1
      if bad.isSome then .next (settle (fail s))
      else if rsv ≠ [] then
        .next (settle (forEach rsv (fun e => reservedCode .rpl (field e.1 20 2 % 4096) (base + 32 * e.2)) (fail s)))
      else
        let ws := (es.filter fun e => bit (field e 16 2) 15).map fun e : List Byte =>
          (⟨field e 0 8, field e 8 8, field e 16 2 % 4096, field e 18 1, field e 20 2⟩ : FpWindow)
        .next (settle (setReplay d { s.replay d with windows := ws, winBad := false } s))

/-! ### Records (R437, R438, R441) -/

/-- One byte per layer: bit v says that version v is LIVE. -/
def State.liveBytes (s : State) : List Byte :=
  (List.range 4096).map fun l =>
    BitVec.ofNat 8 (((List.range 8).map fun v => if (s.version l v).state = VerSt.LIVE then 2 ^ v else 0).sum)

/-- The cursor record of domain `d` as a record holds it: zero when EN is 0. -/
def State.cursorBytes (s : State) (d : Nat) : List Byte :=
  match s.cursorAddr d with
  | some a => s.tableBytes a 32
  | none => List.replicate 32 0

/-- The reference record of domain `d`. -/
def State.refBase (s : State) (d : Nat) : Nat := s.fld (Reg.RPL_D_REF d) F.RPL_D_REF_ADDR * 64

/-- Whether the start state of domain `d` differs from the reference (R444): cursor, VALID generator states, LIVE bytes. -/
def State.startDiffers (s : State) (d : Nat) : Bool :=
  let r := s.refBase d
  let mine := s.generators d
  let ref := s.tableBytes (r + 0x200) 4608
  let gens := (List.range 144).any fun l =>
    let a := (mine.drop (32 * l)).take 32
    let b := (ref.drop (32 * l)).take 32
    (bit (field a 24 2) 15 || bit (field b 24 2) 15) && a != b
  s.cursorBytes d != s.tableBytes (r + 0x100) 32 || gens || s.liveBytes != s.tableBytes (r + 0x2000) 4096

/-- The start capture of domain `d` at its change to FLOW (R438), from phase `old`, and the start comparison (R444). -/
def startCapture (d old : Nat) (s : State) : State :=
  let res := Reg.RPL_D_RESULT d
  let s := if s.fld res F.RPL_D_RESULT_STATE = 1 then
      when (s.startDiffers d) (put res F.RPL_D_RESULT_START_MISMATCH 1) (put res F.RPL_D_RESULT_STATE 2 s)
    else s
  if !s.on (Reg.RPL_D_CTRL d) F.RPL_D_CTRL_EN then setReplay d { s.replay d with recording := false } s
  else
    let base := s.recordBase d (tideStep (s.tide d))
    let (s, rank) := ownRank d s
    let rerun := old = Phase.PAUSE ∨ old = Phase.REPLAY
    let flags := (if rerun then 8 else 0) + (if (s.replay d).winBad then 16 else 0)
    let head := List.replicate 8 0 ++ bytesOf 8 (s.tide d).toNat ++ bytesOf 2 s.deviceId ++ bytesOf 2 rank ++ bytesOf 1 d ++
      bytesOf 1 flags ++ List.replicate 10 0 ++ bytesOf 4 (s.modeGen d) ++ List.replicate 220 0
    let body := head ++ s.cursorBytes d ++ List.replicate 224 0 ++ s.generators d ++ List.replicate 3072 0 ++ s.liveBytes ++
      List.replicate 4096 0 ++ List.replicate 0x20000 0
    let body := body ++ List.replicate (0x40000 - body.length) 0
    setReplay d { s.replay d with recording := true } (unitWrite base body s)

/-- The record of domain `d` is closed at the fence (R441). -/
def closeRecord (d : Nat) (s : State) : State :=
  if !(s.replay d).recording then s
  else
    let step := tideStep (s.tide d)
    let base := s.recordBase d step
    let old := ofBytes (s.hbmPeek (base + 21) 1)
    let flags := old ||| 1 ||| (s.panFlags false)
    let s := unitWrite base (bytesOf 8 (tideWord step Phase.SEAL 0).toNat) s
    bump Reg.RPL_RECORDS (setReplay d { s.replay d with recording := false } (unitWrite (base + 21) (bytesOf 1 flags) s))

/-! ### Comparison (R444, R445) -/

/-- The tide of domain `d` enters REPLAY (R444). A reference record that does not lie in HBM posts ADDRESS_FAULT for no context (R54). -/
def enterReplay (d : Nat) (s : State) : State :=
  let res := Reg.RPL_D_RESULT d
  let c := Reg.RPL_D_CTRL d
  let s := setR res 0 s
  if !(s.on c F.RPL_D_CTRL_SANDBOX && s.on c F.RPL_D_CTRL_COMPARE) then s
  else
    let s := when (decide (hbmEnd < s.refBase d + 0x24000)) (addressFault 4096 (s.refBase d)) s
    let h := s.tableBytes (s.refBase d) 32
    let good := bit (field h 21 1) 0 && tideStep (BitVec.ofNat 64 (field h 8 8)) == tideStep (s.tide d)
    if good then put res F.RPL_D_RESULT_STATE 1 s else put res F.RPL_D_RESULT_REF_BAD 1 s

/-- The fingerprint words in the order of R445: field and layer. -/
def fingerprintOrder : List (Nat × Nat) :=
  (List.range 4096).map (fun l => (0, l)) ++ (List.range 4096).reverse.map (fun l => (1, l)) ++
    (List.range 4096).reverse.map (fun l => (2, l)) ++ (List.range 4096).map (fun l => (3, l))

/-- The comparison at the sandbox's fence (R445). -/
def compareRecord (d : Nat) (s : State) : State :=
  let res := Reg.RPL_D_RESULT d
  if s.fld res F.RPL_D_RESULT_STATE ≠ 2 then s
  else
    let mine := s.recordBase d (tideStep (s.tide d)) + 0x4000
    let ref := s.refBase d + 0x4000
    let diff := fingerprintOrder.filter fun w => s.tableBytes (mine + 32 * w.2 + 8 * w.1) 8 != s.tableBytes (ref + 32 * w.2 + 8 * w.1) 8
    let s := put res F.RPL_D_RESULT_MISMATCHES (min 0xFFFF diff.length) (put res F.RPL_D_RESULT_STATE 3 s)
    match diff with
    | [] => s
    | w :: _ => put res F.RPL_D_RESULT_FIRST_VALID 1 (put res F.RPL_D_RESULT_FIRST_FIELD w.1 (put res F.RPL_D_RESULT_FIRST_LAYER w.2 s))

/-! ### Registers (R447) -/

/-- RPL_CTRL_WRITE (R442, R447). A harvest that a sandbox has kept from writing goes on when its domain is none any more. -/
def execRplCtrlWrite (d : Fin 16) (off : BitVec 6) (v : Word) (s : State) : Outcome State Fault Refusal :=
  let d := d.val
  let c := Reg.RPL_D_CTRL d
  let r := c + off.toNat
  let held (f : Fld) (ok : Bool) : Bool := !ok && v.get f != s.fld c f
  if r = c then
    let hs := held F.RPL_D_CTRL_SANDBOX (s.restful d)
    let hc := held F.RPL_D_CTRL_COMPARE (s.replayable d)
    let w := if hs then keepFld c F.RPL_D_CTRL_SANDBOX v s else v
    let w := if hc then keepFld c F.RPL_D_CTRL_COMPARE w s else w
    .next (settle (pumpHarvest (when (hs || hc) (badWrite c) (genericWrite c w s))))
  else if r = Reg.RPL_D_WIN d then .next (winWrite d v s)
  else if r = Reg.RPL_D_RING d ∨ r = Reg.RPL_D_REF d then .next (writeIf (s.replayable d) r v s)
  else .next (genericWrite r v s)

end Sys2Proof.Machine
end

