-- ==== Sys2Proof/Machine/Tide.lean ====
section
/-! DEFINITION. The tide unit (chapter 02): readiness (R79 to R83), one change of tide (R89) with its mode changes (R95), fence, event
slots (R86 to R88) and what the other units do at it; advances of the root (R65 to R70, R94), PAUSE (R67, R76, R77), and the
two-phase mode change (R91 to R98). `wr` is the register write that a REGISTER_SET record makes. -/
namespace Sys2Proof.Machine

/-- A register write: offset, value. -/
abbrev Writer := Nat → Word → State → State

namespace Role
def OFF : Nat := 0
def MEMBER : Nat := 1
def ROOT : Nat := 2
end Role

namespace ModeSt
def NONE : Nat := 0
def ARMED : Nat := 1
def COMMITTED : Nat := 2
end ModeSt

/-! ### Neighbours -/

def State.parentValid (s : State) (d : Nat) : Bool := s.on (Reg.TIDE_PARENT d) F.TIDE_PARENT_VALID && !(s.dom d).lostParent
/-- Valid children, and those not declared lost. -/
def State.children (s : State) (d : Nat) : List Nat := (List.range 7).filter fun c => s.on (Reg.TIDE_CHILD d c) F.TIDE_CHILD_VALID
def State.liveChildren (s : State) (d : Nat) : List Nat :=
  (s.children d).filter fun c => !bit (s.fld (Reg.TIDE_DSTATUS d) F.TIDE_DSTATUS_LOST_CHILD) c

/-- A frame to every valid child (R63, R72). -/
def toChildren (d : Nat) (f : Frame) (s : State) : State :=
  forEach (s.children d) (fun c s => frameOut (s.fld (Reg.TIDE_CHILD d c) F.TIDE_CHILD_PORT) f s) s

/-- A frame to the parent. -/
def toParent (d : Nat) (f : Frame) (s : State) : State :=
  when (s.parentValid d) (frameOut (s.fld (Reg.TIDE_PARENT d) F.TIDE_PARENT_PORT) f) s

/-! ### Readiness (R68, R79) -/

/-- The NEXT_PHASE successor of a domain's tide; REPLAY has none (R68). -/
def State.successor (s : State) (d : Nat) : Option Word :=
  let v := s.tide d
  let n := tideStep v
  match tidePhase v with
  | 0 => some (tideWord n Phase.FLOW 0)
  | 1 => some (tideWord n Phase.DRAIN 0)
  | 2 => some (tideWord n Phase.UPDATE 0)
  | 3 => some (tideWord n Phase.SEAL 0)
  | 4 => some (if outerStep (s.outerEvery d) n then tideWord n Phase.OUTER 0 else tideWord (n + 1) Phase.FLOW 0)
  | 5 => some (tideWord (n + 1) Phase.FLOW 0)
  | 6 => some (tideWord n (tideTick v % 256) 0)
  | _ => none

/-- The gate byte of a phase code. -/
def State.gateByte (s : State) (d p : Nat) : Nat := bits (s.reg (Reg.TIDE_GATE d)).toNat (8 * p + 7) (8 * p)

/-- Whether this device is locally ready for `v` (R79). -/
def State.localReady (s : State) (d : Nat) (v : Word) : Bool :=
  let g := s.gateByte d (tidePhase v)
  (!bit g 0 || decide (v.toNat ≤ (s.reg (Reg.TIDE_READY d)).toNat)) && (!bit g 1 || s.stagesEmpty d) &&
    (!bit g 2 || s.redDone d (tideStep v)) && (!bit g 3 || s.updDone d (tideStep v)) && (!bit g 4 || s.panReady d)

/-- SELF_READY: locally ready for the successor value. -/
def State.selfReady (s : State) (d : Nat) : Bool :=
  match s.successor d with
  | some v => s.role d != Role.OFF && s.localReady d v
  | none => false

/-- Every child not declared lost has sent READY(v) (R80, R81). -/
def State.childrenReady (s : State) (d : Nat) (v : Word) : Bool :=
  (s.liveChildren d).all fun c => (s.dom d).childReady.contains (c, v)

/-- The pending advance, shown in PENDING. -/
def setPending (d : Nat) (p : Option Pending) (s : State) : State :=
  putB (Reg.TIDE_DSTATUS d) F.TIDE_DSTATUS_PENDING p.isSome (setDom d { s.dom d with pending := p } s)

/-! ### Mode records (R91 to R98) -/

def State.modeState (s : State) (d : Nat) : Nat := s.fld (Reg.TIDE_MODE_STATUS d) F.TIDE_MODE_STATUS_STATE
def setModeState (d v : Nat) (s : State) : State := put (Reg.TIDE_MODE_STATUS d) F.TIDE_MODE_STATUS_STATE v s
def setGen (d v : Nat) (s : State) : State := put (Reg.TIDE_MODE_STATUS d) F.TIDE_MODE_STATUS_GEN v s
/-- COMPLETION of the root's mode command. -/
def modeDone (d code : Nat) (s : State) : State :=
  when (s.role d == Role.ROOT) (put (Reg.TIDE_MODE_STATUS d) F.TIDE_MODE_STATUS_COMPLETION code) s

/-- A further command completes: while a change is armed or committed, COMPLETION keeps DEFERRED until that ARM completes (R91). -/
def modeAnswer (d code : Nat) (s : State) : State := when (s.modeState d == ModeSt.NONE) (modeDone d code) s

/-- The bytes of a record, its T, KIND and GEN. -/
def recBytes (r : List Word) : List Byte := r.flatMap fun w => bytesOf 8 w.toNat
def recT (r : List Word) : Word := r.headD 0
def recKind (r : List Word) : Nat := field (recBytes r) 8 1
def recGen (r : List Word) : Nat := field (recBytes r) 12 4
/-- The used entries of a REGISTER_SET record: offset and value. -/
def recSets (r : List Word) : List (Nat × Word) :=
  ((List.range 4).map fun i => (field (recBytes r) (16 + 12 * i) 4, BitVec.ofNat 64 (field (recBytes r) (20 + 12 * i) 8))).filter
    (·.1 ≠ 0xFFFFFFFF)

/-- Whether a register is assigned and writable (R92). -/
def isWritable (off : Nat) : Bool :=
  match rowOf off with
  | some r => off % 8 == 0 && (r.counter || r.fields.any fun f => f.acc != Acc.ro)
  | none => false

/-- Whether this device's units accept a record of domain `d` (R92); a RANK_MAP_SELECT is refused in phased mode (R286). -/
def recAccepted (d : Nat) (r : List Word) (s : State) : Bool :=
  match recKind r with
  | 1 => decide (field (recBytes r) 16 1 ≤ 1) && !s.on (Reg.FAB_RMAP_CTRL d) F.FAB_RMAP_CTRL_PHASED
  | 2 => (recSets r).all fun e => isWritable e.1
  | 3 => true
  | _ => false

/-- A record takes effect on this device (R95). -/
def applyRecord (wr : Writer) (d : Nat) (r : List Word) (s : State) : State :=
  match recKind r with
  | 1 => put (Reg.FAB_RMAP_CTRL d) F.FAB_RMAP_CTRL_CURRENT (field (recBytes r) 16 1) s
  | 2 => forEach (recSets r) (fun e s => wr e.1 e.2 s) s
  | 3 => wr Reg.FAB_INJ_ENABLE (BitVec.ofNat 64 (field (recBytes r) 16 4)) s
  | _ => s

/-- The record is gone. -/
def clearMode (d : Nat) (s : State) : State :=
  setModeState d ModeSt.NONE (setDom d { s.dom d with record := none, acked := [], ackSent := false, raised := false } s)

/-- ABORT on this device (R95, R98): the record is discarded, and a generation raised on its COMMIT returns. -/
def abortLocal (d : Nat) (s : State) : State :=
  let x := s.dom d
  clearMode d (when x.raised (setGen d x.genBefore) s)

/-- The root ends a mode change with ABORT; the command completes with `code`. -/
def abortMode (d code : Nat) (s : State) : State :=
  let s := bump (Reg.TIDE_ABORT_COUNT d) (abortLocal d s)
  modeDone d code (toChildren d (.abort d) s)

/-- This device becomes stale in a domain (R96). -/
def becomeStale (d : Nat) (s : State) : State :=
  if s.on (Reg.TIDE_DSTATUS d) F.TIDE_DSTATUS_STALE then s
  else
    let s := put (Reg.TIDE_DSTATUS d) F.TIDE_DSTATUS_STALE 1 s
    let s := postCorrected 0x0021 .tide none (some d) (d * 2 ^ 16 + s.modeGen d * 2 ^ 32) s
    if s.role d = Role.ROOT then
      raise (Reg.TIDE_DSTATUS d) F.TIDE_DSTATUS_STALE_SEEN (setDom d { s.dom d with staleDevs := insertMark s.deviceId (s.dom d).staleDevs } s)
    else toParent d (.stale d s.deviceId) s

/-- Step 1 of R89: a committed change that the tide has reached is applied; an armed one without COMMIT leaves a member stale. -/
def modeAtTide (wr : Writer) (d : Nat) (s : State) : State :=
  match (s.dom d).record with
  | none => s
  | some r =>
    if !reached (s.tide d) (recT r) then s
    else if s.modeState d = ModeSt.COMMITTED then
      modeDone d Code.DONE (applyRecord wr d r (clearMode d s))
    else if s.role d = Role.MEMBER then becomeStale d (clearMode d s)
    else clearMode d s

/-! ### Event slots (R86 to R88) -/

/-- The actions of a slot or a timer (R89's table). Answers whether the root must enter PAUSE. -/
def doActions (d acts arg : Nat) (s : State) : State × Bool :=
  let s := when (bit acts 0) (fun s => sendMsix (s.fld (Reg.TIDE_CTRL d) F.TIDE_CTRL_FUNC) (arg % 2048) s) s
  let s := when (bit acts 1) (checkpointDue d) s
  let s := when (bit acts 2) retireVersions s
  let s := when (bit acts 3) (comOuterStart d) s
  (s, bit acts 4 && s.role d == Role.ROOT)

/-- Slot `k` fires (R86). -/
def fireSlot (d k : Nat) (s : State) : State × Bool :=
  let r := Reg.TIDE_SLOT_CTRL d k
  let s := put r F.TIDE_SLOT_CTRL_ENABLE 0 (put r F.TIDE_SLOT_CTRL_FIRED 1 s)
  doActions d (s.fld r F.TIDE_SLOT_CTRL_ACTIONS) (s.fld r F.TIDE_SLOT_CTRL_ARG) s

/-- Slot `k` is suppressed (R87, R372). -/
def suppressSlot (d k : Nat) (s : State) : State :=
  let r := Reg.TIDE_SLOT_CTRL d k
  panSuppressed d k (raise Reg.TIDE_STATUS F.TIDE_STATUS_MULTI_MATCH
    (put r F.TIDE_SLOT_CTRL_ENABLE 0 (put r F.TIDE_SLOT_CTRL_SUPPRESSED 1 s)))

/-- Whether slot `k` is enabled and its VALUE reached. -/
def State.slotReached (s : State) (d k : Nat) : Bool :=
  s.on (Reg.TIDE_SLOT_CTRL d k) F.TIDE_SLOT_CTRL_ENABLE && reached (s.tide d) (s.reg (Reg.TIDE_SLOT_VALUE d k))

/-- A list of slots with their values put in ascending order of value, then of index. -/
def insertSlot (e : Nat × Nat) : List (Nat × Nat) → List (Nat × Nat)
  | [] => [e]
  | f :: l => if e.1 < f.1 ∨ (e.1 = f.1 ∧ e.2 ≤ f.2) then e :: f :: l else f :: insertSlot e l

/-- Step 3 of R89: the reached slots fire in ascending order of VALUE, the lowest of equal ones alone. -/
def fireSlots (d : Nat) (s : State) : State × Bool :=
  let ks := (List.range 256).filter (s.slotReached d)
  let es := (ks.map fun k => ((s.reg (Reg.TIDE_SLOT_VALUE d k)).toNat, k)).foldr insertSlot []
  es.foldl (fun (s, pause) e =>
    if es.any fun f => f.1 = e.1 ∧ f.2 < e.2 then (suppressSlot d e.2 s, pause)
    else let (s, p) := fireSlot d e.2 s; (s, pause || p)) (s, false)

/-! ### One change of tide (R89) -/

/-- What the units do when a domain leaves PAUSE or REPLAY (R330, R342, R429). -/
def leaveExcursion (d : Nat) (old : Word) (s : State) : State :=
  let s := resetRuns d (discardReds d (some (tideStep old)) s)
  when (tidePhase old == Phase.PAUSE) (fun s =>
    forEach (List.range s.panCount) (fun n s => when (s.panDom n == d && s.panReleasable n) (freeSlot n) s) s) s

/-- Step 2 of R89: the fence (R82, R344, R309, R441, R445, R457, R469, R512, R528). -/
def fence (d acts arg : Nat) (s : State) : State × Bool :=
  let s := bump (Reg.TIDE_FENCE_COUNT d) s
  let s := publishVersions d (sealRuns d (comSeal d s))
  let s := comFence d (compareRecord d (closeRecord d s))
  doActions d acts arg (telemFence d (fwClear d s))

/-- Entering PAUSE ends a mode change (R77): at the root with ABORT down the tree and REFUSED, at a member by discarding the record and the
generation raised on its COMMIT. A committed change whose T is that very PAUSE value is ended too, before the tide changes (DESIGN CHOICE,
log 66: R98 and R95 would both fit). -/
def cancelMode (d : Nat) (s : State) : State :=
  if s.modeState d = ModeSt.NONE then s
  else if s.role d = Role.ROOT then abortMode d Code.REFUSED s else abortLocal d s

/-- The tide of domain `d` changes to `v` on this device, in the order of R89; `acts` and `arg` come with a fence. Answers whether the
root must enter PAUSE afterwards. -/
def changeTide (wr : Writer) (d : Nat) (v : Word) (acts arg : Nat) (s : State) : State × Bool :=
  let old := s.tide d
  let p := tidePhase v
  let moved := decide (tidePhase old ≠ p)
  let s := when (moved && p == Phase.PAUSE) (cancelMode d) s
  let s := setR (Reg.TIDE_VALUE d) v s
  let s := when moved (takePhaseSlot d) s
  let s := modeAtTide wr d s
  let s := when (moved && (tidePhase old == Phase.PAUSE || tidePhase old == Phase.REPLAY)) (leaveExcursion d old) s
  let s := when (moved && p == Phase.PAUSE) (stopRuns d) s
  let s := when (moved && p == Phase.REPLAY) (enterReplay d) s
  let s := when (p == Phase.UPDATE && (moved || tideStep old != tideStep v)) (scheduleRuns d) s
  let s := when (p == Phase.IDLE || p == Phase.PAUSE) (fwClear d) s
  let (s, pause1) := if p = Phase.SEAL then fence d acts arg s else (s, false)
  let (s, pause2) := fireSlots d s
  let s := when (p == Phase.SEAL) (panFence d) s
  let s := when (moved && p == Phase.FLOW) (startCapture d (tidePhase old)) s
  let s := when (moved && p == Phase.OUTER) (comEnterOuter d (tideStep v)) s
  (s, pause1 || pause2)

/-- PAUSE is entered (R67, R76, R77): a pending advance is cancelled, a mode change ends, and, unless the domain is paused already,
the value goes to the children and the tide changes. -/
def enterPause (wr : Writer) (d : Nat) (s : State) : State :=
  let s := cancelMode d (setPending d none s)
  let old := s.tide d
  if tidePhase old = Phase.PAUSE then s
  else
    let v := tideWord (tideStep old) Phase.PAUSE (tidePhase old)
    (changeTide wr d v 0 0 (toChildren d (.tide d v 0 0) s)).1

/-- A change of tide, with the PAUSE that an event action may ask of the root. -/
def applyTide (wr : Writer) (d : Nat) (v : Word) (acts arg : Nat) (s : State) : State :=
  let (s, pause) := changeTide wr d v acts arg s
  when pause (enterPause wr d) s

/-! ### Advances of the root (R65 to R70, R81, R94) -/

/-- A refused advance or command of the tide unit. -/
def tideBad (s : State) : State := raise Reg.TIDE_STATUS F.TIDE_STATUS_BAD_WRITE s

/-- The root advances: it broadcasts the value, with a due timer's actions at a fence (R90), and its own tide changes. -/
def broadcast (wr : Writer) (d : Nat) (v : Word) (since : Nat) (s : State) : State :=
  let isFence := tidePhase v == Phase.SEAL
  let due := isFence && (s.dom d).timerDue
  let t := Reg.TIDE_TIMER_ACT d
  let acts := if due then s.fld t F.TIDE_TIMER_ACT_ACTIONS else 0
  let arg := if due then s.fld t F.TIDE_TIMER_ACT_ARG else 0
  let s := setPending d none s
  let s := when due (fun s => setDom d { s.dom d with timerDue := false } s) s
  let s := when isFence (put (Reg.TIDE_FENCE_WAIT d) F.TIDE_FENCE_WAIT_WAIT_NS (min 0xFFFFFFFF ((s.now - since) * 1000))) s
  applyTide wr d v acts arg (toChildren d (.tide d v acts arg) s)

/-- The root is about to advance to `v` (R94): a change that is armed ends with ABORT and TIMEOUT; one committed less than two
microseconds before makes the advance wait. -/
def rootAdvance (wr : Writer) (d : Nat) (v : Word) (since : Nat) (s : State) : State :=
  match (s.dom d).record with
  | none => broadcast wr d v since s
  | some r =>
    if !reached v (recT r) then broadcast wr d v since s
    else if s.modeState d = ModeSt.ARMED then broadcast wr d v since (abortMode d Code.TIMEOUT s)
    else if s.now < (s.dom d).commitUs + 2 then setPending d (some ⟨v, false, since⟩) s
    else broadcast wr d v since s

/-- An advance that would increase STEP at its maximum is refused (R69). -/
def tideEnd (d : Nat) (s : State) : State :=
  let first := !(s.dom d).endPosted
  let s := raise (Reg.TIDE_DSTATUS d) F.TIDE_DSTATUS_TIDE_END (setDom d { s.dom d with endPosted := true } s)
  when first (postCorrected 0x0022 .tide none (some d) (d * 2 ^ 16)) s

/-- An advance to `v` is requested at the root: refused at the end of STEP, held while gated, else made (R69, R78). -/
def requestTo (wr : Writer) (d : Nat) (v : Option Nat) (gated : Bool) (s : State) : State :=
  match v with
  | none => tideEnd d s
  | some n =>
    let w : Word := BitVec.ofNat 64 n
    if gated then setPending d (some ⟨w, true, s.now⟩) s else rootAdvance wr d w s.now s

/-- Whether NEXT_PHASE from the tide would raise STEP past its maximum. -/
def State.stepEnds (s : State) (d : Nat) : Bool :=
  let v := s.tide d
  tideStep v == 0xFFFFFFFFFF && ((tidePhase v == Phase.SEAL && !outerStep (s.outerEvery d) (tideStep v)) || tidePhase v == Phase.OUTER)

/-- NEXT_PHASE at the root (R68, R78). `refuse` is what a refusal does. -/
def nextPhase (wr : Writer) (d : Nat) (s : State) : State :=
  match s.successor d with
  | none => tideBad s
  | some v =>
    let gated := bit (s.gateByte d (tidePhase v)) 7
    requestTo wr d (if s.stepEnds d then none else some v.toNat) gated s

/-- A write to TIDE_Dn_ADVANCE: only at a root with no advance pending (R66, R70). -/
def advanceBy (d : Nat) (f : State → State) (s : State) : State :=
  if s.role d ≠ Role.ROOT ∨ (s.dom d).pending.isSome then tideBad s else f s

/-- Whether SET may take the tide to `v` (R66 and its excursion rule). -/
def setAllowed (cur v : Word) : Bool :=
  let p := tidePhase v
  if 7 < p ∨ p = Phase.SEAL then false
  else if (p = Phase.PAUSE ∨ p = Phase.REPLAY) ∧ tideStep v ≠ tideStep cur then false
  else if tidePhase cur = Phase.IDLE ∨ tidePhase cur = Phase.PAUSE ∨ tidePhase cur = Phase.REPLAY then
    decide (tideStep cur ≤ tideStep v)
  else decide (cur.toNat < v.toNat)

/-- SET at the root (R66, R67). -/
def setTide (wr : Writer) (d : Nat) (s : State) : State :=
  let v := s.reg (Reg.TIDE_TARGET d)
  if tidePhase v = Phase.PAUSE ∧ tidePhase (s.tide d) = Phase.PAUSE ∧ tideStep v = tideStep (s.tide d) then enterPause wr d s
  else if !setAllowed (s.tide d) v then tideBad s
  else if tidePhase v = Phase.PAUSE then enterPause wr d s
  else requestTo wr d (some v.toNat) false s

/-- NEXT_TICK at the root (R65, R66). -/
def nextTick (wr : Writer) (d : Nat) (s : State) : State :=
  let v := s.tide d
  if tideTick v = 0xFFFF then tideBad s else requestTo wr d (some (v.toNat + 1)) false s

/-- GATED_ADVANCE (R81): the root broadcasts a pending gated advance once it and every live child are ready. -/
def gatedAdvance (wr : Writer) (d : Nat) (s : State) : State :=
  match (s.dom d).pending with
  | none => s
  | some p =>
    if p.gated && s.role d == Role.ROOT && s.localReady d p.value && s.childrenReady d p.value then
      rootAdvance wr d p.value p.atUs (setPending d none s)
    else s

/-- MODE_HOLD_RELEASE (R94). -/
def holdRelease (wr : Writer) (d : Nat) (s : State) : State :=
  match (s.dom d).pending with
  | some p => if p.gated then s else broadcast wr d p.value p.atUs s
  | none => s

/-- An edge of TIDE_IN (R65, R70, R71). -/
def tideIn (wr : Writer) (level : Bool) (s : State) : State :=
  let was := s.pins.tideIn
  let s := { s with pins := { s.pins with tideIn := level } }
  let r := Reg.TIDE_PIN_CTRL
  let active := level != s.on r F.TIDE_PIN_CTRL_EDGE
  let d := s.fld r F.TIDE_PIN_CTRL_DOMAIN
  if was == level || !s.on r F.TIDE_PIN_CTRL_EN || !active then s
  else if s.role d ≠ Role.ROOT then bump Reg.TIDE_PIN_DROP s
  else if (s.dom d).pending.isSome then bump Reg.TIDE_PIN_DROP (raise Reg.TIDE_STATUS F.TIDE_STATUS_PIN_OVERRUN s)
  else nextPhase wr d s

/-! ### Values, readiness and notices on the tree -/

/-- A member receives a value from its parent (R63, R64, R82): forwarded, then adopted. -/
def receiveTide (wr : Writer) (d : Nat) (v : Word) (acts arg : Nat) (s : State) : State :=
  if s.role d ≠ Role.MEMBER ∨ !s.parentValid d then s
  else
    let s := toChildren d (.tide d v acts arg) s
    if v = s.tide d then s else applyTide wr d v acts arg s

/-- Whether a value can still be reached: STEP never goes back (R66). -/
def State.mayCome (s : State) (d : Nat) (v : Word) : Bool := decide (tideStep (s.tide d) ≤ tideStep v)

/-- READY(v) goes to the parent (R80, R83), at most once for each v. -/
def sendReady (d : Nat) (s : State) : State :=
  match s.successor d with
  | none => s
  | some v =>
    let x := s.dom d
    if s.role d == Role.MEMBER && s.parentValid d && !s.on (Reg.TIDE_DSTATUS d) F.TIDE_DSTATUS_STALE && !x.readySent.contains v &&
        s.localReady d v && s.childrenReady d v && !s.fatal then
      toParent d (.ready d v) (setDom d { x with readySent := v :: x.readySent.filter (s.mayCome d) } s)
    else s

/-- READY(v) from child `c` (R80): it is kept as long as v can be a successor. -/
def receiveReady (d c : Nat) (v : Word) (s : State) : State :=
  let x := s.dom d
  setDom d { x with childReady := x.childReady.filter (fun e => e != (c, v) && s.mayCome d e.2) ++ [(c, v)] } s

/-- A LOST notice is forwarded toward the root, which records it and pauses (R76). -/
def receiveLost (wr : Writer) (d dev : Nat) (s : State) : State :=
  if s.role d = Role.ROOT then
    let s := raise (Reg.TIDE_DSTATUS d) F.TIDE_DSTATUS_LOST_SEEN s
    when (s.on (Reg.TIDE_CTRL d) F.TIDE_CTRL_AUTO_PAUSE) (enterPause wr d) s
  else when (s.role d == Role.MEMBER) (toParent d (.lost d dev)) s

/-! ### The two-phase mode change -/

/-- COMMIT on this device: the generation rises to GEN (R93). -/
def commitLocal (d gen : Nat) (s : State) : State :=
  let x := s.dom d
  let s := setDom d { x with genBefore := s.modeGen d, raised := true, commitUs := s.now } s
  setGen d gen (setModeState d ModeSt.COMMITTED s)

/-- Once this device is armed and every live child has acknowledged, the root commits, and a member acknowledges (R92, R93). -/
def gatherAcks (d : Nat) (s : State) : State :=
  let x := s.dom d
  if s.modeState d ≠ ModeSt.ARMED ∨ x.ackSent ∨ !(s.liveChildren d).all x.acked.contains then s
  else
    let s := setDom d { x with ackSent := true } s
    if s.role d = Role.ROOT then commitLocal d ((x.record.map recGen).getD 0) (toChildren d (.commit d) s) else toParent d (.ack d) s

/-! ### Neighbours lost (R75, R76) -/

/-- NEIGHBOUR_LOST (R75, R76): a child is reported and waited for no more, which can complete the acknowledgements of a mode change (R92,
R93); without its parent this device pauses. -/
def loseNeighbour (wr : Writer) (d : Nat) (child : Option Nat) (s : State) : State :=
  let st := Reg.TIDE_DSTATUS d
  if s.role d = Role.OFF then s
  else match child with
    | some c =>
      let e := Reg.TIDE_CHILD d c
      let lost := s.fld st F.TIDE_DSTATUS_LOST_CHILD
      if !s.on e F.TIDE_CHILD_VALID || bit lost c then s
      else
        let dev := s.fld e F.TIDE_CHILD_DEVICE
        let s := postCorrected 0x0020 .tide none (some d) (dev + d * 2 ^ 16) s
        let s := put st F.TIDE_DSTATUS_LOST_CHILD (lost ||| 2 ^ c) s
        if s.role d = Role.ROOT then
          gatherAcks d (when (s.on (Reg.TIDE_CTRL d) F.TIDE_CTRL_AUTO_PAUSE) (enterPause wr d) s)
        else gatherAcks d (toParent d (.lost d dev) s)
    | none =>
      if !s.parentValid d then s
      else
        let s := postCorrected 0x0020 .tide none (some d) (s.fld (Reg.TIDE_PARENT d) F.TIDE_PARENT_DEVICE + d * 2 ^ 16) s
        let s := raise st F.TIDE_DSTATUS_PARENT_LOST (setDom d { s.dom d with lostParent := true } s)
        enterPause wr d s

/-! ### Mode commands of the root (R91, R97, R98) -/

/-- Armed with a record. -/
def armLocal (d : Nat) (r : List Word) (s : State) : State :=
  setModeState d ModeSt.ARMED (setDom d { s.dom d with record := some r, acked := [], ackSent := false, raised := false } s)

/-- The record that MODE_REC holds. -/
def State.modeRecord (s : State) (d : Nat) : List Word := (List.range 8).map fun i => s.reg (Reg.TIDE_MODE_REC d i)

/-- ARM at the root (R91). -/
def modeArm (d : Nat) (s : State) : State :=
  let gen := (s.modeGen d + 1) % 2 ^ 32
  let r0 := s.modeRecord d
  if s.modeState d ≠ ModeSt.NONE ∨ (recT r0).toNat ≤ (s.tide d).toNat ∨ !recAccepted d r0 s then modeAnswer d Code.REFUSED s
  else
    let s := put (Reg.TIDE_MODE_REC d 1) ⟨63, 32⟩ gen s
    let r := s.modeRecord d
    gatherAcks d (toChildren d (.arm d r) (modeDone d Code.DEFERRED (armLocal d r s)))

/-- CANCEL at the root (R98). -/
def modeCancel (d : Nat) (s : State) : State :=
  match s.modeState d with
  | 1 => abortMode d Code.REFUSED s
  | 2 => tideBad s
  | _ => modeDone d Code.REFUSED s

/-- REARM on the named device (R97). -/
def rearmLocal (wr : Writer) (d : Nat) (r : List Word) (s : State) : State :=
  if !s.on (Reg.TIDE_DSTATUS d) F.TIDE_DSTATUS_STALE then s
  else put (Reg.TIDE_DSTATUS d) F.TIDE_DSTATUS_STALE 0 (setGen d (recGen r) (applyRecord wr d r (clearMode d s)))

/-- REARM at the root (R97). A device is stale to the root once its STALE notice has come, and the command completes with DONE as it is
written (DESIGN CHOICE, log 67). -/
def modeRearm (wr : Writer) (d dev : Nat) (s : State) : State :=
  let x := s.dom d
  let r := s.modeRecord d
  if !x.staleDevs.contains dev then modeAnswer d Code.REFUSED s
  else
    let s := modeAnswer d Code.DONE (setDom d { x with staleDevs := x.staleDevs.filter (· ≠ dev) } s)
    if dev = s.deviceId then rearmLocal wr d r s else toChildren d (.rearm d dev r) s

/-- A write to TIDE_Dn_MODE_CMD: root only. -/
def modeCmd (d : Nat) (f : State → State) (s : State) : State := if s.role d = Role.ROOT then f s else tideBad s

/-! ### Register writes (R73, R86, R90, R554) -/

/-- The tree entries stay consistent (R73): device names distinct, none this device's own, no PARENT at a root. -/
def State.treeOk (s : State) (d role : Nat) : Bool :=
  let pv := s.on (Reg.TIDE_PARENT d) F.TIDE_PARENT_VALID
  let devs := (if pv then [s.fld (Reg.TIDE_PARENT d) F.TIDE_PARENT_DEVICE] else []) ++
    (s.children d).map fun c => s.fld (Reg.TIDE_CHILD d c) F.TIDE_CHILD_DEVICE
  !(pv && role == Role.ROOT) && devs.eraseDups.length == devs.length && !devs.contains s.deviceId

/-- ROLE becomes OFF: the domain is reset on this device (R554). A timer expiry that is due is dropped, and the COMPLETION of a mode command
whose change is discarded keeps DEFERRED (DESIGN CHOICE, log 68: R554 names neither). -/
def resetDomain (d : Nat) (s : State) : State :=
  let x := s.dom d
  let s := fwClear d (resetRuns d (discardReds d none s))
  let s := setDom d { TideDom.init with endPosted := x.endPosted } s
  let s := setR (Reg.TIDE_VALUE d) 0 (setR (Reg.TIDE_READY d) 0 s)
  let s := put (Reg.TIDE_DSTATUS d) F.TIDE_DSTATUS_STALE 0 (put (Reg.TIDE_DSTATUS d) F.TIDE_DSTATUS_PENDING 0 s)
  setGen d 0 (setModeState d ModeSt.NONE s)

/-- A write to TIDE_Dn_CTRL (R73, R554): ROLE changes only in IDLE or PAUSE and where the tree entries stay consistent; the other
fields take effect at any time. A write that leaves ROLE OFF resets nothing (DESIGN CHOICE, log 68). -/
def tideCtrl (d : Nat) (v : Word) (s : State) : State :=
  let r := Reg.TIDE_CTRL d
  let old := s.role d
  let new := v.get F.TIDE_CTRL_ROLE
  let keep := new != old && (!s.restful d || !s.treeOk d new)
  let s := when keep tideBad (genericWrite r (if keep then keepFld r F.TIDE_CTRL_ROLE v s else v) s)
  let s := when (old != Role.OFF && s.role d == Role.OFF) (resetDomain d) s
  when (old != Role.ROOT && s.role d == Role.ROOT) (fun s => setDom d { s.dom d with timerStart := s.now } s) s

/-- A write to TIDE_Dn_PARENT (`none`) or TIDE_Dn_CHILDc (R73, R77). -/
def tideNeighbour (d : Nat) (child : Option Nat) (v : Word) (s : State) : State :=
  let r := match child with | some c => Reg.TIDE_CHILD d c | none => Reg.TIDE_PARENT d
  let t := genericWrite r v s
  let rewritten (s : State) : State := match child with
    | none => setDom d { s.dom d with lostParent := false } s
    | some c =>
      gatherAcks d (setDom d { s.dom d with
        childReady := (s.dom d).childReady.filter (·.1 ≠ c), acked := (s.dom d).acked.filter (· ≠ c) } s)
  if t.reg r = s.reg r then when (s.restful d && child.isNone) rewritten s
  else if s.restful d && t.treeOk d (s.role d) then rewritten t
  else tideBad s

/-- A write to TIDE_Dn_READY (R79): never lowered. -/
def tideReady (d : Nat) (v : Word) (s : State) : State :=
  let r := Reg.TIDE_READY d
  if v.toNat < (s.reg r).toNat then tideBad s else setR r v s

/-- A slot that is enabled on a value already reached fires at once (R86). -/
def checkSlot (wr : Writer) (d k : Nat) (s : State) : State :=
  if s.slotReached d k then
    let (s, pause) := fireSlot d k s
    when pause (enterPause wr d) s
  else s

/-- A write to TIDE_Dn_SLOTk_CTRL (R86, R21): reserved action bits keep ACTIONS, among them PAUSE on any device but the root (on a member
by R89's table; while ROLE is OFF a DESIGN CHOICE, log 69). -/
def slotCtrl (wr : Writer) (d k : Nat) (v : Word) (s : State) : State :=
  let r := Reg.TIDE_SLOT_CTRL d k
  let a := v.get F.TIDE_SLOT_CTRL_ACTIONS
  let bad := decide (32 ≤ a) || (bit a 4 && s.role d != Role.ROOT)
  let w := if bad then keepFld r F.TIDE_SLOT_CTRL_ACTIONS v s else v
  checkSlot wr d k (when bad tideBad (genericWrite r w s))

/-- A register that is meaningful at the root only. -/
def rootWrite (d : Nat) (f : State → State) (s : State) : State := if s.role d = Role.ROOT then f s else tideBad s

/-- A write to TIDE_Dn_TIMER (R90): a new period starts when EN is set or PERIOD_S changes while EN is 1. -/
def timerWrite (d : Nat) (v : Word) (s : State) : State :=
  let r := Reg.TIDE_TIMER d
  let t := genericWrite r v s
  let starts := t.on r F.TIDE_TIMER_EN && (!s.on r F.TIDE_TIMER_EN || t.fld r F.TIDE_TIMER_PERIOD_S != s.fld r F.TIDE_TIMER_PERIOD_S)
  when starts (fun s => setDom d { s.dom d with timerStart := s.now } s) t

/-- A write to TIDE_Dn_TIMER_ACT: reserved action bits keep ACTIONS (R21). -/
def timerAct (d : Nat) (v : Word) (s : State) : State :=
  let r := Reg.TIDE_TIMER_ACT d
  let bad := decide (32 ≤ v.get F.TIDE_TIMER_ACT_ACTIONS)
  when bad tideBad (genericWrite r (if bad then keepFld r F.TIDE_TIMER_ACT_ACTIONS v s else v) s)

/-- TIMER_EXPIRY (R90): due for the next fence; a period that ends while one is due is merged. -/
def timerExpires (d : Nat) (s : State) : State :=
  let t := Reg.TIDE_TIMER d
  if s.role d ≠ Role.ROOT ∨ !s.on t F.TIDE_TIMER_EN ∨ s.fld t F.TIDE_TIMER_PERIOD_S = 0 then s
  else
    let s := when (s.dom d).timerDue (raise (Reg.TIDE_DSTATUS d) F.TIDE_DSTATUS_TIMER_MERGED) s
    setDom d { s.dom d with timerDue := true, timerStart := s.now } s

/-! ### Overdue sites (R471) -/

/-- The domain has been in OUTER for GRACE_MS (R471): the sites that keep this device's gate from holding are flagged and posted, and the
root pauses. -/
def outerGrace (wr : Writer) (s : State) : State :=
  let d := s.comDom
  let step := tideStep (s.tide d)
  let h := s.outerEvery d
  let j := (step + 1) / max 1 h
  if !s.comOn d || s.phase d != Phase.OUTER || s.fatal then s
  else
    let late := if outerStep h step then s.overdueSites j else []
    let s := forEach late (fun p s =>
      let s := setR Reg.COM_OVERDUE (s.reg Reg.COM_OVERDUE ||| BitVec.ofNat 64 (2 ^ p)) s
      if s.far.overdue.contains (p, j) then s
      else postCorrected 0x00A1 .com none (some d) (p + j * 2 ^ 32)
        (setFar (fun x => { x with overdue := x.overdue ++ [(p, j)] }) s)) s
    when (s.role d == Role.ROOT && s.on Reg.COM_CTRL F.COM_CTRL_AUTO_PAUSE) (enterPause wr d) s

end Sys2Proof.Machine
end

