-- ==== Sys2Proof/Machine/Manage.lean ====
section
/-! DEFINITION. The management core (chapter 17): firmware slots and activation (R510 to R513), the configuration store (R516 to R518),
MGT commands (R515, R527, R528), attestation (R514), and the device reset (R500, R545, R546). -/
namespace Sys2Proof.Machine

/-! ### Firmware slots (R510) -/

def State.fwSlot (s : State) (k : Nat) : Option FwSlot := if k = 0 then s.mgmt.slot0 else s.mgmt.slot1
def setFwSlot (k : Nat) (x : Option FwSlot) (s : State) : State :=
  { s with mgmt := if k = 0 then { s.mgmt with slot0 := x } else { s.mgmt with slot1 := x } }

/-- The SVN and ACTIVE_SEQ of a slot that the boot ROM accepts. -/
def State.accepted (s : State) (k : Nat) : Option FwSlot :=
  (s.fwSlot k).filter fun x => decide (s.fld Reg.MGT_STATUS F.MGT_STATUS_MIN_SVN ≤ x.svn)

/-- The accepted slot with the higher ACTIVE_SEQ; slot 0 when they are equal. -/
def State.bootSlot (s : State) : Option Nat :=
  match s.accepted 0, s.accepted 1 with
  | some a, some b => if a.seq < b.seq then some 1 else some 0
  | some _, none => some 0
  | none, some _ => some 1
  | none, none => none

/-- Slot `k` runs. -/
def runSlot (k : Nat) (s : State) : State :=
  let svn := ((s.fwSlot k).map (·.svn)).getD 0
  put Reg.MGT_STATUS F.MGT_STATUS_STATE 1 (put Reg.MGT_STATUS F.MGT_STATUS_FW_SLOT k (put Reg.MGT_STATUS F.MGT_STATUS_FW_SVN svn s))

/-- The boot ROM starts firmware, or enters RECOVERY (R510). -/
def bootFirmware (s : State) : State :=
  match s.bootSlot with
  | some k => runSlot k s
  | none => put Reg.MGT_STATUS F.MGT_STATUS_STATE 3 s

/-- Whether STATE is RECOVERY: the data plane is then held in reset (R510). -/
def State.recovery (s : State) : Bool := s.fld Reg.MGT_STATUS F.MGT_STATUS_STATE == 3

/-! ### The configuration store (R516, R517) -/

/-- The records of an image: KEY, LEN and value, each record padded to a multiple of 8 bytes; and whether the last one is cut off. -/
def cfgRecords : Nat → List Byte → List (Nat × List Byte) × Bool
  | 0, b => ([], !b.isEmpty)
  | n + 1, b =>
    if b.isEmpty then ([], false)
    else
      let len := field b 2 2
      let total := ceilDiv (4 + len) 8 * 8
      if b.length < total then ([], true)
      else
        let r := cfgRecords n (b.drop total)
        ((field b 0 2, (b.drop 4).take len) :: r.1, r.2)

/-- The valid image with the higher SEQ; image A (0) when they are equal. -/
def State.cfgImage (s : State) : Option (Nat × CfgImage) :=
  match s.mgmt.imgA, s.mgmt.imgB with
  | some a, some b => if a.seq < b.seq then some (1, b) else some (0, a)
  | some a, none => some (0, a)
  | none, some b => some (1, b)
  | none, none => none

/-- Whether the value of a record has the LEN of its key and lies in range. -/
def cfgValueOk (key : Nat) (v : List Byte) : Bool :=
  let n := ofBytes v
  match key with
  | 1 => v.length == 2 && decide (n ≤ 8191)
  | 2 => v.length == 4
  | 3 => v.length == 2 && decide (1200 ≤ n) && decide (n ≤ 1800)
  | 4 => v.length == 12
  | 5 => v.length == 1 && decide (n < 128)
  | 6 => v.length == 1 && decide (n < 32) && decide (n % 16 < 8)
  | 7 => v.length % 12 == 0
  | _ => true

/-- The records in force, and whether one is malformed. -/
def State.cfgList (s : State) : List (Nat × List Byte) × Bool :=
  match s.cfgImage with
  | none => ([], false)
  | some (_, i) => cfgRecords i.records.length i.records

/-- The value of a key: that of its last record, where it is good. -/
def State.cfgValue (s : State) (key : Nat) : Option (List Byte) :=
  ((s.cfgList.1.reverse.find? (·.1 = key)).map Prod.snd).filter (cfgValueOk key)

/-- The image in use is found, or the fused defaults are put in force; keys of the management plane are applied (R517). -/
def readConfig (s : State) : State :=
  let r := Reg.CFG_STATUS
  let s := match s.cfgImage with
    | some (k, i) =>
      put r F.CFG_STATUS_SEQ (i.seq % 2 ^ 32) (put r F.CFG_STATUS_ACTIVE_IMG k (put r F.CFG_STATUS_CFG_DEFAULTED 0 s))
    | none =>
      postCorrected 0x00C3 .cfg none none 3
        (put r F.CFG_STATUS_SEQ 0 (put r F.CFG_STATUS_ACTIVE_IMG 0 (put r F.CFG_STATUS_CFG_DEFAULTED 1 s)))
  let l := s.cfgList
  let s := when (l.1.any fun x => x.1 = 0 ∨ 7 < x.1) (raise r F.CFG_STATUS_UNKNOWN_KEY) s
  let s := when (l.2 || l.1.any fun x => !cfgValueOk x.1 x.2) (raise r F.CFG_STATUS_BAD_RECORD) s
  let mac := (s.cfgValue 4).getD Mgmt.init.mac
  let smbus := ((s.cfgValue 5).map ofBytes).getD Mgmt.init.smbus
  { s with mgmt := { s.mgmt with mac := mac, smbus := smbus } }

/-- Whether software can write some field of the register at an offset. -/
def writable (off : Nat) : Bool :=
  match rowOf off with
  | some r => r.counter || r.fields.any fun f => f.acc != .ro
  | none => false

/-- The pairs of a PRESET record are written in order (R517). -/
def applyPreset (wr : Writer) (v : List Byte) (s : State) : State :=
  forEach (List.range (v.length / 12)) (fun i s =>
    let off := field v (12 * i) 4
    if off % 8 = 0 ∧ writable off then wr off (BitVec.ofNat 64 (field v (12 * i + 4) 8)) s
    else raise Reg.CFG_STATUS F.CFG_STATUS_BAD_RECORD s) s

/-- The keys of the data plane are applied, then PRESET (R517, step 5 of the power-up sequence): enabled ports begin training. -/
def applyConfig (wr : Writer) (s0 : State) : State :=
  let num (key : Nat) : Option Nat := (s0.cfgValue key).map ofBytes
  let s := match num 1 with | some v => put Reg.FAB_ID F.FAB_ID_ID v s0 | none => s0
  let s := match num 3 with | some v => put Reg.PWR_CTRL F.PWR_CTRL_LIMIT_W v s | none => s
  let s := match num 6 with
    | some v => putB Reg.HIF_CTRL F.HIF_CTRL_PFC_EN (bit v 4) (put Reg.HIF_CTRL F.HIF_CTRL_PFC_PRIO (v % 16) s)
    | none => s
  let s := match num 2 with
    | some v => forEach ((List.range 32).filter (bit v)) (fun p s =>
        wr (Reg.FAB_P_CTRL p) ((s.reg (Reg.FAB_P_CTRL p)).put F.FAB_P_CTRL_ENABLE 1) s) s
    | none => s
  match s0.cfgValue 7 with
  | some v => applyPreset wr v s
  | none => s

/-! ### Bring-up (R43, R206, R545) -/

/-- Training of the die links, the bridge and the stacks: `dir0` and `dir1` give the working bundles of links that lack some, `bad` the
stacks that fail (R46, R206). The spec does not say which trims, eye margins and repairs training leaves (R43, R46): the model leaves
each at 0 (DESIGN CHOICE, log 53). -/
def trainAll (dir0 dir1 : List (Fin 5 × Nat)) (bad : BitVec 8) (s : State) : State :=
  let full (link : Nat) : Nat := if link < 4 then 256 else 128
  let count (l : List (Fin 5 × Nat)) (link : Nat) : Nat := min (full link) (((l.find? (·.1.val = link)).map Prod.snd).getD (full link))
  let s := forEach (List.range 5) (fun k s =>
    let r := Reg.FLR_LINK_STATUS k
    put r F.FLR_LINK_STATUS_DIR1_BUNDLES (count dir1 k) (put r F.FLR_LINK_STATUS_DIR0_BUNDLES (count dir0 k) s)) s
  let s := forEach (List.range 5) (fun k s => checkLink k 1 (checkLink k 0 s)) s
  let s := forEach (List.range 8) (fun n s => putB (Reg.MEM_S_STATUS n) F.MEM_S_STATUS_TRAINED (!bit bad.toNat n) s) s
  if bad = 0 then put Reg.MEM_STATUS F.MEM_STATUS_STATE 1 s
  else postFatal 0x0040 .mem bad.toNat (put Reg.MEM_STATUS F.MEM_STATUS_STATE 3 s)

/-- Step 5 of the power-up sequence, unless the data plane is held in reset. -/
def bringUp (wr : Writer) (dir0 dir1 : List (Fin 5 × Nat)) (bad : BitVec 8) (s : State) : State :=
  if s.recovery then s else applyConfig wr (trainAll dir0 dir1 bad s)

/-- MAIN_EN driven to a level. -/
def driveMain (level : Bool) (s : State) : State :=
  let s := putB Reg.PWR_STATUS F.PWR_STATUS_MAIN_EN level { s with pins := { s.pins with mainEn := level } }
  emit (.pin "MAIN_EN" level) s

/-- PWR_STATUS shows the pins. -/
def showPins (s : State) : State :=
  let r := Reg.PWR_STATUS
  putB r F.PWR_STATUS_EXT_THROTTLE (!s.pins.throttle) (putB r F.PWR_STATUS_PWR_GOOD s.pins.pwrGood
    (putB r F.PWR_STATUS_MAIN_EN s.pins.mainEn s))

/-! ### MGT commands -/

/-- A MGT command completes. -/
def mgtDone (code : Nat) (s : State) : State :=
  let r := Reg.MGT_CMD_STATUS
  put r F.MGT_CMD_STATUS_COMPLETION code (put r F.MGT_CMD_STATUS_CMD_BUSY 0 { s with mgmt := { s.mgmt with cmd := 0 } })

/-- A MGT command begins. -/
def mgtBegin (cmd : Nat) (s : State) : State :=
  raise Reg.MGT_CMD_STATUS F.MGT_CMD_STATUS_CMD_BUSY { s with mgmt := { s.mgmt with cmd := cmd } }

/-- `n` bytes at an HBM address for the management core, or the code of its refusal (R54, R221). -/
def mgtRead (a n : Nat) (s : State) : State × Except Nat (List Byte) :=
  if hbmEnd < a + n then (addressFault 4096 a s, .error Code.REFUSED)
  else if s.memRefuses then (s, .error Code.REFUSED)
  else
    let (s, d, bad) := hbmRead a n 0 s
    (s, if bad.isSome then .error Code.POISONED else .ok d)

/-- CLEAR_COUNTERS (R527). -/
def clearAll (s : State) : State := { s with regs := s.regs.filter fun e => !isCounter e.1 }

/-- SNAPSHOT (R528): dropped, and refused, while a record is being written; else the command runs until the record is written. -/
def mgtSnapshot (s : State) : State :=
  if s.mgmt.recording then mgtDone Code.REFUSED (takeRecord s) else takeRecord s

/-- SIGN (R515): data in the form of a manifest is signed; the signature itself is a free value. -/
def mgtSign (s : State) : State :=
  let a := (s.reg Reg.MGT_ARG0).toNat
  let n := (s.reg Reg.MGT_ARG1).toNat
  if n < 257 ∨ 4194304 < n ∨ a % 64 ≠ 0 then mgtDone Code.REFUSED s
  else
    let (s, r) := mgtRead a n s
    match r with
    | .error code => mgtDone code s
    | .ok d =>
      if field d 8 8 = (s.reg Reg.CHK_JOB).toNat ∧ bit (field d 28 4) 0 then
        let (k, s) := drawFree s
        let s := forEach (List.range 6) (fun i s =>
          setR (Reg.MGT_SIGN_S i) (Config.signature d k (6 + i)) (setR (Reg.MGT_SIGN_R i) (Config.signature d k i) s)) s
        mgtDone Code.DONE s
      else mgtDone Code.REFUSED s

/-- FW_STATE. -/
def State.fwState (s : State) : Nat := s.fld Reg.MGT_CMD_STATUS F.MGT_CMD_STATUS_FW_STATE
def setFwState (v : Nat) (s : State) : State := put Reg.MGT_CMD_STATUS F.MGT_CMD_STATUS_FW_STATE v s

/-- The slot that does not run. -/
def State.idleSlot (s : State) : Nat := 1 - s.fld Reg.MGT_STATUS F.MGT_STATUS_FW_SLOT

/-- FW_STAGE (R511): the image is copied into the idle slot, whose verification ends the command. -/
def mgtStage (s : State) : State :=
  let n := (s.reg Reg.MGT_ARG1).toNat
  if s.fwState = 2 ∨ s.fwState = 3 ∨ 2 ^ 24 < n then mgtDone Code.REFUSED s
  else
    let (s, r) := mgtRead (s.reg Reg.MGT_ARG0).toNat n s
    match r with
    | .error code => mgtDone code s
    | .ok d =>
      let s := setFwSlot s.idleSlot none (setFwState 0 s)
      { s with mgmt := { s.mgmt with staging := Config.imageSvn d } }

/-- Whether an activation waits for domain `d` (R512). -/
def State.fwWaits (s : State) (d : Nat) : Bool := s.role d != 0 && s.phase d != Phase.IDLE && s.phase d != Phase.PAUSE

/-- FW_ACTIVATE (R512). -/
def mgtActivate (s : State) : State :=
  if s.fwState ≠ 1 then mgtDone Code.REFUSED s
  else
    let s := mgtDone Code.DEFERRED (setFwState 2 s)
    forEach (List.range 16) (fun d s => putB Reg.MGT_CMD_STATUS ⟨48 + d, 48 + d⟩ (s.fwWaits d) s) s

/-- A MGT command other than DEVICE_RESET, after it has begun. In RECOVERY only FW_STAGE is accepted (R510). -/
def runPlain (cmd : Nat) (s : State) : State :=
  if s.recovery && cmd != 5 then mgtDone Code.REFUSED s
  else match cmd with
  | 1 => mgtDone Code.DONE (clearAll s)
  | 2 => mgtSnapshot s
  | 3 => mgtSign s
  | 5 => mgtStage s
  | _ => mgtActivate s

/-! ### CFG WRITE (R518) -/

/-- A CFG command completes. -/
def cfgDone (code : Nat) (s : State) : State :=
  put Reg.CFG_STATUS F.CFG_STATUS_COMPLETION code (put Reg.CFG_STATUS F.CFG_STATUS_WRITE_BUSY 0 s)

/-- The image not in use: B while A is in use, else A. -/
def State.spareImage (s : State) : Nat :=
  if s.on Reg.CFG_STATUS F.CFG_STATUS_CFG_DEFAULTED then 0 else 1 - s.fld Reg.CFG_STATUS F.CFG_STATUS_ACTIVE_IMG

def setCfgImage (k : Nat) (x : Option CfgImage) (s : State) : State :=
  { s with mgmt := if k = 0 then { s.mgmt with imgA := x } else { s.mgmt with imgB := x } }

/-- SEQ of the image in use; 0 under the fused defaults. -/
def State.cfgSeq (s : State) : Nat :=
  if s.on Reg.CFG_STATUS F.CFG_STATUS_CFG_DEFAULTED then 0
  else ((if s.fld Reg.CFG_STATUS F.CFG_STATUS_ACTIVE_IMG = 0 then s.mgmt.imgA else s.mgmt.imgB).map (·.seq)).getD 0

/-- CFG WRITE begins: the records are read, and the image not in use is invalid until they are written. -/
def cfgBegin (len : Nat) (s : State) : State :=
  if len % 8 ≠ 0 ∨ 262072 < len then cfgDone Code.REFUSED s
  else
    let (s, r) := mgtRead (s.fld Reg.CFG_SRC F.CFG_SRC_ADDR * 64) len s
    match r with
    | .error _ => cfgDone Code.REFUSED s
    | .ok d =>
      let s := setCfgImage s.spareImage none (raise Reg.CFG_STATUS F.CFG_STATUS_WRITE_BUSY s)
      { s with mgmt := { s.mgmt with writing := d } }

/-- A CFG_CMD write of WRITE: it waits for a hand-over to end (R513). -/
def cfgWrite (len : Nat) (s : State) : State :=
  if s.on Reg.CFG_STATUS F.CFG_STATUS_WRITE_BUSY then badWrite Reg.CFG_CMD s
  else if s.handover then raise Reg.CFG_STATUS F.CFG_STATUS_WRITE_BUSY { s with mgmt := { s.mgmt with cfgWait := some len } }
  else cfgBegin len s

/-- A CFG_CMD write. -/
def cfgCommand (v : Word) (s : State) : State :=
  match v.get F.CFG_CMD_CMD with
  | 0 => s
  | 1 => cfgWrite (v.get F.CFG_CMD_LEN) s
  | _ => badWrite Reg.CFG_CMD s

/-! ### The device reset (R500, R546) -/

/-- The commands that waited for a hand-over run; a DEVICE_RESET among them is what `reset` does. -/
def runWaiting (reset : State → State) (s : State) : State :=
  let w := s.mgmt.cfgWait
  let m := s.mgmt.mgtWait
  let s := { s with mgmt := { s.mgmt with cfgWait := none, mgtWait := none } }
  let s := match w with | some len => cfgBegin len s | none => s
  match m with
  | some cmd => if cmd = 4 then reset s else runPlain cmd s
  | none => s

/-- The activation that a device reset meets is abandoned: the staged slot stays, and firmware is booted again (R513). A part in RECOVERY
tries to boot. -/
def abandonActivation (s : State) : State :=
  let busy := s.fwState = 2 ∨ s.fwState = 3
  let again := s.handover || s.recovery
  let s := if busy then put Reg.MGT_CMD_STATUS F.MGT_CMD_STATUS_WAIT 0 (setFwState 1 s) else s
  if again then runWaiting (mgtDone Code.DONE) (bootFirmware s) else s

/-- A device reset (R500): every register but those of MGT, CFG and ERR, and everything that the data and control planes hold, return to
their reset values; SPDM sessions end; a fatal stop ends; the trip latch, time, ledger, flash and pins stay. `hot` says that it is a PCIe hot
reset: then, or where MAIN_EN is low, MAIN_EN is driven high unless TRIP is latched, and with PWR_GOOD low the bring-up awaits its rise.
The retraining of a reset with PWR_GOOD high brings back every bundle and stack, which the spec does not state (DESIGN CHOICE, log 53). -/
def deviceReset (wr : Writer) (hot : Bool) (s0 : State) : State :=
  let trip := s0.on Reg.PWR_STATUS F.PWR_STATUS_TRIP
  let lost := s0.mgmt.recording && s0.mgmt.cmd == 2
  let s : State := { State.reset with
    regs := s0.regs.filter fun e => decide (e.1 < Reg.PWR_STATUS)
    mgmt := { s0.mgmt with sessions := [], recording := false, qps := [], rates := [] }
    power := { Power.init with above := s0.power.above, clampEnd := s0.power.clampEnd, energy := s0.power.energy }
    pins := s0.pins
    now := s0.now
    posted := s0.posted
    free := s0.free
    out := s0.out
    pending := s0.pending }
  let s := put Reg.ERR_STATUS F.ERR_STATUS_FATAL_STOP 0 (showPins (putB Reg.PWR_STATUS F.PWR_STATUS_TRIP trip s))
  let s := when lost (mgtDone Code.ABORTED) s
  let s := abandonActivation s
  let s := when ((hot || !s.pins.mainEn) && !trip) (driveMain true) s
  let s := readConfig s
  when s.pins.pwrGood (bringUp wr [] [] 0) s

/-- A MGT_CMD write (R513): ignored with BAD_WRITE while a command runs and for a reserved code; it waits for a hand-over to end. -/
def mgtCommand (wr : Writer) (cmd : Nat) (s : State) : State :=
  if s.on Reg.MGT_CMD_STATUS F.MGT_CMD_STATUS_CMD_BUSY ∨ 6 < cmd then badWrite Reg.MGT_CMD s
  else if cmd = 0 then s
  else if s.handover then
    let s := mgtBegin cmd s
    { s with mgmt := { s.mgmt with mgtWait := some cmd } }
  else if cmd = 4 then mgtDone Code.DONE (deviceReset wr false (mgtBegin cmd s))
  else runPlain cmd (mgtBegin cmd s)

/-- Queues that a hand-over has held run again, unless something else holds them (R512). -/
def resumeQueues (s : State) : State :=
  forEach ((List.range 4096).filter fun c => s.qState c == QState.HELD && !s.mustHold c) (fun c => setQState c QState.RUNNING) s

/-- The hand-over ends, with what follows it (R512, R513). -/
def endHandover (wr : Writer) (fwState code : Nat) (s : State) : State :=
  let s := put Reg.MGT_CMD_STATUS F.MGT_CMD_STATUS_FW_COMPLETION code (setFwState fwState s)
  runWaiting (fun s => mgtDone Code.DONE (deviceReset wr false s)) (resumeQueues (put Reg.MGT_STATUS F.MGT_STATUS_STATE 1 s))

end Sys2Proof.Machine
end

