-- ==== Sys2Proof/Machine/Power.lean ====
section
/-! DEFINITION. Power and thermal loops (chapter 18): rails and voltages (R532, R533), the tile clock and its limits (R534 to R539), trips and
rail losses (R540, R542), and PWR_CTRL (R552). -/
namespace Sys2Proof.Machine

open Host (Outcome)

/-! ### The tile clock (R535) and surge (R537) -/

/-- A clock request lowered or raised by 25 MHz, within 0.8 GHz and `top`. -/
def lowerReq (v : Nat) : Nat := max 32 (v - 1)
def raiseReq (v : Nat) : Nat := min 72 (v + 1)

def State.surging (s : State) : Bool := s.on Reg.PWR_STATUS F.PWR_STATUS_SURGING
def State.clamping (s : State) : Bool := s.on Reg.PWR_STATUS F.PWR_STATUS_CLAMPING

/-- The base request, in units of 25 MHz. -/
def State.baseReq (s : State) : Nat := if s.surging then 72 else 64

/-- The effective clock: the lowest request, before the clamp. -/
def State.clockReq (s : State) : Nat :=
  let r := Reg.PWR_CLOCK
  [s.baseReq, s.fld Reg.PWR_CTRL F.PWR_CTRL_CLK_CAP, s.fld r F.PWR_CLOCK_SUST_REQ, s.fld r F.PWR_CLOCK_THERM_REQ,
    s.fld r F.PWR_CLOCK_AVS_REQ, if s.pins.throttle then 72 else 32].foldl min 72

/-- Microseconds of the preceding 200 s in which the effective clock was above 1.6 GHz. -/
def State.usedUs (s : State) : Nat :=
  let lo := s.now - 200000000
  let closed := (s.power.above.map fun i => max lo i.2 - max lo i.1).sum
  closed + (match s.power.since with | some t => s.now - max lo t | none => 0)

/-- USED in milliseconds. -/
def State.usedMs (s : State) : Nat := s.usedUs / 1000

/-- PWR_SURGE follows USED. -/
def showUsed (s : State) : State :=
  put Reg.PWR_SURGE F.PWR_SURGE_AVAIL_MS (20000 - s.usedMs) (put Reg.PWR_SURGE F.PWR_SURGE_USED_MS s.usedMs s)

/-- EFFECTIVE follows the requests, and USED the effective clock; a clamped clock is never above 1.6 GHz. -/
def showClock (s : State) : State :=
  let e := s.clockReq
  let fast := decide (64 < e) && !s.clamping
  let s := put Reg.PWR_CLOCK F.PWR_CLOCK_EFFECTIVE e s
  let p := s.power
  let s := match p.since with
    | none => if fast then { s with power := { p with since := some s.now } } else s
    | some t =>
      if fast then s
      else
        let above := (p.above.filter fun i => s.now - 200000000 < i.2) ++ [(t, s.now)]
        { s with power := { p with above := above, since := none } }
  showUsed s

/-- SURGE_BEGIN (R537): with a condition missing there is no such event (log 6). -/
def execSurgeBegin (s : State) : Outcome State Fault Refusal :=
  if s.on Reg.PWR_CTRL F.PWR_CTRL_SURGE_EN && !s.surging && decide (s.usedMs ≤ 18000) &&
      decide (s.fld Reg.PWR_PKG F.PWR_PKG_JUNC_C < 90) && s.pins.icrit then
    .next (showClock (raise Reg.PWR_STATUS F.PWR_STATUS_SURGING s))
  else .next s

/-- SURGE_END (R537): USED has reached 20 s. -/
def execSurgeEnd (s : State) : Outcome State Fault Refusal :=
  if s.surging && decide (20000 ≤ s.usedMs) then
    let used := s.usedMs
    let s := showClock (raise Reg.PWR_STATUS F.PWR_STATUS_SURGE_EXHAUSTED (put Reg.PWR_STATUS F.PWR_STATUS_SURGING 0 s))
    .next (postCorrected 0x0100 .pwr none none used s)
  else .next s

/-- SUSTAINED_LOOP (R536): `watts` is the package power averaged over the preceding second. -/
def execSustainedLoop (watts : Nat) (s : State) : Outcome State Fault Refusal :=
  let target := if s.surging then 2100 else s.fld Reg.PWR_CTRL F.PWR_CTRL_LIMIT_W
  let f := F.PWR_CLOCK_SUST_REQ
  let v := s.fld Reg.PWR_CLOCK f
  let v := if target < watts then lowerReq v else if watts * 100 ≤ target * 98 then raiseReq v else v
  .next (showClock (put Reg.PWR_CLOCK f v s))

/-! ### Rails and voltages (R532 to R534) -/

/-- RAIL_SAMPLE (R532): a rail's voltage in mV and current in 0.1 A; package power is their product summed over the rails, and energy grows
by the rail's share of 100 microseconds. -/
def execRailSample (r : Fin 13) (mv : BitVec 16) (da : BitVec 16) (s : State) : Outcome State Fault Refusal :=
  let x := Reg.PWR_RAIL r.val
  let s := put x F.PWR_RAIL_CURRENT da.toNat (put x F.PWR_RAIL_VOLTAGE mv.toNat s)
  let total := ((List.range 13).map fun i => s.fld (Reg.PWR_RAIL i) F.PWR_RAIL_VOLTAGE * s.fld (Reg.PWR_RAIL i) F.PWR_RAIL_CURRENT).sum
  let s := put Reg.PWR_PKG F.PWR_PKG_POWER_W (min 0xFFFF (total / 10000)) s
  let e := s.power.energy + mv.toNat * da.toNat
  .next (bumpBy Reg.PWR_ENERGY (e / 100000) { s with power := { s.power with energy := e % 100000 } })

/-- The range of a die's rail in mV: compute dies, then base dies (R531). -/
def vidMin (die : Nat) : Nat := if die < 4 then 600 else 700
def vidMax (die : Nat) : Nat := if die < 4 then 950 else 900
/-- The set point of a die: the boot voltage until the loop first moves it. -/
def State.vid (s : State) (die : Nat) : Nat :=
  let v := s.fld (Reg.PWR_DIE die) F.PWR_DIE_VID
  if v = 0 then 800 else v

/-- A die needs more than the top of its range (R533): the loop's clock request falls, and an entry is posted where the die was not at its
limit already. AVS_LIMIT cleared by software re-arms every die. -/
def avsLimit (die : Nat) (s : State) : State :=
  let known := if s.on Reg.PWR_STATUS F.PWR_STATUS_AVS_LIMIT then s.power.limited else []
  let f := F.PWR_CLOCK_AVS_REQ
  let s := put Reg.PWR_CLOCK f (lowerReq (s.fld Reg.PWR_CLOCK f)) (raise Reg.PWR_STATUS F.PWR_STATUS_AVS_LIMIT s)
  let s := { s with power := { s.power with limited := insertMark die known } }
  showClock (if known.contains die then s else postCorrected 0x0106 .pwr none none die s)

/-- VOLTAGE_LOOP (R533): VID moves by at most 5 mV towards the lowest voltage with the target margin. -/
def execVoltageLoop (die : Fin 6) (margin target : BitVec 8) (s : State) : Outcome State Fault Refusal :=
  let d := die.val
  let r := Reg.PWR_DIE d
  let old := s.vid d
  let new := if margin < target then min (vidMax d) (old + 5) else if target < margin then max (vidMin d) (old - 5) else old
  let s := put r F.PWR_DIE_VID new (put r F.PWR_DIE_MARGIN margin.toNat s)
  let s := if new = old then s else emit (.vid d new) s
  .next (if margin < target ∧ old = vidMax d then avsLimit d s else s)

/-- DROOP (R534). -/
def execDroop (die : Fin 4) (cycles : Nat) (s : State) : Outcome State Fault Refusal :=
  let _ := die
  .next (bumpBy Reg.PWR_STRETCH cycles s)

/-! ### The current clamp (R538) -/

/-- CURRENT_CLAMP: one that begins after at least 1 s without one is counted and posted. -/
def execCurrentClamp (src : ClampSrc) (s : State) : Outcome State Fault Refusal :=
  let detail := match src with | .icrit => 0xF | .die d => d.val
  let s := match src with
    | .icrit => { s with pins := { s.pins with icrit := false } }
    | .die _ => s
  if s.clamping then .next s
  else
    let fresh := match s.power.clampEnd with | none => true | some t => decide (t + 1000000 ≤ s.now)
    let s := showClock (raise Reg.PWR_STATUS F.PWR_STATUS_CLAMPING s)
    .next (when fresh (fun s =>
      postCorrected 0x0101 .pwr none none detail (bump Reg.PWR_CLAMPS (raise Reg.PWR_STATUS F.PWR_STATUS_CLAMPED s))) s)

/-- CLAMP_RELEASE: the condition has been absent for 100 microseconds. With no clamp acting there is no such event (log 6). -/
def execClampRelease (s : State) : Outcome State Fault Refusal :=
  if !s.clamping then .next s
  else
    let s := { s with
      pins := { s.pins with icrit := true }
      power := { s.power with clampEnd := some s.now } }
    .next (showClock (put Reg.PWR_STATUS F.PWR_STATUS_CLAMPING 0 s))

/-! ### Temperature (R539, R540) -/

/-- The die of a junction sensor: sixteen on each compute die, then eight on each base die. -/
def sensorDie (n : Nat) : Nat := if n < 64 then n / 16 else 4 + (n - 64) / 8

/-- The hottest of some readings, the first of equal ones. -/
def hottest : List Reading → Option Reading
  | [] => none
  | r :: rest => match hottest rest with
    | none => some r
    | some x => if r.c < x.c then some x else some r

/-- DETAIL of a thermal entry: sensor, reading, and whether it is a stack's. -/
def thermalDetail (r : Reading) : Nat := r.sensor.toNat + min 255 r.c * 256 + (if r.hbm then 65536 else 0)

/-- A sampling shown in PWR_DIE and PWR_PKG. -/
def showReadings (rs : List Reading) (s : State) : State :=
  let junc := rs.filter fun r => !r.hbm
  let s := forEach (List.range 6) (fun d s =>
    match hottest (junc.filter fun r => sensorDie r.sensor.toNat == d) with
    | some r => put (Reg.PWR_DIE d) F.PWR_DIE_HOT_C (min 255 r.c) s
    | none => s) s
  let s := match hottest junc with | some r => put Reg.PWR_PKG F.PWR_PKG_JUNC_C (min 255 r.c) s | none => s
  match hottest (rs.filter (·.hbm)) with
  | some r => put Reg.PWR_PKG F.PWR_PKG_HBM_C (min 255 r.c) s
  | none => s

/-- The reading of a stack that its controller has passed on (R218, R219). -/
def State.stackReading (s : State) (n : Nat) : Reading := ⟨BitVec.ofNat 8 n, true, s.fld (Reg.MEM_S_STATUS n) F.MEM_S_STATUS_TEMP⟩

/-- The latest sampling: the junction readings given, and every stack's (R219). -/
def State.sampling (s : State) (rs : List Reading) : List Reading := (rs.filter fun r => !r.hbm) ++ (List.range 8).map s.stackReading

/-- THERMAL_LOOP (R539): one move of the thermal request by the hottest of the latest readings. -/
def execThermalLoop (junctions : List Reading) (s : State) : Outcome State Fault Refusal :=
  let rs := s.sampling junctions
  match hottest rs with
  | none => .next s
  | some h =>
    let f := F.PWR_CLOCK_THERM_REQ
    let old := s.fld Reg.PWR_CLOCK f
    let new := if 95 ≤ h.c then lowerReq old else if 93 ≤ h.c then old else raiseReq old
    let s := put Reg.PWR_CLOCK f new (showReadings rs s)
    let s := showClock (putB Reg.PWR_STATUS F.PWR_STATUS_THROTTLING (decide (new < 72)) s)
    .next (if 95 ≤ h.c ∧ old = 72 then
      postCorrected 0x0102 .pwr none none (thermalDetail h) (raise Reg.PWR_STATUS F.PWR_STATUS_THROTTLED s) else s)

/-- THERMTRIP (R540): at 105 degrees of a junction, or 100 of a stack as its controller has passed them on (R219), the trip latches. A lower
reading, or a latched trip, makes no event (log 6). -/
def execThermtrip (sensor : Reading) (s : State) : Outcome State Fault Refusal :=
  let r := if sensor.hbm then s.stackReading (sensor.sensor.toNat % 8) else sensor
  if r.c < (if r.hbm then 100 else 105) ∨ s.on Reg.PWR_STATUS F.PWR_STATUS_TRIP then .next s
  else
    let s := emit (.pin "THERMTRIP_N" false) { s with pins := { s.pins with thermtrip := false } }
    .next (postFatal 0x0103 .pwr (thermalDetail r) (raise Reg.PWR_STATUS F.PWR_STATUS_TRIP (driveMain false s)))

/-- TRIP_CLEAR written (R540): while PWR_GOOD is high it is ignored with BAD_WRITE. -/
def clearTrip (s : State) : State :=
  if s.pins.pwrGood then badWrite Reg.PWR_CTRL s
  else if s.on Reg.PWR_STATUS F.PWR_STATUS_TRIP then
    emit (.pin "THERMTRIP_N" true) (put Reg.PWR_STATUS F.PWR_STATUS_TRIP 0 { s with pins := { s.pins with thermtrip := true } })
  else s

/-- TRIP_CLEAR (R540). -/
def execTripClear (s : State) : Outcome State Fault Refusal := .next (clearTrip s)

/-- RAIL_LOSS (R542): while PERST_N is high, MAIN_EN goes low and a FATAL entry stops the planes; while it is low, an orderly power-down
posts nothing. A level that the pin has already is no event (log 6). -/
def execRailLoss (k : RailLoss) (s : State) : Outcome State Fault Refusal :=
  let good := s.pins.pwrGood
  let fine := s.pins.vrFault
  let lost (code : Nat) (s : State) : State :=
    if s.pins.perst then postFatal code .pwr 0 (raise Reg.PWR_STATUS F.PWR_STATUS_VR_FAULT (driveMain false s)) else s
  match k with
  | .pwrGood => .next (if good then lost 0x0105 (showPins { s with pins := { s.pins with pwrGood := false } }) else s)
  | .vrFault => .next (if fine then lost 0x0104 { s with pins := { s.pins with vrFault := false } } else s)

/-! ### Pins and PWR_CTRL (R535, R552) -/

/-- THROTTLE_N (R535). -/
def execThrottleN (level : Bool) (s : State) : Outcome State Fault Refusal :=
  .next (showClock (showPins { s with pins := { s.pins with throttle := level } }))

/-- A PWR_CTRL write (R552): clearing SURGE_EN ends surge (R537), and TRIP_CLEAR clears the trip latch (R540). -/
def pwrCtrl (v : Word) (s : State) : State :=
  let s := genericWrite Reg.PWR_CTRL (v.put F.PWR_CTRL_TRIP_CLEAR 0) s
  let s := when (!s.on Reg.PWR_CTRL F.PWR_CTRL_SURGE_EN) (put Reg.PWR_STATUS F.PWR_STATUS_SURGING 0) s
  let s := when (v.get F.PWR_CTRL_TRIP_CLEAR == 1) clearTrip s
  showClock s

/-- PWR_CTRL_WRITE (R552). -/
def execPwrCtrlWrite (v : Word) (s : State) : Outcome State Fault Refusal := .next (pwrCtrl v s)

end Sys2Proof.Machine
end

