-- ==== Sys2Proof/Machine/Tile.lean ====
section
/-! DEFINITION. The tile commands (chapter 03): bundle issue, the timeouts of waits, the instructions of the control and move slots, and
the registers of a tile. -/
namespace Sys2Proof.Machine
open Host (Outcome)

/-! ### Bundles -/

/-- BUNDLE_ISSUE (R105): the bundle that a running tile holds, or its next one, is presented. `ue` names the 32-byte units of its memory
that its reads find uncorrectable (R139, R427). -/
def execBundleIssue (p : Fin 160) (ue : List (BitVec 17)) (s : State) : Outcome State Fault Refusal :=
  if !s.mayPresent p.val then .next s
  else
    let s := tmErrorsAt p.val ue s
    .next (settle (when (s.mayPresent p.val) (presentNext p.val) s))

/-- WAIT_TIMEOUT (R122): the timeout of the held wait comes. -/
def execWaitTimeout (p : Fin 160) (s : State) : Outcome State Fault Refusal :=
  match (s.tile p.val).held with
  | some b => .next (if s.mayPresent p.val then settle (presentBundle p.val b true s) else s)
  | none => .next s

/-- The bundle that a tile holds or would fetch next. -/
def State.nextBundle (s : State) (p : Nat) : Option Bundle :=
  match (s.tile p).held with
  | some b => some b
  | none => (match fetchBundle p s with | .ok b => some b | .error _ => none)

/-- The notification of an LDONE of `layer` (R131): in the first cycle in which nothing but its own wait holds its bundle. -/
def ldoneNotifyAt (p layer : Nat) (s : State) : State :=
  match s.nextBundle p with
  | none => s
  | some b =>
    let x := b.live p s
    match x.ctl with
    | .ldone a _ =>
      if s.sreg p a.val = layer ∧ (bundleFault p b s).isNone ∧ otherHold p x s = 0 then
        let s := beginCtl p x.ctl (noteLookups p x s)
        holdBundle p (ctlWait p x.ctl s) b s
      else s
    | _ => s

/-- LDONE_NOTIFY (R131). -/
def execLdoneNotify (p : Fin 160) (layer : BitVec 12) (s : State) : Outcome State Fault Refusal :=
  .next (if s.mayPresent p.val then settle (ldoneNotifyAt p.val layer.toNat s) else s)

/-! ### TILE_CTRL (R121, R555) -/

/-- STOP: the tile stops at its bundle boundary. -/
def tileStop (p : Nat) (s : State) : State := setTile p { (stopTile p s).tile p with stepping := false } (stopTile p s)

/-- RESUME: a STOPPED tile runs again; under a fatal stop it does not (R524). -/
def tileResume (p : Nat) (s : State) : State :=
  if s.tileSt p = TileSt.STOPPED ∧ !s.fatal then setTileSt p TileSt.RUNNING s else s

/-- STEP: a STOPPED tile issues one bundle and stops; in any other state the write sets BAD_WRITE. -/
def tileStep1 (p : Nat) (s : State) : State :=
  if s.tileSt p ≠ TileSt.STOPPED then badWrite (Reg.TILE_CTRL p) s
  else if s.fatal then s
  else presentNext p (setTileSt p TileSt.RUNNING (setTile p { s.tile p with stepping := true } s))

/-- A write to TILE_CTRL; with more than one bit set it is ignored (R555). -/
def tileCtrl (p : Nat) (v : Word) (s : State) : State :=
  let n := v.get F.TILE_CTRL_STOP + v.get F.TILE_CTRL_RESUME + v.get F.TILE_CTRL_STEP
  if 1 < n then badWrite (Reg.TILE_CTRL p) s
  else if v.get F.TILE_CTRL_STOP = 1 then tileStop p s
  else if v.get F.TILE_CTRL_RESUME = 1 then tileResume p s
  else if v.get F.TILE_CTRL_STEP = 1 then tileStep1 p s
  else s

/-! ### Registers of the tile's space (R40, R143, R144, R178) -/

/-- Whether software may write a tile's registers: STATE is IDLE or STOPPED (R143). -/
def State.tileOpen (s : State) (p : Nat) : Bool := s.tileSt p == TileSt.IDLE || s.tileSt p == TileSt.STOPPED

/-- A write to TILE_PROG (R143, R144), its fields taken as R21 says. -/
def tileProg (p : Nat) (v : Word) (s : State) : State :=
  let off := Reg.TILE_PROG p
  if !s.tileOpen p then badWrite off s
  else
    let t := genericWrite off v s
    if t.fld off F.TILE_PROG_LIMIT ≤ t.fld off F.TILE_PROG_BASE then badWrite off s else t

/-- A write to MXE_CTRL (R178). -/
def mxeCtrl (p : Nat) (v : Word) (s : State) : State :=
  writeIf (s.tileOpen p && (s.tile p).queue.isEmpty) (Reg.MXE_CTRL p) v s

/-- A write to a register of tile `p`, `o` bytes into its space: those of R143 only while the tile is IDLE or STOPPED, with no effect on
s0 and p0; a write to TILE_PC settles where the next fetch is. -/
def tileSpaceWrite (p o : Nat) (v : Word) (s : State) : State :=
  let off := Reg.TILE_CTRL p + o
  if s.deadTile off then badWrite off s
  else if o = 0 then tileCtrl p v s
  else if off = Reg.TILE_PROG p then tileProg p v s
  else if off = Reg.MXE_CTRL p then mxeCtrl p v s
  else if isCounter off then counterWrite off v s
  else if off = Reg.TILE_PC p then
    if s.tileOpen p then genericWrite off v (setTile p { s.tile p with wild := none } s) else badWrite off s
  else if (0x30 ≤ o ∧ o ≤ 0x40) ∨ (0x1000 ≤ o ∧ o < 0xA000) then
    if !s.tileOpen p then badWrite off s
    else if off = Reg.TILE_SREG p 0 then s
    else if off = Reg.TILE_PREG p then genericWrite off (keepFld off ⟨0, 0⟩ v s) s
    else genericWrite off v s
  else genericWrite off v s

/-- STOP (R555): the write of STOP. -/
def execStop (p : Fin 160) (s : State) : Outcome State Fault Refusal := .next (tileSpaceWrite p.val 0 1 s)
/-- RESUME (R555): the write of RESUME. -/
def execResume (p : Fin 160) (s : State) : Outcome State Fault Refusal := .next (tileSpaceWrite p.val 0 2 s)
/-- STEP (R555): the write of STEP. -/
def execStep (p : Fin 160) (s : State) : Outcome State Fault Refusal := .next (settle (tileSpaceWrite p.val 0 4 s))

/-- TILE_PROG_WRITE (R144). -/
def execTileProgWrite (p : Fin 160) (v : Word) (s : State) : Outcome State Fault Refusal :=
  .next (tileSpaceWrite p.val (Reg.TILE_PROG p.val - Reg.TILE_CTRL p.val) v s)

/-- TILE_REG_WRITE (R143). -/
def execTileRegWrite (p : Fin 160) (off : BitVec 16) (v : Word) (s : State) : Outcome State Fault Refusal :=
  .next (settle (tileSpaceWrite p.val off.toNat v s))

/-! ### Control-slot instructions -/

/-- LI (R108). -/
def execLi (p : Fin 160) (g : Guard) (d : Fin 32) (imm : BitVec 32) (s : State) : Outcome State Fault Refusal :=
  .next (settle (presentCtl p.val g (.li d imm) s))

/-- LUI (R108). -/
def execLui (p : Fin 160) (g : Guard) (d a : Fin 32) (imm : BitVec 32) (s : State) : Outcome State Fault Refusal :=
  .next (settle (presentCtl p.val g (.lui d a imm) s))

/-- ADDI (R108). -/
def execAddi (p : Fin 160) (g : Guard) (d a : Fin 32) (imm : BitVec 32) (s : State) : Outcome State Fault Refusal :=
  .next (settle (presentCtl p.val g (.addi d a imm) s))

/-- ALU (R108). -/
def execAlu (p : Fin 160) (g : Guard) (d a b : Fin 32) (func : BitVec 8) (s : State) : Outcome State Fault Refusal :=
  .next (settle (presentCtl p.val g (.alu d a b func) s))

/-- CMP (R108). -/
def execCmp (p : Fin 160) (g : Guard) (d : Fin 8) (a b : Fin 32) (func : BitVec 8) (s : State) : Outcome State Fault Refusal :=
  .next (settle (presentCtl p.val g (.cmp d a b func) s))

/-- CMPI (R108). -/
def execCmpi (p : Fin 160) (g : Guard) (d : Fin 8) (a : Fin 32) (func : BitVec 3) (imm : BitVec 32) (s : State) : Outcome State Fault Refusal :=
  .next (settle (presentCtl p.val g (.cmpi d a func imm) s))

/-- PLOG (R108). -/
def execPlog (p : Fin 160) (g : Guard) (d a b : Fin 8) (func : BitVec 8) (s : State) : Outcome State Fault Refusal :=
  .next (settle (presentCtl p.val g (.plog d a b func) s))

/-- MOVSA (R108). -/
def execMovsa (p : Fin 160) (g : Guard) (d : Fin 16) (a : Fin 32) (s : State) : Outcome State Fault Refusal :=
  .next (settle (presentCtl p.val g (.movsa d a) s))

/-- MOVAS (R108). -/
def execMovas (p : Fin 160) (g : Guard) (d : Fin 32) (a : Fin 16) (s : State) : Outcome State Fault Refusal :=
  .next (settle (presentCtl p.val g (.movas d a) s))

/-- ADDA (R108). -/
def execAdda (p : Fin 160) (g : Guard) (d a : Fin 16) (imm : BitVec 32) (s : State) : Outcome State Fault Refusal :=
  .next (settle (presentCtl p.val g (.adda d a imm) s))

/-- LIA (R108). -/
def execLia (p : Fin 160) (g : Guard) (d : Fin 16) (imm : BitVec 32) (s : State) : Outcome State Fault Refusal :=
  .next (settle (presentCtl p.val g (.lia d imm) s))

/-- BR (R109). -/
def execBr (p : Fin 160) (g : Guard) (off : BitVec 32) (s : State) : Outcome State Fault Refusal :=
  .next (settle (presentCtl p.val g (.br off) s))

/-- JMP (R110). -/
def execJmp (p : Fin 160) (g : Guard) (a : Fin 32) (s : State) : Outcome State Fault Refusal :=
  .next (settle (presentCtl p.val g (.jmp a) s))

/-- CALL (R112). -/
def execCall (p : Fin 160) (g : Guard) (off : BitVec 32) (s : State) : Outcome State Fault Refusal :=
  .next (settle (presentCtl p.val g (.call off) s))

/-- RET (R112). -/
def execRet (p : Fin 160) (g : Guard) (s : State) : Outcome State Fault Refusal :=
  .next (settle (presentCtl p.val g .ret s))

/-- LOOP (R111). -/
def execLoop (p : Fin 160) (g : Guard) (a : Fin 32) (off : BitVec 32) (s : State) : Outcome State Fault Refusal :=
  .next (settle (presentCtl p.val g (.loop a off) s))

/-- TWAIT (R123). -/
def execTwait (p : Fin 160) (g : Guard) (pdst : Fin 8) (mode : BitVec 2) (a t : Fin 32) (s : State) : Outcome State Fault Refusal :=
  .next (settle (presentCtl p.val g (.twait pdst mode a t) s))

/-- CWAIT (R124). -/
def execCwait (p : Fin 160) (g : Guard) (pdst : Fin 8) (a b t : Fin 32) (s : State) : Outcome State Fault Refusal :=
  .next (settle (presentCtl p.val g (.cwait pdst a b t) s))

/-- CPOST (R126). -/
def execCpost (p : Fin 160) (g : Guard) (a b : Fin 32) (ar : Fin 16) (s : State) : Outcome State Fault Refusal :=
  .next (settle (presentCtl p.val g (.cpost a b ar) s))

/-- CPOSTW (R128). -/
def execCpostw (p : Fin 160) (g : Guard) (d a b : Fin 32) (ar : Fin 16) (s : State) : Outcome State Fault Refusal :=
  .next (settle (presentCtl p.val g (.cpostw d a b ar) s))

/-- CRECV (R129). -/
def execCrecv (p : Fin 160) (g : Guard) (d a t : Fin 32) (ar : Fin 16) (pdst : Fin 8) (s : State) : Outcome State Fault Refusal :=
  .next (settle (presentCtl p.val g (.crecv d a t ar pdst) s))

/-- CFREE (R129). -/
def execCfree (p : Fin 160) (g : Guard) (a : Fin 32) (s : State) : Outcome State Fault Refusal :=
  .next (settle (presentCtl p.val g (.cfree a) s))

/-- LDONE (R131). -/
def execLdone (p : Fin 160) (g : Guard) (a : Fin 32) (w : Bool) (s : State) : Outcome State Fault Refusal :=
  .next (settle (presentCtl p.val g (.ldone a w) s))

/-- YIELD (R134). -/
def execYield (p : Fin 160) (g : Guard) (live : BitVec 16) (s : State) : Outcome State Fault Refusal :=
  .next (settle (presentCtl p.val g (.yield live) s))

/-- HALT (R133). -/
def execHalt (p : Fin 160) (g : Guard) (s : State) : Outcome State Fault Refusal :=
  .next (settle (presentCtl p.val g .halt s))

/-- MFENCE (R132). -/
def execMfence (p : Fin 160) (g : Guard) (s : State) : Outcome State Fault Refusal :=
  .next (settle (presentCtl p.val g .mfence s))

/-- CSRR (R136). -/
def execCsrr (p : Fin 160) (g : Guard) (d : Fin 32) (csr : BitVec 12) (s : State) : Outcome State Fault Refusal :=
  .next (settle (presentCtl p.val g (.csrr d csr) s))

/-- RNGSET (R138). -/
def execRngset (p : Fin 160) (g : Guard) (a : Fin 32) (func : BitVec 8) (s : State) : Outcome State Fault Refusal :=
  .next (settle (presentCtl p.val g (.rngset a func) s))

/-! ### Move-slot instructions -/

/-- VLD (R117). -/
def execVld (p : Fin 160) (g : Guard) (d : Fin 32) (ar : Fin 16) (am : BitVec 2) (x : Fin 32) (imm : BitVec 32) (s : State) : Outcome State Fault Refusal :=
  .next (settle (presentMov p.val g (.vld d ar am x imm) s))

/-- VST (R117). -/
def execVst (p : Fin 160) (g : Guard) (d : Fin 32) (ar : Fin 16) (am : BitVec 2) (x : Fin 32) (imm : BitVec 32) (s : State) : Outcome State Fault Refusal :=
  .next (settle (presentMov p.val g (.vst d ar am x imm) s))

/-- SLD (R117). -/
def execSld (p : Fin 160) (g : Guard) (d : Fin 32) (ar : Fin 16) (am : BitVec 2) (x : Fin 32) (imm : BitVec 32) (s : State) : Outcome State Fault Refusal :=
  .next (settle (presentMov p.val g (.sld d ar am x imm) s))

/-- SST (R117). -/
def execSst (p : Fin 160) (g : Guard) (d : Fin 32) (ar : Fin 16) (am : BitVec 2) (x : Fin 32) (imm : BitVec 32) (s : State) : Outcome State Fault Refusal :=
  .next (settle (presentMov p.val g (.sst d ar am x imm) s))

/-- ACCRD (R148). -/
def execAccrd (p : Fin 160) (g : Guard) (d : Fin 32) (bank : Fin 4) (i : Fin 64) (s : State) : Outcome State Fault Refusal :=
  .next (settle (presentMov p.val g (.accrd d bank i) s))

/-- ACCWR (R148). -/
def execAccwr (p : Fin 160) (g : Guard) (d : Fin 32) (bank : Fin 4) (i : Fin 64) (s : State) : Outcome State Fault Refusal :=
  .next (settle (presentMov p.val g (.accwr d bank i) s))

/-- SQPOST (R237). -/
def execSqpost (p : Fin 160) (g : Guard) (d x : Fin 32) (s : State) : Outcome State Fault Refusal :=
  .next (settle (presentMov p.val g (.sqpost d x) s))

/-- SQTEST (R245). -/
def execSqtest (p : Fin 160) (g : Guard) (d x : Fin 32) (s : State) : Outcome State Fault Refusal :=
  .next (settle (presentMov p.val g (.sqtest d x) s))

/-- SGET (R297). -/
def execSget (p : Fin 160) (g : Guard) (d x : Fin 32) (s : State) : Outcome State Fault Refusal :=
  .next (settle (presentMov p.val g (.sget d x) s))

/-- SPUT (R295). -/
def execSput (p : Fin 160) (g : Guard) (d : Fin 32) (ar : Fin 16) (x : Fin 32) (s : State) : Outcome State Fault Refusal :=
  .next (settle (presentMov p.val g (.sput d ar x) s))

end Sys2Proof.Machine
end

