-- ==== Sys2Proof/Machine/Clock.lean ====
section
/-! DEFINITION. One microsecond of time, which passes when no command waits (log 1): TIME, the tile cycles, and the statistics counters that
count time. -/
namespace Sys2Proof.Machine

/-- Tile cycles in the coming microsecond: EFFECTIVE counts units of 25 MHz, and a clamp halves the clock (R535, R538). -/
def State.cyclesPerUs (s : State) : Nat :=
  let e := 25 * s.fld Reg.PWR_CLOCK F.PWR_CLOCK_EFFECTIVE
  if s.clamping then e / 2 else e

/-- The stall counter that a WAIT code of TILE_STATUS is counted in. -/
def stallCounter (p : Nat) : Nat → Option Nat
  | 0 => none
  | 1 => some (Reg.TILE_STALL_TIDE p)
  | 2 => some (Reg.TILE_STALL_CREDIT p)
  | 3 => some (Reg.TILE_STALL_CHANNEL p)
  | 4 => some (Reg.TILE_STALL_CHANNEL p)
  | _ => some (Reg.TILE_STALL_OTHER p)

/-- Cycles of a tile whose bundle is held. -/
def tileTick (n p : Nat) (s : State) : State :=
  if s.tileSt p = TileSt.RUNNING ∧ (s.tile p).held.isSome then
    match stallCounter p (s.fld (Reg.TILE_STATUS p) F.TILE_STATUS_WAIT) with
    | some off => bumpBy off n s
    | none => s
  else s

/-- Whether a tile waits in SGET for an entry that has not come. -/
def State.starves (s : State) (p : Nat) : Bool :=
  match (s.tile p).held.map (fun b => (b.live p s).mov) with
  | some (Mov.sget _ x) => (s.stagePortFor (s.runCtx p) (s.sreg p x.val % 64) (s.logical p) true).any fun k => (s.stagePort k).landed.isEmpty
  | _ => false

/-- Cycles of a pipeline stage: BUSY, BLOCKED or STARVED, over the tiles of its group that run its context. -/
def stageTick (n k : Nat) (s : State) : State :=
  let r := Reg.STG_S_CTRL k
  let g := s.fld r F.STG_S_CTRL_GROUP
  let ts := (s.groupTiles g).filter fun p => s.tileCtx p == some (s.fld r F.STG_S_CTRL_CONTEXT)
  let waits (p : Nat) : Bool := s.fld (Reg.TILE_STATUS p) F.TILE_STATUS_WAIT == 2
  if !s.on r F.STG_S_CTRL_VALID || ts.isEmpty then s
  else if !s.groupStalled g then bumpBy (Reg.STG_S_BUSY k) n s
  else if ts.any fun p => waits p && !s.starves p then bumpBy (Reg.STG_S_BLOCKED k) n s
  else when (ts.any waits) (bumpBy (Reg.STG_S_STARVED k) n) s

/-- Tile cycles of the context that is resident in a partition (R485, R494): those of a tile in swap are displaced. -/
def partTick (n q : Nat) (s : State) : State :=
  match s.residentOf q with
  | none => s
  | some c =>
    let ts := s.tilesOf c
    let out := (ts.filter fun p => s.swapping (s.logical p)).length
    let s := bumpBy (Reg.CTX_TILE_CYC c) (n * ts.length) (bumpBy (Reg.CTX_DISPLACED c) (n * out) s)
    setPart q { s.part q with ran := (s.part q).ran + n * (ts.length - out) } s

/-- Writes that the sluice holds on protected granules (R377). -/
def State.sluiced (s : State) : Nat := (s.path.held.filter fun w => s.path.guarded.contains (granuleOf w.addr)).length

/-- Whether a chunk of a reduction waits on a peer. -/
def State.peerWaits (s : State) : Bool :=
  s.reds.any fun e => e.2.segs.any fun g => g.code.isNone && g.chunks.any (·.started)

/-- Base-die cycles in a microsecond. -/
def baseCycles : Nat := 2000

/-- One microsecond passes. -/
def idleTick (s : State) : State :=
  let n := s.cyclesPerUs
  let s := { s with
    now := s.now + 1
    power := { s.power with cycles := s.power.cycles + n } }
  let s := forEach (List.range 160) (tileTick n) s
  let s := forEach (List.range 16) (stageTick n) s
  let s := forEach (List.range 64) (fun g s => when (s.groupStalled g) (bumpBy (Reg.STR_TG_STALL g) baseCycles) s) s
  let s := forEach (List.range 16) (partTick n) s
  let s := bumpBy Reg.PAN_SLUICE_WAIT (baseCycles * s.sluiced) s
  let s := when s.peerWaits (bumpBy Reg.RED_PEER_WAIT baseCycles) s
  let s := when (s.runs.any fun e => s.roomWaits e.1) (bumpBy Reg.COM_OUT_WAIT baseCycles) s
  let s := when s.surging (bump Reg.PWR_SURGE_US) s
  let s := when (decide (s.fld Reg.PWR_CLOCK F.PWR_CLOCK_SUST_REQ < s.baseReq)) (bump Reg.PWR_LIMIT_US) s
  let s := when (decide (s.fld Reg.PWR_CLOCK F.PWR_CLOCK_THERM_REQ < 72)) (bump Reg.PWR_THERM_US) s
  showUsed s

end Sys2Proof.Machine
end

