-- ==== Sys2Proof/Machine/Hbm.lean ====
section
/-! DEFINITION. The memory subsystem's own commands (chapter 06): decoded reads and scrub (R210 to R217), temperature (R218),
maintenance and loop-back (R220 to R223), and the cache's accesses and flushes (R225 to R233). -/
namespace Sys2Proof.Machine

open Host (Outcome)

/-- The symbol errors that a command's operands name for the reads of lines that it causes (log 55: an access for which they name none
meets none). -/
def metErrors (l : List (BitVec 33 × SymbolErrors × SymbolErrors)) : List LineErrors :=
  l.map fun x => ⟨x.1.toNat * 64, x.2.1, x.2.2⟩

/-- HBM_READ (R212 to R215): a demand read by the controller, with the errors met by the read and by its retry. -/
def execHbmRead (line : BitVec 33) (e1 e2 : SymbolErrors) (s : State) : Outcome State Fault Refusal :=
  if s.memRefuses then .next s else .next (decodeRead 0 (line.toNat * 64) e1 e2 s)

/-- BC_READ (R225 to R228), once the pair of its line is clear (R50). -/
def execBcRead (line : BitVec 33) (hint : BitVec 2) (met : List (BitVec 33 × SymbolErrors × SymbolErrors)) (s : State) :
    Outcome State Fault Refusal :=
  let la := line.toNat * 64
  if s.memRefuses then .next s
  else if s.pairClears la then .next (waitRead la (.cacheRead la hint.toNat) s)
  else .next (settle (meeting (metErrors met) (fun s => (readLine la hint.toNat s).1) s))

/-- BC_WRITE (R226, R231, R232, R234, R361, R376). -/
def execBcWrite (addr : BitVec 39) (data : List Byte) (hint : BitVec 2) (ctx : BitVec 12)
    (met : List (BitVec 33 × SymbolErrors × SymbolErrors)) (s : State) : Outcome State Fault Refusal :=
  .next (settle (meeting (metErrors met) (fun s =>
    (hbmWrite false addr.toNat data hint.toNat ctx.toNat (s.epoch ctx.toNat) s).1) s))

/-- WCB_TIMEOUT (R233): the idle entry of a line closes, counted; no such entry, nothing (log 6). -/
def execWcbTimeout (half : Fin 2) (line : BitVec 33) (e1 e2 : SymbolErrors) (s : State) : Outcome State Fault Refusal :=
  match s.path.wcb.find? fun e => e.addr = line.toNat * 64 ∧ s.half e.addr = half.val with
  | some e => .next (settle (meeting (metErrors [(line, e1, e2)]) (closeEntry e) (bump (Reg.BC_H_WCB_TIMEOUT_CNT half.val) s)))
  | none => .next s

/-- SCRUB_READ (R216): patrol scrub reads one line of the sweep, with the errors that the read meets; it is paused outside READY (R220).
A line whose decode is uncorrectable is poisoned without a retry. -/
def execScrubRead (line : BitVec 33) (e : SymbolErrors) (s : State) : Outcome State Fault Refusal :=
  let la := line.toNat * 64
  if s.fld Reg.MEM_STATUS F.MEM_STATUS_STATE ≠ 1 then .next s
  else
    let n := (s.path.scrubbed + 1) % 2 ^ 33
    let s := put Reg.MEM_SCRUB F.MEM_SCRUB_PROGRESS (n / 2 ^ 17) (setPath (fun p => { p with scrubbed := n }) s)
    let (s, x) := attempt la e s
    match x with
    | .poison => .next s
    | .good => .next s
    | .fixed => .next (bump (Reg.MEM_S_SCRUB_FIX (s.stack la)) s)
    | .bad _ => .next (raise Reg.MEM_STATUS F.MEM_STATUS_SCRUB_UE (poisonLine 1 la s))

/-- SCRUB_LATE (R216). -/
def execScrubLate (s : State) : Outcome State Fault Refusal := .next (raise Reg.MEM_STATUS F.MEM_STATUS_SCRUB_LATE s)

/-- TEMP_READING (R218): above 85 degrees the stack's refresh interval is halved and HOT set; 82 or below restores it. -/
def execTempReading (stack : Fin 8) (c : BitVec 8) (s : State) : Outcome State Fault Refusal :=
  let r := Reg.MEM_S_STATUS stack.val
  let s := put r F.MEM_S_STATUS_TEMP c.toNat s
  let hot := if 85 < c.toNat then true else if c.toNat ≤ 82 then false else s.on r F.MEM_S_STATUS_HOT
  .next (put Reg.MEM_STATUS ⟨8 + stack.val, 8 + stack.val⟩ (if hot then 1 else 0) (putB r F.MEM_S_STATUS_HOT hot s))

/-- Every dirty line of both caches written back and left clean (R230). -/
def cleanAll (s : State) : State := forEach (s.path.cache.map (·.addr)) cleanLine s

/-- MAINT_REQ (R220): REQ set while READY with no context present enters maintenance; otherwise BAD_WRITE. -/
def execMaintReq (met : List (BitVec 33 × SymbolErrors × SymbolErrors)) (s : State) : Outcome State Fault Refusal :=
  if s.fld Reg.MEM_STATUS F.MEM_STATUS_STATE ≠ 1 ∨ s.anyContext then .next (badWrite Reg.MEM_MAINT s)
  else
    let s := cleanAll (meeting (metErrors met) (closeEntries fun _ => true) s)
    let s := setPath (fun p => { p with cache := [], order := [], looped := [] }) s
    .next (settle (put Reg.MEM_STATUS F.MEM_STATUS_STATE 2 (put Reg.MEM_MAINT F.MEM_MAINT_REQ 1 s)))

/-- A stack that fails training puts memory in FAILED with a FATAL entry (R206). -/
def memTrainFail (failed : Nat) (s : State) : State :=
  postFatal 0x0040 .mem failed (put Reg.MEM_STATUS F.MEM_STATUS_STATE 3 s)

/-- MAINT_EXIT (R223): clearing REQ stops a loop-back, retrains the looped-back stacks (`failed` of them fail, R206) and
returns memory to READY. Outside maintenance REQ is 0 already. -/
def execMaintExit (failed : BitVec 8) (s : State) : Outcome State Fault Refusal :=
  let s0 := put Reg.MEM_MAINT F.MEM_MAINT_REQ 0 s
  if s.fld Reg.MEM_STATUS F.MEM_STATUS_STATE ≠ 2 then .next s0
  else
    let s := put Reg.MEM_LB_STATUS F.MEM_LB_STATUS_ACTIVE 0 (put Reg.MEM_LB_CTRL F.MEM_LB_CTRL_RUN 0 s0)
    let bad := s.path.looped.filter fun k => bit failed.toNat k
    let s := setPath (fun p => { p with looped := [] }) s
    if bad = [] then .next (put Reg.MEM_STATUS F.MEM_STATUS_STATE 1 s)
    else
      let s := forEach bad (fun k => put (Reg.MEM_S_STATUS k) F.MEM_S_STATUS_TRAINED 0) s
      .next (memTrainFail (bad.foldl (fun a k => a ||| 2 ^ k) 0) s)

/-- LB_STOP (R222): RUN = 0 stops the loop-back; `errs` are the bit errors it met, each a channel and a lane, the first
one first. -/
def execLbStop (v : Word) (errs : List (Fin 32 × Fin 72)) (s : State) : Outcome State Fault Refusal :=
  let r := Reg.MEM_LB_STATUS
  let active := s.on r F.MEM_LB_STATUS_ACTIVE
  let s := genericWrite Reg.MEM_LB_CTRL (v.put F.MEM_LB_CTRL_RUN 0) s
  if !active then .next s
  else
    let s := bumpBy Reg.MEM_LB_ERRORS errs.length s
    let s := forEach errs (fun e => put r ⟨32 + e.1.val, 32 + e.1.val⟩ 1) s
    let s := match errs.head? with
      | some e => put r F.MEM_LB_STATUS_FIRST_LANE e.2.val (put r F.MEM_LB_STATUS_FIRST_CH e.1.val s)
      | none => s
    .next (put r F.MEM_LB_STATUS_ACTIVE 0 s)

/-- LB_RUN (R222): RUN = 1 starts a loop-back in MAINT and clears the last run's results; outside MAINT, or changing
STACK, POINT or PATTERN while one runs, it is ignored with BAD_WRITE. -/
def execLbRun (v : Word) (s : State) : Outcome State Fault Refusal :=
  let c := Reg.MEM_LB_CTRL
  let running := s.on c F.MEM_LB_CTRL_RUN
  let same := v.get F.MEM_LB_CTRL_STACK == s.fld c F.MEM_LB_CTRL_STACK && v.get F.MEM_LB_CTRL_POINT == s.fld c F.MEM_LB_CTRL_POINT
    && v.get F.MEM_LB_CTRL_PATTERN == s.fld c F.MEM_LB_CTRL_PATTERN
  if s.fld Reg.MEM_STATUS F.MEM_STATUS_STATE ≠ 2 ∨ (running ∧ !same) then .next (badWrite c s)
  else if running then .next s
  else
    let r := Reg.MEM_LB_STATUS
    let s := genericWrite c (v.put F.MEM_LB_CTRL_RUN 1) s
    let s := put r F.MEM_LB_STATUS_FIRST_CH 0 (put r F.MEM_LB_STATUS_FIRST_LANE 0xFF (put r F.MEM_LB_STATUS_CHFAIL 0 s))
    let s := setPath (fun p => { p with looped := insertMark (v.get F.MEM_LB_CTRL_STACK) p.looped }) s
    .next (put r F.MEM_LB_STATUS_ACTIVE 1 s)

/-- A flush that starts, unless one is running (R230). -/
def startFlush (f : State → State) (s : State) : State :=
  if s.on Reg.BC_STATUS F.BC_STATUS_FLUSH_BUSY then badWrite Reg.BC_FLUSH s
  else raise Reg.BC_STATUS F.BC_STATUS_FLUSH_BUSY (settle (f s))

/-- WCB (R230): every entry closes, or only those of one context. -/
def execWcb (ctx : Option (BitVec 12)) (met : List (BitVec 33 × SymbolErrors × SymbolErrors)) (s : State) : Outcome State Fault Refusal :=
  .next (startFlush (meeting (metErrors met)
    (closeEntries fun e => match ctx with | some c => e.ctx == c.toNat | none => true)) s)

/-- WB (R230): every entry closes, and every dirty line is written back and stays valid. -/
def execWb (met : List (BitVec 33 × SymbolErrors × SymbolErrors)) (s : State) : Outcome State Fault Refusal :=
  .next (startFlush (fun s => cleanAll (meeting (metErrors met) (closeEntries fun _ => true) s)) s)

/-- WB_INV (R230): as WB, and every line is invalidated. -/
def execWbInv (met : List (BitVec 33 × SymbolErrors × SymbolErrors)) (s : State) : Outcome State Fault Refusal :=
  .next (startFlush (fun s => setPath (fun p => { p with cache := [], order := [] })
    (cleanAll (meeting (metErrors met) (closeEntries fun _ => true) s))) s)

/-- FLUSH_DONE (R230). -/
def execFlushDone (s : State) : Outcome State Fault Refusal := .next (put Reg.BC_STATUS F.BC_STATUS_FLUSH_BUSY 0 s)

/-- KEEP_WAYS_WRITE (R228): BC_CTRL is written; a lower KEEP_WAYS clears every KEEP mark, and the lines stay valid. -/
def execKeepWaysWrite (v : Word) (s : State) : Outcome State Fault Refusal :=
  let old := s.keepWays
  let s := genericWrite Reg.BC_CTRL v s
  if s.keepWays < old then
    .next (setPath (fun p => { p with cache := p.cache.map fun l => { l with keep := false } }) s)
  else .next s

end Sys2Proof.Machine
end

