-- ==== Sys2Proof/Machine/Bus.lean ====
section
/-! DEFINITION. The register bus (R19 to R23): a 64-bit write to any register of BAR0 or of a doorbell page (pages from 0x400_0000), each register by its own rule; and the writer that
mode records and PRESET use, `writerAt`. What the row of a command brings with it beside the written value (symbol errors, stacks that fail,
targets of another format), a register write does not bring: it meets none (DESIGN CHOICE, log 78). -/
namespace Sys2Proof.Machine

open Host (Outcome)

/-- The state that a command leaves; every command answers a next state. -/
def after (f : State → Outcome State Fault Refusal) (s : State) : State :=
  match f s with
  | .next t => t
  | .fault _ => s
  | .refused _ => s

/-- A write into the block of a tide domain, `o` bytes from its base. -/
def tideBlock (wr : Writer) (d o : Nat) (v : Word) (s : State) : State :=
  let off := Reg.TIDE_CTRL d + o
  if o = 0 then tideCtrl d v s
  else if o = 0x10 ∨ o = 0x78 ∨ (0xC0 ≤ o ∧ o < 0x100) then rootWrite d (genericWrite off v) s
  else if o = 0x18 then
    match v.get F.TIDE_ADVANCE_KIND with
    | 0 => advanceBy d (nextTick wr d) s
    | 1 => advanceBy d (nextPhase wr d) s
    | 2 => advanceBy d (setTide wr d) s
    | _ => tideBad s
  else if o = 0x20 then tideReady d v s
  else if o = 0x30 then tideNeighbour d none v s
  else if 0x38 ≤ o ∧ o < 0x70 then tideNeighbour d (some ((o - 0x38) / 8)) v s
  else if o = 0x80 then rootWrite d (timerWrite d v) s
  else if o = 0x88 then rootWrite d (timerAct d v) s
  else if o = 0x100 then
    match v.get F.TIDE_MODE_CMD_CMD with
    | 0 => modeCmd d (fun s => s) s
    | 1 => modeCmd d (modeArm d) s
    | 2 => modeCmd d (modeCancel d) s
    | _ => modeCmd d (modeRearm wr d (v.get F.TIDE_MODE_CMD_DEVICE)) s
  else if 0x1000 ≤ o ∧ o % 16 = 8 then slotCtrl wr d ((o - 0x1000) / 16) v s
  else if 0x1000 ≤ o then checkSlot wr d ((o - 0x1000) / 16) (genericWrite off v s)
  else genericWrite off v s

/-- A write of ERR_PTR (R522): RP moves unless the level would exceed the ring. -/
def ledgerRp (v : Word) (s : State) : State :=
  let rp := v.get F.ERR_PTR_RP
  let wp := s.fld Reg.ERR_PTR F.ERR_PTR_WP
  if 256 < (wp + 65536 - rp) % 65536 then badWrite Reg.ERR_PTR s
  else
    let s := put Reg.ERR_PTR F.ERR_PTR_RP rp s
    put Reg.ERR_STATUS F.ERR_STATUS_LEVEL s.ledgerLevel s

/-- A write of PAN_CMD (R393). -/
def panCommand (v : Word) (s : State) : State :=
  let n : Fin 4 := Fin.ofNat 4 (v.get F.PAN_CMD_SLOT)
  if s.on Reg.PAN_STATUS F.PAN_STATUS_CMD_BUSY then badWrite Reg.PAN_CMD s
  else match v.get F.PAN_CMD_CMD with
  | 0 => s
  | 1 => after (execHold n) s
  | 2 => after (execUnhold n) s
  | 3 => after (execDiscard n) s
  | 4 => after (execRestore (Fin.ofNat 16 (v.get F.PAN_CMD_DOMAIN))) s
  | 5 => after (execHrvRetry n []) s
  | 6 => after (execMirRetry n) s
  | _ => badWrite Reg.PAN_CMD s

/-- A write of CHK_Uu_Sk_CMD (R415, R418). -/
def checkCommand (u : Fin 4) (k : Fin 16) (v : Word) (s : State) : State :=
  let len := BitVec.ofNat 32 (v.get F.CHK_S_CMD_LEN)
  let bad := badWrite (Reg.CHK_S_CMD u.val k.val)
  if 8 ≤ k.val ∨ s.chkSt u.val k.val = ChkSt.BUSY then bad s
  else match v.get F.CHK_S_CMD_OP with
  | 0 => s
  | 1 => after (execInit u k) s
  | 2 => after (execUpdate u k len) s
  | 3 => after (execFinish u k) s
  | 4 => after (execUpdateFinish u k len) s
  | _ => bad s

/-- A write of SPR_CMD (R421). -/
def spareCommand (v : Word) (s : State) : State :=
  let lt := v.get F.SPR_CMD_LTILE
  if s.on Reg.SPR_STATUS F.SPR_STATUS_BUSY ∨ 143 < lt then badWrite Reg.SPR_CMD s
  else match v.get F.SPR_CMD_CMD with
  | 0 => s
  | 1 => startSwap lt (v.get F.SPR_CMD_MODE == 1) s
  | _ => badWrite Reg.SPR_CMD s

/-- A write of BC_FLUSH (R230). -/
def flushCommand (v : Word) (s : State) : State :=
  let ctxOnly := v.get F.BC_FLUSH_CTX_SCOPE == 1
  let op := v.get F.BC_FLUSH_OP
  if s.on Reg.BC_STATUS F.BC_STATUS_FLUSH_BUSY ∨ (ctxOnly ∧ op ≠ 1) then badWrite Reg.BC_FLUSH s
  else match op with
  | 0 => s
  | 1 => after (execWcb (if ctxOnly then some (BitVec.ofNat 12 (v.get F.BC_FLUSH_CONTEXT)) else none) []) s
  | 2 => after (execWb []) s
  | _ => after (execWbInv []) s

/-- A write of STG_VT_CMD (R308). -/
def versionCommand (v : Word) (s : State) : State :=
  match v.get F.STG_VT_CMD_CMD with
  | 0 => s
  | 1 => after execAlloc s
  | 2 => after execPublish s
  | 3 => after execVtRetire s
  | 4 => after execWithdraw s
  | 5 => after execFreeNow s
  | 6 => after execVtReset s
  | _ => badWrite Reg.STG_VT_CMD s

/-- A write into the STG space. -/
def stageSpace (off : Nat) (v : Word) (s : State) : State :=
  let p := (off - 0xC9000) / 0x40
  if off = Reg.STG_VT_CMD then versionCommand v s
  else if 0xC8100 ≤ off ∧ off < 0xC9000 ∧ (off - 0xC8100) % 0x40 = 0 then
    after (execStageCtrlWrite (Fin.ofNat 16 ((off - 0xC8100) / 0x40)) v) s
  else if off < 0xC9000 then genericWrite off v s
  else if off = Reg.STG_P_CTRL p then stagePortWrite p v s
  else if off = Reg.STG_P_PEER p ∨ off = Reg.STG_P_SPILL p then writeIf (!s.on (Reg.STG_P_CTRL p) F.STG_P_CTRL_ENABLE) off v s
  else if off = Reg.STG_P_WM p then wmWriteAt off v s
  else genericWrite off v s

/-- A write into the CHK space (R415 to R420). -/
def checkSpace (off : Nat) (v : Word) (s : State) : State :=
  if 0x101000 ≤ off then
    let u : Fin 4 := Fin.ofNat 4 ((off - 0x101000) / 0x1000)
    let k : Fin 16 := Fin.ofNat 16 ((off - 0x101000) % 0x1000 / 0x100)
    let o := (off - 0x101000) % 0x100
    if o = 0x10 then checkCommand u k v s else after (execChkStateWrite u k (BitVec.ofNat 8 o) v) s
  else
    let d := (off - 0x100100) / 0x20
    let o := (off - 0x100100) % 0x20
    let locked := off = Reg.CHK_JOB ∨ off = Reg.CHK_RUN ∨ (Reg.CHK_D_RECTAB 0 ≤ off ∧ d < 16 ∧ (o = 0 ∨ o = 8)) ∨ Reg.CHK_TAG_LO 0 ≤ off
    writeIf (decide (¬locked) || !s.on Reg.HRV_STATUS F.HRV_STATUS_BUSY) off v s

/-- A write into the FAB space: ports, then the common registers. -/
def fabricSpace (off : Nat) (v : Word) (s : State) : State :=
  if off < 0x150000 then
    let p := (off - 0x130000) / 0x1000
    if off = Reg.FAB_P_CTRL p then after (execPortEnableWrite (Fin.ofNat 32 p) v) s else genericWrite off v s
  else if 0x152000 ≤ off ∧ off < 0x153000 then
    let d : Fin 16 := Fin.ofNat 16 ((off - 0x152000) / 0x20)
    if (off - 0x152000) % 0x20 = 0 then after (execRmapCtrlWrite d v) s
    else after (execRmapSlotWrite d (Fin.ofNat 2 ((off - 0x152000) % 0x20 / 8 - 1)) v) s
  else if 0x153000 ≤ off ∧ off < 0x154000 ∧ (off - 0x153000) % 0x20 = 8 then
    after (execInjActionWrite (Fin.ofNat 32 ((off - 0x153000) / 0x20)) v) s
  else if off = Reg.FAB_MC 0 then badWrite off s
  else genericWrite off v s

/-- A write of MEM_MAINT or MEM_LB_CTRL (R220, R222, R223). -/
def maintenance (off : Nat) (v : Word) (s : State) : State :=
  if off = Reg.MEM_MAINT then
    if v.get F.MEM_MAINT_REQ = 1 then after (execMaintReq []) s else after (execMaintExit 0) s
  else if v.get F.MEM_LB_CTRL_RUN = 1 then after (execLbRun v) s
  else after (execLbStop v []) s

/-- A write into the partition table (R478, R480, R495). -/
def partSpace (off : Nat) (v : Word) (s : State) : State :=
  if off = Reg.PRT_CMD then
    prtCommand (v.get F.PRT_CMD_CMD) (v.get F.PRT_CMD_CONTEXT) (v.get F.PRT_CMD_PARTITION) (v.get F.PRT_CMD_EPOCH) s
  else if off < 0xC0100 then genericWrite off v s
  else
    let q := (off - 0xC0100) / 0x100
    let o := (off - 0xC0100) % 0x100
    if o = 0 then partCtrl q v s
    else if o ≤ 0x20 ∨ 0x80 ≤ o then partWrite (s.partUsed q) off v s
    else genericWrite off v s

/-- A write into the PAN space. -/
def panSpace (off : Nat) (v : Word) (s : State) : State :=
  if off = Reg.PAN_CMD then panCommand v s
  else if off = Reg.PAN_RESERVE then after (execPanReserveWrite v) s
  else if 0xF1000 ≤ off then
    after (execPanDomainWrite (Fin.ofNat 16 ((off - 0xF1000) / 0x80)) (BitVec.ofNat 7 ((off - 0xF1000) % 0x80)) v) s
  else genericWrite off v s

/-- A write into the STR or CHN space. -/
def streamSpace (off : Nat) (v : Word) (s : State) : State :=
  if Reg.STR_MC_MASK0 0 ≤ off ∧ off < Reg.STR_MC_MASK0 1 then badWrite off s
  else if off < 0x210000 then genericWrite off v s
  else if off < 0x400000 then
    let q := (off - 0x210000) / 0x40
    if off = Reg.STR_Q_MAP q then after (execStrMapWrite (Fin.ofNat 1024 q) v) s
    else if off = Reg.STR_Q_WM q then wmWriteAt off v s
    else genericWrite off v s
  else
    let l := (off - 0x401000) / 0x1000
    let r := (off - 0x401000) % 0x1000 / 0x40
    if off < 0x401000 then genericWrite off v s
    else if off = Reg.CHN_CTRL l r then after (execRingCtrlWrite (Fin.ofNat 144 l) (Fin.ofNat 32 r) v) s
    else if off = Reg.CHN_WM l r then wmWriteAt off v s
    else genericWrite off v s

/-- A write into the FLR, MEM or BC space. -/
def floorSpace (off : Nat) (v : Word) (s : State) : State :=
  if Reg.FLR_PIN 0 ≤ off ∧ off < Reg.FLR_PIN 8 then after (execFlrPinWrite (Fin.ofNat 8 ((off - Reg.FLR_PIN 0) / 8)) v) s
  else if off = Reg.FLR_TRIM_SEL then after (execTrimSelWrite v) s
  else if off = Reg.MEM_MAINT ∨ off = Reg.MEM_LB_CTRL then maintenance off v s
  else if off = Reg.BC_CTRL then after (execKeepWaysWrite v) s
  else if off = Reg.BC_FLUSH then flushCommand v s
  else genericWrite off v s

/-- A write into the MGT, CFG, ERR, PWR or HIF space. -/
def controlSpace (wr : Writer) (off : Nat) (v : Word) (s : State) : State :=
  if off = Reg.MGT_CMD then mgtCommand wr (v.get F.MGT_CMD_CMD) s
  else if off = Reg.CFG_CMD then cfgCommand v s
  else if off = Reg.ERR_PTR then ledgerRp v s
  else if off = Reg.PWR_CTRL then pwrCtrl v s
  else if off = Reg.HIF_QPTAB then loadQps v s
  else genericWrite off v s

/-- A write into the RED, UPD, HRV, SPR or RPL space. -/
def tableSpace (off : Nat) (v : Word) (s : State) : State :=
  if off = Reg.RED_LT ∨ off = Reg.UPD_TABLE then after (execTableWrite (off == Reg.UPD_TABLE) v) s
  else if Reg.UPD_COMMIT 0 ≤ off ∧ off < Reg.UPD_COMMIT 4096 then after (execUpdCommitWrite (Fin.ofNat 4096 ((off - Reg.UPD_COMMIT 0) / 8)) v) s
  else if Reg.HRV_CTRL ≤ off ∧ off < Reg.CHK_STATUS then after (execHrvWrite (BitVec.ofNat 12 (off - Reg.HRV_CTRL)) v) s
  else if off = Reg.SPR_CMD then spareCommand v s
  else if Reg.RPL_D_CTRL 0 ≤ off ∧ off < Reg.RPL_RECORDS then
    after (execRplCtrlWrite (Fin.ofNat 16 ((off - Reg.RPL_D_CTRL 0) / 0x40)) (BitVec.ofNat 6 ((off - Reg.RPL_D_CTRL 0) % 0x40)) v) s
  else genericWrite off v s

/-- A 64-bit write to an assigned register, by the rule of its unit; `wr` is the writer of the mode records that it may apply. -/
def spaceWrite (wr : Writer) (u : RegUnit) (off : Nat) (v : Word) (s : State) : State :=
  match u with
  | .mgt => controlSpace wr off v s
  | .cfg => controlSpace wr off v s
  | .err => controlSpace wr off v s
  | .pwr => controlSpace wr off v s
  | .hif => controlSpace wr off v s
  | .tide => if off < 0x50000 then genericWrite off v s else tideBlock wr ((off - 0x50000) / 0x2000) ((off - 0x50000) % 0x2000) v s
  | .ctx => ctxTable ((off - 0x80000) / 0x40) ((off - 0x80000) % 0x40) v s
  | .prt => partSpace off v s
  | .stg => stageSpace off v s
  | .red => tableSpace off v s
  | .upd => tableSpace off v s
  | .pan => panSpace off v s
  | .hrv => tableSpace off v s
  | .chk => checkSpace off v s
  | .spr => tableSpace off v s
  | .rpl => tableSpace off v s
  | .com => comWrite (off - 0x120000) v s
  | .fab => fabricSpace off v s
  | .flr => floorSpace off v s
  | .mem => floorSpace off v s
  | .bc => floorSpace off v s
  | .str => streamSpace off v s
  | .chn => streamSpace off v s
  | .tile => tileSpaceWrite ((off - 0x1000000) / 0x10000) ((off - 0x1000000) % 0x10000) v s
  | .db => pageWrite ((off - 0x4000000) / 0x1000) ((off - 0x4000000) % 0x1000) v s

/-- A 64-bit write at an offset: an unassigned one is ignored with BAD_WRITE (R22); a counter is loaded (R11); in RECOVERY nothing outside
MGT is there (R510). -/
def busWrite (wr : Writer) (off : Nat) (v : Word) (s : State) : State :=
  match unitOf off with
  | none => s
  | some u =>
    if s.recovery && u != .mgt then s
    else if (rowOf off).isNone then badWrite off s
    else if isCounter off && u != .tile then counterWrite off v s
    else spaceWrite wr u off v s

/-- The writer with `n` levels of mode records and device resets below it; the last one writes fields only. Each level is a tide change
of a domain that an outer one made, so 16 domains and one write need no more than 17. -/
def writerAt : Nat → Writer
  | 0 => genericWrite
  | n + 1 => busWrite (writerAt n)

/-- The writer of the commands. -/
def wr : Writer := writerAt 17

/-- REGISTER_WRITE (R21 to R23): an access of another width than 64 bits is ignored with BAD_WRITE. -/
def execRegisterWrite (off : BitVec 27) (width : Nat) (v : Word) (s : State) : Outcome State Fault Refusal :=
  let o := off.toNat
  if width = 8 then .next (settle (wr o v s))
  else if s.recovery && unitOf o != some .mgt then .next s
  else .next (badWrite o s)

/-- COUNTER_WRITE (R11, R40): a write to what is no statistics counter is no such command (log 6). -/
def execCounterWrite (off : BitVec 26) (v : Word) (s : State) : Outcome State Fault Refusal :=
  .next (if isCounter off.toNat then wr off.toNat v s else s)

/-- WM_WRITE (R260). -/
def execWmWrite (w : WmSel) (v : Word) (s : State) : Outcome State Fault Refusal :=
  let off := match w with
    | .queue q => Reg.STR_Q_WM q.val
    | .ring l r => Reg.CHN_WM l.val r.val
    | .port p => Reg.STG_P_WM p.val
  .next (wmWriteAt off v s)

end Sys2Proof.Machine
end

