-- ==== Sys2Proof/Machine/Events.lean ====
section
/-! DEFINITION. Resets, the PCIe link and the management core's commands (chapter 17), and the power-up sequence (chapter 18). -/
namespace Sys2Proof.Machine

open Host (Outcome)

/-! ### Resets (R500, R501, R545) -/

/-- PERST (R500): PERST_N driven low resets the device. -/
def execPerst (level : Bool) (s : State) : Outcome State Fault Refusal :=
  let was := s.pins.perst
  let s := { s with pins := { s.pins with perst := level } }
  .next (settle (if was && !level then deviceReset wr false s else s))

/-- HOT_RESET (R500, R546). -/
def execHotReset (s : State) : Outcome State Fault Refusal := .next (settle (deviceReset wr true s))

/-- PCIE_LINK_DOWN (R501): a link that is up is lost; while PERST_N is low nothing is posted, and the reset has happened already. -/
def execPcieLinkDown (s : State) : Outcome State Fault Refusal :=
  let r := Reg.HIF_STATUS
  if !s.on r F.HIF_STATUS_LINK_UP then .next s
  else if !s.pins.perst then .next (put r F.HIF_STATUS_LINK_UP 0 s)
  else
    let gen := s.fld r F.HIF_STATUS_SPEED
    let s := postCorrected 0x00C2 .hif none none (gen % 16) (put r F.HIF_STATUS_LINK_UP 0 s)
    .next (settle (deviceReset wr false s))

/-- PCIE_LINK_UP (R497): the link trains at a generation of 1 to 6 and a width of 1 to 16. -/
def execPcieLinkUp (gen : Fin 7) (width : Fin 17) (s : State) : Outcome State Fault Refusal :=
  let r := Reg.HIF_STATUS
  if gen.val = 0 ∨ !([1, 2, 4, 8, 16].contains width.val) ∨ !s.pins.perst then .next s
  else .next (put r F.HIF_STATUS_WIDTH width.val (put r F.HIF_STATUS_SPEED gen.val (raise r F.HIF_STATUS_LINK_UP s)))

/-- POWER_ON_RESET (R500, R510, R517): everything is at reset but fuses, flash and what drives the pins; the boot ROM starts firmware, which
reads the configuration and drives MAIN_EN. -/
def execPowerOnReset (s0 : State) : Outcome State Fault Refusal :=
  let m := s0.mgmt
  let s : State := { State.reset with
    mgmt := { Mgmt.init with slot0 := m.slot0, slot1 := m.slot1, imgA := m.imgA, imgB := m.imgB }
    pins := { s0.pins with mainEn := false, thermtrip := true }
    free := s0.free
    out := s0.out
    pending := s0.pending }
  let s := bootFirmware s
  .next (showPins (if s.recovery then s else driveMain true (readConfig s)))

/-- PWR_GOOD_RISE (R545): PWR_GOOD rises with every rail in order, and step 5 follows. Where it is high already there is no such event (log 6). -/
def execPwrGoodRise (dir0 dir1 : List (Fin 5 × Nat)) (badStacks : BitVec 8) (s : State) : Outcome State Fault Refusal :=
  if s.pins.pwrGood then .next s
  else
    let s := showPins { s with pins := { s.pins with pwrGood := true, vrFault := true } }
    .next (settle (if s.fatal then s else bringUp wr dir0 dir1 badStacks s))

/-! ### MGT and CFG commands (R511 to R518, R527, R528) -/

/-- CLEAR_COUNTERS (R527). -/
def execClearCounters (s : State) : Outcome State Fault Refusal := .next (settle (mgtCommand wr 1 s))
/-- SNAPSHOT (R528). -/
def execSnapshot (s : State) : Outcome State Fault Refusal := .next (settle (mgtCommand wr 2 s))
/-- SIGN (R515). -/
def execSign (s : State) : Outcome State Fault Refusal := .next (settle (mgtCommand wr 3 s))
/-- DEVICE_RESET (R500). -/
def execDeviceReset (s : State) : Outcome State Fault Refusal := .next (settle (mgtCommand wr 4 s))
/-- FW_STAGE (R511). -/
def execFwStage (s : State) : Outcome State Fault Refusal := .next (settle (mgtCommand wr 5 s))
/-- FW_ACTIVATE (R512). -/
def execFwActivate (s : State) : Outcome State Fault Refusal := .next (settle (mgtCommand wr 6 s))
/-- CFG_WRITE (R518): a write of WRITE to CFG_CMD. -/
def execCfgWrite (len : BitVec 32) (s : State) : Outcome State Fault Refusal :=
  .next (if s.recovery then s else settle (cfgWrite len.toNat s))

/-- SNAPSHOT_WRITTEN (R528): a record is at DEST, and triggers are taken again. -/
def execSnapshotWritten (s : State) : Outcome State Fault Refusal :=
  if !s.mgmt.recording then .next s
  else
    let s := { s with mgmt := { s.mgmt with recording := false } }
    .next (when (s.mgmt.cmd == 2) (mgtDone Code.DONE) s)

/-- FW_STAGE_DONE (R511): the copy verifies, and its security version is admitted, or it is refused. -/
def execFwStageDone (ok : Bool) (s : State) : Outcome State Fault Refusal :=
  if s.mgmt.cmd ≠ 5 ∨ s.mgmt.mgtWait.isSome then .next s
  else if ok && decide (s.fld Reg.MGT_STATUS F.MGT_STATUS_MIN_SVN ≤ s.mgmt.staging) then
    .next (mgtDone Code.DONE (setFwState 1 (setFwSlot s.idleSlot (some ⟨s.mgmt.staging, 0⟩) s)))
  else .next (mgtDone Code.REFUSED s)

/-- CFG_WRITE_DONE (R518): the read-back agrees, or the image stays invalid. -/
def execCfgWriteDone (ok : Bool) (s : State) : Outcome State Fault Refusal :=
  if !s.on Reg.CFG_STATUS F.CFG_STATUS_WRITE_BUSY ∨ s.mgmt.cfgWait.isSome then .next s
  else if ok then .next (cfgDone Code.DONE (setCfgImage s.spareImage (some ⟨s.cfgSeq + 1, s.mgmt.writing⟩) s))
  else .next (cfgDone Code.REFUSED (setCfgImage s.spareImage none s))

/-! ### Hand-over (R512, R513) -/

/-- HANDOVER_BEGIN (R512): with WAIT zero, the queues are held and the new image starts. -/
def execHandoverBegin (s : State) : Outcome State Fault Refusal :=
  if s.fwState ≠ 2 ∨ s.fld Reg.MGT_CMD_STATUS F.MGT_CMD_STATUS_WAIT ≠ 0 then .next s
  else
    let s := put Reg.MGT_STATUS F.MGT_STATUS_STATE 2 (setFwState 3 s)
    .next (mapRegs (fun off => decide (Reg.Q_STATUS 0 ≤ off) && (off - Reg.Q_STATUS 0) % 0x1000 == 0)
      (fun _ w => if w.get F.Q_STATUS_STATE = QState.RUNNING then w.put F.Q_STATUS_STATE QState.HELD else w) s)

/-- HANDOVER_READY (R512): the slot of the new image gets the highest ACTIVE_SEQ and runs. -/
def execHandoverReady (s : State) : Outcome State Fault Refusal :=
  if !s.handover then .next s
  else
    let k := s.idleSlot
    let top := max ((s.mgmt.slot0.map (·.seq)).getD 0) ((s.mgmt.slot1.map (·.seq)).getD 0)
    let s := setFwSlot k ((s.fwSlot k).map fun x => { x with seq := top + 1 }) s
    .next (settle (endHandover wr 0 Code.DONE (runSlot k s)))

/-- HANDOVER_TIMEOUT (R512): the previous image runs again, and the staged slot stays. -/
def execHandoverTimeout (s : State) : Outcome State Fault Refusal :=
  if !s.handover then .next s
  else .next (settle (endHandover wr 1 Code.TIMEOUT (postCorrected 0x00C4 .mgt none none Code.TIMEOUT s)))

/-! ### Ledger, watchdog and attestation (R514, R522, R526) -/

/-- ERR_RP_WRITE (R522). -/
def execErrRpWrite (v : Word) (s : State) : Outcome State Fault Refusal := .next (ledgerRp v s)

/-- MGT_WATCHDOG (R526): the running image restarts. -/
def execMgtWatchdog (pc : BitVec 32) (s : State) : Outcome State Fault Refusal := .next (postCorrected 0x00C5 .mgt none none pc.toNat s)

/-- Whether a request lies within the options of R514. -/
def State.spdmOk (s : State) : SpdmReq → Bool
  | .getVersion => true
  | .getCapabilities => true
  | .negotiateAlgorithms => true
  | .getDigests => true
  | .getCertificate slot => slot.val == 0
  | .challenge => true
  | .getMeasurements i => decide (i.toNat ≤ 5) || i == 0xFF
  | .keyExchange => decide (s.mgmt.sessions.length < 4)
  | .finish => !s.mgmt.sessions.isEmpty
  | .heartbeat => !s.mgmt.sessions.isEmpty
  | .endSession n => s.mgmt.sessions.contains n.val
  | .chunkGet => true
  | .setCertificate => false
  | .unknown => false

/-- The sessions after a request. -/
def spdmSessions (r : SpdmReq) (l : List Nat) : List Nat :=
  match r with
  | .keyExchange => match (List.range 4).find? (fun n => !l.contains n) with
    | some n => insertMark n l
    | none => l
  | .endSession n => l.filter (· ≠ n.val)
  | _ => l

/-- SPDM_REQUEST (R513, R514): answered, refused as unsupported (7), or answered Busy (3) during a hand-over. -/
def execSpdmRequest (r : SpdmReq) (s : State) : Outcome State Fault Refusal :=
  if s.handover then .next (emit (.spdm false 3 []) s)
  else if !s.spdmOk r then .next (emit (.spdm false 7 []) s)
  else
    let s := { s with mgmt := { s.mgmt with sessions := spdmSessions r s.mgmt.sessions } }
    .next (emit (.spdm true 0 []) s)

end Sys2Proof.Machine
end

