-- ==== Sys2Proof/Machine/Matrix.lean ====
section
/-! DEFINITION. The commands of the outer-product engine (chapter 04). -/
namespace Sys2Proof.Machine
open Host (Outcome)

/-- MMA (R161). -/
def execMma (p : Fin 160) (g : Guard) (bank : Fin 4) (fmta fmtb : BitVec 4) (aa ab : Fin 16) (sd : Fin 32) (clr : Bool) (s : State) : Outcome State Fault Refusal :=
  .next (settle (presentMat p.val g (.mma bank fmta fmtb aa ab sd clr) s))

/-- MOUT (R170). -/
def execMout (p : Fin 160) (g : Guard) (bank : Fin 4) (fmta : BitVec 4) (aa : Fin 16) (sd : Fin 32) (rnd : BitVec 2) (s : State) : Outcome State Fault Refusal :=
  .next (settle (presentMat p.val g (.mout bank fmta aa sd rnd) s))

/-- MCLR (R176). -/
def execMclr (p : Fin 160) (g : Guard) (bank : Fin 4) (s : State) : Outcome State Fault Refusal :=
  .next (settle (presentMat p.val g (.mclr bank) s))

/-- MLDA (R176). -/
def execMlda (p : Fin 160) (g : Guard) (bank : Fin 4) (aa : Fin 16) (s : State) : Outcome State Fault Refusal :=
  .next (settle (presentMat p.val g (.mlda bank aa) s))

/-- MSTA (R176). -/
def execMsta (p : Fin 160) (g : Guard) (bank : Fin 4) (aa : Fin 16) (s : State) : Outcome State Fault Refusal :=
  .next (settle (presentMat p.val g (.msta bank aa) s))

/-- MATRIX_START (R164): the first waiting entry of the queue starts, where its predecessors let it. -/
def execMatrixStart (p : Fin 160) (s : State) : Outcome State Fault Refusal :=
  .next (if s.fatal then s else settle (startMatrix p.val s))

/-- MATRIX_COMPLETE (R166): a started entry completes. -/
def execMatrixComplete (p : Fin 160) (i : Fin 4) (s : State) : Outcome State Fault Refusal :=
  .next (settle (completeMatrix p.val i.val s))

/-- MXE_CTRL_WRITE (R178). -/
def execMxeCtrlWrite (p : Fin 160) (v : Word) (s : State) : Outcome State Fault Refusal :=
  .next (tileSpaceWrite p.val (Reg.MXE_CTRL p.val - Reg.TILE_CTRL p.val) v s)

end Sys2Proof.Machine
end

