-- ==== Sys2Proof/Machine/TideRows.lean ====
section
/-! DEFINITION. The commands of the tide unit (chapter 02): advances, tree frames, the two-phase mode change, and the registers of a
domain. -/
namespace Sys2Proof.Machine

open Host (Outcome)

/-! ### Advances -/

/-- NEXT_TICK (R65, R66). -/
def execNextTick (d : Fin 16) (s : State) : Outcome State Fault Refusal := .next (settle (advanceBy d.val (nextTick wr d.val) s))
/-- NEXT_PHASE (R65, R68). -/
def execNextPhase (d : Fin 16) (s : State) : Outcome State Fault Refusal := .next (settle (advanceBy d.val (nextPhase wr d.val) s))
/-- SET (R65, R66). -/
def execSet (d : Fin 16) (s : State) : Outcome State Fault Refusal := .next (settle (advanceBy d.val (setTide wr d.val) s))
/-- TIDE_IN_EDGE (R70, R71). -/
def execTideInEdge (level : Bool) (s : State) : Outcome State Fault Refusal := .next (settle (tideIn wr level s))
/-- GATED_ADVANCE (R81). -/
def execGatedAdvance (d : Fin 16) (s : State) : Outcome State Fault Refusal := .next (settle (gatedAdvance wr d.val s))
/-- MODE_HOLD_RELEASE (R94). -/
def execModeHoldRelease (d : Fin 16) (s : State) : Outcome State Fault Refusal := .next (settle (holdRelease wr d.val s))

/-! ### Values, readiness and notices on the tree -/

/-- TIDE_VALUE (R63). -/
def execTideValue (d : Fin 16) (h : Hop) (v : Word) (acts arg : BitVec 16) (s : State) : Outcome State Fault Refusal :=
  .next (settle (takeFrame h (receiveTide wr d.val v acts.toNat arg.toNat) s))
/-- READY (R80): a frame from a child that is valid. -/
def execReady (d : Fin 16) (h : Hop) (child : Fin 7) (v : Word) (s : State) : Outcome State Fault Refusal :=
  .next (takeFrame h (fun s =>
    if s.role d.val ≠ Role.OFF ∧ (s.children d.val).contains child.val then receiveReady d.val child.val v s else s) s)
/-- READY_SEND (R80, R83). -/
def execReadySend (d : Fin 16) (s : State) : Outcome State Fault Refusal := .next (sendReady d.val s)
/-- LOST (R76). -/
def execLost (d : Fin 16) (h : Hop) (dev : BitVec 13) (s : State) : Outcome State Fault Refusal :=
  .next (settle (takeFrame h (receiveLost wr d.val dev.toNat) s))
/-- NEIGHBOUR_LOST (R75, R76). -/
def execNeighbourLost (d : Fin 16) (child : Option (Fin 7)) (s : State) : Outcome State Fault Refusal :=
  .next (settle (loseNeighbour wr d.val (child.map Fin.val) s))

/-! ### Heartbeats (R74, R96) -/

/-- HEARTBEAT_SEND (R74). -/
def execHeartbeatSend (p : Fin 32) (s : State) : Outcome State Fault Refusal :=
  let gens := ((List.range 16).filter fun d => s.role d ≠ Role.OFF).map fun d => (d, s.modeGen d % 256)
  .next (if s.on (Reg.FAB_P_STATUS p.val) F.FAB_P_STATUS_CTRL_LOCK then heartbeatOut p.val (.heartbeat s.deviceId gens) s else s)

/-- A generation `g` of domain `d` in a heartbeat (R96): one ahead of this device's makes it stale, unless it holds the record armed. -/
def compareGen (d g : Nat) (s : State) : State :=
  let diff := (g + 256 - s.modeGen d % 256) % 256
  let armed := (s.dom d).record.any fun r => recGen r % 256 == g
  if s.role d ≠ Role.OFF ∧ 1 ≤ diff ∧ diff ≤ 127 ∧ !armed then becomeStale d s else s

/-- HEARTBEAT (R75, R96): the neighbour is alive, which the absence of NEIGHBOUR_LOST shows. One whose check fails is counted and discarded,
and a port out of service or closed accepts none (R268, R556). -/
def execHeartbeat (p : Fin 32) (ok : Bool) (dev : BitVec 13) (gens : List (Fin 16 × BitVec 8)) (s : State) :
    Outcome State Fault Refusal :=
  let _ := dev
  if !s.usable p.val || (s.port p.val).closed then .next s
  else if !ok then .next (bump (Reg.FAB_P_CRC_ERRORS p.val) s)
  else .next (forEach gens (fun e => compareGen e.1.val e.2.toNat) s)

/-! ### The two-phase mode change (R91 to R98) -/

/-- MODE_ARM (R91). -/
def execModeArm (d : Fin 16) (s : State) : Outcome State Fault Refusal := .next (modeCmd d.val (modeArm d.val) s)
/-- MODE_CANCEL (R98). -/
def execModeCancel (d : Fin 16) (s : State) : Outcome State Fault Refusal := .next (modeCmd d.val (modeCancel d.val) s)
/-- MODE_REARM (R97). -/
def execModeRearm (d : Fin 16) (dev : BitVec 13) (s : State) : Outcome State Fault Refusal :=
  .next (settle (modeCmd d.val (modeRearm wr d.val dev.toNat) s))

/-- Whether device takes part in a domain as a member that hears its parent. -/
def State.hears (s : State) (d : Nat) : Bool := s.role d == Role.MEMBER && s.parentValid d

/-- ARM (R92): forwarded; a record that the units accept arms this device, any other is answered NACK. An earlier record is gone. -/
def receiveArm (d : Nat) (r : List Word) (s : State) : State :=
  if !s.hears d then s
  else
    let s := when (s.modeState d != ModeSt.NONE) (clearMode d) (toChildren d (.arm d r) s)
    if recAccepted d r s then gatherAcks d (armLocal d r s) else toParent d (.nack d) s

/-- ACK (R92, R93): of an armed change. -/
def receiveAck (d c : Nat) (s : State) : State :=
  if s.modeState d ≠ ModeSt.ARMED then s
  else gatherAcks d (setDom d { s.dom d with acked := insertMark c (s.dom d).acked } s)

/-- NACK (R92): the root aborts the change; a member forwards it. -/
def receiveNack (d : Nat) (s : State) : State :=
  if s.role d = Role.ROOT then when (s.modeState d == ModeSt.ARMED) (abortMode d Code.REFUSED) s
  else when (s.role d == Role.MEMBER) (toParent d (.nack d)) s

/-- COMMIT (R93): the generation rises before COMMIT is forwarded. -/
def receiveCommit (d : Nat) (s : State) : State :=
  if !s.hears d then s
  else toChildren d (.commit d) (if s.modeState d = ModeSt.ARMED then commitLocal d (((s.dom d).record.map recGen).getD 0) s else s)

/-- ABORT (R95, R98). -/
def receiveAbort (d : Nat) (s : State) : State :=
  if !s.hears d then s
  else toChildren d (.abort d) (when (s.modeState d != ModeSt.NONE) (fun s => bump (Reg.TIDE_ABORT_COUNT d) (abortLocal d s)) s)

/-- REARM (R97): for this device, or for one below it. -/
def receiveRearm (d dev : Nat) (r : List Word) (s : State) : State :=
  if !s.hears d then s else if dev = s.deviceId then rearmLocal wr d r s else toChildren d (.rearm d dev r) s

/-- STALE (R96): the root records it; a member forwards it. -/
def receiveStale (d dev : Nat) (s : State) : State :=
  if s.role d = Role.ROOT then
    raise (Reg.TIDE_DSTATUS d) F.TIDE_DSTATUS_STALE_SEEN (setDom d { s.dom d with staleDevs := insertMark dev (s.dom d).staleDevs } s)
  else when (s.role d == Role.MEMBER) (toParent d (.stale d dev)) s

/-- ARM (R92): its frame. -/
def execArm (d : Fin 16) (h : Hop) (r : List Word) (s : State) : Outcome State Fault Refusal :=
  .next (takeFrame h (receiveArm d.val r) s)
/-- ACK (R92, R93): its frame, from a child. -/
def execAck (d : Fin 16) (h : Hop) (child : Fin 7) (s : State) : Outcome State Fault Refusal :=
  .next (takeFrame h (receiveAck d.val child.val) s)
/-- NACK (R92): its frame, from a child. -/
def execNack (d : Fin 16) (h : Hop) (child : Fin 7) (s : State) : Outcome State Fault Refusal :=
  let _ := child
  .next (takeFrame h (receiveNack d.val) s)
/-- COMMIT (R93): its frame. -/
def execCommit (d : Fin 16) (h : Hop) (s : State) : Outcome State Fault Refusal := .next (takeFrame h (receiveCommit d.val) s)
/-- ABORT (R95, R98): its frame. -/
def execAbort (d : Fin 16) (h : Hop) (s : State) : Outcome State Fault Refusal := .next (takeFrame h (receiveAbort d.val) s)
/-- REARM (R97): its frame. -/
def execRearm (d : Fin 16) (h : Hop) (dev : BitVec 13) (r : List Word) (s : State) : Outcome State Fault Refusal :=
  .next (settle (takeFrame h (receiveRearm d.val dev.toNat r) s))
/-- STALE (R96): its frame. -/
def execStale (d : Fin 16) (h : Hop) (dev : BitVec 13) (s : State) : Outcome State Fault Refusal :=
  .next (takeFrame h (receiveStale d.val dev.toNat) s)

/-! ### Timer, slots and registers -/

/-- TIMER_EXPIRY (R90). -/
def execTimerExpiry (d : Fin 16) (s : State) : Outcome State Fault Refusal := .next (timerExpires d.val s)
/-- TIMER_WRITE (R90). -/
def execTimerWrite (d : Fin 16) (v : Word) (s : State) : Outcome State Fault Refusal := .next (rootWrite d.val (timerWrite d.val v) s)
/-- TIDE_CTRL_WRITE (R73). -/
def execTideCtrlWrite (d : Fin 16) (v : Word) (s : State) : Outcome State Fault Refusal := .next (tideCtrl d.val v s)
/-- ROLE_OFF (R554): a write of TIDE_Dn_CTRL that sets ROLE to OFF. -/
def execRoleOff (d : Fin 16) (v : Word) (s : State) : Outcome State Fault Refusal :=
  .next (tideCtrl d.val (v.put F.TIDE_CTRL_ROLE Role.OFF) s)
/-- TIDE_NEIGHBOUR_WRITE (R73). -/
def execTideNeighbourWrite (d : Fin 16) (child : Option (Fin 7)) (v : Word) (s : State) : Outcome State Fault Refusal :=
  .next (tideNeighbour d.val (child.map Fin.val) v s)
/-- TIDE_READY_WRITE (R79). -/
def execTideReadyWrite (d : Fin 16) (v : Word) (s : State) : Outcome State Fault Refusal := .next (tideReady d.val v s)
/-- SLOT_CTRL_WRITE (R86). -/
def execSlotCtrlWrite (d : Fin 16) (k : Fin 256) (v : Word) (s : State) : Outcome State Fault Refusal :=
  .next (settle (slotCtrl wr d.val k.val v s))

/-- OUTER_GRACE_EXPIRY (R471). -/
def execOuterGraceExpiry (s : State) : Outcome State Fault Refusal := .next (settle (outerGrace wr s))

end Sys2Proof.Machine
end

