-- ==== Sys2Proof/Machine/Vector.lean ====
section
/-! DEFINITION. The instructions of the vector slot (chapter 05): each is presented as a bundle of one slot. -/
namespace Sys2Proof.Machine
open Host (Outcome)

/-- VADD (R183). -/
def execVadd (p : Fin 160) (g : Guard) (d a b : Fin 32) (fmt : BitVec 4) (s : State) : Outcome State Fault Refusal :=
  .next (settle (presentVec p.val g (.op .vadd d a b 0 fmt 0 0) s))

/-- VSUB (R183). -/
def execVsub (p : Fin 160) (g : Guard) (d a b : Fin 32) (fmt : BitVec 4) (s : State) : Outcome State Fault Refusal :=
  .next (settle (presentVec p.val g (.op .vsub d a b 0 fmt 0 0) s))

/-- VMUL (R183). -/
def execVmul (p : Fin 160) (g : Guard) (d a b : Fin 32) (fmt : BitVec 4) (s : State) : Outcome State Fault Refusal :=
  .next (settle (presentVec p.val g (.op .vmul d a b 0 fmt 0 0) s))

/-- VFMA (R183). -/
def execVfma (p : Fin 160) (g : Guard) (d a b c : Fin 32) (fmt : BitVec 4) (s : State) : Outcome State Fault Refusal :=
  .next (settle (presentVec p.val g (.op .vfma d a b c fmt 0 0) s))

/-- VMIN (R184). -/
def execVmin (p : Fin 160) (g : Guard) (d a b : Fin 32) (fmt : BitVec 4) (s : State) : Outcome State Fault Refusal :=
  .next (settle (presentVec p.val g (.op .vmin d a b 0 fmt 0 0) s))

/-- VMAX (R184). -/
def execVmax (p : Fin 160) (g : Guard) (d a b : Fin 32) (fmt : BitVec 4) (s : State) : Outcome State Fault Refusal :=
  .next (settle (presentVec p.val g (.op .vmax d a b 0 fmt 0 0) s))

/-- VCVT (R190). -/
def execVcvt (p : Fin 160) (g : Guard) (d a b : Fin 32) (fmt : BitVec 4) (rnd : BitVec 2) (func : BitVec 8) (s : State) : Outcome State Fault Refusal :=
  .next (settle (presentVec p.val g (.op .vcvt d a b 0 fmt rnd func) s))

/-- VSFU (R192). -/
def execVsfu (p : Fin 160) (g : Guard) (d a : Fin 32) (fmt : BitVec 4) (func : BitVec 8) (s : State) : Outcome State Fault Refusal :=
  .next (settle (presentVec p.val g (.op .vsfu d a 0 0 fmt 0 func) s))

/-- VSMX (R194). -/
def execVsmx (p : Fin 160) (g : Guard) (d a b c : Fin 32) (fmt : BitVec 4) (func : BitVec 8) (s : State) : Outcome State Fault Refusal :=
  .next (settle (presentVec p.val g (.op .vsmx d a b c fmt 0 func) s))

/-- VROPE (R198). -/
def execVrope (p : Fin 160) (g : Guard) (d a b c : Fin 32) (fmt : BitVec 4) (func : BitVec 8) (s : State) : Outcome State Fault Refusal :=
  .next (settle (presentVec p.val g (.op .vrope d a b c fmt 0 func) s))

/-- VMASK (R196). -/
def execVmask (p : Fin 160) (g : Guard) (d a b : Fin 32) (fmt : BitVec 4) (func : BitVec 8) (s : State) : Outcome State Fault Refusal :=
  .next (settle (presentVec p.val g (.op .vmask d a b 0 fmt 0 func) s))

/-- VRED (R185). -/
def execVred (p : Fin 160) (g : Guard) (d a : Fin 32) (fmt : BitVec 4) (func : BitVec 8) (s : State) : Outcome State Fault Refusal :=
  .next (settle (presentVec p.val g (.op .vred d a 0 0 fmt 0 func) s))

/-- VSEL (R182). -/
def execVsel (p : Fin 160) (g : Guard) (d a b c : Fin 32) (fmt : BitVec 4) (s : State) : Outcome State Fault Refusal :=
  .next (settle (presentVec p.val g (.op .vsel d a b c fmt 0 0) s))

/-- VBCAST (R182). -/
def execVbcast (p : Fin 160) (g : Guard) (d a : Fin 32) (fmt : BitVec 4) (s : State) : Outcome State Fault Refusal :=
  .next (settle (presentVec p.val g (.op .vbcast d a 0 0 fmt 0 0) s))

/-- VCMP (R184). -/
def execVcmp (p : Fin 160) (g : Guard) (d a b : Fin 32) (fmt : BitVec 4) (func : BitVec 8) (s : State) : Outcome State Fault Refusal :=
  .next (settle (presentVec p.val g (.op .vcmp d a b 0 fmt 0 func) s))

/-- VLOG (R116). -/
def execVlog (p : Fin 160) (g : Guard) (d a b : Fin 32) (fmt : BitVec 4) (func : BitVec 8) (s : State) : Outcome State Fault Refusal :=
  .next (settle (presentVec p.val g (.op .vlog d a b 0 fmt 0 func) s))

/-- VIADD (R116). -/
def execViadd (p : Fin 160) (g : Guard) (d a b : Fin 32) (fmt : BitVec 4) (s : State) : Outcome State Fault Refusal :=
  .next (settle (presentVec p.val g (.op .viadd d a b 0 fmt 0 0) s))

/-- VRNG (R137). -/
def execVrng (p : Fin 160) (g : Guard) (d : Fin 32) (fmt : BitVec 4) (s : State) : Outcome State Fault Refusal :=
  .next (settle (presentVec p.val g (.op .vrng d 0 0 0 fmt 0 0) s))

end Sys2Proof.Machine
end

