-- ==== Sys2Proof/Machine/Dispatch.lean ====
section
/-! DEFINITION. The effect of every command, one arm per constructor of Instr. -/
namespace Sys2Proof.Machine

/-- The effect of command `i` on everything but the queue. -/
def exec (i : Instr) (s : State) : Host.Outcome State Fault Refusal :=
  match i with
  | .registerWrite off width v => Sys2Proof.Machine.execRegisterWrite off width v s
  | .counterWrite off v => Sys2Proof.Machine.execCounterWrite off v s
  | .wmWrite w v => Sys2Proof.Machine.execWmWrite w v s
  | .flitRetry link => Sys2Proof.Machine.execFlitRetry link s
  | .trimTrack sg mv margin => Sys2Proof.Machine.execTrimTrack sg mv margin s
  | .signalFailed sg => Sys2Proof.Machine.execSignalFailed sg s
  | .flrPinWrite n v => Sys2Proof.Machine.execFlrPinWrite n v s
  | .pairClearDone => Sys2Proof.Machine.execPairClearDone s
  | .trimSelWrite v => Sys2Proof.Machine.execTrimSelWrite v s
  | .nextTick d => Sys2Proof.Machine.execNextTick d s
  | .nextPhase d => Sys2Proof.Machine.execNextPhase d s
  | .set d => Sys2Proof.Machine.execSet d s
  | .tideInEdge level => Sys2Proof.Machine.execTideInEdge level s
  | .tideCtrlWrite d v => Sys2Proof.Machine.execTideCtrlWrite d v s
  | .roleOff d v => Sys2Proof.Machine.execRoleOff d v s
  | .tideNeighbourWrite d child v => Sys2Proof.Machine.execTideNeighbourWrite d child v s
  | .tideReadyWrite d v => Sys2Proof.Machine.execTideReadyWrite d v s
  | .tideValue d h v acts arg => Sys2Proof.Machine.execTideValue d h v acts arg s
  | .slotCtrlWrite d k v => Sys2Proof.Machine.execSlotCtrlWrite d k v s
  | .heartbeatSend p => Sys2Proof.Machine.execHeartbeatSend p s
  | .heartbeat p ok dev gens => Sys2Proof.Machine.execHeartbeat p ok dev gens s
  | .neighbourLost d child => Sys2Proof.Machine.execNeighbourLost d child s
  | .lost d h dev => Sys2Proof.Machine.execLost d h dev s
  | .ready d h child v => Sys2Proof.Machine.execReady d h child v s
  | .readySend d => Sys2Proof.Machine.execReadySend d s
  | .gatedAdvance d => Sys2Proof.Machine.execGatedAdvance d s
  | .modeHoldRelease d => Sys2Proof.Machine.execModeHoldRelease d s
  | .timerExpiry d => Sys2Proof.Machine.execTimerExpiry d s
  | .timerWrite d v => Sys2Proof.Machine.execTimerWrite d v s
  | .modeArm d => Sys2Proof.Machine.execModeArm d s
  | .modeCancel d => Sys2Proof.Machine.execModeCancel d s
  | .modeRearm d dev => Sys2Proof.Machine.execModeRearm d dev s
  | .arm d h r => Sys2Proof.Machine.execArm d h r s
  | .ack d h child => Sys2Proof.Machine.execAck d h child s
  | .nack d h child => Sys2Proof.Machine.execNack d h child s
  | .commit d h => Sys2Proof.Machine.execCommit d h s
  | .abort d h => Sys2Proof.Machine.execAbort d h s
  | .rearm d h dev r => Sys2Proof.Machine.execRearm d h dev r s
  | .stale d h dev => Sys2Proof.Machine.execStale d h dev s
  | .bundleIssue p ue => Sys2Proof.Machine.execBundleIssue p ue s
  | .waitTimeout p => Sys2Proof.Machine.execWaitTimeout p s
  | .li p g d imm => Sys2Proof.Machine.execLi p g d imm s
  | .lui p g d a imm => Sys2Proof.Machine.execLui p g d a imm s
  | .addi p g d a imm => Sys2Proof.Machine.execAddi p g d a imm s
  | .alu p g d a b func => Sys2Proof.Machine.execAlu p g d a b func s
  | .cmp p g d a b func => Sys2Proof.Machine.execCmp p g d a b func s
  | .cmpi p g d a func imm => Sys2Proof.Machine.execCmpi p g d a func imm s
  | .plog p g d a b func => Sys2Proof.Machine.execPlog p g d a b func s
  | .movsa p g d a => Sys2Proof.Machine.execMovsa p g d a s
  | .movas p g d a => Sys2Proof.Machine.execMovas p g d a s
  | .adda p g d a imm => Sys2Proof.Machine.execAdda p g d a imm s
  | .lia p g d imm => Sys2Proof.Machine.execLia p g d imm s
  | .br p g off => Sys2Proof.Machine.execBr p g off s
  | .jmp p g a => Sys2Proof.Machine.execJmp p g a s
  | .call p g off => Sys2Proof.Machine.execCall p g off s
  | .ret p g => Sys2Proof.Machine.execRet p g s
  | .loop p g a off => Sys2Proof.Machine.execLoop p g a off s
  | .twait p g pdst mode a t => Sys2Proof.Machine.execTwait p g pdst mode a t s
  | .cwait p g pdst a b t => Sys2Proof.Machine.execCwait p g pdst a b t s
  | .cpost p g a b ar => Sys2Proof.Machine.execCpost p g a b ar s
  | .cpostw p g d a b ar => Sys2Proof.Machine.execCpostw p g d a b ar s
  | .postTimeout p tag => Sys2Proof.Machine.execPostTimeout p tag s
  | .crecv p g d a t ar pdst => Sys2Proof.Machine.execCrecv p g d a t ar pdst s
  | .cfree p g a => Sys2Proof.Machine.execCfree p g a s
  | .ldone p g a w => Sys2Proof.Machine.execLdone p g a w s
  | .ldoneNotify p layer => Sys2Proof.Machine.execLdoneNotify p layer s
  | .yield p g live => Sys2Proof.Machine.execYield p g live s
  | .halt p g => Sys2Proof.Machine.execHalt p g s
  | .mfence p g => Sys2Proof.Machine.execMfence p g s
  | .csrr p g d csr => Sys2Proof.Machine.execCsrr p g d csr s
  | .rngset p g a func => Sys2Proof.Machine.execRngset p g a func s
  | .stop p => Sys2Proof.Machine.execStop p s
  | .resume p => Sys2Proof.Machine.execResume p s
  | .step p => Sys2Proof.Machine.execStep p s
  | .tileProgWrite p v => Sys2Proof.Machine.execTileProgWrite p v s
  | .tileRegWrite p off v => Sys2Proof.Machine.execTileRegWrite p off v s
  | .mma p g bank fmta fmtb aa ab sd clr => Sys2Proof.Machine.execMma p g bank fmta fmtb aa ab sd clr s
  | .mout p g bank fmta aa sd rnd => Sys2Proof.Machine.execMout p g bank fmta aa sd rnd s
  | .mclr p g bank => Sys2Proof.Machine.execMclr p g bank s
  | .mlda p g bank aa => Sys2Proof.Machine.execMlda p g bank aa s
  | .msta p g bank aa => Sys2Proof.Machine.execMsta p g bank aa s
  | .matrixStart p => Sys2Proof.Machine.execMatrixStart p s
  | .matrixComplete p n => Sys2Proof.Machine.execMatrixComplete p n s
  | .mxeCtrlWrite p v => Sys2Proof.Machine.execMxeCtrlWrite p v s
  | .vadd p g d a b fmt => Sys2Proof.Machine.execVadd p g d a b fmt s
  | .vsub p g d a b fmt => Sys2Proof.Machine.execVsub p g d a b fmt s
  | .vmul p g d a b fmt => Sys2Proof.Machine.execVmul p g d a b fmt s
  | .vfma p g d a b c fmt => Sys2Proof.Machine.execVfma p g d a b c fmt s
  | .vmin p g d a b fmt => Sys2Proof.Machine.execVmin p g d a b fmt s
  | .vmax p g d a b fmt => Sys2Proof.Machine.execVmax p g d a b fmt s
  | .vcvt p g d a b fmt rnd func => Sys2Proof.Machine.execVcvt p g d a b fmt rnd func s
  | .vsfu p g d a fmt func => Sys2Proof.Machine.execVsfu p g d a fmt func s
  | .vsmx p g d a b c fmt func => Sys2Proof.Machine.execVsmx p g d a b c fmt func s
  | .vrope p g d a b c fmt func => Sys2Proof.Machine.execVrope p g d a b c fmt func s
  | .vmask p g d a b fmt func => Sys2Proof.Machine.execVmask p g d a b fmt func s
  | .vred p g d a fmt func => Sys2Proof.Machine.execVred p g d a fmt func s
  | .vsel p g d a b c fmt => Sys2Proof.Machine.execVsel p g d a b c fmt s
  | .vbcast p g d a fmt => Sys2Proof.Machine.execVbcast p g d a fmt s
  | .vcmp p g d a b fmt func => Sys2Proof.Machine.execVcmp p g d a b fmt func s
  | .vlog p g d a b fmt func => Sys2Proof.Machine.execVlog p g d a b fmt func s
  | .viadd p g d a b fmt => Sys2Proof.Machine.execViadd p g d a b fmt s
  | .vrng p g d fmt => Sys2Proof.Machine.execVrng p g d fmt s
  | .vld p g d ar am x imm => Sys2Proof.Machine.execVld p g d ar am x imm s
  | .vst p g d ar am x imm => Sys2Proof.Machine.execVst p g d ar am x imm s
  | .sld p g d ar am x imm => Sys2Proof.Machine.execSld p g d ar am x imm s
  | .sst p g d ar am x imm => Sys2Proof.Machine.execSst p g d ar am x imm s
  | .accrd p g d bank n => Sys2Proof.Machine.execAccrd p g d bank n s
  | .accwr p g d bank n => Sys2Proof.Machine.execAccwr p g d bank n s
  | .sqpost p g d x => Sys2Proof.Machine.execSqpost p g d x s
  | .sqtest p g d x => Sys2Proof.Machine.execSqtest p g d x s
  | .sget p g d x => Sys2Proof.Machine.execSget p g d x s
  | .sput p g d ar x => Sys2Proof.Machine.execSput p g d ar x s
  | .hbmRead line e1 e2 => Sys2Proof.Machine.execHbmRead line e1 e2 s
  | .bcRead line hint met => Sys2Proof.Machine.execBcRead line hint met s
  | .bcWrite addr data hint ctx met => Sys2Proof.Machine.execBcWrite addr data hint ctx met s
  | .wcbTimeout half line e1 e2 => Sys2Proof.Machine.execWcbTimeout half line e1 e2 s
  | .scrubRead line e => Sys2Proof.Machine.execScrubRead line e s
  | .scrubLate => Sys2Proof.Machine.execScrubLate s
  | .tempReading stack c => Sys2Proof.Machine.execTempReading stack c s
  | .maintReq met => Sys2Proof.Machine.execMaintReq met s
  | .maintExit failed => Sys2Proof.Machine.execMaintExit failed s
  | .lbRun v => Sys2Proof.Machine.execLbRun v s
  | .lbStop v errs => Sys2Proof.Machine.execLbStop v errs s
  | .wcb ctx met => Sys2Proof.Machine.execWcb ctx met s
  | .wb met => Sys2Proof.Machine.execWb met s
  | .wbInv met => Sys2Proof.Machine.execWbInv met s
  | .flushDone => Sys2Proof.Machine.execFlushDone s
  | .keepWaysWrite v => Sys2Proof.Machine.execKeepWaysWrite v s
  | .listStart q => Sys2Proof.Machine.execListStart q s
  | .descriptorStart q => Sys2Proof.Machine.execDescriptorStart q s
  | .transferIssue q => Sys2Proof.Machine.execTransferIssue q s
  | .transferComplete q id => Sys2Proof.Machine.execTransferComplete q id s
  | .groupStallStart g => Sys2Proof.Machine.execGroupStallStart g s
  | .groupStallEnd g => Sys2Proof.Machine.execGroupStallEnd g s
  | .strMapWrite q v => Sys2Proof.Machine.execStrMapWrite q v s
  | .ringCtrlWrite l r v => Sys2Proof.Machine.execRingCtrlWrite l r v s
  | .message p pk stale => Sys2Proof.Machine.execMessage p pk stale s
  | .write p pk => Sys2Proof.Machine.execWrite p pk s
  | .readReq p pk => Sys2Proof.Machine.execReadReq p pk s
  | .readResp p pk => Sys2Proof.Machine.execReadResp p pk s
  | .completion p pk => Sys2Proof.Machine.execCompletion p pk s
  | .mcastWrite p pk => Sys2Proof.Machine.execMcastWrite p pk s
  | .mcastAck p pk => Sys2Proof.Machine.execMcastAck p pk s
  | .linkQuery p pk => Sys2Proof.Machine.execLinkQuery p pk s
  | .transit p pk => Sys2Proof.Machine.execTransit p pk s
  | .e2eTimeout tag => Sys2Proof.Machine.execE2eTimeout tag s
  | .linkAck p ok ctl seq => Sys2Proof.Machine.execLinkAck p ok ctl seq s
  | .nak p ok ctl seq => Sys2Proof.Machine.execNak p ok ctl seq s
  | .portRetrain p => Sys2Proof.Machine.execPortRetrain p s
  | .portTrained p peer peerPort margins => Sys2Proof.Machine.execPortTrained p peer peerPort margins s
  | .ringUnlock p w => Sys2Proof.Machine.execRingUnlock p w s
  | .ringRelock p w margin => Sys2Proof.Machine.execRingRelock p w margin s
  | .reorderRelease p => Sys2Proof.Machine.execReorderRelease p s
  | .portEnableWrite p v => Sys2Proof.Machine.execPortEnableWrite p v s
  | .injActionWrite k v => Sys2Proof.Machine.execInjActionWrite k v s
  | .rmapSlotWrite d sl v => Sys2Proof.Machine.execRmapSlotWrite d sl v s
  | .rmapLoadDone d sl => Sys2Proof.Machine.execRmapLoadDone d sl s
  | .rmapCtrlWrite d v => Sys2Proof.Machine.execRmapCtrlWrite d v s
  | .stageCtrlWrite k v => Sys2Proof.Machine.execStageCtrlWrite k v s
  | .stagePortEnable p v => Sys2Proof.Machine.execStagePortEnable p v s
  | .stagePortDisable p v => Sys2Proof.Machine.execStagePortDisable p v s
  | .stageHead p pk => Sys2Proof.Machine.execStageHead p pk s
  | .stageData p pk => Sys2Proof.Machine.execStageData p pk s
  | .spillCopy p => Sys2Proof.Machine.execSpillCopy p s
  | .grant p h c => Sys2Proof.Machine.execGrant p h c s
  | .grantRepeat p => Sys2Proof.Machine.execGrantRepeat p s
  | .credit p h => Sys2Proof.Machine.execCredit p h s
  | .alloc => Sys2Proof.Machine.execAlloc s
  | .publish => Sys2Proof.Machine.execPublish s
  | .vtRetire => Sys2Proof.Machine.execVtRetire s
  | .withdraw => Sys2Proof.Machine.execWithdraw s
  | .freeNow => Sys2Proof.Machine.execFreeNow s
  | .vtReset => Sys2Proof.Machine.execVtReset s
  | .reductionStart layer => Sys2Proof.Machine.execReductionStart layer s
  | .expUp p pk => Sys2Proof.Machine.execExpUp p pk s
  | .expDown p pk => Sys2Proof.Machine.execExpDown p pk s
  | .sum p pk => Sys2Proof.Machine.execSum p pk s
  | .runStart k => Sys2Proof.Machine.execRunStart k s
  | .runComplete k => Sys2Proof.Machine.execRunComplete k s
  | .updCommitWrite k v => Sys2Proof.Machine.execUpdCommitWrite k v s
  | .tableWrite upd v => Sys2Proof.Machine.execTableWrite upd v s
  | .granuleCopyDone g => Sys2Proof.Machine.execGranuleCopyDone g s
  | .fillComplete n => Sys2Proof.Machine.execFillComplete n s
  | .mirrorRecordRead n code data => Sys2Proof.Machine.execMirrorRecordRead n code data s
  | .mirrorWritesDone n code => Sys2Proof.Machine.execMirrorWritesDone n code s
  | .mirrorAck n code => Sys2Proof.Machine.execMirrorAck n code s
  | .harvestStart other => Sys2Proof.Machine.execHarvestStart other s
  | .harvestWriteDone t ok => Sys2Proof.Machine.execHarvestWriteDone t ok s
  | .nvmeTimeout t => Sys2Proof.Machine.execNvmeTimeout t s
  | .harvestFlushDone t ok => Sys2Proof.Machine.execHarvestFlushDone t ok s
  | .slotFree n => Sys2Proof.Machine.execSlotFree n s
  | .hold n => Sys2Proof.Machine.execHold n s
  | .unhold n => Sys2Proof.Machine.execUnhold n s
  | .discard n => Sys2Proof.Machine.execDiscard n s
  | .restore d => Sys2Proof.Machine.execRestore d s
  | .restoreDone => Sys2Proof.Machine.execRestoreDone s
  | .hrvRetry n other => Sys2Proof.Machine.execHrvRetry n other s
  | .mirRetry n => Sys2Proof.Machine.execMirRetry n s
  | .panReserveWrite v => Sys2Proof.Machine.execPanReserveWrite v s
  | .panTrigWrite d v => Sys2Proof.Machine.execPanTrigWrite d v s
  | .panDomainWrite d off v => Sys2Proof.Machine.execPanDomainWrite d off v s
  | .hrvWrite off v => Sys2Proof.Machine.execHrvWrite off v s
  | .init u k => Sys2Proof.Machine.execInit u k s
  | .update u k len => Sys2Proof.Machine.execUpdate u k len s
  | .finish u k => Sys2Proof.Machine.execFinish u k s
  | .updateFinish u k len => Sys2Proof.Machine.execUpdateFinish u k len s
  | .updateDone u k => Sys2Proof.Machine.execUpdateDone u k s
  | .chkStateWrite u k off v => Sys2Proof.Machine.execChkStateWrite u k off v s
  | .swapMigrate lt => Sys2Proof.Machine.execSwapMigrate lt s
  | .swapAbandon lt => Sys2Proof.Machine.execSwapAbandon lt s
  | .selfTestDone ok => Sys2Proof.Machine.execSelfTestDone ok s
  | .swapStopDone => Sys2Proof.Machine.execSwapStopDone s
  | .swapStopTimeout => Sys2Proof.Machine.execSwapStopTimeout s
  | .swapCopyDone readable ue => Sys2Proof.Machine.execSwapCopyDone readable ue s
  | .rplWinWrite d v => Sys2Proof.Machine.execRplWinWrite d v s
  | .winLoadDone d => Sys2Proof.Machine.execWinLoadDone d s
  | .rplCtrlWrite d off v => Sys2Proof.Machine.execRplCtrlWrite d off v s
  | .cometPostPass k => Sys2Proof.Machine.execCometPostPass k s
  | .data slot imm c => Sys2Proof.Machine.execData slot imm c s
  | .parity slot imm c => Sys2Proof.Machine.execParity slot imm c s
  | .merged c => Sys2Proof.Machine.execMerged c s
  | .request c => Sys2Proof.Machine.execRequest c s
  | .requestTimer site j group => Sys2Proof.Machine.execRequestTimer site j group s
  | .outerGate => Sys2Proof.Machine.execOuterGate s
  | .outerGraceExpiry => Sys2Proof.Machine.execOuterGraceExpiry s
  | .reload => Sys2Proof.Machine.execReload s
  | .regen => Sys2Proof.Machine.execRegen s
  | .requestAll => Sys2Proof.Machine.execRequestAll s
  | .comWrite off v => Sys2Proof.Machine.execComWrite off v s
  | .create c part epoch => Sys2Proof.Machine.execCreate c part epoch s
  | .ctxReset c => Sys2Proof.Machine.execCtxReset c s
  | .destroy c => Sys2Proof.Machine.execDestroy c s
  | .quarantine c => Sys2Proof.Machine.execQuarantine c s
  | .prtReset part => Sys2Proof.Machine.execPrtReset part s
  | .resetDrainDone c => Sys2Proof.Machine.execResetDrainDone c s
  | .resetEscalate c => Sys2Proof.Machine.execResetEscalate c s
  | .sliceEnd part => Sys2Proof.Machine.execSliceEnd part s
  | .forcedSave p => Sys2Proof.Machine.execForcedSave p s
  | .saveDone part => Sys2Proof.Machine.execSaveDone part s
  | .placementDone part => Sys2Proof.Machine.execPlacementDone part s
  | .prtTilesWrite part n v => Sys2Proof.Machine.execPrtTilesWrite part n v s
  | .prtBwWrite part v => Sys2Proof.Machine.execPrtBwWrite part v s
  | .ctxWrite c off v => Sys2Proof.Machine.execCtxWrite c off v s
  | .flr f => Sys2Proof.Machine.execFlr f s
  | .dbSqTail c v => Sys2Proof.Machine.execDbSqTail c v s
  | .dbCqHead c v => Sys2Proof.Machine.execDbCqHead c v s
  | .dbWake c => Sys2Proof.Machine.execDbWake c s
  | .flush c => Sys2Proof.Machine.execFlush c s
  | .qCfgWrite c off v => Sys2Proof.Machine.execQCfgWrite c off v s
  | .nop c h => Sys2Proof.Machine.execNop c h s
  | .copyIn c h data => Sys2Proof.Machine.execCopyIn c h data s
  | .copyOut c h => Sys2Proof.Machine.execCopyOut c h s
  | .wake c h => Sys2Proof.Machine.execWake c h s
  | .write64 c h => Sys2Proof.Machine.execWrite64 c h s
  | .nvmeRead c h => Sys2Proof.Machine.execNvmeRead c h s
  | .hostCmdComplete c => Sys2Proof.Machine.execHostCmdComplete c s
  | .hostCompletion c cid st => Sys2Proof.Machine.execHostCompletion c cid st s
  | .dmaTimeout c cid => Sys2Proof.Machine.execDmaTimeout c cid s
  | .pcieLinkDown => Sys2Proof.Machine.execPcieLinkDown s
  | .perst level => Sys2Proof.Machine.execPerst level s
  | .hotReset => Sys2Proof.Machine.execHotReset s
  | .clearCounters => Sys2Proof.Machine.execClearCounters s
  | .snapshot => Sys2Proof.Machine.execSnapshot s
  | .sign => Sys2Proof.Machine.execSign s
  | .deviceReset => Sys2Proof.Machine.execDeviceReset s
  | .fwStage => Sys2Proof.Machine.execFwStage s
  | .fwActivate => Sys2Proof.Machine.execFwActivate s
  | .handoverBegin => Sys2Proof.Machine.execHandoverBegin s
  | .handoverReady => Sys2Proof.Machine.execHandoverReady s
  | .handoverTimeout => Sys2Proof.Machine.execHandoverTimeout s
  | .cfgWrite len => Sys2Proof.Machine.execCfgWrite len s
  | .errRpWrite v => Sys2Proof.Machine.execErrRpWrite v s
  | .mgtWatchdog pc => Sys2Proof.Machine.execMgtWatchdog pc s
  | .spdmRequest r => Sys2Proof.Machine.execSpdmRequest r s
  | .ethFrame n k len => Sys2Proof.Machine.execEthFrame n k len s
  | .cnp qp => Sys2Proof.Machine.execCnp qp s
  | .qptabWrite v => Sys2Proof.Machine.execQptabWrite v s
  | .powerOnReset => Sys2Proof.Machine.execPowerOnReset s
  | .pwrGoodRise dir0 dir1 badStacks => Sys2Proof.Machine.execPwrGoodRise dir0 dir1 badStacks s
  | .railSample r mv da => Sys2Proof.Machine.execRailSample r mv da s
  | .voltageLoop die margin target => Sys2Proof.Machine.execVoltageLoop die margin target s
  | .droop die cycles => Sys2Proof.Machine.execDroop die cycles s
  | .sustainedLoop watts => Sys2Proof.Machine.execSustainedLoop watts s
  | .surgeBegin => Sys2Proof.Machine.execSurgeBegin s
  | .surgeEnd => Sys2Proof.Machine.execSurgeEnd s
  | .currentClamp src => Sys2Proof.Machine.execCurrentClamp src s
  | .clampRelease => Sys2Proof.Machine.execClampRelease s
  | .thermalLoop rs => Sys2Proof.Machine.execThermalLoop rs s
  | .thermtrip r => Sys2Proof.Machine.execThermtrip r s
  | .tripClear => Sys2Proof.Machine.execTripClear s
  | .railLoss k => Sys2Proof.Machine.execRailLoss k s
  | .throttleN level => Sys2Proof.Machine.execThrottleN level s
  | .pwrCtrlWrite v => Sys2Proof.Machine.execPwrCtrlWrite v s
  | .grantAcknowledge p h => Sys2Proof.Machine.execGrantAcknowledge p h s
  | .stageEntryWritten p => Sys2Proof.Machine.execStageEntryWritten p s
  | .classCredit h cls => Sys2Proof.Machine.execClassCredit h cls s
  | .pcieLinkUp gen width => Sys2Proof.Machine.execPcieLinkUp gen width s
  | .outerPortLink n up fec => Sys2Proof.Machine.execOuterPortLink n up fec s
  | .pfcPauseFrame n pause => Sys2Proof.Machine.execPfcPauseFrame n pause s
  | .rdmaRequestServed n qp isRead addr data => Sys2Proof.Machine.execRdmaRequestServed n qp isRead addr data s
  | .cnpRateRecovery qp => Sys2Proof.Machine.execCnpRateRecovery qp s
  | .qpTableLoaded => Sys2Proof.Machine.execQpTableLoaded s
  | .fwStageDone ok => Sys2Proof.Machine.execFwStageDone ok s
  | .cfgWriteDone ok => Sys2Proof.Machine.execCfgWriteDone ok s
  | .snapshotWritten => Sys2Proof.Machine.execSnapshotWritten s

end Sys2Proof.Machine
end

