-- ==== Sys2Proof/Safety.lean ====
section
/-! DEFINITION. What counts as a sound state of the device, and the terms that statements are made in. -/
namespace Sys2Proof.Machine

/-- The registers are in canonical form. -/
abbrev State.RegsWf (s : State) : Prop := Store.Wf resetValue s.regs

/-- Memory is in canonical form. -/
abbrev State.MemWf (s : State) : Prop := Memory.wf s.mem

/-- What holds of the device between commands: every table is in canonical form, no ledger entry of a memory operation is
owed, no read has symbol errors to meet, and no dropped request waits for its end. -/
structure State.Sound (s : State) : Prop where
  regs : s.RegsWf
  mem : s.MemWf
  acc : Store.Wf (fun _ => (0 : BitVec 32)) s.acc
  signals : Store.Wf (fun _ => SignalState.init) s.signals
  bundles : Store.Wf (fun _ => BundleState.init) s.bundles
  domains : Store.Wf (fun _ => TideDom.init) s.domains
  tiles : Store.Wf (fun _ => TileState.init) s.tiles
  ports : Store.Wf (fun _ => PortState.init) s.ports
  rmaps : Store.Wf (fun _ => RankMap.init) s.rmaps
  phaseSlots : Store.Wf (fun _ => 0) s.phaseSlots
  queues : Store.Wf (fun _ => StrQueue.init) s.queues
  turns : Store.Wf (fun _ => EngineTurn.init) s.turns
  stagePorts : Store.Wf (fun _ => StagePort.init) s.stagePorts
  versions : Store.Wf (fun _ => Version.init) s.versions
  replays : Store.Wf (fun _ => ReplayDom.init) s.replays
  reds : Store.Wf (fun _ => RedLayer.init) s.reds
  runs : Store.Wf (fun _ => (none : Option UpdRun)) s.runs
  panSlots : Store.Wf (fun _ => PanSlot.init) s.panSlots
  checks : Store.Wf (fun _ => (none : Option ChkRun)) s.checks
  tmErrors : Store.Wf (fun _ => 0) s.tmErrors
  ctxs : Store.Wf (fun _ => CtxExtra.init) s.ctxs
  parts : Store.Wf (fun _ => PartState.init) s.parts
  hostQs : Store.Wf (fun _ => HostQueue.init) s.hostQs
  order : Store.Wf (fun _ => 0) s.path.order
  owed : s.path.owed = []
  met : s.path.met = []
  dropped : s.dropped = []

/-- Command `c` on `s` answers a next state, and `P` holds of it. -/
def Ends (c : Instr) (s : State) (P : State → Prop) : Prop :=
  ∃ t, exec c s = .next t ∧ P t

/-- Every register whose offset is not in `W` reads as before. -/
def OnlyRegs (W : Nat → Prop) (s t : State) : Prop := ∀ a, ¬ W a → t.reg a = s.reg a

/-- Every byte of memory, every poison mark and the memory path are as before. -/
def SameMemory (s t : State) : Prop := (∀ a, t.byte a = s.byte a) ∧ t.poison = s.poison ∧ t.path = s.path

/-- Tile `p` takes a bundle now: it runs, nothing has stopped the device, no save of it waits, it holds no bundle, and its PC lies in its
program window and names no poisoned bytes. -/
def State.Takes (s : State) (p : Nat) : Prop := s.mayPresent p = true ∧ (s.tile p).held = none ∧ s.fetchFault p = none

/-- A register of the error ledger. -/
def IsLedger (a : Nat) : Prop := 0x10000 ≤ a ∧ a < 0x20000

/-- What the issue of any bundle on tile `p` writes besides the bundle's destinations: the PC, the status (its wait, and its state
after a step), the count of issued bundles, and the ledger where that count saturates. -/
def IssueRegs (p : Nat) (a : Nat) : Prop :=
  a = Reg.TILE_PC p ∨ a = Reg.TILE_STATUS p ∨ a = Reg.TILE_BUSY p ∨ IsLedger a

/-- The frame of a tile instruction that writes no memory and no accumulator: every register but those in `W` and those that any
issue writes is as before, and so are memory and the accumulators. -/
def IssueFrame (p : Nat) (W : Nat → Prop) (s t : State) : Prop :=
  OnlyRegs (fun a => W a ∨ IssueRegs p a) s t ∧ SameMemory s t ∧ t.acc = s.acc

/-- The statistics counter at `r` can still count `n` events. -/
def State.Below (s : State) (r n : Nat) : Prop := s.fld r ⟨47, 0⟩ + n ≤ 0xFFFFFFFFFFFF

/-- The statistics counter at `r` has counted `n` events. -/
def Counts (s t : State) (r n : Nat) : Prop := t.fld r ⟨47, 0⟩ = s.fld r ⟨47, 0⟩ + n

/-- An entry has been posted. -/
def Posts (s t : State) : Prop := s.posted < t.posted

/-- A packet may leave port `p` at once: its class has credit, the replay buffer has room, nothing is held back there, and no injection
rule matches it. -/
def State.Free (s : State) (pk : Packet) (p : Nat) : Prop :=
  s.fatal = false ∧ s.canSend p pk = true ∧ (s.port p).delayed = [] ∧ s.Below (Reg.FAB_P_TX_PKTS p) 1 ∧
  ∀ k, k < 32 → injects s k p pk.cls.toNat (some pk.ctx.toNat) (some pk.dest.toNat) = false

/-- A packet is routed to port `p` by one entry, waits behind no settlement and no waiting packet, and leaves at once. -/
def State.Routes (s : State) (pk : Packet) (p : Nat) : Prop :=
  s.Free pk p ∧ pk.hops.toNat + 1 ≤ s.fld Reg.FAB_CTRL F.FAB_CTRL_HOP_LIMIT ∧ (s.bestRoutes pk.dest.toNat).length ≤ 1 ∧
  s.settlesBefore pk = none ∧ s.queuesBefore pk = none ∧ s.routePort pk.src.toNat pk.dest.toNat pk.cls.toNat pk.addr.toNat = some p

/-- A routed packet has left on port `p`, one hop further, with its SEQ and CRC, and is in the replay buffer of its link sequence. -/
def SentOn (s t : State) (pk : Packet) (p : Nat) : Prop :=
  t.out = s.out ++ [.packet p (s.sealed p { pk with hops := pk.hops + 1 })] ∧ Counts s t (Reg.FAB_P_TX_PKTS p) 1 ∧
  (t.port p).lane (onCtl pk) = ((s.port p).lane (onCtl pk)).sent (.inl (s.sealed p { pk with hops := pk.hops + 1 }))

/-- The short frame that arrives as `h` is taken: its port is in service and open, its CRC holds, and it is the next of its link sequence. -/
def State.Heard (s : State) (h : Hop) : Prop :=
  s.fatal = false ∧ s.usable h.port.val = true ∧ (s.port h.port.val).closed = false ∧ h.ok = true ∧
  h.seq.toNat = ((s.port h.port.val).ctl.rx + 1) % 65536

/-- Packet `pk` is accepted on port `q`: the port is in service and open, the CRC holds for this device's identity, the packet is the next
of its link sequence, and the port's counters have room. -/
def State.Arrives (s : State) (q : Nat) (pk : Packet) : Prop :=
  s.fatal = false ∧ s.usable q = true ∧ (s.port q).closed = false ∧ pk.crc = packetCrc s.deviceId q pk ∧
  pk.seq.toNat = (((s.port q).lane (onCtl pk)).rx + 1) % 65536 ∧ s.Below (Reg.FAB_P_RX_PKTS q) 1

/-- The state once packet `pk` has come in on port `q`, before it is served: accepted, counted, acknowledged, its credit returned. -/
def State.arrived (s : State) (q : Nat) (pk : Packet) : State := (arrive q pk s).1

/-- The short frames that answer an accepted packet on its link. -/
def arrivalFrames (q : Nat) (pk : Packet) : List Output :=
  [.frame q (.linkAck (onCtl pk) pk.seq.toNat), .frame q (.classCredit pk.cls.toNat)]

/-- The acknowledgement of a short frame that is taken. -/
def hopAck (h : Hop) : Output := .frame h.port.val (.linkAck true h.seq.toNat)

/-- The COMPLETION that answers `pk`. -/
def State.answer (s : State) (pk : Packet) (code addr : Nat) : Packet :=
  { mkPacket s pk.src.toNat pk.ctx.toNat pk.epoch.toNat pk.cls.toNat Op.COMPLETION pk.tag.toNat addr 0 []
    with code := BitVec.ofNat 8 code }

/-- A hit or miss counter of a base cache. -/
def IsHitMiss (r : Nat) : Prop := ∃ h, h < 2 ∧ (r = Reg.BC_H_HIT h ∨ r = Reg.BC_H_MISS h)

/-- A STREAM read of `n` bytes of HBM from `a` is served at once and moves nothing: memory serves, no write-combining entry is open,
no pair is being cleared, no symbol is in error, no line of it is poisoned, and the hit and miss counters have room. -/
def State.Quiet (s : State) (a n : Nat) : Prop :=
  s.memRefuses = false ∧ a + n ≤ hbmEnd ∧ s.path.wcb = [] ∧ s.path.clearing = [] ∧ s.path.met = [] ∧
  (∀ la ∈ linesOf a n, s.poisoned la = false ∧ ∀ l, s.cached la = some l → l.poison = false ∧ l.data.length = 64) ∧
  ∀ h, h < 2 → s.Below (Reg.BC_H_HIT h) (n / 64 + 2) ∧ s.Below (Reg.BC_H_MISS h) (n / 64 + 2)

/-- The `n` bytes of HBM from `a` as a read returns them. -/
def State.hbmBytes (s : State) (a n : Nat) : List Byte := (List.range n).map fun i => s.hbmByte (a + i)

/-- A write of `n` bytes to HBM at `a` (in one line) is accepted at once and causes no other write: memory serves, the line neither
waits, nor is reserved by a pan, nor is open, nor poisoned, and it needs no victim under `hint`. -/
def State.Takes64 (s : State) (a n hint : Nat) : Prop :=
  s.memRefuses = false ∧ 0 < n ∧ a % 64 + n ≤ 64 ∧ s.writeWaits a = false ∧ s.panSlotOf a = none ∧ (∀ e ∈ s.path.wcb, e.addr ≠ lineOf a) ∧
  (∀ l, s.cached (lineOf a) = some l → l.poison = false) ∧ victim (lineOf a) (hint == 2 && decide (0 < s.keepWays)) s = none ∧
  (s.path.wcb.filter fun e => s.half e.addr = s.half (lineOf a)).length < 512 ∧
  s.Below (Reg.BC_H_HIT (s.half (lineOf a))) 1 ∧ s.Below (Reg.BC_H_MISS (s.half (lineOf a))) 1

/-- Exactly the bytes of `data` have been written to HBM at `a`. -/
def WroteHbm (s t : State) (a : Nat) (data : List Byte) : Prop :=
  ∀ b, t.hbmByte b = if a ≤ b ∧ b < a + data.length then data.getD (b - a) 0 else s.hbmByte b

/-- Exactly the bytes of `data` have been stored at local address `a`, of stored memory. -/
def Stored (s t : State) (a : Nat) (data : List Byte) : Prop :=
  ∀ b, t.byte b = if a ≤ b ∧ b < a + data.length then data.getD (b - a) 0 else s.byte b

/-- Memory in its plainest condition: it serves, nothing is cached, combined, held back or reserved, and its miss counters have room. -/
def State.Bare (s : State) : Prop :=
  s.memRefuses = false ∧ s.path.cache = [] ∧ s.path.wcb = [] ∧ s.path.clearing = [] ∧ s.path.guarded = [] ∧
  s.fld Reg.PAN_RESERVE F.PAN_RESERVE_SIZE_GIB = 0 ∧ ∀ h, h < 2 → s.Below (Reg.BC_H_MISS h) (2 ^ 40)

/-- Reads of these ranges of HBM (address, length), under any hint, are served at once and write nothing back: each is quiet, and every
line of them is cached or finds a free way in its set. -/
def State.Steady (s : State) (ranges : List (Nat × Nat)) : Prop :=
  let lines := ranges.flatMap fun r => linesOf r.1 r.2
  (∀ r ∈ ranges, s.Quiet r.1 r.2) ∧
  (∀ la ∈ lines, s.cached la ≠ none ∨
    (s.setLines la).length + (lines.filter fun x => cacheSet x = cacheSet la ∧ s.half x = s.half la).length ≤ 24) ∧
  ∀ h, h < 2 → s.Below (Reg.BC_H_HIT h) lines.length ∧ s.Below (Reg.BC_H_MISS h) lines.length

/-- Every byte and every poison mark is as before, in the stacks and in tile memory and as reads of HBM return them; a read may have left
a copy in the base cache. -/
def SameData (s t : State) : Prop := (∀ a, t.byte a = s.byte a) ∧ (∀ a, t.hbmByte a = s.hbmByte a) ∧ t.poison = s.poison

/-- Every register but those in `W`, all data and every accumulator are as before. -/
def KeepsData (W : Nat → Prop) (s t : State) : Prop := OnlyRegs W s t ∧ SameData s t ∧ t.acc = s.acc

/-- Every register but those in `W`, all of memory and every accumulator are as before. -/
def KeepsAllBut (W : Nat → Prop) (s t : State) : Prop := OnlyRegs W s t ∧ SameMemory s t ∧ t.acc = s.acc

/-- Command `c` on `s` writes `v` to the register at `off` and touches nothing else. -/
def Sets (c : Instr) (s : State) (off : Nat) (v : Word) : Prop :=
  Ends c s fun t => t.reg off = v ∧ KeepsAllBut (fun a => a = off) s t

/-- Command `c` on `s` is ignored: bit `f` of the status register `st` is set and nothing else changes. -/
def Ignores (c : Instr) (s : State) (st : Nat) (f : Fld) : Prop := Sets c s st ((s.reg st).put f 1)

/-- Command `c` on `s` changes nothing. -/
def NoEffect (c : Instr) (s : State) : Prop := exec c s = .next s

end Sys2Proof.Machine
end

