-- ==== Sys2Proof/Certificates/Slice0/Obligations.lean ====
section
/-! DEFINITION. The statements: what the rules of the spec say that the device does, one definition each. `Ends c s P` says that
command `c` on `s` answers a next state of which `P` holds. -/
open Sys2Proof Sys2Proof.Machine

/-- A step runs the command at the front of the queue with the rest of the queue (95_what_each_step_holds.md). For every state,
command and rest of a queue: the step of the state whose queue is that command followed by the rest is the command's effect on
the state whose queue is the rest. -/
def Obligations.StepRunsFrontCommand : Prop :=
  ∀ (s : State) (c : Instr) (rest : List Instr),
    step { s with pending := c :: rest } = exec c { s with pending := rest }

/-- No command ends in a fault or a refusal (95_what_each_step_holds.md). For every command and every state the effect of the
command is a next state, and so is every step: the device never stops. -/
def Obligations.EveryCommandCompletes : Prop :=
  (∀ (c : Instr) (s : State), ∃ t, exec c s = .next t) ∧ ∀ s : State, ∃ t, step s = .next t

/-- An empty queue lets one microsecond pass (R519, R535, R538). For every sound state with an empty queue (the model's choice, log
1): the step answers a next state in which TIME is one microsecond later, the count of tile cycles has grown by 25 x EFFECTIVE
(half of that while a clamp is in force), the queue is still empty, memory and accumulators are as before, and so are the tide
of every domain, the state of every context, the scalar registers of every tile, and every byte of what left the device before. -/
def Obligations.IdleStep : Prop :=
  ∀ s : State, s.Sound → s.pending = [] → ∃ t, step s = .next t ∧
    t.now = s.now + 1 ∧ t.pending = [] ∧ SameMemory s t ∧ t.acc = s.acc ∧ s.out <+: t.out ∧
    t.power.cycles = s.power.cycles + (if s.clamping then 25 * s.fld Reg.PWR_CLOCK F.PWR_CLOCK_EFFECTIVE / 2
      else 25 * s.fld Reg.PWR_CLOCK F.PWR_CLOCK_EFFECTIVE) ∧
    (∀ d, d < 16 → t.tide d = s.tide d) ∧ (∀ c, c < 4096 → t.ctxState c = s.ctxState c) ∧
    (∀ p n, p < 160 → n < 32 → t.sreg p n = s.sreg p n)

/-- The state after reset is sound (R22). Every table of the state after reset is in canonical form, and nothing is owed. -/
def Obligations.SoundAtReset : Prop := State.reset.Sound

/-- Every step keeps the state sound (R22, R270). For every sound state, if a step answers a next state, that state is sound:
registers, memory, accumulators and every unit's table stay in canonical form (keys strictly rising, nothing listed at its
unlisted value), every ledger entry owed by a memory operation has been posted, and no dropped request waits for its end. -/
def Obligations.StepKeepsSound : Prop :=
  ∀ s t : State, s.Sound → step s = .next t → t.Sound

/-- Every step takes one command from the queue and touches no other (R519). For every state, if a step answers a next state, the
queue of that state is the queue before without its first command, what has left the device begins with what had left it before,
time does not run backwards, and the ledger has at least as many postings. -/
def Obligations.StepTakesOneCommand : Prop :=
  ∀ s t : State, step s = .next t → t.pending = s.pending.tail ∧ s.out <+: t.out ∧ s.now ≤ t.now ∧ s.posted ≤ t.posted

/-- A register write takes effect by each field, and a reserved value, a narrow access or an unassigned offset sets BAD_WRITE (R19,
R20, R21, R22, R23, R27). For every sound state out of RECOVERY and value v: REGISTER_WRITE of ERR_CTRL sets each interrupt
enable and vector to the bits of v; of HIF_CTRL sets PFC_PRIO and NVME_TIMEOUT_MS where v holds values that are not reserved (0
to 7; at least 1), and keeps a field whose value is reserved with BAD_WRITE; of ERR_STATUS clears exactly the sticky bits
written one and no read-only field; of an offset without a register inside ERR, or of ERR_CTRL or a doorbell register with a
width other than 8 bytes, only sets the unit's BAD_WRITE. Concludes that exec answers a next state for REGISTER_WRITE. -/
def Obligations.RegisterWrites : Prop :=
  ∀ (s : State) (v : Word), s.Sound → s.recovery = false →
    (Ends (.registerWrite 0x10008 8 v) s fun t =>
      (∀ f ∈ [F.ERR_CTRL_IRQ_FATAL, F.ERR_CTRL_IRQ_CONTAINED, F.ERR_CTRL_IRQ_CORRECTED, F.ERR_CTRL_VEC_FATAL,
        F.ERR_CTRL_VEC_CONTAINED, F.ERR_CTRL_VEC_CORRECTED], t.fld Reg.ERR_CTRL f = v.get f) ∧
      KeepsAllBut (fun a => a = Reg.ERR_CTRL) s t) ∧
    (let okP := v.get F.HIF_CTRL_PFC_PRIO ≤ 7
     let okT := 1 ≤ v.get F.HIF_CTRL_NVME_TIMEOUT_MS
     Ends (.registerWrite 0x30008 8 v) s fun t =>
      t.fld Reg.HIF_CTRL F.HIF_CTRL_PFC_EN = v.get F.HIF_CTRL_PFC_EN ∧
      t.fld Reg.HIF_CTRL F.HIF_CTRL_PFC_PRIO = (if okP then v.get F.HIF_CTRL_PFC_PRIO else s.fld Reg.HIF_CTRL F.HIF_CTRL_PFC_PRIO) ∧
      t.fld Reg.HIF_CTRL F.HIF_CTRL_NVME_TIMEOUT_MS =
        (if okT then v.get F.HIF_CTRL_NVME_TIMEOUT_MS else s.fld Reg.HIF_CTRL F.HIF_CTRL_NVME_TIMEOUT_MS) ∧
      t.on Reg.HIF_STATUS F.HIF_STATUS_BAD_WRITE = (s.on Reg.HIF_STATUS F.HIF_STATUS_BAD_WRITE || !(decide okP && decide okT)) ∧
      KeepsAllBut (fun a => a = Reg.HIF_CTRL ∨ a = Reg.HIF_STATUS) s t) ∧
    (Ends (.registerWrite 0x10000 8 v) s fun t =>
      (∀ f ∈ [F.ERR_STATUS_FATAL_VALID, F.ERR_STATUS_FIRST_VALID, F.ERR_STATUS_BAD_WRITE, F.ERR_STATUS_OVERFLOW,
        F.ERR_STATUS_FATAL_SEEN, F.ERR_STATUS_CONTAINED_SEEN, F.ERR_STATUS_CORRECTED_SEEN],
        t.fld Reg.ERR_STATUS f = if v.get f = 1 then 0 else s.fld Reg.ERR_STATUS f) ∧
      (∀ f ∈ [F.ERR_STATUS_LEVEL, F.ERR_STATUS_FATAL_STOP], t.fld Reg.ERR_STATUS f = s.fld Reg.ERR_STATUS f) ∧
      KeepsAllBut (fun a => a = Reg.ERR_STATUS) s t) ∧
    Ignores (.registerWrite 0x10018 8 v) s Reg.ERR_STATUS F.ERR_STATUS_BAD_WRITE ∧
    (∀ w : Nat, w = 1 ∨ w = 2 ∨ w = 4 → Ignores (.registerWrite 0x10008 w v) s Reg.ERR_STATUS F.ERR_STATUS_BAD_WRITE ∧
      Ignores (.registerWrite 0x4000000 w v) s Reg.HIF_STATUS F.HIF_STATUS_BAD_WRITE)

/-- A written counter loads its value; a written watermark takes its marks, its COUNT and its NOTICE (R11, R17, R18, R260). For
every sound state out of RECOVERY: COUNTER_WRITE of a statistics counter outside the tiles loads [47:0], clears SAT exactly
where bit 63 of the value is one, and writes nothing else; on what is no counter it changes nothing. WM_WRITE with HIGH not
below LOW sets both marks, clears COUNT where zero is written to it and otherwise keeps it, clears NOTICE where one is written
and otherwise keeps it, and keeps LEVEL; with HIGH below LOW it keeps both marks and sets BAD_WRITE. Concludes that exec answers
a next state for COUNTER_WRITE, WM_WRITE. -/
def Obligations.CountersAndWatermarks : Prop :=
  ∀ (s : State) (v : Word), s.Sound → s.recovery = false →
    (∀ off : BitVec 26, isCounter off.toNat = true → unitOf off.toNat ≠ some .tile →
      Ends (.counterWrite off v) s fun t => t.fld off.toNat ⟨47, 0⟩ = v.get ⟨47, 0⟩ ∧
        t.fld off.toNat ⟨63, 63⟩ = (if v.get ⟨63, 63⟩ = 1 then 0 else s.fld off.toNat ⟨63, 63⟩) ∧
        KeepsAllBut (fun a => a = off.toNat) s t) ∧
    (∀ off : BitVec 26, isCounter off.toNat = false → NoEffect (.counterWrite off v) s) ∧
    ∀ w : WmSel,
      let off := match w with | .queue q => Reg.STR_Q_WM q.val | .ring l r => Reg.CHN_WM l.val r.val | .port p => Reg.STG_P_WM p.val
      let st := match w with | .queue _ => Reg.STR_STATUS | .ring _ _ => Reg.CHN_STATUS | .port _ => Reg.STG_STATUS
      let ok := v.get F.CHN_WM_LOW ≤ v.get F.CHN_WM_HIGH
      Ends (.wmWrite w v) s fun t =>
        t.fld off F.CHN_WM_HIGH = (if ok then v.get F.CHN_WM_HIGH else s.fld off F.CHN_WM_HIGH) ∧
        t.fld off F.CHN_WM_LOW = (if ok then v.get F.CHN_WM_LOW else s.fld off F.CHN_WM_LOW) ∧
        t.fld off F.CHN_WM_COUNT = (if v.get F.CHN_WM_COUNT = 0 then 0 else s.fld off F.CHN_WM_COUNT) ∧
        t.fld off F.CHN_WM_NOTICE = (if v.get F.CHN_WM_NOTICE = 1 then 0 else s.fld off F.CHN_WM_NOTICE) ∧
        t.fld off F.CHN_WM_LEVEL = s.fld off F.CHN_WM_LEVEL ∧
        t.reg st = (if ok then s.reg st else (s.reg st).put ⟨0, 0⟩ 1) ∧ KeepsAllBut (fun a => a = off ∨ a = st) s t

/-- Flit retries, fine trims and signals that fail (R41, R43, R44, R45, R46). For every sound state: FLIT_RETRY adds one to its
link's retry counter below its maximum. TRIM_TRACK of a working signal moves the fine trim by at most one step, carrying into
the coarse trim, and samples the margin. SIGNAL_FAILED of a working signal whose bundle has a free repair signal marks it failed
and repaired, uses one repair, sets REPAIR_USED and posts; with both repairs used and at least 225 (bridge: 113) working bundles
in that direction it disables the bundle, takes one from the direction's working bundles, sets LINK_DEGRADED and posts.
Concludes that exec answers a next state for FLIT_RETRY, TRIM_TRACK, SIGNAL_FAILED. -/
def Obligations.DieLinks : Prop :=
  ∀ s : State, s.Sound →
    (∀ l : Fin 5, s.fld (Reg.FLR_LINK_RETRY l.val) ⟨47, 0⟩ < 0xFFFFFFFFFFFF →
      Ends (.flitRetry l) s fun t =>
        t.fld (Reg.FLR_LINK_RETRY l.val) ⟨47, 0⟩ = s.fld (Reg.FLR_LINK_RETRY l.val) ⟨47, 0⟩ + 1 ∧
        KeepsAllBut (fun a => a = Reg.FLR_LINK_RETRY l.val) s t) ∧
    ∀ g : Signal, (g.link.val = 4 → g.bundle.val < 128) → (s.signal g).failed = false → (s.bundle g).disabled = false →
      let x := s.signal g
      (∀ (mv : TrimMove) (m : BitVec 8),
        let fine := match mv with
          | .stay => x.fine
          | .up => if x.fine < 63 then x.fine + 1 else 31
          | .down => if 0 < x.fine then x.fine - 1 else 32
        let coarse := match mv with
          | .stay => x.coarse
          | .up => if x.fine < 63 then x.coarse else x.coarse + 1
          | .down => if 0 < x.fine then x.coarse else x.coarse - 1
        (mv = .up → x.fine < 63 ∨ x.coarse < 3) → (mv = .down → 0 < x.fine ∨ 0 < x.coarse) →
        Ends (.trimTrack g mv m) s fun t =>
          t.signal g = { x with margin := m.toNat, fine := fine, coarse := coarse } ∧
          (∀ h, sigKey h ≠ sigKey g → t.signal h = s.signal h) ∧ KeepsAllBut (fun _ => False) s t) ∧
      let st := Reg.FLR_LINK_STATUS g.link.val
      let f := if g.dir = 0 then F.FLR_LINK_STATUS_DIR0_BUNDLES else F.FLR_LINK_STATUS_DIR1_BUNDLES
      ((s.bundle g).repairs < 2 → s.fld st F.FLR_LINK_STATUS_REPAIRS < 2047 → Ends (.signalFailed g) s fun t =>
        (t.signal g).failed = true ∧ (t.signal g).repaired = true ∧ (t.bundle g).repairs = (s.bundle g).repairs + 1 ∧
        t.fld st F.FLR_LINK_STATUS_REPAIRS = s.fld st F.FLR_LINK_STATUS_REPAIRS + 1 ∧
        t.on Reg.FLR_STATUS F.FLR_STATUS_REPAIR_USED = true ∧ s.posted < t.posted ∧
        KeepsAllBut (fun a => a = st ∨ a = Reg.FLR_STATUS ∨ IsLedger a) s t) ∧
      (2 ≤ (s.bundle g).repairs → (if g.link.val < 4 then 225 else 113) ≤ s.fld st f → Ends (.signalFailed g) s fun t =>
        (t.signal g).failed = true ∧ (t.bundle g).disabled = true ∧ t.fld st f = s.fld st f - 1 ∧
        t.on Reg.FLR_STATUS F.FLR_STATUS_LINK_DEGRADED = true ∧ s.posted < t.posted ∧
        KeepsAllBut (fun a => a = st ∨ a = Reg.FLR_STATUS ∨ IsLedger a) s t)

/-- Pin codes, the clears they start, and the trim selection (R49, R50, R51, R56). For every sound state: FLR_PIN_WRITE while a
clear runs only sets BAD_WRITE; otherwise, where no write waits in the memory path and no granule is protected, every pair whose
two bits change to another code than 0b11 takes the new code, its 2 GiB read as zero and are not poisoned, every other byte
reads as before, and PIN_BUSY is set if some pair changes. PAIR_CLEAR_DONE of the only pair still being cleared, with no access
waiting and no reduction in progress, clears PIN_BUSY; where one line write waits for it, with nothing cached or combined, the
write takes effect then. TRIM_SEL_WRITE of a link below 5, a bundle that the link has and a signal below 133 selects them; a
field that names none keeps its value with BAD_WRITE. Concludes that exec answers a next state for FLR_PIN_WRITE,
PAIR_CLEAR_DONE, TRIM_SEL_WRITE. -/
def Obligations.PinCodes : Prop :=
  ∀ (s : State) (v : Word), s.Sound →
    (∀ i : Fin 8,
      (s.on Reg.FLR_STATUS F.FLR_STATUS_PIN_BUSY = true → Ignores (.flrPinWrite i v) s Reg.FLR_STATUS F.FLR_STATUS_BAD_WRITE) ∧
      (s.on Reg.FLR_STATUS F.FLR_STATUS_PIN_BUSY = false → s.path.guarded = [] → s.path.held = [] →
        let code (n : Nat) : Nat := v.get ⟨2 * (n % 32) + 1, 2 * (n % 32)⟩
        let takes (n : Nat) : Prop := n / 32 = i.val ∧ code n ≠ 3 ∧ code n ≠ s.pinCode n
        Ends (.flrPinWrite i v) s fun t =>
          (∀ n, n < 256 → (takes n → t.pinCode n = code n) ∧ (¬ takes n → t.pinCode n = s.pinCode n)) ∧
          (∀ a, (takes (a / 0x80000000) → t.byte a = 0) ∧ (¬ takes (a / 0x80000000) → t.byte a = s.byte a)) ∧
          ((∃ n, takes n) → t.on Reg.FLR_STATUS F.FLR_STATUS_PIN_BUSY = true) ∧
          (∀ u, takes (u / 0x80000000) → t.poisoned u = false) ∧
          OnlyRegs (fun a => a = Reg.FLR_PIN i.val ∨ a = Reg.FLR_STATUS ∨ a = Reg.BC_STATUS) s t ∧ t.acc = s.acc)) ∧
    (∀ n, s.path.clearing = [n] → s.path.held = [] → s.path.waiting = [] → s.reds = [] →
      Ends .pairClearDone s fun t => t.on Reg.FLR_STATUS F.FLR_STATUS_PIN_BUSY = false ∧ t.path.clearing = [] ∧
        OnlyRegs (fun a => a = Reg.FLR_STATUS) s t ∧ (∀ a, t.byte a = s.byte a) ∧ t.acc = s.acc) ∧
    (∀ (w : HbmWrite), s.memRefuses = false → s.path.cache = [] → s.path.wcb = [] → s.path.guarded = [] →
      s.path.clearing = [w.addr / 0x80000000] → s.path.held = [w] → w.kind = .write → w.ctx = 4096 → w.pan = true →
      w.addr % 64 = 0 → w.data.length = 64 → w.hint = 1 → s.path.waiting = [] → s.reds = [] →
      Ends .pairClearDone s fun t => t.path.held = [] ∧ t.on Reg.FLR_STATUS F.FLR_STATUS_PIN_BUSY = false ∧ Stored s t w.addr w.data ∧ t.acc = s.acc) ∧
    let r := Reg.FLR_TRIM_SEL
    let okL := v.get F.FLR_TRIM_SEL_LINK ≤ 4
    let okB := v.get F.FLR_TRIM_SEL_LINK = 4 → v.get F.FLR_TRIM_SEL_BUNDLE < 128
    let okS := v.get F.FLR_TRIM_SEL_SIGNAL ≤ 132
    (okL → okB → okS → Ends (.trimSelWrite v) s fun t =>
      (∀ f ∈ [F.FLR_TRIM_SEL_LINK, F.FLR_TRIM_SEL_DIR, F.FLR_TRIM_SEL_BUNDLE, F.FLR_TRIM_SEL_SIGNAL], t.fld r f = v.get f) ∧
      KeepsAllBut (fun a => a = r) s t) ∧
    (okL → okB → ¬ okS → Ends (.trimSelWrite v) s fun t =>
      t.fld r F.FLR_TRIM_SEL_SIGNAL = s.fld r F.FLR_TRIM_SEL_SIGNAL ∧ t.on Reg.FLR_STATUS F.FLR_STATUS_BAD_WRITE = true ∧
      KeepsAllBut (fun a => a = r ∨ a = Reg.FLR_STATUS) s t)

/-- The value of ALU by FUNC (the table of ALU FUNC codes, R108). -/
def aluValues (a b : Word) : List Word :=
  [a + b, a - b, a * b, BitVec.ofNat 64 (a.toNat * b.toNat / 2 ^ 64), a &&& b, a ||| b, a ^^^ b,
   (if 64 ≤ b.toNat then 0 else a <<< b.toNat), (if 64 ≤ b.toNat then 0 else a >>> b.toNat),
   (if 64 ≤ b.toNat then (if a.msb then -1 else 0) else a.sshiftRight b.toNat),
   (if a.toInt < b.toInt then a else b), (if a.toInt < b.toInt then b else a),
   (if a.toNat < b.toNat then a else b), (if a.toNat < b.toNat then b else a)]

/-- Scalar control-slot instructions write their destination and nothing else (R108). For every sound state, running tile that takes
a bundle, and guard that holds: LI, LUI, ADDI, every ALU function, MOVAS write the value of the control-slot table to sD (modulo
2^64), a write to s0 is discarded, and every register but sD, the PC, the status, the issue count and the ledger, all of memory
and the accumulators are as before. Concludes that exec answers a next state for LI, LUI, ADDI, ALU, MOVAS. -/
def Obligations.ScalarResults : Prop :=
  ∀ (s : State) (p : Fin 160) (g : Guard) (d : Fin 32), s.Sound → s.Takes p.val → s.guard p.val g = true →
    let gives (v : Word) (t : State) : Prop :=
      t.sword p.val d.val = (if d = 0 then 0 else v) ∧ IssueFrame p.val (fun a => d ≠ 0 ∧ a = Reg.TILE_SREG p.val d.val) s t
    (∀ imm, Ends (.li p g d imm) s (gives (imm.signExtend 64))) ∧
    (∀ a imm, Ends (.lui p g d a imm) s (gives (imm ++ (s.sword p.val a.val).setWidth 32))) ∧
    (∀ a imm, Ends (.addi p g d a imm) s (gives (s.sword p.val a.val + imm.signExtend 64))) ∧
    (∀ a b f v, (aluValues (s.sword p.val a.val) (s.sword p.val b.val))[f]? = some v →
      Ends (.alu p g d a b (BitVec.ofNat 8 f)) s (gives v)) ∧
    (∀ a, Ends (.movas p g d a) s (gives (s.reg (Reg.TILE_AREG p.val a.val))))

/-- The comparisons by FUNC (the table of compare FUNC codes). -/
def compareValues (a b : Word) : List Bool :=
  [a == b, a != b, decide (a.toInt < b.toInt), decide (a.toNat < b.toNat), decide (b.toInt ≤ a.toInt), decide (b.toNat ≤ a.toNat)]

/-- CMP, CMPI and PLOG write their predicate and nothing else (R99, R108, R553, 03_vardo_instruction_set). For every sound state,
running tile that takes a bundle and guard that holds: CMP and CMPI write the comparison that FUNC selects to pD, PLOG the
logical operation, every other predicate is as before, a write to p0 is discarded, and nothing else of the tile's registers,
memory or accumulators changes but what every issue changes. Concludes that exec answers a next state for CMP, CMPI, PLOG. -/
def Obligations.PredicateResults : Prop :=
  ∀ (s : State) (p : Fin 160) (g : Guard) (d : Fin 8), s.Sound → s.Takes p.val → s.guard p.val g = true →
    let gives (v : Bool) (t : State) : Prop :=
      (∀ n : Fin 8, t.preg p.val n.val = if n = d ∧ d ≠ 0 then v else s.preg p.val n.val) ∧
      IssueFrame p.val (fun a => d ≠ 0 ∧ a = Reg.TILE_PREG p.val) s t
    (∀ a b f v, (compareValues (s.sword p.val a.val) (s.sword p.val b.val))[f]? = some v →
      Ends (.cmp p g d a b (BitVec.ofNat 8 f)) s (gives v)) ∧
    (∀ a f imm v, (compareValues (s.sword p.val a.val) (imm.signExtend 64))[f]? = some v →
      Ends (.cmpi p g d a (BitVec.ofNat 3 f) imm) s (gives v)) ∧
    (∀ (a b : Fin 8) f v, (let x := s.preg p.val a.val; let y := s.preg p.val b.val; [x && y, x || y, xor x y, x && !y])[f]? = some v →
      Ends (.plog p g d a b (BitVec.ofNat 8 f)) s (gives v))

/-- MOVSA, ADDA, LIA and RNGSET write their register, MFENCE none (R138). For every sound state, running tile that takes a bundle
and guard that holds: MOVSA, ADDA and LIA write their address register, RNGSET loads sA into the Philox key (FUNC 0), the low
half (FUNC 1) or the high half (FUNC 2) of the counter, MFENCE with no MOUT or MSTA of the tile outstanding completes, and
nothing else of the registers, memory and accumulators changes but what every issue changes. Concludes that exec answers a next
state for MOVSA, ADDA, LIA, RNGSET, MFENCE. -/
def Obligations.AddressRegisterResults : Prop :=
  ∀ (s : State) (p : Fin 160) (g : Guard), s.Sound → s.Takes p.val → s.guard p.val g = true →
    let gives (r : Nat) (v : Word) (t : State) : Prop :=
      t.reg r = v ∧ IssueFrame p.val (fun a => a = r) s t
    (∀ (d : Fin 16) a, Ends (.movsa p g d a) s (gives (Reg.TILE_AREG p.val d.val) (s.sword p.val a.val))) ∧
    (∀ (d a : Fin 16) imm, Ends (.adda p g d a imm) s (gives (Reg.TILE_AREG p.val d.val)
      (s.reg (Reg.TILE_AREG p.val a.val) + imm.signExtend 64))) ∧
    (∀ (d : Fin 16) imm, Ends (.lia p g d imm) s (gives (Reg.TILE_AREG p.val d.val) (imm.signExtend 64))) ∧
    (∀ a, Ends (.rngset p g a 0) s (gives (Reg.TILE_RNG_KEY p.val) (s.sword p.val a.val))) ∧
    (∀ a, Ends (.rngset p g a 1) s (gives (Reg.TILE_RNG_CTR_LO p.val) (s.sword p.val a.val))) ∧
    (∀ a, Ends (.rngset p g a 2) s (gives (Reg.TILE_RNG_CTR_HI p.val) (s.sword p.val a.val))) ∧
    ((s.tile p.val).storesPending = false → Ends (.mfence p g) s (IssueFrame p.val (fun _ => False) s))

/-- A control-slot instruction that transfers no control goes on at the next bundle (R99, R102, R105, R111). For every sound state
and running tile that takes a bundle, with no active loop and the next bundle's address below 2^22: after LI, LUI, ADDI, ALU,
CMP, CMPI, PLOG, MOVSA, MOVAS, ADDA, LIA, MFENCE without an outstanding store of the engine, or a slot whose guard does not
hold, the PC is 32 higher, and the tile holds no bundle. Concludes that exec answers a next state for LI, LUI, ADDI, ALU, CMP,
CMPI, PLOG, MOVSA, MOVAS, ADDA, LIA, MFENCE, JMP. -/
def Obligations.SequentialPc : Prop :=
  ∀ (s : State) (p : Fin 160) (g : Guard), s.Sound → s.Takes p.val → (s.tile p.val).loops = [] → s.tpc p.val + 32 < 2 ^ 22 →
    s.tpc p.val % 32 = 0 →
    let goesOn (t : State) : Prop :=
      t.tpc p.val = s.tpc p.val + 32 ∧ (t.tile p.val).held = none ∧ (t.tile p.val).loops = []
    (∀ d imm, Ends (.li p g d imm) s goesOn) ∧ (∀ d a imm, Ends (.lui p g d a imm) s goesOn) ∧ (∀ d a imm, Ends (.addi p g d a imm) s goesOn) ∧
    (∀ d a b f, f.toNat ≤ 0x0D → Ends (.alu p g d a b f) s goesOn) ∧ (∀ d a b f, f.toNat ≤ 5 → Ends (.cmp p g d a b f) s goesOn) ∧
    (∀ d a f imm, f.toNat ≤ 5 → Ends (.cmpi p g d a f imm) s goesOn) ∧ (∀ d a b f, f.toNat ≤ 3 → Ends (.plog p g d a b f) s goesOn) ∧
    (∀ d a, Ends (.movsa p g d a) s goesOn) ∧ (∀ d a, Ends (.movas p g d a) s goesOn) ∧ (∀ d a imm, Ends (.adda p g d a imm) s goesOn) ∧
    (∀ d imm, Ends (.lia p g d imm) s goesOn) ∧ ((s.tile p.val).storesPending = false → Ends (.mfence p g) s goesOn) ∧
    (s.guard p.val g = false → ∀ a, Ends (.jmp p g a) s goesOn)

/-- A target that the PC can hold. -/
abbrev PcHolds (a : Nat) : Prop := a < 2 ^ 22 ∧ a % 32 = 0

/-- The loops that a transfer to `a` leaves active (R112). -/
def loopsAfter (a : Nat) (l : List LoopEntry) : List LoopEntry := l.dropWhile fun e => !(decide (e.start ≤ a) && decide (a ≤ e.stop))

/-- BR, JMP, CALL, RET and LOOP set the PC, the return stack and the loop stack (R109, R111, R112). For every sound state, running
tile that takes a bundle and guard that holds, with a target that the PC can hold: BR and CALL go to PC + 32 x OFF, JMP to sA,
RET to the popped entry; CALL pushes PC + 32; every active loop whose body does not hold the target ends, from the innermost out
to the first that holds it; LOOP with a count above zero makes the next bundle through PC + 32 x OFF the innermost body with
that count and goes on at PC + 32, and with a count of zero goes on past it. At the last bundle of the innermost loop, an LI
goes back to the body's start while runs remain, and on to the next bundle after the last. Registers (the PC, the status, the
issue count and the ledger apart), memory and accumulators are as before. Concludes that exec answers a next state for BR, CALL,
JMP, RET, LOOP, LI. -/
def Obligations.BranchTargets : Prop :=
  ∀ (s : State) (p : Fin 160) (g : Guard), s.Sound → s.Takes p.val → s.guard p.val g = true →
    let pc := s.tpc p.val
    let x := s.tile p.val
    let goes (a : Nat) (rets : List Nat) (loops : List LoopEntry) (t : State) : Prop :=
      t.tpc p.val = a ∧ (t.tile p.val).wild = none ∧ (t.tile p.val).rets = rets ∧ (t.tile p.val).loops = loops ∧
      IssueFrame p.val (fun _ => False) s t
    (∀ off a, (pc : Int) + 32 * off.toInt = (a : Nat) → PcHolds a →
      Ends (.br p g off) s (goes a x.rets (loopsAfter a x.loops)) ∧
      (x.rets.length < 8 → Ends (.call p g off) s (goes a ((pc + 32) :: x.rets) (loopsAfter a x.loops)))) ∧
    (∀ r, PcHolds (s.sword p.val r.val).toNat →
      Ends (.jmp p g r) s (goes (s.sword p.val r.val).toNat x.rets (loopsAfter (s.sword p.val r.val).toNat x.loops))) ∧
    (∀ a l, x.rets = a :: l → PcHolds a → Ends (.ret p g) s (goes a l (loopsAfter a x.loops))) ∧
    (∀ r off, 1 ≤ off.toInt → s.sword p.val r.val ≠ 0 → x.loops.length < 4 → PcHolds (pc + 32) →
      Ends (.loop p g r off) s (goes (pc + 32) x.rets (⟨pc + 32, pc + 32 * off.toNat, (s.sword p.val r.val).toNat⟩ :: x.loops))) ∧
    (∀ r off, 1 ≤ off.toInt → s.sword p.val r.val = 0 → x.loops = [] → PcHolds (pc + 32 * off.toNat + 32) →
      Ends (.loop p g r off) s (goes (pc + 32 * off.toNat + 32) x.rets [])) ∧
    (∀ e rest imm, x.loops = e :: rest → e.stop = pc →
      (1 < e.count → PcHolds e.start → Ends (.li p g 0 imm) s (goes e.start x.rets ({ e with count := e.count - 1 } :: rest))) ∧
      (e.count ≤ 1 → (∀ f ∈ rest, f.stop ≠ pc) → PcHolds (pc + 32) → Ends (.li p g 0 imm) s (goes (pc + 32) x.rets rest)))

/-- CSRR reads the CSR that its number names (R136). For every sound state, running tile that takes a bundle and guard that holds,
CSRR into a register other than s0 reads: the count of tile cycles, the logical tile number, the context word (epoch above 12
bits of context ID), the tide of the context's domain, the device ID, the number of outstanding posts, the oldest NACK-log entry
(which then leaves the log, the others moving down), the Philox key and the counter halves. Concludes that exec answers a next
state for CSRR. -/
def Obligations.CsrReads : Prop :=
  ∀ (s : State) (p : Fin 160) (g : Guard) (d : Fin 32), s.Sound → s.Takes p.val → s.guard p.val g = true → d ≠ 0 →
    let reads (csr : BitVec 12) (v : Word) : Prop := Ends (.csrr p g d csr) s fun t =>
      t.sword p.val d.val = v ∧ IssueFrame p.val (fun a => a = Reg.TILE_SREG p.val d.val) s t
    reads 0 (BitVec.ofNat 64 s.power.cycles) ∧
    reads 1 (BitVec.ofNat 64 (s.logical p.val)) ∧
    reads 2 (BitVec.ofNat 64 (s.fld (Reg.TILE_CTX p.val) F.TILE_CTX_EPOCH * 4096 + s.fld (Reg.TILE_CTX p.val) F.TILE_CTX_CONTEXT)) ∧
    (s.role (s.runDomain p.val) ≠ 0 → reads 3 (s.tide (s.runDomain p.val))) ∧
    (s.role (s.runDomain p.val) = 0 → reads 3 0) ∧
    reads 4 (BitVec.ofNat 64 s.deviceId) ∧
    reads 5 (BitVec.ofNat 64 (s.tile p.val).postsOut) ∧
    reads 0x10 (s.reg (Reg.TILE_RNG_KEY p.val)) ∧
    reads 0x11 (s.reg (Reg.TILE_RNG_CTR_LO p.val)) ∧
    reads 0x12 (s.reg (Reg.TILE_RNG_CTR_HI p.val)) ∧
    Ends (.csrr p g d 6) s fun t =>
      t.sword p.val d.val = s.reg (Reg.TILE_NACK_LOG p.val 0) ∧
      (∀ i < 7, t.reg (Reg.TILE_NACK_LOG p.val i) = s.reg (Reg.TILE_NACK_LOG p.val (i + 1))) ∧ t.reg (Reg.TILE_NACK_LOG p.val 7) = 0

/-- TWAIT and CWAIT: satisfied waits write 1, timed-out waits 0, unmet waits hold the bundle (R122, R123, R124, R132). For every
sound state, running tile that takes a bundle and guard that holds: a TWAIT of a context whose domain has a role, in no PAUSE or
REPLAY phase, whose tide has reached sA (REACH) or has its STEP and PHASE (EXACT), writes 1 to pPDST; a CWAIT whose outbound
port holds sB credits (at most 256) does so too and consumes none; a TWAIT in PAUSE or REPLAY with s0 as timeout holds its
bundle with WAIT 1 and touches no other register; an MFENCE holds its bundle with WAIT 7 while a MOUT or MSTA of the tile is
outstanding; and WAIT_TIMEOUT of a held bundle that holds only a TWAIT with a timeout register, unmet, writes 0 to pPDST.
Concludes that exec answers a next state for TWAIT, CWAIT, MFENCE, WAIT_TIMEOUT. -/
def Obligations.WaitResults : Prop :=
  ∀ (s : State) (p : Fin 160) (g : Guard) (pd : Fin 8) (a b t : Fin 32), s.Sound → s.guard p.val g = true → pd ≠ 0 →
    let d := s.runDomain p.val
    let v := s.sword p.val a.val
    let writes (x : Bool) (u : State) : Prop :=
      (∀ n : Fin 8, u.preg p.val n.val = if n = pd then x else s.preg p.val n.val) ∧
      IssueFrame p.val (fun r => r = Reg.TILE_PREG p.val) s u
    let stands := s.phase d = Phase.PAUSE ∨ s.phase d = Phase.REPLAY
    (s.Takes p.val → s.role d ≠ 0 → ¬ stands → v.toNat ≤ (s.tide d).toNat → Ends (.twait p g pd 0 a t) s (writes true)) ∧
    (s.Takes p.val → s.role d ≠ 0 → ¬ stands → tideStep (s.tide d) = tideStep v → s.phase d = tidePhase v →
      Ends (.twait p g pd 1 a t) s (writes true)) ∧
    (s.Takes p.val → ∀ q, s.stagePortFor (s.runCtx p.val) v.toNat (s.logical p.val) false = some q → v.toNat < 64 →
      (s.sword p.val b.val).toNat ≤ 256 → (s.sword p.val b.val).toNat ≤ s.stgCredits q → Ends (.cwait p g pd a b t) s (writes true)) ∧
    (s.Takes p.val → s.role d ≠ 0 → stands → ∀ m : BitVec 2, m = 0 ∨ m = 1 →
      Ends (.twait p g pd m a 0) s fun u =>
        (u.tile p.val).held.isSome = true ∧ u.fld (Reg.TILE_STATUS p.val) F.TILE_STATUS_WAIT = 1 ∧
        KeepsAllBut (fun r => r = Reg.TILE_STATUS p.val) s u) ∧
    (s.Takes p.val → (s.tile p.val).storesPending = true → Ends (.mfence p g) s fun u =>
        (u.tile p.val).held.isSome = true ∧ u.fld (Reg.TILE_STATUS p.val) F.TILE_STATUS_WAIT = 7 ∧
        KeepsAllBut (fun r => r = Reg.TILE_STATUS p.val) s u) ∧
    (s.mayPresent p.val = true → s.role d ≠ 0 → stands → t ≠ 0 → ∀ m : BitVec 2, m = 0 ∨ m = 1 →
      (s.tile p.val).held = some (oneSlot g (.twait pd m a t) .nop .nop .nop) → Ends (.waitTimeout p) s (writes false))

/-- CPOST, CPOSTW, CRECV, CFREE and POST_TIMEOUT (R126, R127, R128, R129). For every sound state and running tile that takes a
bundle with a guard that holds: a CPOST or CPOSTW to a ring of this device, with a well-formed channel address, an aligned
unpoisoned payload and fewer than 64 posts, adds an outstanding post and sends a message with the 64 bytes at aAR and the tag in
sB; CPOSTW then holds its bundle with WAIT 3, and once its own post has ended it writes the NACK reason and the code to sD and
the post is gone; CRECV from a ring that holds an entry writes its header to sD, the address of its payload to aAR and 1 to
pPDST, and moves no pointer; CFREE advances RP of a ring that is not empty, and sets RING_UNDERRUN on an empty one. POST_TIMEOUT
ends an outstanding CPOST with NACKED set and logs it, and gives an outstanding CPOSTW its result with NACKED set. Concludes
that exec answers a next state for CPOST, CPOSTW, CRECV, CFREE, POST_TIMEOUT. -/
def Obligations.ChannelInstructions : Prop :=
  ∀ (s : State) (p : Fin 160) (g : Guard) (d a b t : Fin 32) (ar : Fin 16) (pd : Fin 8), s.Sound → s.guard p.val g = true →
    s.Takes p.val → d ≠ 0 →
    let x := s.tile p.val
    let l := s.logical p.val
    let addr := (s.sword p.val a.val).toNat
    let at' := (s.reg (Reg.TILE_AREG p.val ar.val)).toNat
    let sends := addr < 2 ^ 18 ∧ addr % 32 = 0 ∧ addr / 2 ^ 10 ≤ 143 ∧ at' % 64 = 0 ∧ at' + 64 ≤ 0x400000 ∧
      s.tmPoison l at' 64 = false
    let sent (u : State) : Prop := ∃ pk, u.out = s.out ++ [.packet 32 pk] ∧ u.locals = s.locals ++ [pk] ∧
      pk.op.toNat = Op.MESSAGE ∧ pk.addr.toNat = msgAddr (s.sreg p.val b.val) l addr ∧ pk.payload = s.tmBytes l at' 64 ∧
      pk.ctx.toNat = s.runCtx p.val % 4096
    (sends → x.posts.length < 64 →
      Ends (.cpost p g a b ar) s fun u => sent u ∧ (u.tile p.val).posts = x.posts ++ [⟨s.nextTag, addr, false, false, none⟩] ∧
        IssueFrame p.val (fun _ => False) s u) ∧
    (sends → x.posts.length < 64 → x.begun = none →
      Ends (.cpostw p g d a b ar) s fun u => sent u ∧ (u.tile p.val).posts = x.posts ++ [⟨s.nextTag, addr, true, false, none⟩] ∧
        (u.tile p.val).held.isSome = true ∧ u.fld (Reg.TILE_STATUS p.val) F.TILE_STATUS_WAIT = 3 ∧
        KeepsAllBut (fun r => r = Reg.TILE_STATUS p.val) s u) ∧
    (sends → ∀ tag code nack, x.begun = some (.post tag) → x.posts = [⟨tag, addr, true, false, some (code, nack)⟩] → code < 256 → nack < 16 →
      Ends (.cpostw p g d a b ar) s fun u => (u.sword p.val d.val).toNat = nack * 256 + code ∧ (u.tile p.val).posts = [] ∧
        IssueFrame p.val (fun r => r = Reg.TILE_SREG p.val d.val) s u) ∧
    (addr < 32 → s.ringFor l addr (s.runCtx p.val) = true →
      (s.ringLevel l addr ≠ 0 → pd ≠ 0 → Ends (.crecv p g d a t ar pd) s fun u =>
        u.sword p.val d.val = BitVec.ofNat 64 (s.ringHead l addr) ∧ u.preg p.val pd.val = true ∧
        u.reg (Reg.TILE_AREG p.val ar.val) = BitVec.ofNat 64 (s.ringEntry l addr (s.fld (Reg.CHN_PTR l addr) F.CHN_PTR_RP)) ∧
        IssueFrame p.val (fun r => r = Reg.TILE_SREG p.val d.val ∨ r = Reg.TILE_AREG p.val ar.val ∨ r = Reg.TILE_PREG p.val) s u) ∧
      (s.ringLevel l addr ≠ 0 → l < 144 → Ends (.cfree p g a) s fun u =>
        u.fld (Reg.CHN_PTR l addr) F.CHN_PTR_RP = (s.fld (Reg.CHN_PTR l addr) F.CHN_PTR_RP + 1) % 65536 ∧
        IssueFrame p.val (fun r => r = Reg.CHN_PTR l addr ∨ r = Reg.CHN_WM l addr ∨ r = Reg.HIF_STATUS) s u) ∧
      (s.ringLevel l addr = 0 → Ends (.cfree p g a) s fun u =>
        u.on (Reg.TILE_STATUS p.val) F.TILE_STATUS_RING_UNDERRUN = true ∧
        IssueFrame p.val (fun _ => False) s u)) ∧
    (∀ (tag : BitVec 16) ch, x.posts = [⟨tag.toNat, ch, false, false, none⟩] →
      Ends (.postTimeout p tag) s fun u => (u.tile p.val).posts = [] ∧ u.on (Reg.TILE_STATUS p.val) F.TILE_STATUS_NACKED = true ∧
        KeepsAllBut (fun r => r = Reg.TILE_STATUS p.val ∨ ∃ i, i < 8 ∧ r = Reg.TILE_NACK_LOG p.val i) s u) ∧
    (∀ (tag : BitVec 16) ch, x.posts = [⟨tag.toNat, ch, true, false, none⟩] →
      Ends (.postTimeout p tag) s fun u => (u.tile p.val).posts = [⟨tag.toNat, ch, true, false, some (Code.TIMEOUT, 0)⟩] ∧
        u.on (Reg.TILE_STATUS p.val) F.TILE_STATUS_NACKED = true ∧ KeepsAllBut (fun r => r = Reg.TILE_STATUS p.val) s u)

/-- LDONE, LDONE_NOTIFY, YIELD, HALT, STOP, RESUME and STEP (R131, R133, R134, R555). For every sound state and running tile that
takes a bundle with a guard that holds: LDONE with W = 0 of a layer with a schedule, whose record is free, marks the tile in the
layer's record of the domain's current STEP, and so does LDONE_NOTIFY for a held LDONE; YIELD without a pending preemption
completes with no effect; HALT puts the tile in HALTED while another tile of its context has not halted; STOP puts a running
tile in STOPPED; RESUME returns a STOPPED tile to RUNNING; STEP of a STOPPED tile at a bundle of NOPs issues it and stops again.
Concludes that exec answers a next state for LDONE, LDONE_NOTIFY, YIELD, HALT, STOP, RESUME, STEP. -/
def Obligations.LayerDoneAndStops : Prop :=
  ∀ (s : State) (p : Fin 160) (g : Guard) (a : Fin 32), s.Sound → s.guard p.val g = true → s.fatal = false →
    s.deadTile (Reg.TILE_CTRL p.val) = false →
    let x := s.tile p.val
    let l := s.logical p.val
    let layer := (s.sword p.val a.val).toNat
    let step := tideStep (s.tide (s.runDomain p.val))
    let free := layer < 4096 ∧ s.role (s.runDomain p.val) ≠ 0 ∧ s.ldoneRefused (s.runCtx p.val) l layer = false ∧
      (s.red layer).state = RedSt.IDLE ∧ x.begun = none ∧ x.storesPending = false
    let marked (u : State) : Prop := (u.red layer).step = step ∧ (u.red layer).state = RedSt.WAITING ∧ (u.red layer).tiles = [l]
    (s.Takes p.val → free → Ends (.ldone p g a false) s fun u => marked u ∧ (u.tile p.val).held = none) ∧
    (s.mayPresent p.val = true → free → x.held = some (oneSlot g (.ldone a false) .nop .nop .nop) →
      Ends (.ldoneNotify p (BitVec.ofNat 12 layer)) s marked) ∧
    (s.Takes p.val → x.preempt = false → ∀ live : BitVec 16, live.toNat < 2048 →
      Ends (.yield p g live) s (IssueFrame p.val (fun _ => False) s)) ∧
    (s.Takes p.val → (∃ q ∈ s.tilesOf (s.runCtx p.val), q ≠ p.val ∧ q < 160 ∧ s.tileSt q ≠ TileSt.HALTED) →
      Ends (.halt p g) s fun u => u.tileSt p.val = TileSt.HALTED ∧ IssueFrame p.val (fun _ => False) s u) ∧
    (s.tileSt p.val = TileSt.RUNNING → Ends (.stop p) s fun u =>
      u.tileSt p.val = TileSt.STOPPED ∧ (u.tile p.val).held = none ∧ KeepsAllBut (fun r => r = Reg.TILE_STATUS p.val) s u) ∧
    (s.tileSt p.val = TileSt.STOPPED → Ends (.resume p) s fun u =>
      u.tileSt p.val = TileSt.RUNNING ∧ KeepsAllBut (fun r => r = Reg.TILE_STATUS p.val) s u) ∧
    (s.tileSt p.val = TileSt.STOPPED → x.held = some (oneSlot g .nop .nop .nop .nop) →
      Ends (.step p) s fun u => u.tileSt p.val = TileSt.STOPPED ∧ (u.tile p.val).held = none ∧
        IssueFrame p.val (fun _ => False) s u)

/-- The program window and the register windows of a tile are written while it is IDLE or STOPPED alone (R143, R144, R178). For
every sound state and tile with a working space: while STATE is IDLE or STOPPED, TILE_PROG_WRITE with BASE below LIMIT (at most
0x40_0000) sets the window and TILE_REG_WRITE of a scalar register (not s0) sets it; at any other time both set BAD_WRITE and
leave the register as it is. MXE_CTRL_WRITE with an empty engine queue sets QUAD_CONC and GATE under the same condition.
Concludes that exec answers a next state for TILE_PROG_WRITE, TILE_REG_WRITE, MXE_CTRL_WRITE. -/
def Obligations.TileRegisterWrites : Prop :=
  ∀ (s : State) (p : Fin 160) (v : Word), s.Sound → s.deadTile (Reg.TILE_CTRL p.val) = false →
    (s.tileOpen p.val = true → v.get F.TILE_PROG_BASE % 32 = 0 → v.get F.TILE_PROG_LIMIT % 32 = 0 →
      v.get F.TILE_PROG_BASE < v.get F.TILE_PROG_LIMIT → v.get F.TILE_PROG_LIMIT ≤ 0x400000 →
      Ends (.tileProgWrite p v) s fun t => t.fld (Reg.TILE_PROG p.val) F.TILE_PROG_BASE = v.get F.TILE_PROG_BASE ∧
        t.fld (Reg.TILE_PROG p.val) F.TILE_PROG_LIMIT = v.get F.TILE_PROG_LIMIT ∧ KeepsAllBut (fun a => a = Reg.TILE_PROG p.val) s t) ∧
    (∀ n : Fin 32, n ≠ 0 → s.tileOpen p.val = true →
      Ends (.tileRegWrite p (BitVec.ofNat 16 (Reg.TILE_SREG 0 n.val - Reg.TILE_CTRL 0)) v) s fun t =>
        t.sword p.val n.val = v ∧ KeepsAllBut (fun a => a = Reg.TILE_SREG p.val n.val) s t) ∧
    (s.tileOpen p.val = true → (s.tile p.val).queue = [] →
      Ends (.mxeCtrlWrite p v) s fun t => KeepsAllBut (fun a => a = Reg.MXE_CTRL p.val) s t ∧
        ∀ f ∈ [F.MXE_CTRL_QUAD_CONC, F.MXE_CTRL_GATE], t.fld (Reg.MXE_CTRL p.val) f = v.get f) ∧
    (s.tileOpen p.val = false → s.tileSt p.val = TileSt.RUNNING →
      let refuses (t : State) : Prop := t.on (Reg.TILE_STATUS p.val) F.TILE_STATUS_BAD_WRITE = true ∧
        KeepsAllBut (fun a => a = Reg.TILE_STATUS p.val) s t
      Ends (.tileProgWrite p v) s refuses ∧
      ∀ n : Fin 32, Ends (.tileRegWrite p (BitVec.ofNat 16 (Reg.TILE_SREG 0 n.val - Reg.TILE_CTRL 0)) v) s refuses)

/-- BUNDLE_ISSUE runs the bundle of 32 bytes at the PC, and a PC outside the program window faults (R103, R105, R110, R139, R142).
For every sound state and running tile that holds no bundle, whose reads of its memory meet no error: where the PC lies inside
the program window and its 32 bytes are not poisoned, and they decode to a bundle of one instruction, BUNDLE_ISSUE does what the
command of that instruction does, for LI, MCLR, VADD and SST; a bundle that decodes to LI sD with a guard that holds leaves the
immediate in sD and the PC 32 bytes on (no loop active). With the PC outside the window, or on poisoned bytes, or on bytes that
decode to no bundle, the tile becomes FAULTED, TILE_FAULT captures code 0x05, 0x0A or 0x01 with the PC if it holds no fault, and
a ledger entry is posted; and the command of any one instruction faults in the same way where the fetch does. Concludes that
exec answers a next state for BUNDLE_ISSUE, LI. -/
def Obligations.BundleIssue : Prop :=
  ∀ (s : State) (p : Fin 160), s.Sound → s.mayPresent p.val = true → (s.tile p.val).held = none → (s.tile p.val).wild = none →
    let pc := s.tpc p.val
    let w := Reg.TILE_PROG p.val
    let inside := s.fld w F.TILE_PROG_BASE ≤ pc ∧ pc < s.fld w F.TILE_PROG_LIMIT
    let holds (b : Bundle) : Prop := s.tmPoison (s.logical p.val) pc 32 = false ∧
      decodeBundle (s.tmBytes (s.logical p.val) pc 32) = .ok b
    let faults (code slot : Nat) (t : State) : Prop := t.tileSt p.val = TileSt.FAULTED ∧ s.posted < t.posted ∧
      (s.on (Reg.TILE_FAULT p.val) F.TILE_FAULT_VALID = false →
        t.fld (Reg.TILE_FAULT p.val) F.TILE_FAULT_VALID = 1 ∧ t.fld (Reg.TILE_FAULT p.val) F.TILE_FAULT_CODE = code ∧
        t.fld (Reg.TILE_FAULT p.val) F.TILE_FAULT_SLOT = slot ∧ t.fld (Reg.TILE_FAULT p.val) F.TILE_FAULT_PC = pc)
    (inside → ∀ (g h : Guard) (d a b : Fin 32) (bank : Fin 4) (ar : Fin 16) (am : BitVec 2) (fmt : BitVec 4) (imm : BitVec 32),
      (holds (oneSlot g (.li d imm) .nop .nop .nop) → exec (.bundleIssue p []) s = exec (.li p g d imm) s) ∧
      (holds (oneSlot g .nop (.mclr bank) .nop .nop) → exec (.bundleIssue p []) s = exec (.mclr p g bank) s) ∧
      (holds (oneSlot g .nop .nop (.op .vadd d a b 0 fmt 0 0) .nop) → exec (.bundleIssue p []) s = exec (.vadd p g d a b fmt) s) ∧
      (holds (oneSlot g .nop .nop .nop (.sst d ar am a imm)) → exec (.bundleIssue p []) s = exec (.sst p g d ar am a imm) s) ∧
      (holds ⟨g, .li d imm, h, .nop, h, .nop, h, .nop⟩ → s.guard p.val g = true → (s.tile p.val).loops = [] → pc + 32 < 0x400000 →
        pc % 32 = 0 → Ends (.bundleIssue p []) s fun t => t.sword p.val d.val = (if d = 0 then 0 else imm.signExtend 64) ∧
          t.tpc p.val = pc + 32 ∧ IssueFrame p.val (fun r => d ≠ 0 ∧ r = Reg.TILE_SREG p.val d.val) s t)) ∧
    (¬ inside → Ends (.bundleIssue p []) s (faults 0x05 0) ∧
      ∀ (g : Guard) (d : Fin 32) (imm : BitVec 32), Ends (.li p g d imm) s (faults 0x05 0)) ∧
    (inside → s.tmPoison (s.logical p.val) pc 32 = true → Ends (.bundleIssue p []) s (faults 0x0A 0) ∧
      ∀ (g : Guard) (d : Fin 32) (imm : BitVec 32), Ends (.li p g d imm) s (faults 0x0A 0)) ∧
    (inside → s.tmPoison (s.logical p.val) pc 32 = false → ∀ k, decodeBundle (s.tmBytes (s.logical p.val) pc 32) = .error k →
      Ends (.bundleIssue p []) s (faults 0x01 k))

/-- Bundles written out from the body formats decode to their instructions (R101, R103, R104, R553). A bundle of 32 zero bytes is
four NOPs. A bundle whose control slot is LI s5 with guard p2 inverted, whose matrix slot is MCLR of bank 3, whose vector slot
is VADD v1, v2, v3 in FP16 and whose move slot is SST s7 at a4 plus 16 decodes to these, each with its own guard; opcode 0x2C of
the control slot, FUNC 0x0E of ALU and AM 0b11 of SLD make the bundle illegal in their slots. -/
def Obligations.BundleDecoding : Prop :=
  let bundle (c m v x : Nat) : List Byte := bytesOf 8 c ++ bytesOf 8 m ++ bytesOf 8 v ++ bytesOf 8 x
  let g0 : Guard := ⟨false, 0⟩
  decodeBundle (bundle 0 0 0 0) = .ok ⟨g0, .nop, g0, .nop, g0, .nop, g0, .nop⟩ ∧
  decodeBundle (bundle
      (0x01 * 2 ^ 56 + 1 * 2 ^ 55 + 2 * 2 ^ 52 + 5 * 2 ^ 47 + 0x1234)
      (0x03 * 2 ^ 56 + 3 * 2 ^ 50)
      (0x01 * 2 ^ 56 + 1 * 2 ^ 47 + 2 * 2 ^ 42 + 3 * 2 ^ 37 + 2 * 2 ^ 28)
      (0x04 * 2 ^ 56 + 7 * 2 ^ 52 + 7 * 2 ^ 47 + 4 * 2 ^ 43 + 16)) =
    .ok ⟨⟨true, 2⟩, .li 5 0x1234, g0, .mclr 3, g0, .op .vadd 1 2 3 0 2 0 0, ⟨false, 7⟩, .sst 7 4 0 0 16⟩ ∧
  decodeBundle (bundle (0x2C * 2 ^ 56) 0 0 0) = .error 0 ∧
  decodeBundle (bundle (0x04 * 2 ^ 56 + 0x0E * 2 ^ 24) 0 0 0) = .error 0 ∧
  decodeBundle (bundle 0 0 0 (0x03 * 2 ^ 56 + 3 * 2 ^ 41)) = .error 3

/-- Matrix-slot instructions join the engine queue with the operands read at issue (R113, R114, R164, R166, R169, R174, R176). For
every sound state, running tile that takes a bundle with a guard that holds, and engine queue of fewer than four entries: MCLR,
MLDA and MSTA of an aligned 64 KiB range inside tile memory, and MMA and MOUT of an admitted format, a good descriptor and
aligned ranges inside tile memory, append to the queue one entry that has not started, with the PC, the addresses the descriptor
and the state of the generator read at issue, and QUEUE shows its length; the accumulators and memory are as before.
MATRIX_COMPLETE of a started entry removes it from the queue and takes its cycles off the others that run; where these together
ask more than 512 bytes a cycle of the read port, MXE_PORT_STALL counts the cycles that this costs. Concludes that exec answers
a next state for MCLR, MLDA, MSTA, MMA, MOUT, MATRIX_COMPLETE. -/
def Obligations.MatrixQueue : Prop :=
  ∀ (s : State) (p : Fin 160) (g : Guard) (bank : Fin 4) (aa ab : Fin 16) (sd : Fin 32) (fa fb : BitVec 4) (clr : Bool), s.Sound →
    let x := s.tile p.val
    let joins (i : Mat) (t : State) : Prop :=
      (t.tile p.val).queue = x.queue ++ [⟨i, s.tpc p.val, s.areg p.val (matAddrs i).1, s.areg p.val (matAddrs i).2,
        s.matDesc p.val i, s.rngCtr p.val, s.rngKey p.val, false, 0⟩] ∧
      t.fld (Reg.MXE_STATUS p.val) F.MXE_STATUS_QUEUE = x.queue.length + 1 ∧
      IssueFrame p.val (fun r => r = Reg.MXE_STATUS p.val) s t
    let fits (i : Mat) : Prop := matLegal i = true ∧ matFaults i (s.areg p.val (matAddrs i).1) (s.areg p.val (matAddrs i).2) (s.matDesc p.val i) = []
    let bankFits := s.areg p.val aa.val % 32 = 0 ∧ s.areg p.val aa.val + 65536 ≤ 0x400000
    (s.Takes p.val → s.guard p.val g = true → x.queue.length < 4 →
      Ends (.mclr p g bank) s (joins (.mclr bank)) ∧
      (bankFits → Ends (.mlda p g bank aa) s (joins (.mlda bank aa))) ∧
      (bankFits → Ends (.msta p g bank aa) s (joins (.msta bank aa))) ∧
      (fits (.mma bank fa fb aa ab sd clr) → Ends (.mma p g bank fa fb aa ab sd clr) s (joins (.mma bank fa fb aa ab sd clr))) ∧
      (∀ rnd : BitVec 2, rnd ≠ 2 → fits (.mout bank fa aa sd rnd) → Ends (.mout p g bank fa aa sd rnd) s (joins (.mout bank fa aa sd rnd)))) ∧
    (∀ (n : Fin 4) (e : MatEntry), x.queue[n.val]? = some e → e.started = true → x.saving = none → x.queue.length ≤ 4 →
      Ends (.matrixComplete p n) s fun t =>
        (t.tile p.val).queue = (x.queue.map fun y => if y.started then { y with work := y.work - e.work } else y).eraseIdx n.val ∧
        t.fld (Reg.MXE_STATUS p.val) F.MXE_STATUS_QUEUE = x.queue.length - 1 ∧
        (s.portDemand p.val ≤ 16384 → KeepsAllBut (fun r => r = Reg.MXE_STATUS p.val) s t) ∧
        (16384 < s.portDemand p.val →
          let lost := ceilDiv (e.work * s.portDemand p.val) 16384 - e.work
          s.Below (Reg.MXE_PORT_STALL p.val) lost → Counts s t (Reg.MXE_PORT_STALL p.val) lost ∧
            KeepsAllBut (fun r => r = Reg.MXE_STATUS p.val ∨ r = Reg.MXE_PORT_STALL p.val) s t))

/-- The signed value of the byte at offset `o` of the memory of the tile that `p` backs. -/
def tileInt8 (s : State) (p o : Nat) : Int := (s.byte (tileAddr (s.logical p) o)).toInt

/-- MATRIX_START: MCLR clears its bank, and an INT8 MMA adds the products of its k elements to every cell (R149, R155, R158, R160,
R164, R176). For every sound state without a fatal stop and a tile whose engine queue holds one entry that has not started:
MATRIX_START of MCLR makes every word of its bank 0 and no other accumulator word different; of an MMA of INT8 operands without
CLR and PACK, of at most 128 x 128, with no poisoned operand byte, it adds to word (i, j) of the first bank, modulo 2^32, the
sum over k of the products of row i of A and row j of B, and changes no other accumulator word; memory and every register but
the engine's own and the ledger are as before. Concludes that exec answers a next state for MATRIX_START. -/
def Obligations.MatrixEffects : Prop :=
  ∀ (s : State) (p : Fin 160) (e : MatEntry), s.Sound → s.fatal = false → (s.tile p.val).queue = [e] → e.started = false →
    let engine (r : Nat) : Prop := r = Reg.MXE_STATUS p.val ∨ r = Reg.MXE_ACTIVE p.val ∨ r = Reg.MXE_CELLS p.val ∨ IsLedger r
    (∀ bank : Fin 4, e.ins = .mclr bank → Ends (.matrixStart p) s fun t =>
      (t.tile p.val).queue = [{ e with started := true, work := 0 }] ∧
      (∀ i j, i < 128 → j < 128 → t.accWord p.val bank.val i j = 0) ∧
      (∀ q b i j, q < 160 → b < 4 → i < 128 → j < 128 → (q ≠ p.val ∨ b ≠ bank.val) → t.accWord q b i j = s.accWord q b i j) ∧
      OnlyRegs engine s t ∧ SameMemory s t) ∧
    (∀ (bank : Fin 4) (aa ab : Fin 16) (sd : Fin 32), e.ins = .mma bank 11 11 aa ab sd false →
      let h := shapeOf e.desc
      h.pack = false → h.m ≤ 128 → h.n ≤ 128 →
      s.tmPoison (s.logical p.val) e.a (h.m * h.k) = false → s.tmPoison (s.logical p.val) e.b (h.n * h.k) = false →
      Ends (.matrixStart p) s fun t =>
        (t.tile p.val).queue = [{ e with started := true, work := h.k }] ∧
        (∀ i j, i < h.m → j < h.n → t.accWord p.val bank.val i j = s.accWord p.val bank.val i j +
          BitVec.ofInt 32 ((List.range h.k).map fun k => tileInt8 s p.val (e.a + i * h.k + k) * tileInt8 s p.val (e.b + j * h.k + k)).sum) ∧
        (∀ q b i j, q < 160 → b < 4 → i < 128 → j < 128 → (q ≠ p.val ∨ b ≠ bank.val ∨ h.m ≤ i ∨ h.n ≤ j) →
          t.accWord q b i j = s.accWord q b i j) ∧
        OnlyRegs engine s t ∧ SameMemory s t)

/-- Element `e` of vector register `n` in format `f`, as a value. -/
def lane (s : State) (p f n e : Nat) : Val := decodePlain f (field (s.vreg p n) (elemBytes f * e) (elemBytes f))

/-- The code of element `e` of vector register `n` in format `f`. -/
def laneCode (s : State) (p f n e : Nat) : Nat := field (s.vreg p n) (elemBytes f * e) (elemBytes f)

/-- The registers that a vector-slot instruction may write besides its destination. -/
def VectorRegs (p a : Nat) : Prop :=
  a = Reg.VEC_STATUS p ∨ a = Reg.VEC_ACTIVE p ∨ a = Reg.VEC_SFU p ∨ a = Reg.VEC_OUT_SAT_CNT p ∨ a = Reg.VEC_NF_CAPTURE p ∨
    a = Reg.VEC_NF_TIDE p

/-- The frame of a vector-slot instruction that writes vector register `d`. -/
def VectorFrame (p d : Nat) (s t : State) : Prop :=
  IssueFrame p (fun a => VectorRegs p a ∨ ∃ i, i < 128 ∧ a = Reg.TILE_VREG p (128 * d + i)) s t

/-- VADD, VSUB, VMUL, VFMA, VMIN and VMAX round the exact result of every element once (R116, R180, R183, R184, R187). For every
sound state, running tile that takes a bundle with a guard that holds, and floating-point FMT (codes 0 to 4): each element of
the destination is the exact sum, difference, product, or product plus third operand of the source elements, or their lesser or
greater, encoded into the format with round-to-nearest-even; no register but the destination, the PC, the tile's status and
counters, the vector engine's status and captures and the ledger changes, nor memory nor an accumulator. Concludes that exec
answers a next state for VADD, VSUB, VMUL, VFMA, VMIN, VMAX. -/
def Obligations.VectorArithmetic : Prop :=
  ∀ (s : State) (p : Fin 160) (g : Guard) (d a b c : Fin 32) (fmt : BitVec 4), s.Sound → s.Takes p.val → s.guard p.val g = true →
    fmt.toNat ≤ 4 →
    let f := fmt.toNat
    let gives (r : Nat → Val) (t : State) : Prop :=
      (∀ e, e < capacity f → laneCode t p.val f d.val e = (encodePlain f Rnd.NEAREST 0 (r e)).code) ∧ VectorFrame p.val d.val s t
    let va := lane s p.val f a.val
    let vb := lane s p.val f b.val
    let vc := lane s p.val f c.val
    Ends (.vadd p g d a b fmt) s (gives (fun e => (va e).add (vb e))) ∧
    Ends (.vsub p g d a b fmt) s (gives (fun e => (va e).add (vb e).neg)) ∧
    Ends (.vmul p g d a b fmt) s (gives (fun e => (va e).mul (vb e))) ∧
    Ends (.vfma p g d a b c fmt) s (gives (fun e => ((va e).mul (vb e)).add (vc e))) ∧
    Ends (.vmin p g d a b fmt) s (gives (fun e => if (va e).isNan ∨ (vb e).isNan then .nan
      else if (va e).cmp (vb e) = .lt then va e else if (va e).cmp (vb e) = .gt then vb e else if (va e).sign then va e else vb e)) ∧
    Ends (.vmax p g d a b fmt) s (gives (fun e => if (va e).isNan ∨ (vb e).isNan then .nan
      else if (va e).cmp (vb e) = .lt then vb e else if (va e).cmp (vb e) = .gt then va e else if (va e).sign then vb e else va e))

/-- VLOG, VIADD, VRNG, VBCAST, VSEL, VCMP and VMASK (R116, R174, R180, R182, R184, R196). For every sound state and running tile
that takes a bundle with a guard that holds: VLOG gives AND, OR and XOR of the 32-bit lanes by FUNC 0, 1, 2; VIADD adds them
modulo 2^32; VRNG gives the 256 words of the Philox calls at the counter and advances the counter by 64 calls, modulo 2^128;
VBCAST copies the low bits of the scalar into every element; VSEL takes the element of vA where the element of vC has a bit set
and of vB elsewhere; VCMP gives all ones where the relation holds and zero elsewhere, NE alone holding of a NaN; causal VMASK
gives all ones exactly where the key position passes the query position. Concludes that exec answers a next state for VLOG,
VIADD, VRNG, VCMP, VBCAST, VSEL, VMASK. -/
def Obligations.VectorBitsAndSelection : Prop :=
  ∀ (s : State) (p : Fin 160) (g : Guard) (d a b c : Fin 32), s.Sound → s.Takes p.val → s.guard p.val g = true →
    let gives (f : Nat) (r : Nat → Nat) (t : State) : Prop :=
      (∀ e, e < capacity f → laneCode t p.val f d.val e = r e) ∧ VectorFrame p.val d.val s t
    let la := laneCode s p.val 12 a.val
    let lb := laneCode s p.val 12 b.val
    Ends (.vlog p g d a b 12 0) s (gives 12 (fun e => la e &&& lb e)) ∧
    Ends (.vlog p g d a b 12 1) s (gives 12 (fun e => la e ||| lb e)) ∧
    Ends (.vlog p g d a b 12 2) s (gives 12 (fun e => la e ^^^ lb e)) ∧
    Ends (.viadd p g d a b 12) s (gives 12 (fun e => (la e + lb e) % 2 ^ 32)) ∧
    (Ends (.vrng p g d 12) s fun t =>
      (∀ e, e < 256 → laneCode t p.val 12 d.val e = philoxWord (s.rngKey p.val) (s.rngCtr p.val) e) ∧
      t.rngCtr p.val = (s.rngCtr p.val + 64) % 2 ^ 128 ∧
      IssueFrame p.val (fun r => VectorRegs p.val r ∨ r = Reg.TILE_RNG_CTR_LO p.val ∨ r = Reg.TILE_RNG_CTR_HI p.val ∨
        ∃ i, i < 128 ∧ r = Reg.TILE_VREG p.val (128 * d.val + i)) s t) ∧
    ∀ fmt : BitVec 4, fmt.toNat ≤ 4 →
      let f := fmt.toNat
      let ones := 2 ^ (8 * elemBytes f) - 1
      let va := lane s p.val f a.val
      let vb := lane s p.val f b.val
      let cmps (func : BitVec 8) (holds : Nat → Prop) : Prop := Ends (.vcmp p g d a b fmt func) s fun t =>
        (∀ e, e < capacity f → (holds e → laneCode t p.val f d.val e = ones) ∧ (¬ holds e → laneCode t p.val f d.val e = 0)) ∧
        VectorFrame p.val d.val s t
      let ordered (e : Nat) : Prop := (va e).isNan = false ∧ (vb e).isNan = false
      Ends (.vbcast p g d a fmt) s (gives f (fun _ => s.sreg p.val a.val % 2 ^ (8 * elemBytes f))) ∧
      Ends (.vsel p g d a b c fmt) s (gives f (fun e => if laneCode s p.val f c.val e ≠ 0 then laneCode s p.val f a.val e else laneCode s p.val f b.val e)) ∧
      cmps 0 (fun e => ordered e ∧ (va e).cmp (vb e) = .eq) ∧
      cmps 1 (fun e => ¬ ordered e ∨ (va e).cmp (vb e) ≠ .eq) ∧
      cmps 2 (fun e => ordered e ∧ (va e).cmp (vb e) = .lt) ∧
      cmps 4 (fun e => ordered e ∧ (va e).cmp (vb e) ≠ .lt) ∧
      (s.sreg p.val b.val < 2 ^ 32 → s.sreg p.val b.val + capacity f ≤ 2 ^ 32 →
        let half := capacity f / 2
        let query (e : Nat) : Nat := if e < half then s.sreg p.val a.val % 2 ^ 32 else s.sreg p.val a.val / 2 ^ 32
        Ends (.vmask p g d a b fmt 0) s (gives f (fun e => if query e < s.sreg p.val b.val + e % half then ones else 0)))

/-- VCVT, VSFU, VSMX, VROPE and VRED write what their function gives and nothing else (R180, R185, R188, R189, R192, R194, R197).
For every sound state and running tile that takes a bundle with a guard that holds, with codes that the opcode accepts and
operands that do not fault: VCVT leaves the image of its conversion in vD; VSFU gives each element the rounded FP32 function
value, VSMX the states or probabilities, VROPE the rotated pairs; VRED writes the FP32 pattern of the pairwise tree sum or of
the maximum to sD. A stochastic VCVT also takes its draws; the frame of each is as for vector arithmetic. Concludes that exec
answers a next state for VCVT, VSFU, VSMX, VROPE, VRED. -/
def Obligations.VectorFunctions : Prop :=
  ∀ (s : State) (p : Fin 160) (g : Guard) (d a b c : Fin 32) (fmt : BitVec 4) (rnd : BitVec 2) (func : BitVec 8),
    s.Sound → s.Takes p.val → s.guard p.val g = true →
    let f := fmt.toNat
    let n := func.toNat
    let gives (data : List Byte) (t : State) : Prop := t.vreg p.val d.val = data ∧ VectorFrame p.val d.val s t
    let ok (o : VOp) (a b c : Fin 32) : Prop := vecLegal (.op o d a b c fmt rnd func) = true
    let va := elems f (s.vreg p.val a.val)
    let vb := elems f (s.vreg p.val b.val)
    let vc := elems f (s.vreg p.val c.val)
    (ok .vcvt a b 0 → rnd ≠ 2 →
      Ends (.vcvt p g d a b fmt rnd func) s (gives (cvtOp (n % 16) f (bits n 6 4) rnd.toNat (fun _ => 0) (s.vreg p.val a.val) (s.vreg p.val b.val)).1)) ∧
    (ok .vsfu a 0 0 → rnd = 0 → Ends (.vsfu p g d a fmt func) s (gives (image f (sfuOp f n va).1))) ∧
    (ok .vsmx a b c → rnd = 0 → Ends (.vsmx p g d a b c fmt func) s (gives (image f (smxOp n va vb vc).1))) ∧
    (ok .vrope a b c → rnd = 0 → s.sreg p.val b.val < 2 ^ 40 →
      Ends (.vrope p g d a b c fmt func) s (gives (image f (ropeOp f n va (s.sreg p.val b.val) (elems 0 (s.vreg p.val c.val))).1))) ∧
    (ok .vred a 0 0 → rnd = 0 → Ends (.vred p g d a fmt func) s fun t =>
      t.sword p.val d.val = (if d = 0 then 0 else
        BitVec.ofNat 64 (toFp32 (if n = 0 then treeSum 10 (va.map (decodePlain f)) else treeFold (minMax true) 10 (va.map (decodePlain f))))) ∧
      IssueFrame p.val (fun r => VectorRegs p.val r ∨ d ≠ 0 ∧ r = Reg.TILE_SREG p.val d.val) s t)

/-- VLD, SLD, VST and SST at their effective address (R117, R118, R120, R139). For every sound state, running tile that takes a
bundle with a guard that holds and whose engine queue is empty, address register, addressing mode 0, 1 or 2 and effective
address that is aligned (32 for vectors, 8 for scalars) and inside tile memory: a load from bytes that are not poisoned copies
1,024 bytes to vD, or 8 to sD; a store copies the register to memory, and every byte outside the stored bytes reads as before.
POST_INC leaves the base plus IMM in the address register; the other modes leave it. Nothing else but what every issue writes
changes. Concludes that exec answers a next state for VLD, VST, SLD, SST. -/
def Obligations.LoadsAndStores : Prop :=
  ∀ (s : State) (p : Fin 160) (g : Guard) (d x : Fin 32) (ar : Fin 16) (am : BitVec 2) (imm : BitVec 32),
    s.Sound → s.Takes p.val → s.guard p.val g = true → (s.tile p.val).queue = [] → amLegal am x imm = true →
    let l := s.logical p.val
    let ea := match am.toNat with
      | 0 => (s.areg p.val ar.val + sext imm) % 2 ^ 64
      | 1 => s.areg p.val ar.val
      | _ => (s.areg p.val ar.val + s.sreg p.val x.val) % 2 ^ 64
    let base (t : State) : Prop := t.areg p.val ar.val = if am = 1 then (s.areg p.val ar.val + sext imm) % 2 ^ 64 else s.areg p.val ar.val
    let ptr (r : Nat) : Prop := am = 1 ∧ r = Reg.TILE_AREG p.val ar.val
    let stores (n : Nat) (v : Nat → Byte) (t : State) : Prop := base t ∧
      (∀ k, k < n → t.byte (tileAddr l (ea + k)) = v k) ∧
      (∀ a, (a < tileAddr l ea ∨ tileAddr l (ea + n) ≤ a) → t.byte a = s.byte a) ∧
      t.path = s.path ∧ t.acc = s.acc ∧ OnlyRegs (fun r => ptr r ∨ IssueRegs p.val r) s t
    (ea % 32 = 0 → ea + 1024 ≤ 0x400000 →
      (s.tmPoison l ea 1024 = false → Ends (.vld p g d ar am x imm) s fun t => base t ∧ t.vreg p.val d.val = s.tmBytes l ea 1024 ∧
        IssueFrame p.val (fun r => ptr r ∨ ∃ i, i < 128 ∧ r = Reg.TILE_VREG p.val (128 * d.val + i)) s t) ∧
      Ends (.vst p g d ar am x imm) s (stores 1024 (fun k => (s.vreg p.val d.val).getD k 0))) ∧
    (ea % 8 = 0 → ea + 8 ≤ 0x400000 →
      (s.tmPoison l ea 8 = false → Ends (.sld p g d ar am x imm) s fun t => base t ∧
        t.sreg p.val d.val = (if d = 0 then 0 else ofBytes (s.tmBytes l ea 8)) ∧
        IssueFrame p.val (fun r => ptr r ∨ d ≠ 0 ∧ r = Reg.TILE_SREG p.val d.val) s t) ∧
      Ends (.sst p g d ar am x imm) s (stores 8 (fun k => BitVec.ofNat 8 (s.sreg p.val d.val >>> (8 * k)))))

/-- ACCRD, ACCWR, SQPOST, SQTEST, SGET and SPUT (R118, R119, R236, R237, R292, R295, R296, R297). For every sound state, running
tile that takes a bundle with a guard that holds and whose engine queue is empty: ACCRD copies rows 2i and 2i + 1 of a bank to
vD and ACCWR copies vD to them, changing no other accumulator word. With one queue that serves the context queue, SQPOST to
fewer than 256 lists appends the list address and SQTEST writes its completion count to sD. With one port of the number: SGET
from an inbound port (REF 0) that holds a landed entry and fewer than HOLD taken ones writes its descriptor to sD and the entry
becomes held; SPUT to an outbound port (REF 0) of this device with a credit takes one credit, counts one entry outstanding and
sends the descriptor with the bytes at aAR. Concludes that exec answers a next state for ACCRD, ACCWR, SQPOST, SQTEST, SGET,
SPUT. -/
def Obligations.AccumulatorAndStageMoves : Prop :=
  ∀ (s : State) (p : Fin 160) (g : Guard) (d x : Fin 32) (ar : Fin 16) (bank : Fin 4) (i : Fin 64),
    s.Sound → s.Takes p.val → s.guard p.val g = true → (s.tile p.val).queue = [] →
    let c := s.runCtx p.val
    let l := s.logical p.val
    let vregs (r : Nat) : Prop := ∃ j, j < 128 ∧ r = Reg.TILE_VREG p.val (128 * d.val + j)
    let word (j k : Nat) : BitVec 32 := BitVec.ofNat 32 (field (s.vreg p.val d.val) (512 * j + 4 * k) 4)
    let portRegs (k r : Nat) : Prop := r = Reg.STG_P_STATUS k ∨ r = Reg.STG_P_WM k ∨ r = Reg.STG_P_ENTRIES k
    (Ends (.accrd p g d bank i) s fun t =>
      (∀ j k, j < 2 → k < 128 → field (t.vreg p.val d.val) (512 * j + 4 * k) 4 = (s.accWord p.val bank.val (2 * i.val + j) k).toNat) ∧
      IssueFrame p.val vregs s t) ∧
    (Ends (.accwr p g d bank i) s fun t =>
      (∀ j k, j < 2 → k < 128 → t.accWord p.val bank.val (2 * i.val + j) k = word j k) ∧
      (∀ q b r k, q < 160 → b < 4 → r < 128 → k < 128 → (q ≠ p.val ∨ b ≠ bank.val ∨ r / 2 ≠ i.val) → t.accWord q b r k = s.accWord q b r k) ∧
      OnlyRegs (IssueRegs p.val) s t ∧ SameMemory s t) ∧
    (∀ q, s.queuesOf c (s.sreg p.val d.val % 64) = [q] → (s.queue q).lists.length < 256 → Ends (.sqpost p g d x) s fun t =>
      (t.queue q).lists = (s.queue q).lists ++ [s.sreg p.val x.val] ∧
      IssueFrame p.val (fun r => r = Reg.STR_Q_STATUS q ∨ r = Reg.STR_Q_WM q) s t) ∧
    (∀ q, s.queuesOf c (s.sreg p.val x.val % 64) = [q] → Ends (.sqtest p g d x) s fun t =>
      t.sreg p.val d.val = (if d = 0 then 0 else s.fld (Reg.STR_Q_DONE q) F.STR_Q_DONE_COUNT) ∧
      IssueFrame p.val (fun r => d ≠ 0 ∧ r = Reg.TILE_SREG p.val d.val) s t) ∧
    (∀ k e rest, s.sreg p.val x.val < 64 → s.stagePortsOf c (s.sreg p.val x.val) = [k] → s.stgInbound k = true → s.stgTile k = l →
      s.fld (Reg.STG_P_CTRL k) F.STG_P_CTRL_REF = 0 → (s.stagePort k).landed = e :: rest → (s.stagePort k).held.length < s.stgHold k →
      Ends (.sget p g d x) s fun t =>
        t.sword p.val d.val = (if d = 0 then 0 else e) ∧ (t.stagePort k).landed = rest ∧
        (t.stagePort k).held = (s.stagePort k).held ++ [e] ∧
        IssueFrame p.val (fun r => portRegs k r ∨ d ≠ 0 ∧ r = Reg.TILE_SREG p.val d.val) s t) ∧
    (∀ k, s.sreg p.val d.val < 64 → s.stagePortsOf c (s.sreg p.val d.val) = [k] → s.stgInbound k = false → s.stgTile k = l →
      s.fld (Reg.STG_P_CTRL k) F.STG_P_CTRL_REF = 0 → 0 < s.stgCredits k → s.stgPeer k = s.deviceId →
      s.fld (Reg.STG_P_STATUS k) F.STG_P_STATUS_OUTSTANDING < 2047 →
      let desc := s.sword p.val x.val
      let o := s.areg p.val ar.val
      bits desc.toNat 19 12 = 0 → descLen desc ≤ s.fld (Reg.STG_P_CTRL k) F.STG_P_CTRL_MAX_LEN → o % 64 = 0 →
      o + 64 * (descLen desc + 1) ≤ 0x400000 → s.tmPoison l o (64 * (descLen desc + 1)) = false →
      Ends (.sput p g d ar x) s fun t =>
        t.stgCredits k = s.stgCredits k - 1 ∧
        t.fld (Reg.STG_P_STATUS k) F.STG_P_STATUS_OUTSTANDING = s.fld (Reg.STG_P_STATUS k) F.STG_P_STATUS_OUTSTANDING + 1 ∧
        (t.stagePort k).sending = (s.stagePort k).sending ++
          [⟨desc, k, s.deviceId, s.epoch (s.stgCtx k), s.tmBytes l o (64 * (descLen desc + 1)), []⟩] ∧
        IssueFrame p.val (portRegs k) s t)

/-- Domain `d` has no mode record and no enabled event slot. -/
def Calm (s : State) (d : Nat) : Prop :=
  (s.dom d).record = none ∧ ∀ k, k < 256 → s.on (Reg.TIDE_SLOT_CTRL d k) F.TIDE_SLOT_CTRL_ENABLE = false

/-- What a frame to every valid child of domain `d` adds to the output. -/
def childFrames (s : State) (d : Nat) (f : Frame) : List Output :=
  if s.fatal then [] else
    (((s.children d).map fun c => s.fld (Reg.TIDE_CHILD d c) F.TIDE_CHILD_PORT).filter s.usable).map fun p => Output.frame p f

/-- In `t` the tide of domain `d` has come to `v` from `s`, and the children have been told, after the output `pre`. -/
def TidesTo (s : State) (d : Nat) (v : Word) (acts arg : Nat) (pre : List Output) (t : State) : Prop :=
  t.tide d = v ∧ (t.dom d).pending = none ∧ t.out = s.out ++ pre ++ childFrames s d (.tide d v acts arg) ∧
    KeepsAllBut (fun a => a = Reg.TIDE_VALUE d ∨ a = Reg.TIDE_DSTATUS d) s t

/-- Advances at the root, and a value received from the parent, change the tide and go to every child (R63, R65, R66, R68, R70, R78,
R81, R94). For every sound state and domain with no mode record and no enabled event slot: at a root in FLOW with no pending
advance, NEXT_TICK below tick 65,535 adds one to the tide; NEXT_PHASE, and an active TIDE_IN edge for the domain, enter DRAIN of
the step where DRAIN is not gated, and only set the pending advance where it is; SET takes the tide to a higher TARGET in DRAIN;
a gated advance to DRAIN is made once this device and every live child are ready; a held advance to DRAIN is made at its
release; and a member takes a value in DRAIN from its parent, in a frame that its link takes and acknowledges. Each sends the
value to every valid child on its port and changes no register but the tide, the domain's status and nothing of memory. At any
other role, or with an advance pending, NEXT_TICK, NEXT_PHASE and SET are ignored with BAD_WRITE. Concludes that exec answers a
next state for NEXT_TICK, NEXT_PHASE, TIDE_IN_EDGE, SET, GATED_ADVANCE, MODE_HOLD_RELEASE, TIDE_VALUE. -/
def Obligations.TideAdvances : Prop :=
  ∀ (s : State) (d : Fin 16), s.Sound →
    let n := d.val
    let drain := tideWord (tideStep (s.tide n)) Phase.DRAIN 0
    let gated := bit (s.gateByte n Phase.DRAIN) 7
    let inFlow := Calm s n ∧ s.phase n = Phase.FLOW
    let root := s.role n = Role.ROOT ∧ (s.dom n).pending = none
    let pin (level : Bool) : Prop := s.pins.tideIn = !level ∧ s.on Reg.TIDE_PIN_CTRL F.TIDE_PIN_CTRL_EN = true ∧
      s.on Reg.TIDE_PIN_CTRL F.TIDE_PIN_CTRL_EDGE = !level ∧ s.fld Reg.TIDE_PIN_CTRL F.TIDE_PIN_CTRL_DOMAIN = n
    (root → inFlow → tideTick (s.tide n) < 65535 → Ends (.nextTick d) s (TidesTo s n (s.tide n + 1) 0 0 [])) ∧
    (root → inFlow → gated = false → Ends (.nextPhase d) s (TidesTo s n drain 0 0 [])) ∧
    (root → inFlow → gated = true → Ends (.nextPhase d) s fun t =>
      (t.dom n).pending = some ⟨drain, true, s.now⟩ ∧ t.on (Reg.TIDE_DSTATUS n) F.TIDE_DSTATUS_PENDING = true ∧
      KeepsAllBut (fun a => a = Reg.TIDE_DSTATUS n) s t) ∧
    (∀ level, root → inFlow → gated = false → pin level →
      Ends (.tideInEdge level) s (TidesTo s n drain 0 0 []) ∧ Ends (.tideInEdge level) s fun t => t.pins = { s.pins with tideIn := level }) ∧
    (root → inFlow → tidePhase (s.reg (Reg.TIDE_TARGET n)) = Phase.DRAIN → (s.tide n).toNat < (s.reg (Reg.TIDE_TARGET n)).toNat →
      Ends (.set d) s (TidesTo s n (s.reg (Reg.TIDE_TARGET n)) 0 0 [])) ∧
    (∀ us, s.role n = Role.ROOT → inFlow → (s.dom n).pending = some ⟨drain, true, us⟩ → s.localReady n drain = true →
      s.childrenReady n drain = true → Ends (.gatedAdvance d) s (TidesTo s n drain 0 0 [])) ∧
    (∀ us, inFlow → (s.dom n).pending = some ⟨drain, false, us⟩ → Ends (.modeHoldRelease d) s (TidesTo s n drain 0 0 [])) ∧
    (∀ (h : Hop) (acts arg : BitVec 16), s.Heard h → s.role n = Role.MEMBER → s.parentValid n = true → inFlow → (s.dom n).pending = none →
      Ends (.tideValue d h drain acts arg) s (TidesTo s n drain acts.toNat arg.toNat [hopAck h])) ∧
    (s.role n ≠ Role.ROOT ∨ (s.dom n).pending.isSome = true →
      Ignores (.nextTick d) s Reg.TIDE_STATUS F.TIDE_STATUS_BAD_WRITE ∧ Ignores (.nextPhase d) s Reg.TIDE_STATUS F.TIDE_STATUS_BAD_WRITE ∧
      Ignores (.set d) s Reg.TIDE_STATUS F.TIDE_STATUS_BAD_WRITE)

/-- What a frame to the parent of domain `d` adds to the output. -/
def parentFrame (s : State) (d : Nat) (f : Frame) : List Output :=
  let p := s.fld (Reg.TIDE_PARENT d) F.TIDE_PARENT_PORT
  if s.parentValid d = true ∧ s.usable p = true then [.frame p f] else []

/-- Readiness, loss and heartbeats on the tide tree (R74, R75, R76, R80, R83, R96). For every sound state without a fatal stop: a
short frame that its link takes is acknowledged, and then has its effect; one whose CRC fails is counted, answered with NAK and
has no other effect. READY from a valid child is remembered beside its earlier ones that can still come; a member that is ready,
as are its live children, and has not yet sent READY for the successor sends it to its parent, and one that has sent it sends
nothing; LOST at a root without AUTO_PAUSE sets LOST_SEEN and at a member goes to the parent; NEIGHBOUR_LOST of a valid child at
such a root sets its LOST_CHILD bit and posts an entry, and changes nothing where that bit is set; a heartbeat whose check fails
is only counted; a heartbeat leaves a port whose control channel is locked, which is in service and which no injection rule
matches, with the generation of every domain with a role; a heartbeat whose generation of a member's domain is one ahead, with
no record armed for it, sets STALE, posts, and tells the parent. Concludes that exec answers a next state for READY, READY_SEND,
LOST, NEIGHBOUR_LOST, HEARTBEAT_SEND, HEARTBEAT. -/
def Obligations.TideReadinessAndLoss : Prop :=
  ∀ (s : State) (d : Fin 16) (c : Fin 7) (v : Word) (dev : BitVec 13) (h : Hop), s.Sound → s.fatal = false →
    let n := d.val
    let st := Reg.TIDE_DSTATUS n
    let calmRoot := s.role n = Role.ROOT ∧ s.on (Reg.TIDE_CTRL n) F.TIDE_CTRL_AUTO_PAUSE = false
    let childValid := s.on (Reg.TIDE_CHILD n c.val) F.TIDE_CHILD_VALID = true
    let lost := s.fld st F.TIDE_DSTATUS_LOST_CHILD
    (∀ (acts arg : BitVec 16) (r : List Word), s.usable h.port.val = true → (s.port h.port.val).closed = false → h.ok = false →
      s.Below (Reg.FAB_P_CRC_ERRORS h.port.val) 1 →
      ∀ i ∈ [Instr.tideValue d h v acts arg, .ready d h c v, .lost d h dev, .arm d h r, .ack d h c, .nack d h c, .commit d h, .abort d h,
        .rearm d h dev r, .stale d h dev], Ends i s fun t =>
        t.out = s.out ++ [.frame h.port.val (.nak true (((s.port h.port.val).ctl.rx + 1) % 65536))] ∧
        Counts s t (Reg.FAB_P_CRC_ERRORS h.port.val) 1 ∧ t.domains = s.domains ∧
        KeepsAllBut (fun a => a = Reg.FAB_P_CRC_ERRORS h.port.val) s t) ∧
    (s.Heard h → s.role n ≠ Role.OFF → childValid → Ends (.ready d h c v) s fun t =>
      (∀ b w, (b, w) ∈ (t.dom n).childReady ↔ (b = c.val ∧ w = v) ∨
        ((b, w) ∈ (s.dom n).childReady ∧ tideStep (s.tide n) ≤ tideStep w)) ∧
      t.out = s.out ++ [hopAck h] ∧ KeepsAllBut (fun _ => False) s t) ∧
    (∀ w, s.successor n = some w → s.role n = Role.MEMBER → s.parentValid n = true → s.on st F.TIDE_DSTATUS_STALE = false →
      w ∉ (s.dom n).readySent → s.localReady n w = true → s.childrenReady n w = true → Ends (.readySend d) s fun t =>
        t.out = s.out ++ parentFrame s n (.ready n w) ∧ w ∈ (t.dom n).readySent ∧ KeepsAllBut (fun _ => False) s t) ∧
    (∀ w, s.successor n = some w → w ∈ (s.dom n).readySent → NoEffect (.readySend d) s) ∧
    (s.Heard h → calmRoot → Ends (.lost d h dev) s fun t => t.on st F.TIDE_DSTATUS_LOST_SEEN = true ∧
      t.out = s.out ++ [hopAck h] ∧ KeepsAllBut (fun a => a = st) s t) ∧
    (s.Heard h → s.role n = Role.MEMBER → Ends (.lost d h dev) s fun t =>
      t.out = s.out ++ [hopAck h] ++ parentFrame s n (.lost n dev.toNat) ∧ KeepsAllBut (fun _ => False) s t) ∧
    (calmRoot → s.modeState n ≠ ModeSt.ARMED → childValid → bit lost c.val = false → Ends (.neighbourLost d (some c)) s fun t =>
      t.fld st F.TIDE_DSTATUS_LOST_CHILD = lost + 2 ^ c.val ∧ s.posted < t.posted ∧
      KeepsAllBut (fun a => a = st ∨ IsLedger a) s t) ∧
    (s.role n ≠ Role.OFF → childValid → bit lost c.val = true → Ends (.neighbourLost d (some c)) s fun t => t = s) ∧
    (∀ p : Fin 32, s.on (Reg.FAB_P_STATUS p.val) F.FAB_P_STATUS_CTRL_LOCK = true → s.usable p.val = true →
      (∀ k, k < 32 → injects s k p.val 4 none none = false) → Ends (.heartbeatSend p) s fun t =>
        t.out = s.out ++ [.frame p.val (.heartbeat s.deviceId (((List.range 16).filter fun e => s.role e ≠ Role.OFF).map fun e => (e, s.modeGen e % 256)))] ∧
        KeepsAllBut (fun _ => False) s t) ∧
    (∀ (p : Fin 32) (gens : List (Fin 16 × BitVec 8)), s.usable p.val = true → (s.port p.val).closed = false →
      s.Below (Reg.FAB_P_CRC_ERRORS p.val) 1 → Ends (.heartbeat p false dev gens) s fun t =>
        Counts s t (Reg.FAB_P_CRC_ERRORS p.val) 1 ∧ KeepsAllBut (fun a => a = Reg.FAB_P_CRC_ERRORS p.val) s t) ∧
    (∀ (p : Fin 32) (g : BitVec 8), s.usable p.val = true → (s.port p.val).closed = false → s.role n = Role.MEMBER → (s.dom n).record = none → s.on st F.TIDE_DSTATUS_STALE = false →
      g.toNat = (s.modeGen n + 1) % 256 → Ends (.heartbeat p true dev [(d, g)]) s fun t =>
        t.on st F.TIDE_DSTATUS_STALE = true ∧ s.posted < t.posted ∧
        parentFrame s n (.stale n s.deviceId) <:+ t.out ∧ KeepsAllBut (fun a => a = st ∨ IsLedger a) s t)

/-- Writes to the registers of a tide domain, and its timer (R73, R79, R86, R90, R554). For every sound state: TIDE_CTRL_WRITE that
keeps ROLE sets AUTO_PAUSE, FUNC and OUTER_EVERY, and one that changes ROLE outside IDLE and PAUSE keeps ROLE with BAD_WRITE;
ROLE_OFF in IDLE or PAUSE, with consistent tree entries, no shard, no version and no reduction record, makes the role OFF and
zeroes the tide, READY and the mode status; a neighbour entry is written in IDLE or PAUSE where the entries stay consistent and
is otherwise kept with BAD_WRITE; READY is raised, never lowered; the timer takes PERIOD_S from 1 to 86,400 at a root; a period
that ends at a root with the timer running makes it due and merges with one that is due; a slot that is not reached takes the
enable, ACTIONS of the five defined bits and ARG. Concludes that exec answers a next state for TIDE_CTRL_WRITE, ROLE_OFF,
TIDE_NEIGHBOUR_WRITE, TIDE_READY_WRITE, TIMER_WRITE, TIMER_EXPIRY, SLOT_CTRL_WRITE. -/
def Obligations.TideRegisters : Prop :=
  ∀ (s : State) (d : Fin 16) (v : Word), s.Sound →
    let n := d.val
    let ctrl := Reg.TIDE_CTRL n
    let keeps (l : List Nat) (t : State) : Prop := KeepsAllBut (fun a => a ∈ l) s t
    (v.get F.TIDE_CTRL_ROLE = s.role n → s.role n ≤ 2 → Ends (.tideCtrlWrite d v) s fun t => t.role n = s.role n ∧ keeps [ctrl] t ∧
      ∀ f ∈ [F.TIDE_CTRL_AUTO_PAUSE, F.TIDE_CTRL_FUNC, F.TIDE_CTRL_OUTER_EVERY], t.fld ctrl f = v.get f) ∧
    (v.get F.TIDE_CTRL_ROLE ≠ s.role n → s.role n ≤ 2 → s.phase n ≠ Phase.IDLE → s.phase n ≠ Phase.PAUSE →
      Ends (.tideCtrlWrite d v) s fun t => t.role n = s.role n ∧ t.on Reg.TIDE_STATUS F.TIDE_STATUS_BAD_WRITE = true ∧
        keeps [ctrl, Reg.TIDE_STATUS] t) ∧
    (s.role n ≠ Role.OFF → s.restful n = true → s.treeOk n Role.OFF = true → s.shards = [] → s.runs = [] → s.reds = [] → s.versions = [] →
      Ends (.roleOff d v) s fun t => t.role n = Role.OFF ∧ t.tide n = 0 ∧ t.reg (Reg.TIDE_READY n) = 0 ∧
        t.fld (Reg.TIDE_MODE_STATUS n) F.TIDE_MODE_STATUS_STATE = 0 ∧ t.fld (Reg.TIDE_MODE_STATUS n) F.TIDE_MODE_STATUS_GEN = 0 ∧
        (t.dom n).pending = none ∧ (t.dom n).record = none ∧
        keeps [ctrl, Reg.TIDE_VALUE n, Reg.TIDE_READY n, Reg.TIDE_DSTATUS n, Reg.TIDE_MODE_STATUS n, Reg.MGT_CMD_STATUS] t) ∧
    (∀ c : Option (Fin 7),
      let r := match c with | some k => Reg.TIDE_CHILD n k.val | none => Reg.TIDE_PARENT n
      let t' := genericWrite r v s
      (s.restful n = true → s.modeState n ≠ ModeSt.ARMED → t'.treeOk n (s.role n) = true → Ends (.tideNeighbourWrite d c v) s fun t =>
        (∀ f ∈ [F.TIDE_CHILD_VALID, F.TIDE_CHILD_PORT, F.TIDE_CHILD_DEVICE], t.fld r f = v.get f) ∧ keeps [r] t) ∧
      (s.restful n = false → t'.reg r ≠ s.reg r →
        Ignores (.tideNeighbourWrite d c v) s Reg.TIDE_STATUS F.TIDE_STATUS_BAD_WRITE)) ∧
    ((s.reg (Reg.TIDE_READY n)).toNat ≤ v.toNat → Sets (.tideReadyWrite d v) s (Reg.TIDE_READY n) v) ∧
    (v.toNat < (s.reg (Reg.TIDE_READY n)).toNat → Ignores (.tideReadyWrite d v) s Reg.TIDE_STATUS F.TIDE_STATUS_BAD_WRITE) ∧
    (s.role n = Role.ROOT → 1 ≤ v.get F.TIDE_TIMER_PERIOD_S → v.get F.TIDE_TIMER_PERIOD_S ≤ 86400 →
      Ends (.timerWrite d v) s fun t => t.fld (Reg.TIDE_TIMER n) F.TIDE_TIMER_PERIOD_S = v.get F.TIDE_TIMER_PERIOD_S ∧
        t.fld (Reg.TIDE_TIMER n) F.TIDE_TIMER_EN = v.get F.TIDE_TIMER_EN ∧ keeps [Reg.TIDE_TIMER n] t) ∧
    (s.role n ≠ Role.ROOT → Ignores (.timerWrite d v) s Reg.TIDE_STATUS F.TIDE_STATUS_BAD_WRITE) ∧
    (s.role n = Role.ROOT → s.on (Reg.TIDE_TIMER n) F.TIDE_TIMER_EN = true → s.fld (Reg.TIDE_TIMER n) F.TIDE_TIMER_PERIOD_S ≠ 0 →
      Ends (.timerExpiry d) s fun t => (t.dom n).timerDue = true ∧ keeps [Reg.TIDE_DSTATUS n] t ∧
        ((s.dom n).timerDue = true → t.on (Reg.TIDE_DSTATUS n) F.TIDE_DSTATUS_TIMER_MERGED = true)) ∧
    (∀ k : Fin 256,
      let r := Reg.TIDE_SLOT_CTRL n k.val
      v.get F.TIDE_SLOT_CTRL_ACTIONS < 32 → (bit (v.get F.TIDE_SLOT_CTRL_ACTIONS) 4 = true → s.role n = Role.ROOT) →
      reached (s.tide n) (s.reg (Reg.TIDE_SLOT_VALUE n k.val)) = false → Ends (.slotCtrlWrite d k v) s fun t =>
        (∀ f ∈ [F.TIDE_SLOT_CTRL_ENABLE, F.TIDE_SLOT_CTRL_ACTIONS, F.TIDE_SLOT_CTRL_ARG], t.fld r f = v.get f) ∧ keeps [r] t)

/-- The two-phase mode change: arm, acknowledge, commit, abort, rearm (R91, R92, R93, R95, R96, R97, R98). For every sound state: at
a root with no change under way and an admitted record whose T is later than the tide, MODE_ARM gives it the next generation,
arms it and sends it to the children, or is REFUSED; it is ignored while a change is under way; with a valid child that has not
answered it stays ARMED, and the last ACK, or the loss of the last child that has not answered, commits it, raising the
generation; MODE_CANCEL of an armed change, and NACK, end it with REFUSED and tell the children. At a member with a parent: ARM
of an admitted record arms it and acknowledges at once where no child is waited for; COMMIT raises the generation; ABORT
discards an armed record and counts it; REARM of a stale device with an INJECTION record takes the record's generation and
clears STALE; STALE goes to the parent, and at the root is remembered. Each frame is taken and acknowledged by its link first.
MODE_REARM of a device not reported stale is REFUSED. Concludes that exec answers a next state for MODE_ARM, ACK,
NEIGHBOUR_LOST, MODE_CANCEL, NACK, ARM, COMMIT, ABORT, REARM, STALE, MODE_REARM. -/
def Obligations.ModeChange : Prop :=
  ∀ (s : State) (d : Fin 16) (c : Fin 7) (dev : BitVec 13) (r : List Word) (h : Hop), s.Sound → s.fatal = false →
    let n := d.val
    let st := Reg.TIDE_MODE_STATUS n
    let isRoot := s.role n = Role.ROOT
    let member := s.role n = Role.MEMBER ∧ s.parentValid n = true
    let r0 := s.modeRecord n
    let gen := (s.modeGen n + 1) % 2 ^ 32
    let code (t : State) (k : Nat) : Prop := t.fld st F.TIDE_MODE_STATUS_COMPLETION = k
    let mode (a : Nat) : Prop := a = st ∨ a = Reg.TIDE_MODE_REC n 1
    (isRoot → s.modeState n = ModeSt.NONE → (s.tide n).toNat < (recT r0).toNat → recAccepted n r0 s = true → s.liveChildren n ≠ [] →
      Ends (.modeArm d) s fun t => t.modeState n = ModeSt.ARMED ∧ code t Code.DEFERRED ∧ (t.dom n).record = some (t.modeRecord n) ∧
        recGen (t.modeRecord n) = gen ∧ t.out = s.out ++ childFrames s n (.arm n (t.modeRecord n)) ∧ KeepsAllBut mode s t) ∧
    (isRoot → s.modeState n = ModeSt.NONE → recAccepted n r0 s = false →
      Ends (.modeArm d) s fun t => code t Code.REFUSED ∧ KeepsAllBut (fun a => a = st) s t) ∧
    (isRoot → s.modeState n ≠ ModeSt.NONE → NoEffect (.modeArm d) s) ∧
    (isRoot → s.modeState n = ModeSt.ARMED → (s.dom n).record = some r → (s.dom n).ackSent = false →
      (∀ b ∈ s.liveChildren n, b ≠ c.val → b ∈ (s.dom n).acked) →
      let commits (pre : List Output) (t : State) : Prop := t.modeState n = ModeSt.COMMITTED ∧ t.modeGen n = recGen r ∧
        pre ++ childFrames s n (.commit n) <:+ t.out
      (s.Heard h → Ends (.ack d h c) s fun t => commits [hopAck h] t ∧ KeepsAllBut (fun a => a = st) s t) ∧
      (s.on (Reg.TIDE_CHILD n c.val) F.TIDE_CHILD_VALID = true → bit (s.fld (Reg.TIDE_DSTATUS n) F.TIDE_DSTATUS_LOST_CHILD) c.val = false →
        s.on (Reg.TIDE_CTRL n) F.TIDE_CTRL_AUTO_PAUSE = false → Ends (.neighbourLost d (some c)) s fun t =>
          commits [] t ∧ KeepsAllBut (fun a => a = st ∨ a = Reg.TIDE_DSTATUS n ∨ IsLedger a) s t)) ∧
    (isRoot → s.modeState n = ModeSt.ARMED → (s.dom n).raised = false → s.fld (Reg.TIDE_ABORT_COUNT n) ⟨47, 0⟩ < 0xFFFFFFFFFFFF →
      let ended (pre : List Output) (t : State) : Prop := t.modeState n = ModeSt.NONE ∧ code t Code.REFUSED ∧ (t.dom n).record = none ∧
        t.modeGen n = s.modeGen n ∧ t.out = s.out ++ pre ++ childFrames s n (.abort n) ∧
        KeepsAllBut (fun a => a = st ∨ a = Reg.TIDE_ABORT_COUNT n) s t
      Ends (.modeCancel d) s (ended []) ∧ (s.Heard h → Ends (.nack d h c) s (ended [hopAck h]))) ∧
    (member → s.modeState n = ModeSt.NONE → recAccepted n r s = true → s.children n = [] → s.Heard h → Ends (.arm d h r) s fun t =>
      t.modeState n = ModeSt.ARMED ∧ (t.dom n).record = some r ∧ t.out = s.out ++ [hopAck h] ++ parentFrame s n (.ack n) ∧
      KeepsAllBut (fun a => a = st) s t) ∧
    (member → s.modeState n = ModeSt.ARMED → (s.dom n).record = some r → s.Heard h → Ends (.commit d h) s fun t =>
      t.modeState n = ModeSt.COMMITTED ∧ t.modeGen n = recGen r ∧ t.out = s.out ++ [hopAck h] ++ childFrames s n (.commit n) ∧
      KeepsAllBut (fun a => a = st) s t) ∧
    (member → s.modeState n = ModeSt.ARMED → (s.dom n).raised = false → s.fld (Reg.TIDE_ABORT_COUNT n) ⟨47, 0⟩ < 0xFFFFFFFFFFFF →
      s.Heard h → Ends (.abort d h) s fun t => t.modeState n = ModeSt.NONE ∧ (t.dom n).record = none ∧
        t.fld (Reg.TIDE_ABORT_COUNT n) ⟨47, 0⟩ = s.fld (Reg.TIDE_ABORT_COUNT n) ⟨47, 0⟩ + 1 ∧
        KeepsAllBut (fun a => a = st ∨ a = Reg.TIDE_ABORT_COUNT n) s t) ∧
    (member → dev.toNat = s.deviceId → s.on (Reg.TIDE_DSTATUS n) F.TIDE_DSTATUS_STALE = true → recKind r = 3 → s.recovery = false →
      s.Heard h → Ends (.rearm d h dev r) s fun t => t.modeGen n = recGen r ∧ t.on (Reg.TIDE_DSTATUS n) F.TIDE_DSTATUS_STALE = false ∧
        t.fld Reg.FAB_INJ_ENABLE F.FAB_INJ_ENABLE_V = field (recBytes r) 16 4 ∧
        KeepsAllBut (fun a => a = st ∨ a = Reg.TIDE_DSTATUS n ∨ a = Reg.FAB_INJ_ENABLE) s t) ∧
    (isRoot → s.Heard h → Ends (.stale d h dev) s fun t => dev.toNat ∈ (t.dom n).staleDevs ∧
      t.on (Reg.TIDE_DSTATUS n) F.TIDE_DSTATUS_STALE_SEEN = true ∧ KeepsAllBut (fun a => a = Reg.TIDE_DSTATUS n) s t) ∧
    (member → s.Heard h → Ends (.stale d h dev) s fun t => t.out = s.out ++ [hopAck h] ++ parentFrame s n (.stale n dev.toNat) ∧ KeepsAllBut (fun _ => False) s t) ∧
    (isRoot → s.modeState n = ModeSt.NONE → dev.toNat ∉ (s.dom n).staleDevs → Ends (.modeRearm d dev) s fun t => code t Code.REFUSED ∧
      KeepsAllBut (fun a => a = st) s t) ∧
    (isRoot → s.modeState n = ModeSt.NONE → dev.toNat ∈ (s.dom n).staleDevs → dev.toNat ≠ s.deviceId → Ends (.modeRearm d dev) s fun t => code t Code.DONE ∧
      dev.toNat ∉ (t.dom n).staleDevs ∧ t.out = s.out ++ childFrames s n (.rearm n dev.toNat r0) ∧ KeepsAllBut (fun a => a = st) s t)

/-- Where an address lies in the stacks, decoded reads, patrol scrub, and stack temperatures (R207, R208, R210, R211, R212, R214,
R215, R216, R217, R218). Two HBM addresses never lie at the same place: stack, channel, row, stack ID, bank, bank group, column
and byte together tell them apart, under any pin codes. For every sound state in which memory serves: HBM_READ without a symbol
in error has no effect; on a line that is not poisoned, where what it reads is not the poison codeword, with one data or check
symbol in error it is corrected and counted; with three different symbols in error in both tries, on a stack that corrects two,
the line becomes poisoned and all zeros, is counted, and takes the lowest free log entry as a DEMAND, while every byte outside
the line reads as before; with one address symbol in error in both tries it is counted twice as misdirected and logged so.
SCRUB_READ in READY counts a line whose one bad symbol it fixed and moves PROGRESS; SCRUB_LATE sets its bit; TEMP_READING shows
the temperature, sets HOT above 85 degrees, clears it at 82 and below, and keeps it between. Concludes that exec answers a next
state for HBM_READ, SCRUB_READ, SCRUB_LATE, TEMP_READING. -/
def Obligations.StackReads : Prop :=
  ∀ (s : State) (line : BitVec 33), s.Sound →
    let la := line.toNat * 64
    let k := s.stack la
    let counts (t : State) (r : Nat) : Prop := t.fld r ⟨47, 0⟩ = s.fld r ⟨47, 0⟩ + 1
    let below (r : Nat) : Prop := s.fld r ⟨47, 0⟩ < 0xFFFFFFFFFFFF
    let one (e : List (Fin 77 × Byte)) : Prop := ∃ p x, e = [(p, x)] ∧ p.val < 72 ∧ x ≠ 0
    let three (e : List (Fin 77 × Byte)) : Prop := ∃ p q r x y z, e = [(p, x), (q, y), (r, z)] ∧ p ≠ q ∧ p ≠ r ∧ q ≠ r ∧ x ≠ 0 ∧ y ≠ 0 ∧ z ≠ 0
    let plain (e : List (Fin 77 × Byte)) : Prop := readsPoison la (s.rawBytes la 64) false e = false
    let logged (t : State) (i kind : Nat) : Prop := t.fld (Reg.MEM_UE_LOG i) F.MEM_UE_LOG_VALID = 1 ∧
      t.fld (Reg.MEM_UE_LOG i) F.MEM_UE_LOG_KIND = kind ∧ t.fld (Reg.MEM_UE_LOG i) F.MEM_UE_LOG_LINE = line.toNat
    let lowestFree (i : Nat) : Prop := i < 8 ∧ s.on (Reg.MEM_UE_LOG i) F.MEM_UE_LOG_VALID = false ∧
      ∀ j, j < i → s.on (Reg.MEM_UE_LOG j) F.MEM_UE_LOG_VALID = true
    (∀ a b, a < hbmEnd → b < hbmEnd → s.place a = s.place b → a = b) ∧
    (s.memRefuses = false → ∀ e2, NoEffect (.hbmRead line [] e2) s) ∧
    (s.memRefuses = false → s.poisoned la = false →
      (∀ e1 e2, one e1 → plain e1 → below (Reg.MEM_S_CE k) → Ends (.hbmRead line e1 e2) s fun t =>
        counts t (Reg.MEM_S_CE k) ∧ KeepsAllBut (fun a => a = Reg.MEM_S_CE k) s t) ∧
      (∀ e1 e2 i p x, e1 = [(p, x)] → e2 = e1 → 72 ≤ p.val → x ≠ 0 → plain e1 → below (Reg.MEM_S_UE k) → s.Below (Reg.MEM_S_MISDIR k) 2 → lowestFree i →
        Ends (.hbmRead line e1 e2) s fun t => t.poisoned la = true ∧ counts t (Reg.MEM_S_UE k) ∧ logged t i 2 ∧
          Counts s t (Reg.MEM_S_MISDIR k) 2 ∧ t.on Reg.MEM_STATUS F.MEM_STATUS_MISDIRECT = true ∧
          OnlyRegs (fun a => a = Reg.MEM_S_UE k ∨ a = Reg.MEM_S_MISDIR k ∨ a = Reg.MEM_STATUS ∨ a = Reg.MEM_UE_LOG i) s t) ∧
      (∀ e1 e2 i, three e1 → three e2 → plain e1 → plain e2 → s.correct4 la = false → below (Reg.MEM_S_UE k) → lowestFree i →
        Ends (.hbmRead line e1 e2) s fun t => t.poisoned la = true ∧ counts t (Reg.MEM_S_UE k) ∧ logged t i 0 ∧
          (∀ a, t.byte a = if la ≤ a ∧ a < la + 64 then 0 else s.byte a) ∧ t.path = s.path ∧ t.acc = s.acc ∧
          OnlyRegs (fun a => a = Reg.MEM_S_UE k ∨ a = Reg.MEM_UE_LOG i) s t)) ∧
    (∀ e, s.fld Reg.MEM_STATUS F.MEM_STATUS_STATE = 1 → s.poisoned la = false → one e → plain e → below (Reg.MEM_S_SCRUB_FIX k) →
      Ends (.scrubRead line e) s fun t => counts t (Reg.MEM_S_SCRUB_FIX k) ∧ t.path.scrubbed = (s.path.scrubbed + 1) % 2 ^ 33 ∧
        t.fld Reg.MEM_SCRUB F.MEM_SCRUB_PROGRESS = t.path.scrubbed / 2 ^ 17 ∧ (∀ a, t.byte a = s.byte a) ∧ t.acc = s.acc ∧
        OnlyRegs (fun a => a = Reg.MEM_S_SCRUB_FIX k ∨ a = Reg.MEM_SCRUB) s t) ∧
    Sets .scrubLate s Reg.MEM_STATUS ((s.reg Reg.MEM_STATUS).put F.MEM_STATUS_SCRUB_LATE 1) ∧
    ∀ (n : Fin 8) (c : BitVec 8), Ends (.tempReading n c) s fun t =>
      let r := Reg.MEM_S_STATUS n.val
      t.fld r F.MEM_S_STATUS_TEMP = c.toNat ∧
      t.on r F.MEM_S_STATUS_HOT = (if 85 < c.toNat then true else if c.toNat ≤ 82 then false else s.on r F.MEM_S_STATUS_HOT) ∧
      t.on Reg.MEM_STATUS ⟨8 + n.val, 8 + n.val⟩ = t.on r F.MEM_S_STATUS_HOT ∧
      KeepsAllBut (fun a => a = r ∨ a = Reg.MEM_STATUS) s t

/-- Accesses to memory through the base cache and the write-combining buffers, and flushes (R225, R226, R228, R230, R231, R233). For
every sound state in which memory serves: BC_READ counts a hit or a miss, and what every HBM byte reads as is unchanged, where
its pair is not being cleared; a NORMAL miss of a set with room leaves the line cached and clean. BC_WRITE within one line that
is not held, poisoned, reserved by a pan slot, open in the write-combining buffers or in need of a victim leaves exactly its
bytes changed. WCB_TIMEOUT of the one open entry, partial and of a line neither cached nor poisoned, closes it without changing
what any byte reads as; where both tries of its merge read meet three symbols in error, on a stack that corrects two, the line
becomes poisoned, is logged as MERGE, and MERGE_POISON is set and posted. WCB closes every entry, or those of its context, where
no line is poisoned; WB with no open entry leaves every line clean and no byte changed; WB_INV also leaves no line; each sets
FLUSH_BUSY, which FLUSH_DONE clears, and is ignored with BAD_WRITE while it is set. BC_CTRL takes its fields, and a lower
KEEP_WAYS clears every KEEP mark. Concludes that exec answers a next state for BC_READ, BC_WRITE, WCB_TIMEOUT, WCB, WB, WB_INV,
FLUSH_DONE, KEEP_WAYS_WRITE. -/
def Obligations.BaseCache : Prop :=
  ∀ s : State, s.Sound → s.memRefuses = false →
    let same (t : State) : Prop := ∀ a, t.hbmByte a = s.hbmByte a
    let st := Reg.BC_STATUS
    let busy := s.on st F.BC_STATUS_FLUSH_BUSY = true
    let counters (h a : Nat) : Prop := a = Reg.BC_H_HIT h ∨ a = Reg.BC_H_MISS h ∨ a = Reg.BC_H_WCB_RMW h ∨ a = Reg.BC_H_WCB_TIMEOUT_CNT h ∨ IsLedger a
    (∀ (line : BitVec 33) (hint : BitVec 2),
      let la := line.toNat * 64
      let h := s.half la
      (∀ e ∈ s.path.wcb, e.addr ≠ la) → hint = 0 → s.pairClears la = false →
        (∀ l, s.cached la = some l → s.fld (Reg.BC_H_HIT h) ⟨47, 0⟩ < 0xFFFFFFFFFFFF → Ends (.bcRead line hint []) s fun t =>
          t.fld (Reg.BC_H_HIT h) ⟨47, 0⟩ = s.fld (Reg.BC_H_HIT h) ⟨47, 0⟩ + 1 ∧ same t ∧ OnlyRegs (counters h) s t) ∧
        (s.cached la = none → (s.setLines la).length < 24 → s.fld (Reg.BC_H_MISS h) ⟨47, 0⟩ < 0xFFFFFFFFFFFF →
          Ends (.bcRead line hint []) s fun t => t.fld (Reg.BC_H_MISS h) ⟨47, 0⟩ = s.fld (Reg.BC_H_MISS h) ⟨47, 0⟩ + 1 ∧
            (∃ w, w < 24 ∧ t.cached la = some ⟨la, w, s.rawBytes la 64, false, false, s.poisoned la⟩) ∧ same t ∧ OnlyRegs (counters h) s t)) ∧
    (∀ (addr : BitVec 39) (data : List Byte) (hint : BitVec 2) (ctx : BitVec 12),
      let a := addr.toNat
      let la := lineOf a
      data ≠ [] → a % 64 + data.length ≤ 64 → s.writeWaits a = false → s.panSlotOf a = none → (∀ e ∈ s.path.wcb, e.addr ≠ la) →
      (∀ l, s.cached la = some l → l.poison = false) → victim la (hint == 2 && decide (0 < s.keepWays)) s = none →
      (s.path.wcb.filter fun e => s.half e.addr = s.half la).length < 512 →
      Ends (.bcWrite addr data hint ctx []) s fun t =>
        (∀ b, t.hbmByte b = if a ≤ b ∧ b < a + data.length then data.getD (b - a) 0 else s.hbmByte b) ∧
        OnlyRegs (fun r => counters (s.half la) r ∨ r = st) s t ∧ t.acc = s.acc) ∧
    (∀ (h : Fin 2) (line : BitVec 33) (e : WEntry), s.path.wcb = [e] → e.addr = line.toNat * 64 → s.half e.addr = h.val →
      e.mask.length = 64 → e.data.length = 64 → e.mask.all id = false → s.cached e.addr = none → s.poisoned e.addr = false →
      (Ends (.wcbTimeout h line [] []) s fun t => t.path.wcb = [] ∧ same t ∧ OnlyRegs (fun r => counters h.val r ∨ r = st) s t) ∧
      ∀ e1 e2 i, (∀ x ∈ [e1, e2], ∃ p q r : Fin 77, ∃ a b c : Byte, x = [(p, a), (q, b), (r, c)] ∧ p ≠ q ∧ p ≠ r ∧ q ≠ r ∧ a ≠ 0 ∧ b ≠ 0 ∧ c ≠ 0 ∧
          readsPoison e.addr (s.rawBytes e.addr 64) false x = false) → s.correct4 e.addr = false → i < 8 →
        s.on (Reg.MEM_UE_LOG i) F.MEM_UE_LOG_VALID = false → (∀ j, j < i → s.on (Reg.MEM_UE_LOG j) F.MEM_UE_LOG_VALID = true) →
        Ends (.wcbTimeout h line e1 e2) s fun t => t.path.wcb = [] ∧ t.poisoned e.addr = true ∧ t.on st F.BC_STATUS_MERGE_POISON = true ∧ Posts s t ∧
          t.fld (Reg.MEM_UE_LOG i) F.MEM_UE_LOG_VALID = 1 ∧ t.fld (Reg.MEM_UE_LOG i) F.MEM_UE_LOG_KIND = 3 ∧
          t.fld (Reg.MEM_UE_LOG i) F.MEM_UE_LOG_LINE = line.toNat) ∧
    (¬ busy →
      ((∀ e ∈ s.path.wcb, s.poisoned e.addr = false) → (∀ l ∈ s.path.cache, l.poison = false) →
        (Ends (.wcb none []) s fun t => t.path.wcb = [] ∧ t.on st F.BC_STATUS_FLUSH_BUSY = true) ∧
        ∀ c : BitVec 12, Ends (.wcb (some c) []) s fun t =>
          t.path.wcb = s.path.wcb.filter (fun e => e.ctx ≠ c.toNat) ∧ t.on st F.BC_STATUS_FLUSH_BUSY = true) ∧
      (s.path.wcb = [] → (s.path.cache.map (·.addr)).Nodup →
        (∀ l ∈ s.path.cache, l.addr % 64 = 0 ∧ l.data.length = 64 ∧ l.poison = false) →
        let flushed (t : State) : Prop := same t ∧ t.on st F.BC_STATUS_FLUSH_BUSY = true ∧
          OnlyRegs (fun r => r = st ∨ r = Reg.BC_H_WRITEBACK 0 ∨ r = Reg.BC_H_WRITEBACK 1 ∨ IsLedger r) s t
        (Ends (.wb []) s fun t => (∀ l ∈ t.path.cache, l.dirty = false) ∧ t.path.cache.map (·.addr) = s.path.cache.map (·.addr) ∧ flushed t) ∧
        Ends (.wbInv []) s fun t => t.path.cache = [] ∧ flushed t)) ∧
    (busy → Ignores (.wcb none []) s st F.BC_STATUS_BAD_WRITE ∧ Ignores (.wb []) s st F.BC_STATUS_BAD_WRITE ∧
      Ignores (.wbInv []) s st F.BC_STATUS_BAD_WRITE) ∧
    Sets .flushDone s st ((s.reg st).put F.BC_STATUS_FLUSH_BUSY 0) ∧
    ∀ v : Word, v.get F.BC_CTRL_KEEP_WAYS ≤ 12 → 64 ≤ v.get F.BC_CTRL_WCB_TIMEOUT → Ends (.keepWaysWrite v) s fun t =>
      t.keepWays = v.get F.BC_CTRL_KEEP_WAYS ∧ t.fld Reg.BC_CTRL F.BC_CTRL_WCB_TIMEOUT = v.get F.BC_CTRL_WCB_TIMEOUT ∧
      (v.get F.BC_CTRL_KEEP_WAYS < s.keepWays → ∀ l ∈ t.path.cache, l.keep = false) ∧
      t.path.cache.map (·.addr) = s.path.cache.map (·.addr) ∧ OnlyRegs (fun a => a = Reg.BC_CTRL) s t ∧ t.mem = s.mem

/-- Maintenance and loop-back of the memory subsystem (R220, R222, R223). For every sound state: MAINT_REQ in READY with no context
present, no open entry and no cached line enters MAINT with REQ set, and in any other state, or with a context present, is
ignored with BAD_WRITE; MAINT_EXIT in MAINT with no stack looped back clears REQ and RUN and returns to READY; LB_RUN in MAINT
while none runs takes STACK, POINT and PATTERN, sets RUN and ACTIVE and clears the last results, and outside MAINT is ignored
with BAD_WRITE; LB_STOP of a running loop-back clears RUN and ACTIVE and counts the errors met. Concludes that exec answers a
next state for MAINT_REQ, MAINT_EXIT, LB_RUN, LB_STOP. -/
def Obligations.MemoryMaintenance : Prop :=
  ∀ (s : State) (v : Word), s.Sound →
    let st := Reg.MEM_STATUS
    let mode := s.fld st F.MEM_STATUS_STATE
    let c := Reg.MEM_LB_CTRL
    let r := Reg.MEM_LB_STATUS
    (mode = 1 → s.anyContext = false → s.path.wcb = [] → s.path.cache = [] → Ends (.maintReq []) s fun t =>
      t.fld st F.MEM_STATUS_STATE = 2 ∧ t.fld Reg.MEM_MAINT F.MEM_MAINT_REQ = 1 ∧ t.mem = s.mem ∧
      OnlyRegs (fun a => a = st ∨ a = Reg.MEM_MAINT) s t) ∧
    (mode ≠ 1 ∨ s.anyContext = true → Ignores (.maintReq []) s st F.MEM_STATUS_BAD_WRITE) ∧
    (∀ failed : BitVec 8, mode = 2 → s.path.looped = [] → Ends (.maintExit failed) s fun t =>
      t.fld st F.MEM_STATUS_STATE = 1 ∧ t.fld Reg.MEM_MAINT F.MEM_MAINT_REQ = 0 ∧ t.on c F.MEM_LB_CTRL_RUN = false ∧
      t.on r F.MEM_LB_STATUS_ACTIVE = false ∧ KeepsAllBut (fun a => a = st ∨ a = Reg.MEM_MAINT ∨ a = c ∨ a = r) s t) ∧
    (mode = 2 → s.on c F.MEM_LB_CTRL_RUN = false → v.get F.MEM_LB_CTRL_PATTERN ≤ 2 → Ends (.lbRun v) s fun t =>
      t.on c F.MEM_LB_CTRL_RUN = true ∧ t.on r F.MEM_LB_STATUS_ACTIVE = true ∧ t.fld r F.MEM_LB_STATUS_CHFAIL = 0 ∧
      (∀ f ∈ [F.MEM_LB_CTRL_STACK, F.MEM_LB_CTRL_POINT, F.MEM_LB_CTRL_PATTERN], t.fld c f = v.get f) ∧
      v.get F.MEM_LB_CTRL_STACK ∈ t.path.looped ∧ t.mem = s.mem ∧ OnlyRegs (fun a => a = c ∨ a = r) s t) ∧
    (mode ≠ 2 → Ignores (.lbRun v) s st F.MEM_STATUS_BAD_WRITE) ∧
    (∀ errs : List (Fin 32 × Fin 72), s.on r F.MEM_LB_STATUS_ACTIVE = true → v.get F.MEM_LB_CTRL_PATTERN ≤ 2 →
      s.fld Reg.MEM_LB_ERRORS ⟨47, 0⟩ + errs.length ≤ 0xFFFFFFFFFFFF → Ends (.lbStop v errs) s fun t =>
        t.on c F.MEM_LB_CTRL_RUN = false ∧ t.on r F.MEM_LB_STATUS_ACTIVE = false ∧
        t.fld Reg.MEM_LB_ERRORS ⟨47, 0⟩ = s.fld Reg.MEM_LB_ERRORS ⟨47, 0⟩ + errs.length ∧
        KeepsAllBut (fun a => a = c ∨ a = r ∨ a = Reg.MEM_LB_ERRORS) s t)

/-- A block list starts, reads a descriptor, issues a transfer and writes it (R237, R238, R239, R240, R241, R243, R245, R249). For
every sound state and stream queue of an ACTIVE context that may run, with no fingerprint record open and no swap: LIST_START of
an aligned posted list begins it, and of a misaligned one completes it with REFUSED; DESCRIPTOR_START takes the 64 bytes at the
list's address plus 64 for every descriptor before, where they stand unpoisoned in tile memory and pass the checks;
TRANSFER_ISSUE of a ZERO descriptor to a tile, when it is the queue's turn (always, where no other queue of its engine can
issue), takes its next piece of at most 4,096 bytes, cut at 4 KiB of the addresses, as an outstanding transfer of zeros;
TRANSFER_COMPLETE of an unpoisoned local transfer to a tile that waits for nothing stores exactly its bytes and takes it from
the queue. Concludes that exec answers a next state for LIST_START, DESCRIPTOR_START, TRANSFER_ISSUE, TRANSFER_COMPLETE. -/
def Obligations.StreamLists : Prop :=
  ∀ (s : State) (q : Fin 1024), s.Sound → s.queueRuns q.val = true → s.swap = none →
    let x := s.queue q.val
    let c := s.queueCtx q.val
    let st := Reg.STR_Q_STATUS q.val
    let own (a : Nat) : Prop := a = st ∨ a = Reg.STR_Q_WM q.val
    (s.replay (s.ctxDomain c)).recording = false →
    (∀ a rest, x.run = none → x.lists = a :: rest →
      (a % 64 = 0 → Ends (.listStart q) s fun t =>
        t.queue q.val = { x with run := some ⟨a, 0, none, 0, 0, none, none, Code.DONE, false, false, s.epoch c⟩ } ∧
        KeepsAllBut (fun _ => False) s t) ∧
      (a % 64 ≠ 0 → x.xfers = [] → Ends (.listStart q) s fun t =>
        (t.queue q.val).run = none ∧ (t.queue q.val).lists = rest ∧ t.fld st F.STR_Q_STATUS_LAST_CODE = Code.REFUSED ∧
        t.on st F.STR_Q_STATUS_NOT_DONE = true ∧
        t.fld (Reg.STR_Q_DONE q.val) F.STR_Q_DONE_COUNT = (s.fld (Reg.STR_Q_DONE q.val) F.STR_Q_DONE_COUNT + 1) % 2 ^ 32 ∧
        KeepsAllBut (fun r => own r ∨ r = Reg.STR_Q_DONE q.val) s t)) ∧
    (∀ r l o, x.run = some r → r.ended = false → r.desc = none → r.fetching = none → r.fetched = none → r.started < 65536 →
      s.target ((r.addr + 64 * r.started) % 2 ^ 64) 64 = .tile l o → s.tmPoison l o 64 = false →
      s.descOk c (readDesc (s.tmBytes l o 64)) = true → Ends (.descriptorStart q) s fun t =>
        (t.queue q.val).run = some { r with started := r.started + 1, desc := some (s.tmBytes l o 64), run := 0, pos := 0 } ∧
        (t.queue q.val).lists = x.lists ∧ (t.queue q.val).xfers = x.xfers ∧ KeepsAllBut own s t) ∧
    (∀ r b l o, x.run = some r → r.desc = some b →
      let d := readDesc b
      let dst := ((d.runAddr d.dst d.dstr r.run) + r.pos) % 2 ^ 64
      let src := ((d.runAddr d.src d.sstr r.run) + r.pos) % 2 ^ 64
      let n := min (d.len0 - r.pos) (min (4096 - src % 4096) (4096 - dst % 4096))
      (∀ y ∈ x.xfers, y.id ≠ x.nextId) → d.zero = true → d.group = 0 → s.mayIssue q.val r d = true → s.target dst n = .tile l o → s.tileAway c (.tile l o) = false →
      s.hasTurn q.val = true →
      Ends (.transferIssue q) s fun t =>
        (t.queue q.val).xfers = x.xfers ++ [⟨x.nextId, r.started, dst, List.replicate n 0, [], d.dhint, none, false, [], Code.DONE, c,
          s.epoch c, none, false⟩] ∧ (t.queue q.val).nextId = x.nextId + 1 ∧
        (r.pos + n < d.len0 → (t.queue q.val).run = some { r with pos := r.pos + n, ended := false }) ∧ KeepsAllBut own s t) ∧
    (s.canIssue q.val = true → (∀ k, k / 64 = q.val / 64 → s.canIssue k = true → k = q.val) → s.hasTurn q.val = true) ∧
    (s.canIssue q.val = false ∨ s.hasTurn q.val = false → NoEffect (.transferIssue q) s) ∧
    (∀ (t0 : Transfer) r l o, x.xfers = [t0] → x.run = some r → r.ended = false → r.code ≤ 10 → t0.waits = [] → t0.readWait = none → t0.holding = false → t0.written = false →
      t0.code = Code.DONE → t0.poison = [] → t0.mcast = none → t0.ctx = c → t0.epoch = s.epoch c →
      s.target t0.dst t0.data.length = .tile l o → Ends (.transferComplete q t0.id) s fun t =>
        (∀ k, k < t0.data.length → t.byte (tileAddr l (o + k)) = t0.data.getD k 0) ∧
        (∀ a, (a < tileAddr l o ∨ tileAddr l (o + t0.data.length) ≤ a) → t.byte a = s.byte a) ∧
        (t.queue q.val).xfers = [] ∧ (t.queue q.val).run = some r ∧ t.acc = s.acc ∧
        OnlyRegs (fun a => own a ∨ a = Reg.STR_Q_BYTES q.val ∨ IsLedger a) s t)

/-- Queue maps, standby groups, ring control and messages (R251, R252, R253, R254, R255, R258, R262, R267). For every sound state:
STR_MAP_WRITE of an idle queue takes every field; of a queue with a posted list it is ignored with BAD_WRITE where it would
change anything but LIMIT and WEIGHT. GROUP_STALL_START of a stalled group and GROUP_STALL_END of one that is not let the engine
observe it. RING_CTRL_WRITE of a disabled ring that stays disabled takes its fields where the ring fits tile memory; setting
ENABLE with the other fields kept zeroes both pointers; a change of BASE with ENABLE is ignored with BAD_WRITE. A message on
this device that is the next of its tile for its ring and passes every check is written at WP with its header, WP advances, it
counts, and its post is over; one that fails is counted as a drop with its reason, which its post learns, and memory is as
before; one that is not the next is no event. A message from a port does the same and is answered with a COMPLETION. Concludes
that exec answers a next state for STR_MAP_WRITE, GROUP_STALL_START, GROUP_STALL_END, RING_CTRL_WRITE, MESSAGE. -/
def Obligations.QueueMapsAndRings : Prop :=
  ∀ (s : State) (v : Word), s.Sound →
    (∀ q : Fin 1024,
      let m := Reg.STR_Q_MAP q.val
      ((s.queue q.val).lists = [] → (s.queue q.val).xfers = [] → Ends (.strMapWrite q v) s fun t =>
        (∀ f ∈ [F.STR_Q_MAP_VALID, F.STR_Q_MAP_STANDBY, F.STR_Q_MAP_GROUP, F.STR_Q_MAP_LIMIT, F.STR_Q_MAP_WEIGHT, F.STR_Q_MAP_CTXQ,
          F.STR_Q_MAP_CONTEXT], t.fld m f = v.get f) ∧ KeepsAllBut (fun a => a = m ∨ a = Reg.STR_Q_STATUS q.val) s t) ∧
      ((s.queue q.val).lists ≠ [] → v.get F.STR_Q_MAP_CONTEXT ≠ s.fld m F.STR_Q_MAP_CONTEXT →
        Ignores (.strMapWrite q v) s Reg.STR_STATUS F.STR_STATUS_BAD_WRITE)) ∧
    (∀ g : Fin 64,
      let issuing (r : Nat) : Prop := ∃ q, q < 1024 ∧ r = Reg.STR_Q_STATUS q
      (s.groupStalled g.val = true → Ends (.groupStallStart g) s fun t => g.val ∈ t.stalled ∧
        (∀ q, q < 1024 → s.on (Reg.STR_Q_MAP q) F.STR_Q_MAP_STANDBY = true → s.fld (Reg.STR_Q_MAP q) F.STR_Q_MAP_GROUP = g.val →
          t.on (Reg.STR_Q_STATUS q) F.STR_Q_STATUS_ISSUING = true) ∧ KeepsAllBut issuing s t) ∧
      (s.groupStalled g.val = false → Ends (.groupStallEnd g) s fun t => g.val ∉ t.stalled ∧ KeepsAllBut issuing s t)) ∧
    (∀ (l : Fin 144) (r : Fin 32),
      let ctl := Reg.CHN_CTRL l.val r.val
      let ptr := Reg.CHN_PTR l.val r.val
      let fields := [F.CHN_CTRL_BASE, F.CHN_CTRL_SIZE, F.CHN_CTRL_CONTEXT, F.CHN_CTRL_EPOCH]
      v.get F.CHN_CTRL_SIZE ≤ 10 → v.get F.CHN_CTRL_BASE * 128 + 2 ^ v.get F.CHN_CTRL_SIZE * 128 ≤ 0x400000 →
      s.on ctl F.CHN_CTRL_ENABLE = false →
        (v.get F.CHN_CTRL_ENABLE = 0 → Ends (.ringCtrlWrite l r v) s fun t => (∀ f ∈ fields, t.fld ctl f = v.get f) ∧
          KeepsAllBut (fun a => a = ctl) s t) ∧
        (v.get F.CHN_CTRL_ENABLE = 1 → (∀ f ∈ fields, v.get f = s.fld ctl f) → Ends (.ringCtrlWrite l r v) s fun t =>
          t.on ctl F.CHN_CTRL_ENABLE = true ∧ t.fld ptr F.CHN_PTR_WP = 0 ∧ t.fld ptr F.CHN_PTR_RP = 0 ∧
          KeepsAllBut (fun a => a = ctl ∨ a = ptr ∨ a = Reg.CHN_WM l.val r.val ∨ a = Reg.HIF_STATUS) s t) ∧
        (v.get F.CHN_CTRL_ENABLE = 1 → v.get F.CHN_CTRL_BASE ≠ s.fld ctl F.CHN_CTRL_BASE →
          Ignores (.ringCtrlWrite l r v) s Reg.CHN_STATUS F.CHN_STATUS_BAD_WRITE)) ∧
    ∀ (pk : Packet) (stale : Bool), pk.payload.length = 64 →
      let m := readMsg false stale pk
      let src := s.phys m.srcTile.toNat
      let told (n : Nat) : Prop := n = Reg.TILE_STATUS src ∨ ∃ i, i < 8 ∧ n = Reg.TILE_NACK_LOG src i
      let done (t : State) (code nack : Nat) : Prop := t.locals = s.locals.erase pk ∧
        ∀ x, (s.tile src).posts = [x] → x.tag = m.reqTag.toNat → x.result = none →
          (t.tile src).posts = if x.waits = true ∧ x.orphan = false then [{ x with result := some (code, nack) }] else []
      let l := m.tile.val
      let ptr := Reg.CHN_PTR l m.ring.val
      let at' := s.ringEntry l m.ring.val (s.fld ptr F.CHN_PTR_WP)
      (s.localNext pk = false → NoEffect (.message none pk stale) s) ∧
      (s.localNext pk = true → s.msgCheck m = none → s.fld (Reg.CHN_ACCEPTS l m.ring.val) ⟨47, 0⟩ < 0xFFFFFFFFFFFF → Ends (.message none pk stale) s fun t =>
        done t Code.DONE 0 ∧ t.fld ptr F.CHN_PTR_WP = (s.fld ptr F.CHN_PTR_WP + 1) % 65536 ∧
        (∀ k, k < 64 → t.byte (tileAddr l (at' + k)) = m.payload.getD k 0) ∧
        ofBytes (t.tmBytes l (at' + 64) 8) = m.srcDev.toNat * 2 ^ 51 + m.srcTile.toNat * 2 ^ 43 + m.epoch.toNat * 2 ^ 35 + m.ctx.toNat * 2 ^ 23 + m.tag.toNat ∧
        (∀ a, (a < tileAddr l at' ∨ tileAddr l (at' + 128) ≤ a) → t.byte a = s.byte a) ∧
        t.fld (Reg.CHN_ACCEPTS l m.ring.val) ⟨47, 0⟩ = s.fld (Reg.CHN_ACCEPTS l m.ring.val) ⟨47, 0⟩ + 1 ∧ t.acc = s.acc ∧
        OnlyRegs (fun a => a = ptr ∨ a = Reg.CHN_WM l m.ring.val ∨ a = Reg.HIF_STATUS ∨ a = Reg.CHN_ACCEPTS l m.ring.val) s t) ∧
      (∀ n, s.localNext pk = true → s.msgCheck m = some n → s.fld (Reg.CHN_DROPS l m.ring.val) ⟨47, 0⟩ < 0xFFFFFFFFFFFF → Ends (.message none pk stale) s fun t =>
        done t Code.REFUSED n.code ∧ t.fld ptr F.CHN_PTR_LAST_REASON = n.code ∧
        t.fld (Reg.CHN_DROPS l m.ring.val) ⟨47, 0⟩ = s.fld (Reg.CHN_DROPS l m.ring.val) ⟨47, 0⟩ + 1 ∧
        KeepsAllBut (fun a => a = ptr ∨ a = Reg.CHN_DROPS l m.ring.val ∨ told a) s t) ∧
      (∀ (p : Fin 32) (o : Nat), s.Arrives p.val pk → pk.dest.toNat = s.deviceId → messageOk pk = true →
        let a := s.arrived p.val pk
        let m := readMsg true stale pk
        let answer (code n : Nat) : Packet := { s.answer pk code 0 with nack := BitVec.ofNat 4 n }
        (a.msgCheck m = none → a.Routes (answer Code.DONE 0) o → a.Below (Reg.CHN_ACCEPTS l m.ring.val) 1 → Ends (.message (some p) pk stale) s fun t =>
          SentOn a t (answer Code.DONE 0) o ∧ t.fld ptr F.CHN_PTR_WP = (s.fld ptr F.CHN_PTR_WP + 1) % 65536 ∧
          ∀ k, k < 64 → t.byte (tileAddr l (at' + k)) = pk.payload.getD k 0) ∧
        (∀ n, a.msgCheck m = some n → a.Routes (answer Code.REFUSED n.code) o → a.Below (Reg.CHN_DROPS l m.ring.val) 1 →
          Ends (.message (some p) pk stale) s fun t => SentOn a t (answer Code.REFUSED n.code) o ∧ t.fld ptr F.CHN_PTR_LAST_REASON = n.code ∧
            KeepsAllBut (fun r => r = ptr ∨ r = Reg.CHN_DROPS l m.ring.val ∨ r = Reg.FAB_P_TX_PKTS o) a t))

/-- Packets that arrive are checked, acknowledged, served and answered; transit, LINK_QUERY and group packets (R265, R268, R269,
R270, R271, R276, R277, R278, R282, R556). For every sound state and packet: the header layout is read back from the bytes it
writes. A packet whose CRC fails for this device's identity is counted, answered with NAK and otherwise ignored; one that the
link accepts is counted, acknowledged and its credit returned. Of accepted well-formed packets whose answer is routed and leaves
at once: a WRITE or READ_REQ of an absent context, of another epoch, or at a stale device does nothing but answer with REFUSED,
EPOCH_STALE or MODE_STALE, and one to an unassigned address answers REFUSED; a WRITE to tile memory stores exactly its bytes, or
waits unanswered while that tile is being swapped, and one within a line of HBM in the partition's windows exactly its bytes,
and answers DONE; a READ_REQ of tile memory, or of HBM with the STREAM hint, sends the bytes and changes no memory. A LINK_QUERY
closes the named port and answers with the last SEQ that it accepted in either link sequence. A TRANSIT packet is forwarded one
hop further. A group packet is accepted only on UP_PORT, goes to the DOWN port, or is written locally and reported. Concludes
that exec answers a next state for WRITE, READ_REQ, LINK_QUERY, TRANSIT, MCAST_WRITE. -/
def Obligations.FabricRequests : Prop :=
  (∀ pk : Packet, readPacket (packetBytes pk) = pk) ∧
  ∀ (s : State) (pk : Packet) (q : Fin 32), s.Sound →
    let wire (t : State) : Prop := t.opens = s.opens ∧ t.mcasts = s.mcasts ∧ KeepsAllBut (fun r => r = Reg.FAB_P_CRC_ERRORS q.val) s t
    (s.fatal = false → s.usable q.val = true → (s.port q.val).closed = false → pk.crc ≠ packetCrc s.deviceId q.val pk →
      s.Below (Reg.FAB_P_CRC_ERRORS q.val) 1 → ∀ stale : Bool,
      ∀ i ∈ [Instr.write q pk, .readReq q pk, .readResp q pk, .completion q pk, .linkQuery q pk, .transit q pk, .mcastWrite q pk,
        .mcastAck q pk, .message (some q) pk stale, .stageHead q pk, .stageData q pk, .expUp q pk, .expDown q pk, .sum q pk],
        Ends i s fun t => Counts s t (Reg.FAB_P_CRC_ERRORS q.val) 1 ∧
          t.out = s.out ++ [.frame q.val (.nak (onCtl pk) ((((s.port q.val).lane (onCtl pk)).rx + 1) % 65536))] ∧ wire t) ∧
    (s.Arrives q.val pk →
      let a := s.arrived q.val pk
      a.out = s.out ++ arrivalFrames q.val pk ∧ Counts s a (Reg.FAB_P_RX_PKTS q.val) 1 ∧
      ((a.port q.val).lane (onCtl pk)).rx = pk.seq.toNat ∧ KeepsAllBut (fun r => r = Reg.FAB_P_RX_PKTS q.val) s a ∧
      ∀ p : Nat, p < 32 → packetOk pk = true →
      let n := pk.payload.length
      let c := pk.ctx.toNat
      let fails := s.destCheck c pk.epoch.toNat
      let tx (r : Nat) : Prop := r = Reg.FAB_P_TX_PKTS p
      let answered (t : State) (code addr : Nat) : Prop := SentOn a t (s.answer pk code addr) p
      (pk.dest.toNat = s.deviceId → a.Routes (s.answer pk 0 0) p →
        let tgt := localTarget pk.addr.toNat n
        (pk.op.toNat = Op.WRITE →
          (∀ code, fails = some code → Ends (.write q pk) s fun t => answered t code 0 ∧ KeepsAllBut tx a t) ∧
          (fails = none → tgt = .bad → Ends (.write q pk) s fun t => answered t Code.REFUSED 0 ∧ KeepsAllBut tx a t) ∧
          (∀ l o, fails = none → tgt = .tile l o → s.swapping l = true → Ends (.write q pk) s fun t => t.out = a.out ∧ ∀ b, t.byte b = s.byte b) ∧
          (∀ l o, fails = none → tgt = .tile l o → s.swapping l = false → Ends (.write q pk) s fun t => answered t Code.DONE 0 ∧
            Stored a t (tileAddr l o) pk.payload ∧ (pk.poison = true → t.tmPoison l o n = true) ∧ t.path = a.path ∧ t.acc = a.acc ∧
            OnlyRegs tx a t) ∧
          (∀ ad, fails = none → tgt = .hbm ad → (s.windows (s.ctxPart c) ad n true).length = 1 → a.Takes64 ad n pk.hint.toNat →
            pk.poison = false → Ends (.write q pk) s fun t => answered t Code.DONE 0 ∧ WroteHbm a t ad pk.payload ∧ t.acc = a.acc ∧
              OnlyRegs (fun r => tx r ∨ IsHitMiss r ∨ r = Reg.BC_STATUS) a t)) ∧
        (pk.op.toNat = Op.READ_REQ →
          let m := pk.len.toNat + 1
          let from' := localTarget pk.addr.toNat m
          let resp (bytes : List Byte) (bad : Bool) : Packet :=
            { mkPacket s pk.src.toNat c pk.epoch.toNat Cls.DATA Op.READ_RESP pk.tag.toNat 0 (m - 1) bytes with poison := bad }
          (∀ code, fails = some code → Ends (.readReq q pk) s fun t => answered t code 0 ∧ KeepsAllBut tx a t) ∧
          (fails = none → from' = .bad → Ends (.readReq q pk) s fun t => answered t Code.REFUSED 0 ∧ KeepsAllBut tx a t) ∧
          (∀ l o, fails = none → from' = .tile l o → a.Routes (resp (s.tmBytes l o m) (s.tmPoison l o m)) p →
            Ends (.readReq q pk) s fun t => SentOn a t (resp (s.tmBytes l o m) (s.tmPoison l o m)) p ∧ KeepsAllBut tx a t) ∧
          (∀ ad, fails = none → from' = .hbm ad → (s.windows (s.ctxPart c) ad m false).length = 1 → a.Quiet ad m → pk.hint = 1 →
            a.Routes (resp (s.hbmBytes ad m) false) p → Ends (.readReq q pk) s fun t =>
              SentOn a t (resp (s.hbmBytes ad m) false) p ∧ KeepsAllBut (fun r => tx r ∨ IsHitMiss r) a t)) ∧
        (pk.op.toNat = Op.LINK_QUERY →
          let y := a.port (pk.addr.toNat % 32)
          let last := y.data.rx + 65536 * y.ctl.rx
          a.Routes (s.answer pk 0 last) p → Ends (.linkQuery q pk) s fun t =>
            answered t Code.DONE last ∧ (t.port (pk.addr.toNat % 32)).closed = true ∧ KeepsAllBut tx a t)) ∧
      (let g := pk.group.toNat
       let mc := Reg.FAB_MC g
       let onward := a.sealed p { pk with hops := pk.hops + 1 }
       (pk.dest.toNat ≠ s.deviceId → a.Routes pk p → s.Below Reg.FAB_TRANSIT 1 → Ends (.transit q pk) s fun t =>
          t.out = a.out ++ [.packet p onward] ∧ Counts s t Reg.FAB_TRANSIT 1 ∧
          KeepsAllBut (fun r => tx r ∨ r = Reg.FAB_TRANSIT) a t) ∧
       (pk.op.toNat = Op.MCAST_WRITE →
          (s.on mc F.FAB_MC_VALID = false ∨ s.on mc F.FAB_MC_ROOT = true ∨ s.fld mc F.FAB_MC_UP_PORT ≠ q.val →
            Ends (.mcastWrite q pk) s fun t => t.on Reg.FAB_STATUS F.FAB_STATUS_MCAST_PORT = true ∧ t.mcasts = s.mcasts ∧
              t.out = a.out ∧ KeepsAllBut (fun r => r = Reg.FAB_STATUS) a t) ∧
          (s.on mc F.FAB_MC_VALID = true → s.on mc F.FAB_MC_ROOT = false → s.fld mc F.FAB_MC_UP_PORT = q.val →
            (portsOf (s.fld mc F.FAB_MC_DOWN) = [p] → s.usable p = true → s.on mc F.FAB_MC_LOCAL = false → a.Free pk p →
              pk.hops.toNat + 1 ≤ s.fld Reg.FAB_CTRL F.FAB_CTRL_HOP_LIMIT → Ends (.mcastWrite q pk) s fun t =>
                t.out = a.out ++ [.packet p onward] ∧
                t.mcasts = s.mcasts ++ [⟨g, pk.tag.toNat, pk.src.toNat, c, pk.epoch.toNat, [p], Code.DONE, false, none⟩] ∧
                KeepsAllBut tx a t) ∧
            (∀ l o, portsOf (s.fld mc F.FAB_MC_DOWN) = [] → s.on mc F.FAB_MC_LOCAL = true → fails = none →
              pk.hops.toNat + 1 ≤ s.fld Reg.FAB_CTRL F.FAB_CTRL_HOP_LIMIT → pk.poison = false →
              localTarget pk.addr.toNat n = .tile l o → s.swapping l = false → Ends (.mcastWrite q pk) s fun t => Stored s t (tileAddr l o) pk.payload ∧
                t.mcasts = s.mcasts ∧ a.out <+: t.out ∧ t.path = s.path ∧ t.acc = s.acc)))))

/-- Answers to open requests, late answers, and group reports (R266, R269, R270, R271, R282). For every sound state and accepted,
well-formed packet: a READ_RESP or COMPLETION for this device whose tag is open closes that request and gives the unit that made
it (here the stream engine reading a block list on another device) the data, the poison and the code that the packet carries; a
COMPLETION of another class than its request ends it with REFUSED; E2E_TIMEOUT ends it with TIMEOUT and counts; an answer whose
tag is not open changes nothing but FAB_LATE. A group report that is not the last is removed from those awaited, keeping the
worse code; without a group packet it counts as late. Concludes that exec answers a next state for READ_RESP, COMPLETION,
E2E_TIMEOUT, MCAST_ACK. -/
def Obligations.FabricAnswers : Prop :=
  ∀ (s : State) (pk : Packet) (q : Nat) (p : Fin 32), s.Sound →
    let tag := pk.tag.toNat
    let a := s.arrived p.val pk
    let late (t : State) : Prop := Counts s t Reg.FAB_LATE 1 ∧ t.opens = s.opens ∧ KeepsAllBut (fun r => r = Reg.FAB_LATE) a t
    let own (r : Nat) : Prop := r = Reg.STR_Q_STATUS q ∨ r = Reg.STR_Q_WM q
    let ends (x : ListRun) (tag : Nat) (data : List Byte) (bad : Bool) (code : Nat) (t : State) : Prop :=
      t.opens = s.opens.filter (·.tag ≠ tag) ∧
      t.queue q = { s.queue q with run := some { x with fetched := some (data, bad, code), fetching := none } }
    (s.Arrives p.val pk → packetOk pk = true → pk.dest.toNat = s.deviceId → pk.op.toNat = Op.READ_RESP →
      (∀ r x, s.openOf tag = some r → r.purpose = .blockList q → (s.queue q).run = some x → pk.code.toNat ≠ Code.REFUSED →
        Ends (.readResp p pk) s fun t => ends x tag pk.payload pk.poison pk.code.toNat t ∧ KeepsAllBut own a t) ∧
      (s.openOf tag = none → s.Below Reg.FAB_LATE 1 → Ends (.readResp p pk) s late)) ∧
    (s.Arrives p.val pk → packetOk pk = true → pk.dest.toNat = s.deviceId → pk.op.toNat = Op.COMPLETION →
      (∀ r x, s.openOf tag = some r → r.purpose = .blockList q → (s.queue q).run = some x →
        (pk.cls.toNat = Cls.DATA → pk.code.toNat ≠ Code.REFUSED → Ends (.completion p pk) s fun t =>
          ends x tag [] false pk.code.toNat t ∧ KeepsAllBut own a t) ∧
        (pk.cls.toNat ≠ Cls.DATA → localTarget r.addr r.bytes ≠ .bad → Ends (.completion p pk) s fun t =>
          ends x tag [] false Code.REFUSED t ∧ Posts s t)) ∧
      (s.openOf tag = none → s.Below Reg.FAB_LATE 1 → Ends (.completion p pk) s late)) ∧
    (∀ tg : BitVec 16,
      (∀ r x, s.openOf tg.toNat = some r → r.purpose = .blockList q → (s.queue q).run = some x → s.Below Reg.FAB_E2E_TIMEOUTS 1 →
        Ends (.e2eTimeout tg) s fun t => ends x tg.toNat [] false Code.TIMEOUT t ∧ Counts s t Reg.FAB_E2E_TIMEOUTS 1 ∧
          KeepsAllBut (fun r => own r ∨ r = Reg.FAB_E2E_TIMEOUTS) s t) ∧
      (s.openOf tg.toNat = none → NoEffect (.e2eTimeout tg) s)) ∧
    (s.Arrives p.val pk → packetOk pk = true → pk.op.toNat = Op.MCAST_ACK →
      (∀ m : McastState, s.mcasts = [m] → m.group = pk.group.toNat → m.tag = tag → p.val ∈ m.waits → m.ctx = pk.ctx.toNat →
        m.src = pk.dest.toNat → m.waits.erase p.val ≠ [] → Ends (.mcastAck p pk) s fun t =>
          t.mcasts = [{ m with waits := m.waits.erase p.val, code := Code.worse m.code pk.code.toNat }] ∧ KeepsAllBut (fun _ => False) a t) ∧
      (s.mcasts = [] → s.Below Reg.FAB_LATE 1 → Ends (.mcastAck p pk) s fun t => Counts s t Reg.FAB_LATE 1 ∧
        KeepsAllBut (fun r => r = Reg.FAB_LATE) a t))

/-- Ports: acknowledgement and retry, credits, training, locks, and leaving service (R264, R277, R278, R279, R280, R288, R556). For
every sound state and port: LINK_ACK drops what was sent up to its SEQ from the replay buffer of its link sequence; a NAK before
the sixteenth in a row resends from the named item; either with a failed CRC is only counted; CLASS_CREDIT, in a frame that the
link takes, adds a credit, or sends the packet that waits for one; REORDER_RELEASE sends what is held. An enabled DOWN port
trains again and a failed attempt is DOWN; PORT_TRAINED makes a TRAINING port UP with every ring locked with its margin and the
peer's identity; enabling a port starts training. The first data ring that unlocks on an UP port leaves it DEGRADED and posts;
the control ring, and the disabling of a port, take it out of service: with nothing unacknowledged it only posts, and else it
asks its peer with a LINK_QUERY and keeps the packets in doubt. A ring that locks again with the other eight returns a DEGRADED
port to UP. Concludes that exec answers a next state for LINK_ACK, NAK, CLASS_CREDIT, REORDER_RELEASE, PORT_RETRAIN,
PORT_TRAINED, PORT_ENABLE_WRITE, RING_UNLOCK, RING_RELOCK. -/
def Obligations.FabricPorts : Prop :=
  ∀ (s : State) (p : Fin 32) (v : Word), s.Sound → s.fatal = false →
    let x := s.port p.val
    let item (e : Nat × (Packet ⊕ Frame)) : Output := match e.2 with | .inl pk => .packet p.val pk | .inr f => .frame p.val f
    let r := Reg.FAB_P_STATUS p.val
    let tx (a : Nat) : Prop := a = Reg.FAB_P_TX_PKTS p.val
    let st := s.portSt p.val
    (∀ (ctl : Bool) (seq : BitVec 16),
      let l := x.lane ctl
      (s.Below (Reg.FAB_P_CRC_ERRORS p.val) 1 → ∀ i ∈ [Instr.linkAck p false ctl seq, .nak p false ctl seq], Ends i s fun t =>
        Counts s t (Reg.FAB_P_CRC_ERRORS p.val) 1 ∧ t.ports = s.ports ∧ KeepsAllBut (fun a => a = Reg.FAB_P_CRC_ERRORS p.val) s t) ∧
      ∀ i, l.replay.findIdx? (·.1 = seq.toNat) = some i →
      (x.queued = [] → Ends (.linkAck p true ctl seq) s fun t =>
        (t.port p.val).lane ctl = { l with replay := l.replay.drop (i + 1), attempts := 0 } ∧
        (t.port p.val).lane (!ctl) = x.lane (!ctl) ∧ KeepsAllBut (fun _ => False) s t) ∧
      (l.nakSeq ≠ seq.toNat ∨ l.attempts < 15 → s.Below (Reg.FAB_P_RETRIES p.val) (l.replay.drop i).length →
        Ends (.nak p true ctl seq) s fun t =>
          t.out = s.out ++ (l.replay.drop i).map item ∧ ((t.port p.val).lane ctl).replay = l.replay ∧
          Counts s t (Reg.FAB_P_RETRIES p.val) (l.replay.drop i).length ∧ KeepsAllBut (fun a => a = Reg.FAB_P_RETRIES p.val) s t)) ∧
    (∀ (h : Hop) (cls : BitVec 2), s.Heard h → h.port = p →
      (x.queued = [] → Ends (.classCredit h cls) s fun t =>
        t.port p.val = { x with credits := x.credits.set cls.toNat (x.credits.getD cls.toNat 0 + 1)
                                ctl := { x.ctl with rx := h.seq.toNat, asked := false } } ∧
        t.out = s.out ++ [hopAck h] ∧ KeepsAllBut (fun _ => False) s t) ∧
      ∀ q, x.queued = [q] → q.cls = cls → x.delayed = [] → (x.lane (onCtl q)).replay.length < 1024 → s.Below (Reg.FAB_P_TX_PKTS p.val) 1 →
        cls.toNat < x.credits.length →
        (∀ k, k < 32 → injects s k p.val cls.toNat (some q.ctx.toNat) (some q.dest.toNat) = false) → Ends (.classCredit h cls) s fun t =>
          t.out = s.out ++ [hopAck h, .packet p.val (s.sealed p.val q)] ∧ (t.port p.val).queued = [] ∧
          (t.port p.val).credits = x.credits ∧ KeepsAllBut tx s t) ∧
    (∀ q k n, x.delayed = [(k, n, .inl q)] → s.Below (Reg.FAB_P_TX_PKTS p.val) 1 → Ends (.reorderRelease p) s fun t =>
      t.out = s.out ++ [.packet p.val (s.sealed p.val q)] ∧ (t.port p.val).delayed = [] ∧ KeepsAllBut tx s t) ∧
    (s.on (Reg.FAB_P_CTRL p.val) F.FAB_P_CTRL_ENABLE = true → st = PortSt.DOWN ∨ st = PortSt.TRAINING → Ends (.portRetrain p) s fun t =>
      t.portSt p.val = (if st = PortSt.DOWN then PortSt.TRAINING else PortSt.DOWN) ∧ KeepsAllBut (fun a => a = r) s t) ∧
    (s.on (Reg.FAB_P_CTRL p.val) F.FAB_P_CTRL_ENABLE = false → NoEffect (.portRetrain p) s) ∧
    (∀ (peer : BitVec 13) (pp : Fin 32) (margins : List (BitVec 8)), st = PortSt.TRAINING → Ends (.portTrained p peer pp margins) s fun t =>
      t.portSt p.val = PortSt.UP ∧ t.fld r F.FAB_P_STATUS_PEER_DEVICE = peer.toNat ∧ t.fld r F.FAB_P_STATUS_PEER_PORT = pp.val ∧
      t.fld r F.FAB_P_STATUS_LANES = 0xFF ∧ (∀ w, w < 9 → t.on (Reg.FAB_P_RING p.val w) F.FAB_P_RING_LOCKED = true ∧
        t.fld (Reg.FAB_P_RING p.val w) F.FAB_P_RING_MARGIN = max 1 (margins.getD w 1).toNat) ∧
      (∀ ctl, ((t.port p.val).lane ctl).next = 0 ∧ ((t.port p.val).lane ctl).replay = []) ∧ (t.port p.val).closed = false ∧
      KeepsAllBut (fun a => a = r ∨ ∃ w, w < 9 ∧ a = Reg.FAB_P_RING p.val w) s t) ∧
    (s.on (Reg.FAB_P_CTRL p.val) F.FAB_P_CTRL_ENABLE = false → v.get F.FAB_P_CTRL_ENABLE = 1 → Ends (.portEnableWrite p v) s fun t =>
      t.portSt p.val = PortSt.TRAINING ∧ t.on (Reg.FAB_P_CTRL p.val) F.FAB_P_CTRL_ENABLE = true ∧
      (∀ f ∈ [F.FAB_P_CTRL_W_DATA, F.FAB_P_CTRL_W_STAGE, F.FAB_P_CTRL_W_REDUCE], t.fld (Reg.FAB_P_CTRL p.val) f = v.get f) ∧
      KeepsAllBut (fun a => a = r ∨ a = Reg.FAB_P_CTRL p.val) s t) ∧
    (∀ (w : Fin 9) (m : BitVec 8),
      let ring := Reg.FAB_P_RING p.val w.val
      (s.on ring F.FAB_P_RING_LOCKED = false → NoEffect (.ringUnlock p w) s) ∧
      (s.on ring F.FAB_P_RING_LOCKED = true → st = PortSt.UP → w.val ≠ 8 → Ends (.ringUnlock p w) s fun t =>
        t.portSt p.val = PortSt.DEGRADED ∧ t.on ring F.FAB_P_RING_LOCKED = false ∧ t.on r F.FAB_P_STATUS_LOCK_LOST = true ∧ Posts s t ∧
        t.port p.val = x ∧ KeepsAllBut (fun a => a = r ∨ a = ring ∨ IsLedger a) s t) ∧
      (st = PortSt.DEGRADED → (∀ i, i < 9 → i ≠ w.val → s.on (Reg.FAB_P_RING p.val i) F.FAB_P_RING_LOCKED = true) →
        Ends (.ringRelock p w m) s fun t => t.portSt p.val = PortSt.UP ∧ t.on ring F.FAB_P_RING_LOCKED = true ∧
          t.fld ring F.FAB_P_RING_MARGIN = max 1 m.toNat ∧
          t.fld r F.FAB_P_STATUS_LANES = 0xFF ∧ KeepsAllBut (fun a => a = r ∨ a = ring) s t)) ∧
    (s.usable p.val = true → x.queued = [] → x.delayed = [] → x.settling = none → x.behind = [] → s.mcasts = [] →
      let packets := (x.data.replay ++ x.ctl.replay).filterMap fun e => match e.2 with | .inl pk => some pk | .inr _ => none
      let quiet (nst : Nat) (W : Nat → Prop) (t : State) : Prop := t.portSt p.val = nst ∧ t.fld r F.FAB_P_STATUS_LANES = 0 ∧
        t.opens = s.opens ∧ Posts s t ∧ KeepsAllBut (fun a => a = r ∨ W a ∨ IsLedger a) s t
      let dev := s.fld r F.FAB_P_STATUS_PEER_DEVICE
      let query := mkPacket s dev 0 0 Cls.CONTROL Op.LINK_QUERY s.nextTag (s.fld r F.FAB_P_STATUS_PEER_PORT) 0 []
      let asks (nst o : Nat) (W : Nat → Prop) (t : State) : Prop := t.portSt p.val = nst ∧ Posts s t ∧
        s.out ++ [.packet o (s.sealed o { query with hops := 1 })] <+: t.out ∧
        (t.port p.val).doubtful = packets ∧ (∀ ctl, ((t.port p.val).lane ctl).replay = []) ∧ (t.port p.val).settling = some s.nextTag ∧
        t.opens = s.opens ++ [⟨s.nextTag, dev, 4096, 0, 0, 0, .query p.val⟩] ∧
        KeepsAllBut (fun a => a = r ∨ W a ∨ a = Reg.FAB_P_TX_PKTS o ∨ IsLedger a) s t
      (s.on (Reg.FAB_P_RING p.val 8) F.FAB_P_RING_LOCKED = true →
        let W (a : Nat) : Prop := a = Reg.FAB_P_RING p.val 8
        (packets = [] → Ends (.ringUnlock p 8) s (quiet PortSt.DOWN W)) ∧
        ∀ o, packets ≠ [] → o ≠ p.val → (setPortSt p.val PortSt.DOWN s).Routes query o → Ends (.ringUnlock p 8) s (asks PortSt.DOWN o W)) ∧
      (s.on (Reg.FAB_P_CTRL p.val) F.FAB_P_CTRL_ENABLE = true → v.get F.FAB_P_CTRL_ENABLE = 0 →
        let W (a : Nat) : Prop := a = Reg.FAB_P_CTRL p.val
        (packets = [] → Ends (.portEnableWrite p v) s (quiet PortSt.DISABLED W)) ∧
        ∀ o, packets ≠ [] → o ≠ p.val → (setPortSt p.val PortSt.DISABLED s).Routes query o →
          Ends (.portEnableWrite p v) s (asks PortSt.DISABLED o W)))

/-- Rank maps, their selection, and the action of an injection rule (R283, R284, R285, R286, R288, R557). For every sound state and
domain: RMAP_SLOT_WRITE of a slot that may change takes BASE and COUNT and starts its load, and of one in use outside IDLE and
PAUSE is ignored with BAD_WRITE; RMAP_LOAD_DONE of a load whose table memory gives makes COUNT and every entry those of memory
at once, and without a load does nothing; RMAP_CTRL_WRITE in IDLE or PAUSE takes PHASED, CURRENT and PHASE_SLOT, and outside
them keeps PHASED and CURRENT, with BAD_WRITE where it would change them. INJ_ACTION_WRITE of an ACTION below 3 with a fitting
DEPTH takes every field and zeroes TAKEN; ACTION 3 is kept with BAD_WRITE. Concludes that exec answers a next state for
RMAP_SLOT_WRITE, RMAP_LOAD_DONE, RMAP_CTRL_WRITE, INJ_ACTION_WRITE. -/
def Obligations.RankMapsAndInjection : Prop :=
  ∀ (s : State) (v : Word), s.Sound →
    (∀ (d : Fin 16) (sl : Fin 2),
      let r := Reg.FAB_RMAP_SLOT d.val sl.val
      let c := Reg.FAB_RMAP_CTRL d.val
      let base := v.get F.FAB_RMAP_SLOT_BASE
      (s.restful d.val = true → base % 64 = 0 → base < hbmEnd → v.get F.FAB_RMAP_SLOT_COUNT ≤ 8192 → Ends (.rmapSlotWrite d sl v) s fun t =>
        t.fld r F.FAB_RMAP_SLOT_BASE = base ∧ t.fld r F.FAB_RMAP_SLOT_COUNT = v.get F.FAB_RMAP_SLOT_COUNT ∧
        (t.rmap d.val sl.val).loading = true ∧ t.on c F.FAB_RMAP_CTRL_LOADING = true ∧
        KeepsAllBut (fun a => a = r ∨ a = c) s t) ∧
      (s.restful d.val = false → s.rankSlot d.val = sl.val → Ignores (.rmapSlotWrite d sl v) s Reg.FAB_STATUS F.FAB_STATUS_BAD_WRITE) ∧
      ((s.rmap d.val sl.val).loading = false → NoEffect (.rmapLoadDone d sl) s) ∧
      (let n := s.fld r F.FAB_RMAP_SLOT_COUNT
       let a := s.fld r F.FAB_RMAP_SLOT_BASE
       (s.rmap d.val sl.val).loading = true → s.Steady [(a, 2 * n)] → Ends (.rmapLoadDone d sl) s fun t =>
        (t.rmap d.val sl.val).count = n ∧ (t.rmap d.val sl.val).loading = false ∧
        (∀ k, k < n → (t.rmap d.val sl.val).entries.getD k 0 = (s.hbmByte (a + 2 * k)).toNat + 256 * (s.hbmByte (a + 2 * k + 1)).toNat) ∧
        (∀ e, e ≠ sl → t.rmap d.val e.val = s.rmap d.val e.val) ∧ KeepsData (fun b => b = c ∨ IsHitMiss b) s t) ∧
      (s.restful d.val = true → Ends (.rmapCtrlWrite d v) s fun t =>
        (∀ f ∈ [F.FAB_RMAP_CTRL_PHASED, F.FAB_RMAP_CTRL_CURRENT, F.FAB_RMAP_CTRL_PHASE_SLOT], t.fld c f = v.get f) ∧
        KeepsAllBut (fun a => a = c) s t) ∧
      (s.restful d.val = false → Ends (.rmapCtrlWrite d v) s fun t =>
        let same := v.get F.FAB_RMAP_CTRL_PHASED = s.fld c F.FAB_RMAP_CTRL_PHASED ∧ v.get F.FAB_RMAP_CTRL_CURRENT = s.fld c F.FAB_RMAP_CTRL_CURRENT
        (∀ f ∈ [F.FAB_RMAP_CTRL_PHASED, F.FAB_RMAP_CTRL_CURRENT], t.fld c f = s.fld c f) ∧
        t.fld c F.FAB_RMAP_CTRL_PHASE_SLOT = v.get F.FAB_RMAP_CTRL_PHASE_SLOT ∧
        (¬ same → t.on Reg.FAB_STATUS F.FAB_STATUS_BAD_WRITE = true) ∧ KeepsAllBut (fun a => a = c ∨ (¬ same ∧ a = Reg.FAB_STATUS)) s t)) ∧
    ∀ k : Fin 32,
      let r := Reg.FAB_INJ_ACTION k.val
      let a := v.get F.FAB_INJ_ACTION_ACTION
      let d := v.get F.FAB_INJ_ACTION_DEPTH
      let limits (t : State) : Prop := t.fld r F.FAB_INJ_ACTION_RATE = v.get F.FAB_INJ_ACTION_RATE ∧
        t.fld r F.FAB_INJ_ACTION_LIMIT = v.get F.FAB_INJ_ACTION_LIMIT ∧ t.fld r F.FAB_INJ_ACTION_TAKEN = 0
      (a < 3 → (a = 2 ↔ d ≠ 0) → Ends (.injActionWrite k v) s fun t => t.fld r F.FAB_INJ_ACTION_ACTION = a ∧
        t.fld r F.FAB_INJ_ACTION_DEPTH = d ∧ limits t ∧ KeepsAllBut (fun b => b = r) s t) ∧
      (a = 3 → Ends (.injActionWrite k v) s fun t => t.fld r F.FAB_INJ_ACTION_ACTION = s.fld r F.FAB_INJ_ACTION_ACTION ∧ limits t ∧
        t.on Reg.FAB_STATUS F.FAB_STATUS_BAD_WRITE = true ∧ KeepsAllBut (fun b => b = r ∨ b = Reg.FAB_STATUS) s t)

/-- Stages and stage ports: control, enabling, entries, the spill ring, credits and grants (R291, R298, R299, R301, R303, R304,
R305, R312, R484). For every sound state: STAGE_CTRL_WRITE of a stage at rest takes every field, and of one with an ACTIVE port
or micro-batches in flight is ignored with BAD_WRITE where it changes more than PIPE_RANK. Enabling a port that fits and whose
rank translates makes it ACTIVE with no entries and no credits, and an inbound one grants its peer its capacity; disabling it
discards its entries. A STAGE_HEAD that its link accepts and that passes its checks makes its entry arrive, and one that the
port cannot take answers REFUSED; the last STAGE_DATA, like STAGE_ENTRY_WRITTEN on one device, stores the entry in the next
landing slot and counts it. SPILL_COPY moves the head of the ring there. With nothing spilled it gives the entries that wait for
room their places. CREDIT adds one, GRANT sets CREDITS and is acknowledged, an unacknowledged GRANT repeats, and its
acknowledgement stops that; each comes on this device or in a frame that its link takes. Concludes that exec answers a next
state for STAGE_CTRL_WRITE, STAGE_PORT_ENABLE, STAGE_PORT_DISABLE, STAGE_HEAD, STAGE_DATA, STAGE_ENTRY_WRITTEN, SPILL_COPY,
CREDIT, GRANT, GRANT_REPEAT, GRANT_ACKNOWLEDGE. -/
def Obligations.StagePorts : Prop :=
  ∀ (s : State) (p : Fin 256) (v : Word) (i : Fin 32) (pk : Packet) (o : Nat), s.Sound → s.fatal = false → o < 32 → s.swap = none →
    let x := s.stagePort p.val
    let ctl := Reg.STG_P_CTRL p.val
    let st := Reg.STG_P_STATUS p.val
    let own (q a : Nat) : Prop := a = Reg.STG_P_STATUS q ∨ a = Reg.STG_P_WM q
    let active := s.stgState p.val = StgSt.ACTIVE
    let lands (t : State) (q : Nat) (d : Word) (data : List Byte) : Prop :=
      let y := s.stagePort q
      Stored s t (tileAddr (s.stgTile q) (s.landOff q (y.landedCount % s.landSlots q))) data ∧
      (t.stagePort q).landed = y.landed ++ [descAtSlot d (y.landedCount % s.landSlots q)] ∧ t.acc = s.acc
    (∀ k : Fin 16,
      let r := Reg.STG_S_CTRL k.val
      let fields := [F.STG_S_CTRL_VALID, F.STG_S_CTRL_GROUP, F.STG_S_CTRL_LAYER_LO, F.STG_S_CTRL_LAYER_HI, F.STG_S_CTRL_CONTEXT]
      ((∀ q, q < 256 → s.stgState q = StgSt.ACTIVE → s.stgStage q ≠ k.val) → s.inflight k.val = 0 → Ends (.stageCtrlWrite k v) s fun t =>
        (∀ f ∈ F.STG_S_CTRL_PIPE_RANK :: fields, t.fld r f = v.get f) ∧ KeepsAllBut (fun a => a = r) s t) ∧
      (s.inflight k.val ≠ 0 → (∃ f ∈ fields, v.get f ≠ s.fld r f) →
        Ignores (.stageCtrlWrite k v) s Reg.STG_STATUS F.STG_STATUS_BAD_WRITE)) ∧
    (let w := genericWrite ctl v s
     let dev := s.rankDevice (s.ctxDomain (w.stgCtx p.val)) (s.fld (Reg.STG_P_PEER p.val) F.STG_P_PEER_PEER_RANK)
     s.on ctl F.STG_P_CTRL_ENABLE = false → v.get F.STG_P_CTRL_ENABLE = 1 → w.stageFits p.val = true → dev = some s.deviceId →
      Ends (.stagePortEnable p v) s fun t => t.stgState p.val = StgSt.ACTIVE ∧ t.on ctl F.STG_P_CTRL_ENABLE = true ∧
        t.stgCredits p.val = 0 ∧ t.stgLevel p.val = 0 ∧ t.stgPeer p.val = s.deviceId ∧
        (v.get F.STG_P_CTRL_DIR = 0 → t.out = s.out ++ [.frame 32 (.grant s.deviceId (s.stgPeerPort p.val) (w.stgCapacity p.val))] ∧
          (t.stagePort p.val).granting = true) ∧
        KeepsAllBut (fun a => own p.val a ∨ a = ctl ∨ a = Reg.STG_STATUS) s t) ∧
    (s.on ctl F.STG_P_CTRL_ENABLE = true → v.get F.STG_P_CTRL_ENABLE = 0 →
      (genericWrite ctl (v.put F.STG_P_CTRL_ENABLE 1) s).reg ctl = s.reg ctl → Ends (.stagePortDisable p v) s fun t =>
        t.stgState p.val = StgSt.DISABLED ∧ t.on ctl F.STG_P_CTRL_ENABLE = false ∧ t.stgLevel p.val = 0 ∧
        KeepsAllBut (fun a => own p.val a ∨ a = ctl) s t) ∧
    (let q := dport pk
     let y := s.stagePort q
     let d : Word := BitVec.ofNat 64 (field pk.payload 0 8)
     let done := { mkPacket s pk.src.toNat (s.stgCtx q) pk.epoch.toNat Cls.STAGE Op.COMPLETION pk.tag.toNat 0 0 [] with code := 0 }
     let b := s.arrived i.val pk
     let tx (a : Nat) : Prop := a = Reg.FAB_P_TX_PKTS o
     s.Arrives i.val pk → pk.dest.toNat = s.deviceId → packetOk pk = true → pk.op.toNat = Op.UNIT → s.destCheck pk.ctx.toNat pk.epoch.toNat = none →
      (stageUnitOk pk true = true → pk.len = 15 → field pk.payload 10 6 = 0 → bits d.toNat 19 12 = 0 → field pk.payload 8 2 < 2048 →
        (s.stageTakes q pk.ctx.toNat d = true → y.arriving = none → pk.addr.toNat % 2048 = y.seqIn → s.stgLevel q < s.stgCapacity q →
          Ends (.stageHead i pk) s fun t => (t.stagePort q).arriving = some ⟨d, pk.tag.toNat, pk.src.toNat, pk.epoch.toNat, [], []⟩ ∧
            (t.stagePort q).seqIn = (y.seqIn + 1) % 2048 ∧ t.out = b.out ∧ KeepsAllBut (fun _ => False) b t) ∧
        (s.stageTakes q pk.ctx.toNat d = false → b.Routes (s.answer pk 0 0) o → Ends (.stageHead i pk) s fun t =>
          SentOn b t (s.answer pk Code.REFUSED 0) o ∧ KeepsAllBut tx b t)) ∧
      (∀ a, stageUnitOk pk false = true → s.stgState q = StgSt.ACTIVE → s.stgInbound q = true → s.stgCtx q = pk.ctx.toNat →
        y.refused = none → pk.addr.toNat % 2048 = y.seqIn → y.arriving = some a → a.src = pk.src.toNat → a.tag = pk.tag.toNat →
        a.epoch = pk.epoch.toNat → a.src ≠ s.deviceId → pk.poison = false → a.poison = [] →
        (a.data.length + pk.payload.length < descBytes a.desc → Ends (.stageData i pk) s fun t =>
          (t.stagePort q).arriving = some { a with data := a.data ++ pk.payload } ∧ KeepsAllBut (fun _ => False) b t) ∧
        (a.data.length + pk.payload.length = descBytes a.desc → y.spilled = [] → y.parked = [] → s.canLand q = true → b.Routes done o →
          s.Below (Reg.STG_P_ENTRIES q) 1 → Ends (.stageData i pk) s fun t => lands t q a.desc (a.data ++ pk.payload) ∧
            SentOn b t done o ∧ Counts s t (Reg.STG_P_ENTRIES q) 1 ∧ (t.stagePort q).arriving = none ∧
            OnlyRegs (fun r => own q r ∨ r = Reg.STG_P_ENTRIES q ∨ tx r) b t))) ∧
    (∀ a rest,
      let q := s.stgPeerPort p.val
      x.sending = a :: rest → active → q ≠ p.val → s.stageTakes q (s.stgCtx p.val) a.desc = true → s.stgLevel q < s.stgCapacity q →
      a.src = s.deviceId → a.tag = p.val → (s.stagePort q).spilled = [] → (s.stagePort q).parked = [] → s.canLand q = true → a.poison = [] → s.Below (Reg.STG_P_ENTRIES q) 1 →
      Ends (.stageEntryWritten p) s fun t => lands t q a.desc a.data ∧ (t.stagePort p.val).sending = rest ∧
        Counts s t (Reg.STG_P_ENTRIES q) 1 ∧
        t.fld st F.STG_P_STATUS_OUTSTANDING = s.fld st F.STG_P_STATUS_OUTSTANDING - 1 ∧
        OnlyRegs (fun r => own q r ∨ r = st ∨ r = Reg.STG_P_ENTRIES q) s t) ∧
    (∀ d rest,
      let b := s.spillAddr p.val x.spillHead
      x.spilled = d :: rest → active → x.parked = [] → s.canLand p.val = true → s.Steady [(b, descBytes d)] → s.path.held = [] →
      (s.windows (s.ctxPart (s.stgCtx p.val)) b (descBytes d) false).length = 1 → Ends (.spillCopy p) s fun t =>
        lands t p.val d (s.hbmBytes b (descBytes d)) ∧ (t.stagePort p.val).spilled = rest ∧
        OnlyRegs (fun r => own p.val r ∨ IsHitMiss r) s t) ∧
    (∀ a, x.spilled = [] → x.parked = [a] → active → s.canLand p.val = true → a.poison = [] → a.src = s.deviceId → a.tag ≠ p.val →
      Ends (.spillCopy p) s fun t => lands t p.val a.desc a.data ∧ (t.stagePort p.val).parked = [] ∧
        OnlyRegs (fun r => own p.val r ∨ r = Reg.STG_P_STATUS a.tag) s t) ∧
    (active → s.stgInbound p.val = false →
      (s.stgCredits p.val < 2047 → Sets (.credit p none) s st ((s.reg st).put F.STG_P_STATUS_CREDITS (s.stgCredits p.val + 1))) ∧
      (∀ h, s.Heard h → s.stgCredits p.val < 2047 → Ends (.credit p (some h)) s fun t => t.stgCredits p.val = s.stgCredits p.val + 1 ∧
        t.out = s.out ++ [hopAck h] ∧ KeepsAllBut (fun a => a = st) s t) ∧
      ∀ c : BitVec 11, s.stgPeer p.val = s.deviceId → Ends (.grant p none c) s fun t => t.stgCredits p.val = c.toNat ∧
        t.out = s.out ++ [.frame 32 (.grantAck s.deviceId (s.stgPeerPort p.val))] ∧ KeepsAllBut (fun a => a = st) s t) ∧
    (x.granting = true → active → s.stgPeer p.val = s.deviceId → Ends (.grantRepeat p) s fun t =>
      t.out = s.out ++ [.frame 32 (.grant s.deviceId (s.stgPeerPort p.val) (s.stgCapacity p.val))] ∧ KeepsAllBut (fun _ => False) s t) ∧
    (Ends (.grantAcknowledge p none) s fun t => t.stagePort p.val = { x with granting := false } ∧ KeepsAllBut (fun _ => False) s t) ∧
    (x.granting = false → NoEffect (.grantRepeat p) s)

/-- Commands on a weight version (R308, R309, R310). For every sound state and the record that STG_VT_SEL selects: ALLOC of a FREE
record without references and with its base inside HBM makes it FILLING with that base and context; PUBLISH of a FILLING one of
a domain with a role makes it pending; RETIRE makes a LIVE one RETIRING; WITHDRAW takes a pending publication back; FREE_NOW in
IDLE or PAUSE frees a RETIRING one without references; RESET in IDLE or PAUSE frees any. Each shows DONE in LAST_CMD and changes
no other record; where its condition fails it shows REFUSED and changes no record. Concludes that exec answers a next state for
ALLOC, PUBLISH, VT_RETIRE, WITHDRAW, FREE_NOW, VT_RESET. -/
def Obligations.VersionTable : Prop :=
  ∀ s : State, s.Sound →
    let l := s.vtLayer
    let n := s.vtVer
    let x := s.version l n
    let arg := Reg.STG_VT_ARG
    let r := Reg.STG_STATUS
    let shows (t : State) (code : Nat) : Prop := t.fld r F.STG_STATUS_LAST_CMD = code ∧ KeepsAllBut (fun a => a = r) s t
    let after (ok : Prop) (y : Version) (t : State) : Prop :=
      (ok → t.version l n = y ∧ shows t Code.DONE ∧ ∀ l' n', n' < 8 → (l', n') ≠ (l, n) → t.version l' n' = s.version l' n') ∧
      (¬ ok → t.versions = s.versions ∧ shows t Code.REFUSED)
    let base := s.fld arg F.STG_VT_ARG_BASE * 4096
    let sup := s.fld arg F.STG_VT_ARG_SUPERSEDE
    let sv := s.on arg F.STG_VT_ARG_SUP_VALID
    let rest := s.restful (s.ctxDomain x.ctx) = true
    Ends .alloc s (after (x.state = VerSt.FREE ∧ x.refs = 0 ∧ base < hbmEnd)
      { x with state := VerSt.FILLING, base := base, ctx := s.fld arg F.STG_VT_ARG_CONTEXT }) ∧
    Ends .publish s (after (x.state = VerSt.FILLING ∧ x.pending = false ∧ s.role (s.ctxDomain x.ctx) ≠ 0 ∧ (sv = true → sup ≠ n))
      { x with pending := true, supersede := sup, supValid := sv }) ∧
    Ends .vtRetire s (after (x.state = VerSt.LIVE) { x with state := VerSt.RETIRING }) ∧
    Ends .withdraw s (after (x.pending = true) { x with pending := false }) ∧
    Ends .freeNow s (after (x.state = VerSt.RETIRING ∧ x.refs = 0 ∧ rest) { x with state := VerSt.FREE }) ∧
    Ends .vtReset s (after rest { x with state := VerSt.FREE, refs := 0, pending := false })

/-- A layer reduction starts, and its packets join their chunk (R317, R319, R320, R323, R324, R325, R326). For every sound state:
REDUCTION_START of a ready layer whose entry and one segment descriptor are well formed and readable, rooted here with one
child, makes the layer RUNNING with that segment, whose first chunk holds the blocks read from SRC, and changes no data. In a
running segment of one chunk that waits for another child, an EXP_UP that its link accepts and that passes the checks raises
each exponent of its blocks to the larger, and the packet that completes the pass is answered DONE; an accepted EXP_DOWN that is
not the last lays its exponents down; an accepted SUM of a block joins those that are to be added to it. Nothing else changes. A
packet of a layer that has not started waits for it. Concludes that exec answers a next state for REDUCTION_START, EXP_UP,
EXP_DOWN, SUM. -/
def Obligations.LayerReduction : Prop :=
  ∀ (s : State) (layer : BitVec 12), s.Sound →
    let l := layer.toNat
    let r := s.red l
    (let a := s.layerAddr l
     let e := s.hbmBytes a 64
     let b := field e 8 8
     let sd := s.hbmBytes b 64
     let d := s.ctxDomain r.ctx
     let src := field sd 0 8
     let n := field sd 16 4
     let ranges := [(a, 64), (b, 64), (src, 33 * n)]
     ∀ dev, s.redReady l = true → r.segs = [] → r.early = [] → entryOk e = true → field e 2 2 = 1 → segOk sd = true → n ≤ 256 →
      s.Steady ranges → (∀ x ∈ ranges, (s.windows (s.ctxPart r.ctx) x.1 x.2 false).length = 1) →
      s.Below Reg.RED_BLOCKS n → field sd 22 2 = 0xFFFF → descChildren sd = [field sd 24 2] → s.rankDevice d (field sd 20 2) = some s.deviceId →
      s.rankDevice d (field sd 24 2) = some dev → (s.shardsOf r.ctx (field sd 38 4)).length = 1 → Ends (.reductionStart layer) s fun t =>
        (t.red l).state = RedSt.RUNNING ∧ (t.red l).step = r.step ∧ (∃ g ch, (t.red l).segs = [g] ∧ g.seg = field sd 42 1 ∧ g.code = none ∧
          g.parent = none ∧ g.children = [dev] ∧ g.next = 1 ∧ g.chunks = [ch] ∧ ch.started = true ∧ ch.own = s.hbmBytes src (33 * n) ∧
          ch.bad = []) ∧ Counts s t Reg.RED_BLOCKS n ∧ KeepsData (fun x => x = Reg.RED_BLOCKS ∨ IsHitMiss x) s t) ∧
    (s.redReady l = false → NoEffect (.reductionStart layer) s) ∧
    ∀ (i : Fin 32) (pk : Packet) (g : RedSegment) (ch : RedChunk) (k o : Nat), s.Arrives i.val pk →
      let b := s.arrived i.val pk
      let none' := KeepsAllBut (fun _ => False) b
      let n := bits pk.addr.toNat 35 28
      let blk := bits pk.addr.toNat 11 4
      let from' := pk.src.toNat
      let data := pk.payload.drop 8
      bits pk.addr.toNat 47 36 = l → bits pk.addr.toNat 27 12 = 0 → pk.addr.toNat % 4 = 0 → pk.dest.toNat = s.deviceId → packetOk pk = true →
      pk.op.toNat = Op.UNIT → pk.cls.toNat = Cls.REDUCE → field pk.payload 5 3 = 0 → pk.poison = false →
      s.destCheck pk.ctx.toNat pk.epoch.toNat = none → rankOfDevice (s.ctxDomain pk.ctx.toNat) from' b = (b, some k) →
      s.redAccepts pk (bits pk.addr.toNat 3 2) (some k) = true →
      (r.state = RedSt.WAITING → s.redLast pk = false → bits pk.addr.toNat 3 2 = Pass.EXP_UP → Ends (.expUp i pk) s fun t =>
        t.red l = { r with early := r.early ++ [pk] } ∧ none' t) ∧
      (r.state = RedSt.RUNNING → r.step = field pk.payload 0 5 → r.segs = [g] → g.seg = n → g.code = none → 0 < g.blocks → g.blocks ≤ 256 →
        g.finished = 0 → g.next = 1 → g.chunks = [ch] → ch.idx = 0 → ch.started = true →
        let becomes (t : State) (y : RedChunk) : Prop := t.red l = { r with segs := [{ g with chunks := [y] }] }
        let waitsUp := ∃ c ∈ g.children, c ≠ from' ∧ ∀ e ∈ ch.upFrom, e.1 ≠ c
        let up := { ch with
          up := ch.up.zipIdx.map fun e => if blk ≤ e.2 ∧ e.2 < blk + data.length then max e.1 (data.getD (e.2 - blk) 0).toNat else e.1
          upFrom := ch.upFrom ++ [(from', data.length)] }
        (bits pk.addr.toNat 3 2 = Pass.EXP_UP → waitsUp → ch.exps = none → (∀ e ∈ ch.upFrom, e.1 ≠ from') → g.parent = none →
          (s.redLast pk = false → Ends (.expUp i pk) s fun t => becomes t up ∧ none' t) ∧
          (s.redLast pk = true → blk = 0 → data.length = g.blocks → b.Routes (s.answer pk 0 0) o → Ends (.expUp i pk) s fun t =>
            becomes t up ∧ SentOn b t (s.answer pk Code.DONE 0) o ∧ KeepsAllBut (fun x => x = Reg.FAB_P_TX_PKTS o) b t)) ∧
        (bits pk.addr.toNat 3 2 = Pass.EXP_DOWN → g.parent = some from' → ch.exps = none → ch.upSent = true → ch.down.length = blk →
          blk + data.length < g.blocks → s.redLast pk = false → Ends (.expDown i pk) s fun t =>
            becomes t { ch with down := ch.down ++ data.map (·.toNat) } ∧ none' t) ∧
        ∀ es, bits pk.addr.toNat 3 2 = Pass.SUM → ch.exps = some es → ch.upSent = true → s.redLast pk = false →
          (∃ c ∈ g.children, c ≠ from' ∧ ∀ e ∈ ch.sumFrom, e.1 ≠ c) → (∀ e ∈ ch.sumFrom, e.1 ≠ from') → Ends (.sum i pk) s fun t =>
            becomes t { ch with
              sums := ch.sums ++ [(blk, (List.range 32).map fun j => signed 48 (field data (6 * j) 6))]
              sumFrom := ch.sumFrom ++ [(from', 1)] } ∧ none' t)

/-- Runs of the shard update unit, and its registers (R333, R334, R340, R341, R342, R347, R348). For every sound state: RUN_START of
the lowest ready entry, with fewer than eight runs active, its reductions done, a well-formed entry and permitted programs, all
of them readable, makes it RUNNING, keeps the entry, programs and parameters that it read, and counts it; where a reduction has
failed the entry becomes FAILED with that code. RUN_COMPLETE of an entry that publishes nothing and has no comet post-pass
leaves memory as its program does, counts its elements and makes it UPDATED with DONE or NONFINITE, or FAILED with the code that
its program met. A commit word not RUNNING takes CUR and STEP in IDLE or PAUSE, and the tables take BASE and COUNT while no
context is present; otherwise each is ignored with BAD_WRITE. Concludes that exec answers a next state for RUN_START,
RUN_COMPLETE, UPD_COMMIT_WRITE, TABLE_WRITE. -/
def Obligations.ShardUpdates : Prop :=
  ∀ (s : State) (k : Fin 4096) (v : Word), s.Sound →
    let n := k.val
    let w := Reg.UPD_COMMIT n
    let a := s.shardAddr n
    let failed (t u : State) (code : Nat) : Prop := t.runSt n = RunSt.FAILED ∧ t.fld w F.UPD_COMMIT_CODE = code ∧
      t.on Reg.UPD_STATUS F.UPD_STATUS_RUN_FAIL = true ∧ t.cur n = u.cur n
    (∀ r, s.upd n = some r → s.runReady n = true → s.runsActive < 8 → s.fatal = false →
      (∀ x ∈ s.runs, x.1 < n → s.runReady x.1 = false) →
      (let entry := s.hbmBytes a 256
       let e := readShard entry
       let p0 := if e.prog.1 = 0 then [] else s.hbmBytes e.prog.1 (16 * e.len.1)
       let p1 := s.hbmBytes e.prog.2 (16 * e.len.2)
       let more := (if e.prog.1 = 0 then [] else [(e.prog.1, 16 * e.len.1)]) ++ [(e.prog.2, 16 * e.len.2), (e.param, 104)]
       s.runWaits (s.shardEntry n) r.step = some none → s.Steady ((a, 256) :: more) → shardOk e = true → (programs e p0 p1).isSome = true →
        (∀ x ∈ more, (s.windows (s.ctxPart e.ctx) x.1 x.2 false).length = 1) → s.Below Reg.UPD_RUNS 1 → Ends (.runStart k) s fun t =>
          t.runSt n = RunSt.RUNNING ∧
          t.upd n = some { r with started := true, entry := entry, prog0 := p0, prog1 := p1, params := s.hbmBytes e.param 104 } ∧
          Counts s t Reg.UPD_RUNS 1 ∧ t.cur n = s.cur n ∧ KeepsData (fun x => x = w ∨ x = Reg.UPD_RUNS ∨ IsHitMiss x) s t) ∧
      (∀ code, code ≤ 10 → s.runWaits (s.shardEntry n) r.step = some (some code) → Ends (.runStart k) s fun t => failed t s code ∧
        KeepsAllBut (fun x => x = w ∨ x = Reg.UPD_STATUS ∨ x = Reg.UPD_FAIL) s t)) ∧
    (s.upd n = none → NoEffect (.runStart k) s ∧ NoEffect (.runComplete k) s) ∧
    (∀ r p, s.upd n = some r → r.started = true → s.runSt n = RunSt.RUNNING → s.fatal = false →
      let e := readShard r.entry
      programs e r.prog0 r.prog1 = some p → s.shardClears e = false → s.runHeld n = false →
      let x := runProgram n e r p (freshOp s)
      let cycles := (p.1.length + p.2.length) * ceilDiv (ceilDiv e.n 256) 4
      x.s.path.owed = [] → x.s.opHeld x.s.path.op = false → x.s.upd n = some r → x.s.runSt n = RunSt.RUNNING → x.s.Below Reg.UPD_ELEMENTS e.n → x.s.Below Reg.UPD_ACTIVE cycles →
      (x.fail = none → x.s.postPass n r.domain = false → e.pub = false → Ends (.runComplete k) s fun t =>
          t.runSt n = RunSt.UPDATED ∧ t.fld w F.UPD_COMMIT_CODE = (if x.nf then Code.NONFINITE else Code.DONE) ∧
          Counts x.s t Reg.UPD_ELEMENTS e.n ∧
          KeepsAllBut (fun y => y = w ∨ y = Reg.UPD_ELEMENTS ∨ y = Reg.UPD_ACTIVE) x.s t) ∧
      (∀ code, code ≤ 10 → x.fail = some code → code ≠ Code.POISONED → Ends (.runComplete k) s fun t => failed t x.s code ∧
        KeepsAllBut (fun y => y = w ∨ y = Reg.UPD_STATUS ∨ y = Reg.UPD_FAIL ∨ y = Reg.UPD_ELEMENTS ∨ y = Reg.UPD_ACTIVE) x.s t)) ∧
    (s.runSt n ≠ RunSt.RUNNING → (n < s.fld Reg.UPD_TABLE F.UPD_TABLE_COUNT → s.restful (s.ctxDomain (shardCtx (s.shardEntry n))) = true) → Ends (.updCommitWrite k v) s fun t =>
      t.cur n = v.get F.UPD_COMMIT_CUR ∧ t.fld w F.UPD_COMMIT_STEP = v.get F.UPD_COMMIT_STEP ∧ t.runSt n = s.runSt n ∧
      KeepsAllBut (fun x => x = w) s t) ∧
    (s.runSt n = RunSt.RUNNING → Ignores (.updCommitWrite k v) s Reg.UPD_STATUS F.UPD_STATUS_BAD_WRITE) ∧
    (s.anyContext = false → v.get F.RED_LT_COUNT ≤ 4096 → Ends (.tableWrite false v) s fun t =>
      t.fld Reg.RED_LT F.RED_LT_COUNT = v.get F.RED_LT_COUNT ∧ t.fld Reg.RED_LT F.RED_LT_BASE = v.get F.RED_LT_BASE / 64 * 64 ∧
      KeepsAllBut (fun x => x = Reg.RED_LT) s t) ∧
    (s.anyContext = false → v.get F.UPD_TABLE_COUNT ≤ 4096 → Ends (.tableWrite true v) s fun t =>
      t.fld Reg.UPD_TABLE F.UPD_TABLE_COUNT = v.get F.UPD_TABLE_COUNT ∧ t.fld Reg.UPD_TABLE F.UPD_TABLE_BASE = v.get F.UPD_TABLE_BASE ∧
      KeepsAllBut (fun x => x = Reg.UPD_TABLE) s t) ∧
    (s.anyContext = true → Ignores (.tableWrite false v) s Reg.RED_STATUS F.RED_STATUS_BAD_WRITE ∧
      Ignores (.tableWrite true v) s Reg.UPD_STATUS F.UPD_STATUS_BAD_WRITE)

/-- Pan slots: copies, the buddy mirror, release and the commands on a slot (R361, R376, R380, R382, R383, R385, R392, R393). For
every sound state and slot: GRANULE_COPY_DONE and FILL_COMPLETE copy what the slot has still to copy (here one line) into the
slot and count it, unprotect its granule, and FILL_COMPLETE makes the slot FULL. MIRROR_RECORD_READ chooses the other image than
the buddy's record names and sends its first 256 bytes; a code other than DONE ends the mirror with it. MIRROR_WRITES_DONE of a
written image counts it and sends the new commit record; MIRROR_ACK acknowledges. SLOT_FREE frees a slot that the rules release
and no other; HOLD, UNHOLD, DISCARD and MIR_RETRY act on a FULL slot with DONE, answer REFUSED on another, and are ignored with
BAD_WRITE while a command runs. Concludes that exec answers a next state for GRANULE_COPY_DONE, FILL_COMPLETE,
MIRROR_RECORD_READ, MIRROR_WRITES_DONE, MIRROR_ACK, SLOT_FREE, HOLD, UNHOLD, DISCARD, MIR_RETRY. -/
def Obligations.PanSlots : Prop :=
  ∀ (s : State) (n : Fin 4) (code : BitVec 8) (o : Nat), s.Sound → o < 32 →
    let x := s.panSlot n.val
    let st := Reg.PAN_SLOT_STATUS n.val
    let d := s.panDom n.val
    let c := s.panCtx d
    let others := ∀ m, m < 4 → m ≠ n.val → (s.panSlot m).todo = []
    let calm := s.path.waiting = [] ∧ s.reds = []
    let fresh := s.on (Reg.TIDE_DSTATUS (s.ctxDomain c)) F.TIDE_DSTATUS_STALE = false
    let tx (a : Nat) : Prop := a = Reg.FAB_P_TX_PKTS o
    let fails (t : State) (k : Nat) : Prop := (t.panSlot n.val).mirror = none ∧ t.fld st F.PAN_SLOT_STATUS_MIR_CODE = k ∧
      t.on Reg.PAN_STATUS F.PAN_STATUS_MIR_FAIL = true ∧ Posts s t ∧ KeepsAllBut (fun a => a = st ∨ a = Reg.PAN_STATUS ∨ IsLedger a) s t
    (∀ p : PanPiece, x.todo = [p] → others → (∀ m, m < 4 → (s.panSlot m).mirror = none) → calm → s.path.held = [] → p.len = 64 → p.src % 64 = 0 → p.dst % 64 = 0 → p.dst + 64 ≤ hbmEnd →
      s.Quiet p.src 64 → s.cached p.dst = none → granuleOf p.dst ∉ s.path.guarded → s.Below (Reg.BC_H_MISS 0) 8 → s.Below (Reg.BC_H_MISS 1) 8 →
      s.Below Reg.PAN_FILL_BYTES 64 → s.fld (Reg.PAN_SLOT_FILLED n.val) F.PAN_SLOT_FILLED_V + 64 < 2 ^ 48 →
      let copied (t : State) (W : Nat → Prop) : Prop := WroteHbm s t p.dst (s.hbmBytes p.src 64) ∧ (t.panSlot n.val).todo = [] ∧
        t.path.guarded = [] ∧ Counts s t Reg.PAN_FILL_BYTES 64 ∧
        t.fld (Reg.PAN_SLOT_FILLED n.val) F.PAN_SLOT_FILLED_V = s.fld (Reg.PAN_SLOT_FILLED n.val) F.PAN_SLOT_FILLED_V + 64 ∧ t.acc = s.acc ∧
        OnlyRegs (fun a => W a ∨ IsHitMiss a ∨ a = Reg.PAN_FILL_BYTES ∨ a = Reg.PAN_SLOT_FILLED n.val) s t
      (∀ g : BitVec 23, g.toNat = granuleOf p.src → granuleOf p.src ∈ s.path.guarded →
        Ends (.granuleCopyDone g) s fun t => copied t fun _ => False) ∧
      (s.panSt n.val = PanSt.FILLING → x.owes = [] → Ends (.fillComplete n) s fun t =>
        t.panSt n.val = PanSt.FULL ∧ copied t fun a => a = st)) ∧
    (calm → s.panSt n.val ≠ PanSt.FILLING ∨ x.owes ≠ [] → NoEffect (.fillComplete n) s) ∧
    (∀ m data, x.mirror = some m → m.stage = 0 → (code.toNat ≠ Code.DONE → code.toNat ≤ 10 → Ends (.mirrorRecordRead n code data) s fun t => fails t code.toNat) ∧
      (let image := if field data 17 1 = 1 then 1 - field data 16 1 else 0
       let a := s.buddyBase d + 0x10000 + image * s.fld (Reg.PAN_D_BUDDY d) F.PAN_D_BUDDY_IMG_GIB * 0x40000000
       let pk := mkPacket s m.dev c (s.epoch c) Cls.DATA Op.WRITE s.nextTag a 255 (s.hbmBytes (s.panBase n.val) 256)
       code.toNat = Code.DONE → s.imageBytes n.val ≤ s.fld (Reg.PAN_D_BUDDY d) F.PAN_D_BUDDY_IMG_GIB * 0x40000000 → m.pos = 0 → m.sent = 0 →
        s.panCopied n.val 256 = true → fresh → s.Steady [(s.panBase n.val, 256)] → s.Routes pk o → Ends (.mirrorRecordRead n code data) s fun t =>
          SentOn s t pk o ∧ (t.panSlot n.val).mirror = some { m with stage := 1, image := image, sent := 256 } ∧
          KeepsData (fun r => tx r ∨ IsHitMiss r) s t)) ∧
    (∀ m, x.mirror = some m → m.stage = 1 → (code.toNat ≠ Code.DONE → code.toNat ≤ 10 → Ends (.mirrorWritesDone n code) s fun t => fails t code.toNat) ∧
      (∀ rank, code.toNat = Code.DONE → s.panSt n.val = PanSt.FULL → m.pos + m.sent = s.imageBytes n.val → rankOfDevice d s.deviceId s = (s, some rank) →
        s.Below Reg.PAN_MIR_BYTES m.sent → s.fld (Reg.PAN_SLOT_MIRRORED n.val) F.PAN_SLOT_MIRRORED_V + m.sent < 2 ^ 48 →
        let rec' := bytesOf 8 (s.reg (Reg.PAN_SLOT_TIDE n.val)).toNat ++ bytesOf 8 (s.reg (Reg.PAN_SLOT_SEQ n.val)).toNat ++ bytesOf 1 m.image ++
          bytesOf 1 1 ++ bytesOf 2 s.deviceId ++ bytesOf 2 rank ++ bytesOf 1 d ++ bytesOf 1 0 ++ bytesOf 8 (s.imageBytes n.val) ++ List.replicate 32 0
        let pk := mkPacket s m.dev c (s.epoch c) Cls.DATA Op.WRITE s.nextTag (s.buddyBase d) 63 rec'
        fresh → s.Routes pk o → Ends (.mirrorWritesDone n code) s fun t => SentOn s t pk o ∧ (t.panSlot n.val).mirror = some { m with stage := 2, sent := 0 } ∧
          Counts s t Reg.PAN_MIR_BYTES m.sent ∧ KeepsAllBut (fun r => tx r ∨ r = Reg.PAN_MIR_BYTES ∨ r = Reg.PAN_SLOT_MIRRORED n.val) s t)) ∧
    (∀ m, x.mirror = some m → m.stage = 2 → Ends (.mirrorAck n 0) s fun t => (t.panSlot n.val).mirror = none ∧
      t.on st F.PAN_SLOT_STATUS_MIR_ACK = true ∧ t.fld st F.PAN_SLOT_STATUS_MIR_CODE = 0 ∧ KeepsAllBut (fun a => a = st) s t) ∧
    (let freed (t : State) : Prop := t.reg st = (0 : Word).put F.PAN_SLOT_STATUS_DOMAIN d ∧ t.panSlot n.val = PanSlot.init
     let done (t : State) (k : Nat) (W : Nat → Prop) : Prop := t.fld Reg.PAN_STATUS F.PAN_STATUS_COMPLETION = k ∧
       KeepsAllBut (fun a => W a ∨ a = Reg.PAN_STATUS) s t
     let idle := s.on Reg.PAN_STATUS F.PAN_STATUS_CMD_BUSY = false
     let full := idle ∧ n.val < s.panCount ∧ s.panSt n.val = PanSt.FULL
     let own (a : Nat) : Prop := a = st
     (n.val < s.panCount → s.panReleasable n.val = true → Ends (.slotFree n) s fun t => freed t ∧ KeepsAllBut own s t) ∧
     (s.panReleasable n.val = false → NoEffect (.slotFree n) s) ∧
     (full → (Ends (.hold n) s fun t => t.panBit n.val F.PAN_SLOT_STATUS_HOLD = true ∧ done t Code.DONE own) ∧
       (Ends (.unhold n) s fun t => t.panBit n.val F.PAN_SLOT_STATUS_HOLD = false ∧ done t Code.DONE own) ∧
       (s.panBit n.val F.PAN_SLOT_STATUS_HOLD = false → s.harvest = none → Ends (.discard n) s fun t => freed t ∧ done t Code.DONE own) ∧
       (s.panBit n.val F.PAN_SLOT_STATUS_HOLD = true → Ends (.discard n) s fun t => done t Code.REFUSED fun _ => False) ∧
       ∀ dev,
        let pk := mkPacket s dev c (s.epoch c) Cls.DATA Op.READ_REQ s.nextTag (s.buddyBase d) 63 []
        s.panBit n.val F.PAN_SLOT_STATUS_POISON = false → x.mirror = none → s.rankDevice d (s.fld (Reg.PAN_D_BUDDY d) F.PAN_D_BUDDY_RANK) = some dev →
        fresh → s.Routes pk o → Ends (.mirRetry n) s fun t => SentOn s t pk o ∧ (t.panSlot n.val).mirror = some ⟨dev, 0, 0, 0, 0⟩ ∧
          t.panBit n.val F.PAN_SLOT_STATUS_MIR_ACK = false ∧ done t Code.DONE fun a => own a ∨ tx a) ∧
     (∀ i ∈ [Instr.hold n, .unhold n, .discard n, .mirRetry n],
       (idle → s.panSt n.val ≠ PanSt.FULL → Ends i s fun t => done t Code.REFUSED fun _ => False) ∧
       (¬ idle → Ignores i s Reg.PAN_STATUS F.PAN_STATUS_BAD_WRITE)))

/-- The harvest, RESTORE, and the settings of pans and harvests (R360, R371, R386, R387, R388, R390, R391, R393, R394, R395, R396,
R406). For every sound state: HARVEST_START of the oldest waiting slot whose targets have room and a connected queue pair makes
the harvest busy in its area and sends the first stripe's Write, and of a poisoned slot ends it POISONED. HARVEST_WRITE_DONE of
a Write counts its bytes; one that fails, and NVME_TIMEOUT, reissue the oldest command while tries are left, and otherwise end
the harvest with REFUSED or TIMEOUT and an entry. The last HARVEST_FLUSH_DONE acknowledges the slot and makes its fragment
ready. HRV_RETRY makes a failed slot wait again. RESTORE from another device asks for the image's header; where its requirements
fail it is REFUSED; RESTORE_DONE completes with its code. Settings take their fields, and locked ones keep theirs with
BAD_WRITE. Concludes that exec answers a next state for HARVEST_START, HARVEST_WRITE_DONE, NVME_TIMEOUT, HARVEST_FLUSH_DONE,
HRV_RETRY, RESTORE, RESTORE_DONE, PAN_RESERVE_WRITE, PAN_TRIG_WRITE, PAN_DOMAIN_WRITE, HRV_WRITE. -/
def Obligations.HarvestAndRestore : Prop :=
  ∀ (s : State) (v : Word) (o : Nat), s.Sound → o < 32 →
    let hs := Reg.HRV_STATUS
    let slot := Reg.PAN_SLOT_STATUS
    let failed (t : State) (n code : Nat) : Prop := t.harvest = none ∧ t.fld (slot n) F.PAN_SLOT_STATUS_HRV_CODE = code ∧
      t.fld hs F.HRV_STATUS_LAST_CODE = code ∧ t.on hs F.HRV_STATUS_BUSY = false ∧ t.on Reg.PAN_STATUS F.PAN_STATUS_HRV_FAIL = true ∧ Posts s t ∧
      KeepsAllBut (fun a => a = slot n ∨ a = hs ∨ a = Reg.PAN_STATUS ∨ IsLedger a) s t
    let plain (n : Nat) : Prop := s.memRefuses = false ∧ s.sandboxed n = false
    (s.on Reg.HRV_CTRL F.HRV_CTRL_EN = true → s.harvest = none → s.fatal = false →
      ∀ other, (s.nextHarvest = none → NoEffect (.harvestStart other) s) ∧
      ∀ n, s.nextHarvest = some n →
        (s.panBit n F.PAN_SLOT_STATUS_POISON = true → Ends (.harvestStart other) s fun t => failed t n Code.POISONED) ∧
        ∀ a k ks, s.panBit n F.PAN_SLOT_STATUS_POISON = false → plain n → (s.panSlot n).area = some a → a < 8 → s.hrvTargets = k :: ks →
          (∀ t ∈ k :: ks, ceilDiv (stripesOf (s.outBytes n)) (k :: ks).length * 256 ≤ s.areaLbas t ∧
            s.qpIs (s.fld (Reg.HRV_T_CTRL t) F.HRV_T_CTRL_QP) 1 true = true ∧ ∀ y ∈ other, y.val ≠ t) → s.Below Reg.HRV_CMDS 1024 →
          Ends (.harvestStart other) s fun t =>
            t.on hs F.HRV_STATUS_BUSY = true ∧ t.fld hs F.HRV_STATUS_LAST_AREA = a ∧
            (∃ h, t.harvest = some h ∧ h.slot = n ∧ h.area = a ∧ h.recsec = s.recsecOffset n ∧ h.targets.map (·.target) = k :: ks) ∧
            s.out ++ [.nvme ⟨s.fld (Reg.HRV_T_CTRL k) F.HRV_T_CTRL_QP, 1, s.fld (Reg.HRV_T_CTRL k) F.HRV_T_CTRL_NSID,
              (s.reg (Reg.HRV_T_BASE k)).toNat + a * s.areaLbas k, 255, 0⟩] <+: t.out ∧
            KeepsAllBut (fun r => r = hs ∨ r = Reg.HRV_CMDS ∨ r = Reg.PAN_SLOT_HARVESTED n) s t) ∧
    (∀ (t0 : Fin 8) h x,
      let n := h.slot
      let left (tries : Nat) := tries < s.fld Reg.HRV_CTRL F.HRV_CTRL_RETRY
      let room := s.Below Reg.HRV_RETRIES 1 ∧ s.Below Reg.HRV_CMDS 1
      let again (y : HrvTarget) (t : State) : Prop := t.harvest = some { h with targets := [y] } ∧ Counts s t Reg.HRV_RETRIES 1 ∧ Counts s t Reg.HRV_CMDS 1 ∧ s.out.length + 1 = t.out.length ∧
        KeepsAllBut (fun r => r = Reg.HRV_RETRIES ∨ r = Reg.HRV_CMDS) s t
      s.harvest = some h → h.targets = [x] → x.target = t0.val → plain n →
      (∀ j tries rest, x.opens = (j, tries) :: rest →
        (let b := min 0x100000 (s.outBytes n - j * 0x100000)
         rest ≠ [] → x.flushed = false → x.next = stripesOf (s.outBytes n) → s.Below Reg.HRV_BYTES b →
          s.fld (Reg.PAN_SLOT_HARVESTED n) F.PAN_SLOT_HARVESTED_V + b < 2 ^ 48 → Ends (.harvestWriteDone t0 true) s fun t =>
            t.harvest = some { h with targets := [{ x with opens := rest }] } ∧ Counts s t Reg.HRV_BYTES b ∧
            t.fld (Reg.PAN_SLOT_HARVESTED n) F.PAN_SLOT_HARVESTED_V = s.fld (Reg.PAN_SLOT_HARVESTED n) F.PAN_SLOT_HARVESTED_V + b ∧
            KeepsAllBut (fun r => r = Reg.HRV_BYTES ∨ r = Reg.PAN_SLOT_HARVESTED n) s t) ∧
        (left tries → room → Ends (.harvestWriteDone t0 false) s (again { x with opens := (j, tries + 1) :: rest }) ∧
          Ends (.nvmeTimeout t0) s (again { x with opens := (j, tries + 1) :: rest })) ∧
        (¬ left tries → (Ends (.harvestWriteDone t0 false) s fun t => failed t n Code.REFUSED) ∧
          Ends (.nvmeTimeout t0) s fun t => failed t n Code.TIMEOUT)) ∧
      (∀ tries, x.flush = some tries → x.opens = [] →
        (left tries → room → Ends (.harvestFlushDone t0 false) s (again { x with flush := some (tries + 1) }) ∧
          Ends (.nvmeTimeout t0) s (again { x with flush := some (tries + 1) })) ∧
        (let st := Reg.CHK_D_STATUS (s.panDom n)
        let a := s.fld (Reg.CHK_D_FRAG (s.panDom n)) F.CHK_D_FRAG_ADDR * 128
        let frag := s.fragment { h with targets := [{ x with flush := none, flushed := true }] }
        h.records ≠ none → s.Bare → a + 384 ≤ hbmEnd → Ends (.harvestFlushDone t0 true) s fun t => t.harvest = none ∧ t.on (slot n) F.PAN_SLOT_STATUS_HRV_ACK = true ∧
          t.fld (slot n) F.PAN_SLOT_STATUS_HRV_CODE = Code.DONE ∧ t.on hs F.HRV_STATUS_BUSY = false ∧
          t.on st F.CHK_D_STATUS_FRAG_READY = true ∧ t.on st F.CHK_D_STATUS_FRAG_OVERRUN =
            (s.on st F.CHK_D_STATUS_FRAG_OVERRUN || s.on st F.CHK_D_STATUS_FRAG_READY) ∧ WroteHbm s t a frag ∧ t.acc = s.acc ∧
          OnlyRegs (fun r => r = slot n ∨ r = hs ∨ r = st ∨ IsHitMiss r) s t))) ∧
    (s.on Reg.PAN_STATUS F.PAN_STATUS_CMD_BUSY = false →
      (∀ n : Fin 4, n.val < s.panCount → s.panSt n.val = PanSt.FULL → s.panBit n.val F.PAN_SLOT_STATUS_CKPT = true →
        s.panBit n.val F.PAN_SLOT_STATUS_HRV_ACK = false → s.fld (slot n.val) F.PAN_SLOT_STATUS_HRV_CODE ≠ 0 →
        s.on Reg.HRV_CTRL F.HRV_CTRL_EN = false → ∀ other, Ends (.hrvRetry n other) s fun t => t.fld (slot n.val) F.PAN_SLOT_STATUS_HRV_CODE = 0 ∧
          t.fld Reg.PAN_STATUS F.PAN_STATUS_COMPLETION = Code.DONE ∧ KeepsAllBut (fun a => a = slot n.val ∨ a = Reg.PAN_STATUS) s t) ∧
      ∀ d : Fin 16,
        (s.restful d.val = false → Ends (.restore d) s fun t => t.fld Reg.PAN_STATUS F.PAN_STATUS_COMPLETION = Code.REFUSED ∧
          t.restoring = s.restoring ∧ KeepsAllBut (fun a => a = Reg.PAN_STATUS) s t) ∧
        (∀ dev a,
          let c := s.panCtx d.val
          let pk := mkPacket s dev c (s.epoch c) Cls.DATA Op.READ_REQ s.nextTag a 255 []
          s.restful d.val = true → s.panFilling d.val = false → s.domStill d.val = true →
          s.on (Reg.TIDE_DSTATUS (s.ctxDomain c)) F.TIDE_DSTATUS_STALE = false →
          s.target (s.reg Reg.PAN_RESTORE_SRC).toNat 256 = .remote dev a → s.Routes pk o → Ends (.restore d) s fun t =>
            SentOn s t pk o ∧ t.restoring = some ⟨d.val, some dev, a, [], [], 0, [], none⟩ ∧ t.on Reg.PAN_STATUS F.PAN_STATUS_CMD_BUSY = true ∧
            KeepsAllBut (fun r => r = Reg.PAN_STATUS ∨ r = Reg.FAB_P_TX_PKTS o) s t)) ∧
    (∀ x code, s.restoring = some x → x.code = some code → code ≤ 10 → Ends .restoreDone s fun t => t.restoring = none ∧
      t.fld Reg.PAN_STATUS F.PAN_STATUS_COMPLETION = code ∧ t.on Reg.PAN_STATUS F.PAN_STATUS_CMD_BUSY = false ∧
      KeepsAllBut (fun a => a = Reg.PAN_STATUS) s t) ∧
    (let r := Reg.PAN_RESERVE
     v.get F.PAN_RESERVE_SIZE_GIB ≤ 128 →
      ((∀ n, n < s.panCount → s.panSt n = PanSt.FREE) → (v.get F.PAN_RESERVE_BASE + v.get F.PAN_RESERVE_SIZE_GIB) * 0x40000000 ≤ hbmEnd →
        Ends (.panReserveWrite v) s fun t => (∀ f ∈ [F.PAN_RESERVE_SIZE_GIB, F.PAN_RESERVE_NSLOTS, F.PAN_RESERVE_BASE], t.fld r f = v.get f) ∧
          KeepsAllBut (fun a => a = r) s t) ∧
      (∀ n, n < s.panCount → s.panSt n ≠ PanSt.FREE → Ignores (.panReserveWrite v) s Reg.PAN_STATUS F.PAN_STATUS_BAD_WRITE)) ∧
    (∀ d : Fin 16,
      let r := Reg.PAN_D_TRIG d.val
      let k := v.get F.PAN_D_TRIG_EVSLOT
      let list := Reg.PAN_D_LIST d.val
      let busy := s.panFilling d.val = true
      let step := tideStep (s.tide d.val) + v.get F.PAN_D_TRIG_EVERY
      (s.on r F.PAN_D_TRIG_EN = false → v.get F.PAN_D_TRIG_EN = 1 → 1 ≤ v.get F.PAN_D_TRIG_EVERY → v.get F.PAN_D_TRIG_EVERY ≤ 1048576 →
        step ≤ 0xFFFFFFFFFF → Ends (.panTrigWrite d v) s fun t => (∀ f ∈ [F.PAN_D_TRIG_EN, F.PAN_D_TRIG_EVSLOT, F.PAN_D_TRIG_EVERY], t.fld r f = v.get f) ∧
          t.reg (Reg.TIDE_SLOT_VALUE d.val k) = tideWord step Phase.SEAL 0 ∧ t.on (Reg.TIDE_SLOT_CTRL d.val k) F.TIDE_SLOT_CTRL_ENABLE = true ∧
          t.fld (Reg.TIDE_SLOT_CTRL d.val k) F.TIDE_SLOT_CTRL_ACTIONS = 2 ∧
          KeepsAllBut (fun a => a = r ∨ a = Reg.TIDE_SLOT_VALUE d.val k ∨ a = Reg.TIDE_SLOT_CTRL d.val k) s t) ∧
      (v.get F.PAN_D_LIST_COUNT ≤ 4096 → ¬ busy → s.panMirroring d.val = false → Ends (.panDomainWrite d 8 v) s fun t =>
        t.fld list F.PAN_D_LIST_COUNT = v.get F.PAN_D_LIST_COUNT ∧ t.fld list F.PAN_D_LIST_BASE = v.get F.PAN_D_LIST_BASE / 32 * 32 ∧
        KeepsAllBut (fun a => a = list) s t) ∧
      (busy → Ignores (.panDomainWrite d 8 v) s Reg.PAN_STATUS F.PAN_STATUS_BAD_WRITE)) ∧
    (let r := Reg.HRV_CTRL
     let busy := s.on hs F.HRV_STATUS_BUSY
     3 ≤ v.get F.HRV_CTRL_AREAS → v.get F.HRV_CTRL_AREAS ≤ 8 → 1 ≤ v.get F.HRV_CTRL_RATE → v.get F.HRV_CTRL_RATE ≤ 200 →
     1 ≤ v.get F.HRV_CTRL_TIMEOUT_MS → v.get F.HRV_CTRL_TIMEOUT_MS ≤ 60000 →
      (busy = false → Ends (.hrvWrite 0 v) s fun t =>
        (∀ f ∈ [F.HRV_CTRL_EN, F.HRV_CTRL_RATE, F.HRV_CTRL_AREAS, F.HRV_CTRL_RETRY, F.HRV_CTRL_TIMEOUT_MS], t.fld r f = v.get f) ∧
        KeepsAllBut (fun a => a = r) s t) ∧
      (busy = true → Ignores (.hrvWrite 0x100 v) s hs F.HRV_STATUS_BAD_WRITE))

/-- Check sets: initialising, absorbing, finishing, and their running values (R414, R415, R416, R417, R418, R420). For every sound
state and one of software's sets that is not BUSY: INIT starts the algorithm's value with no bytes absorbed and opens the set;
UPDATE and UPDATE_FINISH of an OPEN set over local bytes make it BUSY, and UPDATE_DONE absorbs those bytes into the running
value in order, advances SRC, counts them, and leaves the set OPEN, or POISONED with an entry where they are poisoned; FINISH
writes RESULT from the closed value; a set that is not OPEN answers REFUSED. Commands on the harvest's sets and on a BUSY set
are ignored with BAD_WRITE. The running value may be written while OPEN and is otherwise ignored with BAD_WRITE. Concludes that
exec answers a next state for INIT, FINISH, UPDATE, UPDATE_FINISH, UPDATE_DONE, CHK_STATE_WRITE. -/
def Obligations.CheckValues : Prop :=
  ∀ (s : State) (u : Fin 4) (k : Fin 16) (len : BitVec 32) (v : Word), s.Sound →
    let st := Reg.CHK_S_STATUS u.val k.val
    let src := Reg.CHK_S_SRC u.val k.val
    let set := s.chkSt u.val k.val
    let alg := s.fld (Reg.CHK_S_CTRL u.val k.val) F.CHK_S_CTRL_ALG
    let x := s.chkVal u.val k.val
    let running (a : Nat) : Prop := a = Reg.CHK_S_POS u.val k.val ∨ a = Reg.CHK_S_SEQ u.val k.val ∨ a = Reg.CHK_S_MSGLEN u.val k.val ∨
      ∃ i, i < 12 ∧ a = chkState u.val k.val i
    let ends (t : State) (state code : Nat) : Prop := t.chkSt u.val k.val = state ∧ t.fld st F.CHK_S_STATUS_COMPLETION = code ∧
      t.chkRun u.val k.val = none
    let cmds (a : Nat) : Prop := a = Reg.CHK_CMDS ∨ a = st
    let holds (t : State) (y : ChkVal) : Prop := t.reg (Reg.CHK_S_POS u.val k.val) = BitVec.ofNat 64 y.pos ∧
      t.fld (Reg.CHK_S_MSGLEN u.val k.val) F.CHK_S_MSGLEN_MSGLEN = y.len ∧
      t.fld (Reg.CHK_S_SEQ u.val k.val) F.CHK_S_SEQ_PEND = (if y.pend then 1 else 0) ∧
      (alg ≠ ChkAlg.SHA256 → t.reg (chkState u.val k.val 0) = BitVec.ofNat 64 y.crc) ∧
      (alg = ChkAlg.SHA256 → ∀ i, i < 4 → t.reg (chkState u.val k.val i) =
        BitVec.ofNat 64 ((y.hash.getD (2 * i) 0).toNat * 2 ^ 32 + (y.hash.getD (2 * i + 1) 0).toNat))
    (k.val < 8 → set ≠ ChkSt.BUSY → s.Below Reg.CHK_CMDS 1 →
      (Ends (.init u k) s fun t => ends t ChkSt.OPEN Code.DONE ∧ holds t x.start ∧ Counts s t Reg.CHK_CMDS 1 ∧
        KeepsAllBut (fun a => cmds a ∨ running a) s t) ∧
      (set = ChkSt.OPEN →
        (Ends (.finish u k) s fun t => ends t ChkSt.FINISHED Code.DONE ∧ holds t x.close ∧
          (∀ i, i < 4 → t.reg (chkResult u.val k.val i) = BitVec.ofNat 64 (field x.close.result (8 * i) 8)) ∧
          KeepsAllBut (fun a => cmds a ∨ running a ∨ ∃ i, i < 4 ∧ a = chkResult u.val k.val i) s t) ∧
        (len = 0 → Ends (.update u k len) s fun t => ends t ChkSt.OPEN Code.DONE ∧ KeepsAllBut cmds s t) ∧
        (∀ l o, len ≠ 0 → s.target (s.reg src).toNat len.toNat = .tile l o →
          let begun (fin : Bool) (t : State) : Prop := t.chkSt u.val k.val = ChkSt.BUSY ∧
            t.chkRun u.val k.val = some ⟨len.toNat, fin, none⟩ ∧ KeepsAllBut cmds s t
          Ends (.update u k len) s (begun false) ∧ Ends (.updateFinish u k len) s (begun true))) ∧
      (set ≠ ChkSt.OPEN → ∀ i ∈ [Instr.update u k len, .finish u k, .updateFinish u k len], Ends i s fun t =>
        t.fld st F.CHK_S_STATUS_COMPLETION = Code.REFUSED ∧ t.chkSt u.val k.val = set ∧ KeepsAllBut cmds s t)) ∧
    (8 ≤ k.val ∨ set = ChkSt.BUSY → ∀ i ∈ [Instr.init u k, .update u k len, .finish u k, .updateFinish u k len],
      Ignores i s Reg.CHK_STATUS F.CHK_STATUS_BAD_WRITE) ∧
    (∀ n l o, s.chkRun u.val k.val = some ⟨n, false, none⟩ → 0 < n → s.target (s.reg src).toNat n = .tile l o →
      (s.tmPoison l o n = false → s.Below Reg.CHK_BYTES n → Ends (.updateDone u k) s fun t => ends t ChkSt.OPEN Code.DONE ∧
        holds t ((s.tmBytes l o n).foldl ChkVal.data x) ∧ t.reg src = s.reg src + BitVec.ofNat 64 n ∧ Counts s t Reg.CHK_BYTES n ∧
        KeepsAllBut (fun a => a = st ∨ running a ∨ a = src ∨ a = Reg.CHK_BYTES) s t) ∧
      (s.tmPoison l o n = true → Ends (.updateDone u k) s fun t => ends t ChkSt.OPEN Code.POISONED ∧
        t.on Reg.CHK_STATUS F.CHK_STATUS_POISON_SEEN = true ∧ Posts s t)) ∧
    (s.chkRun u.val k.val = none → NoEffect (.updateDone u k) s) ∧
    (k.val < 8 → set = ChkSt.OPEN → Sets (.chkStateWrite u k 0x20 v) s (Reg.CHK_S_POS u.val k.val) v ∧
      (alg = ChkAlg.CRC32C → Sets (.chkStateWrite u k 0x40 v) s (chkState u.val k.val 0) (v &&& 0xFFFFFFFF))) ∧
    (8 ≤ k.val ∨ set = ChkSt.BUSY → Ignores (.chkStateWrite u k 0x40 v) s Reg.CHK_STATUS F.CHK_STATUS_BAD_WRITE)

/-- Spare tiles, and the fingerprint windows and settings of replay (R421, R422, R424, R425, R440, R442, R447). For every sound
state: SWAP_MIGRATE and SWAP_ABANDON of a logical tile stop its tile at a bundle boundary and put the lowest spare of its die
under test; with no spare they are REFUSED with NO_SPARE and an entry; while one runs, or beyond tile 143, they are ignored with
BAD_WRITE. SELF_TEST_DONE passes the spare, or retires it and tries the next; SWAP_STOP_DONE ends the stop once the matrix queue
is empty, and SWAP_STOP_TIMEOUT turns the swap into an ABANDON. SWAP_COPY_DONE makes the spare back the logical tile with every
register and accumulator of the old one, which is retired, and leaves memory as it is, but for deposits held since, which it
stores, and units that it could not read, which it marks poisoned. RPL_WIN_WRITE starts the load of a window table in IDLE,
PAUSE or REPLAY, WIN_LOAD_DONE takes its valid entries, and RPL_CTRL_WRITE keeps SANDBOX, COMPARE and the ring where the phase
locks them. Concludes that exec answers a next state for SWAP_MIGRATE, SWAP_ABANDON, SELF_TEST_DONE, SWAP_STOP_DONE,
SWAP_STOP_TIMEOUT, SWAP_COPY_DONE, RPL_WIN_WRITE, WIN_LOAD_DONE, RPL_CTRL_WRITE. -/
def Obligations.SparesAndReplay : Prop :=
  ∀ (s : State) (lt : BitVec 8) (v : Word), s.Sound →
    let st := Reg.SPR_STATUS
    let p := s.phys lt.toNat
    let calm := s.path.waiting = [] ∧ s.reds = [] ∧ s.swapWaits = [] ∧ ∀ n, n < 4 → (s.panSlot n).owes = []
    (lt.toNat ≤ 143 → p < 160 → s.on st F.SPR_STATUS_BUSY = false → s.tileSt p = TileSt.RUNNING → s.swapWaits = [] →
      let started (q : Nat) (ab : Bool) (t : State) : Prop := t.tileSt p = TileSt.STOPPED ∧ t.on st F.SPR_STATUS_BUSY = true ∧
        t.swap = some ⟨lt.toNat, p, TileSt.RUNNING, q, false, false, ab, false, s.now, []⟩ ∧
        KeepsAllBut (fun a => a = st ∨ a = Reg.TILE_STATUS p) s t
      let refused (t : State) : Prop := t.tileSt p = TileSt.RUNNING ∧ t.swap = none ∧ Posts s t ∧
        t.fld st F.SPR_STATUS_COMPLETION = Code.REFUSED ∧ t.on st F.SPR_STATUS_NO_SPARE = true ∧ t.on st F.SPR_STATUS_BUSY = false ∧
        KeepsAllBut (fun a => a = st ∨ a = Reg.TILE_STATUS p ∨ a = Reg.SPR_LAST ∨ IsLedger a) s t
      (∀ q, s.spareOf (p / 40) = some q → Ends (.swapMigrate lt) s (started q false) ∧ Ends (.swapAbandon lt) s (started q true)) ∧
      (s.spareOf (p / 40) = none → Ends (.swapMigrate lt) s refused ∧ Ends (.swapAbandon lt) s refused)) ∧
    (143 < lt.toNat ∨ s.on st F.SPR_STATUS_BUSY = true → Ignores (.swapMigrate lt) s st F.SPR_STATUS_BAD_WRITE ∧
      Ignores (.swapAbandon lt) s st F.SPR_STATUS_BAD_WRITE) ∧
    (∀ x, s.swap = some x → x.ltile ≤ 143 → x.old < 160 → x.spare < 160 → x.old ≠ x.spare → calm →
      let becomes (y : Swap) (t : State) : Prop := t.swap = some y ∧ KeepsAllBut (fun _ => False) s t
      (x.tested = false → x.abandon = false → Ends (.selfTestDone true) s (becomes { x with tested := true })) ∧
      (∀ q, x.tested = false → (retireTile x.spare s).spareOf (x.old / 40) = some q → Ends (.selfTestDone false) s fun t =>
        t.ptile x.spare = PtSt.RETIRED ∧ t.swap = some { x with spare := q } ∧
        KeepsAllBut (fun a => a = Reg.FLR_PTILE x.spare ∨ a = Reg.SPR_DIE_SPARES) s t) ∧
      ((s.tile x.old).queue = [] → Ends .swapStopDone s (becomes { x with stopped := true })) ∧
      ((s.tile x.old).queue ≠ [] → NoEffect .swapStopDone s) ∧
      (x.tested = false → x.stopped = false → Ends .swapStopTimeout s (becomes { x with abandon := true })) ∧
      (x.tested = true → x.stopped = true → s.tileSt x.old = TileSt.STOPPED → (s.tile x.old).saving = none → s.Below Reg.SPR_SWAPS 1 → x.was < 6 →
        x.reset = false → x.deposits = [] → Ends (.swapCopyDone true []) s fun t => t.phys x.ltile = x.spare ∧ t.ptile x.spare = PtSt.ACTIVE ∧ t.logical x.spare = x.ltile ∧
          t.ptile x.old = PtSt.RETIRED ∧ t.tileSt x.spare = x.was ∧ t.swap = none ∧ Counts s t Reg.SPR_SWAPS 1 ∧ Posts s t ∧
          t.fld st F.SPR_STATUS_COMPLETION = Code.DONE ∧ t.on st F.SPR_STATUS_BUSY = false ∧
          (∀ n, n < 32 → t.reg (Reg.TILE_SREG x.spare n) = s.reg (Reg.TILE_SREG x.old n)) ∧
          (∀ n, n < 16 → t.reg (Reg.TILE_AREG x.spare n) = s.reg (Reg.TILE_AREG x.old n)) ∧
          (∀ n, n < 4096 → t.reg (Reg.TILE_VREG x.spare n) = s.reg (Reg.TILE_VREG x.old n)) ∧
          t.reg (Reg.TILE_PC x.spare) = s.reg (Reg.TILE_PC x.old) ∧
          (∀ b i j, b < 4 → i < 128 → j < 128 → t.accWord x.spare b i j = s.accWord x.old b i j) ∧ t.tile x.spare = s.tile x.old ∧ SameMemory s t) ∧
      ∀ op o data (unit : BitVec 17), x.tested = true → x.stopped = true → (s.tile x.old).saving = none → x.reset = false →
        x.deposits = [(op, o, data, [])] → o + data.length ≤ tileBytes → (32 * unit.toNat + 32 ≤ o ∨ o + data.length ≤ 32 * unit.toNat) →
        s.logical x.old = x.ltile → s.on Reg.SPR_CTRL F.SPR_CTRL_AUTO = false → s.Below Reg.SPR_TM_UE 1 → Ends (.swapCopyDone true [unit]) s fun t =>
          t.phys x.ltile = x.spare ∧ Stored s t (tileAddr x.ltile o) data ∧ tileAddr x.ltile (32 * unit.toNat) ∈ t.poison ∧
          Counts s t Reg.SPR_TM_UE 1) ∧
    ∀ d : Fin 16,
      let w := Reg.RPL_D_WIN d.val
      let c := Reg.RPL_D_CTRL d.val
      let ring := Reg.RPL_D_RING d.val
      let n := s.fld w F.RPL_D_WIN_COUNT
      let b := s.fld w F.RPL_D_WIN_BASE
      let es := (List.range n).map fun i => s.hbmBytes (b + 32 * i) 32
      (s.replayable d.val = true → v.get F.RPL_D_WIN_COUNT ≤ 1024 → Ends (.rplWinWrite d v) s fun t =>
        t.fld w F.RPL_D_WIN_COUNT = v.get F.RPL_D_WIN_COUNT ∧ t.fld w F.RPL_D_WIN_BASE = v.get F.RPL_D_WIN_BASE / 32 * 32 ∧
        t.on c F.RPL_D_CTRL_LOADING = true ∧ KeepsAllBut (fun a => a = w ∨ a = c) s t) ∧
      (s.replayable d.val = false → Ignores (.rplWinWrite d v) s Reg.RPL_STATUS F.RPL_STATUS_BAD_WRITE ∧
        Ignores (.rplCtrlWrite d 8 v) s Reg.RPL_STATUS F.RPL_STATUS_BAD_WRITE) ∧
      (s.on c F.RPL_D_CTRL_LOADING = true → s.Steady [(b, 32 * n)] → (∀ e ∈ es, windowOk e = true) → Ends (.winLoadDone d) s fun t =>
        (t.replay d.val).windows = (es.filter fun e => bit (field e 16 2) 15).map (fun e =>
          (⟨field e 0 8, field e 8 8, field e 16 2 % 4096, field e 18 1, field e 20 2⟩ : FpWindow)) ∧
        t.on c F.RPL_D_CTRL_LOADING = false ∧ KeepsData (fun a => a = c ∨ IsHitMiss a) s t) ∧
      (s.on c F.RPL_D_CTRL_LOADING = false → NoEffect (.winLoadDone d) s) ∧
      (s.restful d.val = true → s.harvest = none → Ends (.rplCtrlWrite d 0 v) s fun t =>
        (∀ f ∈ [F.RPL_D_CTRL_EN, F.RPL_D_CTRL_SANDBOX, F.RPL_D_CTRL_COMPARE], t.fld c f = v.get f) ∧ KeepsAllBut (fun a => a = c) s t) ∧
      (s.replayable d.val = false → v.get F.RPL_D_CTRL_SANDBOX ≠ s.fld c F.RPL_D_CTRL_SANDBOX → s.harvest = none → Ends (.rplCtrlWrite d 0 v) s fun t =>
        t.fld c F.RPL_D_CTRL_EN = v.get F.RPL_D_CTRL_EN ∧ (∀ f ∈ [F.RPL_D_CTRL_SANDBOX, F.RPL_D_CTRL_COMPARE], t.fld c f = s.fld c f) ∧
        t.on Reg.RPL_STATUS F.RPL_STATUS_BAD_WRITE = true ∧ KeepsAllBut (fun a => a = c ∨ a = Reg.RPL_STATUS) s t) ∧
      (s.replayable d.val = true → v.get F.RPL_D_RING_SIZE ≤ 10 → Ends (.rplCtrlWrite d 8 v) s fun t =>
        t.fld ring F.RPL_D_RING_SIZE = v.get F.RPL_D_RING_SIZE ∧ t.fld ring F.RPL_D_RING_BASE = v.get F.RPL_D_RING_BASE / 2 ^ 18 * 2 ^ 18 ∧
        KeepsAllBut (fun a => a = ring) s t)

/-- Comets that arrive: their checks, slots, groups and recovery, and the answers to MERGED and REQUEST (R458, R459, R460, R461,
R462, R464, R465, R466, R467). For every sound state: with EN 0, or for another kind's row, nothing happens. A comet with a
wrong CRC, job, site or rank, a reserved kind or an unknown site is discarded and counted; a payload comet of an outer step
below NEXT_J is discarded with LATE. In plain memory a good payload comet stands, header and payload, in its slot, exactly those
bytes change, and it joins its group; the comet that completes its difference makes a JOINING site ACTIVE and raises ARRIVED_J;
a parity comet that completes a group rebuilds the missing data payload. MERGED raises FREE_SEQ, and a difference that everyone
has merged is dropped. REQUEST sends the group again with the next SEQ while its difference is held, and is otherwise only
counted; REQUEST_TIMER asks for a group that is begun and incomplete, and for no other. Concludes that exec answers a next state
for DATA, PARITY, MERGED, REQUEST, REQUEST_TIMER. -/
def Obligations.CometReception : Prop :=
  ∀ (s : State) (c : Comet) (sl imm : BitVec 32), s.Sound →
    let p := c.srcSite.toNat
    let j := c.outerJ.toNat
    let en := s.on Reg.COM_CTRL F.COM_CTRL_EN = true
    let rx := Reg.COM_RX_COMETS
    let known (seq : Nat) := c.crc.toNat = cometCrc c seq s.site c.rank.toNat ∧ c.job = s.reg Reg.CHK_JOB ∧ c.dstSite.toNat = s.site ∧
      (rankOfDevice s.comDom s.deviceId s).2 = some c.rank.toNat ∧ s.siteSt p ≠ SiteSt.ABSENT
    let payloads : List (Instr × Nat) := [(.data sl imm c, Kind.DATA), (.parity sl imm c, Kind.PARITY)]
    let rows : List (Instr × Nat) := payloads ++ [(.merged c, Kind.MERGED), (.request c, Kind.REQUEST)]
    let total := s.fld Reg.COM_INBUF F.COM_INBUF_GIB * 0x40000000 / slotStride
    let placed := s.inSlots p ≠ 0 ∧ sl.toNat = s.inOff p + imm.toNat % s.inSlots p
    let slot := s.inAddr sl.toNat
    let reads (t : State) (data : List Byte) : Prop := ∀ b, t.hbmByte b =
      if slot ≤ b ∧ b < slot + 64 then (cometHead c ++ bytesOf 4 c.crc.toNat).getD (b - slot) 0
      else if slot + 0x1000 ≤ b ∧ b < slot + slotStride then data.getD (b - (slot + 0x1000)) 0 else s.hbmByte b
    let lands := s.Bare ∧ s.poison = [] ∧ sl.toNat < total ∧ slot + slotStride ≤ hbmEnd ∧ c.payload.length = cometBytes ∧
      ∀ h, h < 2 → s.Below (Reg.BC_H_WRITEBACK h) (2 ^ 20) ∧ s.Below (Reg.BC_H_HIT h) (2 ^ 20)
    let cacheRegs (a : Nat) : Prop := IsHitMiss a ∨ ∃ h, h < 2 ∧ a = Reg.BC_H_WRITEBACK h
    (∀ e ∈ rows, (¬ en ∨ (c.kind.toNat < 4 ∧ c.kind.toNat ≠ e.2) → NoEffect e.1 s) ∧
      (en → s.Below rx 1 → s.Below Reg.COM_DISCARDS 1 → (c.kind.toNat = e.2 ∨ 4 ≤ c.kind.toNat) →
        let dropped (t : State) : Prop := Counts s t rx 1 ∧ Counts s t Reg.COM_DISCARDS 1 ∧ t.far = s.far ∧ t.out = s.out ∧ t.acc = s.acc
        let bad := 4 ≤ c.kind.toNat ∨ if e.2 < 2 then ¬ (placed ∧ known imm.toNat) ∨ c.payload.length ≠ cometBytes
          else ¬ known c.seq.toNat ∨ c.payload ≠ []
        (bad → (e.2 < 2 → total ≤ sl.toNat) → Ends e.1 s fun t => dropped t ∧ KeepsAllBut (fun a => a = rx ∨ a = Reg.COM_DISCARDS) s t) ∧
        (bad → e.2 < 2 → lands → Ends e.1 s fun t => dropped t ∧ reads t c.payload ∧
          OnlyRegs (fun a => a = rx ∨ a = Reg.COM_DISCARDS ∨ cacheRegs a) s t))) ∧
    (en → lands → placed → known imm.toNat → c.seq = imm → s.Below rx 1 →
      let holds (t : State) (data : List Byte) : Prop := reads t data ∧ t.acc = s.acc ∧ t.out = s.out ∧ Counts s t rx 1
      let regs (a : Nat) : Prop := a = rx ∨ a = Reg.COM_LEVELS ∨ a = Reg.COM_SITE_STATUS p ∨ cacheRegs a
      (∀ e ∈ payloads, c.kind.toNat = e.2 → j < s.nextJ p → s.Below Reg.COM_DISCARDS 1 → Ends e.1 s fun t => holds t c.payload ∧
        Counts s t Reg.COM_DISCARDS 1 ∧ t.on Reg.COM_STATUS F.COM_STATUS_LATE = true ∧
        t.far.ins = s.far.ins.filter (fun d => !(d.site == p && decide (d.j < s.nextJ p))) ∧
        OnlyRegs (fun a => regs a ∨ a = Reg.COM_DISCARDS ∨ a = Reg.COM_STATUS) s t) ∧
      (s.nextJ p ≤ j →
      let arrives (t : State) : Prop := t.siteSt p = SiteSt.ACTIVE ∧ t.nextJ p = j ∧ t.arrivedJ p = max j (s.arrivedJ p)
      let due := 1 ≤ j ∧ (s.siteSt p = SiteSt.JOINING ∨ (s.siteSt p = SiteSt.ACTIVE ∧ s.nextJ p = j))
      (∀ e ∈ payloads, c.kind.toNat = e.2 → (∀ d ∈ s.far.ins, ¬ (d.site = p ∧ d.j = j)) → 2 ≤ c.k.toNat → Ends e.1 s fun t =>
        holds t c.payload ∧ OnlyRegs regs s t ∧ t.far.ins = s.far.ins ++
          [⟨p, j, c.total.toNat, c.bytes.toNat, [⟨c.group.toNat, c.k.toNat, [⟨c.index.toNat, c.seq.toNat, slot⟩], false⟩]⟩]) ∧
      (c.kind.toNat = Kind.DATA → (∀ d ∈ s.far.ins, d.site ≠ p) → c.k = 1 → c.total = 1 → c.group = 0 → c.index = 0 → due →
        Ends (.data sl imm c) s fun t => holds t c.payload ∧ arrives t ∧ OnlyRegs (fun a => regs a ∨ a = Reg.COM_SITE_CTRL p) s t ∧
          t.far.ins = s.far.ins ++ [⟨p, j, 1, c.bytes.toNat, [⟨0, 1, [⟨0, c.seq.toNat, slot⟩], true⟩]⟩]) ∧
      ∀ q a d1, c.kind.toNat = Kind.PARITY → s.far.ins = [⟨p, j, 2, c.bytes.toNat, [⟨0, 2, [⟨0, q, a⟩], false⟩]⟩] → c.group = 0 → c.k = 2 →
        c.index = 2 → due → (a + slotStride ≤ slot ∨ slot + slotStride ≤ a) → a + slotStride ≤ hbmEnd → d1.length = cometBytes →
        c.payload = parityOf 0 [s.hbmBytes (a + 0x1000) cometBytes, d1] → s.Below Reg.COM_RECOVERED 1 → Ends (.parity sl imm c) s fun t =>
          holds t d1 ∧ arrives t ∧ Counts s t Reg.COM_RECOVERED 1 ∧
          OnlyRegs (fun r => regs r ∨ r = Reg.COM_SITE_CTRL p ∨ r = Reg.COM_RECOVERED) s t ∧
          t.far.ins = [⟨p, j, 2, c.bytes.toNat, [⟨0, 2, [⟨0, q, a⟩, ⟨1, c.seq.toNat, slot⟩], true⟩]⟩])) ∧
    (en → known c.seq.toNat → c.payload = [] → s.Below rx 1 → s.far.ctl = [] →
      (∀ o : OutDiff, c.kind.toNat = Kind.MERGED → s.far.outs = [o] → o.j = j → o.started = true → o.sites = [⟨p, [], none, false⟩] →
        Ends (.merged c) s fun t => t.far.frees = Store.update (fun _ => 0) s.far.frees p (max (s.freeSeq p) c.seq.toNat) ∧
          t.far.outs = (if o.mine then [] else [{ o with sites := [⟨p, [], none, true⟩] }]) ∧ t.out = s.out ∧
          KeepsAllBut (fun a => a = rx ∨ a = Reg.COM_LEVELS) s t) ∧
      (c.kind.toNat = Kind.REQUEST → (∀ o ∈ s.far.outs, o.j ≠ j) → Ends (.request c) s fun t => t.far = s.far ∧ t.out = s.out ∧
        KeepsAllBut (fun a => a = rx) s t) ∧
      ∀ (o : OutDiff) l, c.kind.toNat = Kind.REQUEST → s.far.outs = [o] → o.j = j → o.started = true → o.sites = [⟨p, [], none, false⟩] →
        0 < o.bytes → o.bytes ≤ cometBytes → 0 < o.k → (c.group = 0 ∨ c.group.toNat = everyGroup) → s.fatal = false → s.outerEvery s.comDom ≠ 0 → s.memRefuses = false →
        s.fld Reg.COM_CTRL F.COM_CTRL_M = 0 → s.lanesOf p = [l] → 0 < s.remoteSlots p → s.comSeq p < s.freeSeq p + s.remoteSlots p → s.Below Reg.COM_TX_COMETS 1 →
        s.Below Reg.COM_RESENDS 1 → Ends (.request c) s fun t =>
          t.out = s.out ++ [.comet l (some (s.remoteBase p + s.comSeq p % s.remoteSlots p * slotStride))
            (mkComet s Kind.DATA p j (s.comSeq p) 0 0 1 0 1 o.bytes (s.dataPayload o 0))] ∧
          t.far.seqs = Store.update (fun _ => 0) s.far.seqs p ((s.comSeq p + 1) % 2 ^ 32) ∧ t.far.outs = [o] ∧
          Counts s t Reg.COM_TX_COMETS 1 ∧ Counts s t Reg.COM_RESENDS 1 ∧
          KeepsAllBut (fun a => a = rx ∨ a = Reg.COM_TX_COMETS ∨ a = Reg.COM_RESENDS ∨ a = Reg.COM_LEVELS) s t) ∧
    ∀ (site : Fin 64) (step group : BitVec 32),
      let g := (s.far.ins.find? fun d => d.site = site.val ∧ d.j = step.toNat).bind fun d => d.groups.find? (·.group = group.toNat)
      (∀ x l ls, en → s.fatal = false → s.outerEvery s.comDom ≠ 0 → s.far.ctl = [] → s.far.outs = [] → g = some x → x.complete = false → x.comets ≠ [] →
        s.lanesOf site.val = l :: ls → s.Below Reg.COM_TX_COMETS 1 → Ends (.requestTimer site step group) s fun t =>
          t.out = s.out ++ [.comet l none (mkComet s Kind.REQUEST site.val step.toNat 0 group.toNat 0 0 0 0 0 [])] ∧ t.far = s.far ∧
          KeepsAllBut (fun a => a = Reg.COM_TX_COMETS ∨ a = Reg.COM_LEVELS) s t) ∧
      ((∀ x, g = some x → x.complete = true ∨ x.comets = []) → NoEffect (.requestTimer site step group) s)

/-- The post-pass, the outer gate, the commands of the comet engine, and its registers (R448, R451, R455, R466, R468, R471, R472,
R473, R474). For every sound state: COMET_POST_PASS of an entry at a step that is neither outer nor a merge step copies the
entry's anchor and bittern (here one block, in plain memory) to the slots of the other side, changes no other byte, and makes
the entry UPDATED; at a merge or outer step the entry becomes UPDATED where its work meets no failure. OUTER_GATE in OUTER
freezes the merge set, whose members are the own difference and those of every ACTIVE site from NEXT_J to ARRIVED_J, and raises
READY; while a site is overdue it does nothing, and OUTER_GRACE_EXPIRY flags and posts that site. Outside IDLE and PAUSE the
three commands answer REFUSED; RELOAD takes NEXT_J of every site from the committed merge record and empties both buffers, REGEN
forms the difference again, and REQUEST_ALL asks each ACTIVE site for what is due. COM_CTRL keeps its locked fields, and the
tables their values, with BAD_WRITE. Concludes that exec answers a next state for COMET_POST_PASS, OUTER_GRACE_EXPIRY,
OUTER_GATE, RELOAD, REGEN, REQUEST_ALL, COM_WRITE. -/
def Obligations.OuterSteps : Prop :=
  ∀ (s : State) (k : Fin 4096) (v : Word), s.Sound →
    let n := k.val
    let d := s.comDom
    let st := Reg.COM_STATUS
    let done (t : State) (code : Nat) : Prop := t.fld st F.COM_STATUS_COMPLETION = code
    (s.upd n = none ∨ s.comIndex n = none → NoEffect (.cometPostPass k) s) ∧
    (∀ r i, s.upd n = some r → s.comIndex n = some i → r.started = false → s.runSt n = RunSt.RUNNING → s.fatal = false →
      s.comOn r.domain = true → s.path.waiting = [] → s.path.held = [] → s.swap = none →
      let ce := s.comEntry i
      let e := readShard r.entry
      let h := s.outerEvery r.domain
      let at' := s.comEntryAddr i
      let cur := s.cur n
      let updated (t : State) : Prop := t.runSt n = RunSt.UPDATED ∧ t.fld (Reg.UPD_COMMIT n) F.UPD_COMMIT_CODE = r.code
      ce.rsv = false → streamsOk ce e = true → e.pub = false → r.code ≤ 10 →
      (let a := slotOf ce.anchor cur
       let a' := slotOf ce.anchor (1 - cur)
       let b := slotOf ce.cb cur
       let b' := slotOf ce.cb (1 - cur)
       let apart (x y : Nat) : Prop := x + 256 ≤ y ∨ y + 256 ≤ x
       s.Bare → s.poison = [] → i ≠ 0 → outerStep h r.step = false → mergeStep h r.step = false → e.n = 32 → at' + 64 ≤ hbmEnd →
       (∀ x ∈ [a, a', b, b'], x % 64 = 0 ∧ x + 128 ≤ hbmEnd ∧ ∀ w : Bool, (s.windows (s.ctxPart e.ctx) x (if x = a ∨ x = a' then 128 else 33) w).length = 1) →
       apart a' a → apart a' b → apart a' b' → apart b' a → apart b' b → apart a b → apart (s.shardAddr n) a' → apart (s.shardAddr n) b' →
       Ends (.cometPostPass k) s fun t => updated t ∧ t.acc = s.acc ∧
         (∀ x, t.hbmByte x = if a' ≤ x ∧ x < a' + 128 then s.hbmByte (a + (x - a')) else if b' ≤ x ∧ x < b' + 33 then s.hbmByte (b + (x - b'))
           else s.hbmByte x) ∧
         OnlyRegs (fun x => x = Reg.UPD_COMMIT n ∨ IsHitMiss x ∨ x = Reg.BC_STATUS) s t) ∧
      (let y := postPassWork i ce e cur r.step (farRead at' 64 (RunEnv.fresh s)).1.s
       let x := when (decide (i = 0) && mergeStep h r.step) (setFar fun f => { f with recorded := true }) y.1.s
       let z := unitWrite (x.outAddr 0) y.2 x
       let fine (u : State) : Prop := u.path.owed = [] ∧ u.opHeld u.path.op = false ∧ u.upd n = some r ∧ u.runSt n = RunSt.RUNNING
       s.Steady [(at', 64)] → s.shardClears e = false → y.1.fail = none → fine x →
       (outerStep h r.step = false → Ends (.cometPostPass k) s fun t => updated t ∧
         (mergeStep h r.step = true → i = 0 → t.far.recorded = true) ∧ KeepsAllBut (fun z => z = Reg.UPD_COMMIT n) x t) ∧
       (outerStep h r.step = true → (r.step + 1) / h < 2 ^ 32 → s.comCount = 1 → i = 0 → ceilDiv s.diffBytes cometBytes = 1 →
         s.usedUnits = [] → 0 < s.outUnits → x.comCount = 1 → x.usedUnits = [] → 0 < x.outUnits → 0 < y.2.length → y.2.length ≤ cometBytes →
         fine z → Ends (.cometPostPass k) s fun t => updated t ∧ t.fld Reg.COM_OUTER F.COM_OUTER_J = (r.step + 1) / h ∧
           (∃ o ∈ t.far.outs, o.j = (r.step + 1) / h ∧ o.bytes = y.2.length ∧ o.units = [0] ∧ o.started = false ∧ o.mine = false) ∧
           KeepsAllBut (fun r => r = Reg.UPD_COMMIT n ∨ r = Reg.COM_OUTER ∨ r = Reg.COM_LEVELS) z t))) ∧
    (s.comOn d = true → s.phase d = Phase.OUTER → outerStep (s.outerEvery d) (tideStep (s.tide d)) = true → s.fatal = false →
      let j := (tideStep (s.tide d) + 1) / s.outerEvery d
      let due := tideWord (tideStep (s.tide d) + 1) Phase.FLOW 0
      let ready := Reg.TIDE_READY d
      let pausing := s.role d = Role.ROOT ∧ s.on Reg.COM_CTRL F.COM_CTRL_AUTO_PAUSE = true
      (s.overdueSites j = [] → ¬ pausing → NoEffect .outerGraceExpiry s) ∧
      (s.overdueSites j = [] → pausing → Calm s d → Ends .outerGraceExpiry s fun t =>
        t.tide d = tideWord (tideStep (s.tide d)) Phase.PAUSE Phase.OUTER) ∧
      (s.overdueSites j = [] → (∀ m, s.far.frozen ≠ some (j, m)) → Ends .outerGate s fun t =>
        (∃ m, t.far.frozen = some (j, m) ∧ ∀ i p, (i, p) ∈ m ↔ p < 64 ∧ ((p = s.site ∧ i = j) ∨
          (p ≠ s.site ∧ s.siteSt p = SiteSt.ACTIVE ∧ 1 ≤ i ∧ s.nextJ p ≤ i ∧ i ≤ s.arrivedJ p ∧ i ≤ j))) ∧
        t.reg ready = (if (s.reg ready).toNat < due.toNat then due else s.reg ready) ∧ KeepsAllBut (fun a => a = ready) s t) ∧
      (∀ m, s.far.frozen = some (j, m) → NoEffect .outerGate s) ∧
      ∀ p, s.overdueSites j = [p] → NoEffect .outerGate s ∧
        ((p, j) ∉ s.far.overdue → ¬ pausing → Ends .outerGraceExpiry s fun t =>
          t.reg Reg.COM_OVERDUE = s.reg Reg.COM_OVERDUE ||| BitVec.ofNat 64 (2 ^ p) ∧ t.far.overdue = s.far.overdue ++ [(p, j)] ∧ Posts s t ∧
          KeepsAllBut (fun a => a = Reg.COM_OVERDUE ∨ IsLedger a) s t)) ∧
    (s.restful d = false → ∀ i ∈ [Instr.reload, .regen, .requestAll], Ends i s fun t => done t Code.REFUSED ∧ t.far = s.far ∧
      KeepsAllBut (fun a => a = st) s t) ∧
    (s.restful d = true →
      (let k0 := (s.comEntry 0).k
       let a := s.fld (Reg.COM_MREC (s.cur k0)) F.COM_MREC_ADDR * 512
       s.Steady [(a, 512)] → Ends .reload s fun t => done t Code.DONE ∧
         (∀ p, p < 64 → t.nextJ p = field (s.hbmBytes a 512) (8 * p) 4 ∧ t.arrivedJ p = t.nextJ p - 1) ∧
         t.far.outs = [] ∧ t.far.ins = [] ∧ t.far.building = none ∧ t.far.frozen = none ∧ t.fld Reg.COM_LEVELS F.COM_LEVELS_OUT = 0 ∧
         t.fld Reg.COM_LEVELS F.COM_LEVELS_IN = 0 ∧
         KeepsData (fun r => r = st ∨ r = Reg.COM_LEVELS ∨ IsHitMiss r ∨ ∃ p, p < 64 ∧ r = Reg.COM_SITE_STATUS p) s t) ∧
      (let ce := s.comEntry 0
       let e := readShard (s.shardEntry ce.k)
       let step := s.fld (Reg.UPD_COMMIT ce.k) F.UPD_COMMIT_STEP
       let h := s.outerEvery d
       let cur := s.cur ce.k
       let y := compressEntry ce e step (((e.streams[ce.mstream]?).map (·.readAddr cur)).getD 0) (slotOf ce.anchor cur) (slotOf ce.cb (1 - cur))
         (slotOf ce.cb cur) false (RunEnv.fresh s)
       let x := y.1.s
       let z := unitWrite (x.outAddr 0) y.2 x
       (outerStep h step = false → Ends .regen s fun t => done t Code.REFUSED ∧ t.far = s.far ∧ KeepsAllBut (fun a => a = st) s t) ∧
       (outerStep h step = true → (step + 1) / h < 2 ^ 32 → s.comCount = 1 → ceilDiv s.diffBytes cometBytes = 1 → s.usedUnits = [] →
         0 < s.outUnits → ce.rsv = false → streamsOk ce e = true → y.1.fail = none → x.comCount = 1 → x.usedUnits = [] → 0 < x.outUnits →
         z.path.owed = [] → 0 < y.2.length → y.2.length ≤ cometBytes → Ends .regen s fun t => done t Code.DONE ∧ t.fld Reg.COM_OUTER F.COM_OUTER_J = (step + 1) / h ∧
           (∃ o ∈ t.far.outs, o.j = (step + 1) / h ∧ o.bytes = y.2.length ∧ o.units = [0] ∧ o.started = false) ∧
           KeepsAllBut (fun r => r = st ∨ r = Reg.COM_OUTER ∨ r = Reg.COM_LEVELS) z t)) ∧
      (∀ p l ls, s.on Reg.COM_CTRL F.COM_CTRL_EN = true → s.fatal = false → s.far.ctl = [] → s.far.outs = [] → s.sitesIn [SiteSt.ACTIVE] = [p] →
        let step := max (tideStep (s.tide d)) (s.fld (Reg.UPD_COMMIT (s.comEntry 0).k) F.UPD_COMMIT_STEP)
        let top := (step + 1) / s.outerEvery d + s.fld Reg.COM_CTRL F.COM_CTRL_W
        s.outerEvery d ≠ 0 → max 1 (s.nextJ p) = top → s.lanesOf p = l :: ls → s.Below Reg.COM_TX_COMETS 1 → Ends .requestAll s fun t => done t Code.DONE ∧
          t.out = s.out ++ [.comet l none (mkComet s Kind.REQUEST p top 0 everyGroup 0 0 0 0 0 [])] ∧ t.far = s.far ∧
          KeepsAllBut (fun a => a = st ∨ a = Reg.COM_TX_COMETS ∨ a = Reg.COM_LEVELS) s t)) ∧
    (let c := Reg.COM_CTRL
     let legal := (v.get F.COM_CTRL_RND = 0 ∨ v.get F.COM_CTRL_RND = 2) ∧ v.get F.COM_CTRL_W ≤ 4 ∧ v.get F.COM_CTRL_M ≤ 8 ∧ v.get F.COM_CTRL_K_FULL ≤ 31 ∧
       1 ≤ v.get F.COM_CTRL_KEEP ∧ v.get F.COM_CTRL_KEEP ≤ 256 ∧ 1 ≤ v.get F.COM_CTRL_GRACE_MS ∧ 1 ≤ v.get F.COM_CTRL_RESEND_MS
     let tables := [Reg.COM_TABLE, Reg.COM_OUTBUF, Reg.COM_INBUF, Reg.COM_PEERTAB, Reg.COM_MREC 0, Reg.COM_MREC 1]
     (s.restful d = true → legal → (s.on c F.COM_CTRL_EN = true ∨ v.get F.COM_CTRL_EN = 0) → s.far.ctl = [] → s.far.outs = [] →
       Ends (.comWrite 0x008 v) s fun t => (∀ f ∈ [F.COM_CTRL_EN, F.COM_CTRL_AUTO_PAUSE, F.COM_CTRL_RND, F.COM_CTRL_DOMAIN, F.COM_CTRL_SITE,
         F.COM_CTRL_W, F.COM_CTRL_M, F.COM_CTRL_K_FULL, F.COM_CTRL_KEEP, F.COM_CTRL_GRACE_MS, F.COM_CTRL_RESEND_MS], t.fld c f = v.get f) ∧
         t.far = s.far ∧ t.out = s.out ∧ KeepsAllBut (fun a => a = c ∨ a = Reg.COM_LEVELS) s t) ∧
     (s.restful d = true → legal → s.on c F.COM_CTRL_EN = false → v.get F.COM_CTRL_EN = 1 → s.far.ctl = [] → s.far.outs = [] →
       s.Steady [(s.fld Reg.COM_PEERTAB F.COM_PEERTAB_ADDR * 32, 2048)] → Ends (.comWrite 0x008 v) s fun t => t.on c F.COM_CTRL_EN = true ∧
         t.far.peers = s.hbmBytes (s.fld Reg.COM_PEERTAB F.COM_PEERTAB_ADDR * 32) 2048 ∧
         KeepsData (fun a => a = c ∨ a = Reg.COM_LEVELS ∨ IsHitMiss a) s t) ∧
     (s.restful d = false → legal → s.far.ctl = [] → s.far.outs = [] → v.get F.COM_CTRL_SITE ≠ s.fld c F.COM_CTRL_SITE →
       Ends (.comWrite 0x008 v) s fun t => (∀ f ∈ [F.COM_CTRL_EN, F.COM_CTRL_DOMAIN, F.COM_CTRL_SITE], t.fld c f = s.fld c f) ∧
         t.fld c F.COM_CTRL_M = v.get F.COM_CTRL_M ∧ t.on st F.COM_STATUS_BAD_WRITE = true ∧
         KeepsAllBut (fun a => a = c ∨ a = st ∨ a = Reg.COM_LEVELS) s t) ∧
     (∀ off : BitVec 12, 0x120000 + off.toNat ∈ tables → s.restful d = false → Ignores (.comWrite off v) s st F.COM_STATUS_BAD_WRITE) ∧
     (s.restful d = true → v.get F.COM_TABLE_COUNT ≤ 4096 → Ends (.comWrite 0x010 v) s fun t =>
       t.comCount = v.get F.COM_TABLE_COUNT ∧ t.fld Reg.COM_TABLE F.COM_TABLE_BASE = v.get F.COM_TABLE_BASE ∧
       KeepsAllBut (fun a => a = Reg.COM_TABLE) s t) ∧
     (∀ p : Fin 64, v.get F.COM_SITE_CTRL_STATE = SiteSt.ABSENT → s.far.ctl = [] → s.far.outs = [] → s.far.frozen = none →
       Ends (.comWrite (BitVec.ofNat 12 (0x100 + 0x10 * p.val)) v) s fun t => t.siteSt p.val = SiteSt.ABSENT ∧
         t.fld (Reg.COM_SITE_CTRL p.val) F.COM_SITE_CTRL_SITE_W = v.get F.COM_SITE_CTRL_SITE_W ∧
         t.far.ins = s.far.ins.filter (fun x => x.site ≠ p.val) ∧ KeepsAllBut (fun a => a = Reg.COM_SITE_CTRL p.val ∨ a = Reg.COM_LEVELS) s t))

/-- Contexts: creation, reset, destruction, quarantine, partition reset and FLR (R475, R476, R477, R488, R490, R491, R500, R507).
For every sound state: CREATE of an ABSENT context in a valid partition that holds its save area makes it ACTIVE with the epoch
given, stopped and with no credit, and is otherwise REFUSED. CTX_RESET and DESTROY of a live context stop it, raise its epoch,
put it in RESETTING, discard its combined writes and idle its tiles; they stay busy until RESET_DRAIN_DONE, which makes it
ACTIVE, or ABSENT after DESTROY. QUARANTINE of an ACTIVE context holds its queue and sends QVEC. PRT_RESET and RESET_ESCALATE
reset every context of the partition at once with an entry. A command while one runs is ignored with BAD_WRITE. FLR disables the
queues of its function's contexts and resets the present ones, and touches no other. Concludes that exec answers a next state
for CREATE, CTX_RESET, DESTROY, QUARANTINE, PRT_RESET, RESET_DRAIN_DONE, RESET_ESCALATE, FLR. -/
def Obligations.ContextLifecycle : Prop :=
  ∀ (s : State) (c : BitVec 12) (part : Fin 16) (ep : BitVec 8), s.Sound →
    let n := c.toNat
    let q := s.ctxPart n
    let st := Reg.PRT_STATUS
    let idle := s.on st F.PRT_STATUS_CMD_BUSY = false
    let still := s.path.waiting = [] ∧ s.reds = []
    let calm := still ∧ s.swap = none ∧ ∀ p, p < 256 → s.stgState p = StgSt.DISABLED
    let ended (t : State) (code : Nat) : Prop := t.fld st F.PRT_STATUS_COMPLETION = code ∧ t.on st F.PRT_STATUS_CMD_BUSY = false ∧ t.prtRun = none
    let refused (t : State) : Prop := ended t Code.REFUSED ∧ KeepsAllBut (fun a => a = st) s t
    let live := s.ctxState n = CtxState.ACTIVE ∨ s.ctxState n = CtxState.QUARANTINED
    let next := (s.epoch n + 1) % 256
    let own (a : Nat) : Prop := a = Reg.CTX_CTRL n ∨ a = Reg.CTX_STATUS n
    let others (t : State) : Prop := ∀ x, x < 4096 → x ≠ n → t.ctxState x = s.ctxState x ∧ t.epoch x = s.epoch x
    let restarted (t : State) : Prop := t.ctxState n = CtxState.ACTIVE ∧ t.epoch n = next ∧ t.on (Reg.CTX_CTRL n) F.CTX_CTRL_RUN = false ∧
      Posts s t ∧ others t ∧ (∀ a, t.byte a = s.byte a) ∧ t.acc = s.acc
    (idle →
      (let ok := s.ctxState n = CtxState.ABSENT ∧ s.on (Reg.PRT_CTRL part.val) F.PRT_CTRL_VALID = true ∧ s.saveAreaOk part.val n = true
       (ok → Ends (.create c part ep) s fun t => ended t Code.DONE ∧ t.ctxState n = CtxState.ACTIVE ∧ t.epoch n = ep.toNat ∧ t.ctxPart n = part.val ∧
         t.on (Reg.CTX_CTRL n) F.CTX_CTRL_RUN = false ∧ t.credit n = 0 ∧ t.schedulable n = false ∧ t.ctxDomain n = s.ctxDomain n ∧
         KeepsAllBut (fun a => own a ∨ a = Reg.CTX_CREDIT n ∨ a = st) s t) ∧
       (¬ ok → Ends (.create c part ep) s refused)) ∧
      (¬ live → Ends (.ctxReset c) s refused ∧ Ends (.destroy c) s refused) ∧
      (let resets (k : Nat) (t : State) : Prop := t.ctxState n = CtxState.RESETTING ∧ t.epoch n = next ∧ t.on (Reg.CTX_CTRL n) F.CTX_CTRL_RUN = false ∧
         t.schedulable n = false ∧ t.on st F.PRT_STATUS_CMD_BUSY = true ∧ t.prtRun = some ⟨k, n⟩ ∧
         (k = 3 → (t.ctx n).destroying = true) ∧ t.path.wcb = s.path.wcb.filter (fun w => w.ctx ≠ n) ∧
         (∀ a, t.byte a = s.byte a) ∧ t.acc = s.acc ∧ t.out = s.out ∧ OnlyRegs (fun a => own a ∨ a = st ∨ a = Reg.BC_STATUS) s t
       let empties (t : State) : Prop := t.resident n = false ∧ ∀ p ∈ (s.partTiles q).map s.phys, p < 160 → s.tileCtx p = some n →
         t.tileSt p = TileSt.IDLE ∧ t.tileCtx p = none ∧ t.tile p = TileState.init
       live → calm → s.queues = [] → s.runs = [] → s.checks = [] →
         (s.resident n = false → (s.part q).placing ≠ some n → (∀ p ∈ (s.partTiles q).map s.phys, s.tileCtx p ≠ some n) → s.path.held = [] →
           Ends (.ctxReset c) s (resets 2) ∧ Ends (.destroy c) s (resets 3)) ∧
         Ends (.ctxReset c) s empties ∧ Ends (.destroy c) s empties) ∧
      (let host := Reg.CTX_HOST n
       let f := s.fld host F.CTX_HOST_FUNC
       s.ctxState n = CtxState.ACTIVE → s.tilesOf n = [] → s.resident n = false → s.fld host F.CTX_HOST_QVEC < (if f = 0 then 2048 else 64) →
         Ends (.quarantine c) s fun t => ended t Code.DONE ∧ t.ctxState n = CtxState.QUARANTINED ∧
           t.fld (Reg.CTX_STATUS n) F.CTX_STATUS_QCAUSE = 7 ∧ t.schedulable n = false ∧ t.epoch n = s.epoch n ∧
           t.qState n = (if s.qState n = QState.RUNNING then QState.HELD else s.qState n) ∧
           t.out = s.out ++ [.msix f (s.fld host F.CTX_HOST_QVEC)] ∧ KeepsAllBut (fun a => own a ∨ a = st ∨ a = Reg.Q_STATUS n) s t) ∧
      (s.ctxState n ≠ CtxState.ACTIVE → Ends (.quarantine c) s refused) ∧
      (s.on (Reg.PRT_CTRL part.val) F.PRT_CTRL_VALID = false → still → Ends (.prtReset part) s refused) ∧
      (s.on (Reg.PRT_CTRL part.val) F.PRT_CTRL_VALID = true → still →
        ((∀ x, x < 4096 → s.present x = true → s.ctxPart x ≠ part.val) → Ends (.prtReset part) s fun t =>
          ended t Code.DONE ∧ KeepsAllBut (fun a => a = st) s t) ∧
        (calm → q = part.val → s.present n = true → (∀ x, x < 4096 → s.present x = true → s.ctxPart x = part.val → x = n) →
          (s.ctx n).destroying = false → Ends (.prtReset part) s fun t => ended t Code.DONE ∧ restarted t))) ∧
    (¬ idle → still → ∀ i ∈ [Instr.create c part ep, .ctxReset c, .destroy c, .quarantine c, .prtReset part], Ignores i s st F.PRT_STATUS_BAD_WRITE) ∧
    (s.ctxState n = CtxState.RESETTING → s.opsInFlight n = 0 → still → (∀ k, k < 1024 → s.queueCtx k ≠ n) → s.qWaiting n = 0 → (s.hostQ n).ops = [] →
      Ends (.resetDrainDone c) s fun t =>
        t.ctxState n = (if (s.ctx n).destroying then CtxState.ABSENT else CtxState.ACTIVE) ∧ t.credit n = 0 ∧ t.ctx n = CtxExtra.init ∧
        t.epoch n = s.epoch n ∧ t.path = { s.path with held := s.path.held.filter (fun w => w.ctx ≠ n) } ∧
        t.qState n = (if s.qState n = QState.DISABLED then QState.DISABLED else if s.fatal ∨ s.handover = true then QState.HELD else QState.RUNNING) ∧
        (∀ r, s.prtRun = some r → (r.cmd = 2 ∨ r.cmd = 3) → r.target = n → ended t Code.DONE) ∧
        (∀ a, t.byte a = s.byte a) ∧ t.acc = s.acc ∧ OnlyRegs (fun a => own a ∨ a = Reg.CTX_CREDIT n ∨ a = st ∨ a = Reg.Q_STATUS n) s t) ∧
    (s.ctxState n ≠ CtxState.RESETTING → NoEffect (.resetDrainDone c) s ∧ NoEffect (.resetEscalate c) s) ∧
    (s.ctxState n = CtxState.RESETTING → s.opsInFlight n ≠ 0 → calm → (∀ x, x < 4096 → s.present x = true → s.ctxPart x = q → x = n) →
      (s.ctx n).destroying = false → Ends (.resetEscalate c) s fun t => restarted t ∧
        ∀ r, s.prtRun = some r → (r.cmd = 2 ∨ r.cmd = 3) → r.target = n → ended t Code.TIMEOUT) ∧
    (calm → ∀ f : Fin 64, Ends (.flr f) s fun t => (∀ a, t.byte a = s.byte a) ∧ t.acc = s.acc ∧ ∀ x, x < 4096 →
      let mine := f.val = 0 ∨ s.fld (Reg.CTX_HOST x) F.CTX_HOST_FUNC = f.val
      (mine → t.qState x = QState.DISABLED ∧ t.hostQ x = HostQueue.init ∧
        (s.present x = true → t.ctxState x = CtxState.RESETTING ∧ t.epoch x = (s.epoch x + 1) % 256)) ∧
      (¬ mine ∨ s.present x = false → t.ctxState x = s.ctxState x ∧ t.epoch x = s.epoch x) ∧ (¬ mine → t.qState x = s.qState x))

/-- Slices, saves, placements and wakes of contexts, and the partition and context registers (R100, R478, R480, R481, R482, R483,
R485, R486, R487, R495, R496). For every sound state: SLICE_END of the only schedulable context starts its next slice at once
with its credit as it was; with another one waiting, preemption becomes pending on its tiles. FORCED_SAVE of a tile under
preemption whose engine queue is empty writes its whole image (here in plain memory) and takes it out of the context, and
otherwise is remembered. SAVE_DONE takes the context out of residence and chooses the next, whose credit has grown by the slice.
PLACEMENT_DONE loads a tile's memory from its image, zero beyond what the image records, its program window, and at a later
placement its registers, and makes the context resident. DB_WAKE of a halted context places it again, and otherwise is
remembered. Tile sets and bandwidth shares change only where no context is in the partition and none overlap or exceed 100; RUN,
DOMAIN, PARTITION and the save area change only as their locks allow. Concludes that exec answers a next state for SLICE_END,
SAVE_DONE, FORCED_SAVE, PLACEMENT_DONE, DB_WAKE, CTX_WRITE, PRT_TILES_WRITE, PRT_BW_WRITE. -/
def Obligations.TimeSlicing : Prop :=
  ∀ (s : State) (part : Fin 16) (v : Word), s.Sound →
    let q := part.val
    let ps := Reg.PRT_PSTATUS q
    let lim : Int := 2 ^ 47 - 1
    let ran := (s.part q).ran
    (s.residentOf q = none → NoEffect (.sliceEnd part) s ∧ NoEffect (.saveDone part) s) ∧
    (∀ c, s.residentOf q = some c →
      (s.switching q = true → NoEffect (.sliceEnd part) s) ∧
      (s.switching q = false → NoEffect (.saveDone part) s ∧
        (s.candidates q = [c] → 0 < s.share c → -lim ≤ s.credit c → s.credit c + ran ≤ lim → Ends (.sliceEnd part) s fun t =>
          t.credit c = s.credit c ∧ t.part q = { s.part q with ran := 0 } ∧ KeepsAllBut (fun a => a = Reg.CTX_CREDIT c) s t) ∧
        (s.candidates q ≠ [c] → Ends (.sliceEnd part) s fun t => t.switching q = true ∧
          (∀ p, t.tile p = (if p ∈ s.tilesOf c then { s.tile p with preempt := true } else s.tile p)) ∧ KeepsAllBut (fun a => a = ps) s t)) ∧
      (s.switching q = true → s.tilesOf c ≠ [] → NoEffect (.saveDone part) s) ∧
      (s.switching q = true → s.tilesOf c = [] →
        let left (t : State) : Prop := t.resident c = false ∧ t.residentOf q = none ∧ (t.part q).ran = 0
        (s.candidates q = [] → Ends (.saveDone part) s fun t => left t ∧ t.switching q = false ∧ (t.part q).placing = none ∧
          KeepsAllBut (fun a => a = ps ∨ a = Reg.CTX_STATUS c) s t) ∧
        ∀ x, s.candidates q = [x] → x ≠ c → 0 < s.share x → -lim ≤ s.credit x → s.credit x + ran ≤ lim → Ends (.saveDone part) s fun t =>
          left t ∧ t.switching q = true ∧ (t.part q).placing = some x ∧ t.credit x = s.credit x + ran ∧
          KeepsAllBut (fun a => a = ps ∨ a = Reg.CTX_STATUS c ∨ a = Reg.CTX_CREDIT x) s t)) ∧
    (∀ p : Fin 160,
      let x := s.tile p.val
      let l := s.logical p.val
      (x.preempt = false ∨ s.tileCtx p.val = none → NoEffect (.forcedSave p) s) ∧
      ∀ c, s.tileCtx p.val = some c → x.preempt = true → x.saving = none → s.fatal = false →
        let forced := Reg.PRT_FORCED (s.ctxPart c)
        let base := s.imageBase c p.val
        s.Below forced 1 →
        (x.queue ≠ [] ∨ s.swapping l = true → Ends (.forcedSave p) s fun t => t.tile p.val = { x with saving := some (0x7FF + 2048 * 64) } ∧
          Counts s t forced 1 ∧ KeepsAllBut (fun a => a = forced) s t) ∧
        (x.queue = [] → s.swapping l = false → s.Bare → s.poison = [] → base + 0x480000 ≤ hbmEnd → s.tileSt p.val = TileSt.RUNNING →
          (∀ h, h < 2 → s.Below (Reg.BC_H_WRITEBACK h) (2 ^ 20)) →
          Ends (.forcedSave p) s fun t => t.tileSt p.val = TileSt.SAVED ∧ t.tileCtx p.val = none ∧ (t.tile p.val).preempt = false ∧
            Counts s t forced 1 ∧ t.acc = s.acc ∧
            (∀ i, i < 0x400000 → t.hbmByte (base + i) = s.byte (tileAddr l i)) ∧
            (∀ i, i < 0x280 → t.hbmByte (base + 0x400000 + i) = (saveHeader s p.val 0x7FF 64).getD i 0) ∧
            (∀ n i, n < 32 → i < 1024 → t.hbmByte (base + 0x402000 + 1024 * n + i) = (s.vreg p.val n).getD i 0) ∧
            (∀ b i, b < 4 → i < 65536 → t.hbmByte (base + 0x410000 + 65536 * b + i) = (s.accBytes p.val b).getD i 0) ∧
            (∀ a, a < base ∨ base + 0x480000 ≤ a → t.hbmByte a = s.hbmByte a) ∧ (∀ a, hbmEnd ≤ a → t.byte a = s.byte a) ∧
            OnlyRegs (fun a => a = forced ∨ a = Reg.TILE_STATUS p.val ∨ a = Reg.TILE_CTX p.val ∨ IsHitMiss a ∨
              ∃ h, h < 2 ∧ a = Reg.BC_H_WRITEBACK h) s t)) ∧
    ((s.part q).placing = none ∨ s.memRefuses = true ∨ s.fatal = true → NoEffect (.placementDone part) s) ∧
    (∀ c, (s.part q).placing = some c → s.memRefuses = false → s.fatal = false → s.imagesServed c = true → s.swap = none →
      (s.schedulable c = false → s.candidates q = [] → Ends (.placementDone part) s fun t => (t.part q).placing = none ∧ t.switching q = false ∧
        KeepsAllBut (fun a => a = ps) s t) ∧
      ∀ l, s.schedulable c = true → c < 4096 → s.ctxPart c = q → s.partTiles q = [l] → s.phys l < 160 → (s.ctx c).wokenUs = none → (s.ctx c).restart = false →
        s.Bare → s.poison = [] → (∀ k, k < 256 → (s.stagePort k).parked = []) → s.Below (Reg.PRT_SWITCHES q) 1 →
        let p := s.phys l
        let base := s.imageBase c p
        let tm := s.logical p
        let h := s.hbmBytes (base + 0x400000) 0x280
        let info := field h 16 8
        let kept := if (s.ctx c).placed then 65536 * min 64 (bits info 41 20) else 0x400000
        base + 0x480000 ≤ hbmEnd → Ends (.placementDone part) s fun t =>
          t.resident c = true ∧ t.residentOf q = some c ∧ t.switching q = false ∧ t.part q = ⟨s.now, 0, none⟩ ∧
          t.ctx c = { s.ctx c with placed := true } ∧ Counts s t (Reg.PRT_SWITCHES q) 1 ∧
          t.tileCtx p = some c ∧ t.fld (Reg.TILE_CTX p) F.TILE_CTX_EPOCH = s.epoch c ∧
          (∀ f ∈ [F.TILE_PROG_BASE, F.TILE_PROG_LIMIT], t.fld (Reg.TILE_PROG p) f = Word.get (BitVec.ofNat 64 (field h 8 8)) f / 32 * 32) ∧
          (∀ a, t.byte a = if tileAddr tm 0 ≤ a ∧ a < tileAddr tm 0x400000 then
            (if a - tileAddr tm 0 < kept then s.byte (base + (a - tileAddr tm 0)) else 0) else s.byte a) ∧
          ((s.ctx c).placed = false → t.tileSt p = TileSt.RUNNING ∧ t.tile p = TileState.init ∧
            t.fld (Reg.TILE_PC p) F.TILE_PC_PC = t.fld (Reg.TILE_PROG p) F.TILE_PROG_BASE ∧
            (∀ n, n < 32 → t.reg (Reg.TILE_SREG p n) = 0) ∧ ∀ b i j, b < 4 → i < 128 → j < 128 → t.accWord p b i j = 0) ∧
          ((s.ctx c).placed = true → bit info 0 = true → bit info 1 = true → field h 0 8 < 2 ^ 22 → field h 0 8 % 32 = 0 →
            t.fld (Reg.TILE_PC p) F.TILE_PC_PC = field h 0 8 ∧
            t.tileSt p = (if bits info 18 16 = TileSt.HALTED ∨ bits info 18 16 = TileSt.STOPPED then bits info 18 16 else TileSt.RUNNING) ∧
            ((t.tile p).loops, (t.tile p).rets) = imageStacks h ∧
            (∀ n, n < 31 → t.reg (Reg.TILE_SREG p (n + 1)) = BitVec.ofNat 64 (field h (0x100 + 8 * n) 8)) ∧
            ∀ n, n < 16 → t.reg (Reg.TILE_AREG p n) = BitVec.ofNat 64 (field h (0x1F8 + 8 * n) 8)) ∧
          OnlyRegs (fun a => inTile p a = true ∨ a = Reg.CTX_STATUS c ∨ a = ps ∨ a = Reg.PRT_SWITCHES q ∨ IsHitMiss a) s t) ∧
    (∀ c : BitVec 12,
      let n := c.toNat
      let st := Reg.CTX_STATUS n
      let active := s.ctxState n = CtxState.ACTIVE
      let halted := s.on st F.CTX_STATUS_HALTED = true
      (¬ active → NoEffect (.dbWake c) s) ∧
      (active → ¬ halted → Sets (.dbWake c) s st ((s.reg st).put F.CTX_STATUS_DB_PENDING 1)) ∧
      (active → halted → s.on (Reg.CTX_CTRL n) F.CTX_CTRL_RUN = false → Ends (.dbWake c) s fun t => t.on st F.CTX_STATUS_HALTED = false ∧
        (t.ctx n).restart = true ∧ t.schedulable n = false ∧ KeepsAllBut (fun a => a = st) s t) ∧
      (active → halted → s.on (Reg.CTX_CTRL n) F.CTX_CTRL_RUN = true → s.resident n = false → s.ctxPart n = q → s.residentOf q = none →
        (s.part q).placing = none → (∀ x ∈ s.candidates q, x = n) → Ends (.dbWake c) s fun t => t.on st F.CTX_STATUS_HALTED = false ∧
          t.ctx n = { s.ctx n with restart := true, wokenUs := some s.now } ∧ t.schedulable n = true ∧ (t.part q).placing = some n ∧
          t.switching q = true ∧ KeepsAllBut (fun a => a = st ∨ a = ps) s t) ∧
      (let r := Reg.CTX_CTRL n
       let same := v.get F.CTX_CTRL_DOMAIN = s.ctxDomain n ∧ v.get F.CTX_CTRL_PARTITION = s.ctxPart n
       let bad := Ignores (.ctxWrite c 0 v) s Reg.PRT_STATUS F.PRT_STATUS_BAD_WRITE
       (¬ same → s.present n = true → bad) ∧ (v.get F.CTX_CTRL_RUN = 1 → s.on r F.CTX_CTRL_RUN = false → ¬ active → bad) ∧
       (s.ctxState n = CtxState.ABSENT → v.get F.CTX_CTRL_RUN = 0 → Ends (.ctxWrite c 0 v) s fun t => t.ctxDomain n = v.get F.CTX_CTRL_DOMAIN ∧
         t.ctxPart n = v.get F.CTX_CTRL_PARTITION ∧ t.ctxState n = CtxState.ABSENT ∧ t.epoch n = s.epoch n ∧
         KeepsAllBut (fun a => a = r ∨ a = st) s t) ∧
       (active → same → v.get F.CTX_CTRL_RUN = 0 → Ends (.ctxWrite c 0 v) s fun t => t.on r F.CTX_CTRL_RUN = false ∧ t.schedulable n = false ∧
         t.ctxState n = CtxState.ACTIVE ∧ KeepsAllBut (fun a => a = r ∨ a = st) s t) ∧
       (active → same → v.get F.CTX_CTRL_RUN = 1 → halted → Ends (.ctxWrite c 0 v) s fun t => t.on r F.CTX_CTRL_RUN = true ∧ t.schedulable n = false ∧
         KeepsAllBut (fun a => a = r ∨ a = st) s t) ∧
       (s.present n = true → Ignores (.ctxWrite c 0x08 v) s Reg.PRT_STATUS F.PRT_STATUS_BAD_WRITE ∧
         Ignores (.ctxWrite c 0x18 v) s Reg.PRT_STATUS F.PRT_STATUS_BAD_WRITE) ∧
       (s.present n = false → Ends (.ctxWrite c 0x08 v) s fun t => (∀ f ∈ [F.CTX_HOST_PASID, F.CTX_HOST_FUNC, F.CTX_HOST_QVEC],
         t.fld (Reg.CTX_HOST n) f = v.get f) ∧ KeepsAllBut (fun a => a = Reg.CTX_HOST n) s t))) ∧
    (let tiles := Reg.PRT_TILES0 q
     let bw := Reg.PRT_BW q
     let bad (i : Instr) : Prop := Ignores i s Reg.PRT_STATUS F.PRT_STATUS_BAD_WRITE
     let valid (x : Nat) := s.on (Reg.PRT_CTRL x) F.PRT_CTRL_VALID = true
     (s.partUsed q = true → bad (.prtTilesWrite part 0 v) ∧ bad (.prtTilesWrite part 1 v) ∧ bad (.prtTilesWrite part 2 v) ∧ bad (.prtBwWrite part v)) ∧
     (s.partUsed q = false → s.partsOk = true → ¬ valid q → Sets (.prtTilesWrite part 0 v) s tiles v ∧
       Sets (.prtTilesWrite part 1 v) s (Reg.PRT_TILES1 q) v ∧
       (Ends (.prtTilesWrite part 2 v) s fun t => t.fld (Reg.PRT_TILES2 q) F.PRT_TILES2_V = v.get F.PRT_TILES2_V ∧
         KeepsAllBut (fun a => a = Reg.PRT_TILES2 q) s t) ∧
       (v.get F.PRT_BW_HBM_PCT ≤ 100 → v.get F.PRT_BW_FAB_PCT ≤ 100 → Ends (.prtBwWrite part v) s fun t =>
         (∀ f ∈ [F.PRT_BW_HBM_PCT, F.PRT_BW_FAB_PCT], t.fld bw f = v.get f) ∧ KeepsAllBut (fun a => a = bw) s t)) ∧
     (∀ x, valid q → x < 16 → x ≠ q → valid x →
       (∀ l, l < 64 → bit v.toNat l = true → l ∈ s.partTiles x → bad (.prtTilesWrite part 0 v)) ∧
       (v.get F.PRT_BW_HBM_PCT ≤ 100 → v.get F.PRT_BW_FAB_PCT ≤ 100 → 100 < v.get F.PRT_BW_HBM_PCT + s.fld (Reg.PRT_BW x) F.PRT_BW_HBM_PCT →
         bad (.prtBwWrite part v))))

/-- The host commands, how they end, and their completion entries (R487, R499, R504, R505, R506). For every sound state: a queue
that may not issue, or whose turn in the round robin of the queues with work it is not, has no next command. NOP completes with
DONE; WAKE also wakes the context; COPY_IN of bytes within one line writes exactly them to HBM, and without the bytes at hand
waits for how its access ends; COPY_OUT writes the HBM bytes to host memory; WRITE64 writes its 8 bytes; NVME_READ sends the
Read over its queue pair, or is REFUSED without a connected one. Each takes its place behind the commands in progress and moves
SQ_HEAD. A reserved field, and a device address outside HBM, end a command REFUSED with an entry and quarantine the context.
HOST_CMD_COMPLETE writes the oldest ended command's entry at CQ_TAIL with the phase bit and sends its interrupt. An error status
or a timeout ends the command with its code, a copy with DMA_FAULT and an entry. Concludes that exec answers a next state for
NOP, COPY_IN, COPY_OUT, WRITE64, NVME_READ, WAKE, HOST_CMD_COMPLETE, HOST_COMPLETION, DMA_TIMEOUT. -/
def Obligations.HostCommands : Prop :=
  ∀ (s : State) (c : BitVec 12) (h : HostCmd) (data : List Byte), s.Sound →
    let n := c.toNat
    let st := Reg.Q_STATUS n
    let ops := (s.hostQ n).ops
    let head := (s.fld st F.Q_STATUS_SQ_HEAD + 1) % s.qSize n
    let pasid := s.fld (Reg.CTX_HOST n) F.CTX_HOST_PASID
    let dev := bits h.dev.toNat 47 0
    let len := h.len.toNat
    let queued (t : State) (opc : Nat) (code : Option Nat) (bytes l : Nat) : Prop :=
      t.hostQ n = { s.hostQ n with ops := ops ++ [⟨h.cid.toNat, opc, h.irq, head, code, bytes, dev, l, s.epoch n⟩] } ∧
      t.fld st F.Q_STATUS_SQ_HEAD = head ∧ t.hostTurn = n
    let stopped (t : State) (opc l : Nat) : Prop := Posts s t ∧ t.ctxState n = CtxState.QUARANTINED ∧
      t.hostQ n = { s.hostQ n with ops := ops ++ [⟨h.cid.toNat, opc, h.irq, head, some Code.REFUSED, 0, dev, l, s.epoch n⟩] }
    let plain := h.rsv = false ∧ h.qp = 0 ∧ h.nlb = 0 ∧ h.nsid = 0 ∧ h.slba = 0
    let one (w : Bool) (m : Nat) : Prop := (s.windows (s.ctxPart n) dev m w).length = 1
    let inHbm (m : Nat) : Prop := s.target h.dev.toNat m = .hbm dev
    let quiet := s.path.held = [] ∧ s.swap = none
    let st64 (a : Nat) : Prop := a = st ∨ IsHitMiss a ∨ a = Reg.BC_STATUS
    let rows : List (Instr × Nat × Nat) := [(.nop c h, HostOpc.NOP, 0), (.copyIn c h data, HostOpc.COPY_IN, len), (.copyOut c h, HostOpc.COPY_OUT, len),
      (.wake c h, HostOpc.WAKE, 0), (.write64 c h, HostOpc.WRITE64, 0), (.nvmeRead c h, HostOpc.NVME_READ, (h.nlb.toNat + 1) * 4096)]
    (∀ e ∈ rows, (s.hostMay n (h.fence || e.2.1 == HostOpc.WAKE) = false → NoEffect e.1 s) ∧
      (s.hostMay n (h.fence || e.2.1 == HostOpc.WAKE) = true → h.rsv = true → s.path.clearing = [] → s.tilesOf n = [] → Ends e.1 s fun t => stopped t e.2.1 e.2.2)) ∧
    (s.hostMay n h.fence = true →
      (plain → h.host = 0 → h.dev = 0 → h.len = 0 → Ends (.nop c h) s fun t => queued t HostOpc.NOP (some Code.DONE) 0 0 ∧ t.out = s.out ∧
        KeepsAllBut (fun a => a = st) s t) ∧
      (plain → 1 ≤ len → len ≤ 2 ^ 32 → inHbm len →
        (one true len →
          (data.length = len → quiet → s.Takes64 dev len 0 → s.Below Reg.HIF_H2D_BYTES len → Ends (.copyIn c h data) s fun t =>
            queued t HostOpc.COPY_IN (some Code.DONE) len len ∧ WroteHbm s t dev data ∧ t.out = s.out ++ [.hostRead pasid h.host.toNat len] ∧
            Counts s t Reg.HIF_H2D_BYTES len ∧ t.acc = s.acc ∧ OnlyRegs (fun a => st64 a ∨ a = Reg.HIF_H2D_BYTES) s t) ∧
          (data.length ≠ len → s.memRefuses = false → Ends (.copyIn c h data) s fun t => queued t HostOpc.COPY_IN none 0 len ∧
            t.out = s.out ++ [.hostRead pasid h.host.toNat len] ∧ KeepsAllBut (fun a => a = st) s t)) ∧
        (one false len → s.Steady [(dev, len)] → s.Below Reg.HIF_D2H_BYTES len → Ends (.copyOut c h) s fun t =>
          queued t HostOpc.COPY_OUT (some Code.DONE) len len ∧ t.out = s.out ++ [.hostWrite pasid h.host.toNat (s.hbmBytes dev len)] ∧
          Counts s t Reg.HIF_D2H_BYTES len ∧ KeepsData (fun a => a = st ∨ IsHitMiss a ∨ a = Reg.HIF_D2H_BYTES) s t)) ∧
      (plain → 1 ≤ len → len ≤ 2 ^ 32 → s.tilesOf n = [] → s.path.clearing = [] → s.target h.dev.toNat len = .bad → (Ends (.copyIn c h data) s fun t => stopped t HostOpc.COPY_IN len) ∧
        Ends (.copyOut c h) s fun t => stopped t HostOpc.COPY_OUT len) ∧
      (plain → h.host = 0 → dev % 8 = 0 → inHbm 8 → one true 8 → quiet → s.Takes64 dev 8 0 → Ends (.write64 c h) s fun t =>
        queued t HostOpc.WRITE64 (some Code.DONE) 8 0 ∧ WroteHbm s t dev (bytesOf 8 len) ∧ t.out = s.out ∧ t.acc = s.acc ∧ OnlyRegs st64 s t) ∧
      (let m := (h.nlb.toNat + 1) * 4096
       h.rsv = false → h.host = 0 → h.len = 0 → dev % 4096 = 0 → h.nlb.toNat ≤ 255 → inHbm m → one true m → s.memRefuses = false →
        (s.qpIs h.qp.toNat 2 true = true → Ends (.nvmeRead c h) s fun t => queued t HostOpc.NVME_READ none 0 m ∧
          t.out = s.out ++ [.nvme ⟨h.qp.toNat, 2, h.nsid.toNat, h.slba.toNat, h.nlb.toNat, dev⟩] ∧ KeepsAllBut (fun a => a = st) s t) ∧
        (s.qpIs h.qp.toNat 2 true = false → Ends (.nvmeRead c h) s fun t => queued t HostOpc.NVME_READ (some Code.REFUSED) 0 m ∧ t.out = s.out ∧
          KeepsAllBut (fun a => a = st) s t))) ∧
    (s.hostMay n true = true → plain → h.host = 0 → h.dev = 0 → h.len = 0 → s.on (Reg.CTX_STATUS n) F.CTX_STATUS_HALTED = false →
      Ends (.wake c h) s fun t => queued t HostOpc.WAKE (some Code.DONE) 0 0 ∧ t.on (Reg.CTX_STATUS n) F.CTX_STATUS_DB_PENDING = true ∧
        t.out = s.out ∧ KeepsAllBut (fun a => a = st ∨ a = Reg.CTX_STATUS n) s t) ∧
    ((ops = [] ∨ ∃ op rest, ops = op :: rest ∧ (op.code = none ∨ s.hostWaits n op.cid = true)) → NoEffect (.hostCmdComplete c) s) ∧
    (∀ op rest code, ops = op :: rest → op.code = some code → code ≤ 10 → s.hostWaits n op.cid = false → s.qState n = QState.RUNNING → s.Below Reg.HIF_CMDS 1 →
      let tail := s.fld st F.Q_STATUS_CQ_TAIL
      let phase := s.fld st F.Q_STATUS_PHASE
      let entry := Output.hostWrite pasid (s.fld (Reg.Q_CQ_BASE n) F.Q_CQ_BASE_BASE * 4096 + 16 * tail)
        (bytesOf 2 op.cid ++ bytesOf 1 code ++ bytesOf 1 phase ++ bytesOf 2 op.head ++ bytesOf 2 0 ++ bytesOf 8 op.bytes)
      let next := (tail + 1) % s.qSize n
      let irq := op.irq && s.on (Reg.Q_CFG n) F.Q_CFG_IRQ_EN && !(s.hostQ n).irqOut
      let func := s.fld (Reg.CTX_HOST n) F.CTX_HOST_FUNC
      let vec := s.fld (Reg.Q_CFG n) F.Q_CFG_VECTOR
      vec < (if func = 0 then 2048 else 64) → Ends (.hostCmdComplete c) s fun t =>
        t.out = s.out ++ entry :: (if irq then [Output.msix func vec] else []) ∧ t.hostQ n = ⟨rest, irq || (s.hostQ n).irqOut⟩ ∧
        t.fld st F.Q_STATUS_CQ_TAIL = next ∧ t.fld st F.Q_STATUS_LAST_CODE = code ∧
        t.fld st F.Q_STATUS_PHASE = (if next = 0 then 1 - phase else phase) ∧ Counts s t Reg.HIF_CMDS 1 ∧
        KeepsAllBut (fun a => a = st ∨ a = Reg.HIF_CMDS) s t) ∧
    ∀ (cid : BitVec 16) (x : HostStatus),
      (s.hostOp n cid.toNat = none → NoEffect (.hostCompletion c cid x) s ∧ NoEffect (.dmaTimeout c cid) s) ∧
      ∀ op, s.hostOp n cid.toNat = some op →
        let ended (t : State) (code bytes : Nat) : Prop := t.hostQ n =
          { s.hostQ n with ops := ops.map fun o => if o = op then { o with code := some code, bytes := bytes } else o }
        let faulted (t : State) (code : Nat) : Prop := ended t code 0 ∧ t.on Reg.HIF_STATUS F.HIF_STATUS_DMA_FAULT = true ∧ Posts s t ∧
          (s.tilesOf n = [] → KeepsAllBut (fun a => a = Reg.CTX_CTRL n ∨ a = Reg.CTX_STATUS n ∨ a = Reg.PRT_PSTATUS (s.ctxPart n) ∨ a = st ∨
            a = Reg.HIF_STATUS ∨ IsLedger a) s t)
        let none' (t : State) : Prop := KeepsAllBut (fun _ => False) s t ∧ t.out = s.out
        (op.opc = HostOpc.NVME_READ → (Ends (.hostCompletion c cid .ok) s fun t => ended t Code.DONE op.len ∧ none' t) ∧
          (Ends (.hostCompletion c cid .nvmeError) s fun t => ended t Code.REFUSED 0 ∧ none' t) ∧
          (Ends (.dmaTimeout c cid) s fun t => ended t Code.TIMEOUT 0 ∧ none' t) ∧
          ∀ y ∈ [HostStatus.unsupported, .aborted, .poisoned], NoEffect (.hostCompletion c cid y) s) ∧
        (op.opc ≠ HostOpc.NVME_READ → (Ends (.hostCompletion c cid .unsupported) s fun t => faulted t Code.REFUSED) ∧
          (Ends (.hostCompletion c cid .aborted) s fun t => faulted t Code.REFUSED) ∧
          (Ends (.hostCompletion c cid .poisoned) s fun t => faulted t Code.POISONED) ∧ (Ends (.dmaTimeout c cid) s fun t => faulted t Code.TIMEOUT) ∧
          ∀ y ∈ [HostStatus.ok, .nvmeError], NoEffect (.hostCompletion c cid y) s)

/-- Doorbells, flushes and configuration of command queues, and what the PCIe link and its resets do (R497, R500, R501, R502, R503,
R505, R507, R509, R546). For every sound state: DB_SQ_TAIL takes a TAIL below the ring's size and refuses another; DB_CQ_HEAD
frees entries and lets the queue interrupt again. FLUSH of a running queue disposes of the posted command with FLUSHED and is
FLUSHING until its commands have completed; a HELD queue stays HELD; in a reset, or disabled, nothing happens. Enabling a queue
zeroes its pointers and runs it, disabling it ends it, and its size, vector and bases are locked while it is enabled. The PCIe
link coming up shows its generation and width, and a generation or width outside the list is no event. PERST_N falling,
HOT_RESET, DEVICE_RESET and a lost link reset the device: memory, contexts, tiles, queues and tides are as at reset, a fatal
stop ends, and time and the trip latch stay; a lost link also posts an entry. Concludes that exec answers a next state for
DB_SQ_TAIL, DB_CQ_HEAD, FLUSH, Q_CFG_WRITE, PCIE_LINK_UP, PCIE_LINK_DOWN, PERST, HOT_RESET, DEVICE_RESET. -/
def Obligations.HostQueuesAndLink : Prop :=
  ∀ (s : State) (c : BitVec 12) (v : Word), s.Sound →
    let n := c.toNat
    let st := Reg.Q_STATUS n
    let cfg := Reg.Q_CFG n
    let q := s.hostQ n
    let hif := Reg.HIF_STATUS
    let bad (i : Instr) : Prop := Ignores i s hif F.HIF_STATUS_BAD_WRITE
    let held := s.ctxState n = CtxState.QUARANTINED ∨ s.fatal = true ∨ s.handover = true
    let runs (t : State) : Prop := (held → t.qState n = QState.HELD) ∧ (¬ held → t.qState n = QState.RUNNING)
    (v.get F.DB_SQ_TAIL_TAIL < s.qSize n → Ends (.dbSqTail c v) s fun t => t.fld (Reg.DB_SQ_TAIL n) F.DB_SQ_TAIL_TAIL = v.get F.DB_SQ_TAIL_TAIL ∧
      KeepsAllBut (fun a => a = Reg.DB_SQ_TAIL n) s t) ∧
    (s.qSize n ≤ v.get F.DB_SQ_TAIL_TAIL → bad (.dbSqTail c v)) ∧
    (Ends (.dbCqHead c v) s fun t => t.fld (Reg.DB_CQ_HEAD n) F.DB_CQ_HEAD_HEAD = v.get F.DB_CQ_HEAD_HEAD ∧ t.hostQ n = { q with irqOut := false } ∧
      KeepsAllBut (fun a => a = Reg.DB_CQ_HEAD n) s t) ∧
    (s.ctxState n = CtxState.RESETTING ∨ s.qState n = QState.DISABLED ∨ s.qState n = QState.FLUSHING → NoEffect (.flush c) s) ∧
    (s.ctxState n ≠ CtxState.RESETTING →
      let disposed (t : State) : Prop := (∃ op, t.hostQ n = { q with ops := q.ops ++ [op] } ∧ op.code = some Code.FLUSHED) ∧
        t.fld st F.Q_STATUS_SQ_HEAD = (s.fld st F.Q_STATUS_SQ_HEAD + 1) % s.qSize n ∧ KeepsAllBut (fun a => a = st) s t
      (s.qState n = QState.RUNNING → s.qWaiting n = 1 → Ends (.flush c) s fun t => disposed t ∧ t.qState n = QState.FLUSHING) ∧
      (s.qState n = QState.RUNNING → s.qWaiting n = 0 → q.ops = [] → Ends (.flush c) s fun t => t.hostQ n = q ∧ runs t ∧
        KeepsAllBut (fun a => a = st) s t) ∧
      (s.qState n = QState.HELD → s.qWaiting n = 1 → Ends (.flush c) s fun t => disposed t ∧ t.qState n = QState.HELD)) ∧
    (let same := v.get F.Q_CFG_SIZE_LOG = s.fld cfg F.Q_CFG_SIZE_LOG ∧ v.get F.Q_CFG_VECTOR = s.fld cfg F.Q_CFG_VECTOR
     let en := s.on cfg F.Q_CFG_EN = true
     (en → ¬ same → bad (.qCfgWrite c 0x110 v)) ∧ (en → bad (.qCfgWrite c 0x100 v) ∧ bad (.qCfgWrite c 0x108 v)) ∧
     (¬ en → Ends (.qCfgWrite c 0x100 v) s fun t => t.fld (Reg.Q_SQ_BASE n) F.Q_SQ_BASE_BASE = v.get F.Q_SQ_BASE_BASE ∧
       KeepsAllBut (fun a => a = Reg.Q_SQ_BASE n) s t) ∧
     (¬ en → v.get F.Q_CFG_EN = 1 → 4 ≤ v.get F.Q_CFG_SIZE_LOG → v.get F.Q_CFG_SIZE_LOG ≤ 12 → Ends (.qCfgWrite c 0x110 v) s fun t =>
       (∀ f ∈ [F.Q_CFG_EN, F.Q_CFG_VECTOR, F.Q_CFG_IRQ_EN, F.Q_CFG_SIZE_LOG], t.fld cfg f = v.get f) ∧ runs t ∧ t.hostQ n = HostQueue.init ∧
       t.fld st F.Q_STATUS_SQ_HEAD = 0 ∧ t.fld st F.Q_STATUS_CQ_TAIL = 0 ∧ t.fld st F.Q_STATUS_PHASE = 1 ∧
       t.fld (Reg.DB_SQ_TAIL n) F.DB_SQ_TAIL_TAIL = 0 ∧ t.fld (Reg.DB_CQ_HEAD n) F.DB_CQ_HEAD_HEAD = 0 ∧
       KeepsAllBut (fun a => a = cfg ∨ a = st ∨ a = Reg.DB_SQ_TAIL n ∨ a = Reg.DB_CQ_HEAD n) s t) ∧
     (en → same → v.get F.Q_CFG_EN = 0 → 4 ≤ v.get F.Q_CFG_SIZE_LOG → v.get F.Q_CFG_SIZE_LOG ≤ 12 → Ends (.qCfgWrite c 0x110 v) s fun t =>
       t.qState n = QState.DISABLED ∧ t.hostQ n = HostQueue.init ∧ t.on cfg F.Q_CFG_EN = false ∧ KeepsAllBut (fun a => a = cfg ∨ a = st) s t)) ∧
    (∀ (gen : Fin 7) (width : Fin 17),
      let ok := 1 ≤ gen.val ∧ width.val ∈ [1, 2, 4, 8, 16] ∧ s.pins.perst = true
      (ok → Ends (.pcieLinkUp gen width) s fun t => t.on hif F.HIF_STATUS_LINK_UP = true ∧ t.fld hif F.HIF_STATUS_SPEED = gen.val ∧
        t.fld hif F.HIF_STATUS_WIDTH = width.val ∧ KeepsAllBut (fun a => a = hif) s t) ∧ (¬ ok → NoEffect (.pcieLinkUp gen width) s)) ∧
    (s.on hif F.HIF_STATUS_LINK_UP = false → NoEffect .pcieLinkDown s) ∧
    (s.on hif F.HIF_STATUS_LINK_UP = true → s.pins.perst = false → Sets .pcieLinkDown s hif ((s.reg hif).put F.HIF_STATUS_LINK_UP 0)) ∧
    (s.pins.perst = false → Ends (.perst true) s fun t => t.pins = { s.pins with perst := true } ∧ KeepsAllBut (fun _ => False) s t) ∧
    (s.mgmt.imgA = none → s.mgmt.imgB = none → s.handover = false → s.recovery = false →
      let reset (t : State) : Prop := t.mem = [] ∧ t.poison = [] ∧ t.acc = [] ∧ t.opens = [] ∧ t.queues = [] ∧ t.swap = none ∧ t.harvest = none ∧
        (∀ x, x < 4096 → t.ctxState x = CtxState.ABSENT ∧ t.qState x = QState.DISABLED ∧ t.hostQ x = HostQueue.init) ∧
        (∀ p, p < 160 → t.tileSt p = TileSt.IDLE ∧ t.tile p = TileState.init) ∧ (∀ d, d < 16 → t.role d = 0 ∧ t.dom d = TideDom.init) ∧
        t.fatal = false ∧ t.now = s.now ∧ t.on Reg.PWR_STATUS F.PWR_STATUS_TRIP = s.on Reg.PWR_STATUS F.PWR_STATUS_TRIP ∧
        t.pins.pwrGood = s.pins.pwrGood ∧ (s.pins.pwrGood = true → t.fld Reg.MEM_STATUS F.MEM_STATUS_STATE = 1)
      (s.pins.perst = true → Ends (.perst false) s fun t => reset t ∧ t.pins.perst = false) ∧
      (Ends .hotReset s fun t => reset t ∧ (s.on Reg.PWR_STATUS F.PWR_STATUS_TRIP = false → t.pins.mainEn = true)) ∧
      (s.on hif F.HIF_STATUS_LINK_UP = true → s.pins.perst = true → Ends .pcieLinkDown s fun t => reset t ∧ Posts s t ∧
        t.on hif F.HIF_STATUS_LINK_UP = false) ∧
      (s.on Reg.MGT_CMD_STATUS F.MGT_CMD_STATUS_CMD_BUSY = false → s.mgmt.recording = false → Ends .deviceReset s fun t => reset t ∧
        t.fld Reg.MGT_CMD_STATUS F.MGT_CMD_STATUS_COMPLETION = Code.DONE ∧ t.on Reg.MGT_CMD_STATUS F.MGT_CMD_STATUS_CMD_BUSY = false))

/-- Commands of the management core: counters, records, signatures, firmware, hand-over and the configuration store (R11, R510,
R511, R512, R513, R515, R516, R518, R527, R528). For every sound state outside RECOVERY and a hand-over: CLEAR_COUNTERS zeroes
every statistics counter and no other register; SNAPSHOT begins a telemetry record, or is REFUSED with an overrun while one is
written, and SNAPSHOT_WRITTEN ends it; SIGN of a manifest of the present job writes the signature and otherwise is REFUSED;
FW_STAGE empties the idle slot and FW_STAGE_DONE fills it, unless verification or the security version fails; FW_ACTIVATE of a
staged image is DEFERRED and waits for the running domains, HANDOVER_BEGIN holds the running queues, HANDOVER_READY runs the new
slot and resumes them, HANDOVER_TIMEOUT keeps the old one with an entry. CFG_WRITE reads the records and invalidates the image
not in use until CFG_WRITE_DONE writes it. A command while one runs is ignored with BAD_WRITE, and one during a hand-over waits.
Concludes that exec answers a next state for CLEAR_COUNTERS, SNAPSHOT, SIGN, FW_STAGE, FW_ACTIVATE, SNAPSHOT_WRITTEN,
FW_STAGE_DONE, HANDOVER_BEGIN, HANDOVER_READY, HANDOVER_TIMEOUT, CFG_WRITE, CFG_WRITE_DONE. -/
def Obligations.ManagementCommands : Prop :=
  ∀ (s : State) (len : BitVec 32), s.Sound →
    let r := Reg.MGT_CMD_STATUS
    let cs := Reg.CFG_STATUS
    let ms := Reg.MGT_STATUS
    let idle := s.on r F.MGT_CMD_STATUS_CMD_BUSY = false
    let done (t : State) (code : Nat) : Prop := t.fld r F.MGT_CMD_STATUS_COMPLETION = code ∧ t.on r F.MGT_CMD_STATUS_CMD_BUSY = false ∧ t.mgmt.cmd = 0
    let only (a : Nat) : Prop := a = r
    let arg0 := (s.reg Reg.MGT_ARG0).toNat
    let arg1 := (s.reg Reg.MGT_ARG1).toNat
    let rows : List (Instr × Nat) := [(.clearCounters, 1), (.snapshot, 2), (.sign, 3), (.deviceReset, 4), (.fwStage, 5), (.fwActivate, 6)]
    (¬ idle → ∀ e ∈ rows, Ignores e.1 s ms F.MGT_STATUS_BAD_WRITE) ∧
    (idle → s.handover = true → ∀ e ∈ rows, Ends e.1 s fun t => t.on r F.MGT_CMD_STATUS_CMD_BUSY = true ∧
      t.mgmt = { s.mgmt with cmd := e.2, mgtWait := some e.2 } ∧ KeepsAllBut only s t) ∧
    (idle → s.handover = false → s.recovery = true → ∀ i ∈ [Instr.clearCounters, .snapshot, .sign, .fwActivate], Ends i s fun t =>
      done t Code.REFUSED ∧ KeepsAllBut only s t) ∧
    (idle → s.handover = false → s.recovery = false →
      (Ends .clearCounters s fun t => done t Code.DONE ∧ (∀ a, isCounter a = true → t.fld a ⟨47, 0⟩ = 0 ∧ t.fld a ⟨63, 63⟩ = 0) ∧
        KeepsAllBut (fun a => a = r ∨ isCounter a = true) s t) ∧
      (s.mgmt.recording = true → Ends .snapshot s fun t => done t Code.REFUSED ∧ t.on Reg.MGT_TELEM F.MGT_TELEM_TELEM_OVERRUN = true ∧
        KeepsAllBut (fun a => a = r ∨ a = Reg.MGT_TELEM) s t) ∧
      (s.mgmt.recording = false → Ends .snapshot s fun t => t.mgmt.recording = true ∧ t.mgmt.records = s.mgmt.records + 1 ∧
        t.on r F.MGT_CMD_STATUS_CMD_BUSY = true ∧ t.acc = s.acc) ∧
      (let ok := 257 ≤ arg1 ∧ arg1 ≤ 4194304 ∧ arg0 % 64 = 0
       let d := s.hbmBytes arg0 arg1
       (¬ ok → Ends .sign s fun t => done t Code.REFUSED ∧ KeepsAllBut only s t) ∧
       (ok → s.Steady [(arg0, arg1)] →
         (field d 8 8 = (s.reg Reg.CHK_JOB).toNat → bit (field d 28 4) 0 = true → Ends .sign s fun t => done t Code.DONE ∧
           (∃ k, ∀ i, i < 6 → t.reg (Reg.MGT_SIGN_R i) = Config.signature d k i ∧ t.reg (Reg.MGT_SIGN_S i) = Config.signature d k (6 + i)) ∧
           KeepsData (fun a => a = r ∨ IsHitMiss a ∨ ∃ i, i < 6 ∧ (a = Reg.MGT_SIGN_R i ∨ a = Reg.MGT_SIGN_S i)) s t) ∧
         (field d 8 8 ≠ (s.reg Reg.CHK_JOB).toNat ∨ bit (field d 28 4) 0 = false → Ends .sign s fun t => done t Code.REFUSED ∧
           KeepsData (fun a => a = r ∨ IsHitMiss a) s t))) ∧
      (s.fwState = 2 ∨ s.fwState = 3 ∨ 2 ^ 24 < arg1 → Ends .fwStage s fun t => done t Code.REFUSED ∧ KeepsAllBut only s t) ∧
      (s.fwState ≠ 2 → s.fwState ≠ 3 → arg1 ≤ 2 ^ 24 → s.Steady [(arg0, arg1)] → Ends .fwStage s fun t => t.fwSlot s.idleSlot = none ∧
        t.fwSlot (1 - s.idleSlot) = s.fwSlot (1 - s.idleSlot) ∧ t.fwState = 0 ∧ t.mgmt.cmd = 5 ∧ t.on r F.MGT_CMD_STATUS_CMD_BUSY = true ∧
        KeepsData (fun a => a = r ∨ IsHitMiss a) s t) ∧
      (s.fwState ≠ 1 → Ends .fwActivate s fun t => done t Code.REFUSED ∧ KeepsAllBut only s t) ∧
      (s.fwState = 1 → Ends .fwActivate s fun t => done t Code.DEFERRED ∧ t.fwState = 2 ∧
        (∀ d, d < 16 → (t.on r ⟨48 + d, 48 + d⟩ = true ↔ s.role d ≠ 0 ∧ s.phase d ≠ Phase.IDLE ∧ s.phase d ≠ Phase.PAUSE)) ∧ KeepsAllBut only s t)) ∧
    (s.mgmt.recording = false → NoEffect .snapshotWritten s) ∧
    (s.mgmt.recording = true → Ends .snapshotWritten s fun t => t.mgmt.recording = false ∧ (s.mgmt.cmd = 2 → done t Code.DONE) ∧ KeepsAllBut only s t) ∧
    (s.mgmt.cmd ≠ 5 → ∀ ok, NoEffect (.fwStageDone ok) s) ∧
    (s.mgmt.cmd = 5 → s.mgmt.mgtWait = none →
      let meets := s.fld ms F.MGT_STATUS_MIN_SVN ≤ s.mgmt.staging
      (meets → Ends (.fwStageDone true) s fun t => done t Code.DONE ∧ t.fwState = 1 ∧ t.fwSlot s.idleSlot = some ⟨s.mgmt.staging, 0⟩ ∧ KeepsAllBut only s t) ∧
      (¬ meets → Ends (.fwStageDone true) s fun t => done t Code.REFUSED ∧ KeepsAllBut only s t) ∧
      Ends (.fwStageDone false) s fun t => done t Code.REFUSED ∧ t.fwState = s.fwState ∧ KeepsAllBut only s t) ∧
    (let begun := s.fwState = 2 ∧ s.fld r F.MGT_CMD_STATUS_WAIT = 0
     (¬ begun → NoEffect .handoverBegin s) ∧
     (begun → Ends .handoverBegin s fun t => t.fwState = 3 ∧ t.fld ms F.MGT_STATUS_STATE = 2 ∧
       (∀ c, c < 4096 → t.qState c = if s.qState c = QState.RUNNING then QState.HELD else s.qState c) ∧
       KeepsAllBut (fun a => a = r ∨ a = ms ∨ ∃ c, a = Reg.Q_STATUS c) s t)) ∧
    (s.handover = false → NoEffect .handoverReady s ∧ NoEffect .handoverTimeout s) ∧
    (s.handover = true → s.mgmt.mgtWait = none → s.mgmt.cfgWait = none →
      let k := s.idleSlot
      let top := max ((s.mgmt.slot0.map (·.seq)).getD 0) ((s.mgmt.slot1.map (·.seq)).getD 0)
      let resumed (t : State) (code : Nat) : Prop := t.fld ms F.MGT_STATUS_STATE = 1 ∧ t.fld r F.MGT_CMD_STATUS_FW_COMPLETION = code ∧
        (∀ c, c < 4096 → t.qState c = if s.qState c = QState.HELD ∧ s.ctxState c ≠ CtxState.QUARANTINED ∧ s.fatal = false then QState.RUNNING
          else s.qState c)
      let regs (a : Nat) : Prop := a = r ∨ a = ms ∨ ∃ c, a = Reg.Q_STATUS c
      (∀ x, s.fwSlot k = some x → Ends .handoverReady s fun t => resumed t Code.DONE ∧ t.fwState = 0 ∧ t.fld ms F.MGT_STATUS_FW_SLOT = k ∧
        t.fwSlot k = some { x with seq := top + 1 } ∧ t.fwSlot (1 - k) = s.fwSlot (1 - k) ∧ KeepsAllBut regs s t) ∧
      Ends .handoverTimeout s fun t => resumed t Code.TIMEOUT ∧ t.fwState = 1 ∧ t.mgmt.slot0 = s.mgmt.slot0 ∧ t.mgmt.slot1 = s.mgmt.slot1 ∧ Posts s t ∧
        KeepsAllBut (fun a => regs a ∨ IsLedger a) s t) ∧
    (s.on cs F.CFG_STATUS_WRITE_BUSY = true → s.recovery = false → Ignores (.cfgWrite len) s cs F.CFG_STATUS_BAD_WRITE) ∧
    (s.recovery = true → NoEffect (.cfgWrite len) s) ∧
    (s.on cs F.CFG_STATUS_WRITE_BUSY = false → s.recovery = false →
      let n := len.toNat
      let src := s.fld Reg.CFG_SRC F.CFG_SRC_ADDR * 64
      (s.handover = true → Ends (.cfgWrite len) s fun t => t.on cs F.CFG_STATUS_WRITE_BUSY = true ∧ t.mgmt = { s.mgmt with cfgWait := some n } ∧
        KeepsAllBut (fun a => a = cs) s t) ∧
      (s.handover = false → n % 8 ≠ 0 ∨ 262072 < n → Ends (.cfgWrite len) s fun t => t.fld cs F.CFG_STATUS_COMPLETION = Code.REFUSED ∧
        t.on cs F.CFG_STATUS_WRITE_BUSY = false ∧ KeepsAllBut (fun a => a = cs) s t) ∧
      (s.handover = false → n % 8 = 0 → n ≤ 262072 → s.Steady [(src, n)] → Ends (.cfgWrite len) s fun t => t.on cs F.CFG_STATUS_WRITE_BUSY = true ∧
        t.mgmt.writing = s.hbmBytes src n ∧ (s.spareImage = 0 → t.mgmt.imgA = none ∧ t.mgmt.imgB = s.mgmt.imgB) ∧
        (s.spareImage = 1 → t.mgmt.imgB = none ∧ t.mgmt.imgA = s.mgmt.imgA) ∧ KeepsData (fun a => a = cs ∨ IsHitMiss a) s t)) ∧
    (s.on cs F.CFG_STATUS_WRITE_BUSY = true → s.mgmt.cfgWait = none → ∀ ok, Ends (.cfgWriteDone ok) s fun t =>
      let image : Option CfgImage := if ok then some ⟨s.cfgSeq + 1, s.mgmt.writing⟩ else none
      t.fld cs F.CFG_STATUS_COMPLETION = (if ok then Code.DONE else Code.REFUSED) ∧ t.on cs F.CFG_STATUS_WRITE_BUSY = false ∧
      (if s.spareImage = 0 then t.mgmt.imgA = image ∧ t.mgmt.imgB = s.mgmt.imgB else t.mgmt.imgB = image ∧ t.mgmt.imgA = s.mgmt.imgA) ∧
      KeepsAllBut (fun a => a = cs) s t) ∧
    (s.on cs F.CFG_STATUS_WRITE_BUSY = false → ∀ ok, NoEffect (.cfgWriteDone ok) s)

/-- The ledger pointer, the watchdog, attestation, the outer ports and the queue-pair table (R514, R522, R526, R529, R530). For
every sound state: ERR_RP_WRITE moves RP and the level with it, and one that would leave more than 256 entries is ignored with
BAD_WRITE; MGT_WATCHDOG posts an entry; SPDM_REQUEST is answered, answered Busy during a hand-over, or as unsupported outside
the options, and KEY_EXCHANGE opens the lowest free of four sessions, which END_SESSION closes. A port that is down receives
nothing; ETH_FRAME of the management core is passed on and any other dropped and counted; CNP halves the rate of its queue pair
and CNP_RATE_RECOVERY gives back 5 % of the line rate up to all of it; OUTER_PORT_LINK and PFC_PAUSE_FRAME show their bits.
RDMA_REQUEST_SERVED answers a read of a harvest's output, or writes awaited data to HBM. QPTAB_WRITE starts a copy unless a pair
is in use, and QP_TABLE_LOADED puts the table in force. Concludes that exec answers a next state for ERR_RP_WRITE, MGT_WATCHDOG,
SPDM_REQUEST, ETH_FRAME, CNP, CNP_RATE_RECOVERY, OUTER_PORT_LINK, PFC_PAUSE_FRAME, RDMA_REQUEST_SERVED, QPTAB_WRITE,
QP_TABLE_LOADED. -/
def Obligations.OuterPortsAndAttestation : Prop :=
  ∀ (s : State) (v : Word) (n : Fin 2) (qp : BitVec 10), s.Sound →
    let hif := Reg.HIF_STATUS
    let eth := Reg.HIF_ETH_STATUS n.val
    let up := s.portUp n.val = true
    let out1 (t : State) (o : Output) : Prop := t.out = s.out ++ [o]
    let none' (t : State) : Prop := KeepsAllBut (fun _ => False) s t
    (let wp := s.fld Reg.ERR_PTR F.ERR_PTR_WP
     let level := (wp + 65536 - v.get F.ERR_PTR_RP) % 65536
     (level ≤ 256 → Ends (.errRpWrite v) s fun t => t.fld Reg.ERR_PTR F.ERR_PTR_RP = v.get F.ERR_PTR_RP ∧ t.fld Reg.ERR_PTR F.ERR_PTR_WP = wp ∧
       t.fld Reg.ERR_STATUS F.ERR_STATUS_LEVEL = level ∧ KeepsAllBut (fun a => a = Reg.ERR_PTR ∨ a = Reg.ERR_STATUS) s t) ∧
     (256 < level → Ignores (.errRpWrite v) s Reg.ERR_STATUS F.ERR_STATUS_BAD_WRITE)) ∧
    (∀ pc, Ends (.mgtWatchdog pc) s fun t => Posts s t ∧ KeepsAllBut IsLedger s t) ∧
    (s.handover = true → ∀ r, Ends (.spdmRequest r) s fun t => out1 t (.spdm false 3 []) ∧ t.mgmt = s.mgmt ∧ none' t) ∧
    (s.handover = false →
      let answered (r : SpdmReq) (l : List Nat) : Prop := Ends (.spdmRequest r) s fun t => out1 t (.spdm true 0 []) ∧
        t.mgmt = { s.mgmt with sessions := l } ∧ none' t
      let unsupported (r : SpdmReq) : Prop := Ends (.spdmRequest r) s fun t => out1 t (.spdm false 7 []) ∧ t.mgmt = s.mgmt ∧ none' t
      let ss := s.mgmt.sessions
      (∀ r ∈ [SpdmReq.getVersion, .getCapabilities, .negotiateAlgorithms, .getDigests, .getCertificate 0, .challenge, .chunkGet], answered r ss) ∧
      (∀ i : BitVec 8, (i.toNat ≤ 5 ∨ i = 0xFF → answered (.getMeasurements i) ss) ∧ (5 < i.toNat → i ≠ 0xFF → unsupported (.getMeasurements i))) ∧
      (∀ k : Fin 8, k.val ≠ 0 → unsupported (.getCertificate k)) ∧ unsupported .setCertificate ∧ unsupported .unknown ∧
      (∀ k, ss.length < 4 → k < 4 → k ∉ ss → (∀ j, j < k → j ∈ ss) → answered .keyExchange (insertMark k ss)) ∧
      (4 ≤ ss.length → unsupported .keyExchange) ∧
      (ss ≠ [] → answered .finish ss ∧ answered .heartbeat ss) ∧ (ss = [] → unsupported .finish ∧ unsupported .heartbeat) ∧
      ∀ k : Fin 4, (k.val ∈ ss → answered (.endSession k) (ss.filter (· ≠ k.val))) ∧ (k.val ∉ ss → unsupported (.endSession k))) ∧
    (∀ k len, (¬ up → NoEffect (.ethFrame n k len) s) ∧
      (up → s.Below (rxBytes n.val) len →
        (k ≠ .other → Ends (.ethFrame n k len) s fun t => out1 t (.ethToCore n.val k) ∧ Counts s t (rxBytes n.val) len ∧
          KeepsAllBut (fun a => a = rxBytes n.val) s t) ∧
        (k = .other → s.Below Reg.HIF_ETH_DROPS 1 → Ends (.ethFrame n k len) s fun t => t.out = s.out ∧ Counts s t (rxBytes n.val) len ∧
          Counts s t Reg.HIF_ETH_DROPS 1 ∧ KeepsAllBut (fun a => a = rxBytes n.val ∨ a = Reg.HIF_ETH_DROPS) s t))) ∧
    (let rates (w : Nat) : Mgmt := { s.mgmt with rates := Store.update (fun _ => 2 ^ 32) s.mgmt.rates qp.toNat w }
     let rate := s.qpRate qp.toNat
     (Ends (.cnp qp) s fun t => t.mgmt = rates (rate / 2) ∧ none' t) ∧
     Ends (.cnpRateRecovery qp) s fun t => t.mgmt = rates (min (2 ^ 32) (rate + 2 ^ 32 / 20)) ∧ none' t) ∧
    (∀ a b, Ends (.outerPortLink n a b) s fun t => t.portUp n.val = a ∧ t.on eth F.HIF_ETH_STATUS_FEC_LOCK = b ∧
      t.fld eth F.HIF_ETH_STATUS_PFC_PAUSED = s.fld eth F.HIF_ETH_STATUS_PFC_PAUSED ∧ KeepsAllBut (fun r => r = eth) s t) ∧
    (∀ p, (s.on Reg.HIF_CTRL F.HIF_CTRL_PFC_EN = true → Ends (.pfcPauseFrame n p) s fun t => t.on eth F.HIF_ETH_STATUS_PFC_PAUSED = p ∧
        t.portUp n.val = s.portUp n.val ∧ KeepsAllBut (fun r => r = eth) s t) ∧
      (s.on Reg.HIF_CTRL F.HIF_CTRL_PFC_EN = false → NoEffect (.pfcPauseFrame n p) s)) ∧
    (∀ (addr : Word) (data : List Byte),
      (¬ up → NoEffect (.rdmaRequestServed n qp true addr data) s ∧ NoEffect (.rdmaRequestServed n qp false addr data) s) ∧
      (s.harvest = none → NoEffect (.rdmaRequestServed n qp true addr data) s) ∧
      (∀ h, up → s.harvest = some h → s.qpIs qp.toNat 1 true = true → s.slotServed h = true → s.Below (txBytes n.val) data.length →
        Ends (.rdmaRequestServed n qp true addr data) s fun t => (∃ reply, out1 t (.rdmaReply n.val qp.toNat reply) ∧ reply.length = data.length ∧
            ∀ i, i < data.length → reply.getD i 0 = (s.harvestOut h).getD (addr.toNat + i) 0) ∧
          Counts s t (txBytes n.val) data.length ∧ KeepsAllBut (fun a => a = txBytes n.val) s t) ∧
      (s.awaiting addr.toNat data.length = none → NoEffect (.rdmaRequestServed n qp false addr data) s) ∧
      ∀ c e, up → s.awaiting addr.toNat data.length = some (c, e) → s.qpIs qp.toNat 2 true = true → s.Below (rxBytes n.val) data.length →
        (s.epoch c = e.epoch → s.present c = true → s.path.held = [] → s.swap = none → s.Takes64 addr.toNat data.length 0 → Ends (.rdmaRequestServed n qp false addr data) s fun t =>
          WroteHbm s t addr.toNat data ∧ Counts s t (rxBytes n.val) data.length ∧ t.acc = s.acc ∧
          OnlyRegs (fun a => a = rxBytes n.val ∨ IsHitMiss a ∨ a = Reg.BC_STATUS) s t) ∧
        (s.epoch c ≠ e.epoch → Ends (.rdmaRequestServed n qp false addr data) s fun t => Counts s t (rxBytes n.val) data.length ∧
          KeepsAllBut (fun a => a = rxBytes n.val) s t)) ∧
    (let tab := Reg.HIF_QPTAB
     let a := s.fld tab F.HIF_QPTAB_BASE * 64
     let k := s.fld tab F.HIF_QPTAB_COUNT
     (s.qpInUse = true → Ignores (.qptabWrite v) s hif F.HIF_STATUS_BAD_WRITE) ∧
     (s.qpInUse = false → v.get F.HIF_QPTAB_COUNT ≤ 1024 → Ends (.qptabWrite v) s fun t => t.on hif F.HIF_STATUS_QP_LOADING = true ∧
       t.fld tab F.HIF_QPTAB_COUNT = v.get F.HIF_QPTAB_COUNT ∧ t.fld tab F.HIF_QPTAB_BASE = v.get F.HIF_QPTAB_BASE ∧ t.mgmt = s.mgmt ∧
       KeepsAllBut (fun r => r = hif ∨ r = tab) s t) ∧
     (s.on hif F.HIF_STATUS_QP_LOADING = false → NoEffect .qpTableLoaded s) ∧
     (s.on hif F.HIF_STATUS_QP_LOADING = true → s.Steady [(a, 64 * k)] → Ends .qpTableLoaded s fun t => t.on hif F.HIF_STATUS_QP_LOADING = false ∧
       t.mgmt = { s.mgmt with qps := s.hbmBytes a (64 * k) } ∧ KeepsData (fun r => r = hif ∨ IsHitMiss r) s t))

/-- Power-up, rails, the clock requests, surge, the clamp, temperatures, trips and rail losses (R510, R532, R533, R534, R535, R536,
R537, R538, R539, R540, R542, R545). For every sound state: POWER_ON_RESET leaves every data-plane register at its reset value
and memory empty, boots the accepted slot with the higher ACTIVE_SEQ and drives MAIN_EN, or enters RECOVERY. PWR_GOOD_RISE
trains the links and the stacks, and a stack that fails is FATAL. RAIL_SAMPLE shows the rail and the package power; VOLTAGE_LOOP
moves VID by at most 5 mV within its range, and at the limit lowers its clock request with an entry; DROOP is counted.
SUSTAINED_LOOP and THERMAL_LOOP move their requests by one step by their thresholds; surge begins only with its conditions and
ends at 20 s with an entry; the clamp is counted and posted when it is new, and is released. EFFECTIVE is the lowest request.
THERMTRIP latches TRIP, and a rail loss with PERST_N high stops the planes; TRIP_CLEAR works only without PWR_GOOD. PWR_CTRL
takes legal values. Concludes that exec answers a next state for POWER_ON_RESET, PWR_GOOD_RISE, RAIL_SAMPLE, VOLTAGE_LOOP,
DROOP, SUSTAINED_LOOP, SURGE_BEGIN, SURGE_END, CURRENT_CLAMP, CLAMP_RELEASE, THERMAL_LOOP, THERMTRIP, TRIP_CLEAR, RAIL_LOSS,
THROTTLE_N, PWR_CTRL_WRITE. -/
def Obligations.PowerAndThermal : Prop :=
  ∀ (s : State), s.Sound →
    let st := Reg.PWR_STATUS
    let clk := Reg.PWR_CLOCK
    let ctl := Reg.PWR_CTRL
    let clocked (t : State) : Prop := t.fld clk F.PWR_CLOCK_EFFECTIVE = [if t.on st F.PWR_STATUS_SURGING then 72 else 64, t.fld ctl F.PWR_CTRL_CLK_CAP,
      t.fld clk F.PWR_CLOCK_SUST_REQ, t.fld clk F.PWR_CLOCK_THERM_REQ, t.fld clk F.PWR_CLOCK_AVS_REQ, if t.pins.throttle then 72 else 32].foldl min 72
    let loop (a : Nat) : Prop := a = clk ∨ a = Reg.PWR_SURGE
    (Ends .powerOnReset s fun t =>
      t.mem = [] ∧ t.poison = [] ∧ t.acc = [] ∧ t.now = 0 ∧ t.fatal = false ∧ t.mgmt.slot0 = s.mgmt.slot0 ∧ t.mgmt.slot1 = s.mgmt.slot1 ∧
      t.mgmt.imgA = s.mgmt.imgA ∧ t.mgmt.imgB = s.mgmt.imgB ∧
      (∀ a, a ≠ Reg.MGT_STATUS → a ≠ Reg.CFG_STATUS → a ≠ st → ¬ IsLedger a → t.reg a = resetValue a) ∧
      (s.mgmt.slot0 = none → s.mgmt.slot1 = none → t.fld Reg.MGT_STATUS F.MGT_STATUS_STATE = 3 ∧ t.pins.mainEn = false) ∧
      (s.mgmt.slot0 ≠ none ∨ s.mgmt.slot1 ≠ none → t.fld Reg.MGT_STATUS F.MGT_STATUS_STATE = 1 ∧ t.pins.mainEn = true ∧ .pin "MAIN_EN" true ∈ t.out) ∧
      ∀ x y, s.mgmt.slot0 = some x → s.mgmt.slot1 = some y → t.fld Reg.MGT_STATUS F.MGT_STATUS_FW_SLOT = if x.seq < y.seq then 1 else 0) ∧
    (s.pins.pwrGood = true → ∀ a b m, NoEffect (.pwrGoodRise a b m) s) ∧
    (s.pins.pwrGood = false → s.fatal = false → s.recovery = false → s.mgmt.imgA = none → s.mgmt.imgB = none →
      let pins (t : State) : Prop := t.pins = { s.pins with pwrGood := true, vrFault := true } ∧ t.on st F.PWR_STATUS_PWR_GOOD = true
      (Ends (.pwrGoodRise [] [] 0) s fun t => pins t ∧ t.fld Reg.MEM_STATUS F.MEM_STATUS_STATE = 1 ∧
        (∀ n, n < 8 → t.on (Reg.MEM_S_STATUS n) F.MEM_S_STATUS_TRAINED = true) ∧
        KeepsAllBut (fun a => a = st ∨ a = Reg.MEM_STATUS ∨ (∃ k, k < 5 ∧ a = Reg.FLR_LINK_STATUS k) ∨ ∃ n, n < 8 ∧ a = Reg.MEM_S_STATUS n) s t) ∧
      ∀ m, m ≠ 0 → Ends (.pwrGoodRise [] [] m) s fun t => pins t ∧ t.fld Reg.MEM_STATUS F.MEM_STATUS_STATE = 3 ∧ t.fatal = true ∧ Posts s t ∧
        (∀ n, n < 8 → t.on (Reg.MEM_S_STATUS n) F.MEM_S_STATUS_TRAINED = !bit m.toNat n)) ∧
    (∀ (r : Fin 13) (mv da : BitVec 16),
      let w (i : Nat) : Nat := if i = r.val then mv.toNat * da.toNat
        else s.fld (Reg.PWR_RAIL i) F.PWR_RAIL_VOLTAGE * s.fld (Reg.PWR_RAIL i) F.PWR_RAIL_CURRENT
      let e := s.power.energy + mv.toNat * da.toNat
      s.Below Reg.PWR_ENERGY (e / 100000) → Ends (.railSample r mv da) s fun t =>
        t.fld (Reg.PWR_RAIL r.val) F.PWR_RAIL_VOLTAGE = mv.toNat ∧ t.fld (Reg.PWR_RAIL r.val) F.PWR_RAIL_CURRENT = da.toNat ∧
        t.fld Reg.PWR_PKG F.PWR_PKG_POWER_W = min 0xFFFF (((List.range 13).map w).sum / 10000) ∧ Counts s t Reg.PWR_ENERGY (e / 100000) ∧
        t.power.energy = e % 100000 ∧ KeepsAllBut (fun a => a = Reg.PWR_RAIL r.val ∨ a = Reg.PWR_PKG ∨ a = Reg.PWR_ENERGY) s t) ∧
    (∀ (d : Fin 6) (margin target : BitVec 8),
      let old := s.vid d.val
      let lo := if d.val < 4 then 600 else 700
      let hi := if d.val < 4 then 950 else 900
      let new := if margin < target then min hi (old + 5) else if target < margin then max lo (old - 5) else old
      let die := Reg.PWR_DIE d.val
      let shown (t : State) : Prop := t.fld die F.PWR_DIE_VID = new ∧ t.fld die F.PWR_DIE_MARGIN = margin.toNat
      (¬ (margin < target ∧ old = hi) → Ends (.voltageLoop d margin target) s fun t => shown t ∧
        t.out = s.out ++ (if new = old then [] else [.vid d.val new]) ∧ KeepsAllBut (fun a => a = die) s t) ∧
      (margin < target → old = hi → s.on st F.PWR_STATUS_AVS_LIMIT = false → Ends (.voltageLoop d margin target) s fun t => shown t ∧
        t.on st F.PWR_STATUS_AVS_LIMIT = true ∧ t.fld clk F.PWR_CLOCK_AVS_REQ = max 32 (s.fld clk F.PWR_CLOCK_AVS_REQ - 1) ∧ clocked t ∧ Posts s t ∧
        KeepsAllBut (fun a => a = die ∨ a = st ∨ loop a ∨ IsLedger a) s t)) ∧
    (∀ d k, s.Below Reg.PWR_STRETCH k → Ends (.droop d k) s fun t => Counts s t Reg.PWR_STRETCH k ∧ KeepsAllBut (fun a => a = Reg.PWR_STRETCH) s t) ∧
    (∀ watts,
      let target := if s.on st F.PWR_STATUS_SURGING then 2100 else s.fld ctl F.PWR_CTRL_LIMIT_W
      let v := s.fld clk F.PWR_CLOCK_SUST_REQ
      Ends (.sustainedLoop watts) s fun t => t.fld clk F.PWR_CLOCK_SUST_REQ =
        (if target < watts then max 32 (v - 1) else if watts * 100 ≤ target * 98 then min 72 (v + 1) else v) ∧ clocked t ∧ KeepsAllBut loop s t) ∧
    (let begins := s.on ctl F.PWR_CTRL_SURGE_EN = true ∧ s.on st F.PWR_STATUS_SURGING = false ∧ s.usedMs ≤ 18000 ∧
       s.fld Reg.PWR_PKG F.PWR_PKG_JUNC_C < 90 ∧ s.pins.icrit = true
     (begins → Ends .surgeBegin s fun t => t.on st F.PWR_STATUS_SURGING = true ∧ clocked t ∧ KeepsAllBut (fun a => a = st ∨ loop a) s t) ∧
     (¬ begins → NoEffect .surgeBegin s)) ∧
    (let ends' := s.on st F.PWR_STATUS_SURGING = true ∧ 20000 ≤ s.usedMs
     (ends' → Ends .surgeEnd s fun t => t.on st F.PWR_STATUS_SURGING = false ∧ t.on st F.PWR_STATUS_SURGE_EXHAUSTED = true ∧ clocked t ∧ Posts s t ∧
       KeepsAllBut (fun a => a = st ∨ loop a ∨ IsLedger a) s t) ∧ (¬ ends' → NoEffect .surgeEnd s)) ∧
    (s.on st F.PWR_STATUS_CLAMPING = false → NoEffect .clampRelease s ∧ ∀ src,
      let pins := if src = .icrit then { s.pins with icrit := false } else s.pins
      ((∃ x, s.power.clampEnd = some x ∧ s.now < x + 1000000) → Ends (.currentClamp src) s fun t => t.on st F.PWR_STATUS_CLAMPING = true ∧
        t.pins = pins ∧ clocked t ∧ KeepsAllBut (fun a => a = st ∨ loop a) s t) ∧
      ((∀ x, s.power.clampEnd = some x → x + 1000000 ≤ s.now) → s.Below Reg.PWR_CLAMPS 1 → Ends (.currentClamp src) s fun t =>
        t.on st F.PWR_STATUS_CLAMPING = true ∧ t.on st F.PWR_STATUS_CLAMPED = true ∧ t.pins = pins ∧ Counts s t Reg.PWR_CLAMPS 1 ∧ clocked t ∧ Posts s t ∧
        KeepsAllBut (fun a => a = st ∨ a = Reg.PWR_CLAMPS ∨ loop a ∨ IsLedger a) s t)) ∧
    (s.on st F.PWR_STATUS_CLAMPING = true → (∀ d, NoEffect (.currentClamp (.die d)) s) ∧ Ends .clampRelease s fun t =>
      t.on st F.PWR_STATUS_CLAMPING = false ∧ t.power.clampEnd = some s.now ∧ t.pins = { s.pins with icrit := true } ∧ clocked t ∧
      KeepsAllBut (fun a => a = st ∨ loop a) s t) ∧
    (∀ rs : List Reading,
      let hottest (l : List Reading) : Nat := (l.map (·.c)).foldl max 0
      let junctions := rs.filter fun r => !r.hbm
      let bases := (List.range 8).map s.stackReading
      let h := hottest (junctions ++ bases)
      let v := s.fld clk F.PWR_CLOCK_THERM_REQ
      let new := if 95 ≤ h then max 32 (v - 1) else if 93 ≤ h then v else min 72 (v + 1)
      let regs (a : Nat) : Prop := a = st ∨ loop a ∨ a = Reg.PWR_PKG ∨ ∃ d, d < 6 ∧ a = Reg.PWR_DIE d
      let moved (t : State) : Prop := t.fld clk F.PWR_CLOCK_THERM_REQ = new ∧ (t.on st F.PWR_STATUS_THROTTLING = true ↔ new < 72) ∧ clocked t ∧
        t.fld Reg.PWR_PKG F.PWR_PKG_HBM_C = min 255 (hottest bases) ∧
        t.fld Reg.PWR_PKG F.PWR_PKG_JUNC_C = if junctions = [] then s.fld Reg.PWR_PKG F.PWR_PKG_JUNC_C else min 255 (hottest junctions)
      (¬ (95 ≤ h ∧ v = 72) → Ends (.thermalLoop rs) s fun t => moved t ∧ KeepsAllBut regs s t) ∧
      (95 ≤ h → v = 72 → Ends (.thermalLoop rs) s fun t => moved t ∧ t.on st F.PWR_STATUS_THROTTLED = true ∧ Posts s t ∧
        KeepsAllBut (fun a => regs a ∨ IsLedger a) s t)) ∧
    (∀ r : Reading,
      let c := if r.hbm then s.fld (Reg.MEM_S_STATUS (r.sensor.toNat % 8)) F.MEM_S_STATUS_TEMP else r.c
      let trips := (if r.hbm then 100 else 105) ≤ c ∧ s.on st F.PWR_STATUS_TRIP = false
      (¬ trips → NoEffect (.thermtrip r) s) ∧
      (trips → Ends (.thermtrip r) s fun t => t.on st F.PWR_STATUS_TRIP = true ∧ t.pins = { s.pins with thermtrip := false, mainEn := false } ∧
        t.fatal = true ∧ Posts s t ∧ SameMemory s t ∧ t.acc = s.acc)) ∧
    (s.pins.pwrGood = true → Ignores .tripClear s st F.PWR_STATUS_BAD_WRITE) ∧
    (s.pins.pwrGood = false → (s.on st F.PWR_STATUS_TRIP = false → NoEffect .tripClear s) ∧
      (s.on st F.PWR_STATUS_TRIP = true → Ends .tripClear s fun t => t.on st F.PWR_STATUS_TRIP = false ∧ t.pins = { s.pins with thermtrip := true } ∧
        t.out = s.out ++ [.pin "THERMTRIP_N" true] ∧ KeepsAllBut (fun a => a = st) s t)) ∧
    (let rail (k : RailLoss) (p : Pins) : Prop :=
       (s.pins.perst = true → Ends (.railLoss k) s fun t => t.pins = { p with mainEn := false } ∧ t.on st F.PWR_STATUS_VR_FAULT = true ∧
         t.fatal = true ∧ Posts s t ∧ SameMemory s t ∧ t.acc = s.acc) ∧
       (s.pins.perst = false → Ends (.railLoss k) s fun t => t.pins = p ∧ t.fatal = s.fatal ∧ KeepsAllBut (fun a => a = st) s t)
     (s.pins.pwrGood = true → rail .pwrGood { s.pins with pwrGood := false }) ∧ (s.pins.vrFault = true → rail .vrFault { s.pins with vrFault := false }) ∧
     (s.pins.pwrGood = false → NoEffect (.railLoss .pwrGood) s) ∧ (s.pins.vrFault = false → NoEffect (.railLoss .vrFault) s)) ∧
    (∀ level, Ends (.throttleN level) s fun t => t.pins = { s.pins with throttle := level } ∧ t.on st F.PWR_STATUS_EXT_THROTTLE = !level ∧ clocked t ∧
      KeepsAllBut (fun a => a = st ∨ loop a) s t) ∧
    ∀ v : Word, 100 ≤ v.get F.PWR_CTRL_ICC_A → v.get F.PWR_CTRL_ICC_A ≤ 700 → 32 ≤ v.get F.PWR_CTRL_CLK_CAP → 1200 ≤ v.get F.PWR_CTRL_LIMIT_W →
      v.get F.PWR_CTRL_LIMIT_W ≤ 1800 → v.get F.PWR_CTRL_TRIP_CLEAR = 0 → Ends (.pwrCtrlWrite v) s fun t =>
        (∀ f ∈ [F.PWR_CTRL_SURGE_EN, F.PWR_CTRL_ICC_A, F.PWR_CTRL_LIMIT_W], t.fld ctl f = v.get f) ∧
        (v.get F.PWR_CTRL_CLK_CAP ≤ 72 → t.fld ctl F.PWR_CTRL_CLK_CAP = v.get F.PWR_CTRL_CLK_CAP) ∧
        (72 < v.get F.PWR_CTRL_CLK_CAP → t.fld ctl F.PWR_CTRL_CLK_CAP = s.fld ctl F.PWR_CTRL_CLK_CAP ∧ t.on st F.PWR_STATUS_BAD_WRITE = true) ∧
        (v.get F.PWR_CTRL_SURGE_EN = 0 → t.on st F.PWR_STATUS_SURGING = false) ∧ clocked t ∧
        KeepsAllBut (fun a => a = ctl ∨ a = st ∨ loop a) s t

/-- What reset leaves (R9, R37, R100, R475, R503). At reset every register reads the value of the reset column of its table, every
context is ABSENT, every tile IDLE, every domain OFF and every command queue DISABLED, every statistics counter is zero, the
power limits and clock requests, the shares, slices and comet settings have the values that their tables give, and no command
waits. That logical tile l is backed by physical tile 40 (l / 36) + l mod 36 rests on fuses that name no bad tile (log 3), and
that memory holds nothing on log 4. -/
def Obligations.ResetValues : Prop :=
  let s := State.reset
  (∀ a, s.reg a = resetValue a) ∧ (∀ a, s.byte a = 0) ∧ s.pending = [] ∧
  (∀ c, c < 4096 → s.ctxState c = CtxState.ABSENT ∧ s.share c = 1 ∧ s.qState c = QState.DISABLED ∧ s.fld (Reg.Q_CFG c) F.Q_CFG_SIZE_LOG = 4) ∧
  (∀ p, p < 160 → s.tileSt p = TileSt.IDLE ∧ s.tileCtx p = none ∧ ∀ n, n < 32 → s.reg (Reg.TILE_SREG p n) = 0) ∧
  (∀ d, d < 16 → s.role d = 0 ∧ s.tide d = 0) ∧ (∀ a, isCounter a = true → s.reg a = 0) ∧
  (∀ l, l < 144 → s.phys l = 40 * (l / 36) + l % 36) ∧
  (∀ q, q < 16 → s.fld (Reg.PRT_CTRL q) F.PRT_CTRL_SLICE_US = 1000 ∧ s.fld (Reg.PRT_CTRL q) F.PRT_CTRL_TM_SAVE = 64) ∧
  s.fld Reg.PWR_CTRL F.PWR_CTRL_LIMIT_W = 1200 ∧ s.fld Reg.PWR_CTRL F.PWR_CTRL_CLK_CAP = 72 ∧ s.fld Reg.PWR_CTRL F.PWR_CTRL_ICC_A = 700 ∧
  s.fld Reg.PWR_CLOCK F.PWR_CLOCK_EFFECTIVE = 64 ∧ s.fld Reg.PWR_CLOCK F.PWR_CLOCK_SUST_REQ = 72 ∧ s.fld Reg.PWR_CLOCK F.PWR_CLOCK_THERM_REQ = 72 ∧
  s.fld Reg.COM_CTRL F.COM_CTRL_KEEP = 256 ∧ s.fld Reg.COM_CTRL F.COM_CTRL_GRACE_MS = 10000 ∧ s.fld Reg.COM_CTRL F.COM_CTRL_RESEND_MS = 100 ∧
  s.fld Reg.HIF_CTRL F.HIF_CTRL_NVME_TIMEOUT_MS = 1000
end

