-- ==== Sys2Proof/Laws/Store.lean ====
section
/-! SUPPORT. Sparse tables: a read after a write, and that every operation keeps the canonical form. -/
namespace Sys2Proof.Machine

theorem Store.lookup_of_lt {β : Type} {d : Nat → β} {m : Store β} {k : Nat} (h : ∀ j ∈ m.map Prod.fst, k < j) : Store.lookup d m k = d k := by
  induction m with
  | nil => rfl
  | cons e m ih =>
    have h0 : k < e.1 := h e.1 (by simp)
    have hm : ∀ j ∈ m.map Prod.fst, k < j := fun j hj => h j (List.mem_cons_of_mem _ hj)
    simp [Store.lookup, Nat.ne_of_lt h0, ih hm]

variable {β : Type} [DecidableEq β] {d : Nat → β}

theorem Store.wf_cons {e : Nat × β} {m : Store β} (h : Store.Wf d (e :: m)) :
    Store.Wf d m ∧ (∀ j ∈ m.map Prod.fst, e.1 < j) ∧ e.2 ≠ d e.1 := by
  obtain ⟨hp, hv⟩ := h
  rw [List.map_cons, List.pairwise_cons] at hp
  exact ⟨⟨hp.2, fun x hx => hv x (List.mem_cons_of_mem _ hx)⟩, hp.1, hv e (by simp)⟩

/-- A read after a write of a canonical table. -/
theorem Store.lookup_update {m : Store β} (h : Store.Wf d m) (k : Nat) (v : β) (j : Nat) :
    Store.lookup d (Store.update d m k v) j = if j = k then v else Store.lookup d m j := by
  induction m with
  | nil =>
    by_cases hv : v = d k <;> by_cases hj : j = k <;> simp [Store.update, Store.lookup, hv, hj]
  | cons e m ih =>
    obtain ⟨i, w⟩ := e
    obtain ⟨hm, hlt, -⟩ := Store.wf_cons h
    have hk (hki : k < i) : Store.lookup d m k = d k :=
      Store.lookup_of_lt fun j hj => Nat.lt_trans hki (hlt j hj)
    have hi : Store.lookup d m i = d i := Store.lookup_of_lt hlt
    simp only [Store.update]
    by_cases hki : k < i
    · rw [if_pos hki]
      by_cases hv : v = d k
      · rw [if_pos hv]
        by_cases hj : j = k
        · subst hj; simp [Store.lookup, Nat.ne_of_lt hki, hk hki, hv]
        · simp [hj]
      · rw [if_neg hv]
        by_cases hj : j = k <;> simp [Store.lookup, hj]
    · rw [if_neg hki]
      by_cases he : k = i
      · subst he
        rw [if_pos rfl]
        by_cases hv : v = d k
        · rw [if_pos hv]
          by_cases hj : j = k
          · subst hj; simp [hi, hv]
          · simp [Store.lookup, hj]
        · rw [if_neg hv]
          by_cases hj : j = k <;> simp [Store.lookup, hj]
      · rw [if_neg he]
        by_cases hji : j = i
        · subst hji
          have : j ≠ k := fun hjk => he hjk.symm
          simp [Store.lookup, this]
        · simp [Store.lookup, hji, ih hm]

theorem Store.mem_update {m : Store β} {k : Nat} {v : β} {e : Nat × β} (he : e ∈ Store.update d m k v) :
    e ∈ m ∨ (e = (k, v) ∧ v ≠ d k) := by
  induction m with
  | nil =>
    simp only [Store.update] at he
    by_cases hv : v = d k <;> simp_all
  | cons x m ih =>
    simp only [Store.update] at he
    split at he
    · split at he
      · exact .inl he
      · rcases List.mem_cons.1 he with h | h
        · exact .inr ⟨h, ‹_›⟩
        · exact .inl h
    · split at he
      · split at he
        · exact .inl (List.mem_cons_of_mem _ he)
        · rcases List.mem_cons.1 he with h | h
          · exact .inr ⟨h, ‹_›⟩
          · exact .inl (List.mem_cons_of_mem _ h)
      · rcases List.mem_cons.1 he with h | h
        · exact .inl (h ▸ List.mem_cons_self ..)
        · rcases ih h with h | h
          · exact .inl (List.mem_cons_of_mem _ h)
          · exact .inr h

/-- A write keeps the canonical form. -/
theorem Store.wf_update {m : Store β} (h : Store.Wf d m) (k : Nat) (v : β) : Store.Wf d (Store.update d m k v) := by
  induction m with
  | nil =>
    by_cases hv : v = d k
    · simp [Store.update, Store.Wf, hv]
    · simp [Store.update, Store.Wf, hv]
  | cons e m ih =>
    obtain ⟨i, w⟩ := e
    obtain ⟨hm, hlt, hw⟩ := Store.wf_cons h
    simp only [Store.update]
    by_cases hki : k < i
    · rw [if_pos hki]
      by_cases hv : v = d k
      · rw [if_pos hv]; exact h
      · rw [if_neg hv]
        refine ⟨?_, ?_⟩
        · rw [List.map_cons, List.pairwise_cons]
          refine ⟨fun j hj => ?_, h.1⟩
          rcases List.mem_cons.1 hj with rfl | hj
          · exact hki
          · exact Nat.lt_trans hki (hlt j hj)
        · intro x hx
          rcases List.mem_cons.1 hx with rfl | hx
          · exact hv
          · exact h.2 x hx
    · rw [if_neg hki]
      by_cases he : k = i
      · subst he
        rw [if_pos rfl]
        by_cases hv : v = d k
        · rw [if_pos hv]; exact hm
        · rw [if_neg hv]
          refine ⟨?_, ?_⟩
          · rw [List.map_cons, List.pairwise_cons]; exact ⟨hlt, hm.1⟩
          · intro x hx
            rcases List.mem_cons.1 hx with rfl | hx
            · exact hv
            · exact hm.2 x hx
      · rw [if_neg he]
        have hu := ih hm
        refine ⟨?_, ?_⟩
        · rw [List.map_cons, List.pairwise_cons]
          refine ⟨fun j hj => ?_, hu.1⟩
          obtain ⟨x, hx, rfl⟩ := List.mem_map.1 hj
          rcases Store.mem_update hx with hx | ⟨rfl, -⟩
          · exact hlt _ (List.mem_map_of_mem hx)
          · show i < k; omega
        · intro x hx
          rcases List.mem_cons.1 hx with rfl | hx
          · exact hw
          · exact hu.2 x hx

/-- Dropping entries keeps the canonical form. -/
theorem Store.wf_filter {m : Store β} (h : Store.Wf d m) (p : Nat × β → Bool) : Store.Wf d (m.filter p) :=
  ⟨h.1.sublist (List.filter_sublist.map _), fun e he => h.2 e (List.mem_filter.1 he).1⟩

theorem Store.wf_clear {m : Store β} (h : Store.Wf d m) (p : Nat → Bool) : Store.Wf d (Store.clear p m) :=
  Store.wf_filter h _

/-- Changing listed values keeps the canonical form. -/
theorem Store.wf_mapIf {m : Store β} (h : Store.Wf d m) (p : Nat → Bool) (f : Nat → β → β) :
    Store.Wf d (Store.mapIf d p f m) := by
  unfold Store.mapIf
  suffices ∀ (l acc : Store β), Store.Wf d acc →
      Store.Wf d (l.foldl (fun acc e => if p e.1 then Store.update d acc e.1 (f e.1 e.2) else acc) acc) from this m m h
  intro l
  induction l with
  | nil => intro acc ha; exact ha
  | cons e l ih =>
    intro acc ha
    simp only [List.foldl_cons]
    split
    · exact ih _ (Store.wf_update ha _ _)
    · exact ih _ ha

end Sys2Proof.Machine
end

