-- ==== Sys2Proof/Laws/Regs.lean ====
section
/-! SUPPORT. Registers and their fields: what a write changes (each law asks that the registers are in canonical form, which
every operation keeps). -/
namespace Sys2Proof

/-- A field that lies within a register. -/
abbrev Fld.Ok (f : Fld) : Prop := f.lo ≤ f.hi ∧ f.hi < 64

/-- Two fields without a common bit. -/
abbrev Fld.Apart (f g : Fld) : Prop := f.hi < g.lo ∨ g.hi < f.lo

/-- The bits of a word with a field written. -/
theorem Word.testBit_put (w : Word) {f : Fld} (hf : f.Ok) (v i : Nat) :
    (w.put f v).toNat.testBit i =
      if f.lo ≤ i ∧ i ≤ f.hi then v.testBit (i - f.lo) else w.toNat.testBit i := by
  obtain ⟨hl, hh⟩ := hf
  have hw := w.isLt
  generalize hn : w.toNat = n at hw
  have hwd : f.lo + f.width = f.hi + 1 := by unfold Fld.width; omega
  -- n splits into the part above the field, the field and the part below it
  have e : Word.put w f v = BitVec.ofNat 64 (n - ((n >>> f.lo) % 2 ^ f.width) <<< f.lo + (v % 2 ^ f.width) <<< f.lo) := by
    simp [Word.put, Word.get, hn]
  have hlow : n % 2 ^ f.lo < 2 ^ f.lo := Nat.mod_lt _ (Nat.two_pow_pos _)
  have hsplit : n = (n >>> (f.hi + 1)) * 2 ^ (f.hi + 1) + ((n >>> f.lo) % 2 ^ f.width) * 2 ^ f.lo + n % 2 ^ f.lo := by
    have h1 : n = (n >>> f.lo) * 2 ^ f.lo + n % 2 ^ f.lo := by
      rw [Nat.shiftRight_eq_div_pow]; exact (Nat.div_add_mod' n _).symm
    have h2 : n >>> f.lo = (n >>> (f.hi + 1)) * 2 ^ f.width + (n >>> f.lo) % 2 ^ f.width := by
      have : n >>> (f.hi + 1) = (n >>> f.lo) / 2 ^ f.width := by
        rw [← hwd, Nat.shiftRight_add, Nat.shiftRight_eq_div_pow (n >>> f.lo)]
      rw [this]; exact (Nat.div_add_mod' _ _).symm
    have h3 : 2 ^ (f.hi + 1) = 2 ^ f.width * 2 ^ f.lo := by rw [← hwd, Nat.add_comm, Nat.pow_add]
    calc n = (n >>> f.lo) * 2 ^ f.lo + n % 2 ^ f.lo := h1
      _ = ((n >>> (f.hi + 1)) * 2 ^ f.width + (n >>> f.lo) % 2 ^ f.width) * 2 ^ f.lo + n % 2 ^ f.lo := by rw [← h2]
      _ = _ := by rw [h3, Nat.add_mul, Nat.mul_assoc]
  have hput : n - ((n >>> f.lo) % 2 ^ f.width) <<< f.lo + (v % 2 ^ f.width) <<< f.lo
      = 2 ^ (f.hi + 1) * (n >>> (f.hi + 1)) + (2 ^ f.lo * (v % 2 ^ f.width) + n % 2 ^ f.lo) := by
    rw [Nat.shiftLeft_eq, Nat.shiftLeft_eq]
    have c1 := Nat.mul_comm (n >>> (f.hi + 1)) (2 ^ (f.hi + 1))
    have c2 := Nat.mul_comm (v % 2 ^ f.width) (2 ^ f.lo)
    omega
  have hmid : 2 ^ f.lo * (v % 2 ^ f.width) + n % 2 ^ f.lo < 2 ^ (f.hi + 1) := by
    have h3 : 2 ^ (f.hi + 1) = 2 ^ f.lo * 2 ^ f.width := by rw [← hwd, Nat.pow_add]
    have h4 : v % 2 ^ f.width + 1 ≤ 2 ^ f.width := Nat.mod_lt _ (Nat.two_pow_pos _)
    calc 2 ^ f.lo * (v % 2 ^ f.width) + n % 2 ^ f.lo < 2 ^ f.lo * (v % 2 ^ f.width) + 2 ^ f.lo := by omega
      _ = 2 ^ f.lo * (v % 2 ^ f.width + 1) := by rw [Nat.mul_add, Nat.mul_one]
      _ ≤ _ := by rw [h3]; exact Nat.mul_le_mul_left _ h4
  rw [e, hput, BitVec.toNat_ofNat, Nat.testBit_mod_two_pow, Nat.testBit_two_pow_mul_add _ hmid,
    Nat.testBit_two_pow_mul_add _ hlow, Nat.testBit_mod_two_pow, Nat.testBit_mod_two_pow, Nat.testBit_shiftRight]
  by_cases h64 : i < 64
  · by_cases h1 : i < f.hi + 1
    · by_cases h2 : i < f.lo
      · have : ¬ (f.lo ≤ i ∧ i ≤ f.hi) := by omega
        simp [h64, h1, h2, this]
      · have h3 : f.lo ≤ i ∧ i ≤ f.hi := by omega
        have h4 : i - f.lo < f.width := by omega
        simp [h64, h1, h2, h3, h4]
    · have : ¬ (f.lo ≤ i ∧ i ≤ f.hi) := by omega
      have h5 : f.hi + 1 + (i - (f.hi + 1)) = i := by omega
      simp [h64, h1, this, h5]
  · have : ¬ (f.lo ≤ i ∧ i ≤ f.hi) := by omega
    have hb : n.testBit i = false :=
      Nat.testBit_lt_two_pow (Nat.lt_of_lt_of_le hw (Nat.pow_le_pow_right (by omega) (by omega)))
    simp [h64, this, hb]

theorem Word.testBit_get (w : Word) (f : Fld) (i : Nat) :
    (w.get f).testBit i = (decide (i < f.width) && w.toNat.testBit (f.lo + i)) := by
  simp [Word.get, Nat.testBit_mod_two_pow, Nat.testBit_shiftRight]

/-- A field reads what was written to it. -/
theorem Word.get_put_same (w : Word) {f : Fld} (hf : f.Ok) (v : Nat) : (w.put f v).get f = v % 2 ^ f.width := by
  apply Nat.eq_of_testBit_eq
  intro i
  rw [Word.testBit_get, Word.testBit_put w hf, Nat.testBit_mod_two_pow]
  by_cases h : i < f.width
  · have : f.lo ≤ f.lo + i ∧ f.lo + i ≤ f.hi := by unfold Fld.width at h; omega
    simp [h, this]
  · simp [h]

/-- A field reads as before where no bit of it was written. -/
theorem Word.get_put_apart (w : Word) {f g : Fld} (hf : f.Ok) (h : f.Apart g) (v : Nat) : (w.put f v).get g = w.get g := by
  apply Nat.eq_of_testBit_eq
  intro i
  rw [Word.testBit_get, Word.testBit_get, Word.testBit_put w hf]
  by_cases hi : i < g.width
  · have : ¬ (f.lo ≤ g.lo + i ∧ g.lo + i ≤ f.hi) := by unfold Fld.width at hi; omega
    simp [this]
  · simp [hi]

/-- A field is below the power of two of its width. -/
theorem Word.get_lt (w : Word) (f : Fld) : w.get f < 2 ^ f.width := Nat.mod_lt _ (Nat.two_pow_pos _)

namespace Machine

variable {s : State}

theorem RegsWf_setR (h : s.RegsWf) (off : Nat) (v : Word) : (setR off v s).RegsWf := Store.wf_update h off v
theorem RegsWf_put (h : s.RegsWf) (off : Nat) (f : Fld) (v : Nat) : (put off f v s).RegsWf := RegsWf_setR h _ _
theorem RegsWf_raise (h : s.RegsWf) (off : Nat) (f : Fld) : (raise off f s).RegsWf := RegsWf_setR h _ _
theorem RegsWf_putB (h : s.RegsWf) (off : Nat) (f : Fld) (b : Bool) : (putB off f b s).RegsWf := RegsWf_setR h _ _
theorem RegsWf_emit (h : s.RegsWf) (o : Output) : (emit o s).RegsWf := h
theorem RegsWf_mapRegs (h : s.RegsWf) (p : Nat → Bool) (f : Nat → Word → Word) : (mapRegs p f s).RegsWf :=
  Store.wf_mapIf h p f

/-- A register reads what was written to it, and every other register reads as before. -/
theorem reg_setR (h : s.RegsWf) (off : Nat) (v : Word) (a : Nat) :
    (setR off v s).reg a = if a = off then v else s.reg a := Store.lookup_update h off v a

theorem reg_setR_same (h : s.RegsWf) (off : Nat) (v : Word) : (setR off v s).reg off = v := by simp [reg_setR h]
theorem reg_setR_ne (h : s.RegsWf) {off a : Nat} (v : Word) (ha : a ≠ off) : (setR off v s).reg a = s.reg a := by
  simp [reg_setR h, ha]

theorem reg_put_ne (h : s.RegsWf) {off a : Nat} (f : Fld) (v : Nat) (ha : a ≠ off) : (put off f v s).reg a = s.reg a :=
  reg_setR_ne h _ ha
theorem reg_raise_ne (h : s.RegsWf) {off a : Nat} (f : Fld) (ha : a ≠ off) : (raise off f s).reg a = s.reg a :=
  reg_setR_ne h _ ha
theorem reg_putB_ne (h : s.RegsWf) {off a : Nat} (f : Fld) (b : Bool) (ha : a ≠ off) : (putB off f b s).reg a = s.reg a :=
  reg_setR_ne h _ ha

theorem fld_setR_same (h : s.RegsWf) (off : Nat) (v : Word) (f : Fld) : (setR off v s).fld off f = v.get f := by
  rw [State.fld, reg_setR_same h]
theorem fld_setR_ne (h : s.RegsWf) {off a : Nat} (v : Word) (f : Fld) (ha : a ≠ off) : (setR off v s).fld a f = s.fld a f := by
  rw [State.fld, reg_setR_ne h _ ha, State.fld]

/-- A field reads what was written to it. -/
theorem fld_put_same (h : s.RegsWf) (off : Nat) {f : Fld} (hf : f.Ok) (v : Nat) :
    (put off f v s).fld off f = v % 2 ^ f.width := by
  rw [put, fld_setR_same h, Word.get_put_same _ hf]

/-- A field of the same register reads as before where no bit of it was written. -/
theorem fld_put_apart (h : s.RegsWf) (off : Nat) {f g : Fld} (hf : f.Ok) (hg : f.Apart g) (v : Nat) :
    (put off f v s).fld off g = s.fld off g := by
  rw [put, fld_setR_same h, Word.get_put_apart _ hf hg]; rfl

theorem fld_put_ne (h : s.RegsWf) {off a : Nat} (f g : Fld) (v : Nat) (ha : a ≠ off) :
    (put off f v s).fld a g = s.fld a g := fld_setR_ne h _ _ ha

theorem fld_raise_same (h : s.RegsWf) (off : Nat) {f : Fld} (hf : f.Ok) : (raise off f s).fld off f = 1 := by
  rw [raise, fld_put_same h off hf]
  have : 0 < f.width := by unfold Fld.width; omega
  exact Nat.mod_eq_of_lt (Nat.one_lt_two_pow (by omega))
theorem fld_raise_apart (h : s.RegsWf) (off : Nat) {f g : Fld} (hf : f.Ok) (hg : f.Apart g) :
    (raise off f s).fld off g = s.fld off g := fld_put_apart h off hf hg 1
theorem fld_raise_ne (h : s.RegsWf) {off a : Nat} (f g : Fld) (ha : a ≠ off) : (raise off f s).fld a g = s.fld a g :=
  fld_put_ne h f g 1 ha
theorem fld_putB_same (h : s.RegsWf) (off : Nat) {f : Fld} (hf : f.Ok) (b : Bool) :
    (putB off f b s).fld off f = if b then 1 else 0 := by
  cases b
  · simp [putB, fld_put_same h off hf]
  · exact fld_raise_same h off hf
theorem fld_putB_apart (h : s.RegsWf) (off : Nat) {f g : Fld} (hf : f.Ok) (hg : f.Apart g) (b : Bool) :
    (putB off f b s).fld off g = s.fld off g := fld_put_apart h off hf hg _
theorem fld_putB_ne (h : s.RegsWf) {off a : Nat} (f g : Fld) (b : Bool) (ha : a ≠ off) :
    (putB off f b s).fld a g = s.fld a g := fld_put_ne h f g _ ha

@[simp] theorem when_true (f : State → State) (s : State) : when true f s = f s := rfl
@[simp] theorem when_false (f : State → State) (s : State) : when false f s = s := rfl
@[simp] theorem forEach_nil {α : Type} (f : α → State → State) (s : State) : forEach [] f s = s := rfl
@[simp] theorem forEach_cons {α : Type} (a : α) (l : List α) (f : α → State → State) (s : State) :
    forEach (a :: l) f s = forEach l f (f a s) := rfl

/-- A property that every round keeps holds after the loop. -/
theorem forEach_keeps {α : Type} (P : State → Prop) (f : α → State → State) (l : List α)
    (hf : ∀ a ∈ l, ∀ t, P t → P (f a t)) : ∀ s, P s → P (forEach l f s) := by
  induction l with
  | nil => intro s h; exact h
  | cons a l ih =>
    intro s h
    exact ih (fun b hb => hf b (List.mem_cons_of_mem _ hb)) _ (hf a (List.mem_cons_self ..) s h)

theorem when_keeps (P : State → Prop) {c : Bool} {f : State → State} (hf : c = true → ∀ t, P t → P (f t)) {s : State}
    (h : P s) : P (when c f s) := by
  cases c
  · exact h
  · exact hf rfl s h

end Machine
end Sys2Proof
end

