-- ==== Sys2Proof/Laws/State.lean ====
section
/-! SUPPORT. What the updates of one field leave of every other field, and what the tables read after an update. -/
namespace Sys2Proof.Machine

variable (s : State)

@[simp] theorem setR_mem (off : Nat) (v : Word) : (setR off v s).mem = s.mem := rfl
@[simp] theorem setR_poison (off : Nat) (v : Word) : (setR off v s).poison = s.poison := rfl
@[simp] theorem setR_acc (off : Nat) (v : Word) : (setR off v s).acc = s.acc := rfl
@[simp] theorem setR_path (off : Nat) (v : Word) : (setR off v s).path = s.path := rfl
@[simp] theorem setR_signals (off : Nat) (v : Word) : (setR off v s).signals = s.signals := rfl
@[simp] theorem setR_bundles (off : Nat) (v : Word) : (setR off v s).bundles = s.bundles := rfl
@[simp] theorem setR_domains (off : Nat) (v : Word) : (setR off v s).domains = s.domains := rfl
@[simp] theorem setR_tiles (off : Nat) (v : Word) : (setR off v s).tiles = s.tiles := rfl
@[simp] theorem setR_ports (off : Nat) (v : Word) : (setR off v s).ports = s.ports := rfl
@[simp] theorem setR_opens (off : Nat) (v : Word) : (setR off v s).opens = s.opens := rfl
@[simp] theorem setR_locals (off : Nat) (v : Word) : (setR off v s).locals = s.locals := rfl
@[simp] theorem setR_dropped (off : Nat) (v : Word) : (setR off v s).dropped = s.dropped := rfl
@[simp] theorem setR_nextTag (off : Nat) (v : Word) : (setR off v s).nextTag = s.nextTag := rfl
@[simp] theorem setR_mcasts (off : Nat) (v : Word) : (setR off v s).mcasts = s.mcasts := rfl
@[simp] theorem setR_rmaps (off : Nat) (v : Word) : (setR off v s).rmaps = s.rmaps := rfl
@[simp] theorem setR_phaseSlots (off : Nat) (v : Word) : (setR off v s).phaseSlots = s.phaseSlots := rfl
@[simp] theorem setR_queues (off : Nat) (v : Word) : (setR off v s).queues = s.queues := rfl
@[simp] theorem setR_turns (off : Nat) (v : Word) : (setR off v s).turns = s.turns := rfl
@[simp] theorem setR_stalled (off : Nat) (v : Word) : (setR off v s).stalled = s.stalled := rfl
@[simp] theorem setR_stagePorts (off : Nat) (v : Word) : (setR off v s).stagePorts = s.stagePorts := rfl
@[simp] theorem setR_versions (off : Nat) (v : Word) : (setR off v s).versions = s.versions := rfl
@[simp] theorem setR_replays (off : Nat) (v : Word) : (setR off v s).replays = s.replays := rfl
@[simp] theorem setR_reds (off : Nat) (v : Word) : (setR off v s).reds = s.reds := rfl
@[simp] theorem setR_runs (off : Nat) (v : Word) : (setR off v s).runs = s.runs := rfl
@[simp] theorem setR_panSlots (off : Nat) (v : Word) : (setR off v s).panSlots = s.panSlots := rfl
@[simp] theorem setR_harvest (off : Nat) (v : Word) : (setR off v s).harvest = s.harvest := rfl
@[simp] theorem setR_harvested (off : Nat) (v : Word) : (setR off v s).harvested = s.harvested := rfl
@[simp] theorem setR_restoring (off : Nat) (v : Word) : (setR off v s).restoring = s.restoring := rfl
@[simp] theorem setR_checks (off : Nat) (v : Word) : (setR off v s).checks = s.checks := rfl
@[simp] theorem setR_swap (off : Nat) (v : Word) : (setR off v s).swap = s.swap := rfl
@[simp] theorem setR_tmErrors (off : Nat) (v : Word) : (setR off v s).tmErrors = s.tmErrors := rfl
@[simp] theorem setR_swapWaits (off : Nat) (v : Word) : (setR off v s).swapWaits = s.swapWaits := rfl
@[simp] theorem setR_far (off : Nat) (v : Word) : (setR off v s).far = s.far := rfl
@[simp] theorem setR_ctxs (off : Nat) (v : Word) : (setR off v s).ctxs = s.ctxs := rfl
@[simp] theorem setR_parts (off : Nat) (v : Word) : (setR off v s).parts = s.parts := rfl
@[simp] theorem setR_prtRun (off : Nat) (v : Word) : (setR off v s).prtRun = s.prtRun := rfl
@[simp] theorem setR_hostQs (off : Nat) (v : Word) : (setR off v s).hostQs = s.hostQs := rfl
@[simp] theorem setR_hostTurn (off : Nat) (v : Word) : (setR off v s).hostTurn = s.hostTurn := rfl
@[simp] theorem setR_mgmt (off : Nat) (v : Word) : (setR off v s).mgmt = s.mgmt := rfl
@[simp] theorem setR_power (off : Nat) (v : Word) : (setR off v s).power = s.power := rfl
@[simp] theorem setR_pins (off : Nat) (v : Word) : (setR off v s).pins = s.pins := rfl
@[simp] theorem setR_now (off : Nat) (v : Word) : (setR off v s).now = s.now := rfl
@[simp] theorem setR_posted (off : Nat) (v : Word) : (setR off v s).posted = s.posted := rfl
@[simp] theorem setR_free (off : Nat) (v : Word) : (setR off v s).free = s.free := rfl
@[simp] theorem setR_out (off : Nat) (v : Word) : (setR off v s).out = s.out := rfl
@[simp] theorem setR_pending (off : Nat) (v : Word) : (setR off v s).pending = s.pending := rfl

@[simp] theorem put_mem (off : Nat) (f : Fld) (v : Nat) : (put off f v s).mem = s.mem := rfl
@[simp] theorem put_poison (off : Nat) (f : Fld) (v : Nat) : (put off f v s).poison = s.poison := rfl
@[simp] theorem put_acc (off : Nat) (f : Fld) (v : Nat) : (put off f v s).acc = s.acc := rfl
@[simp] theorem put_path (off : Nat) (f : Fld) (v : Nat) : (put off f v s).path = s.path := rfl
@[simp] theorem put_signals (off : Nat) (f : Fld) (v : Nat) : (put off f v s).signals = s.signals := rfl
@[simp] theorem put_bundles (off : Nat) (f : Fld) (v : Nat) : (put off f v s).bundles = s.bundles := rfl
@[simp] theorem put_domains (off : Nat) (f : Fld) (v : Nat) : (put off f v s).domains = s.domains := rfl
@[simp] theorem put_tiles (off : Nat) (f : Fld) (v : Nat) : (put off f v s).tiles = s.tiles := rfl
@[simp] theorem put_ports (off : Nat) (f : Fld) (v : Nat) : (put off f v s).ports = s.ports := rfl
@[simp] theorem put_opens (off : Nat) (f : Fld) (v : Nat) : (put off f v s).opens = s.opens := rfl
@[simp] theorem put_locals (off : Nat) (f : Fld) (v : Nat) : (put off f v s).locals = s.locals := rfl
@[simp] theorem put_dropped (off : Nat) (f : Fld) (v : Nat) : (put off f v s).dropped = s.dropped := rfl
@[simp] theorem put_nextTag (off : Nat) (f : Fld) (v : Nat) : (put off f v s).nextTag = s.nextTag := rfl
@[simp] theorem put_mcasts (off : Nat) (f : Fld) (v : Nat) : (put off f v s).mcasts = s.mcasts := rfl
@[simp] theorem put_rmaps (off : Nat) (f : Fld) (v : Nat) : (put off f v s).rmaps = s.rmaps := rfl
@[simp] theorem put_phaseSlots (off : Nat) (f : Fld) (v : Nat) : (put off f v s).phaseSlots = s.phaseSlots := rfl
@[simp] theorem put_queues (off : Nat) (f : Fld) (v : Nat) : (put off f v s).queues = s.queues := rfl
@[simp] theorem put_turns (off : Nat) (f : Fld) (v : Nat) : (put off f v s).turns = s.turns := rfl
@[simp] theorem put_stalled (off : Nat) (f : Fld) (v : Nat) : (put off f v s).stalled = s.stalled := rfl
@[simp] theorem put_stagePorts (off : Nat) (f : Fld) (v : Nat) : (put off f v s).stagePorts = s.stagePorts := rfl
@[simp] theorem put_versions (off : Nat) (f : Fld) (v : Nat) : (put off f v s).versions = s.versions := rfl
@[simp] theorem put_replays (off : Nat) (f : Fld) (v : Nat) : (put off f v s).replays = s.replays := rfl
@[simp] theorem put_reds (off : Nat) (f : Fld) (v : Nat) : (put off f v s).reds = s.reds := rfl
@[simp] theorem put_runs (off : Nat) (f : Fld) (v : Nat) : (put off f v s).runs = s.runs := rfl
@[simp] theorem put_panSlots (off : Nat) (f : Fld) (v : Nat) : (put off f v s).panSlots = s.panSlots := rfl
@[simp] theorem put_harvest (off : Nat) (f : Fld) (v : Nat) : (put off f v s).harvest = s.harvest := rfl
@[simp] theorem put_harvested (off : Nat) (f : Fld) (v : Nat) : (put off f v s).harvested = s.harvested := rfl
@[simp] theorem put_restoring (off : Nat) (f : Fld) (v : Nat) : (put off f v s).restoring = s.restoring := rfl
@[simp] theorem put_checks (off : Nat) (f : Fld) (v : Nat) : (put off f v s).checks = s.checks := rfl
@[simp] theorem put_swap (off : Nat) (f : Fld) (v : Nat) : (put off f v s).swap = s.swap := rfl
@[simp] theorem put_tmErrors (off : Nat) (f : Fld) (v : Nat) : (put off f v s).tmErrors = s.tmErrors := rfl
@[simp] theorem put_swapWaits (off : Nat) (f : Fld) (v : Nat) : (put off f v s).swapWaits = s.swapWaits := rfl
@[simp] theorem put_far (off : Nat) (f : Fld) (v : Nat) : (put off f v s).far = s.far := rfl
@[simp] theorem put_ctxs (off : Nat) (f : Fld) (v : Nat) : (put off f v s).ctxs = s.ctxs := rfl
@[simp] theorem put_parts (off : Nat) (f : Fld) (v : Nat) : (put off f v s).parts = s.parts := rfl
@[simp] theorem put_prtRun (off : Nat) (f : Fld) (v : Nat) : (put off f v s).prtRun = s.prtRun := rfl
@[simp] theorem put_hostQs (off : Nat) (f : Fld) (v : Nat) : (put off f v s).hostQs = s.hostQs := rfl
@[simp] theorem put_hostTurn (off : Nat) (f : Fld) (v : Nat) : (put off f v s).hostTurn = s.hostTurn := rfl
@[simp] theorem put_mgmt (off : Nat) (f : Fld) (v : Nat) : (put off f v s).mgmt = s.mgmt := rfl
@[simp] theorem put_power (off : Nat) (f : Fld) (v : Nat) : (put off f v s).power = s.power := rfl
@[simp] theorem put_pins (off : Nat) (f : Fld) (v : Nat) : (put off f v s).pins = s.pins := rfl
@[simp] theorem put_now (off : Nat) (f : Fld) (v : Nat) : (put off f v s).now = s.now := rfl
@[simp] theorem put_posted (off : Nat) (f : Fld) (v : Nat) : (put off f v s).posted = s.posted := rfl
@[simp] theorem put_free (off : Nat) (f : Fld) (v : Nat) : (put off f v s).free = s.free := rfl
@[simp] theorem put_out (off : Nat) (f : Fld) (v : Nat) : (put off f v s).out = s.out := rfl
@[simp] theorem put_pending (off : Nat) (f : Fld) (v : Nat) : (put off f v s).pending = s.pending := rfl

@[simp] theorem raise_mem (off : Nat) (f : Fld) : (raise off f s).mem = s.mem := rfl
@[simp] theorem raise_poison (off : Nat) (f : Fld) : (raise off f s).poison = s.poison := rfl
@[simp] theorem raise_acc (off : Nat) (f : Fld) : (raise off f s).acc = s.acc := rfl
@[simp] theorem raise_path (off : Nat) (f : Fld) : (raise off f s).path = s.path := rfl
@[simp] theorem raise_signals (off : Nat) (f : Fld) : (raise off f s).signals = s.signals := rfl
@[simp] theorem raise_bundles (off : Nat) (f : Fld) : (raise off f s).bundles = s.bundles := rfl
@[simp] theorem raise_domains (off : Nat) (f : Fld) : (raise off f s).domains = s.domains := rfl
@[simp] theorem raise_tiles (off : Nat) (f : Fld) : (raise off f s).tiles = s.tiles := rfl
@[simp] theorem raise_ports (off : Nat) (f : Fld) : (raise off f s).ports = s.ports := rfl
@[simp] theorem raise_opens (off : Nat) (f : Fld) : (raise off f s).opens = s.opens := rfl
@[simp] theorem raise_locals (off : Nat) (f : Fld) : (raise off f s).locals = s.locals := rfl
@[simp] theorem raise_dropped (off : Nat) (f : Fld) : (raise off f s).dropped = s.dropped := rfl
@[simp] theorem raise_nextTag (off : Nat) (f : Fld) : (raise off f s).nextTag = s.nextTag := rfl
@[simp] theorem raise_mcasts (off : Nat) (f : Fld) : (raise off f s).mcasts = s.mcasts := rfl
@[simp] theorem raise_rmaps (off : Nat) (f : Fld) : (raise off f s).rmaps = s.rmaps := rfl
@[simp] theorem raise_phaseSlots (off : Nat) (f : Fld) : (raise off f s).phaseSlots = s.phaseSlots := rfl
@[simp] theorem raise_queues (off : Nat) (f : Fld) : (raise off f s).queues = s.queues := rfl
@[simp] theorem raise_turns (off : Nat) (f : Fld) : (raise off f s).turns = s.turns := rfl
@[simp] theorem raise_stalled (off : Nat) (f : Fld) : (raise off f s).stalled = s.stalled := rfl
@[simp] theorem raise_stagePorts (off : Nat) (f : Fld) : (raise off f s).stagePorts = s.stagePorts := rfl
@[simp] theorem raise_versions (off : Nat) (f : Fld) : (raise off f s).versions = s.versions := rfl
@[simp] theorem raise_replays (off : Nat) (f : Fld) : (raise off f s).replays = s.replays := rfl
@[simp] theorem raise_reds (off : Nat) (f : Fld) : (raise off f s).reds = s.reds := rfl
@[simp] theorem raise_runs (off : Nat) (f : Fld) : (raise off f s).runs = s.runs := rfl
@[simp] theorem raise_panSlots (off : Nat) (f : Fld) : (raise off f s).panSlots = s.panSlots := rfl
@[simp] theorem raise_harvest (off : Nat) (f : Fld) : (raise off f s).harvest = s.harvest := rfl
@[simp] theorem raise_harvested (off : Nat) (f : Fld) : (raise off f s).harvested = s.harvested := rfl
@[simp] theorem raise_restoring (off : Nat) (f : Fld) : (raise off f s).restoring = s.restoring := rfl
@[simp] theorem raise_checks (off : Nat) (f : Fld) : (raise off f s).checks = s.checks := rfl
@[simp] theorem raise_swap (off : Nat) (f : Fld) : (raise off f s).swap = s.swap := rfl
@[simp] theorem raise_tmErrors (off : Nat) (f : Fld) : (raise off f s).tmErrors = s.tmErrors := rfl
@[simp] theorem raise_swapWaits (off : Nat) (f : Fld) : (raise off f s).swapWaits = s.swapWaits := rfl
@[simp] theorem raise_far (off : Nat) (f : Fld) : (raise off f s).far = s.far := rfl
@[simp] theorem raise_ctxs (off : Nat) (f : Fld) : (raise off f s).ctxs = s.ctxs := rfl
@[simp] theorem raise_parts (off : Nat) (f : Fld) : (raise off f s).parts = s.parts := rfl
@[simp] theorem raise_prtRun (off : Nat) (f : Fld) : (raise off f s).prtRun = s.prtRun := rfl
@[simp] theorem raise_hostQs (off : Nat) (f : Fld) : (raise off f s).hostQs = s.hostQs := rfl
@[simp] theorem raise_hostTurn (off : Nat) (f : Fld) : (raise off f s).hostTurn = s.hostTurn := rfl
@[simp] theorem raise_mgmt (off : Nat) (f : Fld) : (raise off f s).mgmt = s.mgmt := rfl
@[simp] theorem raise_power (off : Nat) (f : Fld) : (raise off f s).power = s.power := rfl
@[simp] theorem raise_pins (off : Nat) (f : Fld) : (raise off f s).pins = s.pins := rfl
@[simp] theorem raise_now (off : Nat) (f : Fld) : (raise off f s).now = s.now := rfl
@[simp] theorem raise_posted (off : Nat) (f : Fld) : (raise off f s).posted = s.posted := rfl
@[simp] theorem raise_free (off : Nat) (f : Fld) : (raise off f s).free = s.free := rfl
@[simp] theorem raise_out (off : Nat) (f : Fld) : (raise off f s).out = s.out := rfl
@[simp] theorem raise_pending (off : Nat) (f : Fld) : (raise off f s).pending = s.pending := rfl

@[simp] theorem putB_mem (off : Nat) (f : Fld) (b : Bool) : (putB off f b s).mem = s.mem := rfl
@[simp] theorem putB_poison (off : Nat) (f : Fld) (b : Bool) : (putB off f b s).poison = s.poison := rfl
@[simp] theorem putB_acc (off : Nat) (f : Fld) (b : Bool) : (putB off f b s).acc = s.acc := rfl
@[simp] theorem putB_path (off : Nat) (f : Fld) (b : Bool) : (putB off f b s).path = s.path := rfl
@[simp] theorem putB_signals (off : Nat) (f : Fld) (b : Bool) : (putB off f b s).signals = s.signals := rfl
@[simp] theorem putB_bundles (off : Nat) (f : Fld) (b : Bool) : (putB off f b s).bundles = s.bundles := rfl
@[simp] theorem putB_domains (off : Nat) (f : Fld) (b : Bool) : (putB off f b s).domains = s.domains := rfl
@[simp] theorem putB_tiles (off : Nat) (f : Fld) (b : Bool) : (putB off f b s).tiles = s.tiles := rfl
@[simp] theorem putB_ports (off : Nat) (f : Fld) (b : Bool) : (putB off f b s).ports = s.ports := rfl
@[simp] theorem putB_opens (off : Nat) (f : Fld) (b : Bool) : (putB off f b s).opens = s.opens := rfl
@[simp] theorem putB_locals (off : Nat) (f : Fld) (b : Bool) : (putB off f b s).locals = s.locals := rfl
@[simp] theorem putB_dropped (off : Nat) (f : Fld) (b : Bool) : (putB off f b s).dropped = s.dropped := rfl
@[simp] theorem putB_nextTag (off : Nat) (f : Fld) (b : Bool) : (putB off f b s).nextTag = s.nextTag := rfl
@[simp] theorem putB_mcasts (off : Nat) (f : Fld) (b : Bool) : (putB off f b s).mcasts = s.mcasts := rfl
@[simp] theorem putB_rmaps (off : Nat) (f : Fld) (b : Bool) : (putB off f b s).rmaps = s.rmaps := rfl
@[simp] theorem putB_phaseSlots (off : Nat) (f : Fld) (b : Bool) : (putB off f b s).phaseSlots = s.phaseSlots := rfl
@[simp] theorem putB_queues (off : Nat) (f : Fld) (b : Bool) : (putB off f b s).queues = s.queues := rfl
@[simp] theorem putB_turns (off : Nat) (f : Fld) (b : Bool) : (putB off f b s).turns = s.turns := rfl
@[simp] theorem putB_stalled (off : Nat) (f : Fld) (b : Bool) : (putB off f b s).stalled = s.stalled := rfl
@[simp] theorem putB_stagePorts (off : Nat) (f : Fld) (b : Bool) : (putB off f b s).stagePorts = s.stagePorts := rfl
@[simp] theorem putB_versions (off : Nat) (f : Fld) (b : Bool) : (putB off f b s).versions = s.versions := rfl
@[simp] theorem putB_replays (off : Nat) (f : Fld) (b : Bool) : (putB off f b s).replays = s.replays := rfl
@[simp] theorem putB_reds (off : Nat) (f : Fld) (b : Bool) : (putB off f b s).reds = s.reds := rfl
@[simp] theorem putB_runs (off : Nat) (f : Fld) (b : Bool) : (putB off f b s).runs = s.runs := rfl
@[simp] theorem putB_panSlots (off : Nat) (f : Fld) (b : Bool) : (putB off f b s).panSlots = s.panSlots := rfl
@[simp] theorem putB_harvest (off : Nat) (f : Fld) (b : Bool) : (putB off f b s).harvest = s.harvest := rfl
@[simp] theorem putB_harvested (off : Nat) (f : Fld) (b : Bool) : (putB off f b s).harvested = s.harvested := rfl
@[simp] theorem putB_restoring (off : Nat) (f : Fld) (b : Bool) : (putB off f b s).restoring = s.restoring := rfl
@[simp] theorem putB_checks (off : Nat) (f : Fld) (b : Bool) : (putB off f b s).checks = s.checks := rfl
@[simp] theorem putB_swap (off : Nat) (f : Fld) (b : Bool) : (putB off f b s).swap = s.swap := rfl
@[simp] theorem putB_tmErrors (off : Nat) (f : Fld) (b : Bool) : (putB off f b s).tmErrors = s.tmErrors := rfl
@[simp] theorem putB_swapWaits (off : Nat) (f : Fld) (b : Bool) : (putB off f b s).swapWaits = s.swapWaits := rfl
@[simp] theorem putB_far (off : Nat) (f : Fld) (b : Bool) : (putB off f b s).far = s.far := rfl
@[simp] theorem putB_ctxs (off : Nat) (f : Fld) (b : Bool) : (putB off f b s).ctxs = s.ctxs := rfl
@[simp] theorem putB_parts (off : Nat) (f : Fld) (b : Bool) : (putB off f b s).parts = s.parts := rfl
@[simp] theorem putB_prtRun (off : Nat) (f : Fld) (b : Bool) : (putB off f b s).prtRun = s.prtRun := rfl
@[simp] theorem putB_hostQs (off : Nat) (f : Fld) (b : Bool) : (putB off f b s).hostQs = s.hostQs := rfl
@[simp] theorem putB_hostTurn (off : Nat) (f : Fld) (b : Bool) : (putB off f b s).hostTurn = s.hostTurn := rfl
@[simp] theorem putB_mgmt (off : Nat) (f : Fld) (b : Bool) : (putB off f b s).mgmt = s.mgmt := rfl
@[simp] theorem putB_power (off : Nat) (f : Fld) (b : Bool) : (putB off f b s).power = s.power := rfl
@[simp] theorem putB_pins (off : Nat) (f : Fld) (b : Bool) : (putB off f b s).pins = s.pins := rfl
@[simp] theorem putB_now (off : Nat) (f : Fld) (b : Bool) : (putB off f b s).now = s.now := rfl
@[simp] theorem putB_posted (off : Nat) (f : Fld) (b : Bool) : (putB off f b s).posted = s.posted := rfl
@[simp] theorem putB_free (off : Nat) (f : Fld) (b : Bool) : (putB off f b s).free = s.free := rfl
@[simp] theorem putB_out (off : Nat) (f : Fld) (b : Bool) : (putB off f b s).out = s.out := rfl
@[simp] theorem putB_pending (off : Nat) (f : Fld) (b : Bool) : (putB off f b s).pending = s.pending := rfl

@[simp] theorem mapRegs_mem (p : Nat → Bool) (f : Nat → Word → Word) : (mapRegs p f s).mem = s.mem := rfl
@[simp] theorem mapRegs_poison (p : Nat → Bool) (f : Nat → Word → Word) : (mapRegs p f s).poison = s.poison := rfl
@[simp] theorem mapRegs_acc (p : Nat → Bool) (f : Nat → Word → Word) : (mapRegs p f s).acc = s.acc := rfl
@[simp] theorem mapRegs_path (p : Nat → Bool) (f : Nat → Word → Word) : (mapRegs p f s).path = s.path := rfl
@[simp] theorem mapRegs_signals (p : Nat → Bool) (f : Nat → Word → Word) : (mapRegs p f s).signals = s.signals := rfl
@[simp] theorem mapRegs_bundles (p : Nat → Bool) (f : Nat → Word → Word) : (mapRegs p f s).bundles = s.bundles := rfl
@[simp] theorem mapRegs_domains (p : Nat → Bool) (f : Nat → Word → Word) : (mapRegs p f s).domains = s.domains := rfl
@[simp] theorem mapRegs_tiles (p : Nat → Bool) (f : Nat → Word → Word) : (mapRegs p f s).tiles = s.tiles := rfl
@[simp] theorem mapRegs_ports (p : Nat → Bool) (f : Nat → Word → Word) : (mapRegs p f s).ports = s.ports := rfl
@[simp] theorem mapRegs_opens (p : Nat → Bool) (f : Nat → Word → Word) : (mapRegs p f s).opens = s.opens := rfl
@[simp] theorem mapRegs_locals (p : Nat → Bool) (f : Nat → Word → Word) : (mapRegs p f s).locals = s.locals := rfl
@[simp] theorem mapRegs_dropped (p : Nat → Bool) (f : Nat → Word → Word) : (mapRegs p f s).dropped = s.dropped := rfl
@[simp] theorem mapRegs_nextTag (p : Nat → Bool) (f : Nat → Word → Word) : (mapRegs p f s).nextTag = s.nextTag := rfl
@[simp] theorem mapRegs_mcasts (p : Nat → Bool) (f : Nat → Word → Word) : (mapRegs p f s).mcasts = s.mcasts := rfl
@[simp] theorem mapRegs_rmaps (p : Nat → Bool) (f : Nat → Word → Word) : (mapRegs p f s).rmaps = s.rmaps := rfl
@[simp] theorem mapRegs_phaseSlots (p : Nat → Bool) (f : Nat → Word → Word) : (mapRegs p f s).phaseSlots = s.phaseSlots := rfl
@[simp] theorem mapRegs_queues (p : Nat → Bool) (f : Nat → Word → Word) : (mapRegs p f s).queues = s.queues := rfl
@[simp] theorem mapRegs_turns (p : Nat → Bool) (f : Nat → Word → Word) : (mapRegs p f s).turns = s.turns := rfl
@[simp] theorem mapRegs_stalled (p : Nat → Bool) (f : Nat → Word → Word) : (mapRegs p f s).stalled = s.stalled := rfl
@[simp] theorem mapRegs_stagePorts (p : Nat → Bool) (f : Nat → Word → Word) : (mapRegs p f s).stagePorts = s.stagePorts := rfl
@[simp] theorem mapRegs_versions (p : Nat → Bool) (f : Nat → Word → Word) : (mapRegs p f s).versions = s.versions := rfl
@[simp] theorem mapRegs_replays (p : Nat → Bool) (f : Nat → Word → Word) : (mapRegs p f s).replays = s.replays := rfl
@[simp] theorem mapRegs_reds (p : Nat → Bool) (f : Nat → Word → Word) : (mapRegs p f s).reds = s.reds := rfl
@[simp] theorem mapRegs_runs (p : Nat → Bool) (f : Nat → Word → Word) : (mapRegs p f s).runs = s.runs := rfl
@[simp] theorem mapRegs_panSlots (p : Nat → Bool) (f : Nat → Word → Word) : (mapRegs p f s).panSlots = s.panSlots := rfl
@[simp] theorem mapRegs_harvest (p : Nat → Bool) (f : Nat → Word → Word) : (mapRegs p f s).harvest = s.harvest := rfl
@[simp] theorem mapRegs_harvested (p : Nat → Bool) (f : Nat → Word → Word) : (mapRegs p f s).harvested = s.harvested := rfl
@[simp] theorem mapRegs_restoring (p : Nat → Bool) (f : Nat → Word → Word) : (mapRegs p f s).restoring = s.restoring := rfl
@[simp] theorem mapRegs_checks (p : Nat → Bool) (f : Nat → Word → Word) : (mapRegs p f s).checks = s.checks := rfl
@[simp] theorem mapRegs_swap (p : Nat → Bool) (f : Nat → Word → Word) : (mapRegs p f s).swap = s.swap := rfl
@[simp] theorem mapRegs_tmErrors (p : Nat → Bool) (f : Nat → Word → Word) : (mapRegs p f s).tmErrors = s.tmErrors := rfl
@[simp] theorem mapRegs_swapWaits (p : Nat → Bool) (f : Nat → Word → Word) : (mapRegs p f s).swapWaits = s.swapWaits := rfl
@[simp] theorem mapRegs_far (p : Nat → Bool) (f : Nat → Word → Word) : (mapRegs p f s).far = s.far := rfl
@[simp] theorem mapRegs_ctxs (p : Nat → Bool) (f : Nat → Word → Word) : (mapRegs p f s).ctxs = s.ctxs := rfl
@[simp] theorem mapRegs_parts (p : Nat → Bool) (f : Nat → Word → Word) : (mapRegs p f s).parts = s.parts := rfl
@[simp] theorem mapRegs_prtRun (p : Nat → Bool) (f : Nat → Word → Word) : (mapRegs p f s).prtRun = s.prtRun := rfl
@[simp] theorem mapRegs_hostQs (p : Nat → Bool) (f : Nat → Word → Word) : (mapRegs p f s).hostQs = s.hostQs := rfl
@[simp] theorem mapRegs_hostTurn (p : Nat → Bool) (f : Nat → Word → Word) : (mapRegs p f s).hostTurn = s.hostTurn := rfl
@[simp] theorem mapRegs_mgmt (p : Nat → Bool) (f : Nat → Word → Word) : (mapRegs p f s).mgmt = s.mgmt := rfl
@[simp] theorem mapRegs_power (p : Nat → Bool) (f : Nat → Word → Word) : (mapRegs p f s).power = s.power := rfl
@[simp] theorem mapRegs_pins (p : Nat → Bool) (f : Nat → Word → Word) : (mapRegs p f s).pins = s.pins := rfl
@[simp] theorem mapRegs_now (p : Nat → Bool) (f : Nat → Word → Word) : (mapRegs p f s).now = s.now := rfl
@[simp] theorem mapRegs_posted (p : Nat → Bool) (f : Nat → Word → Word) : (mapRegs p f s).posted = s.posted := rfl
@[simp] theorem mapRegs_free (p : Nat → Bool) (f : Nat → Word → Word) : (mapRegs p f s).free = s.free := rfl
@[simp] theorem mapRegs_out (p : Nat → Bool) (f : Nat → Word → Word) : (mapRegs p f s).out = s.out := rfl
@[simp] theorem mapRegs_pending (p : Nat → Bool) (f : Nat → Word → Word) : (mapRegs p f s).pending = s.pending := rfl

@[simp] theorem emit_regs (o : Output) : (emit o s).regs = s.regs := rfl
@[simp] theorem emit_mem (o : Output) : (emit o s).mem = s.mem := rfl
@[simp] theorem emit_poison (o : Output) : (emit o s).poison = s.poison := rfl
@[simp] theorem emit_acc (o : Output) : (emit o s).acc = s.acc := rfl
@[simp] theorem emit_path (o : Output) : (emit o s).path = s.path := rfl
@[simp] theorem emit_signals (o : Output) : (emit o s).signals = s.signals := rfl
@[simp] theorem emit_bundles (o : Output) : (emit o s).bundles = s.bundles := rfl
@[simp] theorem emit_domains (o : Output) : (emit o s).domains = s.domains := rfl
@[simp] theorem emit_tiles (o : Output) : (emit o s).tiles = s.tiles := rfl
@[simp] theorem emit_ports (o : Output) : (emit o s).ports = s.ports := rfl
@[simp] theorem emit_opens (o : Output) : (emit o s).opens = s.opens := rfl
@[simp] theorem emit_locals (o : Output) : (emit o s).locals = s.locals := rfl
@[simp] theorem emit_dropped (o : Output) : (emit o s).dropped = s.dropped := rfl
@[simp] theorem emit_nextTag (o : Output) : (emit o s).nextTag = s.nextTag := rfl
@[simp] theorem emit_mcasts (o : Output) : (emit o s).mcasts = s.mcasts := rfl
@[simp] theorem emit_rmaps (o : Output) : (emit o s).rmaps = s.rmaps := rfl
@[simp] theorem emit_phaseSlots (o : Output) : (emit o s).phaseSlots = s.phaseSlots := rfl
@[simp] theorem emit_queues (o : Output) : (emit o s).queues = s.queues := rfl
@[simp] theorem emit_turns (o : Output) : (emit o s).turns = s.turns := rfl
@[simp] theorem emit_stalled (o : Output) : (emit o s).stalled = s.stalled := rfl
@[simp] theorem emit_stagePorts (o : Output) : (emit o s).stagePorts = s.stagePorts := rfl
@[simp] theorem emit_versions (o : Output) : (emit o s).versions = s.versions := rfl
@[simp] theorem emit_replays (o : Output) : (emit o s).replays = s.replays := rfl
@[simp] theorem emit_reds (o : Output) : (emit o s).reds = s.reds := rfl
@[simp] theorem emit_runs (o : Output) : (emit o s).runs = s.runs := rfl
@[simp] theorem emit_panSlots (o : Output) : (emit o s).panSlots = s.panSlots := rfl
@[simp] theorem emit_harvest (o : Output) : (emit o s).harvest = s.harvest := rfl
@[simp] theorem emit_harvested (o : Output) : (emit o s).harvested = s.harvested := rfl
@[simp] theorem emit_restoring (o : Output) : (emit o s).restoring = s.restoring := rfl
@[simp] theorem emit_checks (o : Output) : (emit o s).checks = s.checks := rfl
@[simp] theorem emit_swap (o : Output) : (emit o s).swap = s.swap := rfl
@[simp] theorem emit_tmErrors (o : Output) : (emit o s).tmErrors = s.tmErrors := rfl
@[simp] theorem emit_swapWaits (o : Output) : (emit o s).swapWaits = s.swapWaits := rfl
@[simp] theorem emit_far (o : Output) : (emit o s).far = s.far := rfl
@[simp] theorem emit_ctxs (o : Output) : (emit o s).ctxs = s.ctxs := rfl
@[simp] theorem emit_parts (o : Output) : (emit o s).parts = s.parts := rfl
@[simp] theorem emit_prtRun (o : Output) : (emit o s).prtRun = s.prtRun := rfl
@[simp] theorem emit_hostQs (o : Output) : (emit o s).hostQs = s.hostQs := rfl
@[simp] theorem emit_hostTurn (o : Output) : (emit o s).hostTurn = s.hostTurn := rfl
@[simp] theorem emit_mgmt (o : Output) : (emit o s).mgmt = s.mgmt := rfl
@[simp] theorem emit_power (o : Output) : (emit o s).power = s.power := rfl
@[simp] theorem emit_pins (o : Output) : (emit o s).pins = s.pins := rfl
@[simp] theorem emit_now (o : Output) : (emit o s).now = s.now := rfl
@[simp] theorem emit_posted (o : Output) : (emit o s).posted = s.posted := rfl
@[simp] theorem emit_free (o : Output) : (emit o s).free = s.free := rfl
@[simp] theorem emit_pending (o : Output) : (emit o s).pending = s.pending := rfl

@[simp] theorem setByte_regs (a : Nat) (b : Byte) : (setByte a b s).regs = s.regs := rfl
@[simp] theorem setByte_poison (a : Nat) (b : Byte) : (setByte a b s).poison = s.poison := rfl
@[simp] theorem setByte_acc (a : Nat) (b : Byte) : (setByte a b s).acc = s.acc := rfl
@[simp] theorem setByte_path (a : Nat) (b : Byte) : (setByte a b s).path = s.path := rfl
@[simp] theorem setByte_signals (a : Nat) (b : Byte) : (setByte a b s).signals = s.signals := rfl
@[simp] theorem setByte_bundles (a : Nat) (b : Byte) : (setByte a b s).bundles = s.bundles := rfl
@[simp] theorem setByte_domains (a : Nat) (b : Byte) : (setByte a b s).domains = s.domains := rfl
@[simp] theorem setByte_tiles (a : Nat) (b : Byte) : (setByte a b s).tiles = s.tiles := rfl
@[simp] theorem setByte_ports (a : Nat) (b : Byte) : (setByte a b s).ports = s.ports := rfl
@[simp] theorem setByte_opens (a : Nat) (b : Byte) : (setByte a b s).opens = s.opens := rfl
@[simp] theorem setByte_locals (a : Nat) (b : Byte) : (setByte a b s).locals = s.locals := rfl
@[simp] theorem setByte_dropped (a : Nat) (b : Byte) : (setByte a b s).dropped = s.dropped := rfl
@[simp] theorem setByte_nextTag (a : Nat) (b : Byte) : (setByte a b s).nextTag = s.nextTag := rfl
@[simp] theorem setByte_mcasts (a : Nat) (b : Byte) : (setByte a b s).mcasts = s.mcasts := rfl
@[simp] theorem setByte_rmaps (a : Nat) (b : Byte) : (setByte a b s).rmaps = s.rmaps := rfl
@[simp] theorem setByte_phaseSlots (a : Nat) (b : Byte) : (setByte a b s).phaseSlots = s.phaseSlots := rfl
@[simp] theorem setByte_queues (a : Nat) (b : Byte) : (setByte a b s).queues = s.queues := rfl
@[simp] theorem setByte_turns (a : Nat) (b : Byte) : (setByte a b s).turns = s.turns := rfl
@[simp] theorem setByte_stalled (a : Nat) (b : Byte) : (setByte a b s).stalled = s.stalled := rfl
@[simp] theorem setByte_stagePorts (a : Nat) (b : Byte) : (setByte a b s).stagePorts = s.stagePorts := rfl
@[simp] theorem setByte_versions (a : Nat) (b : Byte) : (setByte a b s).versions = s.versions := rfl
@[simp] theorem setByte_replays (a : Nat) (b : Byte) : (setByte a b s).replays = s.replays := rfl
@[simp] theorem setByte_reds (a : Nat) (b : Byte) : (setByte a b s).reds = s.reds := rfl
@[simp] theorem setByte_runs (a : Nat) (b : Byte) : (setByte a b s).runs = s.runs := rfl
@[simp] theorem setByte_panSlots (a : Nat) (b : Byte) : (setByte a b s).panSlots = s.panSlots := rfl
@[simp] theorem setByte_harvest (a : Nat) (b : Byte) : (setByte a b s).harvest = s.harvest := rfl
@[simp] theorem setByte_harvested (a : Nat) (b : Byte) : (setByte a b s).harvested = s.harvested := rfl
@[simp] theorem setByte_restoring (a : Nat) (b : Byte) : (setByte a b s).restoring = s.restoring := rfl
@[simp] theorem setByte_checks (a : Nat) (b : Byte) : (setByte a b s).checks = s.checks := rfl
@[simp] theorem setByte_swap (a : Nat) (b : Byte) : (setByte a b s).swap = s.swap := rfl
@[simp] theorem setByte_tmErrors (a : Nat) (b : Byte) : (setByte a b s).tmErrors = s.tmErrors := rfl
@[simp] theorem setByte_swapWaits (a : Nat) (b : Byte) : (setByte a b s).swapWaits = s.swapWaits := rfl
@[simp] theorem setByte_far (a : Nat) (b : Byte) : (setByte a b s).far = s.far := rfl
@[simp] theorem setByte_ctxs (a : Nat) (b : Byte) : (setByte a b s).ctxs = s.ctxs := rfl
@[simp] theorem setByte_parts (a : Nat) (b : Byte) : (setByte a b s).parts = s.parts := rfl
@[simp] theorem setByte_prtRun (a : Nat) (b : Byte) : (setByte a b s).prtRun = s.prtRun := rfl
@[simp] theorem setByte_hostQs (a : Nat) (b : Byte) : (setByte a b s).hostQs = s.hostQs := rfl
@[simp] theorem setByte_hostTurn (a : Nat) (b : Byte) : (setByte a b s).hostTurn = s.hostTurn := rfl
@[simp] theorem setByte_mgmt (a : Nat) (b : Byte) : (setByte a b s).mgmt = s.mgmt := rfl
@[simp] theorem setByte_power (a : Nat) (b : Byte) : (setByte a b s).power = s.power := rfl
@[simp] theorem setByte_pins (a : Nat) (b : Byte) : (setByte a b s).pins = s.pins := rfl
@[simp] theorem setByte_now (a : Nat) (b : Byte) : (setByte a b s).now = s.now := rfl
@[simp] theorem setByte_posted (a : Nat) (b : Byte) : (setByte a b s).posted = s.posted := rfl
@[simp] theorem setByte_free (a : Nat) (b : Byte) : (setByte a b s).free = s.free := rfl
@[simp] theorem setByte_out (a : Nat) (b : Byte) : (setByte a b s).out = s.out := rfl
@[simp] theorem setByte_pending (a : Nat) (b : Byte) : (setByte a b s).pending = s.pending := rfl

@[simp] theorem setPoison_regs (u : Nat) (b : Bool) : (setPoison u b s).regs = s.regs := rfl
@[simp] theorem setPoison_mem (u : Nat) (b : Bool) : (setPoison u b s).mem = s.mem := rfl
@[simp] theorem setPoison_acc (u : Nat) (b : Bool) : (setPoison u b s).acc = s.acc := rfl
@[simp] theorem setPoison_path (u : Nat) (b : Bool) : (setPoison u b s).path = s.path := rfl
@[simp] theorem setPoison_signals (u : Nat) (b : Bool) : (setPoison u b s).signals = s.signals := rfl
@[simp] theorem setPoison_bundles (u : Nat) (b : Bool) : (setPoison u b s).bundles = s.bundles := rfl
@[simp] theorem setPoison_domains (u : Nat) (b : Bool) : (setPoison u b s).domains = s.domains := rfl
@[simp] theorem setPoison_tiles (u : Nat) (b : Bool) : (setPoison u b s).tiles = s.tiles := rfl
@[simp] theorem setPoison_ports (u : Nat) (b : Bool) : (setPoison u b s).ports = s.ports := rfl
@[simp] theorem setPoison_opens (u : Nat) (b : Bool) : (setPoison u b s).opens = s.opens := rfl
@[simp] theorem setPoison_locals (u : Nat) (b : Bool) : (setPoison u b s).locals = s.locals := rfl
@[simp] theorem setPoison_dropped (u : Nat) (b : Bool) : (setPoison u b s).dropped = s.dropped := rfl
@[simp] theorem setPoison_nextTag (u : Nat) (b : Bool) : (setPoison u b s).nextTag = s.nextTag := rfl
@[simp] theorem setPoison_mcasts (u : Nat) (b : Bool) : (setPoison u b s).mcasts = s.mcasts := rfl
@[simp] theorem setPoison_rmaps (u : Nat) (b : Bool) : (setPoison u b s).rmaps = s.rmaps := rfl
@[simp] theorem setPoison_phaseSlots (u : Nat) (b : Bool) : (setPoison u b s).phaseSlots = s.phaseSlots := rfl
@[simp] theorem setPoison_queues (u : Nat) (b : Bool) : (setPoison u b s).queues = s.queues := rfl
@[simp] theorem setPoison_turns (u : Nat) (b : Bool) : (setPoison u b s).turns = s.turns := rfl
@[simp] theorem setPoison_stalled (u : Nat) (b : Bool) : (setPoison u b s).stalled = s.stalled := rfl
@[simp] theorem setPoison_stagePorts (u : Nat) (b : Bool) : (setPoison u b s).stagePorts = s.stagePorts := rfl
@[simp] theorem setPoison_versions (u : Nat) (b : Bool) : (setPoison u b s).versions = s.versions := rfl
@[simp] theorem setPoison_replays (u : Nat) (b : Bool) : (setPoison u b s).replays = s.replays := rfl
@[simp] theorem setPoison_reds (u : Nat) (b : Bool) : (setPoison u b s).reds = s.reds := rfl
@[simp] theorem setPoison_runs (u : Nat) (b : Bool) : (setPoison u b s).runs = s.runs := rfl
@[simp] theorem setPoison_panSlots (u : Nat) (b : Bool) : (setPoison u b s).panSlots = s.panSlots := rfl
@[simp] theorem setPoison_harvest (u : Nat) (b : Bool) : (setPoison u b s).harvest = s.harvest := rfl
@[simp] theorem setPoison_harvested (u : Nat) (b : Bool) : (setPoison u b s).harvested = s.harvested := rfl
@[simp] theorem setPoison_restoring (u : Nat) (b : Bool) : (setPoison u b s).restoring = s.restoring := rfl
@[simp] theorem setPoison_checks (u : Nat) (b : Bool) : (setPoison u b s).checks = s.checks := rfl
@[simp] theorem setPoison_swap (u : Nat) (b : Bool) : (setPoison u b s).swap = s.swap := rfl
@[simp] theorem setPoison_tmErrors (u : Nat) (b : Bool) : (setPoison u b s).tmErrors = s.tmErrors := rfl
@[simp] theorem setPoison_swapWaits (u : Nat) (b : Bool) : (setPoison u b s).swapWaits = s.swapWaits := rfl
@[simp] theorem setPoison_far (u : Nat) (b : Bool) : (setPoison u b s).far = s.far := rfl
@[simp] theorem setPoison_ctxs (u : Nat) (b : Bool) : (setPoison u b s).ctxs = s.ctxs := rfl
@[simp] theorem setPoison_parts (u : Nat) (b : Bool) : (setPoison u b s).parts = s.parts := rfl
@[simp] theorem setPoison_prtRun (u : Nat) (b : Bool) : (setPoison u b s).prtRun = s.prtRun := rfl
@[simp] theorem setPoison_hostQs (u : Nat) (b : Bool) : (setPoison u b s).hostQs = s.hostQs := rfl
@[simp] theorem setPoison_hostTurn (u : Nat) (b : Bool) : (setPoison u b s).hostTurn = s.hostTurn := rfl
@[simp] theorem setPoison_mgmt (u : Nat) (b : Bool) : (setPoison u b s).mgmt = s.mgmt := rfl
@[simp] theorem setPoison_power (u : Nat) (b : Bool) : (setPoison u b s).power = s.power := rfl
@[simp] theorem setPoison_pins (u : Nat) (b : Bool) : (setPoison u b s).pins = s.pins := rfl
@[simp] theorem setPoison_now (u : Nat) (b : Bool) : (setPoison u b s).now = s.now := rfl
@[simp] theorem setPoison_posted (u : Nat) (b : Bool) : (setPoison u b s).posted = s.posted := rfl
@[simp] theorem setPoison_free (u : Nat) (b : Bool) : (setPoison u b s).free = s.free := rfl
@[simp] theorem setPoison_out (u : Nat) (b : Bool) : (setPoison u b s).out = s.out := rfl
@[simp] theorem setPoison_pending (u : Nat) (b : Bool) : (setPoison u b s).pending = s.pending := rfl

@[simp] theorem setPath_regs (f : MemPath → MemPath) : (setPath f s).regs = s.regs := rfl
@[simp] theorem setPath_mem (f : MemPath → MemPath) : (setPath f s).mem = s.mem := rfl
@[simp] theorem setPath_poison (f : MemPath → MemPath) : (setPath f s).poison = s.poison := rfl
@[simp] theorem setPath_acc (f : MemPath → MemPath) : (setPath f s).acc = s.acc := rfl
@[simp] theorem setPath_signals (f : MemPath → MemPath) : (setPath f s).signals = s.signals := rfl
@[simp] theorem setPath_bundles (f : MemPath → MemPath) : (setPath f s).bundles = s.bundles := rfl
@[simp] theorem setPath_domains (f : MemPath → MemPath) : (setPath f s).domains = s.domains := rfl
@[simp] theorem setPath_tiles (f : MemPath → MemPath) : (setPath f s).tiles = s.tiles := rfl
@[simp] theorem setPath_ports (f : MemPath → MemPath) : (setPath f s).ports = s.ports := rfl
@[simp] theorem setPath_opens (f : MemPath → MemPath) : (setPath f s).opens = s.opens := rfl
@[simp] theorem setPath_locals (f : MemPath → MemPath) : (setPath f s).locals = s.locals := rfl
@[simp] theorem setPath_dropped (f : MemPath → MemPath) : (setPath f s).dropped = s.dropped := rfl
@[simp] theorem setPath_nextTag (f : MemPath → MemPath) : (setPath f s).nextTag = s.nextTag := rfl
@[simp] theorem setPath_mcasts (f : MemPath → MemPath) : (setPath f s).mcasts = s.mcasts := rfl
@[simp] theorem setPath_rmaps (f : MemPath → MemPath) : (setPath f s).rmaps = s.rmaps := rfl
@[simp] theorem setPath_phaseSlots (f : MemPath → MemPath) : (setPath f s).phaseSlots = s.phaseSlots := rfl
@[simp] theorem setPath_queues (f : MemPath → MemPath) : (setPath f s).queues = s.queues := rfl
@[simp] theorem setPath_turns (f : MemPath → MemPath) : (setPath f s).turns = s.turns := rfl
@[simp] theorem setPath_stalled (f : MemPath → MemPath) : (setPath f s).stalled = s.stalled := rfl
@[simp] theorem setPath_stagePorts (f : MemPath → MemPath) : (setPath f s).stagePorts = s.stagePorts := rfl
@[simp] theorem setPath_versions (f : MemPath → MemPath) : (setPath f s).versions = s.versions := rfl
@[simp] theorem setPath_replays (f : MemPath → MemPath) : (setPath f s).replays = s.replays := rfl
@[simp] theorem setPath_reds (f : MemPath → MemPath) : (setPath f s).reds = s.reds := rfl
@[simp] theorem setPath_runs (f : MemPath → MemPath) : (setPath f s).runs = s.runs := rfl
@[simp] theorem setPath_panSlots (f : MemPath → MemPath) : (setPath f s).panSlots = s.panSlots := rfl
@[simp] theorem setPath_harvest (f : MemPath → MemPath) : (setPath f s).harvest = s.harvest := rfl
@[simp] theorem setPath_harvested (f : MemPath → MemPath) : (setPath f s).harvested = s.harvested := rfl
@[simp] theorem setPath_restoring (f : MemPath → MemPath) : (setPath f s).restoring = s.restoring := rfl
@[simp] theorem setPath_checks (f : MemPath → MemPath) : (setPath f s).checks = s.checks := rfl
@[simp] theorem setPath_swap (f : MemPath → MemPath) : (setPath f s).swap = s.swap := rfl
@[simp] theorem setPath_tmErrors (f : MemPath → MemPath) : (setPath f s).tmErrors = s.tmErrors := rfl
@[simp] theorem setPath_swapWaits (f : MemPath → MemPath) : (setPath f s).swapWaits = s.swapWaits := rfl
@[simp] theorem setPath_far (f : MemPath → MemPath) : (setPath f s).far = s.far := rfl
@[simp] theorem setPath_ctxs (f : MemPath → MemPath) : (setPath f s).ctxs = s.ctxs := rfl
@[simp] theorem setPath_parts (f : MemPath → MemPath) : (setPath f s).parts = s.parts := rfl
@[simp] theorem setPath_prtRun (f : MemPath → MemPath) : (setPath f s).prtRun = s.prtRun := rfl
@[simp] theorem setPath_hostQs (f : MemPath → MemPath) : (setPath f s).hostQs = s.hostQs := rfl
@[simp] theorem setPath_hostTurn (f : MemPath → MemPath) : (setPath f s).hostTurn = s.hostTurn := rfl
@[simp] theorem setPath_mgmt (f : MemPath → MemPath) : (setPath f s).mgmt = s.mgmt := rfl
@[simp] theorem setPath_power (f : MemPath → MemPath) : (setPath f s).power = s.power := rfl
@[simp] theorem setPath_pins (f : MemPath → MemPath) : (setPath f s).pins = s.pins := rfl
@[simp] theorem setPath_now (f : MemPath → MemPath) : (setPath f s).now = s.now := rfl
@[simp] theorem setPath_posted (f : MemPath → MemPath) : (setPath f s).posted = s.posted := rfl
@[simp] theorem setPath_free (f : MemPath → MemPath) : (setPath f s).free = s.free := rfl
@[simp] theorem setPath_out (f : MemPath → MemPath) : (setPath f s).out = s.out := rfl
@[simp] theorem setPath_pending (f : MemPath → MemPath) : (setPath f s).pending = s.pending := rfl

@[simp] theorem setAcc_regs (p b i j : Nat) (v : BitVec 32) : (setAcc p b i j v s).regs = s.regs := rfl
@[simp] theorem setAcc_mem (p b i j : Nat) (v : BitVec 32) : (setAcc p b i j v s).mem = s.mem := rfl
@[simp] theorem setAcc_poison (p b i j : Nat) (v : BitVec 32) : (setAcc p b i j v s).poison = s.poison := rfl
@[simp] theorem setAcc_path (p b i j : Nat) (v : BitVec 32) : (setAcc p b i j v s).path = s.path := rfl
@[simp] theorem setAcc_signals (p b i j : Nat) (v : BitVec 32) : (setAcc p b i j v s).signals = s.signals := rfl
@[simp] theorem setAcc_bundles (p b i j : Nat) (v : BitVec 32) : (setAcc p b i j v s).bundles = s.bundles := rfl
@[simp] theorem setAcc_domains (p b i j : Nat) (v : BitVec 32) : (setAcc p b i j v s).domains = s.domains := rfl
@[simp] theorem setAcc_tiles (p b i j : Nat) (v : BitVec 32) : (setAcc p b i j v s).tiles = s.tiles := rfl
@[simp] theorem setAcc_ports (p b i j : Nat) (v : BitVec 32) : (setAcc p b i j v s).ports = s.ports := rfl
@[simp] theorem setAcc_opens (p b i j : Nat) (v : BitVec 32) : (setAcc p b i j v s).opens = s.opens := rfl
@[simp] theorem setAcc_locals (p b i j : Nat) (v : BitVec 32) : (setAcc p b i j v s).locals = s.locals := rfl
@[simp] theorem setAcc_dropped (p b i j : Nat) (v : BitVec 32) : (setAcc p b i j v s).dropped = s.dropped := rfl
@[simp] theorem setAcc_nextTag (p b i j : Nat) (v : BitVec 32) : (setAcc p b i j v s).nextTag = s.nextTag := rfl
@[simp] theorem setAcc_mcasts (p b i j : Nat) (v : BitVec 32) : (setAcc p b i j v s).mcasts = s.mcasts := rfl
@[simp] theorem setAcc_rmaps (p b i j : Nat) (v : BitVec 32) : (setAcc p b i j v s).rmaps = s.rmaps := rfl
@[simp] theorem setAcc_phaseSlots (p b i j : Nat) (v : BitVec 32) : (setAcc p b i j v s).phaseSlots = s.phaseSlots := rfl
@[simp] theorem setAcc_queues (p b i j : Nat) (v : BitVec 32) : (setAcc p b i j v s).queues = s.queues := rfl
@[simp] theorem setAcc_turns (p b i j : Nat) (v : BitVec 32) : (setAcc p b i j v s).turns = s.turns := rfl
@[simp] theorem setAcc_stalled (p b i j : Nat) (v : BitVec 32) : (setAcc p b i j v s).stalled = s.stalled := rfl
@[simp] theorem setAcc_stagePorts (p b i j : Nat) (v : BitVec 32) : (setAcc p b i j v s).stagePorts = s.stagePorts := rfl
@[simp] theorem setAcc_versions (p b i j : Nat) (v : BitVec 32) : (setAcc p b i j v s).versions = s.versions := rfl
@[simp] theorem setAcc_replays (p b i j : Nat) (v : BitVec 32) : (setAcc p b i j v s).replays = s.replays := rfl
@[simp] theorem setAcc_reds (p b i j : Nat) (v : BitVec 32) : (setAcc p b i j v s).reds = s.reds := rfl
@[simp] theorem setAcc_runs (p b i j : Nat) (v : BitVec 32) : (setAcc p b i j v s).runs = s.runs := rfl
@[simp] theorem setAcc_panSlots (p b i j : Nat) (v : BitVec 32) : (setAcc p b i j v s).panSlots = s.panSlots := rfl
@[simp] theorem setAcc_harvest (p b i j : Nat) (v : BitVec 32) : (setAcc p b i j v s).harvest = s.harvest := rfl
@[simp] theorem setAcc_harvested (p b i j : Nat) (v : BitVec 32) : (setAcc p b i j v s).harvested = s.harvested := rfl
@[simp] theorem setAcc_restoring (p b i j : Nat) (v : BitVec 32) : (setAcc p b i j v s).restoring = s.restoring := rfl
@[simp] theorem setAcc_checks (p b i j : Nat) (v : BitVec 32) : (setAcc p b i j v s).checks = s.checks := rfl
@[simp] theorem setAcc_swap (p b i j : Nat) (v : BitVec 32) : (setAcc p b i j v s).swap = s.swap := rfl
@[simp] theorem setAcc_tmErrors (p b i j : Nat) (v : BitVec 32) : (setAcc p b i j v s).tmErrors = s.tmErrors := rfl
@[simp] theorem setAcc_swapWaits (p b i j : Nat) (v : BitVec 32) : (setAcc p b i j v s).swapWaits = s.swapWaits := rfl
@[simp] theorem setAcc_far (p b i j : Nat) (v : BitVec 32) : (setAcc p b i j v s).far = s.far := rfl
@[simp] theorem setAcc_ctxs (p b i j : Nat) (v : BitVec 32) : (setAcc p b i j v s).ctxs = s.ctxs := rfl
@[simp] theorem setAcc_parts (p b i j : Nat) (v : BitVec 32) : (setAcc p b i j v s).parts = s.parts := rfl
@[simp] theorem setAcc_prtRun (p b i j : Nat) (v : BitVec 32) : (setAcc p b i j v s).prtRun = s.prtRun := rfl
@[simp] theorem setAcc_hostQs (p b i j : Nat) (v : BitVec 32) : (setAcc p b i j v s).hostQs = s.hostQs := rfl
@[simp] theorem setAcc_hostTurn (p b i j : Nat) (v : BitVec 32) : (setAcc p b i j v s).hostTurn = s.hostTurn := rfl
@[simp] theorem setAcc_mgmt (p b i j : Nat) (v : BitVec 32) : (setAcc p b i j v s).mgmt = s.mgmt := rfl
@[simp] theorem setAcc_power (p b i j : Nat) (v : BitVec 32) : (setAcc p b i j v s).power = s.power := rfl
@[simp] theorem setAcc_pins (p b i j : Nat) (v : BitVec 32) : (setAcc p b i j v s).pins = s.pins := rfl
@[simp] theorem setAcc_now (p b i j : Nat) (v : BitVec 32) : (setAcc p b i j v s).now = s.now := rfl
@[simp] theorem setAcc_posted (p b i j : Nat) (v : BitVec 32) : (setAcc p b i j v s).posted = s.posted := rfl
@[simp] theorem setAcc_free (p b i j : Nat) (v : BitVec 32) : (setAcc p b i j v s).free = s.free := rfl
@[simp] theorem setAcc_out (p b i j : Nat) (v : BitVec 32) : (setAcc p b i j v s).out = s.out := rfl
@[simp] theorem setAcc_pending (p b i j : Nat) (v : BitVec 32) : (setAcc p b i j v s).pending = s.pending := rfl

@[simp] theorem setSignal_regs (g : Signal) (x : SignalState) : (setSignal g x s).regs = s.regs := rfl
@[simp] theorem setSignal_mem (g : Signal) (x : SignalState) : (setSignal g x s).mem = s.mem := rfl
@[simp] theorem setSignal_poison (g : Signal) (x : SignalState) : (setSignal g x s).poison = s.poison := rfl
@[simp] theorem setSignal_acc (g : Signal) (x : SignalState) : (setSignal g x s).acc = s.acc := rfl
@[simp] theorem setSignal_path (g : Signal) (x : SignalState) : (setSignal g x s).path = s.path := rfl
@[simp] theorem setSignal_bundles (g : Signal) (x : SignalState) : (setSignal g x s).bundles = s.bundles := rfl
@[simp] theorem setSignal_domains (g : Signal) (x : SignalState) : (setSignal g x s).domains = s.domains := rfl
@[simp] theorem setSignal_tiles (g : Signal) (x : SignalState) : (setSignal g x s).tiles = s.tiles := rfl
@[simp] theorem setSignal_ports (g : Signal) (x : SignalState) : (setSignal g x s).ports = s.ports := rfl
@[simp] theorem setSignal_opens (g : Signal) (x : SignalState) : (setSignal g x s).opens = s.opens := rfl
@[simp] theorem setSignal_locals (g : Signal) (x : SignalState) : (setSignal g x s).locals = s.locals := rfl
@[simp] theorem setSignal_dropped (g : Signal) (x : SignalState) : (setSignal g x s).dropped = s.dropped := rfl
@[simp] theorem setSignal_nextTag (g : Signal) (x : SignalState) : (setSignal g x s).nextTag = s.nextTag := rfl
@[simp] theorem setSignal_mcasts (g : Signal) (x : SignalState) : (setSignal g x s).mcasts = s.mcasts := rfl
@[simp] theorem setSignal_rmaps (g : Signal) (x : SignalState) : (setSignal g x s).rmaps = s.rmaps := rfl
@[simp] theorem setSignal_phaseSlots (g : Signal) (x : SignalState) : (setSignal g x s).phaseSlots = s.phaseSlots := rfl
@[simp] theorem setSignal_queues (g : Signal) (x : SignalState) : (setSignal g x s).queues = s.queues := rfl
@[simp] theorem setSignal_turns (g : Signal) (x : SignalState) : (setSignal g x s).turns = s.turns := rfl
@[simp] theorem setSignal_stalled (g : Signal) (x : SignalState) : (setSignal g x s).stalled = s.stalled := rfl
@[simp] theorem setSignal_stagePorts (g : Signal) (x : SignalState) : (setSignal g x s).stagePorts = s.stagePorts := rfl
@[simp] theorem setSignal_versions (g : Signal) (x : SignalState) : (setSignal g x s).versions = s.versions := rfl
@[simp] theorem setSignal_replays (g : Signal) (x : SignalState) : (setSignal g x s).replays = s.replays := rfl
@[simp] theorem setSignal_reds (g : Signal) (x : SignalState) : (setSignal g x s).reds = s.reds := rfl
@[simp] theorem setSignal_runs (g : Signal) (x : SignalState) : (setSignal g x s).runs = s.runs := rfl
@[simp] theorem setSignal_panSlots (g : Signal) (x : SignalState) : (setSignal g x s).panSlots = s.panSlots := rfl
@[simp] theorem setSignal_harvest (g : Signal) (x : SignalState) : (setSignal g x s).harvest = s.harvest := rfl
@[simp] theorem setSignal_harvested (g : Signal) (x : SignalState) : (setSignal g x s).harvested = s.harvested := rfl
@[simp] theorem setSignal_restoring (g : Signal) (x : SignalState) : (setSignal g x s).restoring = s.restoring := rfl
@[simp] theorem setSignal_checks (g : Signal) (x : SignalState) : (setSignal g x s).checks = s.checks := rfl
@[simp] theorem setSignal_swap (g : Signal) (x : SignalState) : (setSignal g x s).swap = s.swap := rfl
@[simp] theorem setSignal_tmErrors (g : Signal) (x : SignalState) : (setSignal g x s).tmErrors = s.tmErrors := rfl
@[simp] theorem setSignal_swapWaits (g : Signal) (x : SignalState) : (setSignal g x s).swapWaits = s.swapWaits := rfl
@[simp] theorem setSignal_far (g : Signal) (x : SignalState) : (setSignal g x s).far = s.far := rfl
@[simp] theorem setSignal_ctxs (g : Signal) (x : SignalState) : (setSignal g x s).ctxs = s.ctxs := rfl
@[simp] theorem setSignal_parts (g : Signal) (x : SignalState) : (setSignal g x s).parts = s.parts := rfl
@[simp] theorem setSignal_prtRun (g : Signal) (x : SignalState) : (setSignal g x s).prtRun = s.prtRun := rfl
@[simp] theorem setSignal_hostQs (g : Signal) (x : SignalState) : (setSignal g x s).hostQs = s.hostQs := rfl
@[simp] theorem setSignal_hostTurn (g : Signal) (x : SignalState) : (setSignal g x s).hostTurn = s.hostTurn := rfl
@[simp] theorem setSignal_mgmt (g : Signal) (x : SignalState) : (setSignal g x s).mgmt = s.mgmt := rfl
@[simp] theorem setSignal_power (g : Signal) (x : SignalState) : (setSignal g x s).power = s.power := rfl
@[simp] theorem setSignal_pins (g : Signal) (x : SignalState) : (setSignal g x s).pins = s.pins := rfl
@[simp] theorem setSignal_now (g : Signal) (x : SignalState) : (setSignal g x s).now = s.now := rfl
@[simp] theorem setSignal_posted (g : Signal) (x : SignalState) : (setSignal g x s).posted = s.posted := rfl
@[simp] theorem setSignal_free (g : Signal) (x : SignalState) : (setSignal g x s).free = s.free := rfl
@[simp] theorem setSignal_out (g : Signal) (x : SignalState) : (setSignal g x s).out = s.out := rfl
@[simp] theorem setSignal_pending (g : Signal) (x : SignalState) : (setSignal g x s).pending = s.pending := rfl

@[simp] theorem setBundle_regs (g : Signal) (x : BundleState) : (setBundle g x s).regs = s.regs := rfl
@[simp] theorem setBundle_mem (g : Signal) (x : BundleState) : (setBundle g x s).mem = s.mem := rfl
@[simp] theorem setBundle_poison (g : Signal) (x : BundleState) : (setBundle g x s).poison = s.poison := rfl
@[simp] theorem setBundle_acc (g : Signal) (x : BundleState) : (setBundle g x s).acc = s.acc := rfl
@[simp] theorem setBundle_path (g : Signal) (x : BundleState) : (setBundle g x s).path = s.path := rfl
@[simp] theorem setBundle_signals (g : Signal) (x : BundleState) : (setBundle g x s).signals = s.signals := rfl
@[simp] theorem setBundle_domains (g : Signal) (x : BundleState) : (setBundle g x s).domains = s.domains := rfl
@[simp] theorem setBundle_tiles (g : Signal) (x : BundleState) : (setBundle g x s).tiles = s.tiles := rfl
@[simp] theorem setBundle_ports (g : Signal) (x : BundleState) : (setBundle g x s).ports = s.ports := rfl
@[simp] theorem setBundle_opens (g : Signal) (x : BundleState) : (setBundle g x s).opens = s.opens := rfl
@[simp] theorem setBundle_locals (g : Signal) (x : BundleState) : (setBundle g x s).locals = s.locals := rfl
@[simp] theorem setBundle_dropped (g : Signal) (x : BundleState) : (setBundle g x s).dropped = s.dropped := rfl
@[simp] theorem setBundle_nextTag (g : Signal) (x : BundleState) : (setBundle g x s).nextTag = s.nextTag := rfl
@[simp] theorem setBundle_mcasts (g : Signal) (x : BundleState) : (setBundle g x s).mcasts = s.mcasts := rfl
@[simp] theorem setBundle_rmaps (g : Signal) (x : BundleState) : (setBundle g x s).rmaps = s.rmaps := rfl
@[simp] theorem setBundle_phaseSlots (g : Signal) (x : BundleState) : (setBundle g x s).phaseSlots = s.phaseSlots := rfl
@[simp] theorem setBundle_queues (g : Signal) (x : BundleState) : (setBundle g x s).queues = s.queues := rfl
@[simp] theorem setBundle_turns (g : Signal) (x : BundleState) : (setBundle g x s).turns = s.turns := rfl
@[simp] theorem setBundle_stalled (g : Signal) (x : BundleState) : (setBundle g x s).stalled = s.stalled := rfl
@[simp] theorem setBundle_stagePorts (g : Signal) (x : BundleState) : (setBundle g x s).stagePorts = s.stagePorts := rfl
@[simp] theorem setBundle_versions (g : Signal) (x : BundleState) : (setBundle g x s).versions = s.versions := rfl
@[simp] theorem setBundle_replays (g : Signal) (x : BundleState) : (setBundle g x s).replays = s.replays := rfl
@[simp] theorem setBundle_reds (g : Signal) (x : BundleState) : (setBundle g x s).reds = s.reds := rfl
@[simp] theorem setBundle_runs (g : Signal) (x : BundleState) : (setBundle g x s).runs = s.runs := rfl
@[simp] theorem setBundle_panSlots (g : Signal) (x : BundleState) : (setBundle g x s).panSlots = s.panSlots := rfl
@[simp] theorem setBundle_harvest (g : Signal) (x : BundleState) : (setBundle g x s).harvest = s.harvest := rfl
@[simp] theorem setBundle_harvested (g : Signal) (x : BundleState) : (setBundle g x s).harvested = s.harvested := rfl
@[simp] theorem setBundle_restoring (g : Signal) (x : BundleState) : (setBundle g x s).restoring = s.restoring := rfl
@[simp] theorem setBundle_checks (g : Signal) (x : BundleState) : (setBundle g x s).checks = s.checks := rfl
@[simp] theorem setBundle_swap (g : Signal) (x : BundleState) : (setBundle g x s).swap = s.swap := rfl
@[simp] theorem setBundle_tmErrors (g : Signal) (x : BundleState) : (setBundle g x s).tmErrors = s.tmErrors := rfl
@[simp] theorem setBundle_swapWaits (g : Signal) (x : BundleState) : (setBundle g x s).swapWaits = s.swapWaits := rfl
@[simp] theorem setBundle_far (g : Signal) (x : BundleState) : (setBundle g x s).far = s.far := rfl
@[simp] theorem setBundle_ctxs (g : Signal) (x : BundleState) : (setBundle g x s).ctxs = s.ctxs := rfl
@[simp] theorem setBundle_parts (g : Signal) (x : BundleState) : (setBundle g x s).parts = s.parts := rfl
@[simp] theorem setBundle_prtRun (g : Signal) (x : BundleState) : (setBundle g x s).prtRun = s.prtRun := rfl
@[simp] theorem setBundle_hostQs (g : Signal) (x : BundleState) : (setBundle g x s).hostQs = s.hostQs := rfl
@[simp] theorem setBundle_hostTurn (g : Signal) (x : BundleState) : (setBundle g x s).hostTurn = s.hostTurn := rfl
@[simp] theorem setBundle_mgmt (g : Signal) (x : BundleState) : (setBundle g x s).mgmt = s.mgmt := rfl
@[simp] theorem setBundle_power (g : Signal) (x : BundleState) : (setBundle g x s).power = s.power := rfl
@[simp] theorem setBundle_pins (g : Signal) (x : BundleState) : (setBundle g x s).pins = s.pins := rfl
@[simp] theorem setBundle_now (g : Signal) (x : BundleState) : (setBundle g x s).now = s.now := rfl
@[simp] theorem setBundle_posted (g : Signal) (x : BundleState) : (setBundle g x s).posted = s.posted := rfl
@[simp] theorem setBundle_free (g : Signal) (x : BundleState) : (setBundle g x s).free = s.free := rfl
@[simp] theorem setBundle_out (g : Signal) (x : BundleState) : (setBundle g x s).out = s.out := rfl
@[simp] theorem setBundle_pending (g : Signal) (x : BundleState) : (setBundle g x s).pending = s.pending := rfl

@[simp] theorem setDom_regs (d : Nat) (x : TideDom) : (setDom d x s).regs = s.regs := rfl
@[simp] theorem setDom_mem (d : Nat) (x : TideDom) : (setDom d x s).mem = s.mem := rfl
@[simp] theorem setDom_poison (d : Nat) (x : TideDom) : (setDom d x s).poison = s.poison := rfl
@[simp] theorem setDom_acc (d : Nat) (x : TideDom) : (setDom d x s).acc = s.acc := rfl
@[simp] theorem setDom_path (d : Nat) (x : TideDom) : (setDom d x s).path = s.path := rfl
@[simp] theorem setDom_signals (d : Nat) (x : TideDom) : (setDom d x s).signals = s.signals := rfl
@[simp] theorem setDom_bundles (d : Nat) (x : TideDom) : (setDom d x s).bundles = s.bundles := rfl
@[simp] theorem setDom_tiles (d : Nat) (x : TideDom) : (setDom d x s).tiles = s.tiles := rfl
@[simp] theorem setDom_ports (d : Nat) (x : TideDom) : (setDom d x s).ports = s.ports := rfl
@[simp] theorem setDom_opens (d : Nat) (x : TideDom) : (setDom d x s).opens = s.opens := rfl
@[simp] theorem setDom_locals (d : Nat) (x : TideDom) : (setDom d x s).locals = s.locals := rfl
@[simp] theorem setDom_dropped (d : Nat) (x : TideDom) : (setDom d x s).dropped = s.dropped := rfl
@[simp] theorem setDom_nextTag (d : Nat) (x : TideDom) : (setDom d x s).nextTag = s.nextTag := rfl
@[simp] theorem setDom_mcasts (d : Nat) (x : TideDom) : (setDom d x s).mcasts = s.mcasts := rfl
@[simp] theorem setDom_rmaps (d : Nat) (x : TideDom) : (setDom d x s).rmaps = s.rmaps := rfl
@[simp] theorem setDom_phaseSlots (d : Nat) (x : TideDom) : (setDom d x s).phaseSlots = s.phaseSlots := rfl
@[simp] theorem setDom_queues (d : Nat) (x : TideDom) : (setDom d x s).queues = s.queues := rfl
@[simp] theorem setDom_turns (d : Nat) (x : TideDom) : (setDom d x s).turns = s.turns := rfl
@[simp] theorem setDom_stalled (d : Nat) (x : TideDom) : (setDom d x s).stalled = s.stalled := rfl
@[simp] theorem setDom_stagePorts (d : Nat) (x : TideDom) : (setDom d x s).stagePorts = s.stagePorts := rfl
@[simp] theorem setDom_versions (d : Nat) (x : TideDom) : (setDom d x s).versions = s.versions := rfl
@[simp] theorem setDom_replays (d : Nat) (x : TideDom) : (setDom d x s).replays = s.replays := rfl
@[simp] theorem setDom_reds (d : Nat) (x : TideDom) : (setDom d x s).reds = s.reds := rfl
@[simp] theorem setDom_runs (d : Nat) (x : TideDom) : (setDom d x s).runs = s.runs := rfl
@[simp] theorem setDom_panSlots (d : Nat) (x : TideDom) : (setDom d x s).panSlots = s.panSlots := rfl
@[simp] theorem setDom_harvest (d : Nat) (x : TideDom) : (setDom d x s).harvest = s.harvest := rfl
@[simp] theorem setDom_harvested (d : Nat) (x : TideDom) : (setDom d x s).harvested = s.harvested := rfl
@[simp] theorem setDom_restoring (d : Nat) (x : TideDom) : (setDom d x s).restoring = s.restoring := rfl
@[simp] theorem setDom_checks (d : Nat) (x : TideDom) : (setDom d x s).checks = s.checks := rfl
@[simp] theorem setDom_swap (d : Nat) (x : TideDom) : (setDom d x s).swap = s.swap := rfl
@[simp] theorem setDom_tmErrors (d : Nat) (x : TideDom) : (setDom d x s).tmErrors = s.tmErrors := rfl
@[simp] theorem setDom_swapWaits (d : Nat) (x : TideDom) : (setDom d x s).swapWaits = s.swapWaits := rfl
@[simp] theorem setDom_far (d : Nat) (x : TideDom) : (setDom d x s).far = s.far := rfl
@[simp] theorem setDom_ctxs (d : Nat) (x : TideDom) : (setDom d x s).ctxs = s.ctxs := rfl
@[simp] theorem setDom_parts (d : Nat) (x : TideDom) : (setDom d x s).parts = s.parts := rfl
@[simp] theorem setDom_prtRun (d : Nat) (x : TideDom) : (setDom d x s).prtRun = s.prtRun := rfl
@[simp] theorem setDom_hostQs (d : Nat) (x : TideDom) : (setDom d x s).hostQs = s.hostQs := rfl
@[simp] theorem setDom_hostTurn (d : Nat) (x : TideDom) : (setDom d x s).hostTurn = s.hostTurn := rfl
@[simp] theorem setDom_mgmt (d : Nat) (x : TideDom) : (setDom d x s).mgmt = s.mgmt := rfl
@[simp] theorem setDom_power (d : Nat) (x : TideDom) : (setDom d x s).power = s.power := rfl
@[simp] theorem setDom_pins (d : Nat) (x : TideDom) : (setDom d x s).pins = s.pins := rfl
@[simp] theorem setDom_now (d : Nat) (x : TideDom) : (setDom d x s).now = s.now := rfl
@[simp] theorem setDom_posted (d : Nat) (x : TideDom) : (setDom d x s).posted = s.posted := rfl
@[simp] theorem setDom_free (d : Nat) (x : TideDom) : (setDom d x s).free = s.free := rfl
@[simp] theorem setDom_out (d : Nat) (x : TideDom) : (setDom d x s).out = s.out := rfl
@[simp] theorem setDom_pending (d : Nat) (x : TideDom) : (setDom d x s).pending = s.pending := rfl

@[simp] theorem setTile_regs (p : Nat) (x : TileState) : (setTile p x s).regs = s.regs := rfl
@[simp] theorem setTile_mem (p : Nat) (x : TileState) : (setTile p x s).mem = s.mem := rfl
@[simp] theorem setTile_poison (p : Nat) (x : TileState) : (setTile p x s).poison = s.poison := rfl
@[simp] theorem setTile_acc (p : Nat) (x : TileState) : (setTile p x s).acc = s.acc := rfl
@[simp] theorem setTile_path (p : Nat) (x : TileState) : (setTile p x s).path = s.path := rfl
@[simp] theorem setTile_signals (p : Nat) (x : TileState) : (setTile p x s).signals = s.signals := rfl
@[simp] theorem setTile_bundles (p : Nat) (x : TileState) : (setTile p x s).bundles = s.bundles := rfl
@[simp] theorem setTile_domains (p : Nat) (x : TileState) : (setTile p x s).domains = s.domains := rfl
@[simp] theorem setTile_ports (p : Nat) (x : TileState) : (setTile p x s).ports = s.ports := rfl
@[simp] theorem setTile_opens (p : Nat) (x : TileState) : (setTile p x s).opens = s.opens := rfl
@[simp] theorem setTile_locals (p : Nat) (x : TileState) : (setTile p x s).locals = s.locals := rfl
@[simp] theorem setTile_dropped (p : Nat) (x : TileState) : (setTile p x s).dropped = s.dropped := rfl
@[simp] theorem setTile_nextTag (p : Nat) (x : TileState) : (setTile p x s).nextTag = s.nextTag := rfl
@[simp] theorem setTile_mcasts (p : Nat) (x : TileState) : (setTile p x s).mcasts = s.mcasts := rfl
@[simp] theorem setTile_rmaps (p : Nat) (x : TileState) : (setTile p x s).rmaps = s.rmaps := rfl
@[simp] theorem setTile_phaseSlots (p : Nat) (x : TileState) : (setTile p x s).phaseSlots = s.phaseSlots := rfl
@[simp] theorem setTile_queues (p : Nat) (x : TileState) : (setTile p x s).queues = s.queues := rfl
@[simp] theorem setTile_turns (p : Nat) (x : TileState) : (setTile p x s).turns = s.turns := rfl
@[simp] theorem setTile_stalled (p : Nat) (x : TileState) : (setTile p x s).stalled = s.stalled := rfl
@[simp] theorem setTile_stagePorts (p : Nat) (x : TileState) : (setTile p x s).stagePorts = s.stagePorts := rfl
@[simp] theorem setTile_versions (p : Nat) (x : TileState) : (setTile p x s).versions = s.versions := rfl
@[simp] theorem setTile_replays (p : Nat) (x : TileState) : (setTile p x s).replays = s.replays := rfl
@[simp] theorem setTile_reds (p : Nat) (x : TileState) : (setTile p x s).reds = s.reds := rfl
@[simp] theorem setTile_runs (p : Nat) (x : TileState) : (setTile p x s).runs = s.runs := rfl
@[simp] theorem setTile_panSlots (p : Nat) (x : TileState) : (setTile p x s).panSlots = s.panSlots := rfl
@[simp] theorem setTile_harvest (p : Nat) (x : TileState) : (setTile p x s).harvest = s.harvest := rfl
@[simp] theorem setTile_harvested (p : Nat) (x : TileState) : (setTile p x s).harvested = s.harvested := rfl
@[simp] theorem setTile_restoring (p : Nat) (x : TileState) : (setTile p x s).restoring = s.restoring := rfl
@[simp] theorem setTile_checks (p : Nat) (x : TileState) : (setTile p x s).checks = s.checks := rfl
@[simp] theorem setTile_swap (p : Nat) (x : TileState) : (setTile p x s).swap = s.swap := rfl
@[simp] theorem setTile_tmErrors (p : Nat) (x : TileState) : (setTile p x s).tmErrors = s.tmErrors := rfl
@[simp] theorem setTile_swapWaits (p : Nat) (x : TileState) : (setTile p x s).swapWaits = s.swapWaits := rfl
@[simp] theorem setTile_far (p : Nat) (x : TileState) : (setTile p x s).far = s.far := rfl
@[simp] theorem setTile_ctxs (p : Nat) (x : TileState) : (setTile p x s).ctxs = s.ctxs := rfl
@[simp] theorem setTile_parts (p : Nat) (x : TileState) : (setTile p x s).parts = s.parts := rfl
@[simp] theorem setTile_prtRun (p : Nat) (x : TileState) : (setTile p x s).prtRun = s.prtRun := rfl
@[simp] theorem setTile_hostQs (p : Nat) (x : TileState) : (setTile p x s).hostQs = s.hostQs := rfl
@[simp] theorem setTile_hostTurn (p : Nat) (x : TileState) : (setTile p x s).hostTurn = s.hostTurn := rfl
@[simp] theorem setTile_mgmt (p : Nat) (x : TileState) : (setTile p x s).mgmt = s.mgmt := rfl
@[simp] theorem setTile_power (p : Nat) (x : TileState) : (setTile p x s).power = s.power := rfl
@[simp] theorem setTile_pins (p : Nat) (x : TileState) : (setTile p x s).pins = s.pins := rfl
@[simp] theorem setTile_now (p : Nat) (x : TileState) : (setTile p x s).now = s.now := rfl
@[simp] theorem setTile_posted (p : Nat) (x : TileState) : (setTile p x s).posted = s.posted := rfl
@[simp] theorem setTile_free (p : Nat) (x : TileState) : (setTile p x s).free = s.free := rfl
@[simp] theorem setTile_out (p : Nat) (x : TileState) : (setTile p x s).out = s.out := rfl
@[simp] theorem setTile_pending (p : Nat) (x : TileState) : (setTile p x s).pending = s.pending := rfl

@[simp] theorem setCtx_regs (c : Nat) (x : CtxExtra) : (setCtx c x s).regs = s.regs := rfl
@[simp] theorem setCtx_mem (c : Nat) (x : CtxExtra) : (setCtx c x s).mem = s.mem := rfl
@[simp] theorem setCtx_poison (c : Nat) (x : CtxExtra) : (setCtx c x s).poison = s.poison := rfl
@[simp] theorem setCtx_acc (c : Nat) (x : CtxExtra) : (setCtx c x s).acc = s.acc := rfl
@[simp] theorem setCtx_path (c : Nat) (x : CtxExtra) : (setCtx c x s).path = s.path := rfl
@[simp] theorem setCtx_signals (c : Nat) (x : CtxExtra) : (setCtx c x s).signals = s.signals := rfl
@[simp] theorem setCtx_bundles (c : Nat) (x : CtxExtra) : (setCtx c x s).bundles = s.bundles := rfl
@[simp] theorem setCtx_domains (c : Nat) (x : CtxExtra) : (setCtx c x s).domains = s.domains := rfl
@[simp] theorem setCtx_tiles (c : Nat) (x : CtxExtra) : (setCtx c x s).tiles = s.tiles := rfl
@[simp] theorem setCtx_ports (c : Nat) (x : CtxExtra) : (setCtx c x s).ports = s.ports := rfl
@[simp] theorem setCtx_opens (c : Nat) (x : CtxExtra) : (setCtx c x s).opens = s.opens := rfl
@[simp] theorem setCtx_locals (c : Nat) (x : CtxExtra) : (setCtx c x s).locals = s.locals := rfl
@[simp] theorem setCtx_dropped (c : Nat) (x : CtxExtra) : (setCtx c x s).dropped = s.dropped := rfl
@[simp] theorem setCtx_nextTag (c : Nat) (x : CtxExtra) : (setCtx c x s).nextTag = s.nextTag := rfl
@[simp] theorem setCtx_mcasts (c : Nat) (x : CtxExtra) : (setCtx c x s).mcasts = s.mcasts := rfl
@[simp] theorem setCtx_rmaps (c : Nat) (x : CtxExtra) : (setCtx c x s).rmaps = s.rmaps := rfl
@[simp] theorem setCtx_phaseSlots (c : Nat) (x : CtxExtra) : (setCtx c x s).phaseSlots = s.phaseSlots := rfl
@[simp] theorem setCtx_queues (c : Nat) (x : CtxExtra) : (setCtx c x s).queues = s.queues := rfl
@[simp] theorem setCtx_turns (c : Nat) (x : CtxExtra) : (setCtx c x s).turns = s.turns := rfl
@[simp] theorem setCtx_stalled (c : Nat) (x : CtxExtra) : (setCtx c x s).stalled = s.stalled := rfl
@[simp] theorem setCtx_stagePorts (c : Nat) (x : CtxExtra) : (setCtx c x s).stagePorts = s.stagePorts := rfl
@[simp] theorem setCtx_versions (c : Nat) (x : CtxExtra) : (setCtx c x s).versions = s.versions := rfl
@[simp] theorem setCtx_replays (c : Nat) (x : CtxExtra) : (setCtx c x s).replays = s.replays := rfl
@[simp] theorem setCtx_reds (c : Nat) (x : CtxExtra) : (setCtx c x s).reds = s.reds := rfl
@[simp] theorem setCtx_runs (c : Nat) (x : CtxExtra) : (setCtx c x s).runs = s.runs := rfl
@[simp] theorem setCtx_panSlots (c : Nat) (x : CtxExtra) : (setCtx c x s).panSlots = s.panSlots := rfl
@[simp] theorem setCtx_harvest (c : Nat) (x : CtxExtra) : (setCtx c x s).harvest = s.harvest := rfl
@[simp] theorem setCtx_harvested (c : Nat) (x : CtxExtra) : (setCtx c x s).harvested = s.harvested := rfl
@[simp] theorem setCtx_restoring (c : Nat) (x : CtxExtra) : (setCtx c x s).restoring = s.restoring := rfl
@[simp] theorem setCtx_checks (c : Nat) (x : CtxExtra) : (setCtx c x s).checks = s.checks := rfl
@[simp] theorem setCtx_swap (c : Nat) (x : CtxExtra) : (setCtx c x s).swap = s.swap := rfl
@[simp] theorem setCtx_tmErrors (c : Nat) (x : CtxExtra) : (setCtx c x s).tmErrors = s.tmErrors := rfl
@[simp] theorem setCtx_swapWaits (c : Nat) (x : CtxExtra) : (setCtx c x s).swapWaits = s.swapWaits := rfl
@[simp] theorem setCtx_far (c : Nat) (x : CtxExtra) : (setCtx c x s).far = s.far := rfl
@[simp] theorem setCtx_parts (c : Nat) (x : CtxExtra) : (setCtx c x s).parts = s.parts := rfl
@[simp] theorem setCtx_prtRun (c : Nat) (x : CtxExtra) : (setCtx c x s).prtRun = s.prtRun := rfl
@[simp] theorem setCtx_hostQs (c : Nat) (x : CtxExtra) : (setCtx c x s).hostQs = s.hostQs := rfl
@[simp] theorem setCtx_hostTurn (c : Nat) (x : CtxExtra) : (setCtx c x s).hostTurn = s.hostTurn := rfl
@[simp] theorem setCtx_mgmt (c : Nat) (x : CtxExtra) : (setCtx c x s).mgmt = s.mgmt := rfl
@[simp] theorem setCtx_power (c : Nat) (x : CtxExtra) : (setCtx c x s).power = s.power := rfl
@[simp] theorem setCtx_pins (c : Nat) (x : CtxExtra) : (setCtx c x s).pins = s.pins := rfl
@[simp] theorem setCtx_now (c : Nat) (x : CtxExtra) : (setCtx c x s).now = s.now := rfl
@[simp] theorem setCtx_posted (c : Nat) (x : CtxExtra) : (setCtx c x s).posted = s.posted := rfl
@[simp] theorem setCtx_free (c : Nat) (x : CtxExtra) : (setCtx c x s).free = s.free := rfl
@[simp] theorem setCtx_out (c : Nat) (x : CtxExtra) : (setCtx c x s).out = s.out := rfl
@[simp] theorem setCtx_pending (c : Nat) (x : CtxExtra) : (setCtx c x s).pending = s.pending := rfl

@[simp] theorem setPart_regs (q : Nat) (x : PartState) : (setPart q x s).regs = s.regs := rfl
@[simp] theorem setPart_mem (q : Nat) (x : PartState) : (setPart q x s).mem = s.mem := rfl
@[simp] theorem setPart_poison (q : Nat) (x : PartState) : (setPart q x s).poison = s.poison := rfl
@[simp] theorem setPart_acc (q : Nat) (x : PartState) : (setPart q x s).acc = s.acc := rfl
@[simp] theorem setPart_path (q : Nat) (x : PartState) : (setPart q x s).path = s.path := rfl
@[simp] theorem setPart_signals (q : Nat) (x : PartState) : (setPart q x s).signals = s.signals := rfl
@[simp] theorem setPart_bundles (q : Nat) (x : PartState) : (setPart q x s).bundles = s.bundles := rfl
@[simp] theorem setPart_domains (q : Nat) (x : PartState) : (setPart q x s).domains = s.domains := rfl
@[simp] theorem setPart_tiles (q : Nat) (x : PartState) : (setPart q x s).tiles = s.tiles := rfl
@[simp] theorem setPart_ports (q : Nat) (x : PartState) : (setPart q x s).ports = s.ports := rfl
@[simp] theorem setPart_opens (q : Nat) (x : PartState) : (setPart q x s).opens = s.opens := rfl
@[simp] theorem setPart_locals (q : Nat) (x : PartState) : (setPart q x s).locals = s.locals := rfl
@[simp] theorem setPart_dropped (q : Nat) (x : PartState) : (setPart q x s).dropped = s.dropped := rfl
@[simp] theorem setPart_nextTag (q : Nat) (x : PartState) : (setPart q x s).nextTag = s.nextTag := rfl
@[simp] theorem setPart_mcasts (q : Nat) (x : PartState) : (setPart q x s).mcasts = s.mcasts := rfl
@[simp] theorem setPart_rmaps (q : Nat) (x : PartState) : (setPart q x s).rmaps = s.rmaps := rfl
@[simp] theorem setPart_phaseSlots (q : Nat) (x : PartState) : (setPart q x s).phaseSlots = s.phaseSlots := rfl
@[simp] theorem setPart_queues (q : Nat) (x : PartState) : (setPart q x s).queues = s.queues := rfl
@[simp] theorem setPart_turns (q : Nat) (x : PartState) : (setPart q x s).turns = s.turns := rfl
@[simp] theorem setPart_stalled (q : Nat) (x : PartState) : (setPart q x s).stalled = s.stalled := rfl
@[simp] theorem setPart_stagePorts (q : Nat) (x : PartState) : (setPart q x s).stagePorts = s.stagePorts := rfl
@[simp] theorem setPart_versions (q : Nat) (x : PartState) : (setPart q x s).versions = s.versions := rfl
@[simp] theorem setPart_replays (q : Nat) (x : PartState) : (setPart q x s).replays = s.replays := rfl
@[simp] theorem setPart_reds (q : Nat) (x : PartState) : (setPart q x s).reds = s.reds := rfl
@[simp] theorem setPart_runs (q : Nat) (x : PartState) : (setPart q x s).runs = s.runs := rfl
@[simp] theorem setPart_panSlots (q : Nat) (x : PartState) : (setPart q x s).panSlots = s.panSlots := rfl
@[simp] theorem setPart_harvest (q : Nat) (x : PartState) : (setPart q x s).harvest = s.harvest := rfl
@[simp] theorem setPart_harvested (q : Nat) (x : PartState) : (setPart q x s).harvested = s.harvested := rfl
@[simp] theorem setPart_restoring (q : Nat) (x : PartState) : (setPart q x s).restoring = s.restoring := rfl
@[simp] theorem setPart_checks (q : Nat) (x : PartState) : (setPart q x s).checks = s.checks := rfl
@[simp] theorem setPart_swap (q : Nat) (x : PartState) : (setPart q x s).swap = s.swap := rfl
@[simp] theorem setPart_tmErrors (q : Nat) (x : PartState) : (setPart q x s).tmErrors = s.tmErrors := rfl
@[simp] theorem setPart_swapWaits (q : Nat) (x : PartState) : (setPart q x s).swapWaits = s.swapWaits := rfl
@[simp] theorem setPart_far (q : Nat) (x : PartState) : (setPart q x s).far = s.far := rfl
@[simp] theorem setPart_ctxs (q : Nat) (x : PartState) : (setPart q x s).ctxs = s.ctxs := rfl
@[simp] theorem setPart_prtRun (q : Nat) (x : PartState) : (setPart q x s).prtRun = s.prtRun := rfl
@[simp] theorem setPart_hostQs (q : Nat) (x : PartState) : (setPart q x s).hostQs = s.hostQs := rfl
@[simp] theorem setPart_hostTurn (q : Nat) (x : PartState) : (setPart q x s).hostTurn = s.hostTurn := rfl
@[simp] theorem setPart_mgmt (q : Nat) (x : PartState) : (setPart q x s).mgmt = s.mgmt := rfl
@[simp] theorem setPart_power (q : Nat) (x : PartState) : (setPart q x s).power = s.power := rfl
@[simp] theorem setPart_pins (q : Nat) (x : PartState) : (setPart q x s).pins = s.pins := rfl
@[simp] theorem setPart_now (q : Nat) (x : PartState) : (setPart q x s).now = s.now := rfl
@[simp] theorem setPart_posted (q : Nat) (x : PartState) : (setPart q x s).posted = s.posted := rfl
@[simp] theorem setPart_free (q : Nat) (x : PartState) : (setPart q x s).free = s.free := rfl
@[simp] theorem setPart_out (q : Nat) (x : PartState) : (setPart q x s).out = s.out := rfl
@[simp] theorem setPart_pending (q : Nat) (x : PartState) : (setPart q x s).pending = s.pending := rfl

@[simp] theorem setPort_regs (p : Nat) (x : PortState) : (setPort p x s).regs = s.regs := rfl
@[simp] theorem setPort_mem (p : Nat) (x : PortState) : (setPort p x s).mem = s.mem := rfl
@[simp] theorem setPort_poison (p : Nat) (x : PortState) : (setPort p x s).poison = s.poison := rfl
@[simp] theorem setPort_acc (p : Nat) (x : PortState) : (setPort p x s).acc = s.acc := rfl
@[simp] theorem setPort_path (p : Nat) (x : PortState) : (setPort p x s).path = s.path := rfl
@[simp] theorem setPort_signals (p : Nat) (x : PortState) : (setPort p x s).signals = s.signals := rfl
@[simp] theorem setPort_bundles (p : Nat) (x : PortState) : (setPort p x s).bundles = s.bundles := rfl
@[simp] theorem setPort_domains (p : Nat) (x : PortState) : (setPort p x s).domains = s.domains := rfl
@[simp] theorem setPort_tiles (p : Nat) (x : PortState) : (setPort p x s).tiles = s.tiles := rfl
@[simp] theorem setPort_opens (p : Nat) (x : PortState) : (setPort p x s).opens = s.opens := rfl
@[simp] theorem setPort_locals (p : Nat) (x : PortState) : (setPort p x s).locals = s.locals := rfl
@[simp] theorem setPort_dropped (p : Nat) (x : PortState) : (setPort p x s).dropped = s.dropped := rfl
@[simp] theorem setPort_nextTag (p : Nat) (x : PortState) : (setPort p x s).nextTag = s.nextTag := rfl
@[simp] theorem setPort_mcasts (p : Nat) (x : PortState) : (setPort p x s).mcasts = s.mcasts := rfl
@[simp] theorem setPort_rmaps (p : Nat) (x : PortState) : (setPort p x s).rmaps = s.rmaps := rfl
@[simp] theorem setPort_phaseSlots (p : Nat) (x : PortState) : (setPort p x s).phaseSlots = s.phaseSlots := rfl
@[simp] theorem setPort_queues (p : Nat) (x : PortState) : (setPort p x s).queues = s.queues := rfl
@[simp] theorem setPort_turns (p : Nat) (x : PortState) : (setPort p x s).turns = s.turns := rfl
@[simp] theorem setPort_stalled (p : Nat) (x : PortState) : (setPort p x s).stalled = s.stalled := rfl
@[simp] theorem setPort_stagePorts (p : Nat) (x : PortState) : (setPort p x s).stagePorts = s.stagePorts := rfl
@[simp] theorem setPort_versions (p : Nat) (x : PortState) : (setPort p x s).versions = s.versions := rfl
@[simp] theorem setPort_replays (p : Nat) (x : PortState) : (setPort p x s).replays = s.replays := rfl
@[simp] theorem setPort_reds (p : Nat) (x : PortState) : (setPort p x s).reds = s.reds := rfl
@[simp] theorem setPort_runs (p : Nat) (x : PortState) : (setPort p x s).runs = s.runs := rfl
@[simp] theorem setPort_panSlots (p : Nat) (x : PortState) : (setPort p x s).panSlots = s.panSlots := rfl
@[simp] theorem setPort_harvest (p : Nat) (x : PortState) : (setPort p x s).harvest = s.harvest := rfl
@[simp] theorem setPort_harvested (p : Nat) (x : PortState) : (setPort p x s).harvested = s.harvested := rfl
@[simp] theorem setPort_restoring (p : Nat) (x : PortState) : (setPort p x s).restoring = s.restoring := rfl
@[simp] theorem setPort_checks (p : Nat) (x : PortState) : (setPort p x s).checks = s.checks := rfl
@[simp] theorem setPort_swap (p : Nat) (x : PortState) : (setPort p x s).swap = s.swap := rfl
@[simp] theorem setPort_tmErrors (p : Nat) (x : PortState) : (setPort p x s).tmErrors = s.tmErrors := rfl
@[simp] theorem setPort_swapWaits (p : Nat) (x : PortState) : (setPort p x s).swapWaits = s.swapWaits := rfl
@[simp] theorem setPort_far (p : Nat) (x : PortState) : (setPort p x s).far = s.far := rfl
@[simp] theorem setPort_ctxs (p : Nat) (x : PortState) : (setPort p x s).ctxs = s.ctxs := rfl
@[simp] theorem setPort_parts (p : Nat) (x : PortState) : (setPort p x s).parts = s.parts := rfl
@[simp] theorem setPort_prtRun (p : Nat) (x : PortState) : (setPort p x s).prtRun = s.prtRun := rfl
@[simp] theorem setPort_hostQs (p : Nat) (x : PortState) : (setPort p x s).hostQs = s.hostQs := rfl
@[simp] theorem setPort_hostTurn (p : Nat) (x : PortState) : (setPort p x s).hostTurn = s.hostTurn := rfl
@[simp] theorem setPort_mgmt (p : Nat) (x : PortState) : (setPort p x s).mgmt = s.mgmt := rfl
@[simp] theorem setPort_power (p : Nat) (x : PortState) : (setPort p x s).power = s.power := rfl
@[simp] theorem setPort_pins (p : Nat) (x : PortState) : (setPort p x s).pins = s.pins := rfl
@[simp] theorem setPort_now (p : Nat) (x : PortState) : (setPort p x s).now = s.now := rfl
@[simp] theorem setPort_posted (p : Nat) (x : PortState) : (setPort p x s).posted = s.posted := rfl
@[simp] theorem setPort_free (p : Nat) (x : PortState) : (setPort p x s).free = s.free := rfl
@[simp] theorem setPort_out (p : Nat) (x : PortState) : (setPort p x s).out = s.out := rfl
@[simp] theorem setPort_pending (p : Nat) (x : PortState) : (setPort p x s).pending = s.pending := rfl

@[simp] theorem closeReq_regs (t : Nat) : (closeReq t s).regs = s.regs := rfl
@[simp] theorem closeReq_mem (t : Nat) : (closeReq t s).mem = s.mem := rfl
@[simp] theorem closeReq_poison (t : Nat) : (closeReq t s).poison = s.poison := rfl
@[simp] theorem closeReq_acc (t : Nat) : (closeReq t s).acc = s.acc := rfl
@[simp] theorem closeReq_path (t : Nat) : (closeReq t s).path = s.path := rfl
@[simp] theorem closeReq_signals (t : Nat) : (closeReq t s).signals = s.signals := rfl
@[simp] theorem closeReq_bundles (t : Nat) : (closeReq t s).bundles = s.bundles := rfl
@[simp] theorem closeReq_domains (t : Nat) : (closeReq t s).domains = s.domains := rfl
@[simp] theorem closeReq_tiles (t : Nat) : (closeReq t s).tiles = s.tiles := rfl
@[simp] theorem closeReq_ports (t : Nat) : (closeReq t s).ports = s.ports := rfl
@[simp] theorem closeReq_locals (t : Nat) : (closeReq t s).locals = s.locals := rfl
@[simp] theorem closeReq_dropped (t : Nat) : (closeReq t s).dropped = s.dropped := rfl
@[simp] theorem closeReq_nextTag (t : Nat) : (closeReq t s).nextTag = s.nextTag := rfl
@[simp] theorem closeReq_mcasts (t : Nat) : (closeReq t s).mcasts = s.mcasts := rfl
@[simp] theorem closeReq_rmaps (t : Nat) : (closeReq t s).rmaps = s.rmaps := rfl
@[simp] theorem closeReq_phaseSlots (t : Nat) : (closeReq t s).phaseSlots = s.phaseSlots := rfl
@[simp] theorem closeReq_queues (t : Nat) : (closeReq t s).queues = s.queues := rfl
@[simp] theorem closeReq_turns (t : Nat) : (closeReq t s).turns = s.turns := rfl
@[simp] theorem closeReq_stalled (t : Nat) : (closeReq t s).stalled = s.stalled := rfl
@[simp] theorem closeReq_stagePorts (t : Nat) : (closeReq t s).stagePorts = s.stagePorts := rfl
@[simp] theorem closeReq_versions (t : Nat) : (closeReq t s).versions = s.versions := rfl
@[simp] theorem closeReq_replays (t : Nat) : (closeReq t s).replays = s.replays := rfl
@[simp] theorem closeReq_reds (t : Nat) : (closeReq t s).reds = s.reds := rfl
@[simp] theorem closeReq_runs (t : Nat) : (closeReq t s).runs = s.runs := rfl
@[simp] theorem closeReq_panSlots (t : Nat) : (closeReq t s).panSlots = s.panSlots := rfl
@[simp] theorem closeReq_harvest (t : Nat) : (closeReq t s).harvest = s.harvest := rfl
@[simp] theorem closeReq_harvested (t : Nat) : (closeReq t s).harvested = s.harvested := rfl
@[simp] theorem closeReq_restoring (t : Nat) : (closeReq t s).restoring = s.restoring := rfl
@[simp] theorem closeReq_checks (t : Nat) : (closeReq t s).checks = s.checks := rfl
@[simp] theorem closeReq_swap (t : Nat) : (closeReq t s).swap = s.swap := rfl
@[simp] theorem closeReq_tmErrors (t : Nat) : (closeReq t s).tmErrors = s.tmErrors := rfl
@[simp] theorem closeReq_swapWaits (t : Nat) : (closeReq t s).swapWaits = s.swapWaits := rfl
@[simp] theorem closeReq_far (t : Nat) : (closeReq t s).far = s.far := rfl
@[simp] theorem closeReq_ctxs (t : Nat) : (closeReq t s).ctxs = s.ctxs := rfl
@[simp] theorem closeReq_parts (t : Nat) : (closeReq t s).parts = s.parts := rfl
@[simp] theorem closeReq_prtRun (t : Nat) : (closeReq t s).prtRun = s.prtRun := rfl
@[simp] theorem closeReq_hostQs (t : Nat) : (closeReq t s).hostQs = s.hostQs := rfl
@[simp] theorem closeReq_hostTurn (t : Nat) : (closeReq t s).hostTurn = s.hostTurn := rfl
@[simp] theorem closeReq_mgmt (t : Nat) : (closeReq t s).mgmt = s.mgmt := rfl
@[simp] theorem closeReq_power (t : Nat) : (closeReq t s).power = s.power := rfl
@[simp] theorem closeReq_pins (t : Nat) : (closeReq t s).pins = s.pins := rfl
@[simp] theorem closeReq_now (t : Nat) : (closeReq t s).now = s.now := rfl
@[simp] theorem closeReq_posted (t : Nat) : (closeReq t s).posted = s.posted := rfl
@[simp] theorem closeReq_free (t : Nat) : (closeReq t s).free = s.free := rfl
@[simp] theorem closeReq_out (t : Nat) : (closeReq t s).out = s.out := rfl
@[simp] theorem closeReq_pending (t : Nat) : (closeReq t s).pending = s.pending := rfl

@[simp] theorem setRmap_regs (d sl : Nat) (x : RankMap) : (setRmap d sl x s).regs = s.regs := rfl
@[simp] theorem setRmap_mem (d sl : Nat) (x : RankMap) : (setRmap d sl x s).mem = s.mem := rfl
@[simp] theorem setRmap_poison (d sl : Nat) (x : RankMap) : (setRmap d sl x s).poison = s.poison := rfl
@[simp] theorem setRmap_acc (d sl : Nat) (x : RankMap) : (setRmap d sl x s).acc = s.acc := rfl
@[simp] theorem setRmap_path (d sl : Nat) (x : RankMap) : (setRmap d sl x s).path = s.path := rfl
@[simp] theorem setRmap_signals (d sl : Nat) (x : RankMap) : (setRmap d sl x s).signals = s.signals := rfl
@[simp] theorem setRmap_bundles (d sl : Nat) (x : RankMap) : (setRmap d sl x s).bundles = s.bundles := rfl
@[simp] theorem setRmap_domains (d sl : Nat) (x : RankMap) : (setRmap d sl x s).domains = s.domains := rfl
@[simp] theorem setRmap_tiles (d sl : Nat) (x : RankMap) : (setRmap d sl x s).tiles = s.tiles := rfl
@[simp] theorem setRmap_ports (d sl : Nat) (x : RankMap) : (setRmap d sl x s).ports = s.ports := rfl
@[simp] theorem setRmap_opens (d sl : Nat) (x : RankMap) : (setRmap d sl x s).opens = s.opens := rfl
@[simp] theorem setRmap_locals (d sl : Nat) (x : RankMap) : (setRmap d sl x s).locals = s.locals := rfl
@[simp] theorem setRmap_dropped (d sl : Nat) (x : RankMap) : (setRmap d sl x s).dropped = s.dropped := rfl
@[simp] theorem setRmap_nextTag (d sl : Nat) (x : RankMap) : (setRmap d sl x s).nextTag = s.nextTag := rfl
@[simp] theorem setRmap_mcasts (d sl : Nat) (x : RankMap) : (setRmap d sl x s).mcasts = s.mcasts := rfl
@[simp] theorem setRmap_phaseSlots (d sl : Nat) (x : RankMap) : (setRmap d sl x s).phaseSlots = s.phaseSlots := rfl
@[simp] theorem setRmap_queues (d sl : Nat) (x : RankMap) : (setRmap d sl x s).queues = s.queues := rfl
@[simp] theorem setRmap_turns (d sl : Nat) (x : RankMap) : (setRmap d sl x s).turns = s.turns := rfl
@[simp] theorem setRmap_stalled (d sl : Nat) (x : RankMap) : (setRmap d sl x s).stalled = s.stalled := rfl
@[simp] theorem setRmap_stagePorts (d sl : Nat) (x : RankMap) : (setRmap d sl x s).stagePorts = s.stagePorts := rfl
@[simp] theorem setRmap_versions (d sl : Nat) (x : RankMap) : (setRmap d sl x s).versions = s.versions := rfl
@[simp] theorem setRmap_replays (d sl : Nat) (x : RankMap) : (setRmap d sl x s).replays = s.replays := rfl
@[simp] theorem setRmap_reds (d sl : Nat) (x : RankMap) : (setRmap d sl x s).reds = s.reds := rfl
@[simp] theorem setRmap_runs (d sl : Nat) (x : RankMap) : (setRmap d sl x s).runs = s.runs := rfl
@[simp] theorem setRmap_panSlots (d sl : Nat) (x : RankMap) : (setRmap d sl x s).panSlots = s.panSlots := rfl
@[simp] theorem setRmap_harvest (d sl : Nat) (x : RankMap) : (setRmap d sl x s).harvest = s.harvest := rfl
@[simp] theorem setRmap_harvested (d sl : Nat) (x : RankMap) : (setRmap d sl x s).harvested = s.harvested := rfl
@[simp] theorem setRmap_restoring (d sl : Nat) (x : RankMap) : (setRmap d sl x s).restoring = s.restoring := rfl
@[simp] theorem setRmap_checks (d sl : Nat) (x : RankMap) : (setRmap d sl x s).checks = s.checks := rfl
@[simp] theorem setRmap_swap (d sl : Nat) (x : RankMap) : (setRmap d sl x s).swap = s.swap := rfl
@[simp] theorem setRmap_tmErrors (d sl : Nat) (x : RankMap) : (setRmap d sl x s).tmErrors = s.tmErrors := rfl
@[simp] theorem setRmap_swapWaits (d sl : Nat) (x : RankMap) : (setRmap d sl x s).swapWaits = s.swapWaits := rfl
@[simp] theorem setRmap_far (d sl : Nat) (x : RankMap) : (setRmap d sl x s).far = s.far := rfl
@[simp] theorem setRmap_ctxs (d sl : Nat) (x : RankMap) : (setRmap d sl x s).ctxs = s.ctxs := rfl
@[simp] theorem setRmap_parts (d sl : Nat) (x : RankMap) : (setRmap d sl x s).parts = s.parts := rfl
@[simp] theorem setRmap_prtRun (d sl : Nat) (x : RankMap) : (setRmap d sl x s).prtRun = s.prtRun := rfl
@[simp] theorem setRmap_hostQs (d sl : Nat) (x : RankMap) : (setRmap d sl x s).hostQs = s.hostQs := rfl
@[simp] theorem setRmap_hostTurn (d sl : Nat) (x : RankMap) : (setRmap d sl x s).hostTurn = s.hostTurn := rfl
@[simp] theorem setRmap_mgmt (d sl : Nat) (x : RankMap) : (setRmap d sl x s).mgmt = s.mgmt := rfl
@[simp] theorem setRmap_power (d sl : Nat) (x : RankMap) : (setRmap d sl x s).power = s.power := rfl
@[simp] theorem setRmap_pins (d sl : Nat) (x : RankMap) : (setRmap d sl x s).pins = s.pins := rfl
@[simp] theorem setRmap_now (d sl : Nat) (x : RankMap) : (setRmap d sl x s).now = s.now := rfl
@[simp] theorem setRmap_posted (d sl : Nat) (x : RankMap) : (setRmap d sl x s).posted = s.posted := rfl
@[simp] theorem setRmap_free (d sl : Nat) (x : RankMap) : (setRmap d sl x s).free = s.free := rfl
@[simp] theorem setRmap_out (d sl : Nat) (x : RankMap) : (setRmap d sl x s).out = s.out := rfl
@[simp] theorem setRmap_pending (d sl : Nat) (x : RankMap) : (setRmap d sl x s).pending = s.pending := rfl

@[simp] theorem setQueue_regs (q : Nat) (x : StrQueue) : (setQueue q x s).regs = s.regs := rfl
@[simp] theorem setQueue_mem (q : Nat) (x : StrQueue) : (setQueue q x s).mem = s.mem := rfl
@[simp] theorem setQueue_poison (q : Nat) (x : StrQueue) : (setQueue q x s).poison = s.poison := rfl
@[simp] theorem setQueue_acc (q : Nat) (x : StrQueue) : (setQueue q x s).acc = s.acc := rfl
@[simp] theorem setQueue_path (q : Nat) (x : StrQueue) : (setQueue q x s).path = s.path := rfl
@[simp] theorem setQueue_signals (q : Nat) (x : StrQueue) : (setQueue q x s).signals = s.signals := rfl
@[simp] theorem setQueue_bundles (q : Nat) (x : StrQueue) : (setQueue q x s).bundles = s.bundles := rfl
@[simp] theorem setQueue_domains (q : Nat) (x : StrQueue) : (setQueue q x s).domains = s.domains := rfl
@[simp] theorem setQueue_tiles (q : Nat) (x : StrQueue) : (setQueue q x s).tiles = s.tiles := rfl
@[simp] theorem setQueue_ports (q : Nat) (x : StrQueue) : (setQueue q x s).ports = s.ports := rfl
@[simp] theorem setQueue_opens (q : Nat) (x : StrQueue) : (setQueue q x s).opens = s.opens := rfl
@[simp] theorem setQueue_locals (q : Nat) (x : StrQueue) : (setQueue q x s).locals = s.locals := rfl
@[simp] theorem setQueue_dropped (q : Nat) (x : StrQueue) : (setQueue q x s).dropped = s.dropped := rfl
@[simp] theorem setQueue_nextTag (q : Nat) (x : StrQueue) : (setQueue q x s).nextTag = s.nextTag := rfl
@[simp] theorem setQueue_mcasts (q : Nat) (x : StrQueue) : (setQueue q x s).mcasts = s.mcasts := rfl
@[simp] theorem setQueue_rmaps (q : Nat) (x : StrQueue) : (setQueue q x s).rmaps = s.rmaps := rfl
@[simp] theorem setQueue_phaseSlots (q : Nat) (x : StrQueue) : (setQueue q x s).phaseSlots = s.phaseSlots := rfl
@[simp] theorem setQueue_turns (q : Nat) (x : StrQueue) : (setQueue q x s).turns = s.turns := rfl
@[simp] theorem setQueue_stalled (q : Nat) (x : StrQueue) : (setQueue q x s).stalled = s.stalled := rfl
@[simp] theorem setQueue_stagePorts (q : Nat) (x : StrQueue) : (setQueue q x s).stagePorts = s.stagePorts := rfl
@[simp] theorem setQueue_versions (q : Nat) (x : StrQueue) : (setQueue q x s).versions = s.versions := rfl
@[simp] theorem setQueue_replays (q : Nat) (x : StrQueue) : (setQueue q x s).replays = s.replays := rfl
@[simp] theorem setQueue_reds (q : Nat) (x : StrQueue) : (setQueue q x s).reds = s.reds := rfl
@[simp] theorem setQueue_runs (q : Nat) (x : StrQueue) : (setQueue q x s).runs = s.runs := rfl
@[simp] theorem setQueue_panSlots (q : Nat) (x : StrQueue) : (setQueue q x s).panSlots = s.panSlots := rfl
@[simp] theorem setQueue_harvest (q : Nat) (x : StrQueue) : (setQueue q x s).harvest = s.harvest := rfl
@[simp] theorem setQueue_harvested (q : Nat) (x : StrQueue) : (setQueue q x s).harvested = s.harvested := rfl
@[simp] theorem setQueue_restoring (q : Nat) (x : StrQueue) : (setQueue q x s).restoring = s.restoring := rfl
@[simp] theorem setQueue_checks (q : Nat) (x : StrQueue) : (setQueue q x s).checks = s.checks := rfl
@[simp] theorem setQueue_swap (q : Nat) (x : StrQueue) : (setQueue q x s).swap = s.swap := rfl
@[simp] theorem setQueue_tmErrors (q : Nat) (x : StrQueue) : (setQueue q x s).tmErrors = s.tmErrors := rfl
@[simp] theorem setQueue_swapWaits (q : Nat) (x : StrQueue) : (setQueue q x s).swapWaits = s.swapWaits := rfl
@[simp] theorem setQueue_far (q : Nat) (x : StrQueue) : (setQueue q x s).far = s.far := rfl
@[simp] theorem setQueue_ctxs (q : Nat) (x : StrQueue) : (setQueue q x s).ctxs = s.ctxs := rfl
@[simp] theorem setQueue_parts (q : Nat) (x : StrQueue) : (setQueue q x s).parts = s.parts := rfl
@[simp] theorem setQueue_prtRun (q : Nat) (x : StrQueue) : (setQueue q x s).prtRun = s.prtRun := rfl
@[simp] theorem setQueue_hostQs (q : Nat) (x : StrQueue) : (setQueue q x s).hostQs = s.hostQs := rfl
@[simp] theorem setQueue_hostTurn (q : Nat) (x : StrQueue) : (setQueue q x s).hostTurn = s.hostTurn := rfl
@[simp] theorem setQueue_mgmt (q : Nat) (x : StrQueue) : (setQueue q x s).mgmt = s.mgmt := rfl
@[simp] theorem setQueue_power (q : Nat) (x : StrQueue) : (setQueue q x s).power = s.power := rfl
@[simp] theorem setQueue_pins (q : Nat) (x : StrQueue) : (setQueue q x s).pins = s.pins := rfl
@[simp] theorem setQueue_now (q : Nat) (x : StrQueue) : (setQueue q x s).now = s.now := rfl
@[simp] theorem setQueue_posted (q : Nat) (x : StrQueue) : (setQueue q x s).posted = s.posted := rfl
@[simp] theorem setQueue_free (q : Nat) (x : StrQueue) : (setQueue q x s).free = s.free := rfl
@[simp] theorem setQueue_out (q : Nat) (x : StrQueue) : (setQueue q x s).out = s.out := rfl
@[simp] theorem setQueue_pending (q : Nat) (x : StrQueue) : (setQueue q x s).pending = s.pending := rfl

@[simp] theorem setStagePort_regs (p : Nat) (x : StagePort) : (setStagePort p x s).regs = s.regs := rfl
@[simp] theorem setStagePort_mem (p : Nat) (x : StagePort) : (setStagePort p x s).mem = s.mem := rfl
@[simp] theorem setStagePort_poison (p : Nat) (x : StagePort) : (setStagePort p x s).poison = s.poison := rfl
@[simp] theorem setStagePort_acc (p : Nat) (x : StagePort) : (setStagePort p x s).acc = s.acc := rfl
@[simp] theorem setStagePort_path (p : Nat) (x : StagePort) : (setStagePort p x s).path = s.path := rfl
@[simp] theorem setStagePort_signals (p : Nat) (x : StagePort) : (setStagePort p x s).signals = s.signals := rfl
@[simp] theorem setStagePort_bundles (p : Nat) (x : StagePort) : (setStagePort p x s).bundles = s.bundles := rfl
@[simp] theorem setStagePort_domains (p : Nat) (x : StagePort) : (setStagePort p x s).domains = s.domains := rfl
@[simp] theorem setStagePort_tiles (p : Nat) (x : StagePort) : (setStagePort p x s).tiles = s.tiles := rfl
@[simp] theorem setStagePort_ports (p : Nat) (x : StagePort) : (setStagePort p x s).ports = s.ports := rfl
@[simp] theorem setStagePort_opens (p : Nat) (x : StagePort) : (setStagePort p x s).opens = s.opens := rfl
@[simp] theorem setStagePort_locals (p : Nat) (x : StagePort) : (setStagePort p x s).locals = s.locals := rfl
@[simp] theorem setStagePort_dropped (p : Nat) (x : StagePort) : (setStagePort p x s).dropped = s.dropped := rfl
@[simp] theorem setStagePort_nextTag (p : Nat) (x : StagePort) : (setStagePort p x s).nextTag = s.nextTag := rfl
@[simp] theorem setStagePort_mcasts (p : Nat) (x : StagePort) : (setStagePort p x s).mcasts = s.mcasts := rfl
@[simp] theorem setStagePort_rmaps (p : Nat) (x : StagePort) : (setStagePort p x s).rmaps = s.rmaps := rfl
@[simp] theorem setStagePort_phaseSlots (p : Nat) (x : StagePort) : (setStagePort p x s).phaseSlots = s.phaseSlots := rfl
@[simp] theorem setStagePort_queues (p : Nat) (x : StagePort) : (setStagePort p x s).queues = s.queues := rfl
@[simp] theorem setStagePort_turns (p : Nat) (x : StagePort) : (setStagePort p x s).turns = s.turns := rfl
@[simp] theorem setStagePort_stalled (p : Nat) (x : StagePort) : (setStagePort p x s).stalled = s.stalled := rfl
@[simp] theorem setStagePort_versions (p : Nat) (x : StagePort) : (setStagePort p x s).versions = s.versions := rfl
@[simp] theorem setStagePort_replays (p : Nat) (x : StagePort) : (setStagePort p x s).replays = s.replays := rfl
@[simp] theorem setStagePort_reds (p : Nat) (x : StagePort) : (setStagePort p x s).reds = s.reds := rfl
@[simp] theorem setStagePort_runs (p : Nat) (x : StagePort) : (setStagePort p x s).runs = s.runs := rfl
@[simp] theorem setStagePort_panSlots (p : Nat) (x : StagePort) : (setStagePort p x s).panSlots = s.panSlots := rfl
@[simp] theorem setStagePort_harvest (p : Nat) (x : StagePort) : (setStagePort p x s).harvest = s.harvest := rfl
@[simp] theorem setStagePort_harvested (p : Nat) (x : StagePort) : (setStagePort p x s).harvested = s.harvested := rfl
@[simp] theorem setStagePort_restoring (p : Nat) (x : StagePort) : (setStagePort p x s).restoring = s.restoring := rfl
@[simp] theorem setStagePort_checks (p : Nat) (x : StagePort) : (setStagePort p x s).checks = s.checks := rfl
@[simp] theorem setStagePort_swap (p : Nat) (x : StagePort) : (setStagePort p x s).swap = s.swap := rfl
@[simp] theorem setStagePort_tmErrors (p : Nat) (x : StagePort) : (setStagePort p x s).tmErrors = s.tmErrors := rfl
@[simp] theorem setStagePort_swapWaits (p : Nat) (x : StagePort) : (setStagePort p x s).swapWaits = s.swapWaits := rfl
@[simp] theorem setStagePort_far (p : Nat) (x : StagePort) : (setStagePort p x s).far = s.far := rfl
@[simp] theorem setStagePort_ctxs (p : Nat) (x : StagePort) : (setStagePort p x s).ctxs = s.ctxs := rfl
@[simp] theorem setStagePort_parts (p : Nat) (x : StagePort) : (setStagePort p x s).parts = s.parts := rfl
@[simp] theorem setStagePort_prtRun (p : Nat) (x : StagePort) : (setStagePort p x s).prtRun = s.prtRun := rfl
@[simp] theorem setStagePort_hostQs (p : Nat) (x : StagePort) : (setStagePort p x s).hostQs = s.hostQs := rfl
@[simp] theorem setStagePort_hostTurn (p : Nat) (x : StagePort) : (setStagePort p x s).hostTurn = s.hostTurn := rfl
@[simp] theorem setStagePort_mgmt (p : Nat) (x : StagePort) : (setStagePort p x s).mgmt = s.mgmt := rfl
@[simp] theorem setStagePort_power (p : Nat) (x : StagePort) : (setStagePort p x s).power = s.power := rfl
@[simp] theorem setStagePort_pins (p : Nat) (x : StagePort) : (setStagePort p x s).pins = s.pins := rfl
@[simp] theorem setStagePort_now (p : Nat) (x : StagePort) : (setStagePort p x s).now = s.now := rfl
@[simp] theorem setStagePort_posted (p : Nat) (x : StagePort) : (setStagePort p x s).posted = s.posted := rfl
@[simp] theorem setStagePort_free (p : Nat) (x : StagePort) : (setStagePort p x s).free = s.free := rfl
@[simp] theorem setStagePort_out (p : Nat) (x : StagePort) : (setStagePort p x s).out = s.out := rfl
@[simp] theorem setStagePort_pending (p : Nat) (x : StagePort) : (setStagePort p x s).pending = s.pending := rfl

@[simp] theorem setVersion_regs (l v : Nat) (x : Version) : (setVersion l v x s).regs = s.regs := rfl
@[simp] theorem setVersion_mem (l v : Nat) (x : Version) : (setVersion l v x s).mem = s.mem := rfl
@[simp] theorem setVersion_poison (l v : Nat) (x : Version) : (setVersion l v x s).poison = s.poison := rfl
@[simp] theorem setVersion_acc (l v : Nat) (x : Version) : (setVersion l v x s).acc = s.acc := rfl
@[simp] theorem setVersion_path (l v : Nat) (x : Version) : (setVersion l v x s).path = s.path := rfl
@[simp] theorem setVersion_signals (l v : Nat) (x : Version) : (setVersion l v x s).signals = s.signals := rfl
@[simp] theorem setVersion_bundles (l v : Nat) (x : Version) : (setVersion l v x s).bundles = s.bundles := rfl
@[simp] theorem setVersion_domains (l v : Nat) (x : Version) : (setVersion l v x s).domains = s.domains := rfl
@[simp] theorem setVersion_tiles (l v : Nat) (x : Version) : (setVersion l v x s).tiles = s.tiles := rfl
@[simp] theorem setVersion_ports (l v : Nat) (x : Version) : (setVersion l v x s).ports = s.ports := rfl
@[simp] theorem setVersion_opens (l v : Nat) (x : Version) : (setVersion l v x s).opens = s.opens := rfl
@[simp] theorem setVersion_locals (l v : Nat) (x : Version) : (setVersion l v x s).locals = s.locals := rfl
@[simp] theorem setVersion_dropped (l v : Nat) (x : Version) : (setVersion l v x s).dropped = s.dropped := rfl
@[simp] theorem setVersion_nextTag (l v : Nat) (x : Version) : (setVersion l v x s).nextTag = s.nextTag := rfl
@[simp] theorem setVersion_mcasts (l v : Nat) (x : Version) : (setVersion l v x s).mcasts = s.mcasts := rfl
@[simp] theorem setVersion_rmaps (l v : Nat) (x : Version) : (setVersion l v x s).rmaps = s.rmaps := rfl
@[simp] theorem setVersion_phaseSlots (l v : Nat) (x : Version) : (setVersion l v x s).phaseSlots = s.phaseSlots := rfl
@[simp] theorem setVersion_queues (l v : Nat) (x : Version) : (setVersion l v x s).queues = s.queues := rfl
@[simp] theorem setVersion_turns (l v : Nat) (x : Version) : (setVersion l v x s).turns = s.turns := rfl
@[simp] theorem setVersion_stalled (l v : Nat) (x : Version) : (setVersion l v x s).stalled = s.stalled := rfl
@[simp] theorem setVersion_stagePorts (l v : Nat) (x : Version) : (setVersion l v x s).stagePorts = s.stagePorts := rfl
@[simp] theorem setVersion_replays (l v : Nat) (x : Version) : (setVersion l v x s).replays = s.replays := rfl
@[simp] theorem setVersion_reds (l v : Nat) (x : Version) : (setVersion l v x s).reds = s.reds := rfl
@[simp] theorem setVersion_runs (l v : Nat) (x : Version) : (setVersion l v x s).runs = s.runs := rfl
@[simp] theorem setVersion_panSlots (l v : Nat) (x : Version) : (setVersion l v x s).panSlots = s.panSlots := rfl
@[simp] theorem setVersion_harvest (l v : Nat) (x : Version) : (setVersion l v x s).harvest = s.harvest := rfl
@[simp] theorem setVersion_harvested (l v : Nat) (x : Version) : (setVersion l v x s).harvested = s.harvested := rfl
@[simp] theorem setVersion_restoring (l v : Nat) (x : Version) : (setVersion l v x s).restoring = s.restoring := rfl
@[simp] theorem setVersion_checks (l v : Nat) (x : Version) : (setVersion l v x s).checks = s.checks := rfl
@[simp] theorem setVersion_swap (l v : Nat) (x : Version) : (setVersion l v x s).swap = s.swap := rfl
@[simp] theorem setVersion_tmErrors (l v : Nat) (x : Version) : (setVersion l v x s).tmErrors = s.tmErrors := rfl
@[simp] theorem setVersion_swapWaits (l v : Nat) (x : Version) : (setVersion l v x s).swapWaits = s.swapWaits := rfl
@[simp] theorem setVersion_far (l v : Nat) (x : Version) : (setVersion l v x s).far = s.far := rfl
@[simp] theorem setVersion_ctxs (l v : Nat) (x : Version) : (setVersion l v x s).ctxs = s.ctxs := rfl
@[simp] theorem setVersion_parts (l v : Nat) (x : Version) : (setVersion l v x s).parts = s.parts := rfl
@[simp] theorem setVersion_prtRun (l v : Nat) (x : Version) : (setVersion l v x s).prtRun = s.prtRun := rfl
@[simp] theorem setVersion_hostQs (l v : Nat) (x : Version) : (setVersion l v x s).hostQs = s.hostQs := rfl
@[simp] theorem setVersion_hostTurn (l v : Nat) (x : Version) : (setVersion l v x s).hostTurn = s.hostTurn := rfl
@[simp] theorem setVersion_mgmt (l v : Nat) (x : Version) : (setVersion l v x s).mgmt = s.mgmt := rfl
@[simp] theorem setVersion_power (l v : Nat) (x : Version) : (setVersion l v x s).power = s.power := rfl
@[simp] theorem setVersion_pins (l v : Nat) (x : Version) : (setVersion l v x s).pins = s.pins := rfl
@[simp] theorem setVersion_now (l v : Nat) (x : Version) : (setVersion l v x s).now = s.now := rfl
@[simp] theorem setVersion_posted (l v : Nat) (x : Version) : (setVersion l v x s).posted = s.posted := rfl
@[simp] theorem setVersion_free (l v : Nat) (x : Version) : (setVersion l v x s).free = s.free := rfl
@[simp] theorem setVersion_out (l v : Nat) (x : Version) : (setVersion l v x s).out = s.out := rfl
@[simp] theorem setVersion_pending (l v : Nat) (x : Version) : (setVersion l v x s).pending = s.pending := rfl

@[simp] theorem setReplay_regs (d : Nat) (x : ReplayDom) : (setReplay d x s).regs = s.regs := rfl
@[simp] theorem setReplay_mem (d : Nat) (x : ReplayDom) : (setReplay d x s).mem = s.mem := rfl
@[simp] theorem setReplay_poison (d : Nat) (x : ReplayDom) : (setReplay d x s).poison = s.poison := rfl
@[simp] theorem setReplay_acc (d : Nat) (x : ReplayDom) : (setReplay d x s).acc = s.acc := rfl
@[simp] theorem setReplay_path (d : Nat) (x : ReplayDom) : (setReplay d x s).path = s.path := rfl
@[simp] theorem setReplay_signals (d : Nat) (x : ReplayDom) : (setReplay d x s).signals = s.signals := rfl
@[simp] theorem setReplay_bundles (d : Nat) (x : ReplayDom) : (setReplay d x s).bundles = s.bundles := rfl
@[simp] theorem setReplay_domains (d : Nat) (x : ReplayDom) : (setReplay d x s).domains = s.domains := rfl
@[simp] theorem setReplay_tiles (d : Nat) (x : ReplayDom) : (setReplay d x s).tiles = s.tiles := rfl
@[simp] theorem setReplay_ports (d : Nat) (x : ReplayDom) : (setReplay d x s).ports = s.ports := rfl
@[simp] theorem setReplay_opens (d : Nat) (x : ReplayDom) : (setReplay d x s).opens = s.opens := rfl
@[simp] theorem setReplay_locals (d : Nat) (x : ReplayDom) : (setReplay d x s).locals = s.locals := rfl
@[simp] theorem setReplay_dropped (d : Nat) (x : ReplayDom) : (setReplay d x s).dropped = s.dropped := rfl
@[simp] theorem setReplay_nextTag (d : Nat) (x : ReplayDom) : (setReplay d x s).nextTag = s.nextTag := rfl
@[simp] theorem setReplay_mcasts (d : Nat) (x : ReplayDom) : (setReplay d x s).mcasts = s.mcasts := rfl
@[simp] theorem setReplay_rmaps (d : Nat) (x : ReplayDom) : (setReplay d x s).rmaps = s.rmaps := rfl
@[simp] theorem setReplay_phaseSlots (d : Nat) (x : ReplayDom) : (setReplay d x s).phaseSlots = s.phaseSlots := rfl
@[simp] theorem setReplay_queues (d : Nat) (x : ReplayDom) : (setReplay d x s).queues = s.queues := rfl
@[simp] theorem setReplay_turns (d : Nat) (x : ReplayDom) : (setReplay d x s).turns = s.turns := rfl
@[simp] theorem setReplay_stalled (d : Nat) (x : ReplayDom) : (setReplay d x s).stalled = s.stalled := rfl
@[simp] theorem setReplay_stagePorts (d : Nat) (x : ReplayDom) : (setReplay d x s).stagePorts = s.stagePorts := rfl
@[simp] theorem setReplay_versions (d : Nat) (x : ReplayDom) : (setReplay d x s).versions = s.versions := rfl
@[simp] theorem setReplay_reds (d : Nat) (x : ReplayDom) : (setReplay d x s).reds = s.reds := rfl
@[simp] theorem setReplay_runs (d : Nat) (x : ReplayDom) : (setReplay d x s).runs = s.runs := rfl
@[simp] theorem setReplay_panSlots (d : Nat) (x : ReplayDom) : (setReplay d x s).panSlots = s.panSlots := rfl
@[simp] theorem setReplay_harvest (d : Nat) (x : ReplayDom) : (setReplay d x s).harvest = s.harvest := rfl
@[simp] theorem setReplay_harvested (d : Nat) (x : ReplayDom) : (setReplay d x s).harvested = s.harvested := rfl
@[simp] theorem setReplay_restoring (d : Nat) (x : ReplayDom) : (setReplay d x s).restoring = s.restoring := rfl
@[simp] theorem setReplay_checks (d : Nat) (x : ReplayDom) : (setReplay d x s).checks = s.checks := rfl
@[simp] theorem setReplay_swap (d : Nat) (x : ReplayDom) : (setReplay d x s).swap = s.swap := rfl
@[simp] theorem setReplay_tmErrors (d : Nat) (x : ReplayDom) : (setReplay d x s).tmErrors = s.tmErrors := rfl
@[simp] theorem setReplay_swapWaits (d : Nat) (x : ReplayDom) : (setReplay d x s).swapWaits = s.swapWaits := rfl
@[simp] theorem setReplay_far (d : Nat) (x : ReplayDom) : (setReplay d x s).far = s.far := rfl
@[simp] theorem setReplay_ctxs (d : Nat) (x : ReplayDom) : (setReplay d x s).ctxs = s.ctxs := rfl
@[simp] theorem setReplay_parts (d : Nat) (x : ReplayDom) : (setReplay d x s).parts = s.parts := rfl
@[simp] theorem setReplay_prtRun (d : Nat) (x : ReplayDom) : (setReplay d x s).prtRun = s.prtRun := rfl
@[simp] theorem setReplay_hostQs (d : Nat) (x : ReplayDom) : (setReplay d x s).hostQs = s.hostQs := rfl
@[simp] theorem setReplay_hostTurn (d : Nat) (x : ReplayDom) : (setReplay d x s).hostTurn = s.hostTurn := rfl
@[simp] theorem setReplay_mgmt (d : Nat) (x : ReplayDom) : (setReplay d x s).mgmt = s.mgmt := rfl
@[simp] theorem setReplay_power (d : Nat) (x : ReplayDom) : (setReplay d x s).power = s.power := rfl
@[simp] theorem setReplay_pins (d : Nat) (x : ReplayDom) : (setReplay d x s).pins = s.pins := rfl
@[simp] theorem setReplay_now (d : Nat) (x : ReplayDom) : (setReplay d x s).now = s.now := rfl
@[simp] theorem setReplay_posted (d : Nat) (x : ReplayDom) : (setReplay d x s).posted = s.posted := rfl
@[simp] theorem setReplay_free (d : Nat) (x : ReplayDom) : (setReplay d x s).free = s.free := rfl
@[simp] theorem setReplay_out (d : Nat) (x : ReplayDom) : (setReplay d x s).out = s.out := rfl
@[simp] theorem setReplay_pending (d : Nat) (x : ReplayDom) : (setReplay d x s).pending = s.pending := rfl

@[simp] theorem setRed_regs (l : Nat) (x : RedLayer) : (setRed l x s).regs = s.regs := rfl
@[simp] theorem setRed_mem (l : Nat) (x : RedLayer) : (setRed l x s).mem = s.mem := rfl
@[simp] theorem setRed_poison (l : Nat) (x : RedLayer) : (setRed l x s).poison = s.poison := rfl
@[simp] theorem setRed_acc (l : Nat) (x : RedLayer) : (setRed l x s).acc = s.acc := rfl
@[simp] theorem setRed_path (l : Nat) (x : RedLayer) : (setRed l x s).path = s.path := rfl
@[simp] theorem setRed_signals (l : Nat) (x : RedLayer) : (setRed l x s).signals = s.signals := rfl
@[simp] theorem setRed_bundles (l : Nat) (x : RedLayer) : (setRed l x s).bundles = s.bundles := rfl
@[simp] theorem setRed_domains (l : Nat) (x : RedLayer) : (setRed l x s).domains = s.domains := rfl
@[simp] theorem setRed_tiles (l : Nat) (x : RedLayer) : (setRed l x s).tiles = s.tiles := rfl
@[simp] theorem setRed_ports (l : Nat) (x : RedLayer) : (setRed l x s).ports = s.ports := rfl
@[simp] theorem setRed_opens (l : Nat) (x : RedLayer) : (setRed l x s).opens = s.opens := rfl
@[simp] theorem setRed_locals (l : Nat) (x : RedLayer) : (setRed l x s).locals = s.locals := rfl
@[simp] theorem setRed_dropped (l : Nat) (x : RedLayer) : (setRed l x s).dropped = s.dropped := rfl
@[simp] theorem setRed_nextTag (l : Nat) (x : RedLayer) : (setRed l x s).nextTag = s.nextTag := rfl
@[simp] theorem setRed_mcasts (l : Nat) (x : RedLayer) : (setRed l x s).mcasts = s.mcasts := rfl
@[simp] theorem setRed_rmaps (l : Nat) (x : RedLayer) : (setRed l x s).rmaps = s.rmaps := rfl
@[simp] theorem setRed_phaseSlots (l : Nat) (x : RedLayer) : (setRed l x s).phaseSlots = s.phaseSlots := rfl
@[simp] theorem setRed_queues (l : Nat) (x : RedLayer) : (setRed l x s).queues = s.queues := rfl
@[simp] theorem setRed_turns (l : Nat) (x : RedLayer) : (setRed l x s).turns = s.turns := rfl
@[simp] theorem setRed_stalled (l : Nat) (x : RedLayer) : (setRed l x s).stalled = s.stalled := rfl
@[simp] theorem setRed_stagePorts (l : Nat) (x : RedLayer) : (setRed l x s).stagePorts = s.stagePorts := rfl
@[simp] theorem setRed_versions (l : Nat) (x : RedLayer) : (setRed l x s).versions = s.versions := rfl
@[simp] theorem setRed_replays (l : Nat) (x : RedLayer) : (setRed l x s).replays = s.replays := rfl
@[simp] theorem setRed_runs (l : Nat) (x : RedLayer) : (setRed l x s).runs = s.runs := rfl
@[simp] theorem setRed_panSlots (l : Nat) (x : RedLayer) : (setRed l x s).panSlots = s.panSlots := rfl
@[simp] theorem setRed_harvest (l : Nat) (x : RedLayer) : (setRed l x s).harvest = s.harvest := rfl
@[simp] theorem setRed_harvested (l : Nat) (x : RedLayer) : (setRed l x s).harvested = s.harvested := rfl
@[simp] theorem setRed_restoring (l : Nat) (x : RedLayer) : (setRed l x s).restoring = s.restoring := rfl
@[simp] theorem setRed_checks (l : Nat) (x : RedLayer) : (setRed l x s).checks = s.checks := rfl
@[simp] theorem setRed_swap (l : Nat) (x : RedLayer) : (setRed l x s).swap = s.swap := rfl
@[simp] theorem setRed_tmErrors (l : Nat) (x : RedLayer) : (setRed l x s).tmErrors = s.tmErrors := rfl
@[simp] theorem setRed_swapWaits (l : Nat) (x : RedLayer) : (setRed l x s).swapWaits = s.swapWaits := rfl
@[simp] theorem setRed_far (l : Nat) (x : RedLayer) : (setRed l x s).far = s.far := rfl
@[simp] theorem setRed_ctxs (l : Nat) (x : RedLayer) : (setRed l x s).ctxs = s.ctxs := rfl
@[simp] theorem setRed_parts (l : Nat) (x : RedLayer) : (setRed l x s).parts = s.parts := rfl
@[simp] theorem setRed_prtRun (l : Nat) (x : RedLayer) : (setRed l x s).prtRun = s.prtRun := rfl
@[simp] theorem setRed_hostQs (l : Nat) (x : RedLayer) : (setRed l x s).hostQs = s.hostQs := rfl
@[simp] theorem setRed_hostTurn (l : Nat) (x : RedLayer) : (setRed l x s).hostTurn = s.hostTurn := rfl
@[simp] theorem setRed_mgmt (l : Nat) (x : RedLayer) : (setRed l x s).mgmt = s.mgmt := rfl
@[simp] theorem setRed_power (l : Nat) (x : RedLayer) : (setRed l x s).power = s.power := rfl
@[simp] theorem setRed_pins (l : Nat) (x : RedLayer) : (setRed l x s).pins = s.pins := rfl
@[simp] theorem setRed_now (l : Nat) (x : RedLayer) : (setRed l x s).now = s.now := rfl
@[simp] theorem setRed_posted (l : Nat) (x : RedLayer) : (setRed l x s).posted = s.posted := rfl
@[simp] theorem setRed_free (l : Nat) (x : RedLayer) : (setRed l x s).free = s.free := rfl
@[simp] theorem setRed_out (l : Nat) (x : RedLayer) : (setRed l x s).out = s.out := rfl
@[simp] theorem setRed_pending (l : Nat) (x : RedLayer) : (setRed l x s).pending = s.pending := rfl

@[simp] theorem setUpd_regs (k : Nat) (x : Option UpdRun) : (setUpd k x s).regs = s.regs := rfl
@[simp] theorem setUpd_mem (k : Nat) (x : Option UpdRun) : (setUpd k x s).mem = s.mem := rfl
@[simp] theorem setUpd_poison (k : Nat) (x : Option UpdRun) : (setUpd k x s).poison = s.poison := rfl
@[simp] theorem setUpd_acc (k : Nat) (x : Option UpdRun) : (setUpd k x s).acc = s.acc := rfl
@[simp] theorem setUpd_path (k : Nat) (x : Option UpdRun) : (setUpd k x s).path = s.path := rfl
@[simp] theorem setUpd_signals (k : Nat) (x : Option UpdRun) : (setUpd k x s).signals = s.signals := rfl
@[simp] theorem setUpd_bundles (k : Nat) (x : Option UpdRun) : (setUpd k x s).bundles = s.bundles := rfl
@[simp] theorem setUpd_domains (k : Nat) (x : Option UpdRun) : (setUpd k x s).domains = s.domains := rfl
@[simp] theorem setUpd_tiles (k : Nat) (x : Option UpdRun) : (setUpd k x s).tiles = s.tiles := rfl
@[simp] theorem setUpd_ports (k : Nat) (x : Option UpdRun) : (setUpd k x s).ports = s.ports := rfl
@[simp] theorem setUpd_opens (k : Nat) (x : Option UpdRun) : (setUpd k x s).opens = s.opens := rfl
@[simp] theorem setUpd_locals (k : Nat) (x : Option UpdRun) : (setUpd k x s).locals = s.locals := rfl
@[simp] theorem setUpd_dropped (k : Nat) (x : Option UpdRun) : (setUpd k x s).dropped = s.dropped := rfl
@[simp] theorem setUpd_nextTag (k : Nat) (x : Option UpdRun) : (setUpd k x s).nextTag = s.nextTag := rfl
@[simp] theorem setUpd_mcasts (k : Nat) (x : Option UpdRun) : (setUpd k x s).mcasts = s.mcasts := rfl
@[simp] theorem setUpd_rmaps (k : Nat) (x : Option UpdRun) : (setUpd k x s).rmaps = s.rmaps := rfl
@[simp] theorem setUpd_phaseSlots (k : Nat) (x : Option UpdRun) : (setUpd k x s).phaseSlots = s.phaseSlots := rfl
@[simp] theorem setUpd_queues (k : Nat) (x : Option UpdRun) : (setUpd k x s).queues = s.queues := rfl
@[simp] theorem setUpd_turns (k : Nat) (x : Option UpdRun) : (setUpd k x s).turns = s.turns := rfl
@[simp] theorem setUpd_stalled (k : Nat) (x : Option UpdRun) : (setUpd k x s).stalled = s.stalled := rfl
@[simp] theorem setUpd_stagePorts (k : Nat) (x : Option UpdRun) : (setUpd k x s).stagePorts = s.stagePorts := rfl
@[simp] theorem setUpd_versions (k : Nat) (x : Option UpdRun) : (setUpd k x s).versions = s.versions := rfl
@[simp] theorem setUpd_replays (k : Nat) (x : Option UpdRun) : (setUpd k x s).replays = s.replays := rfl
@[simp] theorem setUpd_reds (k : Nat) (x : Option UpdRun) : (setUpd k x s).reds = s.reds := rfl
@[simp] theorem setUpd_panSlots (k : Nat) (x : Option UpdRun) : (setUpd k x s).panSlots = s.panSlots := rfl
@[simp] theorem setUpd_harvest (k : Nat) (x : Option UpdRun) : (setUpd k x s).harvest = s.harvest := rfl
@[simp] theorem setUpd_harvested (k : Nat) (x : Option UpdRun) : (setUpd k x s).harvested = s.harvested := rfl
@[simp] theorem setUpd_restoring (k : Nat) (x : Option UpdRun) : (setUpd k x s).restoring = s.restoring := rfl
@[simp] theorem setUpd_checks (k : Nat) (x : Option UpdRun) : (setUpd k x s).checks = s.checks := rfl
@[simp] theorem setUpd_swap (k : Nat) (x : Option UpdRun) : (setUpd k x s).swap = s.swap := rfl
@[simp] theorem setUpd_tmErrors (k : Nat) (x : Option UpdRun) : (setUpd k x s).tmErrors = s.tmErrors := rfl
@[simp] theorem setUpd_swapWaits (k : Nat) (x : Option UpdRun) : (setUpd k x s).swapWaits = s.swapWaits := rfl
@[simp] theorem setUpd_far (k : Nat) (x : Option UpdRun) : (setUpd k x s).far = s.far := rfl
@[simp] theorem setUpd_ctxs (k : Nat) (x : Option UpdRun) : (setUpd k x s).ctxs = s.ctxs := rfl
@[simp] theorem setUpd_parts (k : Nat) (x : Option UpdRun) : (setUpd k x s).parts = s.parts := rfl
@[simp] theorem setUpd_prtRun (k : Nat) (x : Option UpdRun) : (setUpd k x s).prtRun = s.prtRun := rfl
@[simp] theorem setUpd_hostQs (k : Nat) (x : Option UpdRun) : (setUpd k x s).hostQs = s.hostQs := rfl
@[simp] theorem setUpd_hostTurn (k : Nat) (x : Option UpdRun) : (setUpd k x s).hostTurn = s.hostTurn := rfl
@[simp] theorem setUpd_mgmt (k : Nat) (x : Option UpdRun) : (setUpd k x s).mgmt = s.mgmt := rfl
@[simp] theorem setUpd_power (k : Nat) (x : Option UpdRun) : (setUpd k x s).power = s.power := rfl
@[simp] theorem setUpd_pins (k : Nat) (x : Option UpdRun) : (setUpd k x s).pins = s.pins := rfl
@[simp] theorem setUpd_now (k : Nat) (x : Option UpdRun) : (setUpd k x s).now = s.now := rfl
@[simp] theorem setUpd_posted (k : Nat) (x : Option UpdRun) : (setUpd k x s).posted = s.posted := rfl
@[simp] theorem setUpd_free (k : Nat) (x : Option UpdRun) : (setUpd k x s).free = s.free := rfl
@[simp] theorem setUpd_out (k : Nat) (x : Option UpdRun) : (setUpd k x s).out = s.out := rfl
@[simp] theorem setUpd_pending (k : Nat) (x : Option UpdRun) : (setUpd k x s).pending = s.pending := rfl

@[simp] theorem setPanSlot_regs (n : Nat) (x : PanSlot) : (setPanSlot n x s).regs = s.regs := rfl
@[simp] theorem setPanSlot_mem (n : Nat) (x : PanSlot) : (setPanSlot n x s).mem = s.mem := rfl
@[simp] theorem setPanSlot_poison (n : Nat) (x : PanSlot) : (setPanSlot n x s).poison = s.poison := rfl
@[simp] theorem setPanSlot_acc (n : Nat) (x : PanSlot) : (setPanSlot n x s).acc = s.acc := rfl
@[simp] theorem setPanSlot_path (n : Nat) (x : PanSlot) : (setPanSlot n x s).path = s.path := rfl
@[simp] theorem setPanSlot_signals (n : Nat) (x : PanSlot) : (setPanSlot n x s).signals = s.signals := rfl
@[simp] theorem setPanSlot_bundles (n : Nat) (x : PanSlot) : (setPanSlot n x s).bundles = s.bundles := rfl
@[simp] theorem setPanSlot_domains (n : Nat) (x : PanSlot) : (setPanSlot n x s).domains = s.domains := rfl
@[simp] theorem setPanSlot_tiles (n : Nat) (x : PanSlot) : (setPanSlot n x s).tiles = s.tiles := rfl
@[simp] theorem setPanSlot_ports (n : Nat) (x : PanSlot) : (setPanSlot n x s).ports = s.ports := rfl
@[simp] theorem setPanSlot_opens (n : Nat) (x : PanSlot) : (setPanSlot n x s).opens = s.opens := rfl
@[simp] theorem setPanSlot_locals (n : Nat) (x : PanSlot) : (setPanSlot n x s).locals = s.locals := rfl
@[simp] theorem setPanSlot_dropped (n : Nat) (x : PanSlot) : (setPanSlot n x s).dropped = s.dropped := rfl
@[simp] theorem setPanSlot_nextTag (n : Nat) (x : PanSlot) : (setPanSlot n x s).nextTag = s.nextTag := rfl
@[simp] theorem setPanSlot_mcasts (n : Nat) (x : PanSlot) : (setPanSlot n x s).mcasts = s.mcasts := rfl
@[simp] theorem setPanSlot_rmaps (n : Nat) (x : PanSlot) : (setPanSlot n x s).rmaps = s.rmaps := rfl
@[simp] theorem setPanSlot_phaseSlots (n : Nat) (x : PanSlot) : (setPanSlot n x s).phaseSlots = s.phaseSlots := rfl
@[simp] theorem setPanSlot_queues (n : Nat) (x : PanSlot) : (setPanSlot n x s).queues = s.queues := rfl
@[simp] theorem setPanSlot_turns (n : Nat) (x : PanSlot) : (setPanSlot n x s).turns = s.turns := rfl
@[simp] theorem setPanSlot_stalled (n : Nat) (x : PanSlot) : (setPanSlot n x s).stalled = s.stalled := rfl
@[simp] theorem setPanSlot_stagePorts (n : Nat) (x : PanSlot) : (setPanSlot n x s).stagePorts = s.stagePorts := rfl
@[simp] theorem setPanSlot_versions (n : Nat) (x : PanSlot) : (setPanSlot n x s).versions = s.versions := rfl
@[simp] theorem setPanSlot_replays (n : Nat) (x : PanSlot) : (setPanSlot n x s).replays = s.replays := rfl
@[simp] theorem setPanSlot_reds (n : Nat) (x : PanSlot) : (setPanSlot n x s).reds = s.reds := rfl
@[simp] theorem setPanSlot_runs (n : Nat) (x : PanSlot) : (setPanSlot n x s).runs = s.runs := rfl
@[simp] theorem setPanSlot_harvest (n : Nat) (x : PanSlot) : (setPanSlot n x s).harvest = s.harvest := rfl
@[simp] theorem setPanSlot_harvested (n : Nat) (x : PanSlot) : (setPanSlot n x s).harvested = s.harvested := rfl
@[simp] theorem setPanSlot_restoring (n : Nat) (x : PanSlot) : (setPanSlot n x s).restoring = s.restoring := rfl
@[simp] theorem setPanSlot_checks (n : Nat) (x : PanSlot) : (setPanSlot n x s).checks = s.checks := rfl
@[simp] theorem setPanSlot_swap (n : Nat) (x : PanSlot) : (setPanSlot n x s).swap = s.swap := rfl
@[simp] theorem setPanSlot_tmErrors (n : Nat) (x : PanSlot) : (setPanSlot n x s).tmErrors = s.tmErrors := rfl
@[simp] theorem setPanSlot_swapWaits (n : Nat) (x : PanSlot) : (setPanSlot n x s).swapWaits = s.swapWaits := rfl
@[simp] theorem setPanSlot_far (n : Nat) (x : PanSlot) : (setPanSlot n x s).far = s.far := rfl
@[simp] theorem setPanSlot_ctxs (n : Nat) (x : PanSlot) : (setPanSlot n x s).ctxs = s.ctxs := rfl
@[simp] theorem setPanSlot_parts (n : Nat) (x : PanSlot) : (setPanSlot n x s).parts = s.parts := rfl
@[simp] theorem setPanSlot_prtRun (n : Nat) (x : PanSlot) : (setPanSlot n x s).prtRun = s.prtRun := rfl
@[simp] theorem setPanSlot_hostQs (n : Nat) (x : PanSlot) : (setPanSlot n x s).hostQs = s.hostQs := rfl
@[simp] theorem setPanSlot_hostTurn (n : Nat) (x : PanSlot) : (setPanSlot n x s).hostTurn = s.hostTurn := rfl
@[simp] theorem setPanSlot_mgmt (n : Nat) (x : PanSlot) : (setPanSlot n x s).mgmt = s.mgmt := rfl
@[simp] theorem setPanSlot_power (n : Nat) (x : PanSlot) : (setPanSlot n x s).power = s.power := rfl
@[simp] theorem setPanSlot_pins (n : Nat) (x : PanSlot) : (setPanSlot n x s).pins = s.pins := rfl
@[simp] theorem setPanSlot_now (n : Nat) (x : PanSlot) : (setPanSlot n x s).now = s.now := rfl
@[simp] theorem setPanSlot_posted (n : Nat) (x : PanSlot) : (setPanSlot n x s).posted = s.posted := rfl
@[simp] theorem setPanSlot_free (n : Nat) (x : PanSlot) : (setPanSlot n x s).free = s.free := rfl
@[simp] theorem setPanSlot_out (n : Nat) (x : PanSlot) : (setPanSlot n x s).out = s.out := rfl
@[simp] theorem setPanSlot_pending (n : Nat) (x : PanSlot) : (setPanSlot n x s).pending = s.pending := rfl

@[simp] theorem setChkRun_regs (u k : Nat) (x : Option ChkRun) : (setChkRun u k x s).regs = s.regs := rfl
@[simp] theorem setChkRun_mem (u k : Nat) (x : Option ChkRun) : (setChkRun u k x s).mem = s.mem := rfl
@[simp] theorem setChkRun_poison (u k : Nat) (x : Option ChkRun) : (setChkRun u k x s).poison = s.poison := rfl
@[simp] theorem setChkRun_acc (u k : Nat) (x : Option ChkRun) : (setChkRun u k x s).acc = s.acc := rfl
@[simp] theorem setChkRun_path (u k : Nat) (x : Option ChkRun) : (setChkRun u k x s).path = s.path := rfl
@[simp] theorem setChkRun_signals (u k : Nat) (x : Option ChkRun) : (setChkRun u k x s).signals = s.signals := rfl
@[simp] theorem setChkRun_bundles (u k : Nat) (x : Option ChkRun) : (setChkRun u k x s).bundles = s.bundles := rfl
@[simp] theorem setChkRun_domains (u k : Nat) (x : Option ChkRun) : (setChkRun u k x s).domains = s.domains := rfl
@[simp] theorem setChkRun_tiles (u k : Nat) (x : Option ChkRun) : (setChkRun u k x s).tiles = s.tiles := rfl
@[simp] theorem setChkRun_ports (u k : Nat) (x : Option ChkRun) : (setChkRun u k x s).ports = s.ports := rfl
@[simp] theorem setChkRun_opens (u k : Nat) (x : Option ChkRun) : (setChkRun u k x s).opens = s.opens := rfl
@[simp] theorem setChkRun_locals (u k : Nat) (x : Option ChkRun) : (setChkRun u k x s).locals = s.locals := rfl
@[simp] theorem setChkRun_dropped (u k : Nat) (x : Option ChkRun) : (setChkRun u k x s).dropped = s.dropped := rfl
@[simp] theorem setChkRun_nextTag (u k : Nat) (x : Option ChkRun) : (setChkRun u k x s).nextTag = s.nextTag := rfl
@[simp] theorem setChkRun_mcasts (u k : Nat) (x : Option ChkRun) : (setChkRun u k x s).mcasts = s.mcasts := rfl
@[simp] theorem setChkRun_rmaps (u k : Nat) (x : Option ChkRun) : (setChkRun u k x s).rmaps = s.rmaps := rfl
@[simp] theorem setChkRun_phaseSlots (u k : Nat) (x : Option ChkRun) : (setChkRun u k x s).phaseSlots = s.phaseSlots := rfl
@[simp] theorem setChkRun_queues (u k : Nat) (x : Option ChkRun) : (setChkRun u k x s).queues = s.queues := rfl
@[simp] theorem setChkRun_turns (u k : Nat) (x : Option ChkRun) : (setChkRun u k x s).turns = s.turns := rfl
@[simp] theorem setChkRun_stalled (u k : Nat) (x : Option ChkRun) : (setChkRun u k x s).stalled = s.stalled := rfl
@[simp] theorem setChkRun_stagePorts (u k : Nat) (x : Option ChkRun) : (setChkRun u k x s).stagePorts = s.stagePorts := rfl
@[simp] theorem setChkRun_versions (u k : Nat) (x : Option ChkRun) : (setChkRun u k x s).versions = s.versions := rfl
@[simp] theorem setChkRun_replays (u k : Nat) (x : Option ChkRun) : (setChkRun u k x s).replays = s.replays := rfl
@[simp] theorem setChkRun_reds (u k : Nat) (x : Option ChkRun) : (setChkRun u k x s).reds = s.reds := rfl
@[simp] theorem setChkRun_runs (u k : Nat) (x : Option ChkRun) : (setChkRun u k x s).runs = s.runs := rfl
@[simp] theorem setChkRun_panSlots (u k : Nat) (x : Option ChkRun) : (setChkRun u k x s).panSlots = s.panSlots := rfl
@[simp] theorem setChkRun_harvest (u k : Nat) (x : Option ChkRun) : (setChkRun u k x s).harvest = s.harvest := rfl
@[simp] theorem setChkRun_harvested (u k : Nat) (x : Option ChkRun) : (setChkRun u k x s).harvested = s.harvested := rfl
@[simp] theorem setChkRun_restoring (u k : Nat) (x : Option ChkRun) : (setChkRun u k x s).restoring = s.restoring := rfl
@[simp] theorem setChkRun_swap (u k : Nat) (x : Option ChkRun) : (setChkRun u k x s).swap = s.swap := rfl
@[simp] theorem setChkRun_tmErrors (u k : Nat) (x : Option ChkRun) : (setChkRun u k x s).tmErrors = s.tmErrors := rfl
@[simp] theorem setChkRun_swapWaits (u k : Nat) (x : Option ChkRun) : (setChkRun u k x s).swapWaits = s.swapWaits := rfl
@[simp] theorem setChkRun_far (u k : Nat) (x : Option ChkRun) : (setChkRun u k x s).far = s.far := rfl
@[simp] theorem setChkRun_ctxs (u k : Nat) (x : Option ChkRun) : (setChkRun u k x s).ctxs = s.ctxs := rfl
@[simp] theorem setChkRun_parts (u k : Nat) (x : Option ChkRun) : (setChkRun u k x s).parts = s.parts := rfl
@[simp] theorem setChkRun_prtRun (u k : Nat) (x : Option ChkRun) : (setChkRun u k x s).prtRun = s.prtRun := rfl
@[simp] theorem setChkRun_hostQs (u k : Nat) (x : Option ChkRun) : (setChkRun u k x s).hostQs = s.hostQs := rfl
@[simp] theorem setChkRun_hostTurn (u k : Nat) (x : Option ChkRun) : (setChkRun u k x s).hostTurn = s.hostTurn := rfl
@[simp] theorem setChkRun_mgmt (u k : Nat) (x : Option ChkRun) : (setChkRun u k x s).mgmt = s.mgmt := rfl
@[simp] theorem setChkRun_power (u k : Nat) (x : Option ChkRun) : (setChkRun u k x s).power = s.power := rfl
@[simp] theorem setChkRun_pins (u k : Nat) (x : Option ChkRun) : (setChkRun u k x s).pins = s.pins := rfl
@[simp] theorem setChkRun_now (u k : Nat) (x : Option ChkRun) : (setChkRun u k x s).now = s.now := rfl
@[simp] theorem setChkRun_posted (u k : Nat) (x : Option ChkRun) : (setChkRun u k x s).posted = s.posted := rfl
@[simp] theorem setChkRun_free (u k : Nat) (x : Option ChkRun) : (setChkRun u k x s).free = s.free := rfl
@[simp] theorem setChkRun_out (u k : Nat) (x : Option ChkRun) : (setChkRun u k x s).out = s.out := rfl
@[simp] theorem setChkRun_pending (u k : Nat) (x : Option ChkRun) : (setChkRun u k x s).pending = s.pending := rfl

@[simp] theorem setFar_regs (f : Far → Far) : (setFar f s).regs = s.regs := rfl
@[simp] theorem setFar_mem (f : Far → Far) : (setFar f s).mem = s.mem := rfl
@[simp] theorem setFar_poison (f : Far → Far) : (setFar f s).poison = s.poison := rfl
@[simp] theorem setFar_acc (f : Far → Far) : (setFar f s).acc = s.acc := rfl
@[simp] theorem setFar_path (f : Far → Far) : (setFar f s).path = s.path := rfl
@[simp] theorem setFar_signals (f : Far → Far) : (setFar f s).signals = s.signals := rfl
@[simp] theorem setFar_bundles (f : Far → Far) : (setFar f s).bundles = s.bundles := rfl
@[simp] theorem setFar_domains (f : Far → Far) : (setFar f s).domains = s.domains := rfl
@[simp] theorem setFar_tiles (f : Far → Far) : (setFar f s).tiles = s.tiles := rfl
@[simp] theorem setFar_ports (f : Far → Far) : (setFar f s).ports = s.ports := rfl
@[simp] theorem setFar_opens (f : Far → Far) : (setFar f s).opens = s.opens := rfl
@[simp] theorem setFar_locals (f : Far → Far) : (setFar f s).locals = s.locals := rfl
@[simp] theorem setFar_dropped (f : Far → Far) : (setFar f s).dropped = s.dropped := rfl
@[simp] theorem setFar_nextTag (f : Far → Far) : (setFar f s).nextTag = s.nextTag := rfl
@[simp] theorem setFar_mcasts (f : Far → Far) : (setFar f s).mcasts = s.mcasts := rfl
@[simp] theorem setFar_rmaps (f : Far → Far) : (setFar f s).rmaps = s.rmaps := rfl
@[simp] theorem setFar_phaseSlots (f : Far → Far) : (setFar f s).phaseSlots = s.phaseSlots := rfl
@[simp] theorem setFar_queues (f : Far → Far) : (setFar f s).queues = s.queues := rfl
@[simp] theorem setFar_turns (f : Far → Far) : (setFar f s).turns = s.turns := rfl
@[simp] theorem setFar_stalled (f : Far → Far) : (setFar f s).stalled = s.stalled := rfl
@[simp] theorem setFar_stagePorts (f : Far → Far) : (setFar f s).stagePorts = s.stagePorts := rfl
@[simp] theorem setFar_versions (f : Far → Far) : (setFar f s).versions = s.versions := rfl
@[simp] theorem setFar_replays (f : Far → Far) : (setFar f s).replays = s.replays := rfl
@[simp] theorem setFar_reds (f : Far → Far) : (setFar f s).reds = s.reds := rfl
@[simp] theorem setFar_runs (f : Far → Far) : (setFar f s).runs = s.runs := rfl
@[simp] theorem setFar_panSlots (f : Far → Far) : (setFar f s).panSlots = s.panSlots := rfl
@[simp] theorem setFar_harvest (f : Far → Far) : (setFar f s).harvest = s.harvest := rfl
@[simp] theorem setFar_harvested (f : Far → Far) : (setFar f s).harvested = s.harvested := rfl
@[simp] theorem setFar_restoring (f : Far → Far) : (setFar f s).restoring = s.restoring := rfl
@[simp] theorem setFar_checks (f : Far → Far) : (setFar f s).checks = s.checks := rfl
@[simp] theorem setFar_swap (f : Far → Far) : (setFar f s).swap = s.swap := rfl
@[simp] theorem setFar_tmErrors (f : Far → Far) : (setFar f s).tmErrors = s.tmErrors := rfl
@[simp] theorem setFar_swapWaits (f : Far → Far) : (setFar f s).swapWaits = s.swapWaits := rfl
@[simp] theorem setFar_ctxs (f : Far → Far) : (setFar f s).ctxs = s.ctxs := rfl
@[simp] theorem setFar_parts (f : Far → Far) : (setFar f s).parts = s.parts := rfl
@[simp] theorem setFar_prtRun (f : Far → Far) : (setFar f s).prtRun = s.prtRun := rfl
@[simp] theorem setFar_hostQs (f : Far → Far) : (setFar f s).hostQs = s.hostQs := rfl
@[simp] theorem setFar_hostTurn (f : Far → Far) : (setFar f s).hostTurn = s.hostTurn := rfl
@[simp] theorem setFar_mgmt (f : Far → Far) : (setFar f s).mgmt = s.mgmt := rfl
@[simp] theorem setFar_power (f : Far → Far) : (setFar f s).power = s.power := rfl
@[simp] theorem setFar_pins (f : Far → Far) : (setFar f s).pins = s.pins := rfl
@[simp] theorem setFar_now (f : Far → Far) : (setFar f s).now = s.now := rfl
@[simp] theorem setFar_posted (f : Far → Far) : (setFar f s).posted = s.posted := rfl
@[simp] theorem setFar_free (f : Far → Far) : (setFar f s).free = s.free := rfl
@[simp] theorem setFar_out (f : Far → Far) : (setFar f s).out = s.out := rfl
@[simp] theorem setFar_pending (f : Far → Far) : (setFar f s).pending = s.pending := rfl

@[simp] theorem setHostQ_regs (c : Nat) (x : HostQueue) : (setHostQ c x s).regs = s.regs := rfl
@[simp] theorem setHostQ_mem (c : Nat) (x : HostQueue) : (setHostQ c x s).mem = s.mem := rfl
@[simp] theorem setHostQ_poison (c : Nat) (x : HostQueue) : (setHostQ c x s).poison = s.poison := rfl
@[simp] theorem setHostQ_acc (c : Nat) (x : HostQueue) : (setHostQ c x s).acc = s.acc := rfl
@[simp] theorem setHostQ_path (c : Nat) (x : HostQueue) : (setHostQ c x s).path = s.path := rfl
@[simp] theorem setHostQ_signals (c : Nat) (x : HostQueue) : (setHostQ c x s).signals = s.signals := rfl
@[simp] theorem setHostQ_bundles (c : Nat) (x : HostQueue) : (setHostQ c x s).bundles = s.bundles := rfl
@[simp] theorem setHostQ_domains (c : Nat) (x : HostQueue) : (setHostQ c x s).domains = s.domains := rfl
@[simp] theorem setHostQ_tiles (c : Nat) (x : HostQueue) : (setHostQ c x s).tiles = s.tiles := rfl
@[simp] theorem setHostQ_ports (c : Nat) (x : HostQueue) : (setHostQ c x s).ports = s.ports := rfl
@[simp] theorem setHostQ_opens (c : Nat) (x : HostQueue) : (setHostQ c x s).opens = s.opens := rfl
@[simp] theorem setHostQ_locals (c : Nat) (x : HostQueue) : (setHostQ c x s).locals = s.locals := rfl
@[simp] theorem setHostQ_dropped (c : Nat) (x : HostQueue) : (setHostQ c x s).dropped = s.dropped := rfl
@[simp] theorem setHostQ_nextTag (c : Nat) (x : HostQueue) : (setHostQ c x s).nextTag = s.nextTag := rfl
@[simp] theorem setHostQ_mcasts (c : Nat) (x : HostQueue) : (setHostQ c x s).mcasts = s.mcasts := rfl
@[simp] theorem setHostQ_rmaps (c : Nat) (x : HostQueue) : (setHostQ c x s).rmaps = s.rmaps := rfl
@[simp] theorem setHostQ_phaseSlots (c : Nat) (x : HostQueue) : (setHostQ c x s).phaseSlots = s.phaseSlots := rfl
@[simp] theorem setHostQ_queues (c : Nat) (x : HostQueue) : (setHostQ c x s).queues = s.queues := rfl
@[simp] theorem setHostQ_turns (c : Nat) (x : HostQueue) : (setHostQ c x s).turns = s.turns := rfl
@[simp] theorem setHostQ_stalled (c : Nat) (x : HostQueue) : (setHostQ c x s).stalled = s.stalled := rfl
@[simp] theorem setHostQ_stagePorts (c : Nat) (x : HostQueue) : (setHostQ c x s).stagePorts = s.stagePorts := rfl
@[simp] theorem setHostQ_versions (c : Nat) (x : HostQueue) : (setHostQ c x s).versions = s.versions := rfl
@[simp] theorem setHostQ_replays (c : Nat) (x : HostQueue) : (setHostQ c x s).replays = s.replays := rfl
@[simp] theorem setHostQ_reds (c : Nat) (x : HostQueue) : (setHostQ c x s).reds = s.reds := rfl
@[simp] theorem setHostQ_runs (c : Nat) (x : HostQueue) : (setHostQ c x s).runs = s.runs := rfl
@[simp] theorem setHostQ_panSlots (c : Nat) (x : HostQueue) : (setHostQ c x s).panSlots = s.panSlots := rfl
@[simp] theorem setHostQ_harvest (c : Nat) (x : HostQueue) : (setHostQ c x s).harvest = s.harvest := rfl
@[simp] theorem setHostQ_harvested (c : Nat) (x : HostQueue) : (setHostQ c x s).harvested = s.harvested := rfl
@[simp] theorem setHostQ_restoring (c : Nat) (x : HostQueue) : (setHostQ c x s).restoring = s.restoring := rfl
@[simp] theorem setHostQ_checks (c : Nat) (x : HostQueue) : (setHostQ c x s).checks = s.checks := rfl
@[simp] theorem setHostQ_swap (c : Nat) (x : HostQueue) : (setHostQ c x s).swap = s.swap := rfl
@[simp] theorem setHostQ_tmErrors (c : Nat) (x : HostQueue) : (setHostQ c x s).tmErrors = s.tmErrors := rfl
@[simp] theorem setHostQ_swapWaits (c : Nat) (x : HostQueue) : (setHostQ c x s).swapWaits = s.swapWaits := rfl
@[simp] theorem setHostQ_far (c : Nat) (x : HostQueue) : (setHostQ c x s).far = s.far := rfl
@[simp] theorem setHostQ_ctxs (c : Nat) (x : HostQueue) : (setHostQ c x s).ctxs = s.ctxs := rfl
@[simp] theorem setHostQ_parts (c : Nat) (x : HostQueue) : (setHostQ c x s).parts = s.parts := rfl
@[simp] theorem setHostQ_prtRun (c : Nat) (x : HostQueue) : (setHostQ c x s).prtRun = s.prtRun := rfl
@[simp] theorem setHostQ_hostTurn (c : Nat) (x : HostQueue) : (setHostQ c x s).hostTurn = s.hostTurn := rfl
@[simp] theorem setHostQ_mgmt (c : Nat) (x : HostQueue) : (setHostQ c x s).mgmt = s.mgmt := rfl
@[simp] theorem setHostQ_power (c : Nat) (x : HostQueue) : (setHostQ c x s).power = s.power := rfl
@[simp] theorem setHostQ_pins (c : Nat) (x : HostQueue) : (setHostQ c x s).pins = s.pins := rfl
@[simp] theorem setHostQ_now (c : Nat) (x : HostQueue) : (setHostQ c x s).now = s.now := rfl
@[simp] theorem setHostQ_posted (c : Nat) (x : HostQueue) : (setHostQ c x s).posted = s.posted := rfl
@[simp] theorem setHostQ_free (c : Nat) (x : HostQueue) : (setHostQ c x s).free = s.free := rfl
@[simp] theorem setHostQ_out (c : Nat) (x : HostQueue) : (setHostQ c x s).out = s.out := rfl
@[simp] theorem setHostQ_pending (c : Nat) (x : HostQueue) : (setHostQ c x s).pending = s.pending := rfl

theorem dom_setDom (h : Store.Wf (fun _ => TideDom.init) s.domains) (k : Nat) (x : TideDom) (j : Nat) :
    (setDom k x s).dom j = if j = k then x else s.dom j := Store.lookup_update h k x j
theorem dom_setDom_same (h : Store.Wf (fun _ => TideDom.init) s.domains) (k : Nat) (x : TideDom) : (setDom k x s).dom k = x := by
  simp [dom_setDom s h]

theorem tile_setTile (h : Store.Wf (fun _ => TileState.init) s.tiles) (k : Nat) (x : TileState) (j : Nat) :
    (setTile k x s).tile j = if j = k then x else s.tile j := Store.lookup_update h k x j
theorem tile_setTile_same (h : Store.Wf (fun _ => TileState.init) s.tiles) (k : Nat) (x : TileState) : (setTile k x s).tile k = x := by
  simp [tile_setTile s h]

theorem ctx_setCtx (h : Store.Wf (fun _ => CtxExtra.init) s.ctxs) (k : Nat) (x : CtxExtra) (j : Nat) :
    (setCtx k x s).ctx j = if j = k then x else s.ctx j := Store.lookup_update h k x j
theorem ctx_setCtx_same (h : Store.Wf (fun _ => CtxExtra.init) s.ctxs) (k : Nat) (x : CtxExtra) : (setCtx k x s).ctx k = x := by
  simp [ctx_setCtx s h]

theorem part_setPart (h : Store.Wf (fun _ => PartState.init) s.parts) (k : Nat) (x : PartState) (j : Nat) :
    (setPart k x s).part j = if j = k then x else s.part j := Store.lookup_update h k x j
theorem part_setPart_same (h : Store.Wf (fun _ => PartState.init) s.parts) (k : Nat) (x : PartState) : (setPart k x s).part k = x := by
  simp [part_setPart s h]

theorem port_setPort (h : Store.Wf (fun _ => PortState.init) s.ports) (k : Nat) (x : PortState) (j : Nat) :
    (setPort k x s).port j = if j = k then x else s.port j := Store.lookup_update h k x j
theorem port_setPort_same (h : Store.Wf (fun _ => PortState.init) s.ports) (k : Nat) (x : PortState) : (setPort k x s).port k = x := by
  simp [port_setPort s h]

theorem queue_setQueue (h : Store.Wf (fun _ => StrQueue.init) s.queues) (k : Nat) (x : StrQueue) (j : Nat) :
    (setQueue k x s).queue j = if j = k then x else s.queue j := Store.lookup_update h k x j
theorem queue_setQueue_same (h : Store.Wf (fun _ => StrQueue.init) s.queues) (k : Nat) (x : StrQueue) : (setQueue k x s).queue k = x := by
  simp [queue_setQueue s h]

theorem stagePort_setStagePort (h : Store.Wf (fun _ => StagePort.init) s.stagePorts) (k : Nat) (x : StagePort) (j : Nat) :
    (setStagePort k x s).stagePort j = if j = k then x else s.stagePort j := Store.lookup_update h k x j
theorem stagePort_setStagePort_same (h : Store.Wf (fun _ => StagePort.init) s.stagePorts) (k : Nat) (x : StagePort) : (setStagePort k x s).stagePort k = x := by
  simp [stagePort_setStagePort s h]

theorem red_setRed (h : Store.Wf (fun _ => RedLayer.init) s.reds) (k : Nat) (x : RedLayer) (j : Nat) :
    (setRed k x s).red j = if j = k then x else s.red j := Store.lookup_update h k x j
theorem red_setRed_same (h : Store.Wf (fun _ => RedLayer.init) s.reds) (k : Nat) (x : RedLayer) : (setRed k x s).red k = x := by
  simp [red_setRed s h]

theorem panSlot_setPanSlot (h : Store.Wf (fun _ => PanSlot.init) s.panSlots) (k : Nat) (x : PanSlot) (j : Nat) :
    (setPanSlot k x s).panSlot j = if j = k then x else s.panSlot j := Store.lookup_update h k x j
theorem panSlot_setPanSlot_same (h : Store.Wf (fun _ => PanSlot.init) s.panSlots) (k : Nat) (x : PanSlot) : (setPanSlot k x s).panSlot k = x := by
  simp [panSlot_setPanSlot s h]

theorem hostQ_setHostQ (h : Store.Wf (fun _ => HostQueue.init) s.hostQs) (k : Nat) (x : HostQueue) (j : Nat) :
    (setHostQ k x s).hostQ j = if j = k then x else s.hostQ j := Store.lookup_update h k x j
theorem hostQ_setHostQ_same (h : Store.Wf (fun _ => HostQueue.init) s.hostQs) (k : Nat) (x : HostQueue) : (setHostQ k x s).hostQ k = x := by
  simp [hostQ_setHostQ s h]

theorem replay_setReplay (h : Store.Wf (fun _ => ReplayDom.init) s.replays) (k : Nat) (x : ReplayDom) (j : Nat) :
    (setReplay k x s).replay j = if j = k then x else s.replay j := Store.lookup_update h k x j
theorem replay_setReplay_same (h : Store.Wf (fun _ => ReplayDom.init) s.replays) (k : Nat) (x : ReplayDom) : (setReplay k x s).replay k = x := by
  simp [replay_setReplay s h]

@[simp] theorem setR_byte (off : Nat) (v : Word) (a' : Nat) : (setR off v s).byte a' = s.byte a' := rfl
@[simp] theorem setR_tile (off : Nat) (v : Word) (a' : Nat) : (setR off v s).tile a' = s.tile a' := rfl
@[simp] theorem setR_dom (off : Nat) (v : Word) (a' : Nat) : (setR off v s).dom a' = s.dom a' := rfl
@[simp] theorem setR_ctx (off : Nat) (v : Word) (a' : Nat) : (setR off v s).ctx a' = s.ctx a' := rfl
@[simp] theorem setR_part (off : Nat) (v : Word) (a' : Nat) : (setR off v s).part a' = s.part a' := rfl
@[simp] theorem setR_port (off : Nat) (v : Word) (a' : Nat) : (setR off v s).port a' = s.port a' := rfl
@[simp] theorem setR_queue (off : Nat) (v : Word) (a' : Nat) : (setR off v s).queue a' = s.queue a' := rfl
@[simp] theorem setR_stagePort (off : Nat) (v : Word) (a' : Nat) : (setR off v s).stagePort a' = s.stagePort a' := rfl
@[simp] theorem setR_red (off : Nat) (v : Word) (a' : Nat) : (setR off v s).red a' = s.red a' := rfl
@[simp] theorem setR_hostQ (off : Nat) (v : Word) (a' : Nat) : (setR off v s).hostQ a' = s.hostQ a' := rfl
@[simp] theorem setR_panSlot (off : Nat) (v : Word) (a' : Nat) : (setR off v s).panSlot a' = s.panSlot a' := rfl

@[simp] theorem put_byte (off : Nat) (f : Fld) (v : Nat) (a' : Nat) : (put off f v s).byte a' = s.byte a' := rfl
@[simp] theorem put_tile (off : Nat) (f : Fld) (v : Nat) (a' : Nat) : (put off f v s).tile a' = s.tile a' := rfl
@[simp] theorem put_dom (off : Nat) (f : Fld) (v : Nat) (a' : Nat) : (put off f v s).dom a' = s.dom a' := rfl
@[simp] theorem put_ctx (off : Nat) (f : Fld) (v : Nat) (a' : Nat) : (put off f v s).ctx a' = s.ctx a' := rfl
@[simp] theorem put_part (off : Nat) (f : Fld) (v : Nat) (a' : Nat) : (put off f v s).part a' = s.part a' := rfl
@[simp] theorem put_port (off : Nat) (f : Fld) (v : Nat) (a' : Nat) : (put off f v s).port a' = s.port a' := rfl
@[simp] theorem put_queue (off : Nat) (f : Fld) (v : Nat) (a' : Nat) : (put off f v s).queue a' = s.queue a' := rfl
@[simp] theorem put_stagePort (off : Nat) (f : Fld) (v : Nat) (a' : Nat) : (put off f v s).stagePort a' = s.stagePort a' := rfl
@[simp] theorem put_red (off : Nat) (f : Fld) (v : Nat) (a' : Nat) : (put off f v s).red a' = s.red a' := rfl
@[simp] theorem put_hostQ (off : Nat) (f : Fld) (v : Nat) (a' : Nat) : (put off f v s).hostQ a' = s.hostQ a' := rfl
@[simp] theorem put_panSlot (off : Nat) (f : Fld) (v : Nat) (a' : Nat) : (put off f v s).panSlot a' = s.panSlot a' := rfl

@[simp] theorem raise_byte (off : Nat) (f : Fld) (a' : Nat) : (raise off f s).byte a' = s.byte a' := rfl
@[simp] theorem raise_tile (off : Nat) (f : Fld) (a' : Nat) : (raise off f s).tile a' = s.tile a' := rfl
@[simp] theorem raise_dom (off : Nat) (f : Fld) (a' : Nat) : (raise off f s).dom a' = s.dom a' := rfl
@[simp] theorem raise_ctx (off : Nat) (f : Fld) (a' : Nat) : (raise off f s).ctx a' = s.ctx a' := rfl
@[simp] theorem raise_part (off : Nat) (f : Fld) (a' : Nat) : (raise off f s).part a' = s.part a' := rfl
@[simp] theorem raise_port (off : Nat) (f : Fld) (a' : Nat) : (raise off f s).port a' = s.port a' := rfl
@[simp] theorem raise_queue (off : Nat) (f : Fld) (a' : Nat) : (raise off f s).queue a' = s.queue a' := rfl
@[simp] theorem raise_stagePort (off : Nat) (f : Fld) (a' : Nat) : (raise off f s).stagePort a' = s.stagePort a' := rfl
@[simp] theorem raise_red (off : Nat) (f : Fld) (a' : Nat) : (raise off f s).red a' = s.red a' := rfl
@[simp] theorem raise_hostQ (off : Nat) (f : Fld) (a' : Nat) : (raise off f s).hostQ a' = s.hostQ a' := rfl
@[simp] theorem raise_panSlot (off : Nat) (f : Fld) (a' : Nat) : (raise off f s).panSlot a' = s.panSlot a' := rfl

@[simp] theorem putB_byte (off : Nat) (f : Fld) (b : Bool) (a' : Nat) : (putB off f b s).byte a' = s.byte a' := rfl
@[simp] theorem putB_tile (off : Nat) (f : Fld) (b : Bool) (a' : Nat) : (putB off f b s).tile a' = s.tile a' := rfl
@[simp] theorem putB_dom (off : Nat) (f : Fld) (b : Bool) (a' : Nat) : (putB off f b s).dom a' = s.dom a' := rfl
@[simp] theorem putB_ctx (off : Nat) (f : Fld) (b : Bool) (a' : Nat) : (putB off f b s).ctx a' = s.ctx a' := rfl
@[simp] theorem putB_part (off : Nat) (f : Fld) (b : Bool) (a' : Nat) : (putB off f b s).part a' = s.part a' := rfl
@[simp] theorem putB_port (off : Nat) (f : Fld) (b : Bool) (a' : Nat) : (putB off f b s).port a' = s.port a' := rfl
@[simp] theorem putB_queue (off : Nat) (f : Fld) (b : Bool) (a' : Nat) : (putB off f b s).queue a' = s.queue a' := rfl
@[simp] theorem putB_stagePort (off : Nat) (f : Fld) (b : Bool) (a' : Nat) : (putB off f b s).stagePort a' = s.stagePort a' := rfl
@[simp] theorem putB_red (off : Nat) (f : Fld) (b : Bool) (a' : Nat) : (putB off f b s).red a' = s.red a' := rfl
@[simp] theorem putB_hostQ (off : Nat) (f : Fld) (b : Bool) (a' : Nat) : (putB off f b s).hostQ a' = s.hostQ a' := rfl
@[simp] theorem putB_panSlot (off : Nat) (f : Fld) (b : Bool) (a' : Nat) : (putB off f b s).panSlot a' = s.panSlot a' := rfl

@[simp] theorem mapRegs_byte (p : Nat → Bool) (f : Nat → Word → Word) (a' : Nat) : (mapRegs p f s).byte a' = s.byte a' := rfl
@[simp] theorem mapRegs_tile (p : Nat → Bool) (f : Nat → Word → Word) (a' : Nat) : (mapRegs p f s).tile a' = s.tile a' := rfl
@[simp] theorem mapRegs_dom (p : Nat → Bool) (f : Nat → Word → Word) (a' : Nat) : (mapRegs p f s).dom a' = s.dom a' := rfl
@[simp] theorem mapRegs_ctx (p : Nat → Bool) (f : Nat → Word → Word) (a' : Nat) : (mapRegs p f s).ctx a' = s.ctx a' := rfl
@[simp] theorem mapRegs_part (p : Nat → Bool) (f : Nat → Word → Word) (a' : Nat) : (mapRegs p f s).part a' = s.part a' := rfl
@[simp] theorem mapRegs_port (p : Nat → Bool) (f : Nat → Word → Word) (a' : Nat) : (mapRegs p f s).port a' = s.port a' := rfl
@[simp] theorem mapRegs_queue (p : Nat → Bool) (f : Nat → Word → Word) (a' : Nat) : (mapRegs p f s).queue a' = s.queue a' := rfl
@[simp] theorem mapRegs_stagePort (p : Nat → Bool) (f : Nat → Word → Word) (a' : Nat) : (mapRegs p f s).stagePort a' = s.stagePort a' := rfl
@[simp] theorem mapRegs_red (p : Nat → Bool) (f : Nat → Word → Word) (a' : Nat) : (mapRegs p f s).red a' = s.red a' := rfl
@[simp] theorem mapRegs_hostQ (p : Nat → Bool) (f : Nat → Word → Word) (a' : Nat) : (mapRegs p f s).hostQ a' = s.hostQ a' := rfl
@[simp] theorem mapRegs_panSlot (p : Nat → Bool) (f : Nat → Word → Word) (a' : Nat) : (mapRegs p f s).panSlot a' = s.panSlot a' := rfl

@[simp] theorem emit_reg (o : Output) (a' : Nat) : (emit o s).reg a' = s.reg a' := rfl
@[simp] theorem emit_fld (o : Output) (a' : Nat) (fl : Fld) : (emit o s).fld a' fl = s.fld a' fl := rfl
@[simp] theorem emit_on (o : Output) (a' : Nat) (fl : Fld) : (emit o s).on a' fl = s.on a' fl := rfl
@[simp] theorem emit_byte (o : Output) (a' : Nat) : (emit o s).byte a' = s.byte a' := rfl
@[simp] theorem emit_tile (o : Output) (a' : Nat) : (emit o s).tile a' = s.tile a' := rfl
@[simp] theorem emit_dom (o : Output) (a' : Nat) : (emit o s).dom a' = s.dom a' := rfl
@[simp] theorem emit_ctx (o : Output) (a' : Nat) : (emit o s).ctx a' = s.ctx a' := rfl
@[simp] theorem emit_part (o : Output) (a' : Nat) : (emit o s).part a' = s.part a' := rfl
@[simp] theorem emit_port (o : Output) (a' : Nat) : (emit o s).port a' = s.port a' := rfl
@[simp] theorem emit_queue (o : Output) (a' : Nat) : (emit o s).queue a' = s.queue a' := rfl
@[simp] theorem emit_stagePort (o : Output) (a' : Nat) : (emit o s).stagePort a' = s.stagePort a' := rfl
@[simp] theorem emit_red (o : Output) (a' : Nat) : (emit o s).red a' = s.red a' := rfl
@[simp] theorem emit_hostQ (o : Output) (a' : Nat) : (emit o s).hostQ a' = s.hostQ a' := rfl
@[simp] theorem emit_panSlot (o : Output) (a' : Nat) : (emit o s).panSlot a' = s.panSlot a' := rfl

@[simp] theorem setByte_reg (a : Nat) (b : Byte) (a' : Nat) : (setByte a b s).reg a' = s.reg a' := rfl
@[simp] theorem setByte_fld (a : Nat) (b : Byte) (a' : Nat) (fl : Fld) : (setByte a b s).fld a' fl = s.fld a' fl := rfl
@[simp] theorem setByte_on (a : Nat) (b : Byte) (a' : Nat) (fl : Fld) : (setByte a b s).on a' fl = s.on a' fl := rfl
@[simp] theorem setByte_tile (a : Nat) (b : Byte) (a' : Nat) : (setByte a b s).tile a' = s.tile a' := rfl
@[simp] theorem setByte_dom (a : Nat) (b : Byte) (a' : Nat) : (setByte a b s).dom a' = s.dom a' := rfl
@[simp] theorem setByte_ctx (a : Nat) (b : Byte) (a' : Nat) : (setByte a b s).ctx a' = s.ctx a' := rfl
@[simp] theorem setByte_part (a : Nat) (b : Byte) (a' : Nat) : (setByte a b s).part a' = s.part a' := rfl
@[simp] theorem setByte_port (a : Nat) (b : Byte) (a' : Nat) : (setByte a b s).port a' = s.port a' := rfl
@[simp] theorem setByte_queue (a : Nat) (b : Byte) (a' : Nat) : (setByte a b s).queue a' = s.queue a' := rfl
@[simp] theorem setByte_stagePort (a : Nat) (b : Byte) (a' : Nat) : (setByte a b s).stagePort a' = s.stagePort a' := rfl
@[simp] theorem setByte_red (a : Nat) (b : Byte) (a' : Nat) : (setByte a b s).red a' = s.red a' := rfl
@[simp] theorem setByte_hostQ (a : Nat) (b : Byte) (a' : Nat) : (setByte a b s).hostQ a' = s.hostQ a' := rfl
@[simp] theorem setByte_panSlot (a : Nat) (b : Byte) (a' : Nat) : (setByte a b s).panSlot a' = s.panSlot a' := rfl

@[simp] theorem setPoison_reg (u : Nat) (b : Bool) (a' : Nat) : (setPoison u b s).reg a' = s.reg a' := rfl
@[simp] theorem setPoison_fld (u : Nat) (b : Bool) (a' : Nat) (fl : Fld) : (setPoison u b s).fld a' fl = s.fld a' fl := rfl
@[simp] theorem setPoison_on (u : Nat) (b : Bool) (a' : Nat) (fl : Fld) : (setPoison u b s).on a' fl = s.on a' fl := rfl
@[simp] theorem setPoison_byte (u : Nat) (b : Bool) (a' : Nat) : (setPoison u b s).byte a' = s.byte a' := rfl
@[simp] theorem setPoison_tile (u : Nat) (b : Bool) (a' : Nat) : (setPoison u b s).tile a' = s.tile a' := rfl
@[simp] theorem setPoison_dom (u : Nat) (b : Bool) (a' : Nat) : (setPoison u b s).dom a' = s.dom a' := rfl
@[simp] theorem setPoison_ctx (u : Nat) (b : Bool) (a' : Nat) : (setPoison u b s).ctx a' = s.ctx a' := rfl
@[simp] theorem setPoison_part (u : Nat) (b : Bool) (a' : Nat) : (setPoison u b s).part a' = s.part a' := rfl
@[simp] theorem setPoison_port (u : Nat) (b : Bool) (a' : Nat) : (setPoison u b s).port a' = s.port a' := rfl
@[simp] theorem setPoison_queue (u : Nat) (b : Bool) (a' : Nat) : (setPoison u b s).queue a' = s.queue a' := rfl
@[simp] theorem setPoison_stagePort (u : Nat) (b : Bool) (a' : Nat) : (setPoison u b s).stagePort a' = s.stagePort a' := rfl
@[simp] theorem setPoison_red (u : Nat) (b : Bool) (a' : Nat) : (setPoison u b s).red a' = s.red a' := rfl
@[simp] theorem setPoison_hostQ (u : Nat) (b : Bool) (a' : Nat) : (setPoison u b s).hostQ a' = s.hostQ a' := rfl
@[simp] theorem setPoison_panSlot (u : Nat) (b : Bool) (a' : Nat) : (setPoison u b s).panSlot a' = s.panSlot a' := rfl

@[simp] theorem setPath_reg (f : MemPath → MemPath) (a' : Nat) : (setPath f s).reg a' = s.reg a' := rfl
@[simp] theorem setPath_fld (f : MemPath → MemPath) (a' : Nat) (fl : Fld) : (setPath f s).fld a' fl = s.fld a' fl := rfl
@[simp] theorem setPath_on (f : MemPath → MemPath) (a' : Nat) (fl : Fld) : (setPath f s).on a' fl = s.on a' fl := rfl
@[simp] theorem setPath_byte (f : MemPath → MemPath) (a' : Nat) : (setPath f s).byte a' = s.byte a' := rfl
@[simp] theorem setPath_tile (f : MemPath → MemPath) (a' : Nat) : (setPath f s).tile a' = s.tile a' := rfl
@[simp] theorem setPath_dom (f : MemPath → MemPath) (a' : Nat) : (setPath f s).dom a' = s.dom a' := rfl
@[simp] theorem setPath_ctx (f : MemPath → MemPath) (a' : Nat) : (setPath f s).ctx a' = s.ctx a' := rfl
@[simp] theorem setPath_part (f : MemPath → MemPath) (a' : Nat) : (setPath f s).part a' = s.part a' := rfl
@[simp] theorem setPath_port (f : MemPath → MemPath) (a' : Nat) : (setPath f s).port a' = s.port a' := rfl
@[simp] theorem setPath_queue (f : MemPath → MemPath) (a' : Nat) : (setPath f s).queue a' = s.queue a' := rfl
@[simp] theorem setPath_stagePort (f : MemPath → MemPath) (a' : Nat) : (setPath f s).stagePort a' = s.stagePort a' := rfl
@[simp] theorem setPath_red (f : MemPath → MemPath) (a' : Nat) : (setPath f s).red a' = s.red a' := rfl
@[simp] theorem setPath_hostQ (f : MemPath → MemPath) (a' : Nat) : (setPath f s).hostQ a' = s.hostQ a' := rfl
@[simp] theorem setPath_panSlot (f : MemPath → MemPath) (a' : Nat) : (setPath f s).panSlot a' = s.panSlot a' := rfl

@[simp] theorem setAcc_reg (p b i j : Nat) (v : BitVec 32) (a' : Nat) : (setAcc p b i j v s).reg a' = s.reg a' := rfl
@[simp] theorem setAcc_fld (p b i j : Nat) (v : BitVec 32) (a' : Nat) (fl : Fld) : (setAcc p b i j v s).fld a' fl = s.fld a' fl := rfl
@[simp] theorem setAcc_on (p b i j : Nat) (v : BitVec 32) (a' : Nat) (fl : Fld) : (setAcc p b i j v s).on a' fl = s.on a' fl := rfl
@[simp] theorem setAcc_byte (p b i j : Nat) (v : BitVec 32) (a' : Nat) : (setAcc p b i j v s).byte a' = s.byte a' := rfl
@[simp] theorem setAcc_tile (p b i j : Nat) (v : BitVec 32) (a' : Nat) : (setAcc p b i j v s).tile a' = s.tile a' := rfl
@[simp] theorem setAcc_dom (p b i j : Nat) (v : BitVec 32) (a' : Nat) : (setAcc p b i j v s).dom a' = s.dom a' := rfl
@[simp] theorem setAcc_ctx (p b i j : Nat) (v : BitVec 32) (a' : Nat) : (setAcc p b i j v s).ctx a' = s.ctx a' := rfl
@[simp] theorem setAcc_part (p b i j : Nat) (v : BitVec 32) (a' : Nat) : (setAcc p b i j v s).part a' = s.part a' := rfl
@[simp] theorem setAcc_port (p b i j : Nat) (v : BitVec 32) (a' : Nat) : (setAcc p b i j v s).port a' = s.port a' := rfl
@[simp] theorem setAcc_queue (p b i j : Nat) (v : BitVec 32) (a' : Nat) : (setAcc p b i j v s).queue a' = s.queue a' := rfl
@[simp] theorem setAcc_stagePort (p b i j : Nat) (v : BitVec 32) (a' : Nat) : (setAcc p b i j v s).stagePort a' = s.stagePort a' := rfl
@[simp] theorem setAcc_red (p b i j : Nat) (v : BitVec 32) (a' : Nat) : (setAcc p b i j v s).red a' = s.red a' := rfl
@[simp] theorem setAcc_hostQ (p b i j : Nat) (v : BitVec 32) (a' : Nat) : (setAcc p b i j v s).hostQ a' = s.hostQ a' := rfl
@[simp] theorem setAcc_panSlot (p b i j : Nat) (v : BitVec 32) (a' : Nat) : (setAcc p b i j v s).panSlot a' = s.panSlot a' := rfl

@[simp] theorem setSignal_reg (g : Signal) (x : SignalState) (a' : Nat) : (setSignal g x s).reg a' = s.reg a' := rfl
@[simp] theorem setSignal_fld (g : Signal) (x : SignalState) (a' : Nat) (fl : Fld) : (setSignal g x s).fld a' fl = s.fld a' fl := rfl
@[simp] theorem setSignal_on (g : Signal) (x : SignalState) (a' : Nat) (fl : Fld) : (setSignal g x s).on a' fl = s.on a' fl := rfl
@[simp] theorem setSignal_byte (g : Signal) (x : SignalState) (a' : Nat) : (setSignal g x s).byte a' = s.byte a' := rfl
@[simp] theorem setSignal_tile (g : Signal) (x : SignalState) (a' : Nat) : (setSignal g x s).tile a' = s.tile a' := rfl
@[simp] theorem setSignal_dom (g : Signal) (x : SignalState) (a' : Nat) : (setSignal g x s).dom a' = s.dom a' := rfl
@[simp] theorem setSignal_ctx (g : Signal) (x : SignalState) (a' : Nat) : (setSignal g x s).ctx a' = s.ctx a' := rfl
@[simp] theorem setSignal_part (g : Signal) (x : SignalState) (a' : Nat) : (setSignal g x s).part a' = s.part a' := rfl
@[simp] theorem setSignal_port (g : Signal) (x : SignalState) (a' : Nat) : (setSignal g x s).port a' = s.port a' := rfl
@[simp] theorem setSignal_queue (g : Signal) (x : SignalState) (a' : Nat) : (setSignal g x s).queue a' = s.queue a' := rfl
@[simp] theorem setSignal_stagePort (g : Signal) (x : SignalState) (a' : Nat) : (setSignal g x s).stagePort a' = s.stagePort a' := rfl
@[simp] theorem setSignal_red (g : Signal) (x : SignalState) (a' : Nat) : (setSignal g x s).red a' = s.red a' := rfl
@[simp] theorem setSignal_hostQ (g : Signal) (x : SignalState) (a' : Nat) : (setSignal g x s).hostQ a' = s.hostQ a' := rfl
@[simp] theorem setSignal_panSlot (g : Signal) (x : SignalState) (a' : Nat) : (setSignal g x s).panSlot a' = s.panSlot a' := rfl

@[simp] theorem setBundle_reg (g : Signal) (x : BundleState) (a' : Nat) : (setBundle g x s).reg a' = s.reg a' := rfl
@[simp] theorem setBundle_fld (g : Signal) (x : BundleState) (a' : Nat) (fl : Fld) : (setBundle g x s).fld a' fl = s.fld a' fl := rfl
@[simp] theorem setBundle_on (g : Signal) (x : BundleState) (a' : Nat) (fl : Fld) : (setBundle g x s).on a' fl = s.on a' fl := rfl
@[simp] theorem setBundle_byte (g : Signal) (x : BundleState) (a' : Nat) : (setBundle g x s).byte a' = s.byte a' := rfl
@[simp] theorem setBundle_tile (g : Signal) (x : BundleState) (a' : Nat) : (setBundle g x s).tile a' = s.tile a' := rfl
@[simp] theorem setBundle_dom (g : Signal) (x : BundleState) (a' : Nat) : (setBundle g x s).dom a' = s.dom a' := rfl
@[simp] theorem setBundle_ctx (g : Signal) (x : BundleState) (a' : Nat) : (setBundle g x s).ctx a' = s.ctx a' := rfl
@[simp] theorem setBundle_part (g : Signal) (x : BundleState) (a' : Nat) : (setBundle g x s).part a' = s.part a' := rfl
@[simp] theorem setBundle_port (g : Signal) (x : BundleState) (a' : Nat) : (setBundle g x s).port a' = s.port a' := rfl
@[simp] theorem setBundle_queue (g : Signal) (x : BundleState) (a' : Nat) : (setBundle g x s).queue a' = s.queue a' := rfl
@[simp] theorem setBundle_stagePort (g : Signal) (x : BundleState) (a' : Nat) : (setBundle g x s).stagePort a' = s.stagePort a' := rfl
@[simp] theorem setBundle_red (g : Signal) (x : BundleState) (a' : Nat) : (setBundle g x s).red a' = s.red a' := rfl
@[simp] theorem setBundle_hostQ (g : Signal) (x : BundleState) (a' : Nat) : (setBundle g x s).hostQ a' = s.hostQ a' := rfl
@[simp] theorem setBundle_panSlot (g : Signal) (x : BundleState) (a' : Nat) : (setBundle g x s).panSlot a' = s.panSlot a' := rfl

@[simp] theorem setDom_reg (d : Nat) (x : TideDom) (a' : Nat) : (setDom d x s).reg a' = s.reg a' := rfl
@[simp] theorem setDom_fld (d : Nat) (x : TideDom) (a' : Nat) (fl : Fld) : (setDom d x s).fld a' fl = s.fld a' fl := rfl
@[simp] theorem setDom_on (d : Nat) (x : TideDom) (a' : Nat) (fl : Fld) : (setDom d x s).on a' fl = s.on a' fl := rfl
@[simp] theorem setDom_byte (d : Nat) (x : TideDom) (a' : Nat) : (setDom d x s).byte a' = s.byte a' := rfl
@[simp] theorem setDom_tile (d : Nat) (x : TideDom) (a' : Nat) : (setDom d x s).tile a' = s.tile a' := rfl
@[simp] theorem setDom_ctx (d : Nat) (x : TideDom) (a' : Nat) : (setDom d x s).ctx a' = s.ctx a' := rfl
@[simp] theorem setDom_part (d : Nat) (x : TideDom) (a' : Nat) : (setDom d x s).part a' = s.part a' := rfl
@[simp] theorem setDom_port (d : Nat) (x : TideDom) (a' : Nat) : (setDom d x s).port a' = s.port a' := rfl
@[simp] theorem setDom_queue (d : Nat) (x : TideDom) (a' : Nat) : (setDom d x s).queue a' = s.queue a' := rfl
@[simp] theorem setDom_stagePort (d : Nat) (x : TideDom) (a' : Nat) : (setDom d x s).stagePort a' = s.stagePort a' := rfl
@[simp] theorem setDom_red (d : Nat) (x : TideDom) (a' : Nat) : (setDom d x s).red a' = s.red a' := rfl
@[simp] theorem setDom_hostQ (d : Nat) (x : TideDom) (a' : Nat) : (setDom d x s).hostQ a' = s.hostQ a' := rfl
@[simp] theorem setDom_panSlot (d : Nat) (x : TideDom) (a' : Nat) : (setDom d x s).panSlot a' = s.panSlot a' := rfl

@[simp] theorem setTile_reg (p : Nat) (x : TileState) (a' : Nat) : (setTile p x s).reg a' = s.reg a' := rfl
@[simp] theorem setTile_fld (p : Nat) (x : TileState) (a' : Nat) (fl : Fld) : (setTile p x s).fld a' fl = s.fld a' fl := rfl
@[simp] theorem setTile_on (p : Nat) (x : TileState) (a' : Nat) (fl : Fld) : (setTile p x s).on a' fl = s.on a' fl := rfl
@[simp] theorem setTile_byte (p : Nat) (x : TileState) (a' : Nat) : (setTile p x s).byte a' = s.byte a' := rfl
@[simp] theorem setTile_dom (p : Nat) (x : TileState) (a' : Nat) : (setTile p x s).dom a' = s.dom a' := rfl
@[simp] theorem setTile_ctx (p : Nat) (x : TileState) (a' : Nat) : (setTile p x s).ctx a' = s.ctx a' := rfl
@[simp] theorem setTile_part (p : Nat) (x : TileState) (a' : Nat) : (setTile p x s).part a' = s.part a' := rfl
@[simp] theorem setTile_port (p : Nat) (x : TileState) (a' : Nat) : (setTile p x s).port a' = s.port a' := rfl
@[simp] theorem setTile_queue (p : Nat) (x : TileState) (a' : Nat) : (setTile p x s).queue a' = s.queue a' := rfl
@[simp] theorem setTile_stagePort (p : Nat) (x : TileState) (a' : Nat) : (setTile p x s).stagePort a' = s.stagePort a' := rfl
@[simp] theorem setTile_red (p : Nat) (x : TileState) (a' : Nat) : (setTile p x s).red a' = s.red a' := rfl
@[simp] theorem setTile_hostQ (p : Nat) (x : TileState) (a' : Nat) : (setTile p x s).hostQ a' = s.hostQ a' := rfl
@[simp] theorem setTile_panSlot (p : Nat) (x : TileState) (a' : Nat) : (setTile p x s).panSlot a' = s.panSlot a' := rfl

@[simp] theorem setCtx_reg (c : Nat) (x : CtxExtra) (a' : Nat) : (setCtx c x s).reg a' = s.reg a' := rfl
@[simp] theorem setCtx_fld (c : Nat) (x : CtxExtra) (a' : Nat) (fl : Fld) : (setCtx c x s).fld a' fl = s.fld a' fl := rfl
@[simp] theorem setCtx_on (c : Nat) (x : CtxExtra) (a' : Nat) (fl : Fld) : (setCtx c x s).on a' fl = s.on a' fl := rfl
@[simp] theorem setCtx_byte (c : Nat) (x : CtxExtra) (a' : Nat) : (setCtx c x s).byte a' = s.byte a' := rfl
@[simp] theorem setCtx_tile (c : Nat) (x : CtxExtra) (a' : Nat) : (setCtx c x s).tile a' = s.tile a' := rfl
@[simp] theorem setCtx_dom (c : Nat) (x : CtxExtra) (a' : Nat) : (setCtx c x s).dom a' = s.dom a' := rfl
@[simp] theorem setCtx_part (c : Nat) (x : CtxExtra) (a' : Nat) : (setCtx c x s).part a' = s.part a' := rfl
@[simp] theorem setCtx_port (c : Nat) (x : CtxExtra) (a' : Nat) : (setCtx c x s).port a' = s.port a' := rfl
@[simp] theorem setCtx_queue (c : Nat) (x : CtxExtra) (a' : Nat) : (setCtx c x s).queue a' = s.queue a' := rfl
@[simp] theorem setCtx_stagePort (c : Nat) (x : CtxExtra) (a' : Nat) : (setCtx c x s).stagePort a' = s.stagePort a' := rfl
@[simp] theorem setCtx_red (c : Nat) (x : CtxExtra) (a' : Nat) : (setCtx c x s).red a' = s.red a' := rfl
@[simp] theorem setCtx_hostQ (c : Nat) (x : CtxExtra) (a' : Nat) : (setCtx c x s).hostQ a' = s.hostQ a' := rfl
@[simp] theorem setCtx_panSlot (c : Nat) (x : CtxExtra) (a' : Nat) : (setCtx c x s).panSlot a' = s.panSlot a' := rfl

@[simp] theorem setPart_reg (q : Nat) (x : PartState) (a' : Nat) : (setPart q x s).reg a' = s.reg a' := rfl
@[simp] theorem setPart_fld (q : Nat) (x : PartState) (a' : Nat) (fl : Fld) : (setPart q x s).fld a' fl = s.fld a' fl := rfl
@[simp] theorem setPart_on (q : Nat) (x : PartState) (a' : Nat) (fl : Fld) : (setPart q x s).on a' fl = s.on a' fl := rfl
@[simp] theorem setPart_byte (q : Nat) (x : PartState) (a' : Nat) : (setPart q x s).byte a' = s.byte a' := rfl
@[simp] theorem setPart_tile (q : Nat) (x : PartState) (a' : Nat) : (setPart q x s).tile a' = s.tile a' := rfl
@[simp] theorem setPart_dom (q : Nat) (x : PartState) (a' : Nat) : (setPart q x s).dom a' = s.dom a' := rfl
@[simp] theorem setPart_ctx (q : Nat) (x : PartState) (a' : Nat) : (setPart q x s).ctx a' = s.ctx a' := rfl
@[simp] theorem setPart_port (q : Nat) (x : PartState) (a' : Nat) : (setPart q x s).port a' = s.port a' := rfl
@[simp] theorem setPart_queue (q : Nat) (x : PartState) (a' : Nat) : (setPart q x s).queue a' = s.queue a' := rfl
@[simp] theorem setPart_stagePort (q : Nat) (x : PartState) (a' : Nat) : (setPart q x s).stagePort a' = s.stagePort a' := rfl
@[simp] theorem setPart_red (q : Nat) (x : PartState) (a' : Nat) : (setPart q x s).red a' = s.red a' := rfl
@[simp] theorem setPart_hostQ (q : Nat) (x : PartState) (a' : Nat) : (setPart q x s).hostQ a' = s.hostQ a' := rfl
@[simp] theorem setPart_panSlot (q : Nat) (x : PartState) (a' : Nat) : (setPart q x s).panSlot a' = s.panSlot a' := rfl

@[simp] theorem setPort_reg (p : Nat) (x : PortState) (a' : Nat) : (setPort p x s).reg a' = s.reg a' := rfl
@[simp] theorem setPort_fld (p : Nat) (x : PortState) (a' : Nat) (fl : Fld) : (setPort p x s).fld a' fl = s.fld a' fl := rfl
@[simp] theorem setPort_on (p : Nat) (x : PortState) (a' : Nat) (fl : Fld) : (setPort p x s).on a' fl = s.on a' fl := rfl
@[simp] theorem setPort_byte (p : Nat) (x : PortState) (a' : Nat) : (setPort p x s).byte a' = s.byte a' := rfl
@[simp] theorem setPort_tile (p : Nat) (x : PortState) (a' : Nat) : (setPort p x s).tile a' = s.tile a' := rfl
@[simp] theorem setPort_dom (p : Nat) (x : PortState) (a' : Nat) : (setPort p x s).dom a' = s.dom a' := rfl
@[simp] theorem setPort_ctx (p : Nat) (x : PortState) (a' : Nat) : (setPort p x s).ctx a' = s.ctx a' := rfl
@[simp] theorem setPort_part (p : Nat) (x : PortState) (a' : Nat) : (setPort p x s).part a' = s.part a' := rfl
@[simp] theorem setPort_queue (p : Nat) (x : PortState) (a' : Nat) : (setPort p x s).queue a' = s.queue a' := rfl
@[simp] theorem setPort_stagePort (p : Nat) (x : PortState) (a' : Nat) : (setPort p x s).stagePort a' = s.stagePort a' := rfl
@[simp] theorem setPort_red (p : Nat) (x : PortState) (a' : Nat) : (setPort p x s).red a' = s.red a' := rfl
@[simp] theorem setPort_hostQ (p : Nat) (x : PortState) (a' : Nat) : (setPort p x s).hostQ a' = s.hostQ a' := rfl
@[simp] theorem setPort_panSlot (p : Nat) (x : PortState) (a' : Nat) : (setPort p x s).panSlot a' = s.panSlot a' := rfl

@[simp] theorem closeReq_reg (t : Nat) (a' : Nat) : (closeReq t s).reg a' = s.reg a' := rfl
@[simp] theorem closeReq_fld (t : Nat) (a' : Nat) (fl : Fld) : (closeReq t s).fld a' fl = s.fld a' fl := rfl
@[simp] theorem closeReq_on (t : Nat) (a' : Nat) (fl : Fld) : (closeReq t s).on a' fl = s.on a' fl := rfl
@[simp] theorem closeReq_byte (t : Nat) (a' : Nat) : (closeReq t s).byte a' = s.byte a' := rfl
@[simp] theorem closeReq_tile (t : Nat) (a' : Nat) : (closeReq t s).tile a' = s.tile a' := rfl
@[simp] theorem closeReq_dom (t : Nat) (a' : Nat) : (closeReq t s).dom a' = s.dom a' := rfl
@[simp] theorem closeReq_ctx (t : Nat) (a' : Nat) : (closeReq t s).ctx a' = s.ctx a' := rfl
@[simp] theorem closeReq_part (t : Nat) (a' : Nat) : (closeReq t s).part a' = s.part a' := rfl
@[simp] theorem closeReq_port (t : Nat) (a' : Nat) : (closeReq t s).port a' = s.port a' := rfl
@[simp] theorem closeReq_queue (t : Nat) (a' : Nat) : (closeReq t s).queue a' = s.queue a' := rfl
@[simp] theorem closeReq_stagePort (t : Nat) (a' : Nat) : (closeReq t s).stagePort a' = s.stagePort a' := rfl
@[simp] theorem closeReq_red (t : Nat) (a' : Nat) : (closeReq t s).red a' = s.red a' := rfl
@[simp] theorem closeReq_hostQ (t : Nat) (a' : Nat) : (closeReq t s).hostQ a' = s.hostQ a' := rfl
@[simp] theorem closeReq_panSlot (t : Nat) (a' : Nat) : (closeReq t s).panSlot a' = s.panSlot a' := rfl

@[simp] theorem setRmap_reg (d sl : Nat) (x : RankMap) (a' : Nat) : (setRmap d sl x s).reg a' = s.reg a' := rfl
@[simp] theorem setRmap_fld (d sl : Nat) (x : RankMap) (a' : Nat) (fl : Fld) : (setRmap d sl x s).fld a' fl = s.fld a' fl := rfl
@[simp] theorem setRmap_on (d sl : Nat) (x : RankMap) (a' : Nat) (fl : Fld) : (setRmap d sl x s).on a' fl = s.on a' fl := rfl
@[simp] theorem setRmap_byte (d sl : Nat) (x : RankMap) (a' : Nat) : (setRmap d sl x s).byte a' = s.byte a' := rfl
@[simp] theorem setRmap_tile (d sl : Nat) (x : RankMap) (a' : Nat) : (setRmap d sl x s).tile a' = s.tile a' := rfl
@[simp] theorem setRmap_dom (d sl : Nat) (x : RankMap) (a' : Nat) : (setRmap d sl x s).dom a' = s.dom a' := rfl
@[simp] theorem setRmap_ctx (d sl : Nat) (x : RankMap) (a' : Nat) : (setRmap d sl x s).ctx a' = s.ctx a' := rfl
@[simp] theorem setRmap_part (d sl : Nat) (x : RankMap) (a' : Nat) : (setRmap d sl x s).part a' = s.part a' := rfl
@[simp] theorem setRmap_port (d sl : Nat) (x : RankMap) (a' : Nat) : (setRmap d sl x s).port a' = s.port a' := rfl
@[simp] theorem setRmap_queue (d sl : Nat) (x : RankMap) (a' : Nat) : (setRmap d sl x s).queue a' = s.queue a' := rfl
@[simp] theorem setRmap_stagePort (d sl : Nat) (x : RankMap) (a' : Nat) : (setRmap d sl x s).stagePort a' = s.stagePort a' := rfl
@[simp] theorem setRmap_red (d sl : Nat) (x : RankMap) (a' : Nat) : (setRmap d sl x s).red a' = s.red a' := rfl
@[simp] theorem setRmap_hostQ (d sl : Nat) (x : RankMap) (a' : Nat) : (setRmap d sl x s).hostQ a' = s.hostQ a' := rfl
@[simp] theorem setRmap_panSlot (d sl : Nat) (x : RankMap) (a' : Nat) : (setRmap d sl x s).panSlot a' = s.panSlot a' := rfl

@[simp] theorem setQueue_reg (q : Nat) (x : StrQueue) (a' : Nat) : (setQueue q x s).reg a' = s.reg a' := rfl
@[simp] theorem setQueue_fld (q : Nat) (x : StrQueue) (a' : Nat) (fl : Fld) : (setQueue q x s).fld a' fl = s.fld a' fl := rfl
@[simp] theorem setQueue_on (q : Nat) (x : StrQueue) (a' : Nat) (fl : Fld) : (setQueue q x s).on a' fl = s.on a' fl := rfl
@[simp] theorem setQueue_byte (q : Nat) (x : StrQueue) (a' : Nat) : (setQueue q x s).byte a' = s.byte a' := rfl
@[simp] theorem setQueue_tile (q : Nat) (x : StrQueue) (a' : Nat) : (setQueue q x s).tile a' = s.tile a' := rfl
@[simp] theorem setQueue_dom (q : Nat) (x : StrQueue) (a' : Nat) : (setQueue q x s).dom a' = s.dom a' := rfl
@[simp] theorem setQueue_ctx (q : Nat) (x : StrQueue) (a' : Nat) : (setQueue q x s).ctx a' = s.ctx a' := rfl
@[simp] theorem setQueue_part (q : Nat) (x : StrQueue) (a' : Nat) : (setQueue q x s).part a' = s.part a' := rfl
@[simp] theorem setQueue_port (q : Nat) (x : StrQueue) (a' : Nat) : (setQueue q x s).port a' = s.port a' := rfl
@[simp] theorem setQueue_stagePort (q : Nat) (x : StrQueue) (a' : Nat) : (setQueue q x s).stagePort a' = s.stagePort a' := rfl
@[simp] theorem setQueue_red (q : Nat) (x : StrQueue) (a' : Nat) : (setQueue q x s).red a' = s.red a' := rfl
@[simp] theorem setQueue_hostQ (q : Nat) (x : StrQueue) (a' : Nat) : (setQueue q x s).hostQ a' = s.hostQ a' := rfl
@[simp] theorem setQueue_panSlot (q : Nat) (x : StrQueue) (a' : Nat) : (setQueue q x s).panSlot a' = s.panSlot a' := rfl

@[simp] theorem setStagePort_reg (p : Nat) (x : StagePort) (a' : Nat) : (setStagePort p x s).reg a' = s.reg a' := rfl
@[simp] theorem setStagePort_fld (p : Nat) (x : StagePort) (a' : Nat) (fl : Fld) : (setStagePort p x s).fld a' fl = s.fld a' fl := rfl
@[simp] theorem setStagePort_on (p : Nat) (x : StagePort) (a' : Nat) (fl : Fld) : (setStagePort p x s).on a' fl = s.on a' fl := rfl
@[simp] theorem setStagePort_byte (p : Nat) (x : StagePort) (a' : Nat) : (setStagePort p x s).byte a' = s.byte a' := rfl
@[simp] theorem setStagePort_tile (p : Nat) (x : StagePort) (a' : Nat) : (setStagePort p x s).tile a' = s.tile a' := rfl
@[simp] theorem setStagePort_dom (p : Nat) (x : StagePort) (a' : Nat) : (setStagePort p x s).dom a' = s.dom a' := rfl
@[simp] theorem setStagePort_ctx (p : Nat) (x : StagePort) (a' : Nat) : (setStagePort p x s).ctx a' = s.ctx a' := rfl
@[simp] theorem setStagePort_part (p : Nat) (x : StagePort) (a' : Nat) : (setStagePort p x s).part a' = s.part a' := rfl
@[simp] theorem setStagePort_port (p : Nat) (x : StagePort) (a' : Nat) : (setStagePort p x s).port a' = s.port a' := rfl
@[simp] theorem setStagePort_queue (p : Nat) (x : StagePort) (a' : Nat) : (setStagePort p x s).queue a' = s.queue a' := rfl
@[simp] theorem setStagePort_red (p : Nat) (x : StagePort) (a' : Nat) : (setStagePort p x s).red a' = s.red a' := rfl
@[simp] theorem setStagePort_hostQ (p : Nat) (x : StagePort) (a' : Nat) : (setStagePort p x s).hostQ a' = s.hostQ a' := rfl
@[simp] theorem setStagePort_panSlot (p : Nat) (x : StagePort) (a' : Nat) : (setStagePort p x s).panSlot a' = s.panSlot a' := rfl

@[simp] theorem setVersion_reg (l v : Nat) (x : Version) (a' : Nat) : (setVersion l v x s).reg a' = s.reg a' := rfl
@[simp] theorem setVersion_fld (l v : Nat) (x : Version) (a' : Nat) (fl : Fld) : (setVersion l v x s).fld a' fl = s.fld a' fl := rfl
@[simp] theorem setVersion_on (l v : Nat) (x : Version) (a' : Nat) (fl : Fld) : (setVersion l v x s).on a' fl = s.on a' fl := rfl
@[simp] theorem setVersion_byte (l v : Nat) (x : Version) (a' : Nat) : (setVersion l v x s).byte a' = s.byte a' := rfl
@[simp] theorem setVersion_tile (l v : Nat) (x : Version) (a' : Nat) : (setVersion l v x s).tile a' = s.tile a' := rfl
@[simp] theorem setVersion_dom (l v : Nat) (x : Version) (a' : Nat) : (setVersion l v x s).dom a' = s.dom a' := rfl
@[simp] theorem setVersion_ctx (l v : Nat) (x : Version) (a' : Nat) : (setVersion l v x s).ctx a' = s.ctx a' := rfl
@[simp] theorem setVersion_part (l v : Nat) (x : Version) (a' : Nat) : (setVersion l v x s).part a' = s.part a' := rfl
@[simp] theorem setVersion_port (l v : Nat) (x : Version) (a' : Nat) : (setVersion l v x s).port a' = s.port a' := rfl
@[simp] theorem setVersion_queue (l v : Nat) (x : Version) (a' : Nat) : (setVersion l v x s).queue a' = s.queue a' := rfl
@[simp] theorem setVersion_stagePort (l v : Nat) (x : Version) (a' : Nat) : (setVersion l v x s).stagePort a' = s.stagePort a' := rfl
@[simp] theorem setVersion_red (l v : Nat) (x : Version) (a' : Nat) : (setVersion l v x s).red a' = s.red a' := rfl
@[simp] theorem setVersion_hostQ (l v : Nat) (x : Version) (a' : Nat) : (setVersion l v x s).hostQ a' = s.hostQ a' := rfl
@[simp] theorem setVersion_panSlot (l v : Nat) (x : Version) (a' : Nat) : (setVersion l v x s).panSlot a' = s.panSlot a' := rfl

@[simp] theorem setReplay_reg (d : Nat) (x : ReplayDom) (a' : Nat) : (setReplay d x s).reg a' = s.reg a' := rfl
@[simp] theorem setReplay_fld (d : Nat) (x : ReplayDom) (a' : Nat) (fl : Fld) : (setReplay d x s).fld a' fl = s.fld a' fl := rfl
@[simp] theorem setReplay_on (d : Nat) (x : ReplayDom) (a' : Nat) (fl : Fld) : (setReplay d x s).on a' fl = s.on a' fl := rfl
@[simp] theorem setReplay_byte (d : Nat) (x : ReplayDom) (a' : Nat) : (setReplay d x s).byte a' = s.byte a' := rfl
@[simp] theorem setReplay_tile (d : Nat) (x : ReplayDom) (a' : Nat) : (setReplay d x s).tile a' = s.tile a' := rfl
@[simp] theorem setReplay_dom (d : Nat) (x : ReplayDom) (a' : Nat) : (setReplay d x s).dom a' = s.dom a' := rfl
@[simp] theorem setReplay_ctx (d : Nat) (x : ReplayDom) (a' : Nat) : (setReplay d x s).ctx a' = s.ctx a' := rfl
@[simp] theorem setReplay_part (d : Nat) (x : ReplayDom) (a' : Nat) : (setReplay d x s).part a' = s.part a' := rfl
@[simp] theorem setReplay_port (d : Nat) (x : ReplayDom) (a' : Nat) : (setReplay d x s).port a' = s.port a' := rfl
@[simp] theorem setReplay_queue (d : Nat) (x : ReplayDom) (a' : Nat) : (setReplay d x s).queue a' = s.queue a' := rfl
@[simp] theorem setReplay_stagePort (d : Nat) (x : ReplayDom) (a' : Nat) : (setReplay d x s).stagePort a' = s.stagePort a' := rfl
@[simp] theorem setReplay_red (d : Nat) (x : ReplayDom) (a' : Nat) : (setReplay d x s).red a' = s.red a' := rfl
@[simp] theorem setReplay_hostQ (d : Nat) (x : ReplayDom) (a' : Nat) : (setReplay d x s).hostQ a' = s.hostQ a' := rfl
@[simp] theorem setReplay_panSlot (d : Nat) (x : ReplayDom) (a' : Nat) : (setReplay d x s).panSlot a' = s.panSlot a' := rfl

@[simp] theorem setRed_reg (l : Nat) (x : RedLayer) (a' : Nat) : (setRed l x s).reg a' = s.reg a' := rfl
@[simp] theorem setRed_fld (l : Nat) (x : RedLayer) (a' : Nat) (fl : Fld) : (setRed l x s).fld a' fl = s.fld a' fl := rfl
@[simp] theorem setRed_on (l : Nat) (x : RedLayer) (a' : Nat) (fl : Fld) : (setRed l x s).on a' fl = s.on a' fl := rfl
@[simp] theorem setRed_byte (l : Nat) (x : RedLayer) (a' : Nat) : (setRed l x s).byte a' = s.byte a' := rfl
@[simp] theorem setRed_tile (l : Nat) (x : RedLayer) (a' : Nat) : (setRed l x s).tile a' = s.tile a' := rfl
@[simp] theorem setRed_dom (l : Nat) (x : RedLayer) (a' : Nat) : (setRed l x s).dom a' = s.dom a' := rfl
@[simp] theorem setRed_ctx (l : Nat) (x : RedLayer) (a' : Nat) : (setRed l x s).ctx a' = s.ctx a' := rfl
@[simp] theorem setRed_part (l : Nat) (x : RedLayer) (a' : Nat) : (setRed l x s).part a' = s.part a' := rfl
@[simp] theorem setRed_port (l : Nat) (x : RedLayer) (a' : Nat) : (setRed l x s).port a' = s.port a' := rfl
@[simp] theorem setRed_queue (l : Nat) (x : RedLayer) (a' : Nat) : (setRed l x s).queue a' = s.queue a' := rfl
@[simp] theorem setRed_stagePort (l : Nat) (x : RedLayer) (a' : Nat) : (setRed l x s).stagePort a' = s.stagePort a' := rfl
@[simp] theorem setRed_hostQ (l : Nat) (x : RedLayer) (a' : Nat) : (setRed l x s).hostQ a' = s.hostQ a' := rfl
@[simp] theorem setRed_panSlot (l : Nat) (x : RedLayer) (a' : Nat) : (setRed l x s).panSlot a' = s.panSlot a' := rfl

@[simp] theorem setUpd_reg (k : Nat) (x : Option UpdRun) (a' : Nat) : (setUpd k x s).reg a' = s.reg a' := rfl
@[simp] theorem setUpd_fld (k : Nat) (x : Option UpdRun) (a' : Nat) (fl : Fld) : (setUpd k x s).fld a' fl = s.fld a' fl := rfl
@[simp] theorem setUpd_on (k : Nat) (x : Option UpdRun) (a' : Nat) (fl : Fld) : (setUpd k x s).on a' fl = s.on a' fl := rfl
@[simp] theorem setUpd_byte (k : Nat) (x : Option UpdRun) (a' : Nat) : (setUpd k x s).byte a' = s.byte a' := rfl
@[simp] theorem setUpd_tile (k : Nat) (x : Option UpdRun) (a' : Nat) : (setUpd k x s).tile a' = s.tile a' := rfl
@[simp] theorem setUpd_dom (k : Nat) (x : Option UpdRun) (a' : Nat) : (setUpd k x s).dom a' = s.dom a' := rfl
@[simp] theorem setUpd_ctx (k : Nat) (x : Option UpdRun) (a' : Nat) : (setUpd k x s).ctx a' = s.ctx a' := rfl
@[simp] theorem setUpd_part (k : Nat) (x : Option UpdRun) (a' : Nat) : (setUpd k x s).part a' = s.part a' := rfl
@[simp] theorem setUpd_port (k : Nat) (x : Option UpdRun) (a' : Nat) : (setUpd k x s).port a' = s.port a' := rfl
@[simp] theorem setUpd_queue (k : Nat) (x : Option UpdRun) (a' : Nat) : (setUpd k x s).queue a' = s.queue a' := rfl
@[simp] theorem setUpd_stagePort (k : Nat) (x : Option UpdRun) (a' : Nat) : (setUpd k x s).stagePort a' = s.stagePort a' := rfl
@[simp] theorem setUpd_red (k : Nat) (x : Option UpdRun) (a' : Nat) : (setUpd k x s).red a' = s.red a' := rfl
@[simp] theorem setUpd_hostQ (k : Nat) (x : Option UpdRun) (a' : Nat) : (setUpd k x s).hostQ a' = s.hostQ a' := rfl
@[simp] theorem setUpd_panSlot (k : Nat) (x : Option UpdRun) (a' : Nat) : (setUpd k x s).panSlot a' = s.panSlot a' := rfl

@[simp] theorem setPanSlot_reg (n : Nat) (x : PanSlot) (a' : Nat) : (setPanSlot n x s).reg a' = s.reg a' := rfl
@[simp] theorem setPanSlot_fld (n : Nat) (x : PanSlot) (a' : Nat) (fl : Fld) : (setPanSlot n x s).fld a' fl = s.fld a' fl := rfl
@[simp] theorem setPanSlot_on (n : Nat) (x : PanSlot) (a' : Nat) (fl : Fld) : (setPanSlot n x s).on a' fl = s.on a' fl := rfl
@[simp] theorem setPanSlot_byte (n : Nat) (x : PanSlot) (a' : Nat) : (setPanSlot n x s).byte a' = s.byte a' := rfl
@[simp] theorem setPanSlot_tile (n : Nat) (x : PanSlot) (a' : Nat) : (setPanSlot n x s).tile a' = s.tile a' := rfl
@[simp] theorem setPanSlot_dom (n : Nat) (x : PanSlot) (a' : Nat) : (setPanSlot n x s).dom a' = s.dom a' := rfl
@[simp] theorem setPanSlot_ctx (n : Nat) (x : PanSlot) (a' : Nat) : (setPanSlot n x s).ctx a' = s.ctx a' := rfl
@[simp] theorem setPanSlot_part (n : Nat) (x : PanSlot) (a' : Nat) : (setPanSlot n x s).part a' = s.part a' := rfl
@[simp] theorem setPanSlot_port (n : Nat) (x : PanSlot) (a' : Nat) : (setPanSlot n x s).port a' = s.port a' := rfl
@[simp] theorem setPanSlot_queue (n : Nat) (x : PanSlot) (a' : Nat) : (setPanSlot n x s).queue a' = s.queue a' := rfl
@[simp] theorem setPanSlot_stagePort (n : Nat) (x : PanSlot) (a' : Nat) : (setPanSlot n x s).stagePort a' = s.stagePort a' := rfl
@[simp] theorem setPanSlot_red (n : Nat) (x : PanSlot) (a' : Nat) : (setPanSlot n x s).red a' = s.red a' := rfl
@[simp] theorem setPanSlot_hostQ (n : Nat) (x : PanSlot) (a' : Nat) : (setPanSlot n x s).hostQ a' = s.hostQ a' := rfl

@[simp] theorem setChkRun_reg (u k : Nat) (x : Option ChkRun) (a' : Nat) : (setChkRun u k x s).reg a' = s.reg a' := rfl
@[simp] theorem setChkRun_fld (u k : Nat) (x : Option ChkRun) (a' : Nat) (fl : Fld) : (setChkRun u k x s).fld a' fl = s.fld a' fl := rfl
@[simp] theorem setChkRun_on (u k : Nat) (x : Option ChkRun) (a' : Nat) (fl : Fld) : (setChkRun u k x s).on a' fl = s.on a' fl := rfl
@[simp] theorem setChkRun_byte (u k : Nat) (x : Option ChkRun) (a' : Nat) : (setChkRun u k x s).byte a' = s.byte a' := rfl
@[simp] theorem setChkRun_tile (u k : Nat) (x : Option ChkRun) (a' : Nat) : (setChkRun u k x s).tile a' = s.tile a' := rfl
@[simp] theorem setChkRun_dom (u k : Nat) (x : Option ChkRun) (a' : Nat) : (setChkRun u k x s).dom a' = s.dom a' := rfl
@[simp] theorem setChkRun_ctx (u k : Nat) (x : Option ChkRun) (a' : Nat) : (setChkRun u k x s).ctx a' = s.ctx a' := rfl
@[simp] theorem setChkRun_part (u k : Nat) (x : Option ChkRun) (a' : Nat) : (setChkRun u k x s).part a' = s.part a' := rfl
@[simp] theorem setChkRun_port (u k : Nat) (x : Option ChkRun) (a' : Nat) : (setChkRun u k x s).port a' = s.port a' := rfl
@[simp] theorem setChkRun_queue (u k : Nat) (x : Option ChkRun) (a' : Nat) : (setChkRun u k x s).queue a' = s.queue a' := rfl
@[simp] theorem setChkRun_stagePort (u k : Nat) (x : Option ChkRun) (a' : Nat) : (setChkRun u k x s).stagePort a' = s.stagePort a' := rfl
@[simp] theorem setChkRun_red (u k : Nat) (x : Option ChkRun) (a' : Nat) : (setChkRun u k x s).red a' = s.red a' := rfl
@[simp] theorem setChkRun_hostQ (u k : Nat) (x : Option ChkRun) (a' : Nat) : (setChkRun u k x s).hostQ a' = s.hostQ a' := rfl
@[simp] theorem setChkRun_panSlot (u k : Nat) (x : Option ChkRun) (a' : Nat) : (setChkRun u k x s).panSlot a' = s.panSlot a' := rfl

@[simp] theorem setFar_reg (f : Far → Far) (a' : Nat) : (setFar f s).reg a' = s.reg a' := rfl
@[simp] theorem setFar_fld (f : Far → Far) (a' : Nat) (fl : Fld) : (setFar f s).fld a' fl = s.fld a' fl := rfl
@[simp] theorem setFar_on (f : Far → Far) (a' : Nat) (fl : Fld) : (setFar f s).on a' fl = s.on a' fl := rfl
@[simp] theorem setFar_byte (f : Far → Far) (a' : Nat) : (setFar f s).byte a' = s.byte a' := rfl
@[simp] theorem setFar_tile (f : Far → Far) (a' : Nat) : (setFar f s).tile a' = s.tile a' := rfl
@[simp] theorem setFar_dom (f : Far → Far) (a' : Nat) : (setFar f s).dom a' = s.dom a' := rfl
@[simp] theorem setFar_ctx (f : Far → Far) (a' : Nat) : (setFar f s).ctx a' = s.ctx a' := rfl
@[simp] theorem setFar_part (f : Far → Far) (a' : Nat) : (setFar f s).part a' = s.part a' := rfl
@[simp] theorem setFar_port (f : Far → Far) (a' : Nat) : (setFar f s).port a' = s.port a' := rfl
@[simp] theorem setFar_queue (f : Far → Far) (a' : Nat) : (setFar f s).queue a' = s.queue a' := rfl
@[simp] theorem setFar_stagePort (f : Far → Far) (a' : Nat) : (setFar f s).stagePort a' = s.stagePort a' := rfl
@[simp] theorem setFar_red (f : Far → Far) (a' : Nat) : (setFar f s).red a' = s.red a' := rfl
@[simp] theorem setFar_hostQ (f : Far → Far) (a' : Nat) : (setFar f s).hostQ a' = s.hostQ a' := rfl
@[simp] theorem setFar_panSlot (f : Far → Far) (a' : Nat) : (setFar f s).panSlot a' = s.panSlot a' := rfl

@[simp] theorem setHostQ_reg (c : Nat) (x : HostQueue) (a' : Nat) : (setHostQ c x s).reg a' = s.reg a' := rfl
@[simp] theorem setHostQ_fld (c : Nat) (x : HostQueue) (a' : Nat) (fl : Fld) : (setHostQ c x s).fld a' fl = s.fld a' fl := rfl
@[simp] theorem setHostQ_on (c : Nat) (x : HostQueue) (a' : Nat) (fl : Fld) : (setHostQ c x s).on a' fl = s.on a' fl := rfl
@[simp] theorem setHostQ_byte (c : Nat) (x : HostQueue) (a' : Nat) : (setHostQ c x s).byte a' = s.byte a' := rfl
@[simp] theorem setHostQ_tile (c : Nat) (x : HostQueue) (a' : Nat) : (setHostQ c x s).tile a' = s.tile a' := rfl
@[simp] theorem setHostQ_dom (c : Nat) (x : HostQueue) (a' : Nat) : (setHostQ c x s).dom a' = s.dom a' := rfl
@[simp] theorem setHostQ_ctx (c : Nat) (x : HostQueue) (a' : Nat) : (setHostQ c x s).ctx a' = s.ctx a' := rfl
@[simp] theorem setHostQ_part (c : Nat) (x : HostQueue) (a' : Nat) : (setHostQ c x s).part a' = s.part a' := rfl
@[simp] theorem setHostQ_port (c : Nat) (x : HostQueue) (a' : Nat) : (setHostQ c x s).port a' = s.port a' := rfl
@[simp] theorem setHostQ_queue (c : Nat) (x : HostQueue) (a' : Nat) : (setHostQ c x s).queue a' = s.queue a' := rfl
@[simp] theorem setHostQ_stagePort (c : Nat) (x : HostQueue) (a' : Nat) : (setHostQ c x s).stagePort a' = s.stagePort a' := rfl
@[simp] theorem setHostQ_red (c : Nat) (x : HostQueue) (a' : Nat) : (setHostQ c x s).red a' = s.red a' := rfl
@[simp] theorem setHostQ_panSlot (c : Nat) (x : HostQueue) (a' : Nat) : (setHostQ c x s).panSlot a' = s.panSlot a' := rfl

end Sys2Proof.Machine
end

