-- ==== Sys2Proof/Laws/Ops.lean ====
section
/-! SUPPORT. What the shared operations can do: register writes, the ledger's record of a posting, the statistics counters, and
the settling of what memory operations owe. -/
namespace Sys2Proof.Machine

variable {s t u : State} {W V : Nat → Prop}

/-! ### Operations that touch registers, the number of postings and the trace alone -/

/-- `t` differs from `s` at most in the registers in `W`, in the number of postings and in what has left the device, and keeps
the canonical form of the registers. -/
def Touches (W : Nat → Prop) (s t : State) : Prop :=
  (∃ r n o, t = { s with regs := r, posted := n, out := o }) ∧
    (s.RegsWf → t.RegsWf ∧ ∀ a, ¬ W a → t.reg a = s.reg a)

theorem Touches.refl (W : Nat → Prop) (s : State) : Touches W s s := ⟨⟨_, _, _, rfl⟩, fun h => ⟨h, fun _ _ => rfl⟩⟩

theorem Touches.trans (h : Touches W s t) (g : Touches W t u) : Touches W s u := by
  obtain ⟨⟨_, _, _, ht⟩, hw⟩ := h
  obtain ⟨⟨_, _, _, hu⟩, gw⟩ := g
  refine ⟨⟨_, _, _, by rw [hu, ht]⟩, fun hs => ?_⟩
  obtain ⟨h1, h2⟩ := hw hs
  obtain ⟨g1, g2⟩ := gw h1
  exact ⟨g1, fun a ha => (g2 a ha).trans (h2 a ha)⟩

theorem Touches.mono (h : Touches W s t) (hv : ∀ a, W a → V a) : Touches V s t :=
  ⟨h.1, fun hs => ⟨(h.2 hs).1, fun a ha => (h.2 hs).2 a fun hw => ha (hv a hw)⟩⟩

theorem touches_setR {off : Nat} (h : W off) (v : Word) (s : State) : Touches W s (setR off v s) :=
  ⟨⟨_, _, _, rfl⟩, fun hs => ⟨RegsWf_setR hs _ _, fun _ ha => reg_setR_ne hs _ fun e => ha (e ▸ h)⟩⟩
theorem touches_put {off : Nat} (h : W off) (f : Fld) (v : Nat) (s : State) : Touches W s (put off f v s) := touches_setR h _ s
theorem touches_raise {off : Nat} (h : W off) (f : Fld) (s : State) : Touches W s (raise off f s) := touches_setR h _ s
theorem touches_emit (o : Output) (s : State) : Touches W s (emit o s) :=
  ⟨⟨_, _, _, rfl⟩, fun hs => ⟨hs, fun _ _ => rfl⟩⟩
theorem touches_forEach {α : Type} {f : α → State → State} {l : List α} (hf : ∀ a ∈ l, ∀ t, Touches W t (f a t)) (s : State) :
    Touches W s (forEach l f s) := by
  induction l generalizing s with
  | nil => exact Touches.refl _ _
  | cons a l ih =>
    exact (hf a (List.mem_cons_self ..) s).trans (ih (fun b hb => hf b (List.mem_cons_of_mem _ hb)) _)
theorem touches_when {c : Bool} {f : State → State} (hf : ∀ t, Touches W t (f t)) (s : State) : Touches W s (when c f s) := by
  cases c
  · exact Touches.refl _ _
  · exact hf s

/-- A counter's increment touches the counter. -/
theorem touches_addCount {off : Nat} (h : W off) (n : Nat) (s : State) : Touches W s (addCount off n s) := by
  unfold addCount; dsimp only; split
  · exact (touches_put h _ _ _).trans (touches_put h _ _ _)
  · exact touches_put h _ _ _

/-- Words written to consecutive registers touch those registers. -/
theorem touches_setWords {off : Nat} {ws : List Word} (h : ∀ i < ws.length, W (off + 8 * i)) (s : State) :
    Touches W s (setWords off ws s) :=
  touches_forEach (fun x hx _ => touches_setR (h x.2 (by
    have := List.mem_zipIdx hx; omega)) _ _) s

/-- An interrupt to a vector within the PF's table is sent. -/
theorem touches_sendMsix_pf {v : Nat} (hv : v < 2048) (s : State) : Touches W s (sendMsix 0 v s) := by
  simp only [sendMsix, if_true, hv]
  exact touches_emit _ _

theorem touches_record1 (p : Posting) (s : State) : Touches IsLedger s (record1 p s) := by
  have hl : ∀ a : Nat, 0x10000 ≤ a → a < 0x20000 → IsLedger a := fun a h g => ⟨h, g⟩
  have hw (off : Nat) (ho : 0x10000 ≤ off) (ho' : off + 32 ≤ 0x20000) (t : State) :
      Touches IsLedger t (setWords off (p.words s) t) := touches_setWords (fun i hi => by
        have hi : i < 4 := by simpa [Posting.words] using hi
        exact hl _ (by omega) (by omega)) t
  unfold record1
  extract_lets ws wp full s1 s2 s3 s4 s5 s6 s7
  have h1 : Touches IsLedger s s1 := ⟨⟨_, _, _, rfl⟩, fun h => ⟨h, fun _ _ => rfl⟩⟩
  have h2 : Touches IsLedger s1 s2 := touches_addCount (hl _ (by decide) (by decide)) 1 _
  have h3 : Touches IsLedger s2 s3 := by
    unfold s3; split
    · exact (touches_raise (hl _ (by decide) (by decide)) _ _).trans (touches_addCount (hl _ (by decide) (by decide)) _ _)
    · refine (touches_put (hl _ (by decide) (by decide)) _ _ _).trans (hw _ ?_ ?_ _)
      · simp only [Reg.ERR_ENTRY]; omega
      · have := Nat.mod_lt wp (show 256 > 0 by decide)
        simp only [Reg.ERR_ENTRY]; omega
  have h4 : Touches IsLedger s3 s4 := touches_put (hl _ (by decide) (by decide)) _ _ _
  have h5 : Touches IsLedger s4 s5 := by
    unfold s5; split
    · exact Touches.refl _ _
    · exact (hw _ (by decide) (by decide) _).trans (touches_raise (hl _ (by decide) (by decide)) _ _)
  have h6 : Touches IsLedger s5 s6 := by
    unfold s6; split
    · exact Touches.refl _ _
    · exact (hw _ (by decide) (by decide) _).trans (touches_raise (hl _ (by decide) (by decide)) _ _)
  refine h1.trans (h2.trans (h3.trans (h4.trans (h5.trans (h6.trans ?_)))))
  split
  · exact Touches.refl _ _
  · refine Touches.trans (t := s7) (touches_raise (hl Reg.ERR_STATUS (by decide) (by decide)) _ _) ?_
    split
    · refine touches_sendMsix_pf ?_ _
      have := Word.get_lt (s7.reg Reg.ERR_CTRL) p.sev.vec
      cases hp : p.sev <;> simp only [hp, State.fld] at * <;> exact this
    · exact Touches.refl _ _

theorem touches_recordAll (n : Nat) (ps : List Posting) (s : State) : Touches IsLedger s (recordAll n ps s) := by
  induction n generalizing ps s with
  | zero => exact Touches.refl _ _
  | succ n ih =>
    cases ps with
    | nil => exact Touches.refl _ _
    | cons p ps => exact (touches_record1 p s).trans (ih _ _)

/-- A posting's record touches the ledger alone. -/
theorem touches_record (p : Posting) (s : State) : Touches IsLedger s (record p s) := touches_recordAll 3 [p] s

/-- A statistics counter's increment touches the counter, and the ledger where it saturates (R10). -/
theorem touches_bumpBy (off n : Nat) (s : State) : Touches (fun a => a = off ∨ IsLedger a) s (bumpBy off n s) := by
  unfold bumpBy
  dsimp only
  split
  · exact (touches_addCount (.inl rfl) n s).trans ((touches_record _ _).mono fun _ h => .inr h)
  · exact touches_addCount (.inl rfl) n s

theorem touches_bump (off : Nat) (s : State) : Touches (fun a => a = off ∨ IsLedger a) s (bump off s) := touches_bumpBy off 1 s

/-- A CORRECTED posting touches the ledger alone (R32). -/
theorem touches_postCorrected (code : Nat) (unit : LUnit) (ctx dom : Option Nat) (detail : Nat) (s : State) :
    Touches IsLedger s (postCorrected code unit ctx dom detail s) := touches_record _ _

theorem Touches.regsWf (h : Touches W s t) (hs : s.RegsWf) : t.RegsWf := (h.2 hs).1
theorem Touches.reg (h : Touches W s t) (hs : s.RegsWf) {a : Nat} (ha : ¬ W a) : t.reg a = s.reg a := (h.2 hs).2 a ha
theorem Touches.fld (h : Touches W s t) (hs : s.RegsWf) {a : Nat} (ha : ¬ W a) (f : Fld) : t.fld a f = s.fld a f := by
  rw [State.fld, h.reg hs ha, State.fld]

/-! ### What memory operations owe -/

theorem settleN_of_nothing_owed (n : Nat) (h : s.path.owed = []) : settleN n s = s := by
  cases n with
  | zero => rfl
  | succ n => simp [settleN, h]

/-- With nothing owed, settling changes nothing. -/
theorem settle_of_nothing_owed (h : s.path.owed = []) : settle s = s := by
  unfold settle
  rw [settleN_of_nothing_owed _ h]
  cases s with | mk regs mem poison acc path => ?_
  cases path
  simp_all [setPath]

/-- After settling nothing is owed. -/
@[simp] theorem settle_owed (s : State) : (settle s).path.owed = [] := rfl

end Sys2Proof.Machine
end

