-- ==== Sys2Proof/Laws/Issue.lean ====
section
/-! SUPPORT. What the sequencer of a tile does with a bundle of one slot: the faults and holds it passes, and what its issue touches. -/
namespace Sys2Proof.Machine

variable {s t u : State} {W V : Nat → Prop}

/-! ### Operations that touch registers and tiles -/

/-- `t` differs from `s` at most in the registers in `W`, in what the tiles remember, in the number of postings and in what has left
the device, and keeps the canonical form of the registers and of the tiles. -/
def Works (W : Nat → Prop) (s t : State) : Prop :=
  (∃ r n o m, t = { s with regs := r, posted := n, out := o, tiles := m }) ∧
    (s.RegsWf → t.RegsWf ∧ ∀ a, ¬ W a → t.reg a = s.reg a) ∧
    (Store.Wf (fun _ => TileState.init) s.tiles → Store.Wf (fun _ => TileState.init) t.tiles)

theorem Works.refl (W : Nat → Prop) (s : State) : Works W s s :=
  ⟨⟨_, _, _, _, rfl⟩, fun h => ⟨h, fun _ _ => rfl⟩, id⟩

theorem Works.trans (h : Works W s t) (g : Works W t u) : Works W s u := by
  obtain ⟨⟨_, _, _, _, ht⟩, hw, hm⟩ := h
  obtain ⟨⟨_, _, _, _, hu⟩, gw, gm⟩ := g
  refine ⟨⟨_, _, _, _, by rw [hu, ht]⟩, fun hs => ?_, gm ∘ hm⟩
  obtain ⟨h1, h2⟩ := hw hs
  obtain ⟨g1, g2⟩ := gw h1
  exact ⟨g1, fun a ha => (g2 a ha).trans (h2 a ha)⟩

theorem Works.mono (h : Works W s t) (hv : ∀ a, W a → V a) : Works V s t :=
  ⟨h.1, fun hs => ⟨(h.2.1 hs).1, fun a ha => (h.2.1 hs).2 a fun hw => ha (hv a hw)⟩, h.2.2⟩

theorem Touches.works (h : Touches W s t) : Works W s t := by
  obtain ⟨⟨r, n, o, ht⟩, hw⟩ := h
  exact ⟨⟨r, n, o, s.tiles, by rw [ht]⟩, hw, by rw [ht]; exact id⟩

theorem works_setTile (p : Nat) (x : TileState) (s : State) : Works W s (setTile p x s) :=
  ⟨⟨_, _, _, _, rfl⟩, fun h => ⟨h, fun _ _ => rfl⟩, fun h => Store.wf_update h _ _⟩

theorem works_when {c : Bool} {f : State → State} (hf : ∀ t, Works W t (f t)) (s : State) : Works W s (when c f s) := by
  cases c
  · exact Works.refl _ _
  · exact hf s

theorem Works.regsWf (h : Works W s t) (hs : s.RegsWf) : t.RegsWf := (h.2.1 hs).1
theorem Works.reg (h : Works W s t) (hs : s.RegsWf) {a : Nat} (ha : ¬ W a) : t.reg a = s.reg a := (h.2.1 hs).2 a ha
theorem Works.mem (h : Works W s t) : t.mem = s.mem := by obtain ⟨⟨_, _, _, _, rfl⟩, -⟩ := h; rfl
theorem Works.poison (h : Works W s t) : t.poison = s.poison := by obtain ⟨⟨_, _, _, _, rfl⟩, -⟩ := h; rfl
theorem Works.path (h : Works W s t) : t.path = s.path := by obtain ⟨⟨_, _, _, _, rfl⟩, -⟩ := h; rfl
theorem Works.acc (h : Works W s t) : t.acc = s.acc := by obtain ⟨⟨_, _, _, _, rfl⟩, -⟩ := h; rfl
theorem Works.sameMemory (h : Works W s t) : SameMemory s t :=
  ⟨fun a => by rw [State.byte, h.mem, State.byte], h.poison, h.path⟩

/-! ### The registers that every issue of a bundle may write -/

theorem works_setNext (p a : Nat) (s : State) : Works (IssueRegs p) s (setNext p a s) :=
  (works_setTile ..).trans (touches_put (.inl rfl) _ _ _).works

theorem works_ctlStacks (p : Nat) (i : Ctl) (pc : Nat) (s0 s : State) : Works (IssueRegs p) s (ctlStacks p i pc s0 s) := by
  cases i
  case call off => exact works_setTile p { s.tile p with rets := (pc + 32) :: (s.tile p).rets } s
  case ret => exact works_setTile p { s.tile p with rets := (s.tile p).rets.drop 1 } s
  case loop a off =>
    show Works _ s (if s0.sreg p a.val = 0 then s else setTile p _ s)
    split
    · exact Works.refl _ _
    · exact works_setTile p _ s
  all_goals exact Works.refl _ _

/-- Where control goes after a bundle at `pc`, and the loops that stay active. -/
theorem advancePc_eq (p : Nat) (i : Ctl) (pc : Nat) (s0 s : State) :
    ∃ a l, advancePc p i pc s0 s = setNext p a (setTile p { (ctlStacks p i pc s0 s).tile p with loops := l } (ctlStacks p i pc s0 s)) := by
  unfold advancePc
  cases ctlTarget p i pc s0 with
  | none => exact ⟨_, _, rfl⟩
  | some a => exact ⟨_, _, rfl⟩

theorem works_advancePc (p : Nat) (i : Ctl) (pc : Nat) (s0 s : State) : Works (IssueRegs p) s (advancePc p i pc s0 s) := by
  obtain ⟨a, l, h⟩ := advancePc_eq p i pc s0 s
  rw [h]
  exact (works_ctlStacks p i pc s0 s).trans ((works_setTile p _ _).trans (works_setNext p a _))

theorem works_holdBundle (p w : Nat) (b : Bundle) (s : State) : Works (IssueRegs p) s (holdBundle p w b s) :=
  (works_setTile ..).trans (touches_put (.inr (.inl rfl)) _ _ _).works

/-- Control-slot instructions after which the tile goes on (all but HALT and YIELD). -/
def goesOn : Ctl → Bool
  | .halt => false
  | .yield _ => false
  | _ => true

theorem works_afterIssue (p : Nat) {i : Ctl} (hi : goesOn i = true) (s : State) : Works (IssueRegs p) s (afterIssue p i s) := by
  have h : Works (IssueRegs p) s (when (s.tile p).stepping
      (fun s => setTileSt p TileSt.STOPPED (setTile p { s.tile p with stepping := false } s)) s) :=
    works_when (fun t => (works_setTile ..).trans (touches_put (.inr (.inl rfl)) _ _ _).works) _
  unfold afterIssue
  extract_lets c x
  cases i <;> first | exact h | simp [goesOn] at hi

/-- The state with every slot's effect and the next PC, before the issue is counted. -/
def issued (p : Nat) (b : Bundle) (timed : Bool) (s0 : State) : State :=
  advancePc p b.ctl (s0.tpc p) s0 (movEffect p b.mov s0 (vecEffect p b.vec (s0.tpc p) s0
    (matEffect p b.mat (s0.tpc p) s0 (ctlEffect p b.ctl timed s0 s0))))

theorem works_afterIssue' (p : Nat) {i : Ctl} (hi : goesOn i = true) (s : State) :
    Works (fun a => a = Reg.TILE_STATUS p) s (afterIssue p i s) := by
  have h : Works (fun a => a = Reg.TILE_STATUS p) s (when (s.tile p).stepping
      (fun s => setTileSt p TileSt.STOPPED (setTile p { s.tile p with stepping := false } s)) s) :=
    works_when (fun t => (works_setTile ..).trans (touches_put (W := fun a => a = Reg.TILE_STATUS p) rfl _ _ _).works) _
  unfold afterIssue
  extract_lets c x
  cases i <;> first | exact h | simp [goesOn] at hi

/-- What follows the next PC touches the status, the count of issued bundles and the ledger. -/
theorem works_tail (p : Nat) (b : Bundle) {timed : Bool} (hi : goesOn b.ctl = true) (s0 : State) :
    Works (fun a => a = Reg.TILE_STATUS p ∨ a = Reg.TILE_BUSY p ∨ IsLedger a) (issued p b timed s0) (issueBundle p b timed s0) := by
  unfold issueBundle
  extract_lets pc s1 s2 s3 s4 s5 x s6 s7
  have h5 : Works (fun a => a = Reg.TILE_STATUS p ∨ a = Reg.TILE_BUSY p ∨ IsLedger a) s5 s6 := works_setTile ..
  refine h5.trans (Works.trans (t := s7) ?_ ((works_afterIssue' p hi s7).mono fun a h => .inl h))
  exact (touches_put (.inl rfl) _ _ _).works.trans ((touches_bump _ _).mono fun a h => .inr h).works

/-- The end of an issue: from the slots' effects to the next bundle. -/
theorem works_issue (p : Nat) (b : Bundle) {timed : Bool} (hi : goesOn b.ctl = true) (s0 : State) :
    Works (IssueRegs p)
      (movEffect p b.mov s0 (vecEffect p b.vec (s0.tpc p) s0 (matEffect p b.mat (s0.tpc p) s0 (ctlEffect p b.ctl timed s0 s0))))
      (issueBundle p b timed s0) :=
  (works_advancePc p b.ctl (s0.tpc p) s0 _).trans ((works_tail p b hi s0).mono fun _ h => .inr h)

/-- The tile after an issue: what the next PC left, with no bundle held and no step in progress. -/
theorem tile_issue (p : Nat) (b : Bundle) {timed : Bool} (hi : goesOn b.ctl = true) (s0 : State)
    (hw : Store.Wf (fun _ => TileState.init) (issued p b timed s0).tiles) :
    (issueBundle p b timed s0).tile p = { (issued p b timed s0).tile p with held := none, begun := none, stepping := false } := by
  unfold issueBundle
  extract_lets pc s1 s2 s3 s4 s5 x s6 s7
  have h6 : s6.tile p = { s5.tile p with held := none, begun := none } := tile_setTile_same s5 hw p _
  have w6 : Store.Wf (fun _ => TileState.init) s6.tiles := Store.wf_update hw _ _
  have h7 : s7.tiles = s6.tiles := by
    obtain ⟨⟨_, _, _, h⟩, -⟩ := touches_bump (Reg.TILE_BUSY p) (put (Reg.TILE_STATUS p) F.TILE_STATUS_WAIT 0 s6)
    show (bump _ _).tiles = _
    rw [h]; rfl
  have w7 : Store.Wf (fun _ => TileState.init) s7.tiles := by rw [h7]; exact w6
  have ht : s7.tile p = { s5.tile p with held := none, begun := none } := by rw [State.tile, h7]; exact h6
  have hx : (when (s7.tile p).stepping
      (fun s => setTileSt p TileSt.STOPPED (setTile p { s.tile p with stepping := false } s)) s7).tile p =
      { s5.tile p with held := none, begun := none, stepping := false } := by
    rw [ht]
    cases hst : (s5.tile p).stepping
    · rw [when_false, ht]
      cases hq : s5.tile p
      rw [hq] at hst
      simp_all
    · rw [when_true]
      show (setTile p _ s7).tile p = _
      rw [tile_setTile_same s7 w7, ht]
  show (afterIssue p b.ctl s7).tile p = { s5.tile p with held := none, begun := none, stepping := false }
  unfold afterIssue
  extract_lets c y
  cases hb : b.ctl <;> first | exact hx | (rw [hb] at hi; simp [goesOn] at hi)

/-! ### A bundle of one slot passes -/

theorem oneSlot_live (p : Nat) {g : Guard} (c : Ctl) (m : Mat) (v : Vec) (x : Mov) (s : State) (hg : s.guard p g = true) :
    (oneSlot g c m v x).live p s = oneSlot g c m v x := by
  simp [Bundle.live, oneSlot, hg]

theorem conflict_ctl (g : Guard) (i : Ctl) : (oneSlot g i .nop .nop .nop).conflict [] = none := by
  simp only [Bundle.conflict, oneSlot, vecDests, movDests, List.map_nil, List.append_nil, Option.map_eq_none_iff]
  rw [List.find?_eq_none]
  intro x hx
  simp only [List.mem_map] at hx
  obtain ⟨y, -, rfl⟩ := hx
  simp

theorem conflict_vec (g : Guard) (i : Vec) : (oneSlot g .nop .nop i .nop).conflict [] = none := by
  simp only [Bundle.conflict, oneSlot, ctlDests, movDests, List.map_nil, List.append_nil, List.nil_append, Option.map_eq_none_iff]
  rw [List.find?_eq_none]
  intro x hx
  simp only [List.mem_map] at hx
  obtain ⟨y, -, rfl⟩ := hx
  simp

theorem conflict_mov (g : Guard) (i : Mov) : (oneSlot g .nop .nop .nop i).conflict [] = none := by
  simp only [Bundle.conflict, oneSlot, ctlDests, vecDests, List.map_nil, List.append_nil, List.nil_append, Option.map_eq_none_iff]
  rw [List.find?_eq_none]
  intro x hx
  simp only [List.mem_map] at hx
  obtain ⟨y, -, rfl⟩ := hx
  simp

theorem conflict_mat (g : Guard) (i : Mat) (banks : List Nat) : (oneSlot g .nop i .nop .nop).conflict banks = none := by
  simp only [Bundle.conflict, oneSlot, ctlDests, vecDests, movDests, List.map_nil, List.append_nil, List.nil_append,
    Option.map_eq_none_iff]
  rw [List.find?_eq_none]
  intro x hx
  simp only [List.mem_map] at hx
  obtain ⟨y, -, rfl⟩ := hx
  simp

/-- A control-slot instruction that its encoding, its operands and its wait let through issues. -/
theorem presentCtl_issues {p : Nat} {g : Guard} {i : Ctl} (h : s.Takes p) (hg : s.guard p g = true) (hl : ctlLegal i = true)
    (hn : noteLookups p (oneSlot g i .nop .nop .nop) s = s) (hf : ctlFaults p i s = []) (hw : ctlWait p i (beginCtl p i s) = 0) :
    presentCtl p g i s = issueBundle p (oneSlot g i .nop .nop .nop) false (beginCtl p i s) := by
  obtain ⟨hm, hh, hpc⟩ := h
  have hb : bundleFault p (oneSlot g i .nop .nop .nop) s = none := by
    have hi : (oneSlot g i .nop .nop .nop).illegal = none := by
      simp [Bundle.illegal, oneSlot, hl, matLegal, vecLegal, movLegal]
    have hc : (oneSlot g i .nop .nop .nop).conflict (matBanks (oneSlot g i .nop .nop .nop).mat
        (s.matDesc p (oneSlot g i .nop .nop .nop).mat)) = none := conflict_ctl g i
    have hs : slotFaults p (oneSlot g i .nop .nop .nop) s = [] := by
      show (ctlFaults p i s).map _ ++ _ ++ _ ++ _ = []
      rw [hf]; rfl
    simp only [bundleFault, hi, hc, oneSlot_live p i .nop .nop .nop s hg, hs, leastFault]
  have ho : otherHold p (oneSlot g i .nop .nop .nop) s = 0 := rfl
  unfold presentCtl presentSlot
  simp only [hm, hh, hpc, Bool.not_true, Bool.false_eq_true, if_false]
  unfold presentBundle
  have hl' : (when (oneSlot g i .nop .nop .nop).illegal.isNone
      (noteLookups p (oneSlot g i .nop .nop .nop)) s) = s := by
    cases (oneSlot g i .nop .nop .nop).illegal.isNone
    · rfl
    · exact hn
  simp only [oneSlot_live p i .nop .nop .nop s hg, hl', hb, ho]
  simp only [ne_eq, not_true_eq_false, if_false]
  have : (oneSlot g i .nop .nop .nop).ctl = i := rfl
  rw [this, hw]
  simp

/-- A slot whose guard does not hold does nothing: the bundle issues as if it held NOPs. -/
theorem oneSlot_dead (p : Nat) {g : Guard} (c : Ctl) (m : Mat) (v : Vec) (x : Mov) (s : State) (hg : s.guard p g = false) :
    (oneSlot g c m v x).live p s = oneSlot g .nop .nop .nop .nop := by
  simp [Bundle.live, oneSlot, hg]

/-- The whole of what a control-slot instruction leaves whose effect touches registers in `W` alone. -/
theorem ctl_issued {p : Nat} {g : Guard} {i : Ctl} {s0 : State} (hs : s0.Sound) (hi : goesOn i = true)
    (he : Touches W s0 (ctlEffect p i false s0 s0)) (hp : Reg.TILE_PC p ≠ Reg.TILE_STATUS p ∧ Reg.TILE_PC p ≠ Reg.TILE_BUSY p ∧
      ¬ IsLedger (Reg.TILE_PC p)) :
    let b := oneSlot g i .nop .nop .nop
    let t := issueBundle p b false s0
    let e := ctlEffect p i false s0 s0
    IssueFrame p W s0 t ∧ t.path.owed = [] ∧ (∀ a, ¬ IssueRegs p a → t.reg a = e.reg a) ∧
      t.reg (Reg.TILE_PC p) = (advancePc p i (s0.tpc p) s0 e).reg (Reg.TILE_PC p) ∧
      t.tile p = { (advancePc p i (s0.tpc p) s0 e).tile p with held := none, begun := none, stepping := false } := by
  intro b t e
  have hk : Works (IssueRegs p) e t := works_issue p b hi s0
  have hall : Works (fun a => W a ∨ IssueRegs p a) s0 t :=
    (he.works.mono fun _ h => .inl h).trans (hk.mono fun _ h => .inr h)
  have hadv : Works (IssueRegs p) e (advancePc p i (s0.tpc p) s0 e) := works_advancePc ..
  have he' : Works W s0 e := he.works
  have htail := works_tail p b (timed := false) hi s0
  refine ⟨⟨fun a ha => hall.reg hs.regs ha, hall.sameMemory, hall.acc⟩, ?_, fun a ha => hk.reg (he.regsWf hs.regs) ha, ?_, ?_⟩
  · rw [hall.path]; exact hs.owed
  · refine htail.reg (hadv.regsWf (he.regsWf hs.regs)) ?_
    rintro (h | h | h)
    · exact hp.1 h
    · exact hp.2.1 h
    · exact hp.2.2 h
  · exact tile_issue p b hi s0 (hadv.2.2 (he'.2.2 hs.tiles))

/-- A control-slot instruction whose effect touches registers in `W` alone ends in a next state that has that effect and leaves the
rest (the registers of any issue apart). -/
theorem ctl_ends {p : Nat} {g : Guard} {i : Ctl} (hs : s.Sound) (h : s.Takes p) (hg : s.guard p g = true)
    (hl : ctlLegal i = true) (hn : noteLookups p (oneSlot g i .nop .nop .nop) s = s) (hf : ctlFaults p i s = [])
    (hb : beginCtl p i s = s) (hw : ctlWait p i s = 0)
    (hi : goesOn i = true) (he : Touches W s (ctlEffect p i false s s)) :
    ∃ t, settle (presentCtl p g i s) = t ∧ IssueFrame p W s t ∧
      ∀ a, ¬ IssueRegs p a → t.reg a = (ctlEffect p i false s s).reg a := by
  have hp : presentCtl p g i s = issueBundle p (oneSlot g i .nop .nop .nop) false s := by
    have := presentCtl_issues h hg hl hn hf (by rw [hb]; exact hw)
    rwa [hb] at this
  have hk : Works (IssueRegs p) (ctlEffect p i false s s) (issueBundle p (oneSlot g i .nop .nop .nop) false s) :=
    works_issue p (oneSlot g i .nop .nop .nop) hi s
  have hall : Works (fun a => W a ∨ IssueRegs p a) s (issueBundle p (oneSlot g i .nop .nop .nop) false s) :=
    (he.works.mono fun _ h => .inl h).trans (hk.mono fun _ h => .inr h)
  refine ⟨_, rfl, ?_⟩
  rw [hp, settle_of_nothing_owed (by rw [hall.path]; exact hs.owed)]
  exact ⟨⟨fun a ha => hall.reg hs.regs ha, hall.sameMemory, hall.acc⟩, fun a ha => hk.reg (he.regsWf hs.regs) ha⟩

/-! ### The registers of a tile -/

theorem pc_ne (p : Nat) (hp : p < 160) : Reg.TILE_PC p ≠ Reg.TILE_STATUS p ∧ Reg.TILE_PC p ≠ Reg.TILE_BUSY p ∧ ¬ IsLedger (Reg.TILE_PC p) := by
  simp only [IsLedger, Reg.TILE_PC, Reg.TILE_STATUS, Reg.TILE_BUSY]; omega

theorem sreg_apart (p : Fin 160) (d : Fin 32) : ¬ IssueRegs p.val (Reg.TILE_SREG p.val d.val) := by
  simp only [IssueRegs, IsLedger, Reg.TILE_SREG, Reg.TILE_PC, Reg.TILE_STATUS, Reg.TILE_BUSY]; omega
theorem areg_apart (p : Fin 160) (d : Fin 16) : ¬ IssueRegs p.val (Reg.TILE_AREG p.val d.val) := by
  simp only [IssueRegs, IsLedger, Reg.TILE_AREG, Reg.TILE_PC, Reg.TILE_STATUS, Reg.TILE_BUSY]; omega
theorem preg_apart (p : Fin 160) : ¬ IssueRegs p.val (Reg.TILE_PREG p.val) := by
  simp only [IssueRegs, IsLedger, Reg.TILE_PREG, Reg.TILE_PC, Reg.TILE_STATUS, Reg.TILE_BUSY]; omega

/-- A write of a scalar register touches it, and nothing for s0. -/
theorem touches_setSreg (p d v : Nat) (s : State) : Touches (fun a => d ≠ 0 ∧ a = Reg.TILE_SREG p d) s (setSreg p d v s) := by
  unfold setSreg
  split
  · exact Touches.refl _ _
  · exact touches_setR ⟨‹_›, rfl⟩ _ _
theorem touches_setAreg (p d v : Nat) (s : State) : Touches (fun a => a = Reg.TILE_AREG p d) s (setAreg p d v s) :=
  touches_setR (W := fun a => a = Reg.TILE_AREG p d) rfl _ _
theorem touches_setPreg (p d : Nat) (v : Bool) (s : State) : Touches (fun a => d ≠ 0 ∧ a = Reg.TILE_PREG p) s (setPreg p d v s) := by
  unfold setPreg
  split
  · exact Touches.refl _ _
  · exact touches_setR ⟨‹_›, rfl⟩ _ _

theorem sreg_setSreg (h : s.RegsWf) (p d v : Nat) : (setSreg p d v s).sreg p d = if d = 0 then 0 else v % 2 ^ 64 := by
  unfold setSreg State.sreg
  split
  · rfl
  · rw [reg_setR_same h, BitVec.toNat_ofNat]

/-- A predicate reads what was written to it, and every other as before; p0 reads 1. -/
theorem preg_setPreg (h : s.RegsWf) (p : Nat) {d : Nat} (hd : d < 64) (v : Bool) (n : Nat) :
    (setPreg p d v s).preg p n = if n = d ∧ d ≠ 0 then v else s.preg p n := by
  unfold setPreg State.preg
  by_cases hd0 : d = 0
  · subst hd0; simp
  · rw [if_neg hd0, putB, put, reg_setR_same h]
    unfold bit
    rw [Word.testBit_put _ ⟨Nat.le_refl _, hd⟩]
    by_cases hn : n = d
    · subst hn; cases v <;> simp [hd0]
    · have : ¬ (d ≤ n ∧ n ≤ d) := by omega
      simp [hn, this]

/-- The PC reads the next address where it can hold it. -/
theorem tpc_setNext (h : s.RegsWf) (p : Nat) {a : Nat} (ha : a < 2 ^ 22) (h32 : a % 32 = 0) : (setNext p a s).tpc p = a := by
  unfold setNext State.tpc
  rw [fld_put_same (s := setTile p _ s) h _ (by decide)]
  have : F.TILE_PC_PC.width = 22 := rfl
  rw [this]
  omega

theorem tile_setNext (h : Store.Wf (fun _ => TileState.init) s.tiles) (p : Nat) {a : Nat} (ha : a < 2 ^ 22) (h32 : a % 32 = 0) :
    (setNext p a s).tile p = { s.tile p with wild := none } := by
  unfold setNext
  show (setTile p _ s).tile p = _
  rw [tile_setTile_same s h]
  have ha : a < 4194304 := ha
  simp [ha, h32]

theorem loops_setTile (h : Store.Wf (fun _ => TileState.init) s.tiles) (p : Nat) (x : TileState) : (setTile p x s).tile p = x :=
  tile_setTile_same s h p x

end Sys2Proof.Machine
end

