-- ==== Sys2Proof/Laws/Memory.lean ====
section
/-! SUPPORT. Memory: a read of a byte after a write, and that every memory operation keeps the canonical form. Only `setByte`,
`zeroWhere` and `clearTm` change the list of cells; the others reach it through these. -/
namespace Sys2Proof.Machine

variable {s t u : State}

/-! ### A read after a write -/

theorem byte_setByte (h : s.MemWf) (a : Nat) (b : Byte) (x : Nat) : (setByte a b s).byte x = if x = a then b else s.byte x :=
  Store.lookup_update h a b x

/-! ### The canonical form -/

/-- `t` is in canonical form if `s` is. -/
def KeepsMem (s t : State) : Prop := s.MemWf → t.MemWf

theorem KeepsMem.refl (s : State) : KeepsMem s s := id
theorem KeepsMem.trans (h : KeepsMem s t) (g : KeepsMem t u) : KeepsMem s u := g ∘ h
theorem KeepsMem.of_eq (h : t.mem = s.mem) : KeepsMem s t := fun hs => by rw [State.MemWf, h]; exact hs

theorem Touches.keepsMem {W : Nat → Prop} (h : Touches W s t) : KeepsMem s t := by
  obtain ⟨⟨_, _, _, rfl⟩, -⟩ := h; exact id

theorem keepsMem_forEach {α : Type} {f : α → State → State} (hf : ∀ a t, KeepsMem t (f a t)) (l : List α) (s : State) :
    KeepsMem s (forEach l f s) := by
  induction l generalizing s with
  | nil => exact .refl _
  | cons a l ih => exact (hf a s).trans (ih _)

theorem keepsMem_when {c : Bool} {f : State → State} (hf : KeepsMem s (f s)) : KeepsMem s (when c f s) := by
  cases c
  · exact .refl _
  · exact hf

theorem keepsMem_bump (r : Nat) (s : State) : KeepsMem s (bump r s) := (touches_bump r s).keepsMem
theorem keepsMem_raise (r : Nat) (f : Fld) (s : State) : KeepsMem s (raise r f s) := .of_eq rfl
theorem keepsMem_setPath (f : MemPath → MemPath) (s : State) : KeepsMem s (setPath f s) := .of_eq rfl
theorem keepsMem_showLevels (s : State) : KeepsMem s (showLevels s) := .of_eq rfl
theorem keepsMem_setPoison (a : Nat) (b : Bool) (s : State) : KeepsMem s (setPoison a b s) := .of_eq rfl
theorem keepsMem_mergePoison (a c : Nat) (s : State) : KeepsMem s (mergePoison a c s) := .of_eq rfl
theorem keepsMem_recent (a w : Nat) (s : State) : KeepsMem s (recent a w s) := .of_eq rfl
theorem keepsMem_editLine (a : Nat) (f : CLine → CLine) (s : State) : KeepsMem s (editLine a f s) := .of_eq rfl
theorem keepsMem_dropLine (a : Nat) (s : State) : KeepsMem s (dropLine a s) := .of_eq rfl
theorem keepsMem_drawFree (s : State) : KeepsMem s (drawFree s).2 := .of_eq rfl
theorem keepsMem_noteOp (op c : Nat) (s : State) : KeepsMem s (noteOp op c s) := .of_eq rfl
theorem keepsMem_showInflight (c : Nat) (s : State) : KeepsMem s (showInflight c s) := .of_eq rfl
theorem keepsMem_holdDeposit (o : Nat) (d : List Byte) (m : List (Nat × Nat)) (s : State) : KeepsMem s (holdDeposit o d m s) := .of_eq rfl

/-- A byte written keeps the form. -/
theorem keepsMem_setByte (a : Nat) (b : Byte) (s : State) : KeepsMem s (setByte a b s) := fun h => Store.wf_update h a b
/-- Granules cleared keep the form. -/
theorem keepsMem_zeroWhere (p : Nat → Bool) (s : State) : KeepsMem s (zeroWhere p s) :=
  fun h => show Memory.wf (Store.clear p s.mem) from Store.wf_clear (d := fun _ => (0 : Byte)) h p
/-- A tile's memory cleared keeps the form. -/
theorem keepsMem_clearTm (l : Nat) (s : State) : KeepsMem s (clearTm l s) :=
  fun h => Store.wf_filter (d := fun _ => (0 : Byte)) (m := s.mem) h _

theorem keepsMem_setRaw (a : Nat) (d : List Byte) (s : State) : KeepsMem s (setRaw a d s) :=
  keepsMem_forEach (fun _ _ => keepsMem_setByte _ _ _) _ _

theorem keepsMem_writeDram (a : Nat) (d : List Byte) (p : Bool) (s : State) : KeepsMem s (writeDram a d p s) := by
  unfold writeDram; split <;> exact (keepsMem_setRaw _ _ _).trans (keepsMem_setPoison _ _ _)

theorem keepsMem_logUe (k a : Nat) (s : State) : KeepsMem s (logUe k a s) := by
  unfold logUe; split <;> exact .of_eq rfl

theorem keepsMem_attempt (a : Nat) (e : SymbolErrors) (s : State) : KeepsMem s (attempt a e s).1 := by
  unfold attempt; dsimp only
  split
  · exact .refl _
  · split
    · exact .refl _
    · exact keepsMem_when (keepsMem_setPoison _ _ _)
    · exact (keepsMem_bump _ _).trans (keepsMem_raise _ _ _)
    · exact .refl _
    · refine (keepsMem_drawFree s).trans ?_
      generalize (drawFree s).2 = t
      split
      · exact .refl _
      · dsimp only; exact keepsMem_writeDram _ _ _ t

theorem keepsMem_poisonLine (k a : Nat) (s : State) : KeepsMem s (poisonLine k a s) :=
  ((keepsMem_writeDram _ _ _ _).trans (keepsMem_bump _ _)).trans (keepsMem_logUe _ _ _)

theorem keepsMem_decodeRead (k a : Nat) (e1 e2 : SymbolErrors) (s : State) : KeepsMem s (decodeRead k a e1 e2 s) := by
  unfold decodeRead; dsimp only
  refine (keepsMem_attempt a e1 s).trans ?_
  split
  · exact .refl _
  · exact .refl _
  · exact keepsMem_bump _ _
  · refine (keepsMem_attempt a e2 _).trans ?_
    split
    · exact .refl _
    · exact .refl _
    · exact keepsMem_bump _ _
    · exact keepsMem_poisonLine _ _ _

theorem keepsMem_readDram (k a : Nat) (s : State) : KeepsMem s (readDram k a s).1 := by
  unfold readDram; dsimp only; split
  · exact keepsMem_decodeRead _ _ _ _ _
  · exact .refl _

theorem keepsMem_cleanLine (a : Nat) (s : State) : KeepsMem s (cleanLine a s) := by
  unfold cleanLine; split
  · split
    · exact ((keepsMem_writeDram _ _ _ _).trans (keepsMem_bump _ _)).trans (keepsMem_editLine _ _ _)
    · exact .refl _
  · exact .refl _

theorem keepsMem_allocate (a : Nat) (d : List Byte) (x y z : Bool) (s : State) : KeepsMem s (allocate a d x y z s) := by
  unfold allocate; dsimp only
  refine KeepsMem.trans ?_ ((keepsMem_setPath _ _).trans (keepsMem_recent _ _ _))
  split
  · exact (keepsMem_cleanLine _ _).trans (keepsMem_dropLine _ _)
  · exact .refl _

theorem keepsMem_hitLine (l : CLine) (h : Nat) (s : State) : KeepsMem s (hitLine l h s) :=
  (keepsMem_when (keepsMem_recent _ _ _)).trans (keepsMem_when (keepsMem_editLine _ _ _))

theorem keepsMem_writeHit (l : CLine) (m : List Bool) (d : List Byte) (h c : Nat) (s : State) : KeepsMem s (writeHit l m d h c s) := by
  unfold writeHit; split
  · exact keepsMem_mergePoison _ _ _
  · exact (keepsMem_hitLine _ _ _).trans (keepsMem_editLine _ _ _)

theorem keepsMem_writeLineMiss (a : Nat) (d : List Byte) (h : Nat) (s : State) : KeepsMem s (writeLineMiss a d h s) := by
  unfold writeLineMiss; split
  · exact keepsMem_allocate _ _ _ _ _ _
  · exact keepsMem_writeDram _ _ _ _

theorem keepsMem_closeEntry (e : WEntry) (s : State) : KeepsMem s (closeEntry e s) := by
  unfold closeEntry; dsimp only
  generalize hu : when (e.mask.all id) _ (showLevels _) = u
  refine KeepsMem.trans (t := u) (hu ▸ ((keepsMem_setPath _ _).trans (keepsMem_showLevels _)).trans (keepsMem_when (keepsMem_bump _ _))) ?_
  split
  · exact keepsMem_writeHit _ _ _ _ _ _
  · split
    · exact keepsMem_writeLineMiss _ _ _ _
    · refine KeepsMem.trans (t := (readDram 3 e.addr (bump (Reg.BC_H_WCB_RMW (s.half e.addr)) u)).1)
        ((keepsMem_bump _ _).trans (keepsMem_readDram _ _ _)) ?_
      split
      · exact keepsMem_mergePoison _ _ _
      · exact keepsMem_writeDram _ _ _ _

theorem keepsMem_closeEntries (p : WEntry → Bool) (s : State) : KeepsMem s (closeEntries p s) := keepsMem_forEach keepsMem_closeEntry _ _

theorem keepsMem_openEntry (e : WEntry) (s : State) : KeepsMem s (openEntry e s) := by
  unfold openEntry; dsimp only
  refine KeepsMem.trans ?_ ((keepsMem_setPath _ _).trans (keepsMem_showLevels _))
  split
  · split
    · exact (keepsMem_closeEntry _ _).trans (keepsMem_bump _ _)
    · exact .refl _
  · exact .refl _

theorem keepsMem_acceptWrite (w : HbmWrite) (s : State) : KeepsMem s (acceptWrite w s) := by
  unfold acceptWrite; dsimp only
  generalize hu : closeEntries _ s = u
  refine KeepsMem.trans (hu ▸ keepsMem_closeEntries _ _) ?_
  split
  · exact (keepsMem_bump _ _).trans (keepsMem_writeHit _ _ _ _ _ _)
  · generalize hv : bump _ u = v
    refine KeepsMem.trans (hv ▸ keepsMem_bump _ _) ?_
    split
    · split
      · exact (keepsMem_setPath _ _).trans (keepsMem_closeEntry _ _)
      · exact keepsMem_setPath _ _
    · split
      · exact keepsMem_writeLineMiss _ _ _ _
      · exact keepsMem_openEntry _ _

theorem keepsMem_poisonWhole (a : Nat) (s : State) : KeepsMem s (poisonWhole a s) := by
  unfold poisonWhole; dsimp only
  generalize hu : showLevels _ = u
  refine KeepsMem.trans (hu ▸ (keepsMem_setPath _ _).trans (keepsMem_showLevels _)) ?_
  split
  · exact keepsMem_editLine _ _ _
  · exact keepsMem_writeDram _ _ _ _

theorem keepsMem_holdWrite (w : HbmWrite) (s : State) : KeepsMem s (holdWrite w s) := by
  unfold holdWrite; dsimp only
  generalize hu : setPath _ s = u
  refine KeepsMem.trans (hu ▸ keepsMem_setPath _ _) ?_
  split
  · generalize hv : bump _ u = v
    refine KeepsMem.trans (hv ▸ keepsMem_bump _ _) ?_
    split
    · exact .refl _
    · exact keepsMem_setPath _ _
  · exact .refl _

theorem keepsMem_applyWrite (w : HbmWrite) (s : State) : KeepsMem s (applyWrite w s) := by
  unfold applyWrite; split
  · exact keepsMem_acceptWrite _ _
  · exact keepsMem_poisonWhole _ _
  · exact keepsMem_zeroWhere _ _
  · split
    · exact (keepsMem_dropLine _ _).trans (keepsMem_when (keepsMem_bump _ _))
    · exact .refl _

/-- A write within one line keeps the form, whether it is held or accepted. -/
theorem keepsMem_writeLine (w : HbmWrite) (s : State) : KeepsMem s (writeLine w s) := by
  unfold writeLine; split
  · exact keepsMem_holdWrite _ _
  · exact keepsMem_applyWrite _ _

/-- A write to HBM of any length keeps the form. -/
theorem keepsMem_hbmStore (p : Bool) (a : Nat) (d : List Byte) (m : List (Nat × Nat)) (h c e : Nat) (s : State) :
    KeepsMem s (hbmStore p a d m h c e s).1 := by
  unfold hbmStore; dsimp only; split
  · exact .refl _
  · exact keepsMem_forEach (fun _ _ => keepsMem_writeLine _ _) _ _

theorem keepsMem_releaseHeld (s : State) : KeepsMem s (releaseHeld s) := by
  unfold releaseHeld; dsimp only
  refine KeepsMem.trans (t := setPath _ s) (keepsMem_setPath _ _) (keepsMem_forEach (fun w t => ?_) _ _)
  split
  · exact (keepsMem_noteOp _ _ _).trans (keepsMem_showInflight _ _)
  · split
    · exact keepsMem_noteOp _ _ _
    · exact keepsMem_applyWrite _ _

/-- A read of one line keeps the form. -/
theorem keepsMem_readLine (a h : Nat) (s : State) : KeepsMem s (readLine a h s).1 := by
  unfold readLine; dsimp only
  generalize hu : closeEntries _ s = u
  refine KeepsMem.trans (hu ▸ keepsMem_closeEntries _ _) ?_
  split
  · generalize hv : bump _ u = v
    refine KeepsMem.trans (hv ▸ keepsMem_bump _ _) ?_
    dsimp only
    split
    · split
      · exact keepsMem_holdWrite _ _
      · exact (keepsMem_dropLine _ _).trans (keepsMem_when (keepsMem_bump _ _))
    · exact keepsMem_hitLine _ _ _
  · generalize hv : readDram _ _ _ = v
    refine KeepsMem.trans (hv ▸ (keepsMem_bump _ _).trans (keepsMem_readDram _ _ _)) ?_
    dsimp only
    split
    · exact keepsMem_allocate _ _ _ _ _ _
    · exact .refl _

theorem keepsMem_tmWrite (l o : Nat) (d : List Byte) (s : State) : KeepsMem s (tmWrite l o d s) :=
  (keepsMem_setRaw _ _ _).trans (.of_eq rfl)

theorem keepsMem_tmMark (l o n : Nat) (s : State) : KeepsMem s (tmMark l o n s) := by
  unfold tmMark; split
  · exact .refl _
  · exact keepsMem_forEach (fun _ _ => keepsMem_setPoison _ _ _) _ _

theorem keepsMem_tmDeposit (l o : Nat) (d : List Byte) (m : List (Nat × Nat)) (s : State) : KeepsMem s (tmDeposit l o d m s) :=
  (keepsMem_tmWrite _ _ _ _).trans (keepsMem_forEach (fun _ _ => keepsMem_tmMark _ _ _ _) _ _)

/-- A write of either memory with its poisoned parts keeps the form. -/
theorem keepsMem_writeMarked (x : Target) (d : List Byte) (m : List (Nat × Nat)) (h c e : Nat) (s : State) :
    KeepsMem s (writeMarked x d m h c e s).1 := by
  unfold writeMarked; split
  · exact keepsMem_hbmStore _ _ _ _ _ _ _ _
  · dsimp only; split
    · exact keepsMem_holdDeposit _ _ _ _
    · exact keepsMem_tmDeposit _ _ _ _ _
  · exact .refl _

/-- A fold whose every step keeps the form keeps it. -/
theorem keepsMem_foldl {α β : Type} {f : State × β → α → State × β} (hf : ∀ x a, KeepsMem x.1 (f x a).1) (l : List α) (x : State × β) :
    KeepsMem x.1 (l.foldl f x).1 := by
  induction l generalizing x with
  | nil => exact .refl _
  | cons a l ih => exact (hf x a).trans (ih _)

/-- A read of HBM of any length keeps the form. -/
theorem keepsMem_hbmRead (a n h : Nat) (s : State) : KeepsMem s (hbmRead a n h s).1 := by
  unfold hbmRead; dsimp only
  exact keepsMem_foldl (β := List Byte × Option Nat) (x := (s, [], none)) (fun x la => keepsMem_readLine la h x.1) _

/-- A read of either memory with its poisoned parts keeps the form. -/
theorem keepsMem_readMarked (x : Target) (n h : Nat) (s : State) : KeepsMem s (readMarked x n h s).1 := by
  unfold readMarked; split
  · dsimp only
    exact keepsMem_foldl (β := List Byte × List (Nat × Nat)) (x := (s, [], [])) (fun x la => keepsMem_readLine la h x.1) _
  · exact .refl _
  · exact .refl _

/-- Memory is in canonical form at reset. -/
theorem memWf_reset : State.reset.MemWf := ⟨.nil, fun _ h => nomatch h⟩

end Sys2Proof.Machine
end

