-- ==== Sys2Proof/Machine/Read.lean ====
section
/-! DEFINITION. What can be seen of the device that nothing stores: what a 64-bit read of a BAR0 register returns (R20, R22, R23, R40, R143),
the level of ALERT_N (R543), and the physical rows and columns behind the logical ones (R177). No row of the opcode table reads a
register: these are views of a state. -/
namespace Sys2Proof.Machine

/-- STG_VT_REC0 and STG_VT_REC1: the selected version record. -/
def State.versionWords (s : State) : Word × Word :=
  let x := s.version s.vtLayer s.vtVer
  let w0 : Word := 0
  let w1 : Word := 0
  ((w0.put F.STG_VT_REC0_CONTEXT x.ctx).put F.STG_VT_REC0_BASE (x.base / 4096),
   ((((w1.put F.STG_VT_REC1_REFCOUNT x.refs).put F.STG_VT_REC1_PUB_PENDING (if x.pending then 1 else 0)).put F.STG_VT_REC1_SUPERSEDE x.supersede).put
     F.STG_VT_REC1_SUP_VALID (if x.supValid then 1 else 0)).put F.STG_VT_REC1_STATE x.state)

/-- CHN_Ln_NOTICES: bit r is NOTICE of ring r. -/
def State.notices (s : State) (l : Nat) : Nat :=
  ((List.range 32).map fun r => if s.on (Reg.CHN_WM l r) F.CHN_WM_NOTICE then 2 ^ r else 0).sum

/-- A read in the space of a tile that is not dead: the windows show nothing while the tile runs. -/
def State.readTile (s : State) (p o : Nat) : Word :=
  let off := Reg.TILE_CTRL p + o
  if 0x1000 ≤ o ∧ o < 0xA000 then
    if !s.tileOpen p then 0
    else if off = Reg.TILE_SREG p 0 then 0
    else if off = Reg.TILE_PREG p then (s.reg off).put ⟨0, 0⟩ 1
    else s.reg off
  else s.reg off

/-- A read in the TIDE, FLR, STG, RED or CHN space, some of whose registers are computed. -/
def State.readView (s : State) (off : Nat) : Word :=
  let d := (off - Reg.TIDE_CTRL 0) / 0x2000
  let l := (off - 0x401000) / 0x1000
  let r := (off - 0x401000) % 0x1000 / 0x40
  if off = Reg.TIDE_DSTATUS d then (s.reg off).put F.TIDE_DSTATUS_SELF_READY (if s.selfReady d then 1 else 0)
  else if off = Reg.FLR_TRIM_DATA then s.trimData
  else if off = Reg.STG_VT_REC0 then s.versionWords.1
  else if off = Reg.STG_VT_REC1 then s.versionWords.2
  else if off = Reg.RED_LSTATE then s.redLstate
  else if 0x401000 ≤ off ∧ off = Reg.CHN_NOTICES l then BitVec.ofNat 64 (s.notices l)
  else if 0x401000 ≤ off ∧ off = Reg.CHN_HEAD l r then BitVec.ofNat 64 (s.ringHead l r)
  else s.reg off

/-- What a 64-bit read at a BAR0 offset returns. -/
def State.read (s : State) (off : Nat) : Word :=
  match unitOf off with
  | none => 0
  | some u =>
    if s.recovery && u != .mgt then 0
    else if (rowOf off).isNone || s.deadTile off then 0
    else if u = .tile then s.readTile ((off - 0x1000000) / 0x10000) ((off - 0x1000000) % 0x10000)
    else s.readView off

/-- A read of `width` bytes at a BAR0 offset: the value returned and the state after it. A read narrower than the 64-bit register
returns zero and sets the unit's BAD_WRITE (R23); a 64-bit read changes nothing. -/
def State.readAccess (s : State) (off width : Nat) : Word × State :=
  if width = 8 then (s.read off, s)
  else (0, if s.recovery && unitOf off != some .mgt then s else badWrite off s)

/-- The level of ALERT_N (R543): low while a SEEN bit of ERR_STATUS is set whose severity is enabled for interrupt. -/
def State.alertN (s : State) : Bool :=
  let shows (seen irq : Fld) := s.on Reg.ERR_STATUS seen && s.on Reg.ERR_CTRL irq
  !(shows F.ERR_STATUS_FATAL_SEEN F.ERR_CTRL_IRQ_FATAL || shows F.ERR_STATUS_CONTAINED_SEEN F.ERR_CTRL_IRQ_CONTAINED ||
    shows F.ERR_STATUS_CORRECTED_SEEN F.ERR_CTRL_IRQ_CORRECTED)

/-- The physical row or column, of 130, behind logical one `i` where two are marked bad (R177): the (i + 1)th good one. -/
def goodLine (bad0 bad1 i : Nat) : Nat := ((List.range 130).filter fun r => r ≠ bad0 ∧ r ≠ bad1).getD i 0

/-- The physical row of the array of tile `p` behind logical row `i` (R177). -/
def State.physicalRow (s : State) (p i : Nat) : Nat :=
  goodLine (s.fld (Reg.MXE_REPAIR p) F.MXE_REPAIR_BAD_ROW0) (s.fld (Reg.MXE_REPAIR p) F.MXE_REPAIR_BAD_ROW1) i

/-- The physical column of the array of tile `p` behind logical column `j` (R177). -/
def State.physicalColumn (s : State) (p j : Nat) : Nat :=
  goodLine (s.fld (Reg.MXE_REPAIR p) F.MXE_REPAIR_BAD_COL0) (s.fld (Reg.MXE_REPAIR p) F.MXE_REPAIR_BAD_COL1) j

end Sys2Proof.Machine
end

