-- ==== Sys2Proof/WellFormed.lean ====
section
/-! DEFINITION. The relations between a command's operands that its type does not already give. -/
namespace Sys2Proof

/-- A packet carries at most 256 bytes (R265). -/
def packetFits (pk : Packet) : Bool := decide (pk.payload.length ≤ 256)

/-- A comet carries at most 1 MiB (R459). -/
def cometFits (c : Comet) : Bool := decide (c.payload.length ≤ 1048576)

/-- Whether a command's operands fit together: an access width, a payload's length, a record's length. -/
def wellFormed : Instr → Bool
  | .registerWrite _ width _ => width == 1 || width == 2 || width == 4 || width == 8
  | .bcWrite addr data _ _ _ => decide (0 < data.length) && decide (addr.toNat % 64 + data.length ≤ 64)
  | .arm _ _ r => r.length == 8
  | .rearm _ _ _ r => r.length == 8
  | .message _ pk _ => packetFits pk
  | .write _ pk | .readReq _ pk | .readResp _ pk | .completion _ pk => packetFits pk
  | .mcastWrite _ pk | .mcastAck _ pk | .linkQuery _ pk | .transit _ pk => packetFits pk
  | .stageHead _ pk | .stageData _ pk | .expUp _ pk | .expDown _ pk | .sum _ pk => packetFits pk
  | .data _ _ c | .parity _ _ c | .merged c | .request c => cometFits c
  | _ => true

end Sys2Proof
end

