-- ==== Sys2Proof/Tests/Slice0.lean ====
section
/-! SUPPORT. Own tests: ill-formed commands that WellFormed refuses, single steps with values of the spec, and for every statement
with hypotheses states and operands that meet them. -/
-- One theorem after another: the many evaluations would otherwise run at once, each with a stack of its own.
set_option Elab.async false

namespace Sys2Proof.Tests
open Sys2Proof Sys2Proof.Machine

/-- Soundness as a computation. -/
def sound (s : State) : Bool :=
  decide s.RegsWf && decide s.MemWf && decide (Store.Wf (fun _ => (0 : BitVec 32)) s.acc) &&
  decide (Store.Wf (fun _ => SignalState.init) s.signals) && decide (Store.Wf (fun _ => BundleState.init) s.bundles) &&
  decide (Store.Wf (fun _ => TideDom.init) s.domains) && decide (Store.Wf (fun _ => TileState.init) s.tiles) &&
  decide (Store.Wf (fun _ => PortState.init) s.ports) && decide (Store.Wf (fun _ => RankMap.init) s.rmaps) &&
  decide (Store.Wf (fun _ => 0) s.phaseSlots) && decide (Store.Wf (fun _ => StrQueue.init) s.queues) &&
  decide (Store.Wf (fun _ => EngineTurn.init) s.turns) && decide (Store.Wf (fun _ => StagePort.init) s.stagePorts) && decide (Store.Wf (fun _ => Version.init) s.versions) &&
  decide (Store.Wf (fun _ => ReplayDom.init) s.replays) && decide (Store.Wf (fun _ => RedLayer.init) s.reds) &&
  decide (Store.Wf (fun _ => (none : Option UpdRun)) s.runs) && decide (Store.Wf (fun _ => PanSlot.init) s.panSlots) &&
  decide (Store.Wf (fun _ => (none : Option ChkRun)) s.checks) && decide (Store.Wf (fun _ => 0) s.tmErrors) && decide (Store.Wf (fun _ => CtxExtra.init) s.ctxs) &&
  decide (Store.Wf (fun _ => PartState.init) s.parts) && decide (Store.Wf (fun _ => HostQueue.init) s.hostQs) &&
  decide (Store.Wf (fun _ => 0) s.path.order) && decide (s.path.owed = []) && decide (s.path.met = []) && decide (s.dropped = [])

/-- A state whose soundness computes is sound. -/
theorem sound_of {s : State} (h : sound s = true) : s.Sound := by
  simp only [sound, Bool.and_eq_true] at h
  obtain ⟨⟨⟨⟨⟨⟨⟨⟨⟨⟨⟨⟨⟨⟨⟨⟨⟨⟨⟨⟨⟨⟨⟨⟨⟨⟨h1, h2⟩, h3⟩, h4⟩, h5⟩, h6⟩, h7⟩, h8⟩, h9⟩, h10⟩, h11⟩, h12⟩, h13⟩, h14⟩, h15⟩, h16⟩,
    h17⟩, h18⟩, h19⟩, h20⟩, h21⟩, h22⟩, h23⟩, h24⟩, h25⟩, h26⟩, h27⟩ := h
  exact ⟨of_decide_eq_true h1, of_decide_eq_true h2, of_decide_eq_true h3, of_decide_eq_true h4, of_decide_eq_true h5,
    of_decide_eq_true h6, of_decide_eq_true h7, of_decide_eq_true h8, of_decide_eq_true h9, of_decide_eq_true h10,
    of_decide_eq_true h11, of_decide_eq_true h12, of_decide_eq_true h13, of_decide_eq_true h14, of_decide_eq_true h15,
    of_decide_eq_true h16, of_decide_eq_true h17, of_decide_eq_true h18, of_decide_eq_true h19, of_decide_eq_true h20,
    of_decide_eq_true h21, of_decide_eq_true h22, of_decide_eq_true h23, of_decide_eq_true h24, of_decide_eq_true h25,
    of_decide_eq_true h26, of_decide_eq_true h27⟩

/-- What holds of the next state of a command, as a computation. -/
def ends (o : Host.Outcome State Fault Refusal) (p : State → Bool) : Bool :=
  match o with
  | .next t => p t
  | _ => false

/-- An outcome that computes to a next state is one. -/
theorem next_of_ends {o : Host.Outcome State Fault Refusal} {p : State → Bool} (h : ends o p = true) : ∃ t, o = .next t := by
  cases o with
  | next t => exact ⟨t, rfl⟩
  | fault _ => exact nomatch h
  | refused _ => exact nomatch h

/-- A guard that always holds: predicate p0, not inverted. -/
def g0 : Guard := ⟨false, 0⟩

/-- Tile 5 runs for context 3 of domain 2, at the start of its program window. -/
def base : State := State.reset |> put (Reg.TILE_STATUS 5) F.TILE_STATUS_STATE TileSt.RUNNING
  |> put (Reg.TILE_CTX 5) F.TILE_CTX_PRESENT 1 |> put (Reg.TILE_CTX 5) F.TILE_CTX_CONTEXT 3 |> put (Reg.TILE_CTX 5) F.TILE_CTX_EPOCH 9
  |> put (Reg.CTX_CTRL 3) F.CTX_CTRL_STATE 1 |> put (Reg.CTX_CTRL 3) F.CTX_CTRL_DOMAIN 2 |> put (Reg.CTX_CTRL 3) F.CTX_CTRL_EPOCH 9
  |> setR (Reg.TILE_SREG 5 1) 0xFFFFFFFFFFFFFFFE |> setR (Reg.TILE_SREG 5 2) 3 |> setR (Reg.TILE_SREG 5 3) 64
  |> setR (Reg.TILE_AREG 5 4) 0x1000 |> put (Reg.TILE_PC 5) F.TILE_PC_PC 0x200
  |> put (Reg.TILE_PROG 5) F.TILE_PROG_BASE 0x200 |> put (Reg.TILE_PROG 5) F.TILE_PROG_LIMIT 0x400
  |> put (Reg.TIDE_CTRL 2) F.TIDE_CTRL_ROLE 1 |> setR (Reg.TIDE_VALUE 2) (tideWord 7 Phase.FLOW 5)

theorem base_sound : base.Sound := sound_of (by decide +kernel)

theorem base_takes : base.Takes 5 := ⟨by decide +kernel, by decide +kernel⟩

/-- A packet that carries `n` zeros, and a short frame that is next on port 3. -/
def filler (n : Nat) : Packet := mkPacket State.reset 0 0 0 0 0 0 0 0 (List.replicate n 0)
def hop : Hop := ⟨3, 0, true⟩

/-- An ill-formed command for each check of WellFormed, and commands that pass. -/
theorem test_wellFormed_refuses :
    wellFormed (.registerWrite 0x10008 3 0) = false ∧ wellFormed (.bcWrite 0x1000 [] 0 0 []) = false ∧
    wellFormed (.bcWrite 0x103F [1, 2] 0 0 []) = false ∧ wellFormed (.arm 0 hop [0]) = false ∧ wellFormed (.rearm 0 hop 0 [0]) = false ∧
    wellFormed (.message none (filler 257) false) = false ∧ wellFormed (.write 3 (filler 257)) = false ∧
    wellFormed (.registerWrite 0x10008 8 0) = true ∧ wellFormed (.bcWrite 0x103F [1] 0 0 []) = true ∧ wellFormed (.write 3 (filler 256)) = true := by
  decide +kernel

theorem test_wellFormed_refuses_long_comets (slot imm : BitVec 32) (c : Comet) (h : 1048576 < c.payload.length) :
    wellFormed (.data slot imm c) = false ∧ wellFormed (.merged c) = false := by
  simp only [wellFormed, cometFits, decide_eq_false_iff_not]
  omega

theorem witness_IdleStep : State.reset.Sound ∧ State.reset.pending = [] := ⟨sound_of (by decide +kernel), rfl⟩

/-- The state after reset with one command waiting. -/
def oneWaits : State := { State.reset with pending := [.flitRetry 4] }

theorem witness_StepKeepsSound : oneWaits.Sound ∧ ∃ t, step oneWaits = .next t :=
  ⟨sound_of (by decide +kernel), next_of_ends (p := fun _ => true) (by decide +kernel)⟩

/-- A narrow access of a doorbell page is ignored and sets BAD_WRITE of the host interface (R23). -/
theorem test_narrow_doorbell : wellFormed (.registerWrite 0x4000000 4 1) = true ∧
    after (execRegisterWrite 0x4000000 4 1) State.reset = raise Reg.HIF_STATUS F.HIF_STATUS_BAD_WRITE State.reset := by decide +kernel

theorem witness_RegisterWrites : State.reset.Sound ∧ State.reset.recovery = false := ⟨sound_of (by decide +kernel), by decide +kernel⟩

theorem witness_CountersAndWatermarks : (isCounter (Reg.FLR_LINK_RETRY 4) = true ∧ unitOf (Reg.FLR_LINK_RETRY 4) ≠ some .tile) ∧
    isCounter Reg.ERR_CTRL = false := by decide +kernel

/-- The last signal of the last bundle of the bridge, and a bridge with both repairs of that bundle used and 113 bundles left. -/
def lastSignal : Signal := ⟨4, 0, 127, 132⟩
def worn : State := put (Reg.FLR_LINK_STATUS 4) F.FLR_LINK_STATUS_DIR0_BUNDLES 113 
  (setBundle lastSignal ⟨2, false⟩ (setSignal lastSignal { SignalState.init with fine := 63, coarse := 2 } State.reset))

theorem witness_DieLinks : worn.Sound ∧
    (∀ s ∈ [State.reset, worn], s.fld (Reg.FLR_LINK_RETRY 4) ⟨47, 0⟩ < 0xFFFFFFFFFFFF ∧ (s.signal lastSignal).failed = false ∧
      (s.bundle lastSignal).disabled = false) ∧
    ((worn.signal lastSignal).fine < 63 ∨ (worn.signal lastSignal).coarse < 3) ∧
    (0 < (worn.signal lastSignal).fine ∨ 0 < (worn.signal lastSignal).coarse) ∧
    (State.reset.bundle lastSignal).repairs < 2 ∧ State.reset.fld (Reg.FLR_LINK_STATUS 4) F.FLR_LINK_STATUS_REPAIRS < 2047 ∧
    2 ≤ (worn.bundle lastSignal).repairs ∧ 113 ≤ worn.fld (Reg.FLR_LINK_STATUS 4) F.FLR_LINK_STATUS_DIR0_BUNDLES :=
  ⟨sound_of (by decide +kernel), by decide +kernel⟩

/-- The last pair being cleared. -/
def clearing : State := raise Reg.FLR_STATUS F.FLR_STATUS_PIN_BUSY { State.reset with path := { State.reset.path with clearing := [255] } }

theorem witness_PinCodes : clearing.Sound ∧ clearing.on Reg.FLR_STATUS F.FLR_STATUS_PIN_BUSY = true ∧ clearing.path.held = [] ∧
    clearing.path.waiting = [] ∧ clearing.reds = [] ∧ clearing.path.clearing = [255] ∧ State.reset.on Reg.FLR_STATUS F.FLR_STATUS_PIN_BUSY = false ∧ State.reset.path.guarded = [] ∧ State.reset.path.held = [] ∧
    (let v := (((0 : Word).put F.FLR_TRIM_SEL_LINK 4).put F.FLR_TRIM_SEL_BUNDLE 127).put F.FLR_TRIM_SEL_SIGNAL 132
     v.get F.FLR_TRIM_SEL_LINK ≤ 4 ∧ v.get F.FLR_TRIM_SEL_BUNDLE < 128 ∧ v.get F.FLR_TRIM_SEL_SIGNAL ≤ 132 ∧
     ¬ (v.put F.FLR_TRIM_SEL_SIGNAL 133).get F.FLR_TRIM_SEL_SIGNAL ≤ 132) :=
  ⟨sound_of (by decide +kernel), by decide +kernel⟩

theorem witness_ScalarResults : base.Sound ∧ base.Takes 5 ∧ base.guard 5 g0 = true ∧
    (∀ f < 14, (aluValues (base.sword 5 1) (base.sword 5 3))[f]?.isSome = true) ∧
    (∀ f < 6, (compareValues (base.sword 5 1) (base.sword 5 3))[f]?.isSome = true) :=
  ⟨base_sound, base_takes, by decide +kernel⟩

/-- A bundle ahead of the PC, and a slot whose guard does not hold (p0 inverted). -/
theorem witness_SequentialPc : base.Sound ∧ base.Takes 5 ∧ (base.tile 5).loops = [] ∧ base.tpc 5 + 32 < 2 ^ 22 ∧
    base.tpc 5 % 32 = 0 ∧ base.guard 5 ⟨true, 0⟩ = false :=
  ⟨base_sound, base_takes, by decide +kernel⟩

/-- One return address and one loop; the target of JMP is the last bundle of tile memory. -/
def nested : State := setTile 5 { base.tile 5 with rets := [0x300], loops := [⟨0x220, 0x240, 3⟩] } (setR (Reg.TILE_SREG 5 7) 0x3FFFE0 base)

theorem witness_BranchTargets : nested.Sound ∧ nested.Takes 5 ∧ nested.guard 5 g0 = true ∧
    (nested.tpc 5 : Int) + 32 * (-16) = (0 : Nat) ∧ PcHolds 0 ∧ PcHolds 0x3FFFE0 ∧ (nested.sword 5 7).toNat = 0x3FFFE0 ∧
    (nested.tile 5).rets.length < 8 ∧ (nested.tile 5).rets = [0x300] ∧ PcHolds 0x300 ∧ nested.sword 5 2 ≠ 0 ∧
    (nested.tile 5).loops.length < 4 ∧ PcHolds (nested.tpc 5 + 32) :=
  ⟨sound_of (by decide +kernel), ⟨by decide +kernel, by decide +kernel⟩, by decide +kernel⟩

theorem witness_CsrReads : base.Sound ∧ base.Takes 5 ∧ base.guard 5 g0 = true ∧ base.role (base.runDomain 5) ≠ 0 ∧
    (put (Reg.TIDE_CTRL 2) F.TIDE_CTRL_ROLE 0 base).role (base.runDomain 5) = 0 :=
  ⟨base_sound, base_takes, by decide +kernel⟩

/-- An outbound port with 256 credits for tile 5. -/
def credits : State := base |> put (Reg.STG_S_CTRL 2) F.STG_S_CTRL_VALID 1 |> put (Reg.STG_S_CTRL 2) F.STG_S_CTRL_CONTEXT 3
  |> put (Reg.STG_P_CTRL 9) F.STG_P_CTRL_ENABLE 1 |> put (Reg.STG_P_CTRL 9) F.STG_P_CTRL_DIR 1
  |> put (Reg.STG_P_CTRL 9) F.STG_P_CTRL_TILE 5 |> put (Reg.STG_P_CTRL 9) F.STG_P_CTRL_STAGE 2
  |> put (Reg.STG_P_CTRL 9) F.STG_P_CTRL_CTXP 3 |> put (Reg.STG_P_STATUS 9) F.STG_P_STATUS_STATE StgSt.ACTIVE
  |> put (Reg.STG_P_CTRL 9) F.STG_P_CTRL_REF 0 |> put (Reg.STG_P_STATUS 9) F.STG_P_STATUS_CREDITS 256 |> setR (Reg.TILE_SREG 5 7) 256

/-- The tide stands in PAUSE, and tile 5 holds a TWAIT with a timeout register. -/
def standing : State :=
  let s := setR (Reg.TIDE_VALUE 2) (tideWord 7 Phase.PAUSE 5) base
  setTile 5 { s.tile 5 with held := some (oneSlot g0 (.twait 3 1 0 2) .nop .nop .nop) } s

/-- An engine queue with an MOUT to come, and one whose running entries ask for more than the read port gives. -/
def storing : State := setTile 5 { base.tile 5 with queue := [⟨.mout 3 0 4 2 0, 0x200, 0x1000, 0x2000, 3, 0, 0, false, 0⟩] } base

theorem witness_WaitResults : credits.Sound ∧ standing.Sound ∧ storing.Sound ∧ storing.Takes 5 ∧ (storing.tile 5).storesPending = true ∧
    storing.guard 5 g0 = true ∧ base.Takes 5 ∧ credits.Takes 5 ∧
    (∀ s ∈ [base, credits, standing], s.guard 5 g0 = true ∧ s.role (s.runDomain 5) ≠ 0) ∧
    base.phase (base.runDomain 5) = Phase.FLOW ∧ (base.sword 5 0).toNat ≤ (base.tide (base.runDomain 5)).toNat ∧
    tideStep (base.tide 2) = tideStep (tideWord 7 Phase.FLOW 9) ∧ base.phase 2 = tidePhase (tideWord 7 Phase.FLOW 9) ∧
    credits.stagePortFor (credits.runCtx 5) (credits.sword 5 2).toNat (credits.logical 5) false = some 9 ∧
    (credits.sword 5 7).toNat = 256 ∧ (credits.sword 5 7).toNat ≤ credits.stgCredits 9 ∧
    standing.phase (standing.runDomain 5) = Phase.PAUSE ∧ standing.mayPresent 5 = true ∧
    (standing.tile 5).held = some (oneSlot g0 (.twait 3 1 0 2) .nop .nop .nop) ∧
    (setTile 5 { standing.tile 5 with held := none } standing).Takes 5 :=
  ⟨sound_of (by decide +kernel), sound_of (by decide +kernel), sound_of (by decide +kernel), ⟨by decide +kernel, by decide +kernel⟩,
    by decide +kernel, by decide +kernel, base_takes, ⟨by decide +kernel, by decide +kernel⟩,
    by decide +kernel, by decide +kernel, by decide +kernel, by decide +kernel, by decide +kernel, by decide +kernel,
    by decide +kernel, by decide +kernel, by decide +kernel, by decide +kernel, by decide +kernel,
    ⟨by decide +kernel, by decide +kernel⟩⟩

/-- A channel address of logical tile 143 in s10, the last 64 bytes of tile memory in a4, a post that has ended, one that has not,
and rings that hold an entry and none. -/
def channel : State := base |> setR (Reg.TILE_SREG 5 10) (143 * 1024 + 31 * 32) |> setR (Reg.TILE_AREG 5 4) 0x3FFFC0
def ended : State := setTile 5 { channel.tile 5 with begun := some (.post 3), posts := [⟨3, 143 * 1024 + 31 * 32, true, false, some (255, 15)⟩] } channel
def posted : State := setTile 5 { channel.tile 5 with posts := [⟨3, 77, false, false, none⟩] } channel
def awaited : State := setTile 5 { channel.tile 5 with posts := [⟨3, 77, true, false, none⟩] } channel
def ring : State := base |> put (Reg.CHN_CTRL 5 3) F.CHN_CTRL_ENABLE 1 |> put (Reg.CHN_CTRL 5 3) F.CHN_CTRL_CONTEXT 3
  |> put (Reg.CHN_CTRL 5 3) F.CHN_CTRL_SIZE 2 |> put (Reg.CHN_CTRL 5 3) F.CHN_CTRL_BASE 8
  |> put (Reg.CHN_PTR 5 3) F.CHN_PTR_WP 2 |> put (Reg.CHN_PTR 5 3) F.CHN_PTR_RP 65535

theorem witness_ChannelInstructions : channel.Sound ∧ ended.Sound ∧ posted.Sound ∧ awaited.Sound ∧ ring.Sound ∧
    (∀ s ∈ [channel, ended, posted, awaited, ring], s.guard 5 g0 = true ∧ s.mayPresent 5 = true ∧ (s.tile 5).held = none ∧ s.fetchFault 5 = none) ∧
    (∀ s ∈ [channel, ended], (s.sword 5 10).toNat < 2 ^ 18 ∧ (s.sword 5 10).toNat % 32 = 0 ∧ (s.sword 5 10).toNat / 2 ^ 10 ≤ 143 ∧
      (s.reg (Reg.TILE_AREG 5 4)).toNat % 64 = 0 ∧ (s.reg (Reg.TILE_AREG 5 4)).toNat + 64 ≤ 0x400000 ∧
      s.tmPoison (s.logical 5) 0x3FFFC0 64 = false ∧ (s.tile 5).posts.length < 64) ∧
    (channel.tile 5).begun = none ∧ (ended.tile 5).begun = some (.post 3) ∧
    (ended.tile 5).posts = [⟨3, (ended.sword 5 10).toNat, true, false, some (255, 15)⟩] ∧
    (posted.tile 5).posts = [⟨(3 : BitVec 16).toNat, 77, false, false, none⟩] ∧
    (awaited.tile 5).posts = [⟨(3 : BitVec 16).toNat, 77, true, false, none⟩] ∧
    (ring.sword 5 2).toNat = 3 ∧ ring.ringFor (ring.logical 5) 3 (ring.runCtx 5) = true ∧ ring.ringLevel (ring.logical 5) 3 = 3 ∧
    (let s := put (Reg.CHN_PTR 5 3) F.CHN_PTR_WP 65535 ring
     s.ringFor (s.logical 5) 3 (s.runCtx 5) = true ∧ s.ringLevel (s.logical 5) 3 = 0) :=
  ⟨sound_of (by decide +kernel), sound_of (by decide +kernel), sound_of (by decide +kernel), sound_of (by decide +kernel),
    sound_of (by decide +kernel), by decide +kernel⟩

/-- A layer of a schedule over tiles 5 and 6; a second tile of the context; a stopped tile with a bundle of NOPs. -/
def layered : State := base |> put Reg.RED_LT F.RED_LT_COUNT 8 |> put Reg.RED_LT F.RED_LT_BASE 0x10000
  |> setRaw (0x10000 + 64 * 3) (bytesOf 2 0x8003 ++ bytesOf 2 1 ++ List.replicate 4 0 ++ bytesOf 8 0x20000 ++
    bytesOf 18 (2 ^ 5 + 2 ^ 6) ++ List.replicate 30 0)
def notified : State := setTile 5 { layered.tile 5 with held := some (oneSlot g0 (.ldone 2 false) .nop .nop .nop) } layered
def twoTiles : State := base |> put (Reg.TILE_STATUS 6) F.TILE_STATUS_STATE TileSt.RUNNING
  |> put (Reg.TILE_CTX 6) F.TILE_CTX_PRESENT 1 |> put (Reg.TILE_CTX 6) F.TILE_CTX_CONTEXT 3 |> setR (Reg.PRT_TILES0 0) 0x60
def stopped : State :=
  let s := put (Reg.TILE_STATUS 5) F.TILE_STATUS_STATE TileSt.STOPPED base
  setTile 5 { s.tile 5 with held := some (oneSlot g0 .nop .nop .nop .nop) } s

theorem witness_LayerDoneAndStops : layered.Sound ∧ notified.Sound ∧ twoTiles.Sound ∧ stopped.Sound ∧
    (∀ s ∈ [layered, notified, twoTiles, stopped], s.guard 5 g0 = true ∧ s.fatal = false ∧ s.deadTile (Reg.TILE_CTRL 5) = false ∧
      (s.tile 5).preempt = false) ∧
    (∀ s ∈ [layered, notified], (s.sword 5 2).toNat = 3 ∧ s.role (s.runDomain 5) ≠ 0 ∧
      s.ldoneRefused (s.runCtx 5) (s.logical 5) 3 = false ∧ (s.red 3).state = RedSt.IDLE ∧ (s.tile 5).begun = none ∧
      (s.tile 5).storesPending = false ∧ s.mayPresent 5 = true ∧ s.fetchFault 5 = none) ∧
    (layered.tile 5).held = none ∧ (notified.tile 5).held = some (oneSlot g0 (.ldone 2 false) .nop .nop .nop) ∧
    twoTiles.mayPresent 5 = true ∧ (twoTiles.tile 5).held = none ∧ twoTiles.fetchFault 5 = none ∧ 6 ∈ twoTiles.tilesOf (twoTiles.runCtx 5) ∧
    twoTiles.tileSt 6 ≠ TileSt.HALTED ∧ twoTiles.tileSt 5 = TileSt.RUNNING ∧ stopped.tileSt 5 = TileSt.STOPPED ∧
    (stopped.tile 5).held = some (oneSlot g0 .nop .nop .nop .nop) :=
  ⟨sound_of (by decide +kernel), sound_of (by decide +kernel), sound_of (by decide +kernel), sound_of (by decide +kernel),
    by decide +kernel⟩

theorem witness_TileRegisterWrites : stopped.Sound ∧ stopped.deadTile (Reg.TILE_CTRL 5) = false ∧ stopped.tileOpen 5 = true ∧
    (stopped.tile 5).queue = [] ∧
    (let v := ((0 : Word).put F.TILE_PROG_BASE 0x3FFFE0).put F.TILE_PROG_LIMIT 0x400000
     v.get F.TILE_PROG_BASE % 32 = 0 ∧ v.get F.TILE_PROG_LIMIT % 32 = 0 ∧ v.get F.TILE_PROG_BASE < v.get F.TILE_PROG_LIMIT ∧
     v.get F.TILE_PROG_LIMIT ≤ 0x400000) ∧
    base.deadTile (Reg.TILE_CTRL 5) = false ∧ base.tileOpen 5 = false ∧ base.tileSt 5 = TileSt.RUNNING :=
  ⟨sound_of (by decide +kernel), by decide +kernel⟩

/-- The bundle of four 8-byte slots at the PC of tile 5. -/
def bundle (c m v x : Nat) : State := setRaw (tileAddr 5 0x200) (bytesOf 8 c ++ bytesOf 8 m ++ bytesOf 8 v ++ bytesOf 8 x) base

theorem witness_BundleIssue :
    (∀ s ∈ [bundle (0x01 * 2 ^ 56 + 5 * 2 ^ 47 + 0x1234) 0 0 0, bundle 0 (0x03 * 2 ^ 56 + 3 * 2 ^ 50) 0 0,
      bundle 0 0 (0x01 * 2 ^ 56 + 1 * 2 ^ 47 + 2 * 2 ^ 42 + 3 * 2 ^ 37 + 2 * 2 ^ 28) 0,
      bundle 0 0 0 (0x04 * 2 ^ 56 + 7 * 2 ^ 47 + 4 * 2 ^ 43 + 16), bundle (0x2C * 2 ^ 56) 0 0 0],
      sound s = true ∧ s.mayPresent 5 = true ∧ (s.tile 5).held = none ∧ (s.tile 5).wild = none ∧
      s.fld (Reg.TILE_PROG 5) F.TILE_PROG_BASE ≤ s.tpc 5 ∧ s.tpc 5 < s.fld (Reg.TILE_PROG 5) F.TILE_PROG_LIMIT ∧
      s.tmPoison (s.logical 5) (s.tpc 5) 32 = false ∧ s.guard 5 g0 = true ∧ (s.tile 5).loops = []) ∧
    (let s := bundle (0x01 * 2 ^ 56 + 5 * 2 ^ 47 + 0x1234) 0 0 0
     decodeBundle (s.tmBytes (s.logical 5) (s.tpc 5) 32) = .ok (oneSlot g0 (.li 5 0x1234) .nop .nop .nop)) ∧
    (let s := bundle 0 (0x03 * 2 ^ 56 + 3 * 2 ^ 50) 0 0
     decodeBundle (s.tmBytes (s.logical 5) (s.tpc 5) 32) = .ok (oneSlot g0 .nop (.mclr 3) .nop .nop)) ∧
    (let s := bundle 0 0 (0x01 * 2 ^ 56 + 1 * 2 ^ 47 + 2 * 2 ^ 42 + 3 * 2 ^ 37 + 2 * 2 ^ 28) 0
     decodeBundle (s.tmBytes (s.logical 5) (s.tpc 5) 32) = .ok (oneSlot g0 .nop .nop (.op .vadd 1 2 3 0 2 0 0) .nop)) ∧
    (let s := bundle 0 0 0 (0x04 * 2 ^ 56 + 7 * 2 ^ 47 + 4 * 2 ^ 43 + 16)
     decodeBundle (s.tmBytes (s.logical 5) (s.tpc 5) 32) = .ok (oneSlot g0 .nop .nop .nop (.sst 7 4 0 0 16))) ∧
    (let s := bundle (0x2C * 2 ^ 56) 0 0 0
     decodeBundle (s.tmBytes (s.logical 5) (s.tpc 5) 32) = .error 0) ∧
    (let s := tmMark 5 0x200 32 base
     sound s = true ∧ s.tmPoison (s.logical 5) (s.tpc 5) 32 = true) ∧
    (let s := put (Reg.TILE_PC 5) F.TILE_PC_PC 0x400 base
     sound s = true ∧ s.mayPresent 5 = true ∧ (s.tile 5).held = none ∧ (s.tile 5).wild = none ∧
     ¬ s.tpc 5 < s.fld (Reg.TILE_PROG 5) F.TILE_PROG_LIMIT ∧ s.on (Reg.TILE_FAULT 5) F.TILE_FAULT_VALID = false) := by
  decide +kernel

/-- A bank at the end of tile memory in a4, and operands of an INT8 MMA of 128 x 128 in a4 and a5 by the descriptor in s2. -/
def matrix : State := setR (Reg.TILE_AREG 5 4) 0x3F0000 base
def entry (i : Mat) (d : Word) : MatEntry := ⟨i, 0x200, 0x1000, 0x2000, d, 0, 0, false, 0⟩
def mma8 : Mat := .mma 3 11 11 4 5 2 false
def started : State := setTile 5 { base.tile 5 with
  queue := [entry mma8 3, entry mma8 3, entry mma8 3, { entry (.mclr 0) 0 with started := true }] } base

theorem witness_MatrixQueue : matrix.Sound ∧ started.Sound ∧ matrix.Takes 5 ∧ matrix.guard 5 g0 = true ∧
    (matrix.tile 5).queue.length < 4 ∧ matrix.areg 5 4 % 32 = 0 ∧ matrix.areg 5 4 + 65536 = 0x400000 ∧
    (∀ i ∈ [mma8, .mout 3 0 4 2 0], matLegal i = true ∧
      matFaults i (matrix.areg 5 (matAddrs i).1) (matrix.areg 5 (matAddrs i).2) (matrix.matDesc 5 i) = []) ∧
    (started.tile 5).queue[(3 : Fin 4).val]? = some { entry (.mclr 0) 0 with started := true } ∧ (started.tile 5).saving = none ∧
    (started.tile 5).queue.length ≤ 4 :=
  ⟨sound_of (by decide +kernel), sound_of (by decide +kernel), ⟨by decide +kernel, by decide +kernel⟩, by decide +kernel⟩

/-- Four running INT8 products of 128 rows and columns ask for more than 512 bytes a cycle; one alone does not. -/
def crowded : State := setTile 5 { base.tile 5 with queue := List.replicate 4 { entry mma8 (127 * 128 + 127 + 63 * 2 ^ 14) with started := true, work := 64 } } base

theorem witness_MatrixQueue_port : crowded.Sound ∧ 16384 < crowded.portDemand 5 ∧ started.portDemand 5 ≤ 16384 ∧
    crowded.fld (Reg.MXE_PORT_STALL 5) ⟨47, 0⟩ + 1000 ≤ 0xFFFFFFFFFFFF :=
  ⟨sound_of (by decide +kernel), by decide +kernel⟩

def waits (i : Mat) (d : Word) : State := setTile 5 { base.tile 5 with queue := [entry i d] } base

theorem witness_MatrixEffects : (waits (.mclr 3) 0).Sound ∧ (waits mma8 (127 * 128 + 127)).Sound ∧ (waits (.mclr 3) 0).fatal = false ∧
    ((waits (.mclr 3) 0).tile 5).queue = [entry (.mclr 3) 0] ∧ (entry (.mclr 3) 0).started = false ∧
    ((waits mma8 2).tile 5).queue = [entry mma8 2] ∧ (shapeOf 2).pack = false ∧ (shapeOf 2).m ≤ 128 ∧ (shapeOf 2).n ≤ 128 ∧
    0 < (shapeOf 2).k ∧ (waits mma8 2).tmPoison ((waits mma8 2).logical 5) 0x1000 ((shapeOf 2).m * (shapeOf 2).k) = false ∧
    (waits mma8 2).tmPoison ((waits mma8 2).logical 5) 0x2000 ((shapeOf 2).n * (shapeOf 2).k) = false :=
  ⟨sound_of (by decide +kernel), sound_of (by decide +kernel), by decide +kernel⟩

/-- The vector statements: FMT 4 is the last floating-point format; key positions from 64 leave room below 2^32. -/
theorem witness_VectorArithmetic : base.Sound ∧ base.Takes 5 ∧ base.guard 5 g0 = true ∧ (4 : BitVec 4).toNat ≤ 4 ∧
    (setR (Reg.TILE_SREG 5 3) 0xFFFFFC00 base).sreg 5 3 + capacity 4 = 2 ^ 32 ∧ base.sreg 5 3 < 2 ^ 32 :=
  ⟨base_sound, base_takes, by decide +kernel⟩

theorem witness_VectorFunctions : base.sreg 5 3 < 2 ^ 40 ∧ vecLegal (.op .vcvt 1 2 0 0 0 0 0x01) = true ∧
    vecLegal (.op .vsfu 1 2 0 0 0 0 0) = true ∧ vecLegal (.op .vsmx 1 2 0 4 0 0 0) = true ∧ vecLegal (.op .vsmx 1 0 3 4 0 0 0xC0) = true ∧
    vecLegal (.op .vrope 1 2 3 4 0 0 0) = true ∧ vecLegal (.op .vred 1 2 0 0 0 0 0) = true := by
  decide +kernel

/-- The last vector and the last scalar of tile memory; a store with an index register that takes the address back by 1,024. -/
def last : State := base |> setR (Reg.TILE_AREG 5 4) 0x3FFC00 |> setR (Reg.TILE_SREG 5 2) 0x3F8

theorem witness_LoadsAndStores : last.Sound ∧ last.Takes 5 ∧ last.guard 5 g0 = true ∧ (last.tile 5).queue = [] ∧
    amLegal 0 0 0 = true ∧ amLegal 1 0 32 = true ∧ amLegal 2 2 0 = true ∧
    last.areg 5 4 % 32 = 0 ∧ last.areg 5 4 + 1024 = 0x400000 ∧ last.tmPoison (last.logical 5) (last.areg 5 4) 1024 = false ∧
    last.areg 5 4 + last.sreg 5 2 + 8 = 0x400000 ∧ (last.areg 5 4 + last.sreg 5 2) % 8 = 0 ∧
    last.tmPoison (last.logical 5) (last.areg 5 4 + last.sreg 5 2) 8 = false :=
  ⟨sound_of (by decide +kernel), ⟨by decide +kernel, by decide +kernel⟩, by decide +kernel⟩

/-- A queue for the context; an inbound port that holds a landed entry; an outbound port with a credit. -/
def queued : State := base |> put (Reg.STR_Q_MAP 1000) F.STR_Q_MAP_VALID 1 |> put (Reg.STR_Q_MAP 1000) F.STR_Q_MAP_CONTEXT 3
  |> put (Reg.STR_Q_MAP 1000) F.STR_Q_MAP_CTXQ 3
def inbound : State := { put (Reg.STG_P_CTRL 9) F.STG_P_CTRL_DIR 0 (put (Reg.STG_P_CTRL 9) F.STG_P_CTRL_HOLD 1 credits) with
  stagePorts := [(9, { StagePort.init with landed := [0x1234, 0x55] })] }
def outbound : State := credits |> put (Reg.STG_P_CTRL 9) F.STG_P_CTRL_MAX_LEN 3 |> put (Reg.STG_P_STATUS 9) F.STG_P_STATUS_CREDITS 1
  |> setR (Reg.TILE_SREG 5 7) 1 |> setR (Reg.TILE_AREG 5 4) 0x3FFF80

theorem witness_AccumulatorAndStageMoves : queued.Sound ∧ inbound.Sound ∧ outbound.Sound ∧
    (∀ s ∈ [queued, inbound, outbound], s.mayPresent 5 = true ∧ (s.tile 5).held = none ∧ s.guard 5 g0 = true ∧ (s.tile 5).queue = []) ∧
    queued.queuesOf (queued.runCtx 5) (queued.sreg 5 2 % 64) = [1000] ∧ (queued.queue 1000).lists.length < 256 ∧
    (∀ s ∈ [inbound, outbound], s.sreg 5 2 < 64 ∧ s.stagePortsOf (s.runCtx 5) (s.sreg 5 2) = [9] ∧ s.stgTile 9 = s.logical 5 ∧
      s.fld (Reg.STG_P_CTRL 9) F.STG_P_CTRL_REF = 0) ∧
    inbound.stgInbound 9 = true ∧ (inbound.stagePort 9).landed = [0x1234, 0x55] ∧ (inbound.stagePort 9).held.length < inbound.stgHold 9 ∧
    outbound.stgInbound 9 = false ∧ 0 < outbound.stgCredits 9 ∧ outbound.stgPeer 9 = outbound.deviceId ∧
    outbound.fld (Reg.STG_P_STATUS 9) F.STG_P_STATUS_OUTSTANDING < 2047 ∧
    bits (outbound.sword 5 7).toNat 19 12 = 0 ∧ descLen (outbound.sword 5 7) = 1 ∧
    1 ≤ outbound.fld (Reg.STG_P_CTRL 9) F.STG_P_CTRL_MAX_LEN ∧ outbound.areg 5 4 % 64 = 0 ∧ outbound.areg 5 4 + 64 * 2 ≤ 0x400000 ∧
    outbound.tmPoison (outbound.logical 5) (outbound.areg 5 4) 128 = false :=
  ⟨sound_of (by decide +kernel), sound_of (by decide +kernel), sound_of (by decide +kernel), by decide +kernel⟩

/-- A port that is UP with its control channel locked. -/
def up (p : Nat) (s : State) : State := s |> put (Reg.FAB_P_CTRL p) F.FAB_P_CTRL_ENABLE 1
  |> put (Reg.FAB_P_STATUS p) F.FAB_P_STATUS_STATE PortSt.UP |> put (Reg.FAB_P_STATUS p) F.FAB_P_STATUS_CTRL_LOCK 1

/-- Domain 2: a root in FLOW with a child on port 4; the same with DRAIN gated; with the TIDE_IN pin, a TARGET; a member. -/
def root : State := State.reset |> up 4 |> put (Reg.TIDE_CTRL 2) F.TIDE_CTRL_ROLE Role.ROOT |> put (Reg.TIDE_CTRL 2) F.TIDE_CTRL_AUTO_PAUSE 0
  |> setR (Reg.TIDE_VALUE 2) (tideWord 7 Phase.FLOW 5)
  |> put (Reg.TIDE_CHILD 2 3) F.TIDE_CHILD_VALID 1 |> put (Reg.TIDE_CHILD 2 3) F.TIDE_CHILD_PORT 4
  |> put (Reg.TIDE_CHILD 2 3) F.TIDE_CHILD_DEVICE 77 |> put Reg.TIDE_PIN_CTRL F.TIDE_PIN_CTRL_EN 1
  |> put Reg.TIDE_PIN_CTRL F.TIDE_PIN_CTRL_DOMAIN 2 |> setR (Reg.TIDE_TARGET 2) (tideWord 9 Phase.DRAIN 3)
def gated : State := put (Reg.TIDE_GATE 2) ⟨23, 16⟩ 0x80 root
def waiting (atGate : Bool) : State := setDom 2 { TideDom.init with
  pending := some ⟨tideWord 7 Phase.DRAIN 0, atGate, 0⟩, childReady := [(3, tideWord 7 Phase.DRAIN 0)] } gated
def member : State := root |> put (Reg.TIDE_CTRL 2) F.TIDE_CTRL_ROLE Role.MEMBER |> up 6 |> put (Reg.TIDE_PARENT 2) F.TIDE_PARENT_VALID 1
  |> put (Reg.TIDE_PARENT 2) F.TIDE_PARENT_PORT 6 |> put (Reg.TIDE_PARENT 2) F.TIDE_PARENT_DEVICE 99

theorem witness_TideAdvances : root.Sound ∧ gated.Sound ∧ (waiting true).Sound ∧ (waiting false).Sound ∧ member.Sound ∧
    (Calm root 2 ∧ Calm gated 2 ∧ Calm (waiting true) 2 ∧ Calm (waiting false) 2 ∧ Calm member 2) ∧
    (∀ s ∈ [root, gated, waiting true, waiting false, member], s.phase 2 = Phase.FLOW) ∧
    (∀ s ∈ [root, gated], s.role 2 = Role.ROOT ∧ (s.dom 2).pending = none ∧ tideTick (s.tide 2) < 65535) ∧
    bit (root.gateByte 2 Phase.DRAIN) 7 = false ∧ bit (gated.gateByte 2 Phase.DRAIN) 7 = true ∧
    root.pins.tideIn = !true ∧ root.on Reg.TIDE_PIN_CTRL F.TIDE_PIN_CTRL_EN = true ∧ root.on Reg.TIDE_PIN_CTRL F.TIDE_PIN_CTRL_EDGE = !true ∧
    root.fld Reg.TIDE_PIN_CTRL F.TIDE_PIN_CTRL_DOMAIN = 2 ∧ tidePhase (root.reg (Reg.TIDE_TARGET 2)) = Phase.DRAIN ∧
    (root.tide 2).toNat < (root.reg (Reg.TIDE_TARGET 2)).toNat ∧ childFrames root 2 (.tide 2 5 0 0) ≠ [] ∧
    (let drain := tideWord (tideStep ((waiting true).tide 2)) Phase.DRAIN 0
     (waiting true).role 2 = Role.ROOT ∧ ((waiting true).dom 2).pending = some ⟨drain, true, 0⟩ ∧
     (waiting true).localReady 2 drain = true ∧ (waiting true).childrenReady 2 drain = true ∧
     ((waiting false).dom 2).pending = some ⟨drain, false, 0⟩) ∧
    member.role 2 = Role.MEMBER ∧ member.parentValid 2 = true ∧ (member.dom 2).pending = none ∧ member.fatal = false ∧
    member.usable 6 = true ∧ (member.port 6).closed = false ∧ (0 : BitVec 16).toNat = ((member.port 6).ctl.rx + 1) % 65536 ∧
    (member.role 2 ≠ Role.ROOT ∨ (member.dom 2).pending.isSome = true) :=
  ⟨sound_of (by decide +kernel), sound_of (by decide +kernel), sound_of (by decide +kernel), sound_of (by decide +kernel),
    sound_of (by decide +kernel), by unfold Calm; decide +kernel, by decide +kernel⟩

/-- A short frame that is next on port 4. -/
def hop4 : Hop := ⟨4, 0, true⟩

/-- A member whose child is ready for the successor of the tide; a root that has lost its child. -/
def readied : State := setDom 2 { TideDom.init with childReady := [(3, tideWord 7 Phase.DRAIN 0)] } member
def bereft : State := put (Reg.TIDE_DSTATUS 2) F.TIDE_DSTATUS_LOST_CHILD 8 root

theorem witness_TideReadinessAndLoss : readied.Sound ∧ root.Sound ∧ bereft.Sound ∧ member.Sound ∧
    (∀ s ∈ [root, bereft, readied, member], s.fatal = false ∧ s.role 2 ≠ Role.OFF ∧ s.on (Reg.TIDE_CHILD 2 3) F.TIDE_CHILD_VALID = true) ∧
    readied.successor 2 = some (tideWord 7 Phase.DRAIN 0) ∧ readied.role 2 = Role.MEMBER ∧ readied.parentValid 2 = true ∧
    readied.on (Reg.TIDE_DSTATUS 2) F.TIDE_DSTATUS_STALE = false ∧ tideWord 7 Phase.DRAIN 0 ∉ (readied.dom 2).readySent ∧
    (let s := setDom 2 { readied.dom 2 with readySent := [tideWord 7 Phase.DRAIN 0] } readied
     s.successor 2 = some (tideWord 7 Phase.DRAIN 0) ∧ tideWord 7 Phase.DRAIN 0 ∈ (s.dom 2).readySent) ∧
    hop4.ok = true ∧ (∀ s ∈ [root, bereft, readied, member], s.usable 4 = true ∧ (s.port 4).closed = false ∧
      hop4.seq.toNat = ((s.port 4).ctl.rx + 1) % 65536 ∧ s.fld (Reg.FAB_P_CRC_ERRORS 4) ⟨47, 0⟩ < 0xFFFFFFFFFFFF) ∧
    readied.localReady 2 (tideWord 7 Phase.DRAIN 0) = true ∧ readied.childrenReady 2 (tideWord 7 Phase.DRAIN 0) = true ∧
    root.role 2 = Role.ROOT ∧ root.on (Reg.TIDE_CTRL 2) F.TIDE_CTRL_AUTO_PAUSE = false ∧
    bit (root.fld (Reg.TIDE_DSTATUS 2) F.TIDE_DSTATUS_LOST_CHILD) 3 = false ∧
    bit (bereft.fld (Reg.TIDE_DSTATUS 2) F.TIDE_DSTATUS_LOST_CHILD) 3 = true ∧
    root.on (Reg.FAB_P_STATUS 4) F.FAB_P_STATUS_CTRL_LOCK = true ∧ root.usable 4 = true ∧ (∀ k, k < 32 → injects root k 4 4 none none = false) ∧
    (member.dom 2).record = none ∧ (1 : BitVec 8).toNat = (member.modeGen 2 + 1) % 256 :=
  ⟨sound_of (by decide +kernel), sound_of (by decide +kernel), sound_of (by decide +kernel), sound_of (by decide +kernel), by decide +kernel⟩

/-- A root that rests in PAUSE, with a READY of its own. -/
def paused : State := State.reset |> put (Reg.TIDE_CTRL 2) F.TIDE_CTRL_ROLE Role.ROOT |> setR (Reg.TIDE_VALUE 2) (tideWord 7 Phase.PAUSE 5)
  |> setR (Reg.TIDE_READY 2) 6 |> put (Reg.TIDE_TIMER 2) F.TIDE_TIMER_EN 1 |> put (Reg.TIDE_TIMER 2) F.TIDE_TIMER_PERIOD_S 1
def childEntry : Word := (((0 : Word).put F.TIDE_CHILD_VALID 1).put F.TIDE_CHILD_PORT 5).put F.TIDE_CHILD_DEVICE 77

theorem witness_TideRegisters : paused.Sound ∧ root.Sound ∧ member.Sound ∧ paused.role 2 ≤ 2 ∧ root.role 2 ≤ 2 ∧
    ((0 : Word).put F.TIDE_CTRL_ROLE Role.ROOT).get F.TIDE_CTRL_ROLE = paused.role 2 ∧ (0 : Word).get F.TIDE_CTRL_ROLE ≠ root.role 2 ∧
    root.phase 2 ≠ Phase.IDLE ∧ root.phase 2 ≠ Phase.PAUSE ∧ paused.role 2 ≠ Role.OFF ∧ paused.restful 2 = true ∧
    paused.treeOk 2 Role.OFF = true ∧ paused.shards = [] ∧ paused.runs = [] ∧ paused.reds = [] ∧ paused.versions = [] ∧
    (genericWrite (Reg.TIDE_CHILD 2 6) childEntry paused).treeOk 2 (paused.role 2) = true ∧
    root.restful 2 = false ∧ (genericWrite (Reg.TIDE_CHILD 2 6) childEntry root).reg (Reg.TIDE_CHILD 2 6) ≠ root.reg (Reg.TIDE_CHILD 2 6) ∧
    (paused.reg (Reg.TIDE_READY 2)).toNat ≤ (6 : Word).toNat ∧ (5 : Word).toNat < (paused.reg (Reg.TIDE_READY 2)).toNat ∧
    paused.role 2 = Role.ROOT ∧ ((0 : Word).put F.TIDE_TIMER_PERIOD_S 86400).get F.TIDE_TIMER_PERIOD_S = 86400 ∧ member.role 2 ≠ Role.ROOT ∧
    paused.on (Reg.TIDE_TIMER 2) F.TIDE_TIMER_EN = true ∧ paused.fld (Reg.TIDE_TIMER 2) F.TIDE_TIMER_PERIOD_S ≠ 0 ∧
    (let v := (0 : Word).put F.TIDE_SLOT_CTRL_ACTIONS 31
     let s := setR (Reg.TIDE_SLOT_VALUE 2 255) (tideWord 8 1 0) paused
     v.get F.TIDE_SLOT_CTRL_ACTIONS < 32 ∧ s.role 2 = Role.ROOT ∧ reached (s.tide 2) (s.reg (Reg.TIDE_SLOT_VALUE 2 255)) = false) :=
  ⟨sound_of (by decide +kernel), sound_of (by decide +kernel), sound_of (by decide +kernel), by decide +kernel⟩

/-- An INJECTION record for step 9; roots that may arm it, have armed it, and know a stale device; members. -/
def record : List Word := [tideWord 9 Phase.FLOW 0, 3, 0xF0, 0, 0, 0, 0, 0]
def arming : State := forEach (List.range 8) (fun i => setR (Reg.TIDE_MODE_REC 2 i) (record.getD i 0)) root
def armed (s : State) : State := setDom 2 { s.dom 2 with record := some record, staleDevs := [99] }
  (put (Reg.TIDE_MODE_STATUS 2) F.TIDE_MODE_STATUS_STATE ModeSt.ARMED s)
def leaf : State := put (Reg.TIDE_CHILD 2 3) F.TIDE_CHILD_VALID 0 member

theorem witness_ModeChange : arming.Sound ∧ (armed root).Sound ∧ (armed member).Sound ∧ leaf.Sound ∧
    (∀ s ∈ [root, arming, armed root, member, armed member, leaf], s.fatal = false ∧ s.recovery = false ∧
      s.fld (Reg.TIDE_ABORT_COUNT 2) ⟨47, 0⟩ < 0xFFFFFFFFFFFF) ∧
    (∀ s ∈ [root, arming, armed root], s.role 2 = Role.ROOT) ∧
    arming.modeState 2 = ModeSt.NONE ∧ (arming.tide 2).toNat < (recT (arming.modeRecord 2)).toNat ∧
    recAccepted 2 (arming.modeRecord 2) arming = true ∧ arming.liveChildren 2 ≠ [] ∧ recAccepted 2 (root.modeRecord 2) root = false ∧
    (∀ s ∈ [armed root, armed member], s.modeState 2 = ModeSt.ARMED ∧ (s.dom 2).record = some record ∧ (s.dom 2).raised = false) ∧
    ((armed root).dom 2).ackSent = false ∧ (∀ b ∈ (armed root).liveChildren 2, b ≠ 3 → b ∈ ((armed root).dom 2).acked) ∧
    (∀ s ∈ [member, armed member, leaf], s.role 2 = Role.MEMBER ∧ s.parentValid 2 = true) ∧
    leaf.modeState 2 = ModeSt.NONE ∧ recAccepted 2 record leaf = true ∧ leaf.children 2 = [] ∧
    (let s := put (Reg.TIDE_DSTATUS 2) F.TIDE_DSTATUS_STALE 1 member
     (0 : BitVec 13).toNat = s.deviceId ∧ s.on (Reg.TIDE_DSTATUS 2) F.TIDE_DSTATUS_STALE = true ∧ recKind record = 3 ∧ s.recovery = false ∧
     s.fatal = false ∧ s.role 2 = Role.MEMBER ∧ s.parentValid 2 = true) ∧
    99 ∉ (root.dom 2).staleDevs ∧ 99 ∈ ((armed root).dom 2).staleDevs ∧ 99 ≠ (armed root).deviceId :=
  ⟨sound_of (by decide +kernel), sound_of (by decide +kernel), sound_of (by decide +kernel), sound_of (by decide +kernel), by decide +kernel⟩

/-- Memory serves, and a line of it is written. -/
def memory : State := State.reset |> put Reg.MEM_STATUS F.MEM_STATUS_STATE 1 |> setRaw 0x1000 ((List.range 64).map fun i => BitVec.ofNat 8 (i + 1))

theorem witness_StackReads : memory.Sound ∧ memory.memRefuses = false ∧ memory.poisoned 0x1000 = false ∧ memory.correct4 0x1000 = false ∧
    (∀ r ∈ [Reg.MEM_S_CE, Reg.MEM_S_UE, Reg.MEM_S_SCRUB_FIX], memory.fld (r (memory.stack 0x1000)) ⟨47, 0⟩ < 0xFFFFFFFFFFFF) ∧
    memory.on (Reg.MEM_UE_LOG 0) F.MEM_UE_LOG_VALID = false ∧ memory.fld Reg.MEM_STATUS F.MEM_STATUS_STATE = 1 ∧
    (let s := forEach (List.range 7) (fun i => put (Reg.MEM_UE_LOG i) F.MEM_UE_LOG_VALID 1) memory
     s.on (Reg.MEM_UE_LOG 7) F.MEM_UE_LOG_VALID = false ∧ ∀ j, j < 7 → s.on (Reg.MEM_UE_LOG j) F.MEM_UE_LOG_VALID = true) ∧
    (∀ e ∈ [[((71 : Fin 77), (5 : Byte))], [(72, 5)], [(0, 1), (1, 2), (76, 3)]], readsPoison 0x1000 (memory.rawBytes 0x1000 64) false e = false) ∧
    memory.fld (Reg.MEM_S_MISDIR (memory.stack 0x1000)) ⟨47, 0⟩ + 2 ≤ 0xFFFFFFFFFFFF :=
  ⟨sound_of (by decide +kernel), by decide +kernel⟩

/-- A dirty KEEP line and a dirty line in the cache; one partial entry in the write-combining buffers. -/
def cached : State := { memory with path := { memory.path with
  cache := [⟨0x1000, 0, List.replicate 64 9, true, true, false⟩, ⟨0x9000, 0, List.replicate 64 8, true, false, false⟩] } }
def combining : State := { memory with path := { memory.path with
  wcb := [⟨0x1000, List.replicate 4 true ++ List.replicate 60 false, List.replicate 64 7, 0, 5, 0⟩] } }
def flushing : State := raise Reg.BC_STATUS F.BC_STATUS_FLUSH_BUSY cached

theorem witness_BaseCache : cached.Sound ∧ combining.Sound ∧ flushing.Sound ∧
    (∀ s ∈ [memory, cached, combining, flushing], s.memRefuses = false) ∧
    cached.cached 0x1000 = some ⟨0x1000, 0, List.replicate 64 9, true, true, false⟩ ∧
    cached.fld (Reg.BC_H_HIT (cached.half 0x1000)) ⟨47, 0⟩ < 0xFFFFFFFFFFFF ∧ memory.path.wcb = [] ∧ memory.cached 0x1000 = none ∧
    (∀ s ∈ [memory, cached], s.path.wcb = [] ∧ s.pairClears 0x1000 = false) ∧ combining.correct4 0x1000 = false ∧
    readsPoison 0x1000 (combining.rawBytes 0x1000 64) false [(0, 1), (1, 2), (76, 3)] = false ∧
    combining.on (Reg.MEM_UE_LOG 0) F.MEM_UE_LOG_VALID = false ∧
    (memory.setLines 0x1000).length < 24 ∧ memory.fld (Reg.BC_H_MISS (memory.half 0x1000)) ⟨47, 0⟩ < 0xFFFFFFFFFFFF ∧
    0x103F % 64 + 1 ≤ 64 ∧ memory.writeWaits 0x103F = false ∧ memory.panSlotOf 0x103F = none ∧
    victim 0x1000 false memory = none ∧ (memory.path.wcb.filter fun e => memory.half e.addr = memory.half 0x1000).length < 512 ∧
    (∃ e ∈ combining.path.wcb, combining.path.wcb = [e] ∧ e.addr = (0x40 : BitVec 33).toNat * 64 ∧ combining.half e.addr = (1 : Fin 2).val ∧
      e.mask.length = 64 ∧ e.data.length = 64 ∧ e.mask.all id = false ∧ combining.cached e.addr = none ∧ combining.poisoned e.addr = false) ∧
    combining.on Reg.BC_STATUS F.BC_STATUS_FLUSH_BUSY = false ∧ cached.on Reg.BC_STATUS F.BC_STATUS_FLUSH_BUSY = false ∧
    cached.path.wcb = [] ∧ (cached.path.cache.map (·.addr)).Nodup ∧
    (∀ l ∈ cached.path.cache, l.addr % 64 = 0 ∧ l.data.length = 64 ∧ l.poison = false) ∧
    flushing.on Reg.BC_STATUS F.BC_STATUS_FLUSH_BUSY = true ∧
    (let v := ((0 : Word).put F.BC_CTRL_KEEP_WAYS 12).put F.BC_CTRL_WCB_TIMEOUT 64
     v.get F.BC_CTRL_KEEP_WAYS ≤ 12 ∧ 64 ≤ v.get F.BC_CTRL_WCB_TIMEOUT) :=
  ⟨sound_of (by decide +kernel), sound_of (by decide +kernel), sound_of (by decide +kernel), by decide +kernel⟩

/-- Memory in MAINT, with a loop-back running. -/
def maint : State := State.reset |> put Reg.MEM_STATUS F.MEM_STATUS_STATE 2 |> put Reg.MEM_MAINT F.MEM_MAINT_REQ 1
def looping : State := maint |> put Reg.MEM_LB_STATUS F.MEM_LB_STATUS_ACTIVE 1 |> put Reg.MEM_LB_CTRL F.MEM_LB_CTRL_RUN 1

theorem witness_MemoryMaintenance : maint.Sound ∧ looping.Sound ∧ memory.fld Reg.MEM_STATUS F.MEM_STATUS_STATE = 1 ∧
    memory.anyContext = false ∧ memory.path.wcb = [] ∧ memory.path.cache = [] ∧ maint.fld Reg.MEM_STATUS F.MEM_STATUS_STATE = 2 ∧
    maint.path.looped = [] ∧ maint.on Reg.MEM_LB_CTRL F.MEM_LB_CTRL_RUN = false ∧
    ((0 : Word).put F.MEM_LB_CTRL_PATTERN 2).get F.MEM_LB_CTRL_PATTERN ≤ 2 ∧ looping.on Reg.MEM_LB_STATUS F.MEM_LB_STATUS_ACTIVE = true ∧
    looping.fld Reg.MEM_LB_ERRORS ⟨47, 0⟩ + [((31 : Fin 32), (71 : Fin 72))].length ≤ 0xFFFFFFFFFFFF :=
  ⟨sound_of (by decide +kernel), sound_of (by decide +kernel), by decide +kernel⟩

/-- Queue 1000 of an ACTIVE context with a list posted, its descriptor at hand (a ZERO one of 8,192 bytes that crosses 4 KiB), and a
transfer outstanding. -/
def queue (x : StrQueue) : State := { (memory |> put (Reg.CTX_CTRL 3) F.CTX_CTRL_STATE 1 |> put (Reg.CTX_CTRL 3) F.CTX_CTRL_DOMAIN 2
  |> put (Reg.CTX_CTRL 3) F.CTX_CTRL_EPOCH 9 |> put (Reg.STR_Q_MAP 1000) F.STR_Q_MAP_VALID 1
  |> put (Reg.STR_Q_MAP 1000) F.STR_Q_MAP_CONTEXT 3 |> put (Reg.STR_Q_MAP 1000) F.STR_Q_MAP_CTXQ 3 |>
  setRaw (tileAddr 5 0x1000) zeroDesc) with queues := [(1000, x)] }
where zeroDesc : List Byte := bytesOf 8 0 ++ bytesOf 8 (tileAddr 6 0x10F0) ++ bytesOf 4 0x2000 ++ List.replicate 32 0 ++ bytesOf 4 0x110 ++ bytesOf 8 0
def list0 : ListRun := ⟨tileAddr 5 0x1000, 0, none, 0, 0, none, none, 0, false, false, 9⟩
def list1 : ListRun := { list0 with started := 1, desc := some queue.zeroDesc }
def xfer : Transfer := ⟨7, 1, tileAddr 6 0x10F0, [1, 2, 3], [], 0, none, false, [], 0, 3, 9, none, false⟩
def posted1 : State := queue { StrQueue.init with lists := [tileAddr 5 0x1000] }
def posted2 : State := queue { StrQueue.init with lists := [0x41] }
def begun : State := queue { StrQueue.init with lists := [tileAddr 5 0x1000], run := some list0 }
def issuing : State := queue { StrQueue.init with lists := [tileAddr 5 0x1000], run := some list1 }
def moving : State := queue { StrQueue.init with lists := [tileAddr 5 0x1000], run := some list1, xfers := [xfer] }

theorem witness_StreamLists : posted1.Sound ∧ posted2.Sound ∧ begun.Sound ∧ issuing.Sound ∧ moving.Sound ∧
    (∀ s ∈ [posted1, posted2, begun, issuing, moving], s.queueRuns 1000 = true ∧ s.swap = none ∧
      (s.replay (s.ctxDomain (s.queueCtx 1000))).recording = false) ∧
    tileAddr 5 0x1000 % 64 = 0 ∧ 0x41 % 64 ≠ 0 ∧
    (begun.queue 1000).run = some list0 ∧ begun.target ((list0.addr + 64 * list0.started) % 2 ^ 64) 64 = .tile 5 0x1000 ∧
    begun.tmPoison 5 0x1000 64 = false ∧ begun.descOk (begun.queueCtx 1000) (readDesc (begun.tmBytes 5 0x1000 64)) = true ∧
    (let d := readDesc queue.zeroDesc
     let dst := ((d.runAddr d.dst d.dstr list1.run) + list1.pos) % 2 ^ 64
     let src := ((d.runAddr d.src d.sstr list1.run) + list1.pos) % 2 ^ 64
     let n := min (d.len0 - list1.pos) (min (4096 - src % 4096) (4096 - dst % 4096))
     (∀ y ∈ (issuing.queue 1000).xfers, y.id ≠ (issuing.queue 1000).nextId) ∧ issuing.hasTurn 1000 = true ∧ issuing.canIssue 1000 = true ∧
     begun.canIssue 1000 = false ∧ list0.fetching = none ∧ list0.fetched = none ∧ (issuing.queue 1000).run = some list1 ∧ list1.desc = some queue.zeroDesc ∧ d.zero = true ∧ d.group = 0 ∧
     issuing.mayIssue 1000 list1 d = true ∧ n = 0xF10 ∧ issuing.target dst n = .tile 6 0x10F0 ∧
     issuing.tileAway (issuing.queueCtx 1000) (.tile 6 0x10F0) = false ∧ list1.pos + n < d.len0) ∧
    (moving.queue 1000).xfers = [xfer] ∧ (moving.queue 1000).run = some list1 ∧ list1.ended = false ∧ list1.code ≤ 10 ∧
    xfer.waits = [] ∧ xfer.readWait = none ∧ xfer.holding = false ∧ xfer.written = false ∧ xfer.ctx = moving.queueCtx 1000 ∧ xfer.epoch = moving.epoch (moving.queueCtx 1000) ∧
    moving.target xfer.dst xfer.data.length = .tile 6 0x10F0 :=
  ⟨sound_of (by decide +kernel), sound_of (by decide +kernel), sound_of (by decide +kernel), sound_of (by decide +kernel),
    sound_of (by decide +kernel), by decide +kernel⟩

/-- Group 5 waits for tile 5; ring 3 of tile 5 for context 3 with one place; a message for it. -/
def grouped : State := base |> put (Reg.TILE_STATUS 5) F.TILE_STATUS_WAIT 1 |> put (Reg.STR_TG_CTL 5) F.STR_TG_CTL_VALID 1
  |> put (Reg.STR_TG_CTL 5) F.STR_TG_CTL_CONTEXT 3 |> setR (Reg.STR_TG_MASK0 5) 0x20
def ringed : State := ring |> put (Reg.CHN_CTRL 5 3) F.CHN_CTRL_EPOCH 9 |> put (Reg.CHN_PTR 5 3) F.CHN_PTR_WP 65535
def msg (epoch : Nat) : Packet := mkPacket State.reset 0 3 epoch 3 Op.MESSAGE 7 (msgAddr 0x55 9 (5 * 1024 + 3 * 32)) 63 (List.replicate 64 0xAB)
def posting (epoch : Nat) : State := { ringed with locals := [msg epoch] }
def ringWord : Word := ((0 : Word).put F.CHN_CTRL_SIZE 10).put F.CHN_CTRL_BASE (0x400000 / 128 - 1024)

theorem witness_QueueMapsAndRings : grouped.Sound ∧ (posting 9).Sound ∧ (posting 8).Sound ∧ (base.queue 1000).lists = [] ∧ (base.queue 1000).xfers = [] ∧
    (posted1.queue 1000).lists ≠ [] ∧ (0 : Word).get F.STR_Q_MAP_CONTEXT ≠ posted1.fld (Reg.STR_Q_MAP 1000) F.STR_Q_MAP_CONTEXT ∧
    grouped.groupStalled 5 = true ∧ base.groupStalled 5 = false ∧ ringWord.get F.CHN_CTRL_SIZE = 10 ∧
    ringWord.get F.CHN_CTRL_BASE * 128 + 2 ^ ringWord.get F.CHN_CTRL_SIZE * 128 = 0x400000 ∧
    base.on (Reg.CHN_CTRL 143 31) F.CHN_CTRL_ENABLE = false ∧ ringWord.get F.CHN_CTRL_ENABLE = 0 ∧
    (ringWord.put F.CHN_CTRL_ENABLE 1).get F.CHN_CTRL_BASE ≠ base.fld (Reg.CHN_CTRL 143 31) F.CHN_CTRL_BASE ∧
    (let s := setR (Reg.CHN_CTRL 143 31) ringWord base
     s.on (Reg.CHN_CTRL 143 31) F.CHN_CTRL_ENABLE = false ∧ ∀ f ∈ [F.CHN_CTRL_BASE, F.CHN_CTRL_SIZE, F.CHN_CTRL_CONTEXT, F.CHN_CTRL_EPOCH],
       (ringWord.put F.CHN_CTRL_ENABLE 1).get f = s.fld (Reg.CHN_CTRL 143 31) f) ∧
    (∀ e ∈ [8, 9], (posting e).localNext (msg e) = true ∧ ringed.localNext (msg e) = false ∧ (msg e).payload.length = 64) ∧
    (posting 9).msgCheck (readMsg false false (msg 9)) = none ∧ ((posting 8).msgCheck (readMsg false false (msg 8))).isSome = true ∧
    ringed.fld (Reg.CHN_ACCEPTS 5 3) ⟨47, 0⟩ < 0xFFFFFFFFFFFF ∧ ringed.fld (Reg.CHN_DROPS 5 3) ⟨47, 0⟩ < 0xFFFFFFFFFFFF :=
  ⟨sound_of (by decide +kernel), sound_of (by decide +kernel), sound_of (by decide +kernel), by decide +kernel⟩

/-- `Below` as a computation. -/
def below (s : State) (r n : Nat) : Bool := decide (s.fld r ⟨47, 0⟩ + n ≤ 0xFFFFFFFFFFFF)

theorem below_of {s : State} {r n : Nat} (h : below s r n = true) : s.Below r n := by
  unfold State.Below
  exact of_decide_eq_true h

theorem below2_of {s : State} {f g : Nat → Nat} {n : Nat} (h : ((List.range 2).all fun k => below s (f k) n && below s (g k) n) = true) :
    ∀ k, k < 2 → s.Below (f k) n ∧ s.Below (g k) n := fun k hk => by
  have := List.all_eq_true.mp h k (List.mem_range.mpr hk)
  rw [Bool.and_eq_true] at this
  exact ⟨below_of this.1, below_of this.2⟩

/-- `Quiet` as a computation, where nothing is cached. -/
def quiet (s : State) (a n : Nat) : Bool :=
  !s.memRefuses && decide (a + n ≤ hbmEnd) && decide (s.path.cache = []) && decide (s.path.wcb = []) && decide (s.path.clearing = []) &&
    decide (s.path.met = []) && decide (∀ la ∈ linesOf a n, s.poisoned la = false) &&
    (List.range 2).all fun h => below s (Reg.BC_H_HIT h) (n / 64 + 2) && below s (Reg.BC_H_MISS h) (n / 64 + 2)

theorem quiet_of {s : State} {a n : Nat} (h : quiet s a n = true) : s.Quiet a n := by
  simp only [quiet, Bool.and_eq_true, Bool.not_eq_true'] at h
  obtain ⟨⟨⟨⟨⟨⟨⟨h1, h2⟩, h3⟩, h4⟩, h5⟩, h6⟩, h7⟩, h8⟩ := h
  refine ⟨h1, of_decide_eq_true h2, of_decide_eq_true h4, of_decide_eq_true h5, of_decide_eq_true h6,
    fun la m => ⟨of_decide_eq_true h7 la m, fun l e => ?_⟩, below2_of h8⟩
  unfold State.cached at e
  rw [of_decide_eq_true h3] at e
  exact nomatch e

/-- `Steady` as a computation, where nothing is cached. -/
def steady (s : State) (l : List (Nat × Nat)) : Bool :=
  l.all (fun r => quiet s r.1 r.2) &&
  (let lines := l.flatMap fun r => linesOf r.1 r.2
   decide (∀ la ∈ lines, (s.setLines la).length + (lines.filter fun x => cacheSet x = cacheSet la ∧ s.half x = s.half la).length ≤ 24) &&
   (List.range 2).all fun h => below s (Reg.BC_H_HIT h) lines.length && below s (Reg.BC_H_MISS h) lines.length)

theorem steady_of {s : State} {l : List (Nat × Nat)} (h : steady s l = true) : s.Steady l := by
  rw [steady, Bool.and_eq_true, Bool.and_eq_true] at h
  exact ⟨fun r m => quiet_of (List.all_eq_true.mp h.1 r m), fun la m => .inr (of_decide_eq_true h.2.1 la m), below2_of h.2.2⟩

/-- `Free`, `Routes` and `Arrives` as computations. -/
def free (s : State) (pk : Packet) (p : Nat) : Bool :=
  !s.fatal && s.canSend p pk && decide ((s.port p).delayed = []) && below s (Reg.FAB_P_TX_PKTS p) 1 &&
    (List.range 32).all fun k => !injects s k p pk.cls.toNat (some pk.ctx.toNat) (some pk.dest.toNat)

theorem free_of {s : State} {pk : Packet} {p : Nat} (h : free s pk p = true) : s.Free pk p := by
  simp only [free, Bool.and_eq_true, Bool.not_eq_true'] at h
  obtain ⟨⟨⟨⟨h1, h2⟩, h3⟩, h4⟩, h5⟩ := h
  exact ⟨h1, h2, of_decide_eq_true h3, below_of h4, fun k hk => by
    have := List.all_eq_true.mp h5 k (List.mem_range.mpr hk)
    rwa [Bool.not_eq_true'] at this⟩

def routes (s : State) (pk : Packet) (p : Nat) : Bool :=
  free s pk p && decide (pk.hops.toNat + 1 ≤ s.fld Reg.FAB_CTRL F.FAB_CTRL_HOP_LIMIT) && decide ((s.bestRoutes pk.dest.toNat).length ≤ 1) &&
    decide (s.settlesBefore pk = none) && decide (s.queuesBefore pk = none) &&
    decide (s.routePort pk.src.toNat pk.dest.toNat pk.cls.toNat pk.addr.toNat = some p)

theorem routes_of {s : State} {pk : Packet} {p : Nat} (h : routes s pk p = true) : s.Routes pk p := by
  simp only [routes, Bool.and_eq_true] at h
  obtain ⟨⟨⟨⟨⟨h1, h2⟩, h3⟩, h4⟩, h5⟩, h6⟩ := h
  exact ⟨free_of h1, of_decide_eq_true h2, of_decide_eq_true h3, of_decide_eq_true h4, of_decide_eq_true h5, of_decide_eq_true h6⟩

def arrives (s : State) (q : Nat) (pk : Packet) : Bool :=
  !s.fatal && s.usable q && !(s.port q).closed && decide (pk.crc = packetCrc s.deviceId q pk) &&
    decide (pk.seq.toNat = (((s.port q).lane (onCtl pk)).rx + 1) % 65536) && below s (Reg.FAB_P_RX_PKTS q) 1

theorem arrives_of {s : State} {q : Nat} {pk : Packet} (h : arrives s q pk = true) : s.Arrives q pk := by
  simp only [arrives, Bool.and_eq_true, Bool.not_eq_true'] at h
  obtain ⟨⟨⟨⟨⟨h1, h2⟩, h3⟩, h4⟩, h5⟩, h6⟩ := h
  exact ⟨h1, h2, h3, of_decide_eq_true h4, of_decide_eq_true h5, below_of h6⟩

/-- A write into one line that nothing waits for, where nothing is cached and no entry is open. -/
def takes64 (s : State) (a n hint : Nat) : Bool :=
  !s.memRefuses && decide (0 < n) && decide (a % 64 + n ≤ 64) && !s.writeWaits a && decide (s.panSlotOf a = none) && decide (s.path.wcb = []) &&
    decide (s.path.cache = []) && decide (victim (lineOf a) (hint == 2 && decide (0 < s.keepWays)) s = none) &&
    below s (Reg.BC_H_HIT (s.half (lineOf a))) 1 && below s (Reg.BC_H_MISS (s.half (lineOf a))) 1

theorem takes64_of {s : State} {a n hint : Nat} (h : takes64 s a n hint = true) : s.Takes64 a n hint := by
  simp only [takes64, Bool.and_eq_true, Bool.not_eq_true', decide_eq_true_eq] at h
  obtain ⟨⟨⟨⟨⟨⟨⟨⟨⟨h1, h2⟩, h3⟩, h4⟩, h5⟩, h6⟩, h7⟩, h8⟩, h9⟩, h10⟩ := h
  refine ⟨h1, h2, h3, h4, h5, by rw [h6]; exact nofun, fun l e => ?_, h8, by rw [h6]; simp, below_of h9, below_of h10⟩
  unfold State.cached at e
  rw [h7] at e
  exact nomatch e

/-- Device 1 with ports 4 and 6 UP, device 77 behind port 4 and 50 behind port 6, context 3 of domain 2 with the first MiB of HBM, and rank 5. -/
def route (r lo hi port : Nat) (s : State) : State := s |> put (Reg.FAB_ROUTE r) F.FAB_ROUTE_VALID 1 |> put (Reg.FAB_ROUTE r) F.FAB_ROUTE_LO lo
  |> put (Reg.FAB_ROUTE r) F.FAB_ROUTE_HI hi |> put (Reg.FAB_ROUTE r) F.FAB_ROUTE_PORTS (2 ^ port)
def net : State := { (State.reset |> put Reg.MEM_STATUS F.MEM_STATUS_STATE 1 |> put Reg.FAB_ID F.FAB_ID_ID 1 |> up 4 |> up 6
  |> put (Reg.FAB_P_STATUS 4) F.FAB_P_STATUS_LANES 0xFF |> put (Reg.FAB_P_STATUS 6) F.FAB_P_STATUS_LANES 0xFF
  |> put (Reg.CTX_CTRL 3) F.CTX_CTRL_STATE 1 |> put (Reg.CTX_CTRL 3) F.CTX_CTRL_DOMAIN 2 |> put (Reg.CTX_CTRL 3) F.CTX_CTRL_EPOCH 9
  |> put (Reg.PRT_WIN_LO 0 0) F.PRT_WIN_LO_VALID 1 |> put (Reg.PRT_WIN_LO 0 0) F.PRT_WIN_LO_READ 1 |> put (Reg.PRT_WIN_LO 0 0) F.PRT_WIN_LO_WRITE 1
  |> put (Reg.PRT_WIN_HI 0 0) F.PRT_WIN_HI_ADDR 0xFF |> route 0 77 77 4 |> route 1 50 50 6) with
  rmaps := [(4, ⟨8, [0x804D, 0, 0, 0, 0, 0x8001], false⟩)] }

/-- A packet as it comes in on port `q` of device 1, the first after training. -/
def sent (q : Nat) (pk : Packet) : Packet := { pk with crc := packetCrc 1 q pk }
def plain (op a n : Nat) : Packet :=
  { mkPacket net 1 3 9 0 op 5 a (n - 1) ((List.range n).map fun i => BitVec.ofNat 8 (i + 1)) with src := 77 }
def packet (op a n : Nat) : Packet := sent 6 (plain op a n)
def readReq (a n : Nat) : Packet := sent 6 { plain Op.READ_REQ a n with payload := [], hint := 1 }
def linkQuery : Packet := sent 6 { plain Op.LINK_QUERY 6 1 with payload := [], cls := 3 }
def transit : Packet := sent 6 { plain Op.WRITE 0x1004 4 with dest := 77, src := 66, hops := 3 }
def group9 : Packet := sent 6 { plain Op.MCAST_WRITE (tileAddr 6 0x100) 4 with group := 9 }
def grouped9 (up down lcl : Nat) : State := net |> put (Reg.FAB_MC 9) F.FAB_MC_VALID 1 |> put (Reg.FAB_MC 9) F.FAB_MC_UP_PORT up
  |> put (Reg.FAB_MC 9) F.FAB_MC_DOWN down |> put (Reg.FAB_MC 9) F.FAB_MC_LOCAL lcl

/-- Requests that come in and are answered. -/
theorem witness_FabricRequests : net.Sound ∧
    (∀ pk ∈ [packet Op.WRITE 0x103C 4, packet Op.WRITE (tileAddr 6 0x100) 4, readReq 0x103C 8, readReq (tileAddr 6 0x100) 4, linkQuery],
      packetOk pk = true ∧ pk.dest.toNat = net.deviceId ∧ net.Arrives 6 pk ∧ (net.arrived 6 pk).Routes (net.answer pk 0 0) 4) ∧
    (packet Op.WRITE 0x103C 4).crc ≠ packetCrc net.deviceId 4 (packet Op.WRITE 0x103C 4) ∧ net.usable 4 = true ∧ (net.port 4).closed = false ∧
    net.fatal = false ∧ net.fld (Reg.FAB_P_CRC_ERRORS 4) ⟨47, 0⟩ + 1 ≤ 0xFFFFFFFFFFFF ∧
    net.destCheck 3 9 = none ∧ net.destCheck 3 8 = some Code.EPOCH_STALE ∧ localTarget 0x700000000000 4 = .bad ∧
    localTarget (tileAddr 6 0x100) 4 = .tile 6 0x100 ∧ net.swapping 6 = false ∧ localTarget 0x103C 4 = .hbm 0x103C ∧
    (net.windows (net.ctxPart 3) 0x103C 4 true).length = 1 ∧ (net.windows (net.ctxPart 3) 0x103C 8 false).length = 1 :=
  ⟨sound_of (by decide +kernel), fun pk h => by
      simp only [List.mem_cons, List.not_mem_nil, or_false] at h
      rcases h with rfl | rfl | rfl | rfl | rfl <;>
        exact ⟨by decide +kernel, by decide +kernel, arrives_of (by decide +kernel), routes_of (by decide +kernel)⟩,
    by decide +kernel⟩

/-- The conditions of their memory accesses, and of the responses with data. -/
theorem witness_FabricRequests_memory : (net.arrived 6 (packet Op.WRITE 0x103C 4)).Takes64 0x103C 4 0 ∧
    (let a := net.arrived 6 (readReq (tileAddr 6 0x100) 4)
     a.Routes (mkPacket net 77 3 9 Cls.DATA Op.READ_RESP 5 0 3 (net.tmBytes 6 0x100 4)) 4) ∧
    (let a := net.arrived 6 (readReq 0x103C 8)
     a.Quiet 0x103C 8 ∧ a.Routes (mkPacket net 77 3 9 Cls.DATA Op.READ_RESP 5 0 7 (net.hbmBytes 0x103C 8)) 4) ∧
    (let a := net.arrived 6 linkQuery
     a.Routes (net.answer linkQuery 0 ((a.port 6).data.rx + 65536 * (a.port 6).ctl.rx)) 4) :=
  ⟨takes64_of (by decide +kernel), routes_of (by decide +kernel), ⟨quiet_of (by decide +kernel), routes_of (by decide +kernel)⟩,
    routes_of (by decide +kernel)⟩

/-- Transit and multicast. -/
theorem witness_FabricRequests_onward : (grouped9 6 16 0).Sound ∧ (grouped9 6 0 1).Sound ∧ net.Arrives 6 transit ∧ packetOk transit = true ∧
    transit.dest.toNat ≠ net.deviceId ∧ (net.arrived 6 transit).Routes transit 4 ∧ net.fld Reg.FAB_TRANSIT ⟨47, 0⟩ + 1 ≤ 0xFFFFFFFFFFFF ∧
    (grouped9 6 16 0).Arrives 6 group9 ∧ (grouped9 6 0 1).Arrives 6 group9 ∧ packetOk group9 = true ∧ net.on (Reg.FAB_MC 9) F.FAB_MC_VALID = false ∧
    (∀ s ∈ [grouped9 6 16 0, grouped9 6 0 1], s.on (Reg.FAB_MC 9) F.FAB_MC_VALID = true ∧ s.on (Reg.FAB_MC 9) F.FAB_MC_ROOT = false ∧
      s.fld (Reg.FAB_MC 9) F.FAB_MC_UP_PORT = 6) ∧
    portsOf ((grouped9 6 16 0).fld (Reg.FAB_MC 9) F.FAB_MC_DOWN) = [4] ∧ (grouped9 6 16 0).usable 4 = true ∧
    (grouped9 6 16 0).on (Reg.FAB_MC 9) F.FAB_MC_LOCAL = false ∧ ((grouped9 6 16 0).arrived 6 group9).Free group9 4 ∧
    group9.hops.toNat + 1 ≤ net.fld Reg.FAB_CTRL F.FAB_CTRL_HOP_LIMIT ∧ portsOf ((grouped9 6 0 1).fld (Reg.FAB_MC 9) F.FAB_MC_DOWN) = [] ∧
    (grouped9 6 0 1).on (Reg.FAB_MC 9) F.FAB_MC_LOCAL = true ∧ (grouped9 6 0 1).destCheck 3 9 = none ∧ group9.poison = false ∧
    localTarget group9.addr.toNat 4 = .tile 6 0x100 ∧ (grouped9 6 0 1).swapping 6 = false :=
  ⟨sound_of (by decide +kernel), sound_of (by decide +kernel), arrives_of (by decide +kernel), by decide +kernel, by decide +kernel,
    routes_of (by decide +kernel), by decide +kernel, arrives_of (by decide +kernel), arrives_of (by decide +kernel), by decide +kernel,
    by decide +kernel, by decide +kernel, by decide +kernel, by decide +kernel, by decide +kernel, free_of (by decide +kernel), by decide +kernel⟩

/-- A message for a ring of this device from device 77, accepted and refused (its epoch). -/
def ringed77 : State := { net with regs := net.regs } |> put (Reg.TILE_STATUS 5) F.TILE_STATUS_STATE TileSt.RUNNING
  |> put (Reg.TILE_CTX 5) F.TILE_CTX_PRESENT 1 |> put (Reg.TILE_CTX 5) F.TILE_CTX_CONTEXT 3
  |> put (Reg.CHN_CTRL 5 3) F.CHN_CTRL_ENABLE 1 |> put (Reg.CHN_CTRL 5 3) F.CHN_CTRL_CONTEXT 3 |> put (Reg.CHN_CTRL 5 3) F.CHN_CTRL_SIZE 2
  |> put (Reg.CHN_CTRL 5 3) F.CHN_CTRL_BASE 8 |> put (Reg.CHN_CTRL 5 3) F.CHN_CTRL_EPOCH 9
def mail (epoch : BitVec 8) : Packet := sent 6 { plain Op.MESSAGE (msgAddr 0x55 9 (5 * 1024 + 3 * 32)) 64 with epoch := epoch, cls := 3 }

theorem witness_QueueMapsAndRings_remote : ringed77.Sound ∧ (∀ e ∈ [8, 9], (mail e).payload.length = 64 ∧ ringed77.Arrives 6 (mail e) ∧
      (mail e).dest.toNat = ringed77.deviceId ∧ messageOk (mail e) = true) ∧
    (let a := ringed77.arrived 6 (mail 9)
     a.msgCheck (readMsg true false (mail 9)) = none ∧ a.fld (Reg.CHN_ACCEPTS 5 3) ⟨47, 0⟩ + 1 ≤ 0xFFFFFFFFFFFF) ∧
    (let a := ringed77.arrived 6 (mail 9)
     a.Routes { ringed77.answer (mail 9) Code.DONE 0 with nack := 0 } 4) ∧
    (let a := ringed77.arrived 6 (mail 8)
     a.msgCheck (readMsg true false (mail 8)) = some .epoch ∧ a.fld (Reg.CHN_DROPS 5 3) ⟨47, 0⟩ + 1 ≤ 0xFFFFFFFFFFFF) ∧
    (let a := ringed77.arrived 6 (mail 8)
     a.Routes { ringed77.answer (mail 8) Code.REFUSED 0 with nack := BitVec.ofNat 4 Nack.epoch.code } 4) :=
  ⟨sound_of (by decide +kernel), fun e h => by
      simp only [List.mem_cons, List.not_mem_nil, or_false] at h
      rcases h with rfl | rfl <;> exact ⟨by decide +kernel, arrives_of (by decide +kernel), by decide +kernel, by decide +kernel⟩,
    by decide +kernel, routes_of (by decide +kernel), by decide +kernel, routes_of (by decide +kernel)⟩

/-- An open block-list read, a group packet that waits for two ports; the answers to them. -/
def fetching : ListRun := ⟨64, 0, none, 0, 0, none, some 5, 0, false, false, 9⟩
def asking : State := { net with
  opens := [⟨5, 77, 3, 9, 0x100, 64, .blockList 1000⟩], mcasts := [⟨9, 5, 77, 3, 9, [4, 6], 0, false, none⟩],
  queues := [(1000, { StrQueue.init with lists := [64], run := some fetching })] }
def readResp : Packet := sent 6 { plain Op.READ_RESP 0 64 with code := 0 }
def completion (cls : BitVec 2) : Packet := sent 6 { plain Op.COMPLETION 0 1 with payload := [], code := 6, cls := cls }
def report : Packet := sent 6 { plain Op.MCAST_ACK 0 1 with payload := [], code := 6, group := 9, src := 50, dest := 77 }

theorem witness_FabricAnswers : asking.Sound ∧
    (∀ pk ∈ [readResp, completion 0, completion 2, report], packetOk pk = true ∧ pk.tag.toNat = 5 ∧ asking.Arrives 6 pk) ∧
    (∀ pk ∈ [readResp, completion 0, completion 2], pk.dest.toNat = asking.deviceId) ∧
    asking.openOf 5 = some ⟨5, 77, 3, 9, 0x100, 64, .blockList 1000⟩ ∧ (asking.queue 1000).run = some fetching ∧ net.openOf 5 = none ∧
    readResp.code.toNat ≠ Code.REFUSED ∧ (completion 0).code.toNat ≠ Code.REFUSED ∧ localTarget 0x100 64 ≠ .bad ∧
    (∀ r ∈ [Reg.FAB_LATE, Reg.FAB_E2E_TIMEOUTS], asking.fld r ⟨47, 0⟩ + 1 ≤ 0xFFFFFFFFFFFF) ∧
    (∃ m ∈ asking.mcasts, asking.mcasts = [m] ∧ m.group = report.group.toNat ∧ m.tag = 5 ∧ 6 ∈ m.waits ∧ m.ctx = report.ctx.toNat ∧
      m.src = report.dest.toNat ∧ m.waits.erase 6 ≠ []) ∧ net.mcasts = [] :=
  ⟨sound_of (by decide +kernel), fun pk h => by
      simp only [List.mem_cons, List.not_mem_nil, or_false] at h
      rcases h with rfl | rfl | rfl | rfl <;> exact ⟨by decide +kernel, by decide +kernel, arrives_of (by decide +kernel)⟩,
    by decide +kernel⟩

/-- Port 4 with two packets in its replay buffer; one that waits for credit; one held by a reorder; each state; all rings locked. -/
def replaying : State := { net with ports := [(4, { PortState.init with data := { LinkSeq.init with
  next := 12, replay := [(10, .inl { transit with seq := 10 }), (11, .inl { transit with seq := 11 })] } })] }
def starved : State := { net with ports := [(4, { PortState.init with credits := [0, 5, 5, 5], queued := [transit] })] }
def delaying : State := { net with ports := [(4, { PortState.init with delayed := [(3, 2, .inl transit)] })] }
def portIn (n : Nat) : State := put (Reg.FAB_P_STATUS 4) F.FAB_P_STATUS_STATE n net
def locks (s : State) : State := forEach (List.range 9) (fun w => put (Reg.FAB_P_RING 4 w) F.FAB_P_RING_LOCKED 1) s
def doubted : State := put (Reg.FAB_P_STATUS 4) F.FAB_P_STATUS_PEER_DEVICE 50 (locks replaying)

theorem witness_FabricPorts : replaying.Sound ∧ starved.Sound ∧ delaying.Sound ∧
    (∀ s ∈ [replaying, starved, delaying, locks net, doubted], s.fatal = false ∧
      s.fld (Reg.FAB_P_RETRIES 4) ⟨47, 0⟩ + 2 ≤ 0xFFFFFFFFFFFF ∧ s.fld (Reg.FAB_P_TX_PKTS 4) ⟨47, 0⟩ + 1 ≤ 0xFFFFFFFFFFFF ∧
      s.fld (Reg.FAB_P_CRC_ERRORS 4) ⟨47, 0⟩ + 1 ≤ 0xFFFFFFFFFFFF) ∧
    (((replaying.port 4).lane false).replay.findIdx? (·.1 = 11) = some 1 ∧ (replaying.port 4).queued = [] ∧
      ((replaying.port 4).lane false).attempts < 15) ∧
    (∀ s ∈ [replaying, starved], s.usable 4 = true ∧ (s.port 4).closed = false ∧ hop4.seq.toNat = ((s.port 4).ctl.rx + 1) % 65536) ∧
    ((starved.port 4).queued = [transit] ∧ transit.cls = 0 ∧ (starved.port 4).delayed = [] ∧
      ((starved.port 4).lane (onCtl transit)).replay.length < 1024 ∧ (0 : BitVec 2).toNat < (starved.port 4).credits.length) ∧
    (∀ k, k < 32 → injects starved k 4 0 (some transit.ctx.toNat) (some transit.dest.toNat) = false) ∧
    (delaying.port 4).delayed = [(3, 2, .inl transit)] ∧
    (portIn PortSt.DOWN).on (Reg.FAB_P_CTRL 4) F.FAB_P_CTRL_ENABLE = true ∧ (portIn PortSt.DOWN).portSt 4 = PortSt.DOWN ∧
    (portIn PortSt.TRAINING).portSt 4 = PortSt.TRAINING ∧ net.on (Reg.FAB_P_CTRL 5) F.FAB_P_CTRL_ENABLE = false ∧
    ((0 : Word).put F.FAB_P_CTRL_ENABLE 1).get F.FAB_P_CTRL_ENABLE = 1 :=
  ⟨sound_of (by decide +kernel), sound_of (by decide +kernel), sound_of (by decide +kernel), by decide +kernel⟩

/-- Rings that lock and unlock, and a port that leaves service with nothing and with two packets in doubt. -/
theorem witness_FabricPorts_service : (locks net).Sound ∧ doubted.Sound ∧ net.on (Reg.FAB_P_RING 4 0) F.FAB_P_RING_LOCKED = false ∧
    (locks net).on (Reg.FAB_P_RING 4 7) F.FAB_P_RING_LOCKED = true ∧ (locks net).portSt 4 = PortSt.UP ∧
    (locks (portIn PortSt.DEGRADED)).portSt 4 = PortSt.DEGRADED ∧
    (∀ i, i < 9 → (locks (portIn PortSt.DEGRADED)).on (Reg.FAB_P_RING 4 i) F.FAB_P_RING_LOCKED = true) ∧
    (∀ s ∈ [locks net, doubted], s.usable 4 = true ∧ (s.port 4).queued = [] ∧ (s.port 4).delayed = [] ∧ (s.port 4).settling = none ∧
      (s.port 4).behind = [] ∧ s.mcasts = [] ∧ s.on (Reg.FAB_P_RING 4 8) F.FAB_P_RING_LOCKED = true ∧
      s.on (Reg.FAB_P_CTRL 4) F.FAB_P_CTRL_ENABLE = true) ∧
    (((locks net).port 4).data.replay ++ ((locks net).port 4).ctl.replay = [] ∧
      (((doubted.port 4).data.replay ++ (doubted.port 4).ctl.replay).filterMap fun e => match e.2 with | .inl pk => some pk | .inr _ => none) ≠ []) ∧
    (let query := mkPacket doubted 50 0 0 Cls.CONTROL Op.LINK_QUERY doubted.nextTag (doubted.fld (Reg.FAB_P_STATUS 4) F.FAB_P_STATUS_PEER_PORT) 0 []
     (setPortSt 4 PortSt.DOWN doubted).Routes query 6 ∧ (setPortSt 4 PortSt.DISABLED doubted).Routes query 6) :=
  ⟨sound_of (by decide +kernel), sound_of (by decide +kernel), by decide +kernel, by decide +kernel, by decide +kernel, by decide +kernel,
    by decide +kernel, by decide +kernel, by decide +kernel, routes_of (by decide +kernel), routes_of (by decide +kernel)⟩

/-- A table of three ranks being loaded for slot 1 of domain 2, in IDLE; a root in FLOW. -/
def loading : State := { (State.reset |> put Reg.MEM_STATUS F.MEM_STATUS_STATE 1 |> put (Reg.FAB_RMAP_SLOT 2 1) F.FAB_RMAP_SLOT_BASE 0x1000
  |> put (Reg.FAB_RMAP_SLOT 2 1) F.FAB_RMAP_SLOT_COUNT 3) with rmaps := [(5, ⟨0, [], true⟩)] }

theorem witness_RankMapsAndInjection : loading.Sound ∧ root.Sound ∧ loading.restful 2 = true ∧ root.restful 2 = false ∧ root.rankSlot 2 = 0 ∧
    (let v := ((0 : Word).put F.FAB_RMAP_SLOT_BASE (hbmEnd - 64)).put F.FAB_RMAP_SLOT_COUNT 8192
     v.get F.FAB_RMAP_SLOT_BASE % 64 = 0 ∧ v.get F.FAB_RMAP_SLOT_BASE < hbmEnd ∧ v.get F.FAB_RMAP_SLOT_COUNT ≤ 8192) ∧
    (loading.rmap 2 0).loading = false ∧ (loading.rmap 2 1).loading = true ∧
    loading.Steady [(loading.fld (Reg.FAB_RMAP_SLOT 2 1) F.FAB_RMAP_SLOT_BASE, 2 * loading.fld (Reg.FAB_RMAP_SLOT 2 1) F.FAB_RMAP_SLOT_COUNT)] ∧
    ((0 : Word).put F.FAB_RMAP_CTRL_PHASED 1).get F.FAB_RMAP_CTRL_PHASED ≠ root.fld (Reg.FAB_RMAP_CTRL 2) F.FAB_RMAP_CTRL_PHASED ∧
    (let v := ((0 : Word).put F.FAB_INJ_ACTION_ACTION 2).put F.FAB_INJ_ACTION_DEPTH 1
     v.get F.FAB_INJ_ACTION_ACTION < 3 ∧ v.get F.FAB_INJ_ACTION_ACTION = 2 ∧ v.get F.FAB_INJ_ACTION_DEPTH ≠ 0) ∧
    ((0 : Word).put F.FAB_INJ_ACTION_ACTION 3).get F.FAB_INJ_ACTION_ACTION = 3 :=
  ⟨sound_of (by decide +kernel), sound_of (by decide +kernel), by decide +kernel, by decide +kernel, by decide +kernel, by decide +kernel,
    by decide +kernel, by decide +kernel, steady_of (by decide +kernel), by decide +kernel⟩

/-- Inbound port 9 of tile 5 and outbound port 10 of tile 6, peers of each other, on stage 2 of context 3. -/
def stagePortAt (p dir tile ctxp peer : Nat) (s : State) : State := s |> put (Reg.STG_P_CTRL p) F.STG_P_CTRL_ENABLE 1
  |> put (Reg.STG_P_CTRL p) F.STG_P_CTRL_DIR dir |> put (Reg.STG_P_CTRL p) F.STG_P_CTRL_TILE tile
  |> put (Reg.STG_P_CTRL p) F.STG_P_CTRL_STAGE 2 |> put (Reg.STG_P_CTRL p) F.STG_P_CTRL_CTXP ctxp
  |> put (Reg.STG_P_STATUS p) F.STG_P_STATUS_STATE StgSt.ACTIVE |> put (Reg.STG_P_PEER p) F.STG_P_PEER_PEER_PORT peer
  |> put (Reg.STG_P_STATUS p) F.STG_P_STATUS_PEER_DEVICE 1
def ports : State := net |> put (Reg.STG_S_CTRL 2) F.STG_S_CTRL_VALID 1 |> put (Reg.STG_S_CTRL 2) F.STG_S_CTRL_CONTEXT 3
  |> put (Reg.TILE_CTX 5) F.TILE_CTX_PRESENT 1 |> put (Reg.TILE_CTX 5) F.TILE_CTX_CONTEXT 3
  |> put (Reg.TILE_CTX 6) F.TILE_CTX_PRESENT 1 |> put (Reg.TILE_CTX 6) F.TILE_CTX_CONTEXT 3 |> stagePortAt 9 0 5 1 10 |> stagePortAt 10 1 6 2 9
def portWith (p : Nat) (x : StagePort) : State := { ports with stagePorts := [(p, x)] }
def disabled : State := ports |> put (Reg.STG_P_CTRL 9) F.STG_P_CTRL_ENABLE 0 |> put (Reg.STG_P_STATUS 9) F.STG_P_STATUS_STATE StgSt.DISABLED
  |> put (Reg.STG_P_PEER 9) F.STG_P_PEER_PEER_RANK 5
def head (d : Nat) : Packet := sent 6 { plain Op.UNIT (9 * 2 ^ 32 + 2 ^ 11) 16 with cls := 1, payload := bytesOf 8 d ++ bytesOf 2 1 ++ List.replicate 6 0 }
def body (n : Nat) : Packet := sent 6 { plain Op.UNIT (9 * 2 ^ 32 + 1) n with cls := 1 }
def arriving : State := portWith 9 { StagePort.init with seqIn := 1, arriving := some ⟨0, 5, 77, 9, [], []⟩ }
def entryOf (tag : Nat) : Arrival := ⟨0, tag, 1, 9, List.replicate 64 0xEE, []⟩
def sending : State := put (Reg.STG_P_STATUS 10) F.STG_P_STATUS_OUTSTANDING 1 (portWith 10 { StagePort.init with sending := [entryOf 10] })
def spilled : State := portWith 9 { StagePort.init with spilled := [0] } |> setRaw 0x20000 (List.replicate 64 0xCD)
  |> put (Reg.STG_P_SPILL 9) F.STG_P_SPILL_SLOTS 2 |> put (Reg.STG_P_SPILL 9) F.STG_P_SPILL_BASE 0x20000
def parked : State := portWith 9 { StagePort.init with parked := [entryOf 10] }
def granting : State := portWith 9 { StagePort.init with granting := true }

theorem witness_StagePorts : ports.Sound ∧ disabled.Sound ∧ sending.Sound ∧ spilled.Sound ∧ parked.Sound ∧
    (∀ s ∈ [ports, disabled, arriving, sending, spilled, parked, granting], s.fatal = false ∧ s.swap = none) ∧
    ((∀ q, q < 256 → ports.stgState q = StgSt.ACTIVE → ports.stgStage q ≠ 3) ∧ ports.inflight 3 = 0) ∧
    (let s := put (Reg.STG_S_STATUS 2) F.STG_S_STATUS_INFLIGHT 1 ports
     s.inflight 2 ≠ 0 ∧ (0 : Word).get F.STG_S_CTRL_CONTEXT ≠ s.fld (Reg.STG_S_CTRL 2) F.STG_S_CTRL_CONTEXT) ∧
    (let v := ((disabled.reg (Reg.STG_P_CTRL 9)).put F.STG_P_CTRL_ENABLE 1).put F.STG_P_CTRL_LAND_SLOTS 1
     let w := genericWrite (Reg.STG_P_CTRL 9) v disabled
     disabled.on (Reg.STG_P_CTRL 9) F.STG_P_CTRL_ENABLE = false ∧ v.get F.STG_P_CTRL_ENABLE = 1 ∧ v.get F.STG_P_CTRL_DIR = 0 ∧ w.stageFits 9 = true ∧
     disabled.rankDevice (disabled.ctxDomain (w.stgCtx 9)) (disabled.fld (Reg.STG_P_PEER 9) F.STG_P_PEER_PEER_RANK) = some disabled.deviceId) ∧
    (let v := (ports.reg (Reg.STG_P_CTRL 9)).put F.STG_P_CTRL_ENABLE 0
     ports.on (Reg.STG_P_CTRL 9) F.STG_P_CTRL_ENABLE = true ∧ v.get F.STG_P_CTRL_ENABLE = 0 ∧
     (genericWrite (Reg.STG_P_CTRL 9) (v.put F.STG_P_CTRL_ENABLE 1) ports).reg (Reg.STG_P_CTRL 9) = ports.reg (Reg.STG_P_CTRL 9)) ∧
    (let x := sending.stagePort 10
     x.sending = [entryOf 10] ∧ sending.stgState 10 = StgSt.ACTIVE ∧ sending.stgPeerPort 10 = 9 ∧ sending.stageTakes 9 (sending.stgCtx 10) 0 = true ∧
     sending.stgLevel 9 < sending.stgCapacity 9 ∧ (1 : Nat) = sending.deviceId ∧ (sending.stagePort 9).spilled = [] ∧
     (sending.stagePort 9).parked = [] ∧ sending.canLand 9 = true ∧ sending.fld (Reg.STG_P_ENTRIES 9) ⟨47, 0⟩ + 1 ≤ 0xFFFFFFFFFFFF) ∧
    ((spilled.stagePort 9).spilled = [0] ∧ (spilled.stagePort 9).parked = [] ∧ spilled.stgState 9 = StgSt.ACTIVE ∧ spilled.canLand 9 = true ∧
      spilled.spillAddr 9 0 = 0x20000 ∧ descBytes 0 = 64 ∧ spilled.path.held = [] ∧ (spilled.windows (spilled.ctxPart (spilled.stgCtx 9)) 0x20000 64 false).length = 1) ∧
    spilled.Steady [(0x20000, 64)] ∧
    ((parked.stagePort 9).spilled = [] ∧ (parked.stagePort 9).parked = [entryOf 10] ∧ parked.stgState 9 = StgSt.ACTIVE ∧ parked.canLand 9 = true ∧
      (1 : Nat) = parked.deviceId) ∧
    (ports.stgState 10 = StgSt.ACTIVE ∧ ports.stgInbound 10 = false ∧ ports.stgCredits 10 < 2047 ∧ ports.stgPeer 10 = ports.deviceId ∧
      ports.usable 4 = true ∧ (ports.port 4).closed = false ∧ hop4.seq.toNat = ((ports.port 4).ctl.rx + 1) % 65536) ∧
    ((granting.stagePort 9).granting = true ∧ granting.stgState 9 = StgSt.ACTIVE ∧ granting.stgPeer 9 = granting.deviceId ∧
      (ports.stagePort 9).granting = false) :=
  ⟨sound_of (by decide +kernel), sound_of (by decide +kernel), sound_of (by decide +kernel), sound_of (by decide +kernel),
    sound_of (by decide +kernel), by decide +kernel, by decide +kernel, by decide +kernel, by decide +kernel, by decide +kernel,
    by decide +kernel, by decide +kernel, steady_of (by decide +kernel), by decide +kernel, by decide +kernel, by decide +kernel⟩

/-- Entries that arrive: a head that is taken, one that is refused (its length), a part and the rest of the data. -/
theorem witness_StagePorts_arrival : arriving.Sound ∧
    (∀ d ∈ [0, 1], ports.Arrives 6 (head d) ∧ (head d).dest.toNat = ports.deviceId ∧ packetOk (head d) = true ∧ (head d).op.toNat = Op.UNIT ∧
      ports.destCheck (head d).ctx.toNat (head d).epoch.toNat = none ∧ stageUnitOk (head d) true = true ∧ (head d).len = 15 ∧
      field (head d).payload 10 6 = 0 ∧ field (head d).payload 8 2 < 2048 ∧ dport (head d) = 9 ∧ (head d).addr.toNat % 2048 = (ports.stagePort 9).seqIn) ∧
    ports.stageTakes 9 3 0 = true ∧ (ports.stagePort 9).arriving = none ∧ ports.stgLevel 9 < ports.stgCapacity 9 ∧ ports.stageTakes 9 3 1 = false ∧
    (ports.arrived 6 (head 1)).Routes (ports.answer (head 1) 0 0) 4 ∧
    (∀ n ∈ [32, 64], arriving.Arrives 6 (body n) ∧ stageUnitOk (body n) false = true ∧ (body n).dest.toNat = arriving.deviceId ∧
      (body n).addr.toNat % 2048 = (arriving.stagePort 9).seqIn ∧ (body n).src.toNat = 77 ∧ (body n).tag.toNat = 5 ∧ (body n).epoch.toNat = 9) ∧
    ((arriving.stagePort 9).arriving = some ⟨0, 5, 77, 9, [], []⟩ ∧ (arriving.stagePort 9).refused = none ∧ arriving.stgCtx 9 = 3 ∧
      arriving.stgInbound 9 = true ∧ arriving.stgState 9 = StgSt.ACTIVE ∧ 77 ≠ arriving.deviceId ∧ (arriving.stagePort 9).spilled = [] ∧
      (arriving.stagePort 9).parked = [] ∧ arriving.canLand 9 = true ∧ arriving.fld (Reg.STG_P_ENTRIES 9) ⟨47, 0⟩ + 1 ≤ 0xFFFFFFFFFFFF) ∧
    (arriving.arrived 6 (body 64)).Routes { mkPacket arriving 77 (arriving.stgCtx 9) 9 Cls.STAGE Op.COMPLETION 5 0 0 [] with code := 0 } 4 :=
  ⟨sound_of (by decide +kernel), fun d h => by
      simp only [List.mem_cons, List.not_mem_nil, or_false] at h
      rcases h with rfl | rfl <;> exact ⟨arrives_of (by decide +kernel), by decide +kernel⟩,
    by decide +kernel, by decide +kernel, by decide +kernel, by decide +kernel, routes_of (by decide +kernel), fun n h => by
      simp only [List.mem_cons, List.not_mem_nil, or_false] at h
      rcases h with rfl | rfl <;> exact ⟨arrives_of (by decide +kernel), by decide +kernel⟩,
    by decide +kernel, routes_of (by decide +kernel)⟩

/-- Layer 3 of the table at 0x10000 with one segment (number 200): two blocks at 0x30000, rank 5 (this device) with the child of rank 0
(device 77), for shard 0x55, which entry 6 of the update table names. -/
def cells (a : Nat) (l : List Byte) : List Host.Cell := (l.zipIdx a).filterMap fun x => if x.1 = 0 then none else some (x.2, x.1)
def blockOf (e : Nat) : List Byte := bytesOf 1 e ++ [1] ++ List.replicate 31 0
def segDesc (parent child : Nat) : List Byte := bytesOf 8 0x30000 ++ bytesOf 8 0x38000 ++ bytesOf 4 2 ++ bytesOf 2 5 ++ bytesOf 2 parent ++
  bytesOf 2 child ++ List.replicate 12 0xFF ++ bytesOf 4 0x55 ++ bytesOf 1 200
def shardOf (reads : Nat) : List Byte := bytesOf 2 3 ++ bytesOf 2 (1 + 2 * reads) ++ bytesOf 4 0 ++ bytesOf 4 0x55 ++ bytesOf 4 64 ++ bytesOf 8 0 ++
  bytesOf 8 0x50000 ++ bytesOf 2 0 ++ bytesOf 2 1 ++ bytesOf 4 0 ++ bytesOf 8 0x51000
def layerDesc : List Byte := bytesOf 2 0x8003 ++ bytesOf 2 1 ++ List.replicate 4 0 ++ bytesOf 8 0x20000 ++ bytesOf 18 (2 ^ 5)
def tables (parent child : Nat) : State := { (net |> put (Reg.TIDE_CTRL 2) F.TIDE_CTRL_ROLE 1 |> setR (Reg.TIDE_VALUE 2) (tideWord 7 Phase.DRAIN 0)
  |> put Reg.RED_LT F.RED_LT_COUNT 8 |> put Reg.RED_LT F.RED_LT_BASE 0x10000
  |> put Reg.UPD_TABLE F.UPD_TABLE_COUNT 8 |> put Reg.UPD_TABLE F.UPD_TABLE_BASE 0x400) with
  mem := cells 0x100C0 layerDesc ++ cells 0x20000 (segDesc parent child) ++ cells 0x30000 (blockOf 3 ++ blockOf 250) ++ cells 0x40600 (shardOf 0) }
def reducing (state : Nat) (segs : List RedSegment) (s : State) : State := { s with reds := [(3, ⟨7, state, 0, [5], 3, 9, segs, [], none⟩)] }
def waitingLayer : State := reducing RedSt.WAITING [] (tables 0xFFFF 0)

theorem witness_LayerReduction : waitingLayer.Sound ∧ waitingLayer.redReady 3 = true ∧ (tables 0xFFFF 0).redReady 3 = false ∧
    (let s := waitingLayer
     let e := s.hbmBytes (s.layerAddr 3) 64
     let sd := s.hbmBytes (field e 8 8) 64
     s.layerAddr 3 = 0x100C0 ∧ entryOk e = true ∧ field e 2 2 = 1 ∧ field e 8 8 = 0x20000 ∧ segOk sd = true ∧ field sd 16 4 = 2 ∧
     field sd 0 8 = 0x30000 ∧ (∀ x ∈ [(0x100C0, 64), (0x20000, 64), (0x30000, 66)], (s.windows (s.ctxPart 3) x.1 x.2 false).length = 1) ∧
     field sd 22 2 = 0xFFFF ∧ descChildren sd = [field sd 24 2] ∧ s.rankDevice (s.ctxDomain 3) (field sd 20 2) = some s.deviceId ∧
     s.rankDevice (s.ctxDomain 3) (field sd 24 2) = some 77 ∧ (s.shardsOf 3 (field sd 38 4)).length = 1) ∧
    waitingLayer.Steady [(0x100C0, 64), (0x20000, 64), (0x30000, 66)] ∧ waitingLayer.fld Reg.RED_BLOCKS ⟨47, 0⟩ + 2 ≤ 0xFFFFFFFFFFFF :=
  ⟨sound_of (by decide +kernel), by decide +kernel, by decide +kernel, by decide +kernel, steady_of (by decide +kernel), by decide +kernel⟩

/-- Reduce packets of two blocks at most, and running segments that wait for a second child, for the parent's exponents, and for sums. -/
def reducePk (pass blk : Nat) (data : List Byte) : Packet := sent 6 { plain Op.UNIT (3 * 2 ^ 36 + 200 * 2 ^ 28 + blk * 16 + pass * 4)
  (8 + data.length) with cls := 2, payload := bytesOf 5 7 ++ [0, 0, 0] ++ data }
def chunk : RedChunk := ⟨0, true, blockOf 3 ++ blockOf 250, [], [], [3, 250], [], false, [], none, [], []⟩
def upSeg : RedSegment := ⟨200, 0x30000, 0x38000, 2, 0x55, none, [77, 78], [chunk], 1, 0, [], [], [], false, false, false, none⟩
def downSeg : RedSegment := { upSeg with parent := some 77, children := [], chunks := [{ chunk with upSent := true }] }
def sumSeg : RedSegment := { upSeg with chunks := [{ chunk with upSent := true, exps := some [9, 250] }] }
def upLayer : State := reducing RedSt.RUNNING [upSeg] (tables 0xFFFF 0)
def downLayer : State := reducing RedSt.RUNNING [downSeg] (tables 0 0xFFFF)
def sumLayer : State := reducing RedSt.RUNNING [sumSeg] (tables 0xFFFF 0)
def sumPk : Packet := reducePk Pass.SUM 0 ((List.range 32).flatMap fun i => bytesOf 6 (2 ^ 48 - 1 - i))

/-- What a reduce packet has to meet on its way to a record. -/
def reduceMeets (s : State) (pk : Packet) : Bool :=
  arrives s 6 pk && decide (bits pk.addr.toNat 47 36 = 3) && decide (bits pk.addr.toNat 27 12 = 0) && decide (pk.addr.toNat % 4 = 0) &&
    decide (pk.dest.toNat = s.deviceId) && packetOk pk && decide (pk.op.toNat = Op.UNIT) && decide (pk.cls.toNat = Cls.REDUCE) &&
    decide (field pk.payload 5 3 = 0) && !pk.poison && decide (s.destCheck pk.ctx.toNat pk.epoch.toNat = none) &&
    decide ((rankOfDevice (s.ctxDomain pk.ctx.toNat) pk.src.toNat (s.arrived 6 pk)).2 = some 0) &&
    s.redAccepts pk (bits pk.addr.toNat 3 2) (some 0)

theorem witness_LayerReduction_early :
    (reduceMeets waitingLayer (reducePk Pass.EXP_UP 0 [9]) && !waitingLayer.redLast (reducePk Pass.EXP_UP 0 [9])) = true := by
  decide +kernel

theorem witness_LayerReduction_up : upLayer.Sound ∧
    (reduceMeets upLayer (reducePk Pass.EXP_UP 0 [9]) && !upLayer.redLast (reducePk Pass.EXP_UP 0 [9])) = true :=
  ⟨sound_of (by decide +kernel), by decide +kernel⟩

theorem witness_LayerReduction_up_last :
    (reduceMeets upLayer (reducePk Pass.EXP_UP 0 [9, 8]) && upLayer.redLast (reducePk Pass.EXP_UP 0 [9, 8])) = true := by
  decide +kernel

theorem witness_LayerReduction_answer :
    (upLayer.arrived 6 (reducePk Pass.EXP_UP 0 [9, 8])).Routes (upLayer.answer (reducePk Pass.EXP_UP 0 [9, 8]) 0 0) 4 :=
  routes_of (by decide +kernel)

theorem witness_LayerReduction_down : downLayer.Sound ∧
    (reduceMeets downLayer (reducePk Pass.EXP_DOWN 0 [9]) && !downLayer.redLast (reducePk Pass.EXP_DOWN 0 [9])) = true :=
  ⟨sound_of (by decide +kernel), by decide +kernel⟩

theorem witness_LayerReduction_sum : sumLayer.Sound ∧ (reduceMeets sumLayer sumPk && !sumLayer.redLast sumPk) = true :=
  ⟨sound_of (by decide +kernel), by decide +kernel⟩

theorem witness_LayerReduction_segments :
    (∀ g ∈ [upSeg, downSeg, sumSeg], g.seg = 200 ∧ g.code = none ∧ g.blocks = 2 ∧ g.finished = 0 ∧ g.next = 1) ∧
    (78 ∈ upSeg.children ∧ ∀ e ∈ chunk.upFrom, e.1 ≠ 78) ∧ upLayer.red 3 = ⟨7, RedSt.RUNNING, 0, [5], 3, 9, [upSeg], [], none⟩ := by
  decide +kernel

/-- Entry 6 is scheduled; it has started with a program of one bundle of NOPs; its layer has failed; the tables are at rest. -/
def scheduled : State := put (Reg.UPD_COMMIT 6) F.UPD_COMMIT_CUR 1 { tables 0xFFFF 0 with runs := [(6, some ⟨7, 2, false, 0, 9, [], [], [], []⟩)] }
def running : State := put (Reg.UPD_COMMIT 6) F.UPD_COMMIT_RUN RunSt.RUNNING { scheduled with
  runs := [(6, some ⟨7, 2, true, 0, 9, shardOf 0 ++ List.replicate 208 0, [], List.replicate 16 0, List.replicate 104 0⟩)] }
def failing : State := reducing RedSt.RUNNING [{ upSeg with code := some Code.POISONED }]
  (setRaw (0x40000 + 256 * 6) (shardOf 1) (put Reg.RED_LT F.RED_LT_COUNT 4 scheduled))
def resting : State := setR (Reg.TIDE_VALUE 2) (tideWord 7 Phase.IDLE 0) scheduled

/-- A run that may start now. -/
def runMay (s : State) (n : Nat) : Bool :=
  (s.upd n).isSome && s.runReady n && decide (s.runsActive < 8) && !s.fatal && s.runs.all fun x => !(decide (x.1 < n) && s.runReady x.1)

theorem witness_ShardUpdates : scheduled.Sound ∧ runMay scheduled 6 = true :=
  ⟨sound_of (by decide +kernel), by decide +kernel⟩

theorem witness_ShardUpdates_fails : failing.Sound ∧ runMay failing 6 = true ∧
    failing.runWaits (failing.shardEntry 6) 7 = some (some Code.POISONED) :=
  ⟨sound_of (by decide +kernel), by decide +kernel, by decide +kernel⟩

theorem witness_ShardUpdates_registers : running.Sound ∧ net.upd 6 = none ∧ scheduled.runSt 6 ≠ RunSt.RUNNING ∧
    resting.restful (resting.ctxDomain (shardCtx (resting.shardEntry 6))) = true ∧
    running.runSt 6 = RunSt.RUNNING ∧ State.reset.anyContext = false ∧ net.anyContext = true :=
  ⟨sound_of (by decide +kernel), by decide +kernel⟩

/-- Its entry, its program and its parameters are good and within the context's window, and memory serves their reads. -/
theorem witness_ShardUpdates_start :
    (let e := readShard (scheduled.hbmBytes (scheduled.shardAddr 6) 256)
     decide (scheduled.shardAddr 6 = 0x40600) && decide (scheduled.runWaits (scheduled.shardEntry 6) 7 = some none) && shardOk e &&
     decide (e.prog = (0, 0x50000)) && decide (e.len.2 = 1) && decide (e.param = 0x51000) &&
     (programs e [] (scheduled.hbmBytes 0x50000 16)).isSome &&
     [(0x50000, 16), (0x51000, 104)].all fun x => decide ((scheduled.windows (scheduled.ctxPart e.ctx) x.1 x.2 false).length = 1)) = true ∧
    scheduled.Steady [(0x40600, 256), (0x50000, 16), (0x51000, 104)] ∧ below scheduled Reg.UPD_RUNS 1 = true :=
  ⟨by decide +kernel, steady_of (by decide +kernel), by decide +kernel⟩

/-- Its program runs to its end; one that loads stream 0 is refused where no window reads. -/
def blind : State := put (Reg.UPD_COMMIT 6) F.UPD_COMMIT_RUN RunSt.RUNNING (put (Reg.PRT_WIN_LO 0 0) F.PRT_WIN_LO_READ 0 { scheduled with
  runs := [(6, some ⟨7, 2, true, 0, 9, shardOf 0 ++ List.replicate 80 0 ++ bytesOf 12 0x60000 ++ [0x10] ++ List.replicate 115 0, [],
    List.replicate 15 0 ++ [1], List.replicate 104 0⟩)] })

/-- The conditions of a run's completion, with what its program ends with. -/
def runEnds (s : State) (n : Nat) (fail : Option Nat) : Bool :=
  match s.upd n with
  | none => false
  | some r =>
    let e := readShard r.entry
    match programs e r.prog0 r.prog1 with
    | none => false
    | some p =>
      let x := runProgram n e r p (freshOp s)
      r.started && decide (s.runSt n = RunSt.RUNNING) && !s.fatal && !s.shardClears e && !s.runHeld n && decide (x.s.path.owed = []) &&
        !x.s.opHeld x.s.path.op && decide (x.s.upd n = some r) && decide (x.s.runSt n = RunSt.RUNNING) && below x.s Reg.UPD_ELEMENTS e.n &&
        below x.s Reg.UPD_ACTIVE ((p.1.length + p.2.length) * ceilDiv (ceilDiv e.n 256) 4) && decide (x.fail = fail) &&
        !x.s.postPass n r.domain && !e.pub

theorem witness_ShardUpdates_ends : runEnds running 6 none = true ∧ runEnds blind 6 (some Code.REFUSED) = true ∧ (readShard (shardOf 0)).n = 64 := by
  decide +kernel

/-- Two slots of 1 GiB from 4 GiB on, for domain 2, whose root this device is; slot 1 in each of its states. -/
def pans : State := net |> put (Reg.TIDE_CTRL 2) F.TIDE_CTRL_ROLE Role.ROOT |> setR (Reg.TIDE_VALUE 2) (tideWord 7 Phase.FLOW 0)
  |> put Reg.PAN_RESERVE F.PAN_RESERVE_SIZE_GIB 2 |> put Reg.PAN_RESERVE F.PAN_RESERVE_NSLOTS 1 |> put Reg.PAN_RESERVE F.PAN_RESERVE_BASE 4
  |> put (Reg.PAN_D_CTRL 2) F.PAN_D_CTRL_CONTEXT 3
  |> put (Reg.PAN_D_BUDDY 2) F.PAN_D_BUDDY_EN 1 |> put (Reg.PAN_D_BUDDY 2) F.PAN_D_BUDDY_IMG_GIB 1
  |> put Reg.HRV_CTRL F.HRV_CTRL_AREAS 3 |> put Reg.HRV_CTRL F.HRV_CTRL_RATE 1 |> put Reg.HRV_CTRL F.HRV_CTRL_TIMEOUT_MS 1
def slotIs (n st : Nat) (s : State) : State := s |> put (Reg.PAN_SLOT_STATUS n) F.PAN_SLOT_STATUS_STATE st |> put (Reg.PAN_SLOT_STATUS n) F.PAN_SLOT_STATUS_DOMAIN 2
def filling : State := { slotIs 1 PanSt.FILLING pans with
  mem := cells 0x30000 (bytesOf 2 0x1234), panSlots := [(1, ⟨1, [⟨0x30000, 0x140100000, 64, 3⟩], none, none, []⟩)]
  path := { pans.path with guarded := [3] } }
def full : State := slotIs 1 PanSt.FULL pans
def mirrors (m : Mirror) : State := { full with panSlots := [(1, ⟨1, [], some m, none, []⟩)] }
def recordBytes : List Byte := List.replicate 16 0 ++ [0, 1] ++ List.replicate 46 0
def readHead (n dev : Nat) : Packet := mkPacket full dev 3 9 Cls.DATA Op.READ_REQ full.nextTag (full.buddyBase 2) n []

theorem witness_PanSlots : filling.Sound ∧ full.Sound ∧ filling.path.waiting = [] ∧ filling.reds = [] ∧
    (filling.panSlot 1).todo = [⟨0x30000, 0x140100000, 64, 3⟩] ∧ (∀ m, m < 4 → m ≠ 1 → (filling.panSlot m).todo = []) ∧
    (∀ m, m < 4 → (filling.panSlot m).mirror = none) ∧ filling.path.held = [] ∧ filling.Quiet 0x30000 64 ∧ filling.cached 0x140100000 = none ∧
    granuleOf 0x140100000 ∉ filling.path.guarded ∧ granuleOf 0x30000 ∈ filling.path.guarded ∧ (3 : BitVec 23).toNat = granuleOf 0x30000 ∧
    (∀ r ∈ [Reg.BC_H_MISS 0, Reg.BC_H_MISS 1, Reg.PAN_FILL_BYTES], filling.fld r ⟨47, 0⟩ + 64 ≤ 0xFFFFFFFFFFFF) ∧
    filling.fld (Reg.PAN_SLOT_FILLED 1) F.PAN_SLOT_FILLED_V + 64 < 2 ^ 48 ∧ filling.panSt 1 = PanSt.FILLING ∧ (filling.panSlot 1).owes = [] ∧
    full.panSt 1 ≠ PanSt.FILLING ∧ full.path.waiting = [] ∧ full.reds = [] :=
  ⟨sound_of (by decide +kernel), sound_of (by decide +kernel), by decide +kernel, by decide +kernel, by decide +kernel, by decide +kernel,
    by decide +kernel, by decide +kernel, quiet_of (by decide +kernel), by decide +kernel⟩

def mirror0 : Mirror := ⟨77, 0, 0, 0, 0⟩
def mirror1 : Mirror := ⟨77, 1, 1, 0x100000 - 256, 256⟩

theorem witness_PanSlots_mirror : (mirrors mirror0).Sound ∧ (mirrors mirror1).Sound ∧ (mirrors ⟨77, 2, 1, 0x100000, 0⟩).Sound ∧
    (let s := mirrors mirror0
     (s.panSlot 1).mirror = some mirror0 ∧ mirror0.stage = 0 ∧ s.panDom 1 = 2 ∧ s.panCtx 2 = 3 ∧ field recordBytes 17 1 = 1 ∧
     s.imageBytes 1 ≤ s.fld (Reg.PAN_D_BUDDY 2) F.PAN_D_BUDDY_IMG_GIB * 0x40000000 ∧ s.panCopied 1 256 = true ∧ s.panBase 1 = 0x140000000 ∧
     s.on (Reg.TIDE_DSTATUS (s.ctxDomain 3)) F.TIDE_DSTATUS_STALE = false) ∧
    (mirrors mirror0).Steady [(0x140000000, 256)] ∧
    (let s := mirrors mirror0
     s.Routes (mkPacket s 77 3 (s.epoch 3) Cls.DATA Op.WRITE s.nextTag (s.buddyBase 2 + 0x10000 + 0x40000000) 255 (s.hbmBytes 0x140000000 256)) 4) ∧
    (let s := mirrors mirror1
     (s.panSlot 1).mirror = some mirror1 ∧ s.panSt 1 = PanSt.FULL ∧ mirror1.pos + mirror1.sent = s.imageBytes 1 ∧
     rankOfDevice 2 s.deviceId s = (s, some 5) ∧ s.fld (Reg.PAN_SLOT_MIRRORED 1) F.PAN_SLOT_MIRRORED_V + mirror1.sent < 2 ^ 48 ∧
     below s Reg.PAN_MIR_BYTES mirror1.sent = true) ∧
    (let s := mirrors mirror1
     let rec' := bytesOf 8 (s.reg (Reg.PAN_SLOT_TIDE 1)).toNat ++ bytesOf 8 (s.reg (Reg.PAN_SLOT_SEQ 1)).toNat ++ bytesOf 1 1 ++
       bytesOf 1 1 ++ bytesOf 2 s.deviceId ++ bytesOf 2 5 ++ bytesOf 1 2 ++ bytesOf 1 0 ++ bytesOf 8 (s.imageBytes 1) ++ List.replicate 32 0
     s.Routes (mkPacket s 77 3 (s.epoch 3) Cls.DATA Op.WRITE s.nextTag (s.buddyBase 2) 63 rec') 4) :=
  ⟨sound_of (by decide +kernel), sound_of (by decide +kernel), sound_of (by decide +kernel), by decide +kernel, steady_of (by decide +kernel),
    routes_of (by decide +kernel), by decide +kernel, routes_of (by decide +kernel)⟩

def releasing : State := put (Reg.PAN_D_BUDDY 2) F.PAN_D_BUDDY_EN 0 <| slotIs 0 PanSt.FULL full |> setR (Reg.PAN_SLOT_SEQ 1) 5 |> setR (Reg.PAN_SLOT_SEQ 0) 6

theorem witness_PanSlots_commands : releasing.Sound ∧ pans.Sound ∧ 1 < releasing.panCount ∧ releasing.panReleasable 1 = true ∧ releasing.panReleasable 0 = false ∧
    (full.on Reg.PAN_STATUS F.PAN_STATUS_CMD_BUSY = false ∧ 1 < full.panCount ∧ full.panSt 1 = PanSt.FULL ∧
      full.panBit 1 F.PAN_SLOT_STATUS_HOLD = false ∧ full.harvest = none ∧ full.panBit 1 F.PAN_SLOT_STATUS_POISON = false ∧
      (full.panSlot 1).mirror = none ∧ full.rankDevice 2 (full.fld (Reg.PAN_D_BUDDY 2) F.PAN_D_BUDDY_RANK) = some 77) ∧
    full.Routes (readHead 63 77) 4 ∧
    (let s := put (Reg.PAN_SLOT_STATUS 1) F.PAN_SLOT_STATUS_HOLD 1 full
     s.panBit 1 F.PAN_SLOT_STATUS_HOLD = true ∧ s.panSt 1 = PanSt.FULL) ∧ pans.panSt 1 ≠ PanSt.FULL ∧
    (raise Reg.PAN_STATUS F.PAN_STATUS_CMD_BUSY full).on Reg.PAN_STATUS F.PAN_STATUS_CMD_BUSY = true :=
  ⟨sound_of (by decide +kernel), sound_of (by decide +kernel), by decide +kernel, by decide +kernel, by decide +kernel, by decide +kernel,
    routes_of (by decide +kernel), by decide +kernel⟩

/-- `Bare` as a computation. -/
def bare (s : State) : Bool :=
  !s.memRefuses && decide (s.path.cache = []) && decide (s.path.wcb = []) && decide (s.path.clearing = []) && decide (s.path.guarded = []) &&
    decide (s.fld Reg.PAN_RESERVE F.PAN_RESERVE_SIZE_GIB = 0) && (List.range 2).all fun h => below s (Reg.BC_H_MISS h) (2 ^ 40)

theorem bare_of {s : State} (h : bare s = true) : s.Bare := by
  simp only [bare, Bool.and_eq_true, Bool.not_eq_true', decide_eq_true_eq] at h
  obtain ⟨⟨⟨⟨⟨⟨h1, h2⟩, h3⟩, h4⟩, h5⟩, h6⟩, h7⟩ := h
  exact ⟨h1, h2, h3, h4, h5, h6, fun k hk => below_of (List.all_eq_true.mp h7 k (List.mem_range.mpr hk))⟩

/-- Slot 1 waits for its harvest in area 2, with target 5 on queue pair 2; a harvest at work, with Writes or a Flush outstanding. -/
def owing : State := { put (Reg.PAN_SLOT_STATUS 1) F.PAN_SLOT_STATUS_CKPT 1 full |> put Reg.HRV_CTRL F.HRV_CTRL_EN 1 |> put Reg.HRV_CTRL F.HRV_CTRL_RETRY 1
    |> put (Reg.HRV_T_CTRL 5) F.HRV_T_CTRL_EN 1 |> put (Reg.HRV_T_CTRL 5) F.HRV_T_CTRL_QP 2 |> setR (Reg.HRV_T_COUNT 5) 0x10000 with
  panSlots := [(1, ⟨1, [], none, some 2, []⟩)]
  mgmt := { full.mgmt with qps := List.replicate 128 0 ++ [1, 1] ++ List.replicate 62 0 } }
def harvesting (x : HrvTarget) : State := { owing with harvest := some ⟨1, 2, 0x100000, some [], [x]⟩ }
def target5 : HrvTarget := ⟨5, 1, [(0, 0), (1, 1)], none, false⟩
def flushing5 (tries : Nat) : HrvTarget := ⟨5, 1, [], some tries, false⟩
def failedSlot : State := owing |> put (Reg.PAN_SLOT_STATUS 1) F.PAN_SLOT_STATUS_HRV_CODE 1 |> put Reg.HRV_CTRL F.HRV_CTRL_EN 0

theorem witness_HarvestAndRestore : owing.Sound ∧ (harvesting target5).Sound ∧ owing.on Reg.HRV_CTRL F.HRV_CTRL_EN = true ∧ owing.harvest = none ∧ owing.fatal = false ∧
    owing.nextHarvest = some 1 ∧ owing.panBit 1 F.PAN_SLOT_STATUS_POISON = false ∧ owing.memRefuses = false ∧ owing.sandboxed 1 = false ∧
    (owing.panSlot 1).area = some 2 ∧ owing.hrvTargets = [5] ∧ ceilDiv (stripesOf (owing.outBytes 1)) 1 * 256 ≤ owing.areaLbas 5 ∧
    owing.qpIs (owing.fld (Reg.HRV_T_CTRL 5) F.HRV_T_CTRL_QP) 1 true = true ∧ below owing Reg.HRV_CMDS 1024 = true ∧
    (put (Reg.PAN_SLOT_STATUS 1) F.PAN_SLOT_STATUS_POISON 1 owing).nextHarvest = some 1 ∧
    (put (Reg.PAN_SLOT_STATUS 1) F.PAN_SLOT_STATUS_HRV_ACK 1 owing).nextHarvest = none :=
  ⟨sound_of (by decide +kernel), sound_of (by decide +kernel), by decide +kernel⟩

theorem witness_HarvestAndRestore_running : (harvesting (flushing5 0)).Sound ∧
    (∀ s ∈ [harvesting target5, harvesting (flushing5 0), harvesting (flushing5 1)], s.memRefuses = false ∧ s.sandboxed 1 = false ∧
      below s Reg.HRV_RETRIES 1 = true ∧ below s Reg.HRV_CMDS 1 = true ∧ below s Reg.HRV_BYTES 0x100000 = true ∧
      s.fld (Reg.PAN_SLOT_HARVESTED 1) F.PAN_SLOT_HARVESTED_V + 0x100000 < 2 ^ 48) ∧
    target5.next = stripesOf ((harvesting target5).outBytes 1) ∧ (0 : Nat) < (harvesting target5).fld Reg.HRV_CTRL F.HRV_CTRL_RETRY ∧
    ¬ (1 : Nat) < (harvesting target5).fld Reg.HRV_CTRL F.HRV_CTRL_RETRY := 
  ⟨sound_of (by decide +kernel), by decide +kernel⟩

/-- A harvest whose last Flush is outstanding, where no slot has room any more (so that HBM is plain memory). -/
def flushed5 : State := put Reg.PAN_RESERVE F.PAN_RESERVE_SIZE_GIB 0 (harvesting (flushing5 0))

theorem witness_HarvestAndRestore_flushed : flushed5.Sound ∧ flushed5.Bare ∧ flushed5.memRefuses = false ∧ flushed5.sandboxed 1 = false ∧
    flushed5.fld (Reg.CHK_D_FRAG (flushed5.panDom 1)) F.CHK_D_FRAG_ADDR * 128 + 384 ≤ hbmEnd :=
  ⟨sound_of (by decide +kernel), bare_of (by decide +kernel), by decide +kernel⟩

/-- Restores: from device 77 by a domain at rest, refused in FLOW, and ended. -/
def restoringState (s : State) : State := setR Reg.PAN_RESTORE_SRC (BitVec.ofNat 64 (2 ^ 61 + 77 * 2 ^ 48 + 0x40000)) s
def atRest : State := restoringState (setR (Reg.TIDE_VALUE 2) (tideWord 7 Phase.IDLE 0) pans)
def restored : State := { raise Reg.PAN_STATUS F.PAN_STATUS_CMD_BUSY pans with restoring := some ⟨2, none, 0x40000, [], [], 0, [], some 3⟩ }

theorem witness_HarvestAndRestore_commands : failedSlot.Sound ∧ atRest.Sound ∧ restored.Sound ∧
    (∀ s ∈ [failedSlot, atRest, pans], s.on Reg.PAN_STATUS F.PAN_STATUS_CMD_BUSY = false) ∧
    1 < failedSlot.panCount ∧ failedSlot.panSt 1 = PanSt.FULL ∧ failedSlot.panBit 1 F.PAN_SLOT_STATUS_CKPT = true ∧
    failedSlot.panBit 1 F.PAN_SLOT_STATUS_HRV_ACK = false ∧ failedSlot.fld (Reg.PAN_SLOT_STATUS 1) F.PAN_SLOT_STATUS_HRV_CODE ≠ 0 ∧
    failedSlot.on Reg.HRV_CTRL F.HRV_CTRL_EN = false ∧ pans.restful 2 = false ∧ atRest.restful 2 = true ∧ atRest.panFilling 2 = false ∧
    atRest.domStill 2 = true ∧ atRest.on (Reg.TIDE_DSTATUS (atRest.ctxDomain 3)) F.TIDE_DSTATUS_STALE = false ∧
    atRest.target (atRest.reg Reg.PAN_RESTORE_SRC).toNat 256 = .remote 77 0x40000 ∧
    restored.restoring = some ⟨2, none, 0x40000, [], [], 0, [], some 3⟩ :=
  ⟨sound_of (by decide +kernel), sound_of (by decide +kernel), sound_of (by decide +kernel), by decide +kernel⟩

theorem witness_HarvestAndRestore_restore :
    atRest.Routes (mkPacket atRest 77 3 (atRest.epoch 3) Cls.DATA Op.READ_REQ atRest.nextTag 0x40000 255 []) 4 := routes_of (by decide +kernel)

/-- Values that the settings take. -/
def hrvWord : Word := ((((0 : Word).put F.HRV_CTRL_AREAS 8).put F.HRV_CTRL_RATE 200).put F.HRV_CTRL_TIMEOUT_MS 60000).put F.HRV_CTRL_EN 1
def trigWord : Word := (((0 : Word).put F.PAN_D_TRIG_EN 1).put F.PAN_D_TRIG_EVSLOT 255).put F.PAN_D_TRIG_EVERY 1048576

theorem witness_HarvestAndRestore_settings : filling.panFilling 2 = true ∧ pans.panFilling 2 = false ∧ pans.panMirroring 2 = false ∧
    (∀ n, n < pans.panCount → pans.panSt n = PanSt.FREE) ∧ full.panSt 1 ≠ PanSt.FREE ∧ 1 < full.panCount ∧
    (let v := ((0 : Word).put F.PAN_RESERVE_SIZE_GIB 128).put F.PAN_RESERVE_BASE 128
     v.get F.PAN_RESERVE_SIZE_GIB ≤ 128 ∧ (v.get F.PAN_RESERVE_BASE + v.get F.PAN_RESERVE_SIZE_GIB) * 0x40000000 ≤ hbmEnd) ∧
    pans.on (Reg.PAN_D_TRIG 2) F.PAN_D_TRIG_EN = false ∧ trigWord.get F.PAN_D_TRIG_EN = 1 ∧ trigWord.get F.PAN_D_TRIG_EVERY = 1048576 ∧
    tideStep (pans.tide 2) + 1048576 ≤ 0xFFFFFFFFFF ∧ ((0 : Word).put F.PAN_D_LIST_COUNT 4096).get F.PAN_D_LIST_COUNT ≤ 4096 ∧
    hrvWord.get F.HRV_CTRL_AREAS = 8 ∧ hrvWord.get F.HRV_CTRL_RATE = 200 ∧ hrvWord.get F.HRV_CTRL_TIMEOUT_MS = 60000 ∧
    pans.on Reg.HRV_STATUS F.HRV_STATUS_BUSY = false ∧ (raise Reg.HRV_STATUS F.HRV_STATUS_BUSY pans).on Reg.HRV_STATUS F.HRV_STATUS_BUSY = true := by
  decide +kernel

/-- Set 7 of unit 3, open for CRC-32C over nine bytes of tile 6; absorbing them; the same with a poisoned unit. -/
def open7 : State := { net with mem := cells (tileAddr 6 0x100) [0x31, 0x32, 0x33, 0x34, 0x35, 0x36, 0x37, 0x38, 0x39] }
  |> put (Reg.CHK_S_STATUS 3 7) F.CHK_S_STATUS_STATE ChkSt.OPEN |> setR (Reg.CHK_S_SRC 3 7) (BitVec.ofNat 64 (tileAddr 6 0x100))
  |> setR (chkState 3 7 0) 0xFFFFFFFF
def absorbing : State := { put (Reg.CHK_S_STATUS 3 7) F.CHK_S_STATUS_STATE ChkSt.BUSY open7 with checks := [(55, some ⟨9, false, none⟩)] }

theorem witness_CheckValues : open7.Sound ∧ absorbing.Sound ∧ { absorbing with poison := [tileAddr 6 0x100] }.Sound ∧ net.chkSt 3 7 ≠ ChkSt.BUSY ∧ below net Reg.CHK_CMDS 1 = true ∧
    open7.chkSt 3 7 = ChkSt.OPEN ∧ below open7 Reg.CHK_CMDS 1 = true ∧ open7.target (open7.reg (Reg.CHK_S_SRC 3 7)).toNat (9 : BitVec 32).toNat = .tile 6 0x100 ∧
    net.chkSt 3 7 ≠ ChkSt.OPEN ∧ absorbing.chkSt 3 7 = ChkSt.BUSY ∧ absorbing.chkRun 3 7 = some ⟨9, false, none⟩ ∧
    absorbing.target (absorbing.reg (Reg.CHK_S_SRC 3 7)).toNat 9 = .tile 6 0x100 ∧ absorbing.tmPoison 6 0x100 9 = false ∧
    { absorbing with poison := [tileAddr 6 0x100] }.tmPoison 6 0x100 9 = true ∧ below absorbing Reg.CHK_BYTES 9 = true ∧ net.chkRun 3 7 = none ∧
    open7.fld (Reg.CHK_S_CTRL 3 7) F.CHK_S_CTRL_ALG = ChkAlg.CRC32C :=
  ⟨sound_of (by decide +kernel), sound_of (by decide +kernel), sound_of (by decide +kernel), by decide +kernel⟩

/-- CRC-32C with the parameters of the table of algorithms in chapter 13 gives E306_9283, its published check value, over "123456789". -/
theorem test_crc32c :
    ends (Sys2Proof.Machine.exec (.updateDone 3 7) absorbing) (fun t => ends (Sys2Proof.Machine.exec (.finish 3 7) t) fun u =>
      decide (u.reg (Reg.CHK_S_RESULT0 3 7) = 0xE3069283)) = true := by decide +kernel

/-- Tile 5 runs; it is being swapped for a spare of its die, untested or tested and stopped; the spares of its die are gone. -/
def settled (s : State) : Bool := decide (s.path.waiting = []) && decide (s.reds = []) && decide (s.swapWaits = []) &&
  (List.range 4).all fun n => decide ((s.panSlot n).owes = [])
def swapOf (tested stopped : Bool) (q : Nat) : Swap := ⟨5, 5, TileSt.RUNNING, q, tested, stopped, false, false, 0, []⟩
def swapping5 (x : Swap) : State := { base |> raise Reg.SPR_STATUS F.SPR_STATUS_BUSY |> put (Reg.TILE_STATUS 5) F.TILE_STATUS_STATE TileSt.STOPPED with
  swap := some x }
def spareless : State := forEach [36, 37, 38, 39] (fun p => put (Reg.FLR_PTILE p) F.FLR_PTILE_STATE PtSt.RETIRED) base
def copying : Swap := { swapOf true true 36 with deposits := [(1, 0x100, [1, 2, 3], [])] }

theorem witness_SparesAndReplay : spareless.Sound ∧ (swapping5 (swapOf false false 36)).Sound ∧ (swapping5 copying).Sound ∧
    (∀ s ∈ [base, spareless], s.phys 5 = 5 ∧ s.on Reg.SPR_STATUS F.SPR_STATUS_BUSY = false ∧ s.tileSt 5 = TileSt.RUNNING ∧ s.swapWaits = []) ∧
    base.spareOf 0 = some 36 ∧ spareless.spareOf 0 = none ∧ (swapping5 (swapOf false false 36)).on Reg.SPR_STATUS F.SPR_STATUS_BUSY = true ∧
    (∀ x ∈ [swapOf false false 36, swapOf true true 36, copying], settled (swapping5 x) = true ∧ (swapping5 x).swap = some x ∧
      ((swapping5 x).tile 5).queue = [] ∧ ((swapping5 x).tile 5).saving = none ∧ (swapping5 x).tileSt 5 = TileSt.STOPPED ∧
      below (swapping5 x) Reg.SPR_SWAPS 1 = true ∧ below (swapping5 x) Reg.SPR_TM_UE 1 = true ∧ (swapping5 x).logical 5 = 5 ∧
      (swapping5 x).on Reg.SPR_CTRL F.SPR_CTRL_AUTO = false) ∧
    (retireTile 36 (swapping5 (swapOf false false 36))).spareOf 0 = some 37 ∧
    (let s := setTile 5 { (swapping5 (swapOf false false 36)).tile 5 with queue := [⟨.mout 3 0 4 2 0, 0x200, 0x1000, 0x2000, 3, 0, 0, false, 0⟩] } (swapping5 (swapOf false false 36))
     (s.tile 5).queue ≠ [] ∧ settled s = true) ∧
    (0x100 + [(1 : Byte), 2, 3].length ≤ 32 * (9 : BitVec 17).toNat) :=
  ⟨sound_of (by decide +kernel), sound_of (by decide +kernel), sound_of (by decide +kernel), by decide +kernel⟩

/-- Domain 2 at rest, loading two windows of which one is valid; domain 2 in FLOW. -/
def windowEntry (valid : Nat) : List Byte := bytesOf 8 0x1000 ++ bytesOf 8 64 ++ bytesOf 2 (3 + 2 ^ 15 * valid) ++ List.replicate 14 0
def windowing : State := { setR (Reg.TIDE_VALUE 2) (tideWord 7 Phase.IDLE 0) pans with mem := cells 0x2000 (windowEntry 1 ++ windowEntry 0) }
  |> put (Reg.RPL_D_WIN 2) F.RPL_D_WIN_COUNT 2 |> put (Reg.RPL_D_WIN 2) F.RPL_D_WIN_BASE 0x2000 |> put (Reg.RPL_D_CTRL 2) F.RPL_D_CTRL_LOADING 1

theorem witness_SparesAndReplay_windows : windowing.Sound ∧ windowing.on (Reg.RPL_D_CTRL 2) F.RPL_D_CTRL_LOADING = true ∧
    windowing.fld (Reg.RPL_D_WIN 2) F.RPL_D_WIN_COUNT = 2 ∧ windowing.fld (Reg.RPL_D_WIN 2) F.RPL_D_WIN_BASE = 0x2000 ∧
    windowing.Steady [(0x2000, 64)] ∧ (∀ e ∈ [windowing.hbmBytes 0x2000 32, windowing.hbmBytes 0x2020 32], windowOk e = true) ∧
    pans.on (Reg.RPL_D_CTRL 2) F.RPL_D_CTRL_LOADING = false ∧ windowing.replayable 2 = true ∧ windowing.restful 2 = true ∧ windowing.harvest = none ∧
    pans.replayable 2 = false ∧ pans.harvest = none ∧ ((0 : Word).put F.RPL_D_WIN_COUNT 1024).get F.RPL_D_WIN_COUNT ≤ 1024 ∧
    ((0 : Word).put F.RPL_D_CTRL_SANDBOX 1).get F.RPL_D_CTRL_SANDBOX ≠ pans.fld (Reg.RPL_D_CTRL 2) F.RPL_D_CTRL_SANDBOX ∧
    ((0 : Word).put F.RPL_D_RING_SIZE 10).get F.RPL_D_RING_SIZE ≤ 10 :=
  ⟨sound_of (by decide +kernel), by decide +kernel, by decide +kernel, by decide +kernel, steady_of (by decide +kernel), by decide +kernel⟩

theorem crc32cBit_lt {x : Nat} (h : x < 2 ^ 32) : crc32cBit x < 2 ^ 32 := by
  unfold crc32cBit
  split
  · exact Nat.xor_lt_two_pow (by omega) (by decide)
  · omega

theorem crc32cByte_lt {x : Nat} (b : Byte) (h : x < 2 ^ 32) : crc32cByte x b < 2 ^ 32 := by
  have hb : x ^^^ b.toNat < 2 ^ 32 := Nat.xor_lt_two_pow h (by have := b.isLt; omega)
  have it : ∀ n y, y < 2 ^ 32 → iter crc32cBit n y < 2 ^ 32 := fun n => by
    induction n with
    | zero => intro y hy; exact hy
    | succ n ih => intro y hy; exact ih _ (crc32cBit_lt hy)
  exact it 8 _ hb

theorem crc32c_lt (l : List Byte) : crc32c l < 2 ^ 32 := by
  have fold : ∀ (l : List Byte) x, x < 2 ^ 32 → crc32cFrom x l < 2 ^ 32 := fun l => by
    induction l with
    | nil => intro x hx; exact hx
    | cons b l ih => intro x hx; exact ih _ (crc32cByte_lt b hx)
  exact Nat.xor_lt_two_pow (fold l _ (by decide)) (by decide)

/-- A comet with the CRC of what it carries. -/
def sealed (c : Comet) (seq site rank : Nat) : Comet := { c with crc := BitVec.ofNat 32 (cometCrc c seq site rank) }

theorem sealed_crc (c : Comet) (seq site rank : Nat) : (sealed c seq site rank).crc.toNat = cometCrc (sealed c seq site rank) seq site rank := by
  have e : cometCrc (sealed c seq site rank) seq site rank = cometCrc c seq site rank := rfl
  rw [e]
  exact Nat.mod_eq_of_lt (crc32c_lt _)

theorem parityOf_length {x y : List Byte} (hx : x.length = cometBytes) (hy : y.length = cometBytes) : (parityOf 0 [x, y]).length = cometBytes := by
  simp [parityOf, gfAdd, gfScale, hx, hy]

theorem hbmBytes_length (s : State) (a n : Nat) : (s.hbmBytes a n).length = n := by simp [State.hbmBytes]

/-- The comet engine for domain 2 at site 3, with site 9 in a state and NEXT_J 4, an inbound buffer of 1 GiB at 5 GiB, eight of its slots
from slot 16 for site 9, a lane to it, and the comets of memory. -/
def peerTable : List Byte := List.replicate (32 * 9) 0 ++ bytesOf 8 0x7000000 ++ bytesOf 4 0 ++ bytesOf 4 4 ++ bytesOf 4 16 ++ bytesOf 4 8 ++ bytesOf 8 0
def site9 (st : Nat) (far : Far) : State := { net |> put Reg.COM_CTRL F.COM_CTRL_EN 1 |> put Reg.COM_CTRL F.COM_CTRL_DOMAIN 2 |> put Reg.COM_CTRL F.COM_CTRL_SITE 3
    |> put (Reg.COM_SITE_CTRL 9) F.COM_SITE_CTRL_STATE st |> put (Reg.COM_SITE_STATUS 9) F.COM_SITE_STATUS_NEXT_J 4
    |> put Reg.COM_INBUF F.COM_INBUF_GIB 1 |> put Reg.COM_INBUF F.COM_INBUF_BASE 5 |> setR Reg.CHK_JOB 0x77
    |> put Reg.COM_OUTBUF F.COM_OUTBUF_GIB 1 |> put Reg.COM_OUTBUF F.COM_OUTBUF_BASE 6
    |> put (Reg.TIDE_CTRL 2) F.TIDE_CTRL_OUTER_EVERY 4 |> put (Reg.TIDE_CTRL 2) F.TIDE_CTRL_ROLE Role.ROOT |> setR (Reg.TIDE_VALUE 2) (tideWord 15 Phase.OUTER 0)
    |> put (Reg.COM_LANE 60) F.COM_LANE_VALID 1 |> put (Reg.COM_LANE 60) F.COM_LANE_SITE 9 |> put (Reg.COM_LANE 60) F.COM_LANE_QP 2 with
  far := { far with peers := peerTable }, mgmt := { net.mgmt with qps := List.replicate 128 0 ++ [3, 3] ++ List.replicate 62 0 } }
def far0 : Far := State.reset.far
def joining : State := site9 SiteSt.JOINING far0
def active (far : Far) : State := site9 SiteSt.ACTIVE far
def raw (kind j seq group index k m total bytes : Nat) (payload : List Byte) : Comet :=
  ⟨0x77, BitVec.ofNat 32 j, BitVec.ofNat 8 kind, 9, 3, 5, BitVec.ofNat 32 seq, BitVec.ofNat 32 group, BitVec.ofNat 8 index, BitVec.ofNat 8 k,
    BitVec.ofNat 8 m, BitVec.ofNat 32 total, BitVec.ofNat 32 bytes, 0, payload⟩
@[irreducible] def zeros : List Byte := List.replicate cometBytes 0
theorem zeros_length : zeros.length = cometBytes := by
  unfold zeros
  exact List.length_replicate

/-- Everything of `lands` but the payload's length, for a slot. -/
def landing (s : State) (sl : Nat) : Bool :=
  bare s && decide (s.poison = []) && decide (sl < s.fld Reg.COM_INBUF F.COM_INBUF_GIB * 0x40000000 / slotStride) &&
    decide (s.inAddr sl + slotStride ≤ hbmEnd) &&
    (List.range 2).all fun h => below s (Reg.BC_H_WRITEBACK h) (2 ^ 20) && below s (Reg.BC_H_HIT h) (2 ^ 20)
/-- Everything of a known comet but its CRC. -/
def recognised (s : State) (c : Comet) : Bool :=
  decide (c.job = s.reg Reg.CHK_JOB) && decide (c.dstSite.toNat = s.site) &&
    decide ((rankOfDevice s.comDom s.deviceId s).2 = some c.rank.toNat) && decide (s.siteSt c.srcSite.toNat ≠ SiteSt.ABSENT) &&
    s.on Reg.COM_CTRL F.COM_CTRL_EN && below s Reg.COM_RX_COMETS 1 && below s Reg.COM_DISCARDS 1 && below s Reg.COM_RECOVERED 1
def placedAt (s : State) (p sl imm : Nat) : Bool := decide (s.inSlots p ≠ 0) && decide (sl = s.inOff p + imm % s.inSlots p)

/-- A difference of one comet, one of a group of two, a late one, the parity of a group of two, and the difference that it completes. -/
def data1 : Comet := sealed (raw 0 4 5 0 0 1 0 1 100 zeros) 5 3 5
def data2 : Comet := sealed (raw 0 4 5 0 0 2 1 2 100 zeros) 5 3 5
def late : Comet := sealed (raw 0 3 5 0 0 1 0 1 100 zeros) 5 3 5
def half0 : Far := { far0 with ins := [⟨9, 4, 2, 100, [⟨0, 2, [⟨0, 7, 0x140000000⟩], false⟩]⟩] }
@[irreducible] def held0 : List Byte := (active half0).hbmBytes 0x140001000 cometBytes
theorem held0_eq : held0 = (active half0).hbmBytes 0x140001000 cometBytes := by unfold held0; exact rfl
def parity2 : Comet := sealed (raw 1 4 5 0 2 2 1 2 100 (parityOf 0 [held0, zeros])) 5 3 5

theorem witness_CometReception : joining.Sound ∧ (active half0).Sound ∧ net.on Reg.COM_CTRL F.COM_CTRL_EN = false ∧
    (∀ s ∈ [joining, active half0], landing s 21 = true ∧ placedAt s 9 21 5 = true ∧ placedAt s 9 20 5 = false ∧ s.nextJ 9 = 4 ∧ s.arrivedJ 9 = 0) ∧
    joining.siteSt 9 = SiteSt.JOINING ∧ (active half0).siteSt 9 = SiteSt.ACTIVE ∧ joining.far.ins = [] ∧
    (active half0).far.ins = half0.ins ∧ 0x140000000 + slotStride ≤ (active half0).inAddr 21 ∧
    joining.fld Reg.COM_INBUF F.COM_INBUF_GIB * 0x40000000 / slotStride ≤ 1020 :=
  ⟨sound_of (by decide +kernel), sound_of (by decide +kernel), by decide +kernel⟩

theorem sealed_payload (c : Comet) (seq site rank : Nat) : (sealed c seq site rank).payload = c.payload := rfl
theorem raw_payload (kind j seq group index k m total bytes : Nat) (p : List Byte) : (raw kind j seq group index k m total bytes p).payload = p := rfl

theorem witness_CometReception_data : (∀ c ∈ [data1, data2, late], recognised joining c = true ∧ c.kind.toNat = Kind.DATA ∧ c.seq = 5) ∧
    data1.outerJ = 4 ∧ data2.outerJ = 4 ∧ late.outerJ = 3 ∧ data1.k = 1 ∧ data2.k = 2 ∧ data1.total = 1 ∧ data1.group = 0 ∧ data1.index = 0 := by
  decide +kernel

theorem witness_CometReception_payload : data1.crc.toNat = cometCrc data1 5 3 5 ∧ data2.crc.toNat = cometCrc data2 5 3 5 ∧
    late.crc.toNat = cometCrc late 5 3 5 ∧ data1.payload = zeros ∧ data2.payload = zeros ∧ late.payload = zeros :=
  ⟨sealed_crc _ _ _ _, sealed_crc _ _ _ _, sealed_crc _ _ _ _, by rw [data1, sealed_payload, raw_payload], by rw [data2, sealed_payload, raw_payload],
    by rw [late, sealed_payload, raw_payload]⟩

theorem witness_CometReception_parity : recognised (active half0) parity2 = true ∧ parity2.kind.toNat = Kind.PARITY ∧ parity2.seq = 5 ∧
    parity2.outerJ = 4 ∧ parity2.group = 0 ∧ parity2.k = 2 ∧ parity2.index = 2 ∧ parity2.bytes = 100 := by decide +kernel

theorem witness_CometReception_rebuilt : parity2.crc.toNat = cometCrc parity2 5 3 5 ∧
    parity2.payload = parityOf 0 [(active half0).hbmBytes 0x140001000 cometBytes, zeros] ∧ parity2.payload.length = cometBytes := by
  rw [← held0_eq, parity2, sealed_payload, raw_payload]
  exact ⟨sealed_crc _ _ _ _, rfl, parityOf_length (by rw [held0_eq, hbmBytes_length]) zeros_length⟩

/-- Control comets: MERGED and REQUEST of a held difference and of none; a group that is asked for. -/
def merged7 : Comet := sealed (raw 2 4 12 0 0 0 0 0 0 []) 12 3 5
def asks (group : Nat) : Comet := sealed (raw 3 4 0 group 0 0 0 0 0 []) 0 3 5
def sending4 : State := active { far0 with outs := [⟨4, 100, [0], 2, true, false, [⟨9, [], none, false⟩]⟩], frees := [(9, 1)] }
def holding4 : State := active half0

theorem witness_CometReception_control : sending4.Sound ∧ (∀ c ∈ [merged7, asks 0, asks everyGroup], recognised sending4 c = true ∧ c.payload = [] ∧ c.outerJ = 4 ∧
      c.crc.toNat = cometCrc c c.seq.toNat 3 5) ∧
    merged7.kind.toNat = Kind.MERGED ∧ (asks 0).kind.toNat = Kind.REQUEST ∧ sending4.far.ctl = [] ∧ holding4.far.ctl = [] ∧ holding4.far.outs = [] ∧
    sending4.far.outs = [⟨4, 100, [0], 2, true, false, [⟨9, [], none, false⟩]⟩] ∧ recognised holding4 (asks 0) = true ∧
    (asks everyGroup).group.toNat = everyGroup ∧ (∀ s ∈ [sending4, holding4], s.fatal = false ∧ s.outerEvery s.comDom ≠ 0 ∧ s.memRefuses = false ∧
      s.fld Reg.COM_CTRL F.COM_CTRL_M = 0 ∧ s.lanesOf 9 = [60] ∧ s.remoteSlots 9 = 4 ∧ below s Reg.COM_TX_COMETS 1 = true ∧ below s Reg.COM_RESENDS 1 = true) ∧
    sending4.comSeq 9 < sending4.freeSeq 9 + sending4.remoteSlots 9 ∧
    ((holding4.far.ins.find? fun d => d.site = 9 ∧ d.j = 4).bind fun d => d.groups.find? (·.group = 0)) = some ⟨0, 2, [⟨0, 7, 0x140000000⟩], false⟩ ∧
    ((joining.far.ins.find? fun d => d.site = 9 ∧ d.j = 4).bind fun d => d.groups.find? (·.group = 0)) = none :=
  ⟨sound_of (by decide +kernel), by decide +kernel⟩

/-- Comet entries 0 and 1 (for shard entries 8 and 6, or 6 alone), each of one block, and shard entry 6 with its MSTREAM. -/
def comDesc (k : Nat) : List Byte := bytesOf 8 0x60000 ++ bytesOf 8 0x61000 ++ bytesOf 8 0x62000 ++ bytesOf 8 0x63000 ++ bytesOf 2 k ++ List.replicate 30 0
def shard6 : List Byte := bytesOf 2 3 ++ bytesOf 2 1 ++ bytesOf 4 0 ++ bytesOf 4 0x55 ++ bytesOf 4 32 ++ List.replicate 112 0 ++
  bytesOf 6 0x64000 ++ bytesOf 6 0x65000 ++ [0x20, 0x04] ++ List.replicate 114 0
def tabled (step : Nat) (s : State) : State := { (s |> put Reg.COM_TABLE F.COM_TABLE_BASE 0x400 |> put Reg.UPD_TABLE F.UPD_TABLE_COUNT 8
    |> put Reg.UPD_TABLE F.UPD_TABLE_BASE 0x400 |> put (Reg.UPD_COMMIT 6) F.UPD_COMMIT_RUN RunSt.RUNNING |> put Reg.COM_CTRL F.COM_CTRL_KEEP 256) with
  runs := [(6, some ⟨step, 2, false, 0, 9, shard6, [], [], []⟩)] }
def passing : State := { put Reg.COM_TABLE F.COM_TABLE_COUNT 2 (tabled 5 (active far0)) with
  mem := cells 0x10000 (comDesc 8 ++ comDesc 6) ++ cells 0x40600 shard6 ++ cells 0x60000 (bytesOf 4 0x3F800000) ++ cells 0x62000 (bytesOf 2 0x1234) }
def single (step : Nat) : State := { put Reg.COM_TABLE F.COM_TABLE_COUNT 1 (tabled step (active far0)) with
  mem := cells 0x10000 (comDesc 6) ++ cells 0x40600 shard6 ++ cells 0x60000 (bytesOf 4 0x3F800000) ++ cells 0x62000 (bytesOf 2 0x1234) ++
    cells 0x64000 (bytesOf 4 0x40000000) }

/-- What every post-pass needs. -/
def passes (s : State) (i : Nat) : Bool :=
  match s.upd 6 with
  | none => false
  | some r => decide (s.comIndex 6 = some i) && !r.started && decide (s.runSt 6 = RunSt.RUNNING) && !s.fatal && s.comOn r.domain &&
      decide (s.path.waiting = []) && decide (s.path.held = []) && decide (s.swap = none) && !(s.comEntry i).rsv &&
      streamsOk (s.comEntry i) (readShard r.entry) && !(readShard r.entry).pub && decide (r.code ≤ 10)

theorem witness_OuterSteps : passing.Sound ∧ passes passing 1 = true ∧ passing.Bare ∧ passing.poison = [] ∧ outerStep 4 5 = false ∧ mergeStep 4 5 = false ∧
    passing.outerEvery 2 = 4 ∧ (readShard shard6).n = 32 ∧ passing.comEntryAddr 1 = 0x10040 ∧ passing.shardAddr 6 = 0x40600 ∧
    (let c := passing.comEntry 1
     slotOf c.anchor (passing.cur 6) = 0x60000 ∧ slotOf c.anchor (1 - passing.cur 6) = 0x61000 ∧ slotOf c.cb (passing.cur 6) = 0x62000 ∧
     slotOf c.cb (1 - passing.cur 6) = 0x63000) ∧
    (∀ x ∈ [0x60000, 0x61000, 0x62000, 0x63000], ∀ w : Bool, ∀ n ∈ [128, 33],
      (passing.windows (passing.ctxPart (readShard shard6).ctx) x n w).length = 1) ∧ passing.upd 8 = none :=
  ⟨sound_of (by decide +kernel), by decide +kernel, bare_of (by decide +kernel), by decide +kernel⟩

/-- The conditions of a merge or outer step's post-pass: what its work gives. -/
def works (s : State) (outer : Bool) : Bool :=
  match s.upd 6 with
  | none => false
  | some r =>
    let e := readShard r.entry
    let y := postPassWork 0 (s.comEntry 0) e (s.cur 6) r.step (farRead (s.comEntryAddr 0) 64 (RunEnv.fresh s)).1.s
    let x := when (decide (0 = 0) && mergeStep 4 r.step) (setFar fun f => { f with recorded := true }) y.1.s
    let fine (u : State) : Bool := decide (u.path.owed = []) && !u.opHeld u.path.op && decide (u.upd 6 = some r) && decide (u.runSt 6 = RunSt.RUNNING)
    !s.shardClears e && y.1.fail.isNone && fine x &&
      (!outer || (decide (x.comCount = 1) && decide (x.usedUnits = []) && decide (0 < x.outUnits) && decide (0 < y.2.length) &&
        decide (y.2.length ≤ cometBytes) && fine (unitWrite (x.outAddr 0) y.2 x)))

theorem witness_OuterSteps_merge : (single 8).Sound ∧ passes (single 8) 0 = true ∧ (single 8).Steady [(0x10000, 64)] ∧ mergeStep 4 8 = true ∧
    outerStep 4 8 = false :=
  ⟨sound_of (by decide +kernel), by decide +kernel, steady_of (by decide +kernel), by decide +kernel⟩
theorem witness_OuterSteps_merge_work : works (single 8) false = true := by decide +kernel

theorem witness_OuterSteps_outer : passes (single 7) 0 = true ∧ (single 7).Steady [(0x10000, 64)] ∧ outerStep 4 7 = true ∧ (7 + 1) / 4 < 2 ^ 32 ∧
    (single 7).comCount = 1 ∧ ceilDiv (single 7).diffBytes cometBytes = 1 ∧ (single 7).usedUnits = [] ∧ 0 < (single 7).outUnits :=
  ⟨by decide +kernel, steady_of (by decide +kernel), by decide +kernel⟩
theorem witness_OuterSteps_outer_work : works (single 7) true = true := by decide +kernel

/-- The gate of outer step 4: site 9 has arrived, or is overdue; domain 2 at rest. -/
def gateState (arrived : Nat) : State := put (Reg.COM_SITE_STATUS 9) F.COM_SITE_STATUS_ARRIVED_J arrived (put Reg.COM_CTRL F.COM_CTRL_AUTO_PAUSE 0 (active far0))
def pausingGate : State := put Reg.COM_CTRL F.COM_CTRL_AUTO_PAUSE 1 (gateState 4)
def atIdle (s : State) : State := setR (Reg.TIDE_VALUE 2) (tideWord 15 Phase.IDLE 0) s

theorem witness_OuterSteps_gate : (gateState 4).Sound ∧ (∀ s ∈ [gateState 4, gateState 0, pausingGate], s.comOn s.comDom = true ∧ s.comDom = 2 ∧
      s.phase 2 = Phase.OUTER ∧ outerStep (s.outerEvery 2) (tideStep (s.tide 2)) = true ∧ s.fatal = false ∧
      (tideStep (s.tide 2) + 1) / s.outerEvery 2 = 4 ∧ s.restful 2 = false) ∧
    (gateState 4).overdueSites 4 = [] ∧ (gateState 4).far.frozen = none ∧ (gateState 0).overdueSites 4 = [9] ∧ (9, 4) ∉ (gateState 0).far.overdue ∧
    (gateState 4).on Reg.COM_CTRL F.COM_CTRL_AUTO_PAUSE = false ∧ pausingGate.overdueSites 4 = [] ∧ pausingGate.role 2 = Role.ROOT ∧
    pausingGate.on Reg.COM_CTRL F.COM_CTRL_AUTO_PAUSE = true ∧ Calm pausingGate 2 :=
  ⟨sound_of (by decide +kernel), by unfold Calm; decide +kernel⟩

/-- REGEN's difference. -/
def regenerating (step : Nat) : State := put (Reg.UPD_COMMIT 6) F.UPD_COMMIT_STEP step (atIdle (single 7))
def forms (s : State) : Bool :=
  let ce := s.comEntry 0
  let e := readShard (s.shardEntry ce.k)
  let step := s.fld (Reg.UPD_COMMIT ce.k) F.UPD_COMMIT_STEP
  let cur := s.cur ce.k
  let y := compressEntry ce e step (((e.streams[ce.mstream]?).map (·.readAddr cur)).getD 0) (slotOf ce.anchor cur) (slotOf ce.cb (1 - cur))
    (slotOf ce.cb cur) false (RunEnv.fresh s)
  let x := y.1.s
  outerStep 4 step && decide ((step + 1) / 4 < 2 ^ 32) && !ce.rsv && streamsOk ce e && y.1.fail.isNone && decide (x.comCount = 1) &&
    decide (x.usedUnits = []) && decide (0 < x.outUnits) && decide ((unitWrite (x.outAddr 0) y.2 x).path.owed = []) && decide (0 < y.2.length) &&
    decide (y.2.length ≤ cometBytes)

theorem witness_OuterSteps_commands : (regenerating 7).Sound ∧ (regenerating 7).restful 2 = true ∧ (regenerating 7).comDom = 2 ∧ (regenerating 7).outerEvery 2 = 4 ∧
    (regenerating 7).comCount = 1 ∧ ceilDiv (regenerating 7).diffBytes cometBytes = 1 ∧ (regenerating 7).usedUnits = [] ∧ 0 < (regenerating 7).outUnits ∧
    (let s := regenerating 6
     outerStep 4 (s.fld (Reg.UPD_COMMIT (s.comEntry 0).k) F.UPD_COMMIT_STEP) = false) ∧
    (let s := regenerating 7
     s.fld (Reg.COM_MREC (s.cur (s.comEntry 0).k)) F.COM_MREC_ADDR * 512 = 0) ∧ (regenerating 7).Steady [(0, 512)] :=
  ⟨sound_of (by decide +kernel), by decide +kernel, by decide +kernel, by decide +kernel, by decide +kernel, by decide +kernel, by decide +kernel, by decide +kernel, by decide +kernel,
    by decide +kernel, steady_of (by decide +kernel)⟩
theorem witness_OuterSteps_regen : forms (regenerating 7) = true := by decide +kernel

theorem witness_OuterSteps_requestAll : (let s := atIdle (active far0)
     s.restful 2 = true ∧ s.comDom = 2 ∧ s.on Reg.COM_CTRL F.COM_CTRL_EN = true ∧ s.fatal = false ∧ s.far.ctl = [] ∧ s.far.outs = [] ∧ s.sitesIn [SiteSt.ACTIVE] = [9] ∧
     max 1 (s.nextJ 9) = (max (tideStep (s.tide 2)) (s.fld (Reg.UPD_COMMIT (s.comEntry 0).k) F.UPD_COMMIT_STEP) + 1) / s.outerEvery 2 +
       s.fld Reg.COM_CTRL F.COM_CTRL_W ∧ s.lanesOf 9 = [60] ∧ below s Reg.COM_TX_COMETS 1 = true) := by decide +kernel

/-- Legal control words. -/
def comWord (en site : Nat) : Word := BitVec.ofNat 64 (0x2200000200000202 + en * 2 ^ 63 + site * 2 ^ 50)
def legal (v : Word) : Bool := (decide (v.get F.COM_CTRL_RND = 0) || decide (v.get F.COM_CTRL_RND = 2)) && decide (v.get F.COM_CTRL_W ≤ 4) &&
  decide (v.get F.COM_CTRL_M ≤ 8) && decide (v.get F.COM_CTRL_K_FULL ≤ 31) && decide (1 ≤ v.get F.COM_CTRL_KEEP) && decide (v.get F.COM_CTRL_KEEP ≤ 256) &&
  decide (1 ≤ v.get F.COM_CTRL_GRACE_MS) && decide (1 ≤ v.get F.COM_CTRL_RESEND_MS)
def offIdle : State := put Reg.COM_CTRL F.COM_CTRL_EN 0 (atIdle (active far0))

theorem witness_OuterSteps_registers : offIdle.Sound ∧ offIdle.restful offIdle.comDom = true ∧ (atIdle (active far0)).restful 2 = true ∧
    offIdle.on Reg.COM_CTRL F.COM_CTRL_EN = false ∧ (atIdle (active far0)).on Reg.COM_CTRL F.COM_CTRL_EN = true ∧ offIdle.far.ctl = [] ∧ offIdle.far.outs = [] ∧
    offIdle.Steady [(offIdle.fld Reg.COM_PEERTAB F.COM_PEERTAB_ADDR * 32, 2048)] ∧
    (active far0).restful 2 = false ∧ legal (comWord 0 3) = true ∧ legal (comWord 1 3) = true ∧ legal (comWord 1 63) = true ∧
    (comWord 1 63).get F.COM_CTRL_SITE ≠ (active far0).fld Reg.COM_CTRL F.COM_CTRL_SITE ∧ 0x120000 + (0x010 : BitVec 12).toNat = Reg.COM_TABLE ∧
    ((0 : Word).put F.COM_TABLE_COUNT 4096).get F.COM_TABLE_COUNT ≤ 4096 ∧ (0 : Word).get F.COM_SITE_CTRL_STATE = SiteSt.ABSENT ∧
    (active far0).far.frozen = none :=
  ⟨sound_of (by decide +kernel), by decide +kernel, by decide +kernel, by decide +kernel, by decide +kernel, by decide +kernel, by decide +kernel,
    steady_of (by decide +kernel), by decide +kernel⟩

theorem lookup_or {β : Type} (d : Nat → β) (m : Store β) (k : Nat) : Store.lookup d m k = d k ∨ (k, Store.lookup d m k) ∈ m := by
  induction m with
  | nil => exact .inl rfl
  | cons e m ih =>
    unfold Store.lookup
    split
    · rename_i h
      exact .inr (by rw [h]; exact List.mem_cons_self)
    · exact ih.imp id (List.mem_cons_of_mem _)

theorem unitOf_ctx {a : Nat} (h : 0x80000 ≤ a) (h' : a ≤ 0xBFFFF) : unitOf a = some .ctx := by
  unfold unitOf unitRanges
  iterate 6 rw [List.find?_cons_of_neg (by simp only [decide_eq_true_eq]; omega)]
  rw [List.find?_cons_of_pos (by simp only [decide_eq_true_eq]; omega)]
  rfl

theorem rowOf_ctx {a : Nat} (h : 0x80000 ≤ a) (h' : a ≤ 0xBFFFF) : rowOf a = rowsCtx.find? fun r => r.has a := by
  unfold rowOf
  rw [unitOf_ctx h h']
  rfl

/-- The state and the status of a context that nothing has written read as zero. -/
theorem reset_CTX_CTRL (c : Nat) (h : c < 4096) : resetValue (Reg.CTX_CTRL c) = 0 := by
  unfold resetValue
  rw [rowOf_ctx (by unfold Reg.CTX_CTRL; omega) (by unfold Reg.CTX_CTRL; omega)]
  unfold rowsCtx
  rw [List.find?_cons_of_pos (by unfold RegRow.has Reg.CTX_CTRL; simp only [Bool.and_eq_true, decide_eq_true_eq, beq_iff_eq]; omega)]
  rfl

theorem reset_CTX_STATUS (c : Nat) (h : c < 4096) : resetValue (Reg.CTX_STATUS c) = 0 := by
  unfold resetValue
  rw [rowOf_ctx (by unfold Reg.CTX_STATUS; omega) (by unfold Reg.CTX_STATUS; omega)]
  unfold rowsCtx
  iterate 4 rw [List.find?_cons_of_neg (by unfold RegRow.has Reg.CTX_STATUS; simp only [Bool.and_eq_true, decide_eq_true_eq, beq_iff_eq]; omega)]
  rw [List.find?_cons_of_pos (by unfold RegRow.has Reg.CTX_STATUS; simp only [Bool.and_eq_true, decide_eq_true_eq, beq_iff_eq]; omega)]
  rfl

/-- Every register `base + 0x40 c` that is listed with its field set has c in `l`. -/
def listed (s : State) (base : Nat) (f : Fld) (l : List Nat) : Bool :=
  s.regs.all fun e => decide (e.1 < base) || decide (base + 0x40 * 4096 ≤ e.1) || decide ((e.1 - base) % 0x40 ≠ 0) || decide (e.2.get f = 0) || l.contains ((e.1 - base) / 0x40)

theorem mem_of_listed {s : State} {base c : Nat} {f : Fld} {l : List Nat} (hc : c < 4096) (h : listed s base f l = true) (z : resetValue (base + 0x40 * c) = 0)
    (g : s.fld (base + 0x40 * c) f ≠ 0) : c ∈ l := by
  rcases lookup_or resetValue s.regs (base + 0x40 * c) with e | m
  · refine absurd ?_ g
    unfold State.fld State.reg
    rw [e, z]
    simp [Word.get]
  · have := List.all_eq_true.mp h _ m
    simp only [Bool.or_eq_true, decide_eq_true_eq] at this
    rcases this with (((a | a) | a) | a) | a
    · omega
    · omega
    · omega
    · exact absurd a g
    · rw [List.contains_iff_mem, show (base + 0x40 * c - base) / 0x40 = c by omega] at a
      exact a

theorem present_of {s : State} {l : List Nat} (h : listed s 0x80000 F.CTX_CTRL_STATE l = true) {c : Nat} (hc : c < 4096) (p : s.present c = true) : c ∈ l :=
  mem_of_listed hc h (reset_CTX_CTRL c hc) (of_decide_eq_true p)

theorem candidates_of {s : State} {l : List Nat} (h : listed s 0x80020 F.CTX_STATUS_SCHEDULABLE l = true) (q : Nat) :
    s.candidates q = (List.range 4096).filter fun c => l.contains c && (s.schedulable c && s.ctxPart c == q) := by
  unfold State.candidates
  refine List.filter_congr fun c hc => ?_
  cases hs : s.schedulable c with
  | false => simp
  | true =>
    have g : s.fld (0x80020 + 0x40 * c) F.CTX_STATUS_SCHEDULABLE ≠ 0 := by
      unfold State.schedulable State.on at hs
      exact of_decide_eq_true hs
    have := mem_of_listed (List.mem_range.mp hc) h (reset_CTX_STATUS c (List.mem_range.mp hc)) g
    simp [this]

/-- Context 3 in partition 0, which has tiles 5 and 6 and is valid, as partition 2 without contexts is. -/
def parted : State := net |> put (Reg.PRT_WIN_HI 0 0) F.PRT_WIN_HI_ADDR 0xFFFF |> put (Reg.PRT_CTRL 0) F.PRT_CTRL_VALID 1 |> put (Reg.PRT_CTRL 2) F.PRT_CTRL_VALID 1 |> setR (Reg.PRT_TILES0 0) 0x60
  |> put (Reg.CTX_SCHED 3) F.CTX_SCHED_SHARE 1
def running3 : State := parted |> put (Reg.CTX_STATUS 3) F.CTX_STATUS_RESIDENT 1 |> put (Reg.CTX_STATUS 3) F.CTX_STATUS_SCHEDULABLE 1
  |> put (Reg.PRT_PSTATUS 0) F.PRT_PSTATUS_RESIDENT 1 |> put (Reg.PRT_PSTATUS 0) F.PRT_PSTATUS_CONTEXT 3 |> put (Reg.CTX_CTRL 3) F.CTX_CTRL_RUN 1
  |> put (Reg.TILE_CTX 5) F.TILE_CTX_PRESENT 1 |> put (Reg.TILE_CTX 5) F.TILE_CTX_CONTEXT 3 |> put (Reg.TILE_STATUS 5) F.TILE_STATUS_STATE TileSt.RUNNING
def busyPrt (s : State) : State := { put Reg.PRT_STATUS F.PRT_STATUS_CMD_BUSY 1 s with prtRun := some ⟨2, 3⟩ }
def resetting (s : State) : State := busyPrt (put (Reg.CTX_CTRL 3) F.CTX_CTRL_STATE CtxState.RESETTING s)
def draining : State := resetting { parted with queues := [(1000, { StrQueue.init with xfers := [{ xfer with epoch := 8 }] })] }

/-- What most of the commands on contexts need. -/
def serene (s : State) : Bool := decide (s.path.waiting = []) && decide (s.reds = []) && decide (s.swap = none) &&
  ((List.range 256).all fun p => decide (s.stgState p = StgSt.DISABLED))

theorem witness_ContextLifecycle : parted.Sound ∧ running3.Sound ∧ (∀ s ∈ [parted, running3], s.on Reg.PRT_STATUS F.PRT_STATUS_CMD_BUSY = false ∧ serene s = true ∧
      s.ctxState 3 = CtxState.ACTIVE ∧ s.queues = [] ∧ s.runs = [] ∧ s.checks = [] ∧ s.path.held = []) ∧
    (parted.ctxState 7 = CtxState.ABSENT ∧ parted.on (Reg.PRT_CTRL 0) F.PRT_CTRL_VALID = true ∧ parted.saveAreaOk 0 7 = true ∧ parted.partTiles 0 = [5, 6]) ∧
    parted.on (Reg.PRT_CTRL 1) F.PRT_CTRL_VALID = false ∧ parted.on (Reg.PRT_CTRL 2) F.PRT_CTRL_VALID = true ∧
    (parted.resident 3 = false ∧ (parted.part (parted.ctxPart 3)).placing ≠ some 3 ∧ parted.ctxPart 3 = 0 ∧ parted.tilesOf 3 = [] ∧
      (∀ p ∈ (parted.partTiles 0).map parted.phys, parted.tileCtx p ≠ some 3)) ∧ running3.tilesOf 3 = [5] ∧
    parted.fld (Reg.CTX_HOST 3) F.CTX_HOST_QVEC < 64 ∧ (parted.ctx 3).destroying = false ∧
    (busyPrt parted).on Reg.PRT_STATUS F.PRT_STATUS_CMD_BUSY = true ∧ (busyPrt parted).path.waiting = [] ∧ (busyPrt parted).reds = [] :=
  ⟨sound_of (by decide +kernel), sound_of (by decide +kernel), by decide +kernel⟩

theorem witness_ContextLifecycle_alone : (∀ x, x < 4096 → parted.present x = true → x = 3) ∧ (∀ x, x < 4096 → draining.present x = true → x = 3) :=
  ⟨fun _ h p => List.mem_singleton.mp (present_of (by decide +kernel) h p), fun _ h p => List.mem_singleton.mp (present_of (by decide +kernel) h p)⟩

theorem witness_ContextLifecycle_resetting : (resetting parted).Sound ∧ draining.Sound ∧ (∀ s ∈ [resetting parted, draining], s.ctxState 3 = CtxState.RESETTING ∧ serene s = true ∧
      s.prtRun = some ⟨2, 3⟩ ∧ (s.ctx 3).destroying = false) ∧ (resetting parted).opsInFlight 3 = 0 ∧ draining.opsInFlight 3 ≠ 0 ∧
    (resetting parted).qWaiting 3 = 0 ∧ ((resetting parted).hostQ 3).ops = [] ∧ parted.ctxState 3 ≠ CtxState.RESETTING ∧
    ((List.range 1024).all fun k => decide ((resetting parted).queueCtx k ≠ 3)) = true :=
  ⟨sound_of (by decide +kernel), sound_of (by decide +kernel), by decide +kernel⟩

/-- Slices: context 3 alone, with context 4 waiting, and being switched out with its tiles saved; the restore of context 4. -/
def rival (s : State) : State := s |> put (Reg.CTX_CTRL 4) F.CTX_CTRL_STATE 1 |> put (Reg.CTX_CTRL 4) F.CTX_CTRL_RUN 1
  |> put (Reg.CTX_STATUS 4) F.CTX_STATUS_SCHEDULABLE 1 |> put (Reg.CTX_SCHED 4) F.CTX_SCHED_SHARE 1 |> put (Reg.CTX_SAVE 4) F.CTX_SAVE_BASE 0x10000
def leaving (s : State) : State := s |> put (Reg.PRT_PSTATUS 0) F.PRT_PSTATUS_SWITCHING 1 |> put (Reg.TILE_CTX 5) F.TILE_CTX_PRESENT 0
  |> put (Reg.CTX_STATUS 3) F.CTX_STATUS_SCHEDULABLE 0
def placing4 (s : State) : State := { (rival s |> setR (Reg.PRT_TILES0 0) 0x20) with parts := [(0, ⟨0, 0, some 4⟩)] }
def halted3 (run : Nat) : State := parted |> put (Reg.CTX_STATUS 3) F.CTX_STATUS_HALTED 1 |> put (Reg.CTX_CTRL 3) F.CTX_CTRL_RUN run
def unscheduled (s : State) : State := put (Reg.CTX_STATUS 4) F.CTX_STATUS_SCHEDULABLE 0 s
def within' (s : State) (c : Nat) : Bool := decide (-(2 ^ 47 - 1 : Int) ≤ s.credit c) && decide (s.credit c + (s.part 0).ran ≤ (2 ^ 47 - 1 : Int)) && decide (0 < s.share c)

theorem witness_TimeSlicing : running3.Sound ∧ (leaving (rival running3)).Sound ∧ parted.residentOf 0 = none ∧ running3.residentOf 0 = some 3 ∧ running3.switching 0 = false ∧
    within' running3 3 = true ∧ (rival running3).residentOf 0 = some 3 ∧
    (∀ s ∈ [leaving running3, leaving (rival running3)], s.residentOf 0 = some 3 ∧ s.switching 0 = true ∧ s.tilesOf 3 = []) ∧
    within' (leaving (rival running3)) 4 = true ∧
    (let s := put (Reg.PRT_PSTATUS 0) F.PRT_PSTATUS_SWITCHING 1 running3
     s.switching 0 = true ∧ s.tilesOf 3 ≠ []) :=
  ⟨sound_of (by decide +kernel), sound_of (by decide +kernel), by decide +kernel⟩

theorem witness_TimeSlicing_candidates : running3.candidates 0 = [3] ∧ (rival running3).candidates 0 = [3, 4] ∧ (leaving running3).candidates 0 = [] ∧
    (leaving (rival running3)).candidates 0 = [4] ∧ (halted3 1).candidates 0 = [] ∧ (unscheduled (placing4 parted)).candidates 0 = [] :=
  ⟨(candidates_of (l := [3]) (by decide +kernel) 0).trans (by decide +kernel), (candidates_of (l := [3, 4]) (by decide +kernel) 0).trans (by decide +kernel),
    (candidates_of (l := []) (by decide +kernel) 0).trans (by decide +kernel), (candidates_of (l := [4]) (by decide +kernel) 0).trans (by decide +kernel),
    (candidates_of (l := []) (by decide +kernel) 0).trans (by decide +kernel), (candidates_of (l := []) (by decide +kernel) 0).trans (by decide +kernel)⟩

/-- Tile 5 is to be saved; with work in its engine; a placement of context 4 on a partition of one tile. -/
def saving (q : List MatEntry) : State := setTile 5 { TileState.init with preempt := true, queue := q } running3
def placedOnce (s : State) : State := { s with ctxs := [(4, { CtxExtra.init with placed := true })], mem := cells 0x10400010 (bytesOf 8 3) }

theorem witness_TimeSlicing_saves : (saving []).Sound ∧ ((running3.tile 5).preempt = false) ∧
    (∀ s ∈ [saving [], saving (storing.tile 5).queue], s.tileCtx 5 = some 3 ∧ (s.tile 5).preempt = true ∧ (s.tile 5).saving = none ∧ s.fatal = false ∧
      below s (Reg.PRT_FORCED (s.ctxPart 3)) 1 = true) ∧
    ((saving []).tile 5).queue = [] ∧ ((saving (storing.tile 5).queue).tile 5).queue ≠ [] ∧ (saving []).swapping ((saving []).logical 5) = false ∧ (saving []).Bare ∧
    (saving []).poison = [] ∧ (saving []).imageBase 3 5 + 0x480000 ≤ hbmEnd ∧ (saving []).tileSt 5 = TileSt.RUNNING ∧
    ((List.range 2).all fun h => below (saving []) (Reg.BC_H_WRITEBACK h) (2 ^ 20)) = true :=
  ⟨sound_of (by decide +kernel), by decide +kernel, by decide +kernel, by decide +kernel, by decide +kernel, by decide +kernel,
    bare_of (by decide +kernel), by decide +kernel⟩

/-- The conditions of a placement. -/
def places (s : State) : Bool := decide ((s.part 0).placing = some 4) && !s.memRefuses && !s.fatal && s.imagesServed 4 && decide (s.swap = none) &&
  s.schedulable 4 && decide (s.ctxPart 4 = 0) && decide (s.partTiles 0 = [5]) && decide (s.phys 5 = 5) && decide ((s.ctx 4).wokenUs = none) &&
  !(s.ctx 4).restart && bare s && decide (s.poison = []) && ((List.range 256).all fun k => decide ((s.stagePort k).parked = [])) &&
  below s (Reg.PRT_SWITCHES 0) 1 && decide (s.imageBase 4 5 = 0x10000000)

theorem witness_TimeSlicing_placements : (placing4 parted).Sound ∧ places (placing4 parted) = true ∧ ((placing4 parted).ctx 4).placed = false ∧
    places (placedOnce (placing4 parted)) = true ∧ ((placedOnce (placing4 parted)).ctx 4).placed = true ∧
    (let h := (placedOnce (placing4 parted)).hbmBytes 0x10400000 0x280
     bit (field h 16 8) 0 = true ∧ bit (field h 16 8) 1 = true ∧ field h 0 8 < 2 ^ 22 ∧ field h 0 8 % 32 = 0) ∧
    (let s := unscheduled (placing4 parted)
     (s.part 0).placing = some 4 ∧ s.schedulable 4 = false ∧ s.imagesServed 4 = true) ∧ (parted.part 0).placing = none :=
  ⟨sound_of (by decide +kernel), by decide +kernel⟩

/-- Partition 1 is empty, and partition 2 has tile 5. -/
def emptyParts : State := net |> put (Reg.CTX_CTRL 3) F.CTX_CTRL_STATE 0 |> put (Reg.PRT_CTRL 1) F.PRT_CTRL_VALID 1 |> put (Reg.PRT_CTRL 2) F.PRT_CTRL_VALID 1
  |> setR (Reg.PRT_TILES0 2) 0x20 |> put (Reg.PRT_BW 2) F.PRT_BW_HBM_PCT 60

theorem witness_TimeSlicing_registers : (halted3 1).Sound ∧ emptyParts.Sound ∧ (∀ s ∈ [parted, halted3 0, halted3 1], s.ctxState 3 = CtxState.ACTIVE ∧ s.present 3 = true) ∧
    parted.ctxState 7 ≠ CtxState.ACTIVE ∧ parted.on (Reg.CTX_STATUS 3) F.CTX_STATUS_HALTED = false ∧
    (∀ r ∈ [0, 1], (halted3 r).on (Reg.CTX_STATUS 3) F.CTX_STATUS_HALTED = true) ∧ (halted3 0).on (Reg.CTX_CTRL 3) F.CTX_CTRL_RUN = false ∧
    (halted3 1).on (Reg.CTX_CTRL 3) F.CTX_CTRL_RUN = true ∧ (halted3 1).resident 3 = false ∧ (halted3 1).ctxPart 3 = 0 ∧ (halted3 1).residentOf 0 = none ∧
    ((halted3 1).part 0).placing = none ∧
    ((0 : Word).put F.CTX_CTRL_DOMAIN 2).get F.CTX_CTRL_DOMAIN = parted.ctxDomain 3 ∧ (0 : Word).get F.CTX_CTRL_DOMAIN ≠ parted.ctxDomain 3 ∧
    parted.ctxPart 3 = 0 ∧ parted.on (Reg.CTX_CTRL 7) F.CTX_CTRL_RUN = false ∧ parted.present 7 = false ∧
    (((0 : Word).put F.CTX_CTRL_DOMAIN 2).put F.CTX_CTRL_RUN 1).get F.CTX_CTRL_RUN = 1 := by
  refine ⟨sound_of (by decide +kernel), sound_of (by decide +kernel), by decide +kernel⟩

theorem witness_TimeSlicing_partitions : parted.partUsed 0 = true ∧ (∀ q ∈ [0, 1], emptyParts.partUsed q = false) ∧ emptyParts.partsOk = true ∧
    emptyParts.on (Reg.PRT_CTRL 0) F.PRT_CTRL_VALID = false ∧ emptyParts.on (Reg.PRT_CTRL 1) F.PRT_CTRL_VALID = true ∧
    emptyParts.on (Reg.PRT_CTRL 2) F.PRT_CTRL_VALID = true ∧ 5 ∈ emptyParts.partTiles 2 ∧ bit (0x20 : Word).toNat 5 = true ∧
    (let v := ((0 : Word).put F.PRT_BW_HBM_PCT 41).put F.PRT_BW_FAB_PCT 100
     v.get F.PRT_BW_HBM_PCT ≤ 100 ∧ v.get F.PRT_BW_FAB_PCT ≤ 100 ∧ 100 < v.get F.PRT_BW_HBM_PCT + emptyParts.fld (Reg.PRT_BW 2) F.PRT_BW_HBM_PCT) := by
  decide +kernel

/-- Context 3 with a running queue of 16 entries in which one command is posted, as the last entry of both rings, and host commands. -/
def hosted : State := net |> put (Reg.Q_CFG 3) F.Q_CFG_EN 1 |> put (Reg.Q_CFG 3) F.Q_CFG_SIZE_LOG 4 |> put (Reg.Q_CFG 3) F.Q_CFG_IRQ_EN 1
  |> put (Reg.Q_CFG 3) F.Q_CFG_VECTOR 63 |> put (Reg.Q_STATUS 3) F.Q_STATUS_STATE QState.RUNNING |> put (Reg.Q_STATUS 3) F.Q_STATUS_SQ_HEAD 15
  |> put (Reg.Q_STATUS 3) F.Q_STATUS_CQ_TAIL 15 |> put (Reg.Q_STATUS 3) F.Q_STATUS_PHASE 1 |> put (Reg.DB_CQ_HEAD 3) F.DB_CQ_HEAD_HEAD 15
  |> put (Reg.Q_SQ_BASE 3) F.Q_SQ_BASE_BASE 0x40 |> put (Reg.Q_CQ_BASE 3) F.Q_CQ_BASE_BASE 0x80
def cmd0 : HostCmd := ⟨false, true, 0x7777, 0, 0, 0, 0, 0, 0, 0, false⟩
def copyCmd : HostCmd := { cmd0 with host := 0x5000, dev := 0x103C, len := 4 }
def nvmeCmd : HostCmd := { cmd0 with qp := 2, nlb := 1, nsid := 1, slba := 0x900, dev := 0x2000 }
def connected : State := { hosted with mgmt := { hosted.mgmt with qps := List.replicate 128 0 ++ (bytesOf 1 1 ++ bytesOf 1 2 ++ List.replicate 62 0) } }

theorem witness_HostCommands : hosted.Sound ∧ connected.Sound ∧ hosted.hostMay 3 true = true ∧ hosted.hostMay 3 false = true ∧ net.hostMay 3 false = false ∧
    ({ cmd0 with rsv := true } : HostCmd).rsv = true ∧ hosted.path.clearing = [] ∧ hosted.tilesOf 3 = [] ∧
    (∀ h ∈ [cmd0, copyCmd], h.rsv = false ∧ h.qp = 0 ∧ h.nlb = 0 ∧ h.nsid = 0 ∧ h.slba = 0) ∧ cmd0.host = 0 ∧ cmd0.dev = 0 ∧ cmd0.len = 0 ∧
    hosted.target copyCmd.dev.toNat 4 = .hbm 0x103C ∧ (hosted.windows (hosted.ctxPart 3) 0x103C 4 true).length = 1 ∧
    (hosted.windows (hosted.ctxPart 3) 0x103C 4 false).length = 1 ∧ hosted.path.held = [] ∧ hosted.swap = none ∧ hosted.Takes64 0x103C 4 0 ∧
    hosted.Steady [(0x103C, 4)] ∧ below hosted Reg.HIF_H2D_BYTES 4 = true ∧ below hosted Reg.HIF_D2H_BYTES 4 = true ∧ hosted.memRefuses = false ∧
    hosted.target (2 ^ 63) 4 = .bad ∧ hosted.target 0x1038 8 = .hbm 0x1038 ∧ (hosted.windows (hosted.ctxPart 3) 0x1038 8 true).length = 1 ∧
    hosted.Takes64 0x1038 8 0 :=
  ⟨sound_of (by decide +kernel), sound_of (by decide +kernel), by decide +kernel, by decide +kernel, by decide +kernel, by decide +kernel, by decide +kernel,
    by decide +kernel, by decide +kernel, by decide +kernel, by decide +kernel, by decide +kernel, by decide +kernel, by decide +kernel, by decide +kernel,
    by decide +kernel, by decide +kernel, takes64_of (by decide +kernel), steady_of (by decide +kernel), by decide +kernel, by decide +kernel, by decide +kernel,
    by decide +kernel, by decide +kernel, by decide +kernel, takes64_of (by decide +kernel)⟩

theorem witness_HostCommands_nvme : nvmeCmd.rsv = false ∧ nvmeCmd.host = 0 ∧ nvmeCmd.len = 0 ∧ nvmeCmd.nlb.toNat ≤ 255 ∧ nvmeCmd.dev.toNat % 4096 = 0 ∧
    hosted.target nvmeCmd.dev.toNat 8192 = .hbm 0x2000 ∧ (hosted.windows (hosted.ctxPart 3) 0x2000 8192 true).length = 1 ∧
    connected.hostMay 3 false = true ∧ connected.qpIs 2 2 true = true ∧ hosted.qpIs 2 2 true = false ∧
    hosted.on (Reg.CTX_STATUS 3) F.CTX_STATUS_HALTED = false := by decide +kernel

/-- The commands in progress of the queue: one that has ended, one that waits for host memory, one that waits for a Read. -/
def inProgress (opc : Nat) (code : Option Nat) : State := { hosted with hostQs := [(3, ⟨[⟨0x7777, opc, true, 0, code, 4, 0x103C, 4, 9⟩], false⟩)] }

theorem witness_HostCommands_ends : (inProgress 1 (some 0)).Sound ∧ (inProgress 5 none).Sound ∧
    (let s := inProgress 1 (some 0)
     (s.hostQ 3).ops = [⟨0x7777, 1, true, 0, some 0, 4, 0x103C, 4, 9⟩] ∧ s.hostWaits 3 0x7777 = false ∧ s.qState 3 = QState.RUNNING ∧
     below s Reg.HIF_CMDS 1 = true ∧ s.fld (Reg.Q_CFG 3) F.Q_CFG_VECTOR < (if s.fld (Reg.CTX_HOST 3) F.CTX_HOST_FUNC = 0 then 2048 else 64)) ∧
    (hosted.hostQ 3).ops = [] ∧ hosted.hostOp 3 0x7777 = none ∧
    (∀ opc ∈ [1, 5], ∀ op ∈ (inProgress opc none).hostOp 3 0x7777, op.opc = opc ∧ op.code = none) ∧
    ((inProgress 1 none).hostOp 3 0x7777).isSome = true ∧ ((inProgress 5 none).hostOp 3 0x7777).isSome = true :=
  ⟨sound_of (by decide +kernel), sound_of (by decide +kernel), by decide +kernel⟩

/-- The completion entry of the last place of the ring: the bytes, and the phase bit turning over. -/
theorem test_host_completion : ends (execHostCmdComplete 3 (inProgress 1 (some 0))) (fun t =>
    t.out == [.hostWrite 0 0x800F0 [0x77, 0x77, 0, 1, 0, 0, 0, 0, 4, 0, 0, 0, 0, 0, 0, 0], .msix 0 63] && t.fld (Reg.Q_STATUS 3) F.Q_STATUS_PHASE == 0 &&
    t.fld (Reg.Q_STATUS 3) F.Q_STATUS_CQ_TAIL == 0) = true := by decide +kernel

def heldQueue (s : State) : State := put (Reg.Q_STATUS 3) F.Q_STATUS_STATE QState.HELD s
def emptied (s : State) : State := put (Reg.DB_SQ_TAIL 3) F.DB_SQ_TAIL_TAIL 15 s
def pcieUp (s : State) : State := raise Reg.HIF_STATUS F.HIF_STATUS_LINK_UP s
def perstHigh (s : State) : State := { s with pins := { s.pins with perst := true } }
def perstLow (s : State) : State := { s with pins := { s.pins with perst := false } }

theorem witness_HostQueuesAndLink : hosted.Sound ∧ (1 : Word).get F.DB_SQ_TAIL_TAIL < hosted.qSize 3 ∧ hosted.qSize 3 ≤ (16 : Word).get F.DB_SQ_TAIL_TAIL ∧
    net.qState 3 = QState.DISABLED ∧ (put (Reg.CTX_CTRL 3) F.CTX_CTRL_STATE CtxState.RESETTING hosted).ctxState 3 = CtxState.RESETTING ∧
    hosted.ctxState 3 ≠ CtxState.RESETTING ∧ hosted.qState 3 = QState.RUNNING ∧ hosted.qWaiting 3 = 1 ∧ (emptied hosted).qWaiting 3 = 0 ∧
    (emptied hosted).qState 3 = QState.RUNNING ∧ ((emptied hosted).hostQ 3).ops = [] ∧ (heldQueue hosted).qState 3 = QState.HELD ∧
    (heldQueue hosted).qWaiting 3 = 1 ∧
    (let v := hosted.reg (Reg.Q_CFG 3)
     hosted.on (Reg.Q_CFG 3) F.Q_CFG_EN = true ∧ (v.put F.Q_CFG_VECTOR 1).get F.Q_CFG_VECTOR ≠ hosted.fld (Reg.Q_CFG 3) F.Q_CFG_VECTOR ∧
     (v.put F.Q_CFG_EN 0).get F.Q_CFG_EN = 0 ∧ (v.put F.Q_CFG_EN 0).get F.Q_CFG_SIZE_LOG = 4 ∧ (v.put F.Q_CFG_EN 0).get F.Q_CFG_VECTOR = 63 ∧
     hosted.fld (Reg.Q_CFG 3) F.Q_CFG_SIZE_LOG = 4 ∧ hosted.fld (Reg.Q_CFG 3) F.Q_CFG_VECTOR = 63 ∧
     net.on (Reg.Q_CFG 3) F.Q_CFG_EN = false ∧ v.get F.Q_CFG_EN = 1 ∧ v.get F.Q_CFG_SIZE_LOG = 4 ∧ (v.put F.Q_CFG_SIZE_LOG 12).get F.Q_CFG_SIZE_LOG = 12) ∧
    (perstHigh net).pins.perst = true ∧ (1 : Nat) ≤ (6 : Fin 7).val ∧ (16 : Fin 17).val ∈ [1, 2, 4, 8, 16] ∧ (3 : Fin 17).val ∉ [1, 2, 4, 8, 16] ∧
    net.on Reg.HIF_STATUS F.HIF_STATUS_LINK_UP = false ∧ (perstLow (pcieUp net)).on Reg.HIF_STATUS F.HIF_STATUS_LINK_UP = true ∧
    (perstLow (pcieUp net)).pins.perst = false ∧ (perstHigh (pcieUp net)).on Reg.HIF_STATUS F.HIF_STATUS_LINK_UP = true ∧
    net.mgmt.imgA = none ∧ net.mgmt.imgB = none ∧ net.handover = false ∧ net.recovery = false ∧ net.on Reg.PWR_STATUS F.PWR_STATUS_TRIP = false ∧
    net.on Reg.MGT_CMD_STATUS F.MGT_CMD_STATUS_CMD_BUSY = false ∧ net.mgmt.recording = false :=
  ⟨sound_of (by decide +kernel), by decide +kernel⟩

/-- Round robin (R505): with context 3 served last, context 5, whose queue has work too, comes first. -/
def contended : State := { hosted with hostTurn := 3 } |> put (Reg.Q_CFG 5) F.Q_CFG_SIZE_LOG 4 |> put (Reg.Q_STATUS 5) F.Q_STATUS_STATE QState.RUNNING
  |> put (Reg.DB_SQ_TAIL 5) F.DB_SQ_TAIL_TAIL 1 |> put (Reg.CTX_CTRL 5) F.CTX_CTRL_STATE CtxState.ACTIVE
theorem test_host_turn : ends (execNop 3 cmd0 contended) (fun t => t == contended) = true ∧
    ends (execNop 5 cmd0 contended) (fun t => t.hostTurn == 5 && t.hostMay 3 false) = true := by decide +kernel

/-- The management core with its arguments set, a manifest of job 0 in HBM, and records to be written to the configuration store. -/
def managed : State := { (net |> setR Reg.MGT_ARG0 0x40000 |> setR Reg.MGT_ARG1 257 |> put Reg.CFG_SRC F.CFG_SRC_ADDR 0x1000) with
  mem := cells 0x40000 (List.replicate 28 0xAB ++ [1]) }
def manifest0 : State := { managed with mem := cells 0x4001C [1] }
def mgtBusy (cmd : Nat) (s : State) : State := { put Reg.MGT_CMD_STATUS F.MGT_CMD_STATUS_CMD_BUSY 1 s with mgmt := { s.mgmt with cmd := cmd } }
def recording : State := { managed with mgmt := { managed.mgmt with recording := true } }
def staged (fw : Nat) : State := { put Reg.MGT_CMD_STATUS F.MGT_CMD_STATUS_FW_STATE fw managed with mgmt := { managed.mgmt with slot1 := some ⟨3, 0⟩ } }

theorem witness_ManagementCommands : managed.Sound ∧ (staged 3).Sound ∧ managed.on Reg.MGT_CMD_STATUS F.MGT_CMD_STATUS_CMD_BUSY = false ∧
    (mgtBusy 5 managed).on Reg.MGT_CMD_STATUS F.MGT_CMD_STATUS_CMD_BUSY = true ∧ managed.handover = false ∧ managed.recovery = false ∧
    (staged 3).handover = true ∧ (staged 3).on Reg.MGT_CMD_STATUS F.MGT_CMD_STATUS_CMD_BUSY = false ∧
    (put Reg.MGT_STATUS F.MGT_STATUS_STATE 3 managed).recovery = true ∧ recording.mgmt.recording = true ∧ managed.mgmt.recording = false ∧
    (let a := (managed.reg Reg.MGT_ARG0).toNat
     let n := (managed.reg Reg.MGT_ARG1).toNat
     257 ≤ n ∧ n ≤ 4194304 ∧ a % 64 = 0 ∧ ¬ 257 ≤ ((put Reg.MGT_ARG1 ⟨63, 0⟩ 256 managed).reg Reg.MGT_ARG1).toNat ∧
     field (manifest0.hbmBytes a n) 8 8 = (manifest0.reg Reg.CHK_JOB).toNat ∧ bit (field (manifest0.hbmBytes a n) 28 4) 0 = true ∧
     field (managed.hbmBytes a n) 8 8 ≠ (managed.reg Reg.CHK_JOB).toNat) ∧
    managed.Steady [(0x40000, 257)] ∧ manifest0.Steady [(0x40000, 257)] ∧
    (managed.reg Reg.MGT_ARG0).toNat = 0x40000 ∧ (managed.reg Reg.MGT_ARG1).toNat = 257 :=
  ⟨sound_of (by decide +kernel), sound_of (by decide +kernel), by decide +kernel, by decide +kernel, by decide +kernel, by decide +kernel, by decide +kernel,
    by decide +kernel, by decide +kernel, by decide +kernel, by decide +kernel, by decide +kernel, steady_of (by decide +kernel), steady_of (by decide +kernel),
    by decide +kernel⟩

/-- Firmware and the configuration store. -/
theorem witness_ManagementCommands_firmware : (staged 1).Sound ∧ managed.fwState = 0 ∧ (∀ f ∈ [1, 2, 3], (staged f).fwState = f) ∧ (staged 3).fwSlot (staged 3).idleSlot = some ⟨3, 0⟩ ∧
    (mgtBusy 5 managed).mgmt.cmd = 5 ∧ managed.mgmt.cmd ≠ 5 ∧ (mgtBusy 5 managed).mgmt.mgtWait = none ∧ (staged 3).mgmt.mgtWait = none ∧ (staged 3).mgmt.cfgWait = none ∧
    managed.fld Reg.MGT_STATUS F.MGT_STATUS_MIN_SVN ≤ managed.mgmt.staging ∧
    ¬ (put Reg.MGT_STATUS F.MGT_STATUS_MIN_SVN 1 managed).fld Reg.MGT_STATUS F.MGT_STATUS_MIN_SVN ≤ managed.mgmt.staging ∧
    (staged 2).fld Reg.MGT_CMD_STATUS F.MGT_CMD_STATUS_WAIT = 0 ∧
    (raise Reg.CFG_STATUS F.CFG_STATUS_WRITE_BUSY managed).on Reg.CFG_STATUS F.CFG_STATUS_WRITE_BUSY = true ∧
    managed.on Reg.CFG_STATUS F.CFG_STATUS_WRITE_BUSY = false ∧ managed.fld Reg.CFG_SRC F.CFG_SRC_ADDR * 64 = 0x40000 ∧ managed.mgmt.cfgWait = none ∧
    managed.spareImage = 1 ∧ (raise Reg.CFG_STATUS F.CFG_STATUS_CFG_DEFAULTED managed).spareImage = 0 ∧ managed.Steady [(0x40000, 16)] :=
  ⟨sound_of (by decide +kernel), by decide +kernel, by decide +kernel, by decide +kernel, by decide +kernel, by decide +kernel, by decide +kernel,
    by decide +kernel, by decide +kernel, by decide +kernel, by decide +kernel, by decide +kernel, by decide +kernel, by decide +kernel, by decide +kernel,
    by decide +kernel, by decide +kernel, by decide +kernel, steady_of (by decide +kernel)⟩

/-- An outer port that is up, sessions, queue pairs, a harvest that is read, and an NVME_READ that awaits its data. -/
def portsUp (s : State) : State := s |> put (Reg.HIF_ETH_STATUS 1) F.HIF_ETH_STATUS_LINK_UP 1
def withSessions (l : List Nat) : State := { net with mgmt := { net.mgmt with sessions := l } }
def awaitingData : State := portsUp { connected with hostQs := (inProgress 5 none).hostQs }
def harvestRead : State := portsUp { harvesting target5 with mgmt := { owing.mgmt with
  qps := List.replicate 128 0 ++ (bytesOf 1 1 ++ bytesOf 1 1 ++ List.replicate 62 0) } }
def tableLoading : State := net |> raise Reg.HIF_STATUS F.HIF_STATUS_QP_LOADING |> put Reg.HIF_QPTAB F.HIF_QPTAB_COUNT 2 |> put Reg.HIF_QPTAB F.HIF_QPTAB_BASE 0x1000

theorem witness_OuterPortsAndAttestation : net.Sound ∧ (net.fld Reg.ERR_PTR F.ERR_PTR_WP + 65536 - (0 : Word).get F.ERR_PTR_RP) % 65536 ≤ 256 ∧
    256 < (net.fld Reg.ERR_PTR F.ERR_PTR_WP + 65536 - ((0 : Word).put F.ERR_PTR_RP 1).get F.ERR_PTR_RP) % 65536 ∧ (staged 3).handover = true ∧ net.handover = false ∧
    (withSessions [0, 2]).mgmt.sessions = [0, 2] ∧ (withSessions [0, 1, 2, 3]).mgmt.sessions.length = 4 ∧ net.mgmt.sessions = [] ∧
    (withSessions [0, 2]).Sound ∧ net.portUp 1 = false ∧ (portsUp net).portUp 1 = true ∧ below net (rxBytes 1) 64 = true ∧ below net Reg.HIF_ETH_DROPS 1 = true ∧
    (raise Reg.HIF_CTRL F.HIF_CTRL_PFC_EN net).on Reg.HIF_CTRL F.HIF_CTRL_PFC_EN = true ∧
    (net.on Reg.HIF_CTRL F.HIF_CTRL_PFC_EN = true ∨ net.on Reg.HIF_CTRL F.HIF_CTRL_PFC_EN = false) :=
  ⟨sound_of (by decide +kernel), by decide +kernel, by decide +kernel, by decide +kernel, by decide +kernel, by decide +kernel, by decide +kernel, by decide +kernel,
    sound_of (by decide +kernel), by decide +kernel⟩

theorem witness_OuterPortsAndAttestation_rdma : harvestRead.Sound ∧ awaitingData.Sound ∧ net.harvest = none ∧ harvestRead.portUp 1 = true ∧ harvestRead.harvest.isSome = true ∧
    harvestRead.qpIs 2 1 true = true ∧ (∀ h ∈ harvestRead.harvest, harvestRead.slotServed h = true) ∧ below harvestRead (txBytes 1) 64 = true ∧
    net.awaiting 0x103C 4 = none ∧ awaitingData.awaiting 0x103C 4 = some (3, ⟨0x7777, 5, true, 0, none, 4, 0x103C, 4, 9⟩) ∧ awaitingData.qpIs 2 2 true = true ∧
    awaitingData.portUp 1 = true ∧ below awaitingData (rxBytes 1) 4 = true ∧ awaitingData.epoch 3 = 9 ∧ awaitingData.present 3 = true ∧ awaitingData.path.held = [] ∧
    awaitingData.swap = none ∧ awaitingData.Takes64 0x103C 4 0 ∧ (put (Reg.CTX_CTRL 3) F.CTX_CTRL_EPOCH 10 awaitingData).epoch 3 ≠ 9 :=
  ⟨sound_of (by decide +kernel), sound_of (by decide +kernel), by decide +kernel, by decide +kernel, by decide +kernel, by decide +kernel, by decide +kernel, by decide +kernel,
    by decide +kernel, by decide +kernel, by decide +kernel, by decide +kernel, by decide +kernel, by decide +kernel, by decide +kernel, by decide +kernel,
    by decide +kernel, takes64_of (by decide +kernel), by decide +kernel⟩

theorem witness_OuterPortsAndAttestation_table : tableLoading.Sound ∧ harvestRead.qpInUse = true ∧ net.qpInUse = false ∧
    ((0 : Word).put F.HIF_QPTAB_COUNT 1024).get F.HIF_QPTAB_COUNT ≤ 1024 ∧ net.on Reg.HIF_STATUS F.HIF_STATUS_QP_LOADING = false ∧
    tableLoading.on Reg.HIF_STATUS F.HIF_STATUS_QP_LOADING = true ∧ tableLoading.fld Reg.HIF_QPTAB F.HIF_QPTAB_BASE * 64 = 0x40000 ∧
    64 * tableLoading.fld Reg.HIF_QPTAB F.HIF_QPTAB_COUNT = 128 ∧ tableLoading.Steady [(0x40000, 128)] :=
  ⟨sound_of (by decide +kernel), by decide +kernel, by decide +kernel, by decide +kernel, by decide +kernel, by decide +kernel, by decide +kernel,
    by decide +kernel, steady_of (by decide +kernel)⟩

/-- The power loops: power is good or not, a die at its limit, surge, the clamp, trips. -/
def good (s : State) : State := { s with pins := { s.pins with pwrGood := true } }
def surgeable : State := put Reg.PWR_CTRL F.PWR_CTRL_SURGE_EN 1 net
def surging (since : Nat) : State := { raise Reg.PWR_STATUS F.PWR_STATUS_SURGING surgeable with now := 20000000, power := { net.power with since := some since } }
def clamping : State := raise Reg.PWR_STATUS F.PWR_STATUS_CLAMPING net
def clamped (ago : Nat) : State := { net with now := 5000000, power := { net.power with clampEnd := some (5000000 - ago) } }
def atLimit : State := put (Reg.PWR_DIE 0) F.PWR_DIE_VID 950 net
def tripped : State := raise Reg.PWR_STATUS F.PWR_STATUS_TRIP net
def warm (c : Nat) : State := put (Reg.MEM_S_STATUS 7) F.MEM_S_STATUS_TEMP c net
def sensor71 : Reading := ⟨71, true, 0⟩

theorem witness_PowerAndThermal : net.Sound ∧ State.reset.mgmt.slot0 ≠ none ∧ ((staged 1).mgmt.slot0.isSome && (staged 1).mgmt.slot1.isSome) = true ∧
    (let m := { State.reset.mgmt with slot0 := none }
     ({ State.reset with mgmt := m }).mgmt.slot0 = none ∧ m.slot1 = none) ∧
    (good net).pins.pwrGood = true ∧ net.pins.pwrGood = false ∧ net.fatal = false ∧ net.recovery = false ∧ net.mgmt.imgA = none ∧ net.mgmt.imgB = none ∧
    below net Reg.PWR_ENERGY 100 = true ∧ (net.power.energy + 0xFFFF * 100) / 100000 ≤ 100 ∧ net.vid 5 < 900 ∧ atLimit.vid 0 = 950 ∧
    atLimit.on Reg.PWR_STATUS F.PWR_STATUS_AVS_LIMIT = false ∧ below net Reg.PWR_STRETCH 65535 = true :=
  ⟨sound_of (by decide +kernel), by decide +kernel⟩

theorem witness_PowerAndThermal_surge : (surging 0).Sound ∧ surgeable.on Reg.PWR_CTRL F.PWR_CTRL_SURGE_EN = true ∧ surgeable.on Reg.PWR_STATUS F.PWR_STATUS_SURGING = false ∧
    surgeable.usedMs ≤ 18000 ∧ surgeable.fld Reg.PWR_PKG F.PWR_PKG_JUNC_C < 90 ∧ surgeable.pins.icrit = true ∧
    (surging 0).on Reg.PWR_STATUS F.PWR_STATUS_SURGING = true ∧ 20000 ≤ (surging 0).usedMs ∧ ¬ 20000 ≤ (surging 1000).usedMs ∧
    net.on Reg.PWR_CTRL F.PWR_CTRL_SURGE_EN = false :=
  ⟨sound_of (by decide +kernel), by decide +kernel⟩

theorem witness_PowerAndThermal_clamp : net.on Reg.PWR_STATUS F.PWR_STATUS_CLAMPING = false ∧ net.power.clampEnd = none ∧ below net Reg.PWR_CLAMPS 1 = true ∧
    ((clamped 999999).on Reg.PWR_STATUS F.PWR_STATUS_CLAMPING = false ∧ ∃ x, (clamped 999999).power.clampEnd = some x ∧ (clamped 999999).now < x + 1000000) ∧
    (∀ x, (clamped 1000000).power.clampEnd = some x → x + 1000000 ≤ (clamped 1000000).now) ∧
    clamping.on Reg.PWR_STATUS F.PWR_STATUS_CLAMPING = true := by
  refine ⟨by decide +kernel, by decide +kernel, by decide +kernel, ⟨by decide +kernel, 4000001, by decide +kernel⟩, fun x h => ?_, by decide +kernel⟩
  cases h
  decide +kernel

theorem witness_PowerAndThermal_heat : (let s := warm 95
     95 ≤ (((List.range 8).map s.stackReading).map (·.c)).foldl max 0 ∧ s.fld Reg.PWR_CLOCK F.PWR_CLOCK_THERM_REQ = 72) ∧
    (warm 100).fld (Reg.MEM_S_STATUS (sensor71.sensor.toNat % 8)) F.MEM_S_STATUS_TEMP = 100 ∧ (warm 100).on Reg.PWR_STATUS F.PWR_STATUS_TRIP = false ∧
    tripped.on Reg.PWR_STATUS F.PWR_STATUS_TRIP = true ∧ tripped.pins.pwrGood = false ∧ (perstHigh net).pins.perst = true ∧ (perstLow net).pins.perst = false ∧
    (good net).pins.vrFault = true ∧ ({ net with pins := { net.pins with vrFault := false } }).pins.vrFault = false ∧
    (let v := ((0 : Word).put F.PWR_CTRL_ICC_A 100 |>.put F.PWR_CTRL_CLK_CAP 73 |>.put F.PWR_CTRL_LIMIT_W 1800)
     100 ≤ v.get F.PWR_CTRL_ICC_A ∧ v.get F.PWR_CTRL_ICC_A ≤ 700 ∧ 32 ≤ v.get F.PWR_CTRL_CLK_CAP ∧ 72 < v.get F.PWR_CTRL_CLK_CAP ∧
     1200 ≤ v.get F.PWR_CTRL_LIMIT_W ∧ v.get F.PWR_CTRL_LIMIT_W ≤ 1800 ∧ v.get F.PWR_CTRL_TRIP_CLEAR = 0 ∧ v.get F.PWR_CTRL_SURGE_EN = 0 ∧
     (v.put F.PWR_CTRL_CLK_CAP 72).get F.PWR_CTRL_CLK_CAP ≤ 72) := by decide +kernel

/-! Values that the spec's worked examples state. -/

/-- One address (spec/06_stacked_memory.md): 0x0012_3456_7890 on die, and its set of the base cache. -/
theorem test_placement_of_an_address : State.reset.place 0x001234567890 = (1, 20, ⟨2330, 0, 2, 3, 2, 0x10⟩) ∧
    State.reset.channelAddr 0x001234567890 = 0x12345890 ∧ cacheSet 0x001234567890 = 69938 := by decide +kernel

/-- Locating a tile-memory address (spec/01_floor.md): offset 0x2_3480 of logical tile 77 of device 3,001. -/
theorem test_tile_memory_address : tileAddr 77 0x23480 = 0x01004D023480 ∧
    State.reset.target 0x2BB901004D023480 4 = .remote 3001 0x01004D023480 ∧
    (put Reg.FAB_ID F.FAB_ID_ID 3001 State.reset).target 0x2BB901004D023480 4 = .tile 77 0x23480 ∧
    Reg.TILE_PC 87 - Reg.TILE_PC 0 + 0x01000000 = 0x01570000 := by decide +kernel

/-- Pinning one pair (spec/01_floor.md): the lower GiB of pair 40 to Half 1, the upper to Half 0, and the pair is cleared. -/
theorem test_pinning : ends (execRegisterWrite (BitVec.ofNat 27 (Reg.FLR_PIN 1)) 8 0x20000 State.reset) (fun t =>
    t.path.clearing == [40] && t.on Reg.FLR_STATUS F.FLR_STATUS_PIN_BUSY && t.half 0x001400000000 == 1 && t.half 0x00143FFFFFFF == 1 &&
    t.half 0x001440000000 == 0 && t.half 0x00147FFFFFFF == 0) = true := by decide +kernel

/-- One element over four devices (spec/10_gradients_and_shard_update.md): the total, its lane and its result. -/
theorem test_reduction_of_an_element :
    ownLanes 0x80 [0x3F800000, 0x33800000, 0x33800000, 0x2FC00000] = [536870912, 32, 32, 0] ∧
    joinLanes 0x80 [536870912] (joinLanes 0x80 [32] (joinLanes 0x80 [32] [0])) = [0x20000040] ∧ laneResult 0x80 0x20000040 = 0x3F800001 := by decide +kernel

/-- A tide value (spec/12_pans_and_harvest.md): the step slot of (4,096, SEAL, 0), and of (4,608, SEAL, 0). -/
theorem test_tide_word : tideWord 4096 Phase.SEAL 0 = 0x0000001000040000 ∧ tideWord 4608 Phase.SEAL 0 = 0x0000001200040000 := by decide +kernel

/-- One ledger entry (spec/17_host_management_and_errors.md): stage port 30 of context 679 halts in FLOW of step 9,300. -/
def halting : State := { (State.reset |> put Reg.ERR_PTR F.ERR_PTR_WP 1041 |> put Reg.ERR_PTR F.ERR_PTR_RP 1041
  |> put (Reg.CTX_CTRL 679) F.CTX_CTRL_STATE 1 |> put (Reg.CTX_CTRL 679) F.CTX_CTRL_DOMAIN 2 |> put (Reg.CTX_CTRL 679) F.CTX_CTRL_EPOCH 5
  |> put (Reg.TIDE_CTRL 2) F.TIDE_CTRL_ROLE 1 |> setR (Reg.TIDE_VALUE 2) (tideWord 9300 Phase.FLOW 37)) with now := 7200000123, posted := 1041 }

theorem test_ledger_entry : (let t := postContained 0x0060 .stg 679 0x3061E halting
    (List.range 4).map (fun i => t.reg (0x11220 + 8 * i)) = [0x00600001AD27487B, 0x0000002454010025, 0x2D0512A700000411, 0x000000000003061E] ∧
    t.fld Reg.ERR_PTR F.ERR_PTR_WP = 1042 ∧ t.ctxState 679 = CtxState.QUARANTINED) := by decide +kernel

/-- Two lines that never fill (spec/06_stacked_memory.md): bytes 0 to 15 of a line that is not cached open an entry with their mask. -/
theorem test_write_combining : (let t := (hbmWrite false 0x2000 (List.replicate 16 7) 1 3 9 net).1
    t.path.wcb.map (fun e => (e.addr, e.mask)) = [(0x2000, List.replicate 16 true ++ List.replicate 48 false)]) ∧
    (let t := (hbmWrite false 0x2000 (List.replicate 16 7) 1 3 9 { net with path := { net.path with cache := [⟨0x2000, 0, List.replicate 64 0, false, false, false⟩] } }).1
    t.path.wcb = []) := by decide +kernel

/-- Reads of registers: a narrow one returns zero and sets BAD_WRITE (R23), one of no register returns zero (R22), TILE_SREG 0 and
TILE_PREG bit 0 read as the constants that they are (R99), and a window of a RUNNING tile shows nothing (R143). -/
theorem test_reads : State.reset.readAccess Reg.FAB_CTRL 8 = (0x0000000008000064, State.reset) ∧
    State.reset.readAccess Reg.FAB_CTRL 4 = (0, raise Reg.FAB_STATUS F.FAB_STATUS_BAD_WRITE State.reset) ∧
    State.reset.read 0x10018 = 0 ∧ (setR (Reg.TILE_SREG 5 0) 7 State.reset).read (Reg.TILE_SREG 5 0) = 0 ∧
    State.reset.read (Reg.TILE_PREG 5) = 1 ∧ (setR (Reg.TILE_SREG 5 3) 7 State.reset).read (Reg.TILE_SREG 5 3) = 7 ∧
    (put (Reg.TILE_STATUS 5) F.TILE_STATUS_STATE 1 (setR (Reg.TILE_SREG 5 3) 7 State.reset)).read (Reg.TILE_SREG 5 3) = 0 := by decide +kernel

/-- ALERT_N (spec/18_power_pins_and_package.md): low for a SEEN bit whose interrupt is enabled. -/
theorem test_alert : State.reset.alertN = true ∧ (raise Reg.ERR_STATUS F.ERR_STATUS_CORRECTED_SEEN State.reset).alertN = true ∧
    (raise Reg.ERR_CTRL F.ERR_CTRL_IRQ_CORRECTED (raise Reg.ERR_STATUS F.ERR_STATUS_CORRECTED_SEEN State.reset)).alertN = false := by decide +kernel

/-- Spare rows (spec/04_outer_product_engine.md): with bad rows 37 and 90 the logical rows map as the table gives. -/
theorem test_spare_rows : [0, 36, 37, 88, 89, 127].map (goodLine 37 90) = [0, 36, 38, 89, 91, 129] ∧
    State.reset.physicalRow 3 127 = 127 := by decide +kernel

end Sys2Proof.Tests
end

section
/-! The register of an offset: the rows of a unit's table, and the values that nothing has written. -/
namespace Sys2Proof.Machine

/-- The units' register spaces rise without overlap. -/
theorem unitRanges_pairwise : unitRanges.Pairwise fun r q => r.2.1 < q.1 := by decide +kernel

/-- An offset lies in the space of the one unit whose range holds it. -/
theorem unitOf_of_mem {lo hi a : Nat} {u : RegUnit} (hm : (lo, hi, u) ∈ unitRanges) (hlo : lo ≤ a) (hhi : a ≤ hi) : unitOf a = some u := by
  suffices ∀ l : List (Nat × Nat × RegUnit), l.Pairwise (fun r q => r.2.1 < q.1) → (lo, hi, u) ∈ l →
      l.find? (fun r => r.1 ≤ a ∧ a ≤ r.2.1) = some (lo, hi, u) by
    rw [unitOf, this _ unitRanges_pairwise hm]; rfl
  intro l hl hm
  induction l with
  | nil => cases hm
  | cons r l ih =>
    obtain ⟨hr, hl⟩ := List.pairwise_cons.mp hl
    rcases List.mem_cons.mp hm with rfl | hm
    · exact List.find?_cons_of_pos (by simp [hlo, hhi])
    · have := hr _ hm
      rw [List.find?_cons_of_neg (by simp only [decide_eq_true_eq]; omega)]
      exact ih hl hm

/-- The row of an offset is the first row of its unit that holds it. -/
theorem rowOf_of_split {lo hi a : Nat} {u : RegUnit} {r : RegRow} {before after : List RegRow} (hm : (lo, hi, u) ∈ unitRanges)
    (hlo : lo ≤ a) (hhi : a ≤ hi) (hs : unitRows u = before ++ r :: after) (hb : ∀ x ∈ before, x.has a = false) (hr : r.has a = true) :
    rowOf a = some r := by
  simp only [rowOf, unitOf_of_mem hm hlo hhi, hs]
  rw [List.find?_append, List.find?_eq_none.mpr (fun x hx => by simp [hb x hx]), Option.none_or]
  exact List.find?_cons_of_pos hr

/-- A register outside the two tables that the fuses decide reads what its fields' reset values make. -/
theorem resetValue_of_row {a : Nat} {r : RegRow} (h : rowOf a = some r) (hb : r.base ≠ Reg.FLR_TILE_MAP 0 ∧ r.base ≠ Reg.FLR_PTILE 0) :
    resetValue a = fieldsReset r.fields := by
  simp only [resetValue, h, if_neg hb.1, if_neg hb.2]

theorem mem_unitRows_of_rowOf {a : Nat} {r : RegRow} (h : rowOf a = some r) : ∃ u, r ∈ unitRows u := by
  unfold rowOf at h
  split at h
  · cases h
  · exact ⟨_, List.mem_of_find?_eq_some h⟩

/-- Every row of statistics counters has the fields of a counter. -/
theorem counter_fields : ∀ u, ∀ r ∈ unitRows u, r.counter = true →
    r.fields = counterFields ∧ r.base ≠ Reg.FLR_TILE_MAP 0 ∧ r.base ≠ Reg.FLR_PTILE 0 := by
  intro u; cases u <;> decide +kernel

theorem isCounter_iff {a : Nat} : isCounter a = true ↔ ∃ r, rowOf a = some r ∧ r.counter = true := by
  unfold isCounter
  cases rowOf a <;> simp

/-- A statistics counter that nothing has written reads zero. -/
theorem resetValue_counter {a : Nat} (h : isCounter a = true) : resetValue a = 0 := by
  obtain ⟨r, hr, hc⟩ := isCounter_iff.mp h
  obtain ⟨u, hu⟩ := mem_unitRows_of_rowOf hr
  obtain ⟨hf, hb⟩ := counter_fields u r hu hc
  rw [resetValue_of_row hr hb, hf]
  decide

theorem reg_reset (a : Nat) : State.reset.reg a = resetValue a := rfl
theorem fld_reset (a : Nat) (f : Fld) : State.reset.fld a f = (resetValue a).get f := rfl

/-! ### The registers of which every unit, context or queue has one -/

section
variable {lo hi a : Nat} {u : RegUnit} {r : RegRow} {before after : List RegRow}

/-- What a register that nothing has written reads, from its place in its unit's table. -/
theorem resetValue_of_split (hm : (lo, hi, u) ∈ unitRanges) (hs : unitRows u = before ++ r :: after)
    (hc : r.base ≠ Reg.FLR_TILE_MAP 0 ∧ r.base ≠ Reg.FLR_PTILE 0) (ha : lo ≤ a ∧ a ≤ hi) (hb : ∀ x ∈ before, x.has a = false)
    (hr : r.has a = true) : resetValue a = fieldsReset r.fields :=
  resetValue_of_row (rowOf_of_split hm ha.1 ha.2 hs hb hr) hc

end

theorem resetValue_CTX_CTRL {c : Nat} (h : c < 4096) : resetValue (Reg.CTX_CTRL c) = 0 := by
  unfold Reg.CTX_CTRL
  exact resetValue_of_split (u := .ctx) (before := []) (lo := 0x80000) (hi := 0xBFFFF) (by decide) rfl (by decide) (by omega)
    (by simp) (by simp [RegRow.has]; omega)

theorem resetValue_CTX_SCHED {c : Nat} (h : c < 4096) : resetValue (Reg.CTX_SCHED c) = 0x1000000000000 := by
  unfold Reg.CTX_SCHED
  exact resetValue_of_split (u := .ctx) (before := rowsCtx.take 2) (lo := 0x80000) (hi := 0xBFFFF) (by decide) rfl (by decide) (by omega)
    (by simp [rowsCtx, RegRow.has]; omega) (by simp [RegRow.has]; omega)

theorem resetValue_Q_CFG {c : Nat} (h : c < 4096) : resetValue (Reg.Q_CFG c) = 4 := by
  unfold Reg.Q_CFG
  exact resetValue_of_split (u := .db) (before := rowsDb.take 6) (lo := 0x4000000) (hi := 0x4FFFFFF) (by decide) rfl (by decide) (by omega)
    (by simp [rowsDb, RegRow.has]; omega) (by simp [RegRow.has]; omega)

theorem resetValue_Q_STATUS {c : Nat} (h : c < 4096) : resetValue (Reg.Q_STATUS c) = 1 := by
  unfold Reg.Q_STATUS
  exact resetValue_of_split (u := .db) (before := rowsDb.take 7) (lo := 0x4000000) (hi := 0x4FFFFFF) (by decide) rfl (by decide) (by omega)
    (by simp [rowsDb, RegRow.has]; omega) (by simp [RegRow.has]; omega)

theorem resetValue_TILE_STATUS {p : Nat} (h : p < 160) : resetValue (Reg.TILE_STATUS p) = 0 := by
  unfold Reg.TILE_STATUS
  exact resetValue_of_split (u := .tile) (before := rowsTile.take 1) (lo := 0x1000000) (hi := 0x19FFFFF) (by decide) rfl (by decide) (by omega)
    (by simp [rowsTile, rowsTile0, RegRow.has]; omega) (by simp [RegRow.has]; omega)

theorem resetValue_TILE_CTX {p : Nat} (h : p < 160) : resetValue (Reg.TILE_CTX p) = 0 := by
  unfold Reg.TILE_CTX
  exact resetValue_of_split (u := .tile) (before := rowsTile.take 5) (lo := 0x1000000) (hi := 0x19FFFFF) (by decide) rfl (by decide) (by omega)
    (by simp [rowsTile, rowsTile0, RegRow.has]; omega) (by simp [RegRow.has]; omega)

theorem resetValue_TILE_SREG {p n : Nat} (h : p < 160) (hn : n < 32) : resetValue (Reg.TILE_SREG p n) = 0 := by
  unfold Reg.TILE_SREG
  exact resetValue_of_split (u := .tile) (before := rowsTile0 ++ rowsTile1.take 3) (lo := 0x1000000) (hi := 0x19FFFFF) (by decide) rfl
    (by decide) (by omega)
    (by simp [rowsTile0, rowsTile1, RegRow.has]; omega) (by simp [RegRow.has]; omega)

theorem resetValue_FLR_TILE_MAP {l : Nat} (h : l < 144) : resetValue (Reg.FLR_TILE_MAP l) = BitVec.ofNat 64 (fusePhys l) := by
  have hr : rowOf (Reg.FLR_TILE_MAP l) = some ⟨0x161000, 144, 0x8, 1, 0x8, false, [⟨15, 8, .ro, 0, 0, []⟩, ⟨7, 0, .ro, 0, 0, []⟩]⟩ := by
    unfold Reg.FLR_TILE_MAP
    exact rowOf_of_split (u := .flr) (before := rowsFlr.take 1) (lo := 0x160000) (hi := 0x16FFFF) (by decide) (by omega) (by omega) rfl
      (by simp [rowsFlr, RegRow.has]; omega) (by simp [RegRow.has]; omega)
  have hi : (Reg.FLR_TILE_MAP l - Reg.FLR_TILE_MAP 0) / 8 = l := by unfold Reg.FLR_TILE_MAP; omega
  simp only [resetValue, hr, RegRow.idx, if_pos (show 0x161000 = Reg.FLR_TILE_MAP 0 from rfl)]
  exact congrArg (BitVec.ofNat 64 ∘ fusePhys) hi

theorem resetValue_tide {d : Nat} (h : d < 16) : (resetValue (Reg.TIDE_CTRL d)).get F.TIDE_CTRL_ROLE = 0 ∧ resetValue (Reg.TIDE_VALUE d) = 0 := by
  revert d; decide +kernel

theorem resetValue_PRT_CTRL {q : Nat} (h : q < 16) : (resetValue (Reg.PRT_CTRL q)).get F.PRT_CTRL_SLICE_US = 1000 ∧
    (resetValue (Reg.PRT_CTRL q)).get F.PRT_CTRL_TM_SAVE = 64 := by
  revert q; decide +kernel

/-- Settles O4: every table of the state after reset is empty, as are the lists of what is owed. -/
theorem soundAtReset : Obligations.SoundAtReset := by
  have empty {β : Type} [DecidableEq β] (d : Nat → β) : Store.Wf d [] := ⟨.nil, nofun⟩
  exact ⟨empty _, memWf_reset, empty _, empty _, empty _, empty _, empty _, empty _, empty _, empty _, empty _, empty _, empty _, empty _,
    empty _, empty _, empty _, empty _, empty _, empty _, empty _, empty _, empty _, empty _, rfl, rfl, rfl⟩

/-- Settles O60: no register is listed at reset, so each reads its reset value, which the tables of the units give. -/
theorem resetValues : Obligations.ResetValues := by
  have phys (l : Nat) (h : l < 144) : State.reset.phys l = 40 * (l / 36) + l % 36 := by
    rw [State.phys, fld_reset, resetValue_FLR_TILE_MAP h]
    simp only [Word.get, Fld.width, F.FLR_TILE_MAP_PHYS, fusePhys, BitVec.toNat_ofNat, Nat.shiftRight_zero]
    omega
  refine ⟨reg_reset, fun _ => rfl, rfl, fun c h => ?_, fun p h => ?_, fun d h => resetValue_tide h, fun a h => resetValue_counter h, phys,
    fun q h => resetValue_PRT_CTRL h, ?_⟩
  · rw [State.ctxState, State.share, State.qState, fld_reset, fld_reset, fld_reset, fld_reset, resetValue_CTX_CTRL h, resetValue_CTX_SCHED h,
      resetValue_Q_CFG h, resetValue_Q_STATUS h]
    decide
  · rw [State.tileSt, State.tileCtx, State.on, fld_reset, fld_reset, fld_reset, resetValue_TILE_STATUS h, resetValue_TILE_CTX h]
    exact ⟨by decide, by decide, fun n hn => resetValue_TILE_SREG h hn⟩
  · decide +kernel

end Sys2Proof.Machine
end

section
/-! Writes of single registers: what a touched state keeps, the bus, counters and watermarks. -/
namespace Sys2Proof.Machine

variable {s t : State} {W V : Nat → Prop}

/-- Operations that touch registers, postings and the trace alone keep everything but those registers. -/
theorem Touches.keepsAllBut (h : Touches W s t) (hs : s.RegsWf) : KeepsAllBut W s t := by
  have hr := fun a ha => h.reg hs (a := a) ha
  obtain ⟨⟨r, n, o, rfl⟩, -⟩ := h
  exact ⟨hr, ⟨fun _ => rfl, rfl, rfl⟩, rfl⟩

theorem reg_put_same (h : s.RegsWf) (off : Nat) (f : Fld) (v : Nat) : (put off f v s).reg off = (s.reg off).put f v := reg_setR_same h _ _
theorem reg_raise_same (h : s.RegsWf) (off : Nat) (f : Fld) : (raise off f s).reg off = (s.reg off).put f 1 := reg_setR_same h _ _

/-- A field that is a field of the written word keeps its value. -/
theorem Word.get_mod (w : Word) (f : Fld) : w.get f % 2 ^ f.width = w.get f := Nat.mod_eq_of_lt (Word.get_lt w f)

/-- A field after a write that happens under a condition. -/
theorem fld_when_put_same (h : s.RegsWf) (c : Bool) (off : Nat) {f : Fld} (hf : f.Ok) (v : Nat) :
    (when c (put off f v) s).fld off f = if c then v % 2 ^ f.width else s.fld off f := by
  cases c
  · rfl
  · exact fld_put_same h off hf v
theorem fld_when_put_apart (h : s.RegsWf) (c : Bool) (off : Nat) {f g : Fld} (hf : f.Ok) (hg : f.Apart g) (v : Nat) :
    (when c (put off f v) s).fld off g = s.fld off g := by
  cases c
  · rfl
  · exact fld_put_apart h off hf hg v
theorem RegsWf_when_put (h : s.RegsWf) (c : Bool) (off : Nat) (f : Fld) (v : Nat) : (when c (put off f v) s).RegsWf :=
  when_keeps State.RegsWf (fun _ _ ht => RegsWf_put ht off f v) h

/-! ### Counters -/

/-- A write of a counter outside the tiles, out of RECOVERY, loads it. -/
theorem execCounterWrite_of_counter {off : BitVec 26} (v : Word) (hr : s.recovery = false) (hc : isCounter off.toNat = true)
    (hu : unitOf off.toNat ≠ some .tile) : execCounterWrite off v s = .next (counterWrite off.toNat v s) := by
  obtain ⟨r, hrow, -⟩ := isCounter_iff.mp hc
  have hw : wr = busWrite (writerAt 16) := rfl
  simp only [execCounterWrite, hc, if_true, hw, busWrite]
  cases hunit : unitOf off.toNat with
  | none => simp [rowOf, hunit] at hrow
  | some u =>
    have : u ≠ .tile := fun e => hu (e ▸ hunit)
    simp [hr, hrow, this]

theorem touches_counterWrite (off : Nat) (v : Word) (s : State) : Touches (fun a => a = off) s (counterWrite off v s) :=
  (touches_put (W := fun a => a = off) rfl _ _ s).trans
    (touches_when (f := put off ⟨63, 63⟩ 0) (fun t => touches_put (W := fun a => a = off) rfl _ _ t) _)

theorem fld_counterWrite_count (h : s.RegsWf) (off : Nat) (v : Word) : (counterWrite off v s).fld off ⟨47, 0⟩ = v.get ⟨47, 0⟩ := by
  rw [counterWrite, fld_when_put_apart (RegsWf_put h _ _ _) _ _ (by decide) (by decide), fld_put_same h _ (by decide), Word.get_mod]

theorem fld_counterWrite_sat (h : s.RegsWf) (off : Nat) (v : Word) :
    (counterWrite off v s).fld off ⟨63, 63⟩ = if v.get ⟨63, 63⟩ = 1 then 0 else s.fld off ⟨63, 63⟩ := by
  rw [counterWrite, fld_when_put_same (RegsWf_put h _ _ _) _ _ (by decide), fld_put_apart h _ (by decide) (by decide)]
  simp

/-! ### Watermarks -/

/-- The watermark register that WM_WRITE names. -/
def wmReg : WmSel → Nat
  | .queue q => Reg.STR_Q_WM q.val
  | .ring l r => Reg.CHN_WM l.val r.val
  | .port p => Reg.STG_P_WM p.val

/-- The status register of the watermark's unit. -/
def wmStatus : WmSel → Nat
  | .queue _ => Reg.STR_STATUS
  | .ring _ _ => Reg.CHN_STATUS
  | .port _ => Reg.STG_STATUS

/-- The fields of every watermark register. -/
def wmFields : List FieldSpec :=
  [⟨63, 63, .w1c, 0, 0, []⟩, ⟨62, 62, .ro, 1, 0, []⟩, ⟨58, 48, .ro, 0, 0, []⟩, ⟨47, 32, .rw, 0, 0, []⟩, ⟨26, 16, .rw, 2047, 0, []⟩,
   ⟨10, 0, .rw, 0, 0, []⟩]

/-- The watermark's unit. -/
def wmUnit : WmSel → RegUnit
  | .queue _ => .str
  | .ring _ _ => .chn
  | .port _ => .stg

theorem execWmWrite_eq (w : WmSel) (v : Word) (s : State) : execWmWrite w v s = .next (wmWriteAt (wmReg w) v s) := by
  cases w <;> rfl

theorem rowOf_STR_Q_WM {q : Nat} (h : q < 1024) : rowOf (Reg.STR_Q_WM q) = some ⟨0x210018, 1024, 0x40, 1, 0x40, false, wmFields⟩ := by
  unfold Reg.STR_Q_WM
  exact rowOf_of_split (u := .str) (before := rowsStr0 ++ rowsStr1.take 1) (lo := 0x200000) (hi := 0x3FFFFF) (by decide) (by omega) (by omega) rfl
    (by simp [rowsStr0, rowsStr1, RegRow.has]; omega) (by simp [RegRow.has]; omega)

theorem rowOf_CHN_WM {l r : Nat} (h : l < 144) (hr : r < 32) : rowOf (Reg.CHN_WM l r) = some ⟨0x401018, 144, 0x1000, 32, 0x40, false, wmFields⟩ := by
  unfold Reg.CHN_WM
  exact rowOf_of_split (u := .chn) (before := rowsChn.take 4) (lo := 0x400000) (hi := 0x490FFF) (by decide) (by omega) (by omega) rfl
    (by simp [rowsChn, RegRow.has]; omega) (by simp [RegRow.has]; omega)

theorem rowOf_STG_P_WM {p : Nat} (h : p < 256) : rowOf (Reg.STG_P_WM p) = some ⟨0xC9020, 256, 0x40, 1, 0x40, false, wmFields⟩ := by
  unfold Reg.STG_P_WM
  exact rowOf_of_split (u := .stg) (before := rowsStg0 ++ rowsStg1.take 3) (lo := 0xC8000) (hi := 0xCFFFF) (by decide) (by omega) (by omega) rfl
    (by simp [rowsStg0, rowsStg1, RegRow.has]; omega) (by simp [RegRow.has]; omega)

/-- A watermark register is in its unit's table. -/
theorem rowOf_wmReg (w : WmSel) : ∃ r, rowOf (wmReg w) = some r ∧ r.fields = wmFields := by
  cases w with
  | queue q => exact ⟨_, rowOf_STR_Q_WM q.isLt, rfl⟩
  | ring l r => exact ⟨_, rowOf_CHN_WM l.isLt r.isLt, rfl⟩
  | port p => exact ⟨_, rowOf_STG_P_WM p.isLt, rfl⟩

theorem unitOf_wmReg (w : WmSel) : unitOf (wmReg w) = some (wmUnit w) := by
  cases w with
  | queue q =>
    simp only [wmReg, Reg.STR_Q_WM]
    exact unitOf_of_mem (u := .str) (lo := 0x200000) (hi := 0x3FFFFF) (by decide) (by omega) (by omega)
  | ring l r =>
    simp only [wmReg, Reg.CHN_WM]
    exact unitOf_of_mem (u := .chn) (lo := 0x400000) (hi := 0x490FFF) (by decide) (by omega) (by omega)
  | port p =>
    simp only [wmReg, Reg.STG_P_WM]
    exact unitOf_of_mem (u := .stg) (lo := 0xC8000) (hi := 0xCFFFF) (by decide) (by omega) (by omega)

/-- A refused write of a watermark sets its unit's BAD_WRITE. -/
theorem badWrite_wmReg (w : WmSel) (s : State) : badWrite (wmReg w) s = raise (wmStatus w) ⟨0, 0⟩ s := by
  rw [badWrite, unitOf_wmReg]
  cases w <;> rfl

theorem wmStatus_ne (w : WmSel) : wmStatus w ≠ wmReg w := by
  cases w <;> simp only [wmStatus, wmReg, Reg.STR_STATUS, Reg.STR_Q_WM, Reg.CHN_STATUS, Reg.CHN_WM, Reg.STG_STATUS, Reg.STG_P_WM] <;> omega

/-- The marks that a write leaves: both taken, or both kept with BAD_WRITE. -/
def wmMarks (w : WmSel) (v : Word) (s : State) : State :=
  if v.get F.CHN_WM_HIGH < v.get F.CHN_WM_LOW then raise (wmStatus w) ⟨0, 0⟩ s
  else put (wmReg w) F.CHN_WM_LOW (v.get F.CHN_WM_LOW) (put (wmReg w) F.CHN_WM_HIGH (v.get F.CHN_WM_HIGH) s)

/-- No field of a watermark has reserved values, so a write goes by the order of the marks alone. -/
theorem wmWriteAt_eq (w : WmSel) (v : Word) (s : State) : wmWriteAt (wmReg w) v s =
    wmRearm (wmReg w) (when (v.get F.CHN_WM_NOTICE = 1) (put (wmReg w) F.CHN_WM_NOTICE 0)
      (when (v.get F.CHN_WM_COUNT = 0) (put (wmReg w) F.CHN_WM_COUNT 0) (wmMarks w v s))) := by
  obtain ⟨r, hr, hf⟩ := rowOf_wmReg w
  simp only [wmWriteAt, hr, hf, badWrite_wmReg, wmMarks]
  simp [wmFields, FieldSpec.admits, when]

/-- The re-arm test may set ARMED and nothing else. -/
theorem touches_wmRearm (off : Nat) (s : State) : Touches (fun a => a = off) s (wmRearm off s) := by
  unfold wmRearm
  split
  · exact touches_raise (W := fun a => a = off) rfl _ _
  · exact Touches.refl _ _
theorem fld_wmRearm (h : s.RegsWf) (off : Nat) {f : Fld} (hf : F.CHN_WM_ARMED.Apart f) : (wmRearm off s).fld off f = s.fld off f := by
  unfold wmRearm
  split
  · exact fld_raise_apart h off (by decide) hf
  · rfl

theorem touches_wmMarks (w : WmSel) (v : Word) (s : State) : Touches (fun a => a = wmReg w ∨ a = wmStatus w) s (wmMarks w v s) := by
  unfold wmMarks
  split
  · exact touches_raise (.inr rfl) _ _
  · exact (touches_put (.inl rfl) _ _ _).trans (touches_put (.inl rfl) _ _ _)
theorem fld_wmMarks_high (h : s.RegsWf) (w : WmSel) (v : Word) : (wmMarks w v s).fld (wmReg w) F.CHN_WM_HIGH =
    if v.get F.CHN_WM_LOW ≤ v.get F.CHN_WM_HIGH then v.get F.CHN_WM_HIGH else s.fld (wmReg w) F.CHN_WM_HIGH := by
  unfold wmMarks
  split
  · rw [if_neg (by omega), fld_raise_ne h _ _ (wmStatus_ne w).symm]
  · rw [if_pos (by omega), fld_put_apart (RegsWf_put h _ _ _) _ (by decide) (by decide), fld_put_same h _ (by decide), Word.get_mod]
theorem fld_wmMarks_low (h : s.RegsWf) (w : WmSel) (v : Word) : (wmMarks w v s).fld (wmReg w) F.CHN_WM_LOW =
    if v.get F.CHN_WM_LOW ≤ v.get F.CHN_WM_HIGH then v.get F.CHN_WM_LOW else s.fld (wmReg w) F.CHN_WM_LOW := by
  unfold wmMarks
  split
  · rw [if_neg (by omega), fld_raise_ne h _ _ (wmStatus_ne w).symm]
  · rw [if_pos (by omega), fld_put_same (RegsWf_put h _ _ _) _ (by decide), Word.get_mod]
theorem fld_wmMarks_apart (h : s.RegsWf) (w : WmSel) (v : Word) {f : Fld} (hh : F.CHN_WM_HIGH.Apart f) (hl : F.CHN_WM_LOW.Apart f) :
    (wmMarks w v s).fld (wmReg w) f = s.fld (wmReg w) f := by
  unfold wmMarks
  split
  · exact fld_raise_ne h _ _ (wmStatus_ne w).symm
  · rw [fld_put_apart (RegsWf_put h _ _ _) _ (by decide) hl, fld_put_apart h _ (by decide) hh]
theorem reg_wmMarks_status (h : s.RegsWf) (w : WmSel) (v : Word) : (wmMarks w v s).reg (wmStatus w) =
    if v.get F.CHN_WM_LOW ≤ v.get F.CHN_WM_HIGH then s.reg (wmStatus w) else (s.reg (wmStatus w)).put ⟨0, 0⟩ 1 := by
  unfold wmMarks
  split
  · rw [if_neg (by omega), reg_raise_same h]
  · rw [if_pos (by omega), reg_put_ne (RegsWf_put h _ _ _) _ _ (wmStatus_ne w), reg_put_ne h _ _ (wmStatus_ne w)]

/-- What WM_WRITE does: marks, COUNT and NOTICE by the written fields, and BAD_WRITE where the marks are out of order. -/
theorem wmWrite_ends (h : s.RegsWf) (w : WmSel) (v : Word) :
    let ok := v.get F.CHN_WM_LOW ≤ v.get F.CHN_WM_HIGH
    Ends (.wmWrite w v) s fun t =>
      t.fld (wmReg w) F.CHN_WM_HIGH = (if ok then v.get F.CHN_WM_HIGH else s.fld (wmReg w) F.CHN_WM_HIGH) ∧
      t.fld (wmReg w) F.CHN_WM_LOW = (if ok then v.get F.CHN_WM_LOW else s.fld (wmReg w) F.CHN_WM_LOW) ∧
      t.fld (wmReg w) F.CHN_WM_COUNT = (if v.get F.CHN_WM_COUNT = 0 then 0 else s.fld (wmReg w) F.CHN_WM_COUNT) ∧
      t.fld (wmReg w) F.CHN_WM_NOTICE = (if v.get F.CHN_WM_NOTICE = 1 then 0 else s.fld (wmReg w) F.CHN_WM_NOTICE) ∧
      t.fld (wmReg w) F.CHN_WM_LEVEL = s.fld (wmReg w) F.CHN_WM_LEVEL ∧
      t.reg (wmStatus w) = (if ok then s.reg (wmStatus w) else (s.reg (wmStatus w)).put ⟨0, 0⟩ 1) ∧
      KeepsAllBut (fun a => a = wmReg w ∨ a = wmStatus w) s t := by
  intro ok
  refine ⟨_, (execWmWrite_eq w v s).trans (congrArg _ (wmWriteAt_eq w v s)), ?_⟩
  have h1 := (touches_wmMarks w v s).regsWf h
  have h2 := RegsWf_when_put h1 (v.get F.CHN_WM_COUNT = 0) (wmReg w) F.CHN_WM_COUNT 0
  have h3 := RegsWf_when_put h2 (v.get F.CHN_WM_NOTICE = 1) (wmReg w) F.CHN_WM_NOTICE 0
  have written (off : Nat) (f : Fld) (c : Bool) (t : State) : Touches (fun a => a = off) t (when c (put off f 0) t) :=
    touches_when (fun t => touches_put (W := fun a => a = off) rfl f 0 t) t
  have later := ((written (wmReg w) F.CHN_WM_COUNT (v.get F.CHN_WM_COUNT = 0) (wmMarks w v s)).trans
    (written (wmReg w) F.CHN_WM_NOTICE (v.get F.CHN_WM_NOTICE = 1) _)).trans (touches_wmRearm (wmReg w) _)
  refine ⟨?_, ?_, ?_, ?_, ?_, ?_, ((touches_wmMarks w v s).trans (later.mono fun a ha => .inl ha)).keepsAllBut h⟩
  · rw [fld_wmRearm h3 _ (by decide), fld_when_put_apart h2 _ _ (by decide) (by decide), fld_when_put_apart h1 _ _ (by decide) (by decide),
      fld_wmMarks_high h]
  · rw [fld_wmRearm h3 _ (by decide), fld_when_put_apart h2 _ _ (by decide) (by decide), fld_when_put_apart h1 _ _ (by decide) (by decide),
      fld_wmMarks_low h]
  · rw [fld_wmRearm h3 _ (by decide), fld_when_put_apart h2 _ _ (by decide) (by decide), fld_when_put_same h1 _ _ (by decide),
      fld_wmMarks_apart h _ _ (by decide) (by decide)]
    simp
  · rw [fld_wmRearm h3 _ (by decide), fld_when_put_same h2 _ _ (by decide), fld_when_put_apart h1 _ _ (by decide) (by decide),
      fld_wmMarks_apart h _ _ (by decide) (by decide)]
    simp
  · rw [fld_wmRearm h3 _ (by decide), fld_when_put_apart h2 _ _ (by decide) (by decide), fld_when_put_apart h1 _ _ (by decide) (by decide),
      fld_wmMarks_apart h _ _ (by decide) (by decide)]
  · rw [later.reg h1 (wmStatus_ne w), reg_wmMarks_status h]

/-- Settles O8: a counter's write is `counterWrite`; a watermark's goes by its marks, COUNT and NOTICE. -/
theorem countersAndWatermarks : Obligations.CountersAndWatermarks := by
  intro s v hs hr
  refine ⟨fun off hc hu => ?_, fun off hc => ?_, fun w => ?_⟩
  · exact ⟨_, execCounterWrite_of_counter v hr hc hu, fld_counterWrite_count hs.regs _ v, fld_counterWrite_sat hs.regs _ v,
      (touches_counterWrite _ v s).keepsAllBut hs.regs⟩
  · exact congrArg Host.Outcome.next (if_neg (by simp [hc]))
  · have := wmWrite_ends hs.regs w v
    cases w <;> exact this

end Sys2Proof.Machine
end

section
/-! A register write field by field (R19 to R21), and the accesses that only set BAD_WRITE. -/
namespace Sys2Proof.Machine

variable {s t : State}

/-- The bits of a field of a row. -/
def FieldSpec.fld (f : FieldSpec) : Fld := ⟨f.hi, f.lo⟩

/-- What a field that holds `n` holds after a write of `v`, by its access type. -/
def FieldSpec.after (f : FieldSpec) (v : Word) (n : Nat) : Nat :=
  match f.acc with
  | .ro | .wo => n
  | .rw => if f.admits (f.written v) then f.written v else n
  | .w1c => n &&& (2 ^ f.fld.width - 1 - f.written v)
  | .w1s => n ||| f.written v

/-- The fields of a row lie within the register and share no bit. -/
abbrev FieldsOk (fs : List FieldSpec) : Prop := (∀ f ∈ fs, f.fld.Ok) ∧ fs.Pairwise fun f g => f.fld.Apart g.fld

theorem FieldSpec.written_lt (f : FieldSpec) (v : Word) : f.written v < 2 ^ f.fld.width :=
  Nat.lt_of_le_of_lt (Nat.div_mul_le_self _ _) (Word.get_lt v f.fld)

theorem FieldSpec.written_of_low {f : FieldSpec} (h : f.low = 0) (v : Word) : f.written v = v.get f.fld := by
  simp [FieldSpec.written, h, FieldSpec.fld]

theorem get_writeField_same (v : Word) (acc : Word × Bool) {f : FieldSpec} (hf : f.fld.Ok) :
    (writeField v acc f).1.get f.fld = f.after v (acc.1.get f.fld) := by
  have put_get {n : Nat} (h : n < 2 ^ f.fld.width) : (acc.1.put f.fld n).get f.fld = n := by
    rw [Word.get_put_same _ hf, Nat.mod_eq_of_lt h]
  have hn := Word.get_lt acc.1 f.fld
  have hw := f.written_lt v
  unfold writeField FieldSpec.after
  cases f.acc with
  | ro => rfl
  | wo => rfl
  | rw =>
    dsimp only
    split
    · exact put_get hw
    · rfl
  | w1c => exact put_get (Nat.lt_of_le_of_lt Nat.and_le_left hn)
  | w1s => exact put_get (Nat.or_lt_two_pow hn hw)

theorem get_writeField_apart (v : Word) (acc : Word × Bool) {f : FieldSpec} {g : Fld} (hf : f.fld.Ok) (h : f.fld.Apart g) :
    (writeField v acc f).1.get g = acc.1.get g := by
  have put_get (n : Nat) : (acc.1.put f.fld n).get g = acc.1.get g := Word.get_put_apart _ hf h n
  unfold writeField
  cases f.acc with
  | ro => rfl
  | wo => rfl
  | rw =>
    dsimp only
    split
    · exact put_get _
    · rfl
  | w1c => exact put_get _
  | w1s => exact put_get _

theorem get_foldl_writeField_apart (v : Word) {fs : List FieldSpec} {g : Fld} (h : ∀ f ∈ fs, f.fld.Ok ∧ f.fld.Apart g) (acc : Word × Bool) :
    (fs.foldl (writeField v) acc).1.get g = acc.1.get g := by
  induction fs generalizing acc with
  | nil => rfl
  | cons f fs ih =>
    obtain ⟨hf, hg⟩ := h f (List.mem_cons_self ..)
    exact (ih (fun x hx => h x (List.mem_cons_of_mem _ hx)) _).trans (get_writeField_apart v acc hf hg)

/-- After a write every field holds what its access type makes of its old and its written value. -/
theorem get_writeFields {fs : List FieldSpec} (h : FieldsOk fs) {f : FieldSpec} (hf : f ∈ fs) (old v : Word) :
    (writeFields fs old v).1.get f.fld = f.after v (old.get f.fld) := by
  suffices ∀ acc : Word × Bool, (fs.foldl (writeField v) acc).1.get f.fld = f.after v (acc.1.get f.fld) from this (old, false)
  obtain ⟨hok, hp⟩ := h
  induction fs with
  | nil => cases hf
  | cons x fs ih =>
    intro acc
    obtain ⟨hx, hp⟩ := List.pairwise_cons.mp hp
    have htail : ∀ y ∈ fs, y.fld.Ok := fun y hy => hok y (List.mem_cons_of_mem _ hy)
    rcases List.mem_cons.mp hf with rfl | hf
    · have later : ∀ y ∈ fs, y.fld.Ok ∧ y.fld.Apart f.fld := fun y hy => ⟨htail y hy, (hx y hy).symm⟩
      exact (get_foldl_writeField_apart v later _).trans (get_writeField_same v acc (hok f (List.mem_cons_self ..)))
    · exact (ih hf htail hp _).trans (congrArg _ (get_writeField_apart v acc (hok x (List.mem_cons_self ..)) (hx f hf)))

/-- A write sets BAD_WRITE where a field's written value is reserved. -/
theorem writeFields_flag (fs : List FieldSpec) (old v : Word) :
    (writeFields fs old v).2 = fs.any fun f => f.acc == .rw && !f.admits (f.written v) := by
  suffices ∀ acc : Word × Bool, (fs.foldl (writeField v) acc).2 = (acc.2 || fs.any fun f => f.acc == .rw && !f.admits (f.written v)) from
    (this (old, false)).trans (Bool.false_or _)
  induction fs with
  | nil => simp
  | cons f fs ih =>
    intro acc
    rw [List.foldl_cons, ih, List.any_cons, ← Bool.or_assoc]
    congr 1
    unfold writeField
    cases f.acc with
    | rw => cases h : f.admits (f.written v) <;> simp [h]
    | ro => simp
    | wo => simp
    | w1c => simp
    | w1s => simp

/-- The word that a write of `v` leaves at `off`. -/
def fieldsAfter (r : RegRow) (off : Nat) (v : Word) (s : State) : Word := (writeFields r.fields (s.reg off) v).1

/-- A write of a register without a rule of its own. -/
theorem genericWrite_of_row {off : Nat} {r : RegRow} (h : rowOf off = some r) (v : Word) (s : State) : genericWrite off v s =
    when (r.fields.any fun f => f.acc == .rw && !f.admits (f.written v)) (badWrite off) (setR off (fieldsAfter r off v s) s) := by
  simp only [genericWrite, h, writeFields_flag]; rfl

/-- Whether a write of `v` gives some field a reserved value. -/
def RegRow.reserved (r : RegRow) (v : Word) : Bool := r.fields.any fun f => f.acc == .rw && !f.admits (f.written v)

/-- A register write out of RECOVERY is the bus's, with nothing to settle where it touches registers alone. -/
theorem exec_registerWrite_touches {W : Nat → Prop} {off : BitVec 27} {v : Word} (hs : s.Sound) (h : Touches W s (wr off.toNat v s)) :
    exec (.registerWrite off 8 v) s = .next (wr off.toNat v s) := by
  have howed : (wr off.toNat v s).path.owed = [] := by
    obtain ⟨⟨_, _, _, e⟩, -⟩ := h
    rw [e]; exact hs.owed
  exact congrArg Host.Outcome.next (settle_of_nothing_owed howed)

/-- A 64-bit write of a register of the ledger or the host interface that has no rule of its own. -/
theorem wr_generic {off st : Nat} {f : Fld} {r : RegRow} {u : RegUnit} (hr : s.recovery = false) (hu : unitOf off = some u) (hrow : rowOf off = some r)
    (hc : r.counter = false) (hcu : u = .err ∨ u = .hif)
    (hn : off ∉ [Reg.MGT_CMD, Reg.CFG_CMD, Reg.ERR_PTR, Reg.PWR_CTRL, Reg.HIF_QPTAB]) (hb : ∀ t, badWrite off t = raise st f t) (v : Word) :
    wr off v s = when (r.reserved v) (raise st f) (setR off (fieldsAfter r off v s) s) := by
  have hcount : isCounter off = false := by simp [isCounter, hrow, hc]
  have hspace : spaceWrite (writerAt 16) u off v s = controlSpace (writerAt 16) off v s := by
    rcases hcu with rfl | rfl <;> rfl
  simp only [List.mem_cons, List.not_mem_nil, not_or] at hn
  obtain ⟨h1, h2, h3, h4, h5, -⟩ := hn
  have hw : wr = busWrite (writerAt 16) := rfl
  simp only [hw, busWrite, hu, hr, hrow, hcount, hspace, controlSpace, if_neg h1, if_neg h2, if_neg h3, if_neg h4, if_neg h5,
    genericWrite_of_row hrow, ← funext hb]
  simp [RegRow.reserved]

/-- A register write without a reserved value sets its fields and nothing else. -/
theorem registerWrite_plain {off : BitVec 27} {st : Nat} {f : Fld} {r : RegRow} {u : RegUnit} {v : Word} (hs : s.Sound) (hr : s.recovery = false)
    (hu : unitOf off.toNat = some u) (hrow : rowOf off.toNat = some r) (hc : r.counter = false) (hcu : u = .err ∨ u = .hif)
    (hn : off.toNat ∉ [Reg.MGT_CMD, Reg.CFG_CMD, Reg.ERR_PTR, Reg.PWR_CTRL, Reg.HIF_QPTAB]) (hb : ∀ t, badWrite off.toNat t = raise st f t)
    (hok : FieldsOk r.fields) (hv : r.reserved v = false) :
    Ends (.registerWrite off 8 v) s fun t => (∀ f ∈ r.fields, t.fld off.toNat f.fld = f.after v (s.fld off.toNat f.fld)) ∧
      KeepsAllBut (fun a => a = off.toNat) s t := by
  have hw : wr off.toNat v s = setR off.toNat (fieldsAfter r off.toNat v s) s := by
    rw [wr_generic hr hu hrow hc hcu hn hb, hv]; rfl
  have ht : Touches (fun a => a = off.toNat) s (wr off.toNat v s) := hw ▸ touches_setR (W := fun a => a = off.toNat) rfl _ s
  refine ⟨_, exec_registerWrite_touches hs ht, fun f hf => ?_, ht.keepsAllBut hs.regs⟩
  rw [hw, fld_setR_same hs.regs]
  exact get_writeFields hok hf _ _

/-- A register write sets its fields, and BAD_WRITE of its unit where a value is reserved. -/
theorem registerWrite_fields {off : BitVec 27} {st : Nat} {f : Fld} {r : RegRow} {u : RegUnit} (v : Word) (hs : s.Sound) (hr : s.recovery = false)
    (hu : unitOf off.toNat = some u) (hrow : rowOf off.toNat = some r) (hc : r.counter = false) (hcu : u = .err ∨ u = .hif)
    (hn : off.toNat ∉ [Reg.MGT_CMD, Reg.CFG_CMD, Reg.ERR_PTR, Reg.PWR_CTRL, Reg.HIF_QPTAB]) (hb : ∀ t, badWrite off.toNat t = raise st f t)
    (hok : FieldsOk r.fields) (hst : off.toNat ≠ st) (hf : f.Ok) :
    Ends (.registerWrite off 8 v) s fun t => (∀ f ∈ r.fields, t.fld off.toNat f.fld = f.after v (s.fld off.toNat f.fld)) ∧
      t.on st f = (s.on st f || r.reserved v) ∧ KeepsAllBut (fun a => a = off.toNat ∨ a = st) s t := by
  have hw := wr_generic (v := v) hr hu hrow hc hcu hn hb
  have h1 := RegsWf_setR hs.regs off.toNat (fieldsAfter r off.toNat v s)
  have ht : Touches (fun a => a = off.toNat ∨ a = st) s (wr off.toNat v s) :=
    hw ▸ (touches_setR (.inl rfl) _ s).trans (touches_when (fun t => touches_raise (.inr rfl) f t) _)
  refine ⟨_, exec_registerWrite_touches hs ht, fun g hg => ?_, ?_, ht.keepsAllBut hs.regs⟩
  · have : (when (r.reserved v) (raise st f) (setR off.toNat (fieldsAfter r off.toNat v s) s)).fld off.toNat g.fld =
        (setR off.toNat (fieldsAfter r off.toNat v s) s).fld off.toNat g.fld := by
      cases r.reserved v
      · rfl
      · exact fld_raise_ne h1 _ _ hst
    rw [hw, this, fld_setR_same hs.regs]
    exact get_writeFields hok hg _ _
  · rw [hw, State.on, State.on]
    cases r.reserved v
    · simp [fld_setR_ne hs.regs _ _ hst.symm]
    · simp [fld_raise_same h1 st hf]

/-- An access that is not a 64-bit write of a register only sets the unit's BAD_WRITE. -/
theorem ignores_of_eq_badWrite {off st : Nat} {f : Fld} {c : Instr} (hs : s.Sound) (h : exec c s = .next (badWrite off s))
    (hb : badWrite off s = raise st f s) : Ignores c s st f :=
  ⟨_, h.trans (congrArg _ hb), reg_raise_same hs.regs st f, (touches_raise (W := fun a => a = st) rfl f s).keepsAllBut hs.regs⟩

theorem registerWrite_unassigned {off : BitVec 27} {st : Nat} {f : Fld} {u : RegUnit} (v : Word) (hs : s.Sound) (hr : s.recovery = false)
    (hu : unitOf off.toNat = some u) (hrow : rowOf off.toNat = none) (hb : badWrite off.toNat s = raise st f s) :
    Ignores (.registerWrite off 8 v) s st f := by
  have hw : wr off.toNat v s = badWrite off.toNat s := by
    have : wr = busWrite (writerAt 16) := rfl
    simp [this, busWrite, hu, hr, hrow]
  have ht : Touches (fun _ => True) s (wr off.toNat v s) := by
    rw [hw, hb]; exact touches_raise (W := fun _ => True) trivial f s
  exact ignores_of_eq_badWrite hs ((exec_registerWrite_touches hs ht).trans (congrArg _ hw)) hb

theorem registerWrite_narrow {off : BitVec 27} {st w : Nat} {f : Fld} (v : Word) (hs : s.Sound) (hr : s.recovery = false) (hw : w ≠ 8)
    (hb : badWrite off.toNat s = raise st f s) : Ignores (.registerWrite off w v) s st f := by
  refine ignores_of_eq_badWrite (off := off.toNat) hs ?_ hb
  show execRegisterWrite off w v s = _
  simp [execRegisterWrite, hw, hr]

theorem rowOf_ERR_CTRL : rowOf Reg.ERR_CTRL = some ⟨0x10008, 1, 0x8, 1, 0x8, false, [⟨45, 45, .rw, 1, 0, []⟩, ⟨44, 44, .rw, 1, 0, []⟩,
    ⟨43, 43, .rw, 0, 0, []⟩, ⟨42, 32, .rw, 0, 0, []⟩, ⟨26, 16, .rw, 0, 0, []⟩, ⟨10, 0, .rw, 0, 0, []⟩]⟩ := by decide +kernel
theorem rowOf_HIF_CTRL : rowOf Reg.HIF_CTRL = some ⟨0x30008, 1, 0x8, 1, 0x8, false, [⟨20, 20, .rw, 0, 0, []⟩, ⟨19, 16, .rw, 0, 0, [(0, 7)]⟩,
    ⟨15, 0, .rw, 1000, 0, [(1, 65535)]⟩]⟩ := by decide +kernel
theorem rowOf_ERR_STATUS : rowOf Reg.ERR_STATUS = some ⟨0x10000, 1, 0x8, 1, 0x8, false, [⟨25, 16, .ro, 0, 0, []⟩, ⟨8, 8, .ro, 0, 0, []⟩,
    ⟨7, 7, .w1c, 0, 0, []⟩, ⟨6, 6, .w1c, 0, 0, []⟩, ⟨5, 5, .w1c, 0, 0, []⟩, ⟨4, 4, .w1c, 0, 0, []⟩, ⟨2, 2, .w1c, 0, 0, []⟩,
    ⟨1, 1, .w1c, 0, 0, []⟩, ⟨0, 0, .w1c, 0, 0, []⟩]⟩ := by decide +kernel

/-- A field that may be written and reserves nothing takes the written value. -/
theorem FieldSpec.after_rw (hi lo reset : Nat) (v : Word) (n : Nat) : FieldSpec.after ⟨hi, lo, .rw, reset, 0, []⟩ v n = v.get ⟨hi, lo⟩ := by
  simp [FieldSpec.after, FieldSpec.admits, FieldSpec.written]

theorem FieldSpec.admits_range (hi lo reset a b n : Nat) :
    FieldSpec.admits ⟨hi, lo, .rw, reset, 0, [(a, b)]⟩ n = (decide (a ≤ n) && decide (n ≤ b)) := by
  simp [FieldSpec.admits]

/-- A field with one range of values keeps its own where the written one is outside. -/
theorem FieldSpec.after_range (hi lo reset a b : Nat) (v : Word) (n : Nat) :
    FieldSpec.after ⟨hi, lo, .rw, reset, 0, [(a, b)]⟩ v n = if a ≤ v.get ⟨hi, lo⟩ ∧ v.get ⟨hi, lo⟩ ≤ b then v.get ⟨hi, lo⟩ else n := by
  simp [FieldSpec.after, FieldSpec.admits_range, FieldSpec.written]

/-- A sticky bit is cleared by one. -/
theorem FieldSpec.after_w1c (b : Nat) (v : Word) {n : Nat} (hn : n < 2) :
    FieldSpec.after ⟨b, b, .w1c, 0, 0, []⟩ v n = if v.get ⟨b, b⟩ = 1 then 0 else n := by
  have hv := Word.get_lt v ⟨b, b⟩
  simp only [Fld.width, Nat.add_sub_cancel_left, Nat.pow_one] at hv
  have e : FieldSpec.after ⟨b, b, .w1c, 0, 0, []⟩ v n = n &&& (1 - v.get ⟨b, b⟩) := by
    simp [FieldSpec.after, FieldSpec.written, FieldSpec.fld, Fld.width]
  rw [e]
  generalize v.get ⟨b, b⟩ = x at *
  interval_cases x <;> interval_cases n <;> rfl

/-- What a write of ERR_CTRL leaves: each field as written. -/
theorem errCtrl_of_after {t : State} {v : Word} {r : RegRow} (hr : rowOf Reg.ERR_CTRL = some r)
    (h : ∀ f ∈ r.fields, t.fld Reg.ERR_CTRL f.fld = f.after v (s.fld Reg.ERR_CTRL f.fld)) :
    ∀ f ∈ [F.ERR_CTRL_IRQ_FATAL, F.ERR_CTRL_IRQ_CONTAINED, F.ERR_CTRL_IRQ_CORRECTED, F.ERR_CTRL_VEC_FATAL, F.ERR_CTRL_VEC_CONTAINED,
      F.ERR_CTRL_VEC_CORRECTED], t.fld Reg.ERR_CTRL f = v.get f := by
  cases rowOf_ERR_CTRL.symm.trans hr
  simp only [List.forall_mem_cons, List.not_mem_nil, false_implies, implies_true, and_true, FieldSpec.after_rw] at h ⊢
  exact h

/-- What a write of ERR_STATUS leaves: sticky bits written one are cleared, and read-only fields are kept. -/
theorem errStatus_of_after {t : State} {v : Word} {r : RegRow} (hr : rowOf Reg.ERR_STATUS = some r)
    (h : ∀ f ∈ r.fields, t.fld Reg.ERR_STATUS f.fld = f.after v (s.fld Reg.ERR_STATUS f.fld)) :
    (∀ f ∈ [F.ERR_STATUS_FATAL_VALID, F.ERR_STATUS_FIRST_VALID, F.ERR_STATUS_BAD_WRITE, F.ERR_STATUS_OVERFLOW,
        F.ERR_STATUS_FATAL_SEEN, F.ERR_STATUS_CONTAINED_SEEN, F.ERR_STATUS_CORRECTED_SEEN],
        t.fld Reg.ERR_STATUS f = if v.get f = 1 then 0 else s.fld Reg.ERR_STATUS f) ∧
      ∀ f ∈ [F.ERR_STATUS_LEVEL, F.ERR_STATUS_FATAL_STOP], t.fld Reg.ERR_STATUS f = s.fld Reg.ERR_STATUS f := by
  cases rowOf_ERR_STATUS.symm.trans hr
  have sticky (b : Nat) : FieldSpec.after ⟨b, b, .w1c, 0, 0, []⟩ v (s.fld Reg.ERR_STATUS ⟨b, b⟩) =
      if v.get ⟨b, b⟩ = 1 then 0 else s.fld Reg.ERR_STATUS ⟨b, b⟩ :=
    FieldSpec.after_w1c b v (Nat.lt_of_lt_of_eq (Word.get_lt _ ⟨b, b⟩) (by simp [Fld.width]))
  simp only [List.forall_mem_cons, List.not_mem_nil, false_implies, implies_true, and_true, FieldSpec.fld, sticky] at h ⊢
  obtain ⟨hLevel, hStop, hSticky⟩ := h
  exact ⟨hSticky, hLevel, hStop⟩

/-- What a write of HIF_CTRL leaves: a reserved priority or timeout keeps its field. -/
theorem hifCtrl_of_after {t : State} {v : Word} {r : RegRow} (hr : rowOf Reg.HIF_CTRL = some r)
    (h : ∀ f ∈ r.fields, t.fld Reg.HIF_CTRL f.fld = f.after v (s.fld Reg.HIF_CTRL f.fld)) :
    t.fld Reg.HIF_CTRL F.HIF_CTRL_PFC_EN = v.get F.HIF_CTRL_PFC_EN ∧
    t.fld Reg.HIF_CTRL F.HIF_CTRL_PFC_PRIO =
      (if v.get F.HIF_CTRL_PFC_PRIO ≤ 7 then v.get F.HIF_CTRL_PFC_PRIO else s.fld Reg.HIF_CTRL F.HIF_CTRL_PFC_PRIO) ∧
    t.fld Reg.HIF_CTRL F.HIF_CTRL_NVME_TIMEOUT_MS =
      (if 1 ≤ v.get F.HIF_CTRL_NVME_TIMEOUT_MS then v.get F.HIF_CTRL_NVME_TIMEOUT_MS
       else s.fld Reg.HIF_CTRL F.HIF_CTRL_NVME_TIMEOUT_MS) ∧
    r.reserved v = !(decide (v.get F.HIF_CTRL_PFC_PRIO ≤ 7) && decide (1 ≤ v.get F.HIF_CTRL_NVME_TIMEOUT_MS)) := by
  cases rowOf_HIF_CTRL.symm.trans hr
  have ht : v.get ⟨15, 0⟩ ≤ 65535 := Nat.le_of_lt_succ (Word.get_lt v ⟨15, 0⟩)
  simp only [List.forall_mem_cons, List.not_mem_nil, false_implies, implies_true, and_true, FieldSpec.fld, FieldSpec.after_rw] at h
  obtain ⟨hEn, hPrio, hTime⟩ := h
  refine ⟨hEn, ?_, ?_, ?_⟩
  · exact (hPrio.trans (FieldSpec.after_range ..)).trans (if_congr (and_iff_right (Nat.zero_le _)) rfl rfl)
  · exact (hTime.trans (FieldSpec.after_range ..)).trans (if_congr (and_iff_left ht) rfl rfl)
  · have hp : F.HIF_CTRL_PFC_PRIO = ⟨19, 16⟩ := rfl
    have hq : F.HIF_CTRL_NVME_TIMEOUT_MS = ⟨15, 0⟩ := rfl
    rw [Bool.eq_iff_iff]
    simp only [RegRow.reserved, List.any_cons, FieldSpec.admits_range, FieldSpec.written, hp, hq]
    simp [FieldSpec.admits]
    omega

/-- Settles O7: each field follows its access type, and what is no 64-bit write of a register sets BAD_WRITE alone. -/
theorem registerWrites : Obligations.RegisterWrites := by
  intro s v hs hr
  refine ⟨?_, ?_, ?_, ?_, fun w hw => ⟨?_, ?_⟩⟩
  · obtain ⟨t, ht, hf, hk⟩ := registerWrite_plain (off := 0x10008) (u := .err) (v := v) hs hr (by decide) rowOf_ERR_CTRL rfl (.inl rfl) (by decide)
      (fun _ => rfl) (by decide) (by simp [RegRow.reserved, FieldSpec.admits])
    exact ⟨t, ht, errCtrl_of_after rowOf_ERR_CTRL hf, hk⟩
  · obtain ⟨t, ht, hf, hb, hk⟩ := registerWrite_fields (off := 0x30008) (u := .hif) v hs hr (by decide) rowOf_HIF_CTRL rfl (.inr rfl) (by decide)
      (fun _ => rfl) (by decide) (by decide) (by decide)
    obtain ⟨hEn, hPrio, hTime, hres⟩ := hifCtrl_of_after rowOf_HIF_CTRL hf
    exact ⟨t, ht, hEn, hPrio, hTime, hres ▸ hb, hk⟩
  · obtain ⟨t, ht, hf, hk⟩ := registerWrite_plain (off := 0x10000) (u := .err) (v := v) hs hr (by decide) rowOf_ERR_STATUS rfl (.inl rfl) (by decide)
      (fun _ => rfl) (by decide) (by simp [RegRow.reserved])
    obtain ⟨hSticky, hKept⟩ := errStatus_of_after rowOf_ERR_STATUS hf
    exact ⟨t, ht, hSticky, hKept, hk⟩
  · exact registerWrite_unassigned (u := .err) v hs hr (by decide) (by decide) rfl
  · exact registerWrite_narrow v hs hr (by omega) rfl
  · exact registerWrite_narrow v hs hr (by omega) rfl

end Sys2Proof.Machine
end

section
/-! Soundness is not kept: it allows two open write-combining entries of one line. -/
namespace Sys2Proof.Machine

/-- A shard entry whose stream 0 is an FP32 output of slot mode 1, as R449 asks of MSTREAM and WSTREAM. -/
def outputShard : List Byte := List.replicate 140 0 ++ [BitVec.ofNat 8 (16 * Role.OUT), 4]

/-- The registers of a device whose run of shard entry 0 waits for its post-pass in an outer step: the comet table has one entry, at
address 0, and the outbound buffer has 1024 units. -/
def postPassRegs : State :=
  State.reset |> put Reg.COM_CTRL F.COM_CTRL_EN 1 |> put Reg.COM_TABLE F.COM_TABLE_COUNT 1 |> put (Reg.TIDE_CTRL 0) F.TIDE_CTRL_OUTER_EVERY 1
    |> put Reg.COM_OUTBUF F.COM_OUTBUF_GIB 1 |> put (Reg.UPD_COMMIT 0) F.UPD_COMMIT_RUN RunSt.RUNNING

/-- Two entries of the line at address 0 are open, which `State.Sound` does not exclude: a partial one, and after it a whole one. The line
is poisoned, and the units of the outbound buffer are in use. -/
def twiceOpen : State :=
  { postPassRegs with
    runs := [(0, some ⟨0, 0, false, 0, 0, outputShard, [], [], []⟩)]
    poison := [0]
    path := { postPassRegs.path with wcb := [⟨0, [false], [], 0, 0, 0⟩, ⟨0, [], [], 1, 0, 0⟩] }
    far := { postPassRegs.far with outs := [⟨0, 0, List.replicate 1024 0, 0, false, false, []⟩] }
    pending := [.cometPostPass 0] }

theorem regsWf_postPassRegs : postPassRegs.RegsWf :=
  RegsWf_put (RegsWf_put (RegsWf_put (RegsWf_put (RegsWf_put soundAtReset.regs _ _ _) _ _ _) _ _ _) _ _ _) _ _ _

theorem twiceOpen_sound : twiceOpen.Sound :=
  { soundAtReset with
    regs := regsWf_postPassRegs
    runs := by decide }

/-- What a step of `twiceOpen` leaves owed. -/
def owedAfter (o : Host.Outcome State Fault Refusal) : List (Nat × Nat) :=
  match o with
  | .next t => t.path.owed
  | _ => []

/-- The post-pass reads the comet table, which closes both entries: the partial one meets the poison and owes its entry of the ledger, and
the whole one then clears the poison, so that the read succeeds. The buffer has no room, and the command ends without settling. -/
theorem owedAfter_twiceOpen : owedAfter (step twiceOpen) = [(0, 0)] := by decide +kernel

/-- Refutes O5: COMET_POST_PASS of a run that finds no room in the outbound buffer ends with the ledger entry of a poisoned merge still owed,
where its read of the comet table closed two entries of one line. -/
theorem not_stepKeepsSound : ¬ Obligations.StepKeepsSound := by
  intro h
  have howed := owedAfter_twiceOpen
  cases hstep : step twiceOpen with
  | next t =>
    have ht : t.Sound := h twiceOpen t twiceOpen_sound hstep
    rw [hstep] at howed
    exact absurd (ht.owed.symm.trans howed) (by decide)
  | fault f => simp [hstep, owedAfter] at howed
  | refused r => simp [hstep, owedAfter] at howed

end Sys2Proof.Machine
end

section
/-! What memory accesses and postings leave of the management core: its registers, what it remembers, and the accumulators. -/
namespace Sys2Proof.Machine

variable {z s t : State}

/-- `s` is `z` as far as the management core goes: the registers of MGT and CFG, what the core remembers, and the accumulators. No read has
symbol errors to meet. -/
structure CoreKept (z s : State) : Prop where
  regsWf : s.RegsWf
  low : ∀ a, a < 0x10000 → s.reg a = z.reg a
  mgmt : s.mgmt = z.mgmt
  acc : s.acc = z.acc
  met : s.path.met = []

namespace CoreKept

theorem of_sound (h : s.Sound) : CoreKept s s := ⟨h.regs, fun _ _ => rfl, rfl, rfl, h.met⟩

theorem fst {α : Type} {a : α} (h : CoreKept z s) : CoreKept z (s, a).1 := h
theorem of_eq {α : Type} {x : State × α} {a : α} (h : CoreKept z x.1) (e : x = (t, a)) : CoreKept z t := by subst e; exact h
theorem ite {p : Prop} [Decidable p] (hs : CoreKept z s) (ht : CoreKept z t) : CoreKept z (if p then s else t) := by
  split
  · exact hs
  · exact ht
theorem when {c : Bool} {f : State → State} (h : CoreKept z s) (hf : ∀ {t}, CoreKept z t → CoreKept z (f t)) : CoreKept z (Machine.when c f s) :=
  when_keeps (CoreKept z) (fun _ _ => hf) h
theorem forEach {α : Type} {l : List α} {f : α → State → State} (h : CoreKept z s) (hf : ∀ {a t}, CoreKept z t → CoreKept z (f a t)) :
    CoreKept z (Machine.forEach l f s) := forEach_keeps (CoreKept z) f l (fun _ _ _ => hf) s h

/-- The registers of a family above the space of CFG. -/
theorem above {b k i : Nat} (h : 0x10000 ≤ b) : 0x10000 ≤ b + k * i := h.trans (Nat.le_add_right ..)

/-- Operations that touch registers above the space of CFG, postings and the trace alone keep the management core. -/
theorem touches {W : Nat → Prop} (h : CoreKept z s) (w : Touches W s t) (hW : ∀ a, W a → 0x10000 ≤ a) : CoreKept z t := by
  have hr := w.regsWf h.regsWf
  have hl : ∀ a, a < 0x10000 → t.reg a = s.reg a := fun a ha => w.reg h.regsWf fun hw => by have := hW a hw; omega
  obtain ⟨⟨_, _, _, rfl⟩, -⟩ := w
  exact ⟨hr, fun a ha => (hl a ha).trans (h.low a ha), h.mgmt, h.acc, h.met⟩

theorem setR {off v} (h : CoreKept z s) (ho : 0x10000 ≤ off) : CoreKept z (Machine.setR off v s) :=
  h.touches (touches_setR (W := fun a => a = off) rfl v s) fun _ e => e ▸ ho
theorem put {off f v} (h : CoreKept z s) (ho : 0x10000 ≤ off) : CoreKept z (Machine.put off f v s) := h.setR ho
theorem raise {off f} (h : CoreKept z s) (ho : 0x10000 ≤ off) : CoreKept z (Machine.raise off f s) := h.setR ho
theorem putB {off f b} (h : CoreKept z s) (ho : 0x10000 ≤ off) : CoreKept z (Machine.putB off f b s) := h.setR ho
theorem emit {o} (h : CoreKept z s) : CoreKept z (Machine.emit o s) := { h with }
theorem bump {off} (h : CoreKept z s) (ho : 0x10000 ≤ off) : CoreKept z (Machine.bump off s) :=
  h.touches (touches_bump off s) fun _ e => e.elim (fun e => e ▸ ho) (·.1)
theorem record {p} (h : CoreKept z s) : CoreKept z (Machine.record p s) := h.touches (touches_record p s) fun _ e => e.1
theorem sendMsix {func vec} (h : CoreKept z s) : CoreKept z (Machine.sendMsix func vec s) := .ite h.emit (h.raise (by decide))
theorem setTile {p x} (h : CoreKept z s) : CoreKept z (Machine.setTile p x s) := { h with }
theorem setPoison {u b} (h : CoreKept z s) : CoreKept z (Machine.setPoison u b s) := { h with }
theorem setPath {f : MemPath → MemPath} (h : CoreKept z s) (hf : ∀ p, (f p).met = p.met := by intros; rfl) : CoreKept z (Machine.setPath f s) :=
  { h with met := (hf _).trans h.met }
theorem setByte {a b} (h : CoreKept z s) : CoreKept z (Machine.setByte a b s) := { h with }

/-! ### The memory path -/

theorem setRaw {a data} (h : CoreKept z s) : CoreKept z (Machine.setRaw a data s) := .forEach h fun h => h.setByte
theorem writeDram {la data p} (h : CoreKept z s) : CoreKept z (Machine.writeDram la data p s) := .ite h.setRaw.setPoison h.setRaw.setPoison
theorem readDram {kind la} (h : CoreKept z s) : CoreKept z (Machine.readDram kind la s).1 := by
  unfold Machine.readDram
  rw [h.met]
  exact h
theorem dropLine {la} (h : CoreKept z s) : CoreKept z (Machine.dropLine la s) := .setPath h
theorem editLine {la f} (h : CoreKept z s) : CoreKept z (Machine.editLine la f s) := .setPath h
theorem cleanLine {la} (h : CoreKept z s) : CoreKept z (Machine.cleanLine la s) := by
  unfold Machine.cleanLine
  split
  · exact .ite (h.writeDram.bump (above (by decide))).editLine h
  · exact h
theorem recent {la w} (h : CoreKept z s) : CoreKept z (Machine.recent la w s) := by
  unfold Machine.recent
  exact h.setPath
theorem allocate {la data dirty keep poison} (h : CoreKept z s) : CoreKept z (Machine.allocate la data dirty keep poison s) := by
  unfold Machine.allocate
  refine .recent (.setPath ?_)
  split
  · exact h.cleanLine.dropLine
  · exact h
theorem hitLine {l hint} (h : CoreKept z s) : CoreKept z (Machine.hitLine l hint s) := (h.when fun h => h.recent).when fun h => h.editLine
theorem showLevels (h : CoreKept z s) : CoreKept z (Machine.showLevels s) := (h.put (by decide)).put (by decide)
theorem mergePoison {la k} (h : CoreKept z s) : CoreKept z (Machine.mergePoison la k s) := .raise (.setPath h) (by decide)
theorem writeHit {l mask data hint k} (h : CoreKept z s) : CoreKept z (Machine.writeHit l mask data hint k s) := .ite h.mergePoison h.hitLine.editLine
theorem writeLineMiss {la data hint} (h : CoreKept z s) : CoreKept z (Machine.writeLineMiss la data hint s) := .ite h.allocate h.writeDram
theorem closeEntry {e} (h : CoreKept z s) : CoreKept z (Machine.closeEntry e s) := by
  unfold Machine.closeEntry
  extract_lets half full s1 s2 s3
  have h2 : CoreKept z s2 := .when (.showLevels (.setPath h)) fun h => h.bump (above (by decide))
  have h3 : CoreKept z s3 := h2.bump (above (by decide))
  split
  · exact h2.writeHit
  · exact .ite h2.writeLineMiss (.ite h3.readDram.mergePoison h3.readDram.writeDram)
theorem closeEntries {p} (h : CoreKept z s) : CoreKept z (Machine.closeEntries p s) := .forEach h fun h => h.closeEntry
theorem openEntry {e} (h : CoreKept z s) : CoreKept z (Machine.openEntry e s) := by
  unfold Machine.openEntry
  refine .showLevels (.setPath (.ite ?_ h))
  split
  · exact h.closeEntry.bump (above (by decide))
  · exact h
theorem acceptWrite {w} (h : CoreKept z s) : CoreKept z (Machine.acceptWrite w s) := by
  unfold Machine.acceptWrite
  have hc : CoreKept z (Machine.closeEntries (fun e => e.addr = lineOf w.addr ∧ e.ctx ≠ w.ctx) s) := h.closeEntries
  dsimp only
  split
  · exact (hc.bump (above (by decide))).writeHit
  · have hb := hc.bump (above (b := 0x1C0108) (k := 0x80) (i := s.half (lineOf w.addr)) (by decide))
    split
    · exact .ite (.closeEntry (.setPath hb)) (.setPath hb)
    · exact .ite hb.writeLineMiss hb.openEntry
theorem poisonWhole {la} (h : CoreKept z s) : CoreKept z (Machine.poisonWhole la s) :=
  .ite (.editLine (.showLevels (.setPath h))) (.writeDram (.showLevels (.setPath h)))
theorem zeroWhere {p} (h : CoreKept z s) : CoreKept z (Machine.zeroWhere p s) := .showLevels { h with }
theorem holdWrite {w} (h : CoreKept z s) : CoreKept z (Machine.holdWrite w s) := by
  have hb : CoreKept z (Machine.bump Reg.PAN_SLUICE_HOLDS (Machine.setPath (fun p => { p with held := p.held ++ [w] }) s)) :=
    .bump (.setPath h) (by decide)
  exact .ite (.ite hb (.setPath hb)) (.setPath h)
theorem applyWrite {w} (h : CoreKept z s) : CoreKept z (Machine.applyWrite w s) := by
  unfold Machine.applyWrite
  split
  · exact h.acceptWrite
  · exact h.poisonWhole
  · exact h.zeroWhere
  · split
    · exact h.dropLine.when fun h => h.bump (above (by decide))
    · exact h
theorem writeLine {w} (h : CoreKept z s) : CoreKept z (Machine.writeLine w s) := .ite h.holdWrite h.applyWrite
theorem hbmStore {pan addr data marks hint k epoch} (h : CoreKept z s) :
    CoreKept z (Machine.hbmStore pan addr data marks hint k epoch s).1 := by
  unfold Machine.hbmStore
  dsimp only
  split
  · exact h
  · exact .fst (h.forEach fun h => h.writeLine)
theorem hbmWrite {pan addr data hint k epoch} (h : CoreKept z s) : CoreKept z (Machine.hbmWrite pan addr data hint k epoch s).1 := h.hbmStore

/-! ### Saves, quarantine and postings -/

theorem setTileSt {p v} (h : CoreKept z s) : CoreKept z (Machine.setTileSt p v s) := h.put (above (by decide))
theorem abandon {p} (h : CoreKept z s) : CoreKept z (Machine.abandon p s) := h.setTile
theorem saveLine {k la data p} (h : CoreKept z s) : CoreKept z (Machine.saveLine k la data p s) := h.hbmStore
theorem saveTile {p k live tm} (h : CoreKept z s) : CoreKept z (Machine.saveTile p k live tm s) := by
  unfold Machine.saveTile
  extract_lets base l s1 s2 s3 s4 s5 x s6 s7
  have h2 : CoreKept z s2 := (h.forEach fun h => h.saveLine).hbmWrite
  have h4 : CoreKept z s4 := (h2.forEach fun h => .ite h.hbmWrite h).forEach fun h => .ite h.hbmWrite h
  have h7 : CoreKept z s7 := (h4.abandon.setTile.put (above (by decide))).put (above (by decide))
  exact .ite h7 h7.setTileSt
theorem requestSave {p k live tm} (h : CoreKept z s) : CoreKept z (Machine.requestSave p k live tm s) := .ite h.saveTile h.setTile
theorem forceSave {p k} (h : CoreKept z s) : CoreKept z (Machine.forceSave p k s) := (h.bump (above (by decide))).requestSave
theorem showSchedulable {k} (h : CoreKept z s) : CoreKept z (Machine.showSchedulable k s) := h.putB (above (by decide))
theorem endSlice {q} (h : CoreKept z s) : CoreKept z (Machine.endSlice q s) := h.put (above (by decide))
theorem setQState {k v} (h : CoreKept z s) : CoreKept z (Machine.setQState k v s) := h.put (above (by decide))
theorem quarantine {k cause} (h : CoreKept z s) : CoreKept z (Machine.quarantine k cause s) := by
  have hState {v} : CoreKept z (Machine.put (Reg.CTX_CTRL k) F.CTX_CTRL_STATE v s) := h.put (above (by decide))
  have hCause {t : State} (h : CoreKept z t) : CoreKept z (Machine.put (Reg.CTX_STATUS k) F.CTX_STATUS_QCAUSE cause t) := h.put (above (by decide))
  exact .ite (.sendMsix (.when (.forEach ((hCause hState).showSchedulable.when fun h => h.endSlice) fun h => h.forceSave) fun h => h.setQState))
    (.ite (hCause h) h)
theorem postContained {code unit k detail} (h : CoreKept z s) : CoreKept z (Machine.postContained code unit k detail s) := by
  unfold Machine.postContained Machine.post
  dsimp only
  split
  · exact .ite h.record.quarantine h.record
  · exact h.record
theorem settleN {n} (h : CoreKept z s) : CoreKept z (Machine.settleN n s) := by
  induction n generalizing s with
  | zero => exact h
  | succ n ih =>
    unfold Machine.settleN
    split
    · exact h
    · exact ih (.postContained (.setPath h))
theorem settle (h : CoreKept z s) : CoreKept z (Machine.settle s) := .setPath h.settleN
theorem addressFault {k a} (h : CoreKept z s) : CoreKept z (Machine.addressFault k a s) := h.postContained

end CoreKept

end Sys2Proof.Machine
end

section
/-! A read of HBM that waits for nothing, meets no poison and needs no victim: it returns the bytes, and counts its hits and misses. -/
namespace Sys2Proof.Machine

variable {s t u : State} {la : Nat} {ls : List Nat}

/-- A counter with room counts, and nothing else happens. -/
theorem bump_of_below {r : Nat} (h : s.Below r 1) : bump r s = put r ⟨47, 0⟩ (s.fld r ⟨47, 0⟩ + 1) s := by
  have hle : ¬ s.fld r ⟨47, 0⟩ + 1 > 0xFFFFFFFFFFFF := Nat.not_lt.mpr h
  simp [bump, bumpBy, saturates, addCount, hle]

/-- A counter with room for one more than `n` has room for `n` once it has counted. -/
theorem below_bump (h : s.RegsWf) {r r' n : Nat} (hr : s.Below r (n + 1)) (hr' : s.Below r' (n + 1)) : (bump r s).Below r' n := by
  unfold State.Below at *
  rw [bump_of_below (Nat.le_trans (by omega) hr)]
  by_cases e : r' = r
  · subst e
    rw [fld_put_same h _ (by decide)]
    exact Nat.le_trans (Nat.add_le_add_right (Nat.mod_le _ _) n) (by omega)
  · rw [fld_put_ne h _ _ _ e]
    omega

/-- The half that serves an address is 0 or 1. -/
theorem half_lt (s : State) (a : Nat) : s.half a < 2 := by
  have h30 : bits a 30 30 < 2 := Nat.mod_lt _ (by decide)
  unfold State.half
  extract_lets g
  split
  · exact h30
  · omega
  · split <;> decide

/-- The half that serves an address is a matter of the pin registers. -/
theorem half_congr (h : ∀ n, n < 8 → t.reg (Reg.FLR_PIN n) = s.reg (Reg.FLR_PIN n)) (a : Nat) : t.half a = s.half a := by
  have hn : bits a 38 31 / 32 < 8 := by
    have : bits a 38 31 < 256 := Nat.mod_lt _ (by decide)
    omega
  unfold State.half State.pinCode
  rw [h _ hn]

/-- The registers that count hits and misses are no pin registers. -/
theorem not_isHitMiss_pin {n : Nat} (h : n < 8) : ¬ IsHitMiss (Reg.FLR_PIN n) := by
  rintro ⟨k, hk, e | e⟩
  · unfold Reg.FLR_PIN Reg.BC_H_HIT at e; omega
  · unfold Reg.FLR_PIN Reg.BC_H_MISS at e; omega

theorem isHitMiss_hit (s : State) (a : Nat) : IsHitMiss (Reg.BC_H_HIT (s.half a)) := ⟨_, half_lt s a, .inl rfl⟩
theorem isHitMiss_miss (s : State) (a : Nat) : IsHitMiss (Reg.BC_H_MISS (s.half a)) := ⟨_, half_lt s a, .inr rfl⟩

/-! ### What quiet reads leave of a state -/

/-- `t` differs from `s` at most in hit and miss counters and in what the base cache holds, and reads of HBM return the same. -/
structure ReadOf (s t : State) : Prop where
  eq : ∃ r c o, t = { s with regs := r, path := { s.path with cache := c, order := o } }
  regsWf : t.RegsWf
  regs : ∀ a, ¬ IsHitMiss a → t.reg a = s.reg a
  data : ∀ a, t.hbmByte a = s.hbmByte a

theorem ReadOf.refl (h : s.RegsWf) : ReadOf s s := ⟨⟨_, _, _, rfl⟩, h, fun _ _ => rfl, fun _ => rfl⟩
theorem ReadOf.trans (h : ReadOf s t) (g : ReadOf t u) : ReadOf s u := by
  obtain ⟨r, c, o, ht⟩ := h.eq
  obtain ⟨r', c', o', hu⟩ := g.eq
  exact ⟨⟨r', c', o', by rw [hu, ht]⟩, g.regsWf, fun a ha => (g.regs a ha).trans (h.regs a ha), fun a => (g.data a).trans (h.data a)⟩
theorem ReadOf.half (h : ReadOf s t) (a : Nat) : t.half a = s.half a := half_congr (fun _ hn => h.regs _ (not_isHitMiss_pin hn)) a
theorem ReadOf.fld (h : ReadOf s t) {a : Nat} (ha : ¬ IsHitMiss a) (f : Fld) : t.fld a f = s.fld a f := by
  rw [State.fld, h.regs a ha, State.fld]
theorem ReadOf.mgmt (h : ReadOf s t) : t.mgmt = s.mgmt := by obtain ⟨_, _, _, rfl⟩ := h.eq; rfl
theorem ReadOf.acc (h : ReadOf s t) : t.acc = s.acc := by obtain ⟨_, _, _, rfl⟩ := h.eq; rfl
theorem ReadOf.owed (h : ReadOf s t) : t.path.owed = s.path.owed := by obtain ⟨_, _, _, rfl⟩ := h.eq; rfl
theorem ReadOf.sameData (h : ReadOf s t) : SameData s t := by
  have hd := h.data
  obtain ⟨_, _, _, rfl⟩ := h.eq
  exact ⟨fun _ => rfl, hd, rfl⟩

/-! ### One line -/

/-- What the lines `ls` need for reads of them to be quiet. -/
structure ReadsQuietly (s : State) (ls : List Nat) : Prop where
  regsWf : s.RegsWf
  wcb : s.path.wcb = []
  clearing : s.path.clearing = []
  met : s.path.met = []
  lines : ∀ la ∈ ls, la % 64 = 0 ∧ s.poisoned la = false ∧ ∀ l, s.cached la = some l → l.poison = false ∧ l.data.length = 64
  room : ∀ la ∈ ls, s.cached la ≠ none ∨
    (s.setLines la).length + (ls.filter fun x => cacheSet x = cacheSet la ∧ s.half x = s.half la).length ≤ 24
  below : ∀ h, h < 2 → s.Below (Reg.BC_H_HIT h) ls.length ∧ s.Below (Reg.BC_H_MISS h) ls.length

theorem lineOf_add {i : Nat} (h : la % 64 = 0) (hi : i < 64) : lineOf (la + i) = la := by unfold lineOf; omega

/-- What a read of HBM returns where no entry is open: the cached byte, or the stored one. -/
theorem hbmByte_of_wcb (h : s.path.wcb = []) (a : Nat) :
    s.hbmByte a = ((s.cached (lineOf a)).map fun l => l.data.getD (a - lineOf a) 0).getD (s.byte a) := by
  unfold State.hbmByte
  rw [h]
  cases s.cached (lineOf a) <;> rfl

/-- The bytes of a cached line. -/
theorem hbmBytes_cached {l : CLine} (hw : s.path.wcb = []) (ha : la % 64 = 0) (hc : s.cached la = some l) (hl : l.data.length = 64) :
    s.hbmBytes la 64 = l.data := by
  apply List.ext_getElem
  · simp [State.hbmBytes, hl]
  · intro i hi hi'
    have hi : i < 64 := by simpa [State.hbmBytes] using hi
    simp only [State.hbmBytes, List.getElem_map, List.getElem_range, hbmByte_of_wcb hw, lineOf_add ha hi, hc, Option.map_some, Option.getD_some,
      Nat.add_sub_cancel_left]
    exact (List.getElem_eq_getD (fallback := 0)).symm

/-- The bytes of a line that is not cached. -/
theorem hbmBytes_uncached (hw : s.path.wcb = []) (ha : la % 64 = 0) (hc : s.cached la = none) : s.hbmBytes la 64 = s.rawBytes la 64 := by
  refine List.map_congr_left fun i hi => ?_
  rw [hbmByte_of_wcb hw, lineOf_add ha (List.mem_range.mp hi), hc]
  rfl

theorem overlayHeld_of_clearing (h : s.path.clearing = []) (x : List Byte × Bool) : overlayHeld s la x = x := by
  simp [overlayHeld, State.pairClears, h]

theorem closeEntries_of_wcb (h : s.path.wcb = []) (p : WEntry → Bool) : closeEntries p s = s := by simp [closeEntries, h]

/-- A hit or a miss is counted, and reads return the same. -/
theorem readOf_bump (h : s.RegsWf) {r : Nat} (hr : IsHitMiss r) (hb : s.Below r 1) : ReadOf s (bump r s) ∧ (bump r s).path = s.path := by
  rw [bump_of_below hb]
  exact ⟨⟨⟨_, _, _, rfl⟩, RegsWf_put h _ _ _, fun a ha => reg_put_ne h _ _ fun e => ha (e ▸ hr), fun _ => rfl⟩, rfl⟩

theorem setLines_congr (h : ReadOf s t) (hc : t.path.cache = s.path.cache) (la : Nat) : t.setLines la = s.setLines la := by
  simp only [State.setLines, hc, h.half]

/-- A set with a free way needs no victim. -/
theorem victim_of_room (h : (s.setLines la).length < 24) : victim la false s = none := by
  have : ¬ 24 ≤ (s.setLines la).length := by omega
  simp [victim, this]

/-- A line becomes the most recent of its set, and reads return the same. -/
theorem readOf_recent (h : s.RegsWf) (a w : Nat) : ReadOf s (recent a w s) := ⟨⟨_, _, _, rfl⟩, h, fun _ _ => rfl, fun _ => rfl⟩

/-- A quiet read of a cached line counts a hit and makes the line the most recent. -/
theorem readLine_cached {l : CLine} (hw : s.path.wcb = []) (hcl : s.path.clearing = []) (hb : s.Below (Reg.BC_H_HIT (s.half la)) 1)
    (hc : s.cached la = some l) :
    readLine la 0 s = (recent l.addr l.way (bump (Reg.BC_H_HIT (s.half la)) s), l.data, l.poison) := by
  have hit (t : State) : hitLine l 0 t = recent l.addr l.way t := by simp [hitLine]
  have hover (r v x) : overlayHeld (recent l.addr l.way (put r ⟨47, 0⟩ v s)) la x = x := overlayHeld_of_clearing hcl x
  simp only [readLine, closeEntries_of_wcb hw, hc, bump_of_below hb, if_neg (show ¬ (0 = 3) by decide), hit, hover]

/-- The state after a quiet read of a line that is not cached: the miss is counted, and a copy of the stored line becomes the most recent of
its set. -/
def readIn (la w : Nat) (s : State) : State :=
  recent la w (setPath (fun p => { p with cache := ⟨la, w, s.rawBytes la 64, false, false, false⟩ :: p.cache })
    (bump (Reg.BC_H_MISS (s.half la)) s))

theorem readLine_uncached (hs : s.RegsWf) (hw : s.path.wcb = []) (hcl : s.path.clearing = []) (hm : s.path.met = []) (hp : s.poisoned la = false)
    (hb : s.Below (Reg.BC_H_MISS (s.half la)) 1) (hc : s.cached la = none) (hr : (s.setLines la).length < 24) :
    ∃ w, readLine la 0 s = (readIn la w s, s.rawBytes la 64, false) := by
  obtain ⟨hbump, hpath⟩ := readOf_bump hs (isHitMiss_miss s la) hb
  have hv : victim la false (bump (Reg.BC_H_MISS (s.half la)) s) = none :=
    victim_of_room (by rwa [setLines_congr hbump (by rw [hpath])])
  have hread : readDram 0 la (bump (Reg.BC_H_MISS (s.half la)) s) = (bump (Reg.BC_H_MISS (s.half la)) s, s.rawBytes la 64, false) := by
    unfold readDram State.dramLine
    rw [hpath, hm, bump_of_below hb]
    exact congrArg (fun p => (_, s.rawBytes la 64, p)) hp
  have hover (a w : Nat) (f : MemPath → MemPath) (hf : (f s.path).clearing = s.path.clearing) (x : List Byte × Bool) :
      overlayHeld (recent a w (setPath f (bump (Reg.BC_H_MISS (s.half la)) s))) la x = x :=
    overlayHeld_of_clearing (by show (f _).clearing = []; rw [hpath, hf, hcl]) x
  simp only [readLine, closeEntries_of_wcb hw, hc, hread, true_or, if_true, allocate, hv,
    show decide (0 = 2) = false from rfl, Bool.false_and]
  exact ⟨_, by rw [hover _ _ _ rfl]; rfl⟩

/-- What is cached after a line has been read in. -/
theorem cached_readIn (hb : (bump (Reg.BC_H_MISS (s.half la)) s).path = s.path) (w a : Nat) : (readIn la w s).cached a =
    if a = la then some ⟨la, w, s.rawBytes la 64, false, false, false⟩ else s.cached a := by
  show ((⟨la, w, s.rawBytes la 64, false, false, false⟩ :: (bump (Reg.BC_H_MISS (s.half la)) s).path.cache).find? fun l => l.addr = a) = _
  rw [hb, List.find?_cons]
  by_cases e : a = la
  · simp [e]
  · simp [Ne.symm e, e, State.cached]

/-- Reading a line in leaves what reads return. -/
theorem readOf_readIn (hs : s.RegsWf) (hw : s.path.wcb = []) (ha : la % 64 = 0) (hb : s.Below (Reg.BC_H_MISS (s.half la)) 1)
    (hc : s.cached la = none) (w : Nat) : ReadOf s (readIn la w s) := by
  obtain ⟨hbump, hpath⟩ := readOf_bump hs (isHitMiss_miss s la) hb
  refine ⟨?_, hbump.regsWf, hbump.regs, fun a => ?_⟩
  · obtain ⟨r, c, o, e⟩ := hbump.eq
    exact ⟨r, _, _, by unfold readIn; rw [e]; rfl⟩
  · have hwt : (readIn la w s).path.wcb = [] := by
      show (bump (Reg.BC_H_MISS (s.half la)) s).path.wcb = []
      rw [hpath, hw]
    have hbyte : (readIn la w s).byte a = s.byte a := by
      obtain ⟨r, c, o, e⟩ := hbump.eq
      unfold readIn; rw [e]; rfl
    rw [hbmByte_of_wcb hwt, hbmByte_of_wcb hw, cached_readIn hpath, hbyte]
    by_cases e : lineOf a = la
    · have hlt : a - la < 64 := by unfold lineOf at e; omega
      have hadd : la + (a - la) = a := by unfold lineOf at e; omega
      simp [e, hc, State.rawBytes, hlt, hadd]
    · simp [e]

theorem setLines_readIn (hs : s.RegsWf) (hb : s.Below (Reg.BC_H_MISS (s.half la)) 1) (w a : Nat) : ((readIn la w s).setLines a).length =
    (s.setLines a).length + if cacheSet la = cacheSet a ∧ s.half la = s.half a then 1 else 0 := by
  obtain ⟨hbump, hpath⟩ := readOf_bump hs (isHitMiss_miss s la) hb
  have hh (x : Nat) : (readIn la w s).half x = s.half x := hbump.half x
  have hcache : (readIn la w s).path.cache = ⟨la, w, s.rawBytes la 64, false, false, false⟩ :: s.path.cache := by
    show _ :: (bump (Reg.BC_H_MISS (s.half la)) s).path.cache = _
    rw [hpath]
  simp only [State.setLines, hcache, hh, List.filter_cons, decide_eq_true_eq]
  split <;> simp

/-- Lines that are read quietly are so after a read of the first, where what is cached then is sound and leaves room. -/
theorem ReadsQuietly.tail (h : ReadsQuietly s (la :: ls)) (g : ReadOf s t)
    (hcached : ∀ x ∈ ls, ∀ l, t.cached x = some l → l.poison = false ∧ l.data.length = 64)
    (hroom : ∀ x ∈ ls, t.cached x ≠ none ∨
      (t.setLines x).length + (ls.filter fun y => cacheSet y = cacheSet x ∧ s.half y = s.half x).length ≤ 24)
    (hbelow : ∀ k, k < 2 → t.Below (Reg.BC_H_HIT k) ls.length ∧ t.Below (Reg.BC_H_MISS k) ls.length) : ReadsQuietly t ls := by
  obtain ⟨hs, hw, hcl, hm, hlines, -, -⟩ := h
  have hp : t.poison = s.poison := g.sameData.2.2
  refine ⟨g.regsWf, ?_, ?_, ?_, fun x hx => ⟨(hlines x (List.mem_cons_of_mem _ hx)).1, ?_, hcached x hx⟩, ?_, hbelow⟩
  · obtain ⟨_, _, _, rfl⟩ := g.eq; exact hw
  · obtain ⟨_, _, _, rfl⟩ := g.eq; exact hcl
  · obtain ⟨_, _, _, rfl⟩ := g.eq; exact hm
  · rw [State.poisoned, hp]; exact (hlines x (List.mem_cons_of_mem _ hx)).2.1
  · simpa only [g.half] using hroom

/-- A counter of hits or misses has room for the other lines once a line has been counted. -/
theorem ReadsQuietly.below_tail (h : ReadsQuietly s (la :: ls)) {r : Nat} (hr : IsHitMiss r) (k : Nat) (hk : k < 2) :
    (bump r s).Below (Reg.BC_H_HIT k) ls.length ∧ (bump r s).Below (Reg.BC_H_MISS k) ls.length := by
  have hrb : s.Below r (ls.length + 1) := by
    obtain ⟨j, hj, rfl | rfl⟩ := hr
    · exact (h.below j hj).1
    · exact (h.below j hj).2
  exact ⟨below_bump h.regsWf hrb (h.below k hk).1, below_bump h.regsWf hrb (h.below k hk).2⟩

theorem ReadsQuietly.below_one (h : ReadsQuietly s (la :: ls)) {r : Nat} (hr : IsHitMiss r) : s.Below r 1 := by
  obtain ⟨j, hj, rfl | rfl⟩ := hr
  · exact Nat.le_trans (by simp) (h.below j hj).1
  · exact Nat.le_trans (by simp) (h.below j hj).2

/-- A hit on the first of some lines that are read quietly. -/
theorem readLine_hit {l : CLine} (h : ReadsQuietly s (la :: ls)) (hc : s.cached la = some l) :
    ∃ t, readLine la 0 s = (t, s.hbmBytes la 64, false) ∧ ReadOf s t ∧ ReadsQuietly t ls := by
  have hit := isHitMiss_hit s la
  obtain ⟨ha, -, hsound⟩ := h.lines la (List.mem_cons_self ..)
  obtain ⟨hlp, hll⟩ := hsound l hc
  obtain ⟨hbump, hpath⟩ := readOf_bump h.regsWf hit (h.below_one hit)
  have hread : ReadOf s (recent l.addr l.way (bump (Reg.BC_H_HIT (s.half la)) s)) := hbump.trans (readOf_recent hbump.regsWf _ _)
  have hcache : (recent l.addr l.way (bump (Reg.BC_H_HIT (s.half la)) s)).path.cache = s.path.cache :=
    (congrArg MemPath.cache hpath : (bump (Reg.BC_H_HIT (s.half la)) s).path.cache = _)
  have hcached (x : Nat) : (recent l.addr l.way (bump (Reg.BC_H_HIT (s.half la)) s)).cached x = s.cached x := by
    rw [State.cached, hcache, State.cached]
  refine ⟨_, by rw [readLine_cached h.wcb h.clearing (h.below_one hit) hc, hbmBytes_cached h.wcb ha hc hll, hlp], hread,
    h.tail hread (fun x hx l' hl' => (h.lines x (List.mem_cons_of_mem _ hx)).2.2 l' (hcached x ▸ hl')) (fun x hx => ?_) (h.below_tail hit)⟩
  rw [hcached, setLines_congr hread hcache]
  refine (h.room x (List.mem_cons_of_mem _ hx)).imp id fun hle => Nat.le_trans (Nat.add_le_add_left ?_ _) hle
  exact ((List.sublist_cons_self la ls).filter _).length_le

/-- A miss on the first of some lines that are read quietly. -/
theorem readLine_miss (h : ReadsQuietly s (la :: ls)) (hc : s.cached la = none) :
    ∃ t, readLine la 0 s = (t, s.hbmBytes la 64, false) ∧ ReadOf s t ∧ ReadsQuietly t ls := by
  have miss := isHitMiss_miss s la
  have hb := h.below_one miss
  obtain ⟨ha, hp, -⟩ := h.lines la (List.mem_cons_self ..)
  obtain ⟨-, hpath⟩ := readOf_bump h.regsWf miss hb
  have hroom : (s.setLines la).length < 24 := by
    have := (h.room la (List.mem_cons_self ..)).resolve_left (absurd hc)
    rw [List.filter_cons_of_pos (by simp), List.length_cons] at this
    omega
  obtain ⟨w, hread⟩ := readLine_uncached h.regsWf h.wcb h.clearing h.met hp hb hc hroom
  have hrd := readOf_readIn h.regsWf h.wcb ha hb hc w
  refine ⟨_, by rw [hread, hbmBytes_uncached h.wcb ha hc], hrd, h.tail hrd (fun x hx l hl => ?_) (fun x hx => ?_) (h.below_tail miss)⟩
  · rw [cached_readIn hpath] at hl
    split at hl
    · cases hl
      exact ⟨rfl, by simp [State.rawBytes]⟩
    · exact (h.lines x (List.mem_cons_of_mem _ hx)).2.2 l hl
  · rw [cached_readIn hpath, setLines_readIn h.regsWf hb]
    by_cases e : x = la
    · simp [e]
    · rw [if_neg e]
      refine (h.room x (List.mem_cons_of_mem _ hx)).imp id fun hle => ?_
      by_cases hset : cacheSet la = cacheSet x ∧ s.half la = s.half x
      · rw [List.filter_cons_of_pos (by simpa using hset), List.length_cons] at hle
        rw [if_pos hset]
        omega
      · rw [List.filter_cons_of_neg (by simpa using hset)] at hle
        rw [if_neg hset]
        omega

/-- A read of the first of some lines that are read quietly: its bytes, no poison, and the others are still read quietly. -/
theorem readLine_quiet (h : ReadsQuietly s (la :: ls)) :
    ∃ t, readLine la 0 s = (t, s.hbmBytes la 64, false) ∧ ReadOf s t ∧ ReadsQuietly t ls := by
  cases hc : s.cached la with
  | some l => exact readLine_hit h hc
  | none => exact readLine_miss h hc

/-! ### A range -/

/-- The bytes of some lines, in order. -/
def lineBytes (s : State) (ls : List Nat) : List Byte := ls.flatMap fun la => s.hbmBytes la 64

theorem lineBytes_congr (h : ReadOf s t) (ls : List Nat) : lineBytes t ls = lineBytes s ls := by
  unfold lineBytes State.hbmBytes
  simp only [h.data]

/-- One line of a read of several, as `hbmRead` goes through them. -/
def readNext (hint : Nat) (x : State × List Byte × Option Nat) (la : Nat) : State × List Byte × Option Nat :=
  let (s, data, bad) := x
  let (s', d, p) := readLine la hint s
  (s', data ++ d, if p ∧ bad = none then some la else bad)

theorem foldl_readNext_quiet (h : ReadsQuietly s ls) (data : List Byte) :
    ∃ t, ls.foldl (readNext 0) (s, data, none) = (t, data ++ lineBytes s ls, none) ∧ ReadOf s t := by
  induction ls generalizing s data with
  | nil => exact ⟨s, by simp [lineBytes], .refl h.regsWf⟩
  | cons la ls ih =>
    obtain ⟨t, hread, hst, ht⟩ := readLine_quiet h
    obtain ⟨u, hfold, htu⟩ := ih ht (data ++ s.hbmBytes la 64)
    refine ⟨u, ?_, hst.trans htu⟩
    have hstep : readNext 0 (s, data, none) la = (t, data ++ s.hbmBytes la 64, none) := by simp [readNext, hread]
    rw [List.foldl_cons, hstep, hfold, lineBytes_congr hst]
    simp [lineBytes]

/-- The bytes of consecutive lines. -/
theorem lineBytes_range (s : State) (b k : Nat) : lineBytes s ((List.range k).map fun i => b + 64 * i) = s.hbmBytes b (64 * k) := by
  induction k with
  | zero => rfl
  | succ k ih =>
    rw [List.range_succ, List.map_append, lineBytes, List.flatMap_append]
    rw [show List.flatMap (fun la => s.hbmBytes la 64) _ = lineBytes s _ from rfl, ih]
    simp [State.hbmBytes, Nat.mul_add, List.range_add, Nat.add_assoc]

/-- The bytes of a range within those of the lines that it touches. -/
theorem take_drop_lineBytes (s : State) (a n : Nat) : ((lineBytes s (linesOf a n)).drop (a - lineOf a)).take n = s.hbmBytes a n := by
  unfold linesOf
  split
  · subst_vars; rfl
  · rw [lineBytes_range]
    have hla : lineOf a ≤ a := Nat.div_mul_le_self a 64
    have hfit : a - lineOf a + n ≤ 64 * ((a + n - 1) / 64 + 1 - a / 64) := by unfold lineOf; omega
    apply List.ext_getElem
    · simp [State.hbmBytes]; omega
    · intro i hi hi'
      simp only [State.hbmBytes, List.getElem_take, List.getElem_drop, List.getElem_map, List.getElem_range]
      congr 1
      omega

/-- A steady range is read quietly, line by line. -/
theorem readsQuietly_of_steady {a n : Nat} (hs : s.RegsWf) (h : s.Steady [(a, n)]) : ReadsQuietly s (linesOf a n) := by
  obtain ⟨hq, hroom, hbelow⟩ := h
  obtain ⟨-, -, hw, hcl, hm, hlines, -⟩ := hq (a, n) (List.mem_singleton.mpr rfl)
  simp only [List.flatMap_cons, List.flatMap_nil, List.append_nil] at hroom hbelow
  refine ⟨hs, hw, hcl, hm, fun la hla => ⟨?_, hlines la hla⟩, hroom, hbelow⟩
  unfold linesOf at hla
  split at hla
  · cases hla
  · obtain ⟨i, -, rfl⟩ := List.mem_map.mp hla
    unfold lineOf
    omega

/-- A steady read answers the bytes of its range and meets no poison. -/
theorem hbmRead_steady {a n : Nat} (hs : s.RegsWf) (h : s.Steady [(a, n)]) :
    ∃ t, hbmRead a n 0 s = (t, s.hbmBytes a n, none) ∧ ReadOf s t := by
  obtain ⟨t, hfold, hread⟩ := foldl_readNext_quiet (readsQuietly_of_steady hs h) []
  refine ⟨t, ?_, hread⟩
  have : hbmRead a n 0 s = (((linesOf a n).foldl (readNext 0) (s, [], none)).1,
      (((linesOf a n).foldl (readNext 0) (s, [], none)).2.1.drop (a - lineOf a)).take n, ((linesOf a n).foldl (readNext 0) (s, [], none)).2.2) := rfl
  rw [this, hfold, List.nil_append, take_drop_lineBytes]

end Sys2Proof.Machine
end

section
/-! Commands of the management core: their frames, and what each leaves. -/
namespace Sys2Proof.Machine

variable {s t u v : State} {W V : Nat → Prop}

/-! ### Frames -/

/-- `t` keeps everything of `s` but the registers in `W` and what the units remember, and its registers are in canonical form. -/
structure Within (W : Nat → Prop) (s t : State) : Prop where
  regsWf : t.RegsWf
  keeps : KeepsAllBut W s t

namespace Within

theorem refl (h : s.RegsWf) : Within W s s := ⟨h, fun _ _ => rfl, ⟨fun _ => rfl, rfl, rfl⟩, rfl⟩
theorem trans (h : Within W s t) (g : Within W t u) : Within W s u := by
  obtain ⟨hr, ⟨hb, hp, hq⟩, ha⟩ := h.keeps
  obtain ⟨gr, ⟨gb, gp, gq⟩, ga⟩ := g.keeps
  exact ⟨g.regsWf, fun a n => (gr a n).trans (hr a n), ⟨fun a => (gb a).trans (hb a), gp.trans hp, gq.trans hq⟩, ga.trans ha⟩
theorem mono (h : Within W s t) (hv : ∀ a, W a → V a) : Within V s t := ⟨h.regsWf, fun a n => h.keeps.1 a fun w => n (hv a w), h.keeps.2⟩
theorem touches (h : Within W s t) (w : Touches W t u) : Within W s u := h.trans ⟨w.regsWf h.regsWf, w.keepsAllBut h.regsWf⟩
theorem setR {off x} (h : Within W s t) (ho : W off) : Within W s (Machine.setR off x t) := h.touches (touches_setR ho x t)
theorem put {off f x} (h : Within W s t) (ho : W off) : Within W s (Machine.put off f x t) := h.setR ho
theorem raise {off f} (h : Within W s t) (ho : W off) : Within W s (Machine.raise off f t) := h.setR ho
theorem putB {off f b} (h : Within W s t) (ho : W off) : Within W s (Machine.putB off f b t) := h.setR ho
theorem withMgmt {x} (h : Within W s t) : Within W s { t with mgmt := x } := ⟨h.regsWf, h.keeps⟩
theorem withFree {n} (h : Within W s t) : Within W s { t with free := n } := ⟨h.regsWf, h.keeps⟩
theorem forEach {α : Type} {l : List α} {f : α → State → State} (h : Within W s t) (hf : ∀ a ∈ l, ∀ t, Within W s t → Within W s (f a t)) :
    Within W s (Machine.forEach l f t) := forEach_keeps (Within W s) f l hf t h
theorem reg (h : Within W s t) {a : Nat} (ha : ¬ W a) : t.reg a = s.reg a := h.keeps.1 a ha
theorem fld (h : Within W s t) {a : Nat} (ha : ¬ W a) (f : Fld) : t.fld a f = s.fld a f := by rw [State.fld, h.reg ha, State.fld]
theorem on (h : Within W s t) {a : Nat} (ha : ¬ W a) (f : Fld) : t.on a f = s.on a f := by rw [State.on, h.fld ha, State.on]
theorem path (h : Within W s t) : t.path = s.path := h.keeps.2.1.2.2

/-- Where nothing is owed, there is nothing to settle. -/
theorem settle (h : Within W s t) (hs : s.Sound) : Machine.settle t = t := settle_of_nothing_owed (by rw [h.path]; exact hs.owed)

end Within

/-! ### The commands of MGT_CMD -/

/-- A register that a MGT command writes besides its own results. -/
abbrev IsCmdStatus (a : Nat) : Prop := a = Reg.MGT_CMD_STATUS

/-- The MGT commands and their codes. -/
def mgtRows : List (Instr × Nat) := [(.clearCounters, 1), (.snapshot, 2), (.sign, 3), (.deviceReset, 4), (.fwStage, 5), (.fwActivate, 6)]

theorem exec_mgtRow (s : State) : ∀ e ∈ mgtRows, exec e.1 s = .next (settle (mgtCommand wr e.2 s)) ∧ 1 ≤ e.2 ∧ e.2 ≤ 6 := by
  simp only [mgtRows, List.forall_mem_cons, List.not_mem_nil, false_implies, implies_true, and_true]
  exact ⟨⟨rfl, by decide⟩, ⟨rfl, by decide⟩, ⟨rfl, by decide⟩, ⟨rfl, by decide⟩, ⟨rfl, by decide⟩, ⟨rfl, by decide⟩⟩

/-- A command while one runs is ignored. -/
theorem mgtCommand_busy {cmd : Nat} (h : s.on Reg.MGT_CMD_STATUS F.MGT_CMD_STATUS_CMD_BUSY = true) :
    mgtCommand wr cmd s = raise Reg.MGT_STATUS F.MGT_STATUS_BAD_WRITE s := if_pos (.inl h)

/-- A command during a hand-over waits. -/
theorem mgtCommand_handover {cmd : Nat} (h : s.on Reg.MGT_CMD_STATUS F.MGT_CMD_STATUS_CMD_BUSY = false) (h1 : 1 ≤ cmd) (h6 : cmd ≤ 6)
    (hh : s.handover = true) :
    mgtCommand wr cmd s = { mgtBegin cmd s with mgmt := { s.mgmt with cmd := cmd, mgtWait := some cmd } } := by
  unfold mgtCommand
  rw [if_neg (by simp [h]; omega), if_neg (by omega), if_pos hh]
  rfl

/-- A command other than DEVICE_RESET begins and runs. -/
theorem mgtCommand_plain {cmd : Nat} (h : s.on Reg.MGT_CMD_STATUS F.MGT_CMD_STATUS_CMD_BUSY = false) (h1 : 1 ≤ cmd) (h6 : cmd ≤ 6) (h4 : cmd ≠ 4)
    (hh : s.handover = false) : mgtCommand wr cmd s = runPlain cmd (mgtBegin cmd s) := by
  unfold mgtCommand
  rw [if_neg (by simp [h]; omega), if_neg (by omega), if_neg (by simp [hh]), if_neg h4]

theorem within_mgtBegin (h : s.RegsWf) (cmd : Nat) : Within IsCmdStatus s (mgtBegin cmd s) := (Within.refl h).withMgmt.raise rfl
theorem mgmt_mgtBegin (cmd : Nat) (s : State) : (mgtBegin cmd s).mgmt = { s.mgmt with cmd := cmd } := rfl
theorem busy_mgtBegin (h : s.RegsWf) (cmd : Nat) : (mgtBegin cmd s).on Reg.MGT_CMD_STATUS F.MGT_CMD_STATUS_CMD_BUSY = true := by
  have : (mgtBegin cmd s).fld Reg.MGT_CMD_STATUS F.MGT_CMD_STATUS_CMD_BUSY = 1 :=
    fld_raise_same (s := { s with mgmt := { s.mgmt with cmd := cmd } }) h _ (by decide)
  simp [State.on, this]
theorem fwState_mgtBegin (h : s.RegsWf) (cmd : Nat) : (mgtBegin cmd s).fwState = s.fwState :=
  fld_raise_apart (s := { s with mgmt := { s.mgmt with cmd := cmd } }) h _ (by decide) (by decide)

theorem Within.mgtDone {code : Nat} (h : Within W s t) (hw : W Reg.MGT_CMD_STATUS) : Within W s (Machine.mgtDone code t) :=
  (h.withMgmt.put hw).put hw

/-- A command has completed with a code. -/
def MgtDone (t : State) (code : Nat) : Prop :=
  t.fld Reg.MGT_CMD_STATUS F.MGT_CMD_STATUS_COMPLETION = code ∧ t.on Reg.MGT_CMD_STATUS F.MGT_CMD_STATUS_CMD_BUSY = false ∧ t.mgmt.cmd = 0

theorem mgtDone_done (h : t.RegsWf) {code : Nat} (hc : code < 256) : MgtDone (mgtDone code t) code := by
  have h1 := RegsWf_put (s := { t with mgmt := { t.mgmt with cmd := 0 } }) h Reg.MGT_CMD_STATUS F.MGT_CMD_STATUS_CMD_BUSY 0
  refine ⟨?_, ?_, rfl⟩
  · rw [mgtDone, fld_put_same h1 _ (by decide)]
    exact Nat.mod_eq_of_lt hc
  · rw [State.on, mgtDone, fld_put_apart h1 _ (by decide) (by decide),
      fld_put_same (s := { t with mgmt := { t.mgmt with cmd := 0 } }) h _ (by decide)]
    rfl
/-- Completion leaves the other fields of MGT_CMD_STATUS. -/
theorem fld_mgtDone_apart (h : t.RegsWf) (code : Nat) {f : Fld} (hc : F.MGT_CMD_STATUS_COMPLETION.Apart f) (hb : F.MGT_CMD_STATUS_CMD_BUSY.Apart f) :
    (mgtDone code t).fld Reg.MGT_CMD_STATUS f = t.fld Reg.MGT_CMD_STATUS f := by
  have h1 := RegsWf_put (s := { t with mgmt := { t.mgmt with cmd := 0 } }) h Reg.MGT_CMD_STATUS F.MGT_CMD_STATUS_CMD_BUSY 0
  rw [mgtDone, fld_put_apart h1 _ (by decide) hc, fld_put_apart (s := { t with mgmt := { t.mgmt with cmd := 0 } }) h _ (by decide) hb]
  rfl

/-- Every command is ignored while one runs. -/
theorem mgtRow_busy (hs : s.Sound) (h : s.on Reg.MGT_CMD_STATUS F.MGT_CMD_STATUS_CMD_BUSY = true) :
    ∀ e ∈ mgtRows, Ignores e.1 s Reg.MGT_STATUS F.MGT_STATUS_BAD_WRITE := by
  intro e he
  have w : Within (fun a => a = Reg.MGT_STATUS) s (raise Reg.MGT_STATUS F.MGT_STATUS_BAD_WRITE s) := (Within.refl hs.regs).raise rfl
  refine ⟨_, ?_, reg_raise_same hs.regs _ _, w.keeps⟩
  rw [(exec_mgtRow s e he).1, mgtCommand_busy h, w.settle hs]

/-- Every command waits during a hand-over. -/
theorem mgtRow_handover (hs : s.Sound) (h : s.on Reg.MGT_CMD_STATUS F.MGT_CMD_STATUS_CMD_BUSY = false) (hh : s.handover = true) :
    ∀ e ∈ mgtRows, Ends e.1 s fun t => t.on Reg.MGT_CMD_STATUS F.MGT_CMD_STATUS_CMD_BUSY = true ∧
      t.mgmt = { s.mgmt with cmd := e.2, mgtWait := some e.2 } ∧ KeepsAllBut IsCmdStatus s t := by
  intro e he
  obtain ⟨hexec, h1, h6⟩ := exec_mgtRow s e he
  have w := (within_mgtBegin hs.regs e.2).withMgmt (x := { s.mgmt with cmd := e.2, mgtWait := some e.2 })
  rw [mgtCommand_handover h h1 h6 hh, w.settle hs] at hexec
  exact ⟨_, hexec, busy_mgtBegin hs.regs e.2, rfl, w.keeps⟩

/-- A command that begins and runs ends in the state that it leaves, where it keeps memory. -/
theorem exec_mgtRow_plain {c : Instr} {cmd : Nat} (hm : (c, cmd) ∈ mgtRows) (h4 : cmd ≠ 4)
    (h : s.on Reg.MGT_CMD_STATUS F.MGT_CMD_STATUS_CMD_BUSY = false) (hh : s.handover = false)
    (ht : runPlain cmd (mgtBegin cmd s) = t) (hp : t.path.owed = []) : exec c s = .next t := by
  obtain ⟨hexec, h1, h6⟩ := exec_mgtRow s _ hm
  rw [hexec, mgtCommand_plain h h1 h6 h4 hh, ht, settle_of_nothing_owed hp]

/-- A command that is refused. -/
theorem mgtRow_refused {c : Instr} {cmd : Nat} (hm : (c, cmd) ∈ mgtRows) (h4 : cmd ≠ 4) (hs : s.Sound)
    (h : s.on Reg.MGT_CMD_STATUS F.MGT_CMD_STATUS_CMD_BUSY = false) (hh : s.handover = false)
    (ht : runPlain cmd (mgtBegin cmd s) = mgtDone Code.REFUSED (mgtBegin cmd s)) :
    Ends c s fun t => MgtDone t Code.REFUSED ∧ KeepsAllBut IsCmdStatus s t := by
  have w := (within_mgtBegin hs.regs cmd).mgtDone (code := Code.REFUSED) rfl
  exact ⟨_, exec_mgtRow_plain hm h4 h hh ht (by rw [w.path]; exact hs.owed),
    mgtDone_done (within_mgtBegin hs.regs cmd).regsWf (by decide), w.keeps⟩

theorem recovery_mgtBegin (h : s.RegsWf) (cmd : Nat) : (mgtBegin cmd s).recovery = s.recovery := by
  rw [State.recovery, (within_mgtBegin h cmd).fld (by decide), State.recovery]

/-- In RECOVERY only FW_STAGE is accepted. -/
theorem mgtRow_recovery {c : Instr} {cmd : Nat} (hm : (c, cmd) ∈ mgtRows) (h4 : cmd ≠ 4) (h5 : cmd ≠ 5) (hs : s.Sound)
    (h : s.on Reg.MGT_CMD_STATUS F.MGT_CMD_STATUS_CMD_BUSY = false) (hh : s.handover = false) (hr : s.recovery = true) :
    Ends c s fun t => MgtDone t Code.REFUSED ∧ KeepsAllBut IsCmdStatus s t :=
  mgtRow_refused hm h4 hs h hh (if_pos (by simp [recovery_mgtBegin hs.regs, hr, h5]))

/-! Outside RECOVERY each command does its own. -/
theorem runPlain_clearCounters (h : t.recovery = false) : runPlain 1 t = mgtDone Code.DONE (clearAll t) := if_neg (by simp [h])
theorem runPlain_snapshot (h : t.recovery = false) : runPlain 2 t = mgtSnapshot t := if_neg (by simp [h])
theorem runPlain_sign (h : t.recovery = false) : runPlain 3 t = mgtSign t := if_neg (by simp [h])
theorem runPlain_fwStage (t : State) : runPlain 5 t = mgtStage t := if_neg (by simp)
theorem runPlain_fwActivate (h : t.recovery = false) : runPlain 6 t = mgtActivate t := if_neg (by simp [h])

end Sys2Proof.Machine
end

section
/-! What each MGT command does where no other runs, outside a hand-over and RECOVERY. -/
namespace Sys2Proof.Machine

variable {s t u v : State} {W V : Nat → Prop}

/-- What an unlisted key reads as is what a dropped one reads as. -/
theorem Store.lookup_clear {β : Type} [DecidableEq β] {d : Nat → β} {m : Store β} (h : Store.Wf d m) (p : Nat → Bool) (k : Nat) :
    Store.lookup d (Store.clear p m) k = if p k then d k else Store.lookup d m k := by
  unfold Store.clear
  induction m with
  | nil => simp [Store.lookup]
  | cons e m ih =>
    obtain ⟨hm, -⟩ := Store.wf_cons h
    by_cases hk : k = e.1
    · subst hk
      by_cases hp : p e.1 <;> simp [hp, ih hm, Store.lookup]
    · by_cases hp : p e.1 <;> simp [hp, ih hm, hk, Store.lookup]

/-! ### CLEAR_COUNTERS -/

theorem reg_clearAll (h : t.RegsWf) (a : Nat) : (clearAll t).reg a = if isCounter a then resetValue a else t.reg a :=
  Store.lookup_clear h isCounter a

theorem Within.clearAll (h : Within W s t) (hw : ∀ a, isCounter a = true → W a) : Within W s (Machine.clearAll t) := by
  refine ⟨Store.wf_clear h.regsWf isCounter, fun a ha => ?_, h.keeps.2⟩
  rw [reg_clearAll h.regsWf, if_neg fun hc => ha (hw a hc), h.reg ha]

/-- The status register of the MGT commands is no counter. -/
theorem not_isCounter_cmdStatus : isCounter Reg.MGT_CMD_STATUS = false := by decide +kernel

/-- A state in which a MGT command other than DEVICE_RESET runs at once: none runs, and there is neither a hand-over nor RECOVERY. -/
structure State.MgtReady (s : State) : Prop where
  sound : s.Sound
  idle : s.on Reg.MGT_CMD_STATUS F.MGT_CMD_STATUS_CMD_BUSY = false
  noHandover : s.handover = false
  noRecovery : s.recovery = false

section
variable (hs : s.MgtReady)
include hs

theorem State.MgtReady.begun (cmd : Nat) : Within IsCmdStatus s (mgtBegin cmd s) := within_mgtBegin hs.sound.regs cmd
theorem State.MgtReady.recovery_begun (cmd : Nat) : (mgtBegin cmd s).recovery = false :=
  (recovery_mgtBegin hs.sound.regs cmd).trans hs.noRecovery

/-- A command that leaves memory ends where it has run. -/
theorem State.MgtReady.exec {c : Instr} {cmd : Nat} (hm : (c, cmd) ∈ mgtRows) (h4 : cmd ≠ 4) (ht : runPlain cmd (mgtBegin cmd s) = t)
    (hp : t.path.owed = s.path.owed) : exec c s = .next t :=
  exec_mgtRow_plain hm h4 hs.idle hs.noHandover ht (hp.trans hs.sound.owed)

/-- CLEAR_COUNTERS zeroes the statistics counters. -/
theorem clearCounters_ends : Ends .clearCounters s fun t => MgtDone t Code.DONE ∧
    (∀ a, isCounter a = true → t.fld a ⟨47, 0⟩ = 0 ∧ t.fld a ⟨63, 63⟩ = 0) ∧
    KeepsAllBut (fun a => a = Reg.MGT_CMD_STATUS ∨ isCounter a = true) s t := by
  have w := ((hs.begun 1).mono fun _ h => .inl h).clearAll (W := fun a => a = Reg.MGT_CMD_STATUS ∨ isCounter a = true) fun _ h => .inr h
  have wd := w.mgtDone (code := Code.DONE) (.inl rfl)
  refine ⟨_, hs.exec (by decide) (by decide) (runPlain_clearCounters (hs.recovery_begun 1)) (by rw [wd.path]), mgtDone_done w.regsWf (by decide),
    fun a ha => ?_, wd.keeps⟩
  have hr : a ≠ Reg.MGT_CMD_STATUS := by rintro rfl; simp [not_isCounter_cmdStatus] at ha
  have zero (f : Fld) (hf : (0 : Word).get f = 0) : (mgtDone Code.DONE (clearAll (mgtBegin 1 s))).fld a f = 0 := by
    have wdone : Within IsCmdStatus (clearAll (mgtBegin 1 s)) (mgtDone Code.DONE (clearAll (mgtBegin 1 s))) := (Within.refl w.regsWf).mgtDone rfl
    rw [wdone.fld hr, State.fld, reg_clearAll (hs.begun 1).regsWf, if_pos ha, resetValue_counter ha, hf]
  exact ⟨zero _ (by decide), zero _ (by decide)⟩

/-! ### SNAPSHOT -/

/-- While a record is written, another is refused with an overrun. -/
theorem snapshot_recording (h : s.mgmt.recording = true) : Ends .snapshot s fun t => MgtDone t Code.REFUSED ∧
    t.on Reg.MGT_TELEM F.MGT_TELEM_TELEM_OVERRUN = true ∧ KeepsAllBut (fun a => a = Reg.MGT_CMD_STATUS ∨ a = Reg.MGT_TELEM) s t := by
  have w0 := hs.begun 2
  have w := (w0.mono fun _ h => .inl h).raise (W := fun a => a = Reg.MGT_CMD_STATUS ∨ a = Reg.MGT_TELEM) (off := Reg.MGT_TELEM)
    (f := F.MGT_TELEM_TELEM_OVERRUN) (.inr rfl)
  have wd := w.mgtDone (code := Code.REFUSED) (.inl rfl)
  have hrun : mgtSnapshot (mgtBegin 2 s) = mgtDone Code.REFUSED (raise Reg.MGT_TELEM F.MGT_TELEM_TELEM_OVERRUN (mgtBegin 2 s)) := by
    have hrec : (mgtBegin 2 s).mgmt.recording = true := h
    simp [mgtSnapshot, takeRecord, hrec]
  refine ⟨_, hs.exec (by decide) (by decide) ((runPlain_snapshot (hs.recovery_begun 2)).trans hrun) (by rw [wd.path]),
    mgtDone_done w.regsWf (by decide), ?_, wd.keeps⟩
  have hdone := ((Within.refl w.regsWf).mgtDone (W := IsCmdStatus) (code := Code.REFUSED) rfl).fld (a := Reg.MGT_TELEM) (by decide)
    F.MGT_TELEM_TELEM_OVERRUN
  rw [State.on, hdone, fld_raise_same w0.regsWf _ (by decide)]
  rfl

end

/-- What the management core remembers may be set along with the state that another keeps it of. -/
theorem CoreKept.withMgmt (h : CoreKept s t) (x : Mgmt) : CoreKept { s with mgmt := x } { t with mgmt := x } :=
  ⟨h.regsWf, h.low, rfl, h.acc, h.met⟩

/-- The state after some bytes of a record have been written, or their address refused. -/
def recordWritten (a : Nat) (data : List Byte) (t : State) : State :=
  if hbmEnd < a + data.length then addressFault 4096 a t else (hbmWrite false a data 0 4096 0 t).1

theorem CoreKept.recordWritten {a : Nat} {data : List Byte} (h : CoreKept s t) : CoreKept s (Machine.recordWritten a data t) :=
  .ite h.addressFault h.hbmWrite

/-- A record is taken where none is being written. -/
theorem takeRecord_eq (h : t.mgmt.recording = false) : ∃ u, u = recordWritten (t.fld Reg.MGT_TELEM F.MGT_TELEM_DEST * 64) t.telemetry t ∧
    takeRecord t = { u with mgmt := { u.mgmt with recording := true, records := u.mgmt.records + 1 } } := by
  refine ⟨_, rfl, ?_⟩
  unfold takeRecord recordWritten
  rw [if_neg (by simp [h])]

/-- A record that is taken where none is being written: one more is counted. -/
theorem coreKept_takeRecord (hs : t.RegsWf) (hm : t.path.met = []) (h : t.mgmt.recording = false) :
    CoreKept { t with mgmt := { t.mgmt with recording := true, records := t.mgmt.records + 1 } } (takeRecord t) := by
  obtain ⟨u, hu, he⟩ := takeRecord_eq h
  have hk : CoreKept t u := hu ▸ CoreKept.recordWritten ⟨hs, fun _ _ => rfl, rfl, rfl, hm⟩
  rw [he, hk.mgmt]
  exact hk.withMgmt _

/-- SNAPSHOT begins a record. -/
theorem snapshot_begins (hs : s.MgtReady) (h : s.mgmt.recording = false) : Ends .snapshot s fun t => t.mgmt.recording = true ∧
    t.mgmt.records = s.mgmt.records + 1 ∧ t.on Reg.MGT_CMD_STATUS F.MGT_CMD_STATUS_CMD_BUSY = true ∧ t.acc = s.acc := by
  have w := hs.begun 2
  have hrec : (mgtBegin 2 s).mgmt.recording = false := h
  have hrun : mgtSnapshot (mgtBegin 2 s) = takeRecord (mgtBegin 2 s) := by simp [mgtSnapshot, hrec]
  have hk := (coreKept_takeRecord w.regsWf (by rw [w.path]; exact hs.sound.met) hrec).settle
  refine ⟨_, ?_, congrArg Mgmt.recording hk.mgmt, congrArg Mgmt.records hk.mgmt, ?_, hk.acc⟩
  · rw [← hrun, ← runPlain_snapshot (hs.recovery_begun 2),
      ← mgtCommand_plain (cmd := 2) hs.idle (by decide) (by decide) (by decide) hs.noHandover]
    rfl
  · rw [State.on, State.fld, hk.low _ (by decide)]
    exact busy_mgtBegin hs.sound.regs 2

end Sys2Proof.Machine
end

section
/-! The MGT commands that read memory, and the activation of firmware. -/
namespace Sys2Proof.Machine

variable {s t u v : State} {W V : Nat → Prop}

/-! ### Reads of the management core -/

/-- The registers of MGT and CFG. -/
abbrev IsMgtReg (a : Nat) : Prop := a < 0x10000

theorem not_isMgtReg_pin {n : Nat} : ¬ IsMgtReg (Reg.FLR_PIN n) := by unfold Reg.FLR_PIN; simp only [IsMgtReg]; omega
theorem not_isMgtReg_hit (h : Nat) : ¬ IsMgtReg (Reg.BC_H_HIT h) := by unfold Reg.BC_H_HIT; simp only [IsMgtReg]; omega
theorem not_isMgtReg_miss (h : Nat) : ¬ IsMgtReg (Reg.BC_H_MISS h) := by unfold Reg.BC_H_MISS; simp only [IsMgtReg]; omega

/-- Steady ranges are a matter of memory and of registers above those of MGT and CFG. -/
theorem Within.steady (w : Within IsMgtReg s t) {rs : List (Nat × Nat)} (h : s.Steady rs) : t.Steady rs := by
  obtain ⟨hq, hroom, hbelow⟩ := h
  have hpath := w.path
  have hpoison : t.poison = s.poison := w.keeps.2.1.2.1
  have hbel (k n : Nat) (hb : s.Below (Reg.BC_H_HIT k) n ∧ s.Below (Reg.BC_H_MISS k) n) :
      t.Below (Reg.BC_H_HIT k) n ∧ t.Below (Reg.BC_H_MISS k) n := by
    unfold State.Below at *
    rwa [w.fld (not_isMgtReg_hit k), w.fld (not_isMgtReg_miss k)]
  have hcached (la : Nat) : t.cached la = s.cached la := by rw [State.cached, hpath, State.cached]
  have hhalf (a : Nat) : t.half a = s.half a := half_congr (fun _ _ => w.reg not_isMgtReg_pin) a
  have hset (la : Nat) : t.setLines la = s.setLines la := by simp only [State.setLines, hpath, hhalf]
  refine ⟨fun r hr => ?_, fun la hla => ?_, fun k hk => hbel k _ (hbelow k hk)⟩
  · obtain ⟨hm, hend, hw, hcl, hmet, hl, hb⟩ := hq r hr
    refine ⟨?_, hend, by rw [hpath, hw], by rw [hpath, hcl], by rw [hpath, hmet], fun la hla => ?_, fun k hk => hbel k _ (hb k hk)⟩
    · rw [State.memRefuses, w.fld (by decide)]
      exact hm
    · rw [State.poisoned, hpoison, hcached]
      exact hl la hla
  · simpa only [hcached, hset, hhalf] using hroom la hla

/-- What reads return is as before where memory is. -/
theorem SameMemory.hbmByte (h : SameMemory s t) (a : Nat) : t.hbmByte a = s.hbmByte a := by
  obtain ⟨hb, -, hp⟩ := h
  simp only [State.hbmByte, State.cached, hp, hb]

/-- A steady read of the management core answers the bytes of its range. -/
theorem mgtRead_steady {a n : Nat} (w : Within IsMgtReg s t) (h : s.Steady [(a, n)]) :
    ∃ u, mgtRead a n t = (u, .ok (s.hbmBytes a n)) ∧ ReadOf t u := by
  have ht := w.steady h
  obtain ⟨hm, hend, -⟩ := ht.1 (a, n) (List.mem_singleton.mpr rfl)
  obtain ⟨u, hread, hr⟩ := hbmRead_steady w.regsWf ht
  have hbytes : t.hbmBytes a n = s.hbmBytes a n := by simp only [State.hbmBytes, w.keeps.2.1.hbmByte]
  refine ⟨u, ?_, hr⟩
  simp [mgtRead, Nat.not_lt.mpr hend, hm, hread, hbytes]

/-- Register writes, a read and register writes keep all data. -/
theorem keepsData_of_read (w : Within W s t) (r : ReadOf t u) (g : Within W u v) : KeepsData (fun a => W a ∨ IsHitMiss a) s v := by
  refine ⟨fun a ha => ?_, ⟨fun a => ?_, fun a => ?_, ?_⟩, ?_⟩
  · obtain ⟨hw, hh⟩ := not_or.mp ha
    rw [g.reg hw, r.regs a hh, w.reg hw]
  · rw [g.keeps.2.1.1, r.sameData.1, w.keeps.2.1.1]
  · rw [g.keeps.2.1.hbmByte, r.data, w.keeps.2.1.hbmByte]
  · rw [g.keeps.2.1.2.1, r.sameData.2.2, w.keeps.2.1.2.1]
  · rw [g.keeps.2.2, r.acc, w.keeps.2.2]

theorem KeepsData.mono (h : KeepsData W s t) (hv : ∀ a, W a → V a) : KeepsData V s t := ⟨fun a ha => h.1 a fun hw => ha (hv a hw), h.2⟩

/-- The registers of the management core are no hit or miss counters. -/
theorem not_isHitMiss_of_lt {a : Nat} (h : a < 0x1C0000) : ¬ IsHitMiss a := by
  rintro ⟨k, -, e | e⟩
  · unfold Reg.BC_H_HIT at e; omega
  · unfold Reg.BC_H_MISS at e; omega

/-- What a register write leaves owed after a quiet read of a state that owes nothing. -/
theorem owed_of_read (w : Within W s t) (r : ReadOf t u) (g : Within V u v) : v.path.owed = s.path.owed := by
  rw [g.path, r.owed, w.path]

theorem isMgtReg_of_cmdStatus {a : Nat} (h : IsCmdStatus a) : IsMgtReg a := by subst h; decide

/-! ### SIGN -/

/-- A signature in its registers. -/
def writeSignature (n : Nat) (d : List Byte) (k : Nat) (s : State) : State :=
  forEach (List.range n) (fun i s => setR (Reg.MGT_SIGN_S i) (Config.signature d k (6 + i)) (setR (Reg.MGT_SIGN_R i) (Config.signature d k i) s)) s

/-- A register of a signature. -/
abbrev IsSignReg (a : Nat) : Prop := ∃ i, i < 6 ∧ (a = Reg.MGT_SIGN_R i ∨ a = Reg.MGT_SIGN_S i)

theorem writeSignature_succ (n : Nat) (d : List Byte) (k : Nat) (s : State) : writeSignature (n + 1) d k s =
    setR (Reg.MGT_SIGN_S n) (Config.signature d k (6 + n)) (setR (Reg.MGT_SIGN_R n) (Config.signature d k n) (writeSignature n d k s)) := by
  simp [writeSignature, forEach, List.range_succ]

theorem within_writeSignature (h : s.RegsWf) (d : List Byte) (k : Nat) {n : Nat} (hn : n ≤ 6) : Within IsSignReg s (writeSignature n d k s) := by
  induction n with
  | zero => exact .refl h
  | succ n ih =>
    rw [writeSignature_succ]
    exact ((ih (by omega)).setR ⟨n, hn, .inl rfl⟩).setR ⟨n, hn, .inr rfl⟩

theorem reg_writeSignature (h : s.RegsWf) (d : List Byte) (k : Nat) {n : Nat} (hn : n ≤ 6) : ∀ i, i < n →
    (writeSignature n d k s).reg (Reg.MGT_SIGN_R i) = Config.signature d k i ∧
    (writeSignature n d k s).reg (Reg.MGT_SIGN_S i) = Config.signature d k (6 + i) := by
  induction n with
  | zero => intro i hi; omega
  | succ n ih =>
    intro i hi
    have hw := (within_writeSignature h d k (by omega : n ≤ 6)).regsWf
    have hw' := RegsWf_setR hw (Reg.MGT_SIGN_R n) (Config.signature d k n)
    have hne : Reg.MGT_SIGN_R i ≠ Reg.MGT_SIGN_S n := by unfold Reg.MGT_SIGN_R Reg.MGT_SIGN_S; omega
    have hne' : Reg.MGT_SIGN_S i ≠ Reg.MGT_SIGN_R n := by unfold Reg.MGT_SIGN_R Reg.MGT_SIGN_S; omega
    rw [writeSignature_succ, reg_setR_ne hw' _ hne]
    by_cases e : i = n
    · subst e
      rw [reg_setR_same hw, reg_setR_same hw']
      exact ⟨rfl, rfl⟩
    · rw [reg_setR_ne hw _ (by unfold Reg.MGT_SIGN_R; omega), reg_setR_ne hw' _ (by unfold Reg.MGT_SIGN_S; omega), reg_setR_ne hw _ hne']
      exact ih (by omega) i (by omega)

/-- Whether ARG0 and ARG1 name an aligned range of a manifest's length. -/
abbrev SignArgs (s : State) : Prop :=
  257 ≤ (s.reg Reg.MGT_ARG1).toNat ∧ (s.reg Reg.MGT_ARG1).toNat ≤ 4194304 ∧ (s.reg Reg.MGT_ARG0).toNat % 64 = 0

/-- Whether some bytes are a manifest of the present job. -/
abbrev IsManifest (d : List Byte) (s : State) : Prop := field d 8 8 = (s.reg Reg.CHK_JOB).toNat ∧ bit (field d 28 4) 0 = true

theorem mgtSign_of_badArgs (h : ¬ SignArgs t) : mgtSign t = mgtDone Code.REFUSED t := if_pos (by simp only [SignArgs] at h; omega)

theorem mgtSign_of_read {d : List Byte} (h : SignArgs t) (hr : mgtRead (t.reg Reg.MGT_ARG0).toNat (t.reg Reg.MGT_ARG1).toNat t = (u, .ok d)) :
    mgtSign t = if IsManifest d u then mgtDone Code.DONE (writeSignature 6 d u.free { u with free := u.free + 1 })
      else mgtDone Code.REFUSED u := by
  unfold mgtSign
  extract_lets a n
  rw [if_neg (by simp only [SignArgs] at h; omega)]
  simp only [a, n, hr]
  rfl

section
variable (hs : s.MgtReady)
include hs

theorem sign_badArgs (h : ¬ SignArgs s) : Ends .sign s fun t => MgtDone t Code.REFUSED ∧ KeepsAllBut IsCmdStatus s t := by
  have w := hs.begun 3
  refine mgtRow_refused (cmd := 3) (by simp [mgtRows]) (by decide) hs.sound hs.idle hs.noHandover
    ((runPlain_sign (hs.recovery_begun 3)).trans (mgtSign_of_badArgs ?_))
  simpa only [SignArgs, w.reg (show ¬ IsCmdStatus Reg.MGT_ARG0 by decide), w.reg (show ¬ IsCmdStatus Reg.MGT_ARG1 by decide)] using h

/-- SIGN of a steady range, once its bytes have been read. -/
theorem sign_read (h : SignArgs s) (hst : s.Steady [((s.reg Reg.MGT_ARG0).toNat, (s.reg Reg.MGT_ARG1).toNat)]) :
    ∃ u, ReadOf (mgtBegin 3 s) u ∧ ∀ d, d = s.hbmBytes (s.reg Reg.MGT_ARG0).toNat (s.reg Reg.MGT_ARG1).toNat → runPlain 3 (mgtBegin 3 s) =
      if IsManifest d s then mgtDone Code.DONE (writeSignature 6 d u.free { u with free := u.free + 1 }) else mgtDone Code.REFUSED u := by
  have w := hs.begun 3
  have h0 := w.reg (show ¬ IsCmdStatus Reg.MGT_ARG0 by decide)
  have h1 := w.reg (show ¬ IsCmdStatus Reg.MGT_ARG1 by decide)
  obtain ⟨u, hread, hr⟩ := mgtRead_steady (w.mono fun _ => isMgtReg_of_cmdStatus) hst
  have hjob : u.reg Reg.CHK_JOB = s.reg Reg.CHK_JOB :=
    (hr.regs _ (not_isHitMiss_of_lt (by decide))).trans (w.reg (by decide))
  refine ⟨u, hr, ?_⟩
  rintro d rfl
  rw [runPlain_sign (hs.recovery_begun 3), mgtSign_of_read (by simpa only [SignArgs, h0, h1] using h) (by rw [h0, h1]; exact hread)]
  simp only [IsManifest, hjob]

theorem sign_manifest (h : SignArgs s) (hst : s.Steady [((s.reg Reg.MGT_ARG0).toNat, (s.reg Reg.MGT_ARG1).toNat)]) {d : List Byte}
    (hd : d = s.hbmBytes (s.reg Reg.MGT_ARG0).toNat (s.reg Reg.MGT_ARG1).toNat) (hm : IsManifest d s) :
    Ends .sign s fun t => MgtDone t Code.DONE ∧
      (∃ k, ∀ i, i < 6 → t.reg (Reg.MGT_SIGN_R i) = Config.signature d k i ∧ t.reg (Reg.MGT_SIGN_S i) = Config.signature d k (6 + i)) ∧
      KeepsData (fun a => a = Reg.MGT_CMD_STATUS ∨ IsHitMiss a ∨ IsSignReg a) s t := by
  obtain ⟨u, hr, hrun⟩ := sign_read hs h hst
  have hrun := (hrun d hd).trans (if_pos hm)
  have hsig := within_writeSignature (s := { u with free := u.free + 1 }) hr.regsWf d u.free (le_refl 6)
  have hdone : Within (fun a => IsCmdStatus a ∨ IsSignReg a) u (mgtDone Code.DONE (writeSignature 6 d u.free { u with free := u.free + 1 })) :=
    ((Within.refl hr.regsWf).withFree.trans (hsig.mono fun _ h => .inr h)).mgtDone (.inl rfl)
  refine ⟨_, hs.exec (by simp [mgtRows]) (by decide) hrun (owed_of_read (hs.begun 3) hr hdone), mgtDone_done hsig.regsWf (by decide),
    ⟨u.free, fun i hi => ?_⟩,
    (keepsData_of_read ((hs.begun 3).mono fun _ h => .inl h) hr hdone).mono fun a ha => (or_assoc.mp ha).imp_right Or.symm⟩
  have hkeep := (Within.refl hsig.regsWf).mgtDone (W := IsCmdStatus) (code := Code.DONE) rfl
  have hR : ¬ IsCmdStatus (Reg.MGT_SIGN_R i) := by simp only [IsCmdStatus, Reg.MGT_SIGN_R, Reg.MGT_CMD_STATUS]; omega
  have hS : ¬ IsCmdStatus (Reg.MGT_SIGN_S i) := by simp only [IsCmdStatus, Reg.MGT_SIGN_S, Reg.MGT_CMD_STATUS]; omega
  rw [hkeep.reg hR, hkeep.reg hS]
  exact reg_writeSignature (s := { u with free := u.free + 1 }) hr.regsWf d u.free (le_refl 6) i hi

theorem sign_notManifest (h : SignArgs s) (hst : s.Steady [((s.reg Reg.MGT_ARG0).toNat, (s.reg Reg.MGT_ARG1).toNat)]) {d : List Byte}
    (hd : d = s.hbmBytes (s.reg Reg.MGT_ARG0).toNat (s.reg Reg.MGT_ARG1).toNat) (hm : ¬ IsManifest d s) :
    Ends .sign s fun t => MgtDone t Code.REFUSED ∧ KeepsData (fun a => a = Reg.MGT_CMD_STATUS ∨ IsHitMiss a) s t := by
  obtain ⟨u, hr, hrun⟩ := sign_read hs h hst
  have hrun := (hrun d hd).trans (if_neg hm)
  have hdone : Within IsCmdStatus u (mgtDone Code.REFUSED u) := (Within.refl hr.regsWf).mgtDone rfl
  exact ⟨_, hs.exec (by simp [mgtRows]) (by decide) hrun (owed_of_read (hs.begun 3) hr hdone), mgtDone_done hr.regsWf (by decide),
    keepsData_of_read (hs.begun 3) hr hdone⟩

end

end Sys2Proof.Machine
end

section
/-! Firmware: its slots, staging and activation. -/
namespace Sys2Proof.Machine

variable {s t u v : State} {W V : Nat → Prop}

/-! ### Slots -/

theorem fwSlot_setFwSlot_same (k : Nat) (x : Option FwSlot) (s : State) : (setFwSlot k x s).fwSlot k = x := by
  unfold State.fwSlot setFwSlot
  by_cases h : k = 0 <;> simp [h]

theorem fwSlot_setFwSlot_other {k : Nat} (h : k ≤ 1) (x : Option FwSlot) (s : State) : (setFwSlot k x s).fwSlot (1 - k) = s.fwSlot (1 - k) := by
  unfold State.fwSlot setFwSlot
  interval_cases k <;> rfl

theorem idleSlot_le (s : State) : s.idleSlot ≤ 1 := Nat.sub_le ..

theorem Within.withSlot {k : Nat} {x : Option FwSlot} (h : Within W s t) : Within W s (setFwSlot k x t) := h.withMgmt
theorem Within.withFwState {v : Nat} (h : Within W s t) (hw : W Reg.MGT_CMD_STATUS) : Within W s (setFwState v t) := h.put hw

theorem fwState_setFwState (h : s.RegsWf) {v : Nat} (hv : v < 16) : (setFwState v s).fwState = v :=
  (fld_put_same h _ (by decide) v).trans (Nat.mod_eq_of_lt hv)

/-- Completion leaves FW_STATE. -/
theorem fwState_mgtDone (h : t.RegsWf) (code : Nat) : (mgtDone code t).fwState = t.fwState := fld_mgtDone_apart h code (by decide) (by decide)

/-- FW_STATE leaves CMD_BUSY. -/
theorem busy_setFwState (h : s.RegsWf) (v : Nat) :
    (setFwState v s).on Reg.MGT_CMD_STATUS F.MGT_CMD_STATUS_CMD_BUSY = s.on Reg.MGT_CMD_STATUS F.MGT_CMD_STATUS_CMD_BUSY := by
  rw [State.on, setFwState, fld_put_apart h _ (by decide) (by decide), State.on]

theorem Within.idleSlot (w : Within W s t) (h : ¬ W Reg.MGT_STATUS) : t.idleSlot = s.idleSlot := by rw [State.idleSlot, w.fld h, State.idleSlot]

/-! ### FW_STAGE -/

theorem mgtStage_refused (h : t.fwState = 2 ∨ t.fwState = 3 ∨ 2 ^ 24 < (t.reg Reg.MGT_ARG1).toNat) : mgtStage t = mgtDone Code.REFUSED t :=
  if_pos h

/-- The state in which the copy of an image with security version `v` into the idle slot is awaited. -/
def stageSlot (v : Nat) (s : State) : State :=
  let t := setFwSlot s.idleSlot none (setFwState 0 s)
  { t with mgmt := { t.mgmt with staging := v } }

theorem within_stageSlot (h : s.RegsWf) (v : Nat) : Within IsCmdStatus s (stageSlot v s) := by
  have w : Within IsCmdStatus s (setFwState 0 s) := (Within.refl h).withFwState rfl
  exact w.withSlot.withMgmt
theorem fld_stageSlot (v : Nat) (s : State) (a : Nat) (f : Fld) : (stageSlot v s).fld a f = (setFwState 0 s).fld a f := rfl
theorem fwSlot_stageSlot (v : Nat) (s : State) (k : Nat) :
    (stageSlot v s).fwSlot k = (setFwSlot s.idleSlot none (setFwState 0 s)).fwSlot k := rfl
theorem cmd_stageSlot (v : Nat) (s : State) : (stageSlot v s).mgmt.cmd = s.mgmt.cmd := by
  unfold stageSlot setFwSlot
  by_cases h : s.idleSlot = 0 <;> simp [h, setFwState]

theorem mgtStage_of_read {d : List Byte} (h : ¬ (t.fwState = 2 ∨ t.fwState = 3 ∨ 2 ^ 24 < (t.reg Reg.MGT_ARG1).toNat))
    (hr : mgtRead (t.reg Reg.MGT_ARG0).toNat (t.reg Reg.MGT_ARG1).toNat t = (u, .ok d)) : mgtStage t = stageSlot (Config.imageSvn d) u := by
  unfold mgtStage
  extract_lets n
  rw [if_neg h]
  simp only [n, hr]
  rfl

section
variable (hs : s.MgtReady)
include hs

theorem fwStage_refused (h : s.fwState = 2 ∨ s.fwState = 3 ∨ 2 ^ 24 < (s.reg Reg.MGT_ARG1).toNat) :
    Ends .fwStage s fun t => MgtDone t Code.REFUSED ∧ KeepsAllBut IsCmdStatus s t := by
  refine mgtRow_refused (cmd := 5) (by simp [mgtRows]) (by decide) hs.sound hs.idle hs.noHandover
    ((runPlain_fwStage _).trans (mgtStage_refused ?_))
  rwa [fwState_mgtBegin hs.sound.regs, (hs.begun 5).reg (by decide)]

/-- FW_STAGE empties the idle slot and goes on. -/
theorem fwStage_begins (h : ¬ (s.fwState = 2 ∨ s.fwState = 3 ∨ 2 ^ 24 < (s.reg Reg.MGT_ARG1).toNat))
    (hst : s.Steady [((s.reg Reg.MGT_ARG0).toNat, (s.reg Reg.MGT_ARG1).toNat)]) :
    Ends .fwStage s fun t => t.fwSlot s.idleSlot = none ∧ t.fwSlot (1 - s.idleSlot) = s.fwSlot (1 - s.idleSlot) ∧ t.fwState = 0 ∧
      t.mgmt.cmd = 5 ∧ t.on Reg.MGT_CMD_STATUS F.MGT_CMD_STATUS_CMD_BUSY = true ∧
      KeepsData (fun a => a = Reg.MGT_CMD_STATUS ∨ IsHitMiss a) s t := by
  have w := hs.begun 5
  have h0 := w.reg (show ¬ IsCmdStatus Reg.MGT_ARG0 by decide)
  have h1 := w.reg (show ¬ IsCmdStatus Reg.MGT_ARG1 by decide)
  obtain ⟨u, hread, hr⟩ := mgtRead_steady (w.mono fun _ => isMgtReg_of_cmdStatus) hst
  have hrun := mgtStage_of_read (t := mgtBegin 5 s) (by rwa [fwState_mgtBegin hs.sound.regs, h1]) (by rw [h0, h1]; exact hread)
  have hidle : u.idleSlot = s.idleSlot := by
    rw [State.idleSlot, hr.fld (not_isHitMiss_of_lt (by decide)), w.fld (by decide), State.idleSlot]
  have hend := within_stageSlot hr.regsWf (Config.imageSvn (s.hbmBytes (s.reg Reg.MGT_ARG0).toNat (s.reg Reg.MGT_ARG1).toNat))
  refine ⟨_, hs.exec (by simp [mgtRows]) (by decide) ((runPlain_fwStage _).trans hrun) (owed_of_read w hr hend), ?_, ?_, ?_, ?_, ?_,
    keepsData_of_read w hr hend⟩
  · rw [fwSlot_stageSlot, hidle, fwSlot_setFwSlot_same]
  · rw [fwSlot_stageSlot, hidle, fwSlot_setFwSlot_other (idleSlot_le s), State.fwSlot, setFwState, put_mgmt, hr.mgmt]
    rfl
  · rw [State.fwState, fld_stageSlot]
    exact fwState_setFwState hr.regsWf (by decide)
  · rw [cmd_stageSlot, hr.mgmt]
    rfl
  · rw [State.on, fld_stageSlot, ← State.on, busy_setFwState hr.regsWf, State.on, hr.fld (not_isHitMiss_of_lt (by decide))]
    exact busy_mgtBegin hs.sound.regs 5

/-! ### FW_ACTIVATE -/

theorem fwActivate_refused (h : s.fwState ≠ 1) : Ends .fwActivate s fun t => MgtDone t Code.REFUSED ∧ KeepsAllBut IsCmdStatus s t :=
  mgtRow_refused (cmd := 6) (by simp [mgtRows]) (by decide) hs.sound hs.idle hs.noHandover
    ((runPlain_fwActivate (hs.recovery_begun 6)).trans (if_pos (by rwa [fwState_mgtBegin hs.sound.regs])))

end

/-- The WAIT bits of the first `n` domains, as an activation sets them. -/
def showWaits (n : Nat) (s : State) : State :=
  forEach (List.range n) (fun d s => putB Reg.MGT_CMD_STATUS ⟨48 + d, 48 + d⟩ (s.fwWaits d) s) s

theorem showWaits_succ (n : Nat) (s : State) :
    showWaits (n + 1) s = putB Reg.MGT_CMD_STATUS ⟨48 + n, 48 + n⟩ ((showWaits n s).fwWaits n) (showWaits n s) := by
  simp [showWaits, forEach, List.range_succ]

theorem mgmt_showWaits (n : Nat) (s : State) : (showWaits n s).mgmt = s.mgmt := by
  induction n with
  | zero => rfl
  | succ n ih => rw [showWaits_succ, putB_mgmt, ih]

theorem within_showWaits (h : s.RegsWf) (n : Nat) : Within IsCmdStatus s (showWaits n s) :=
  (Within.refl h).forEach fun _ _ _ w => w.putB rfl

/-- Whether an activation waits for a domain is a matter of the domain's registers. -/
theorem Within.fwWaits (w : Within IsCmdStatus s t) (d : Nat) : t.fwWaits d = s.fwWaits d := by
  have h1 : ¬ IsCmdStatus (Reg.TIDE_CTRL d) := by simp only [IsCmdStatus, Reg.TIDE_CTRL, Reg.MGT_CMD_STATUS]; omega
  have h2 : ¬ IsCmdStatus (Reg.TIDE_VALUE d) := by simp only [IsCmdStatus, Reg.TIDE_VALUE, Reg.MGT_CMD_STATUS]; omega
  simp only [State.fwWaits, State.role, State.phase, State.tide, w.fld h1, w.reg h2]

theorem fld_showWaits_apart (h : s.RegsWf) {n : Nat} (hn : n ≤ 16) {f : Fld} (hf : f.hi < 48) :
    (showWaits n s).fld Reg.MGT_CMD_STATUS f = s.fld Reg.MGT_CMD_STATUS f := by
  induction n with
  | zero => rfl
  | succ n ih =>
    rw [showWaits_succ, putB, fld_put_apart (within_showWaits h n).regsWf _ ⟨le_refl _, by show 48 + n < 64; omega⟩
      (.inr (by show f.hi < 48 + n; omega)), ih (by omega)]

theorem on_showWaits (h : s.RegsWf) {n : Nat} (hn : n ≤ 16) : ∀ d, d < n →
    (showWaits n s).on Reg.MGT_CMD_STATUS ⟨48 + d, 48 + d⟩ = s.fwWaits d := by
  induction n with
  | zero => intro d hd; omega
  | succ n ih =>
    intro d hd
    have hw := within_showWaits h n
    have hok : Fld.Ok ⟨48 + n, 48 + n⟩ := ⟨le_refl _, by show 48 + n < 64; omega⟩
    rw [showWaits_succ, State.on, putB]
    by_cases e : d = n
    · subst e
      rw [fld_put_same hw.regsWf _ hok, hw.fwWaits]
      simp only [Fld.width, Nat.add_sub_cancel_left]
      cases s.fwWaits d <;> rfl
    · rw [fld_put_apart hw.regsWf _ hok (by simp only [Fld.Apart]; omega)]
      exact ih (by omega) d (by omega)

theorem mgtActivate_staged (h : t.fwState = 1) : mgtActivate t = showWaits 16 (mgtDone Code.DEFERRED (setFwState 2 t)) :=
  if_neg (by simp [h])

/-- FW_ACTIVATE of a staged image is deferred. -/
theorem fwActivate_deferred (hs : s.MgtReady) (h : s.fwState = 1) : Ends .fwActivate s fun t => MgtDone t Code.DEFERRED ∧ t.fwState = 2 ∧
    (∀ d, d < 16 → (t.on Reg.MGT_CMD_STATUS ⟨48 + d, 48 + d⟩ = true ↔
      s.role d ≠ 0 ∧ s.phase d ≠ Phase.IDLE ∧ s.phase d ≠ Phase.PAUSE)) ∧
    KeepsAllBut IsCmdStatus s t := by
  have w := hs.begun 6
  have w2 := w.withFwState (v := 2) rfl
  have w3 := w2.mgtDone (code := Code.DEFERRED) rfl
  have w4 := w3.trans (within_showWaits w3.regsWf 16)
  have hrun := (runPlain_fwActivate (hs.recovery_begun 6)).trans (mgtActivate_staged ((fwState_mgtBegin hs.sound.regs 6).trans h))
  obtain ⟨hcode, hidle, hcmd⟩ := mgtDone_done w2.regsWf (code := Code.DEFERRED) (by decide)
  refine ⟨_, hs.exec (by simp [mgtRows]) (by decide) hrun (by rw [w4.path]), ⟨?_, ?_, ?_⟩, ?_, fun d hd => ?_, w4.keeps⟩
  · rw [fld_showWaits_apart w3.regsWf (le_refl _) (by decide), hcode]
  · rw [State.on, fld_showWaits_apart w3.regsWf (le_refl _) (by decide)]
    exact hidle
  · rw [mgmt_showWaits, hcmd]
  · rw [State.fwState, fld_showWaits_apart w3.regsWf (le_refl _) (by decide)]
    exact (fwState_mgtDone w2.regsWf _).trans (fwState_setFwState w.regsWf (by decide))
  · rw [on_showWaits w3.regsWf (le_refl _) d hd, w3.fwWaits]
    simp [State.fwWaits, and_assoc]

end Sys2Proof.Machine
end

section
/-! What ends a MGT command, and the hand-over to new firmware. -/
namespace Sys2Proof.Machine

variable {s t u v : State} {W V : Nat → Prop} {b : Bool} {n : Nat}

/-! ### Records and staged images that are complete -/

theorem snapshotWritten_idle (h : s.mgmt.recording = false) : NoEffect .snapshotWritten s := if_pos (by simp [h])

theorem exec_snapshotWritten (h : s.mgmt.recording = true) : exec .snapshotWritten s =
    .next (when (s.mgmt.cmd == 2) (mgtDone Code.DONE) { s with mgmt := { s.mgmt with recording := false } }) := if_neg (by simp [h])

/-- SNAPSHOT_WRITTEN ends a record, and the command that asked for it. -/
theorem snapshotWritten_ends (hs : s.Sound) (h : s.mgmt.recording = true) : Ends .snapshotWritten s fun t => t.mgmt.recording = false ∧
    (s.mgmt.cmd = 2 → MgtDone t Code.DONE) ∧ KeepsAllBut IsCmdStatus s t := by
  have w : Within IsCmdStatus s { s with mgmt := { s.mgmt with recording := false } } := (Within.refl hs.regs).withMgmt
  by_cases hc : s.mgmt.cmd = 2
  · exact ⟨_, (exec_snapshotWritten h).trans (congrArg Host.Outcome.next (if_pos (by simp [hc]))), rfl, fun _ => mgtDone_done w.regsWf (by decide),
      (w.mgtDone rfl).keeps⟩
  · exact ⟨_, (exec_snapshotWritten h).trans (congrArg Host.Outcome.next (if_neg (by simp [hc]))), rfl, fun h => absurd h hc, w.keeps⟩

theorem fwSlot_mgtDone (code k : Nat) (s : State) : (mgtDone code s).fwSlot k = s.fwSlot k := rfl

theorem fwStageDone_idle (h : s.mgmt.cmd ≠ 5) (ok : Bool) : NoEffect (.fwStageDone ok) s := if_pos (.inl h)

section
variable (hs : s.Sound) (h5 : s.mgmt.cmd = 5) (hw : s.mgmt.mgtWait = none)
include h5 hw

/-- What FW_STAGE_DONE answers while an image is staged. -/
theorem exec_fwStageDone {ok : Bool} : exec (.fwStageDone ok) s =
    if ok && decide (s.fld Reg.MGT_STATUS F.MGT_STATUS_MIN_SVN ≤ s.mgmt.staging) then
      .next (mgtDone Code.DONE (setFwState 1 (setFwSlot s.idleSlot (some ⟨s.mgmt.staging, 0⟩) s)))
    else .next (mgtDone Code.REFUSED s) := if_neg (by simp [h5, hw])

include hs

/-- An image that verifies and whose security version is admitted fills the idle slot. -/
theorem fwStageDone_verified (h : s.fld Reg.MGT_STATUS F.MGT_STATUS_MIN_SVN ≤ s.mgmt.staging) : Ends (.fwStageDone true) s fun t =>
    MgtDone t Code.DONE ∧ t.fwState = 1 ∧ t.fwSlot s.idleSlot = some ⟨s.mgmt.staging, 0⟩ ∧ KeepsAllBut IsCmdStatus s t := by
  have w : Within IsCmdStatus s (setFwSlot s.idleSlot (some ⟨s.mgmt.staging, 0⟩) s) := (Within.refl hs.regs).withSlot
  have w2 := w.withFwState (v := 1) rfl
  refine ⟨_, (exec_fwStageDone h5 hw).trans (if_pos (by simp [h])), mgtDone_done w2.regsWf (by decide), ?_, ?_, (w2.mgtDone rfl).keeps⟩
  · rw [fwState_mgtDone w2.regsWf, fwState_setFwState w.regsWf (by decide)]
  · rw [fwSlot_mgtDone]
    exact fwSlot_setFwSlot_same ..

/-- An image that does not verify, or whose security version is too low, is refused. -/
theorem fwStageDone_refused {ok : Bool} (h : ¬ (ok = true ∧ s.fld Reg.MGT_STATUS F.MGT_STATUS_MIN_SVN ≤ s.mgmt.staging)) :
    Ends (.fwStageDone ok) s fun t => MgtDone t Code.REFUSED ∧ t.fwState = s.fwState ∧ KeepsAllBut IsCmdStatus s t :=
  ⟨_, (exec_fwStageDone h5 hw).trans (if_neg (by simpa using h)), mgtDone_done hs.regs (by decide), fwState_mgtDone hs.regs _,
    ((Within.refl (W := IsCmdStatus) hs.regs).mgtDone rfl).keeps⟩

end

/-! ### Registers that are changed all at once -/

/-- A listed value whose key is chosen is changed. -/
theorem Store.lookup_mapIf {β : Type} [DecidableEq β] {d : Nat → β} {m : Store β} (h : Store.Wf d m) (p : Nat → Bool) (f : Nat → β → β)
    (k : Nat) : Store.lookup d (Store.mapIf d p f m) k =
      if p k = true ∧ k ∈ m.map Prod.fst then f k (Store.lookup d m k) else Store.lookup d m k := by
  suffices ∀ (l acc : Store β), Store.Wf d l → Store.Wf d acc →
      Store.lookup d (l.foldl (fun acc e => if p e.1 then Store.update d acc e.1 (f e.1 e.2) else acc) acc) k =
        if p k = true ∧ k ∈ l.map Prod.fst then f k (Store.lookup d l k) else Store.lookup d acc k from this m m h h
  intro l
  induction l with
  | nil => simp
  | cons e l ih =>
    intro acc hl hacc
    obtain ⟨hl', hlt, -⟩ := Store.wf_cons hl
    have hlook : Store.lookup d (if p e.1 then Store.update d acc e.1 (f e.1 e.2) else acc) k =
        if p e.1 = true ∧ k = e.1 then f e.1 e.2 else Store.lookup d acc k := by
      by_cases hp : p e.1 <;> simp [hp, Store.lookup_update hacc]
    have hwf : Store.Wf d (if p e.1 then Store.update d acc e.1 (f e.1 e.2) else acc) := by
      split
      · exact Store.wf_update hacc _ _
      · exact hacc
    rw [List.foldl_cons, ih _ hl' hwf, hlook]
    by_cases hk : k = e.1
    · subst hk
      have hnot : e.1 ∉ l.map Prod.fst := fun hm => Nat.lt_irrefl _ (hlt _ hm)
      rw [if_neg fun hm => hnot hm.2]
      by_cases hp : p e.1 <;> simp [hp, Store.lookup]
    · simp only [List.map_cons, List.mem_cons, hk, false_or, and_false, if_false, Store.lookup]

/-- A register that is changed with others, by an operation that keeps its reset value. -/
theorem reg_mapRegs (h : s.RegsWf) {p : Nat → Bool} {f : Nat → Word → Word} {a : Nat} (hf : f a (resetValue a) = resetValue a) :
    (mapRegs p f s).reg a = if p a then f a (s.reg a) else s.reg a := by
  show Store.lookup resetValue (Store.mapIf resetValue p f s.regs) a = _
  rw [Store.lookup_mapIf h]
  by_cases hp : p a
  · by_cases hm : a ∈ s.regs.map Prod.fst
    · rw [if_pos ⟨hp, hm⟩, if_pos hp]
      rfl
    · have hlook (m : Store Word) (hm : a ∉ m.map Prod.fst) : Store.lookup resetValue m a = resetValue a := by
        induction m with
        | nil => rfl
        | cons e m ih =>
          simp only [List.map_cons, List.mem_cons, not_or] at hm
          simp [Store.lookup, hm.1, ih hm.2]
      have hr : s.reg a = resetValue a := hlook _ hm
      rw [if_neg fun h => hm h.2, if_pos hp, hr, hf]
      exact hr
  · rw [if_neg fun h => hp h.1, if_neg hp]
    rfl

theorem Within.mapRegs {p : Nat → Bool} {f : Nat → Word → Word} (h : Within W s t) (hp : ∀ a, p a = true → W a) :
    Within W s (Machine.mapRegs p f t) := by
  refine ⟨RegsWf_mapRegs h.regsWf p f, fun a ha => ?_, h.keeps.2⟩
  rw [← h.reg ha]
  show Store.lookup resetValue (Store.mapIf resetValue p f t.regs) a = Store.lookup resetValue t.regs a
  rw [Store.lookup_mapIf h.regsWf, if_neg fun hm => ha (hp a hm.1)]

/-! ### HANDOVER_BEGIN -/

/-- The registers that a hand-over writes. -/
abbrev IsHandoverReg (a : Nat) : Prop := a = Reg.MGT_CMD_STATUS ∨ a = Reg.MGT_STATUS ∨ ∃ c, a = Reg.Q_STATUS c

/-- Whether an offset is that of a queue's status. -/
def isQueueStatus (off : Nat) : Bool := decide (Reg.Q_STATUS 0 ≤ off) && (off - Reg.Q_STATUS 0) % 0x1000 == 0

/-- A running queue's status, held. -/
def heldStatus (w : Word) : Word := if w.get F.Q_STATUS_STATE = QState.RUNNING then w.put F.Q_STATUS_STATE QState.HELD else w

theorem isQueueStatus_self (c : Nat) : isQueueStatus (Reg.Q_STATUS c) = true := by simp [isQueueStatus, Reg.Q_STATUS]
theorem eq_of_isQueueStatus {a : Nat} (h : isQueueStatus a = true) : ∃ c, a = Reg.Q_STATUS c := by
  simp only [isQueueStatus, Reg.Q_STATUS, mul_zero, add_zero, Bool.and_eq_true, decide_eq_true_eq, beq_iff_eq] at h
  exact ⟨(a - Reg.Q_STATUS 0) / 0x1000, by unfold Reg.Q_STATUS; omega⟩

/-- All running queues are held. -/
def holdQueues (s : State) : State := mapRegs isQueueStatus (fun _ => heldStatus) s

theorem qState_holdQueues (h : s.RegsWf) {c : Nat} (hc : c < 4096) :
    (holdQueues s).qState c = if s.qState c = QState.RUNNING then QState.HELD else s.qState c := by
  have hreset : heldStatus (resetValue (Reg.Q_STATUS c)) = resetValue (Reg.Q_STATUS c) := by
    rw [resetValue_Q_STATUS hc]; decide
  unfold State.qState State.fld holdQueues
  rw [reg_mapRegs h hreset, if_pos (isQueueStatus_self c), heldStatus]
  split
  · exact Word.get_put_same _ (by decide) _
  · rfl

theorem handoverBegin_idle (h : ¬ (s.fwState = 2 ∧ s.fld Reg.MGT_CMD_STATUS F.MGT_CMD_STATUS_WAIT = 0)) : NoEffect .handoverBegin s :=
  if_pos (not_and_or.mp h)

theorem Within.holdQueues (h : Within IsHandoverReg s t) : Within IsHandoverReg s (Machine.holdQueues t) :=
  h.mapRegs fun _ ha => .inr (.inr (eq_of_isQueueStatus ha))

theorem fld_holdQueues {a : Nat} (h : s.RegsWf) (ha : ∀ c, a ≠ Reg.Q_STATUS c) (f : Fld) : (holdQueues s).fld a f = s.fld a f :=
  ((Within.refl (W := fun a => ∃ c, a = Reg.Q_STATUS c) h).mapRegs fun _ => eq_of_isQueueStatus).fld (fun ⟨c, hc⟩ => ha c hc) f

theorem cmdStatus_ne_queueStatus (c : Nat) : Reg.MGT_CMD_STATUS ≠ Reg.Q_STATUS c := by unfold Reg.MGT_CMD_STATUS Reg.Q_STATUS; omega
theorem mgtStatus_ne_queueStatus (c : Nat) : Reg.MGT_STATUS ≠ Reg.Q_STATUS c := by unfold Reg.MGT_STATUS Reg.Q_STATUS; omega

/-- HANDOVER_BEGIN holds the running queues. -/
theorem handoverBegin_ends (hs : s.Sound) (h : s.fwState = 2 ∧ s.fld Reg.MGT_CMD_STATUS F.MGT_CMD_STATUS_WAIT = 0) :
    Ends .handoverBegin s fun t => t.fwState = 3 ∧ t.fld Reg.MGT_STATUS F.MGT_STATUS_STATE = 2 ∧
      (∀ c, c < 4096 → t.qState c = if s.qState c = QState.RUNNING then QState.HELD else s.qState c) ∧ KeepsAllBut IsHandoverReg s t := by
  have w1 : Within IsHandoverReg s (setFwState 3 s) := (Within.refl hs.regs).withFwState (.inl rfl)
  have w2 := w1.put (off := Reg.MGT_STATUS) (f := F.MGT_STATUS_STATE) (x := 2) (.inr (.inl rfl))
  have wq : Within (fun a => a = Reg.MGT_CMD_STATUS ∨ a = Reg.MGT_STATUS) s (put Reg.MGT_STATUS F.MGT_STATUS_STATE 2 (setFwState 3 s)) :=
    ((Within.refl hs.regs).withFwState (.inl rfl)).put (.inr rfl)
  refine ⟨holdQueues (put Reg.MGT_STATUS F.MGT_STATUS_STATE 2 (setFwState 3 s)), if_neg (by simp [h]), ?_, ?_, fun c hc => ?_,
    w2.holdQueues.keeps⟩
  · rw [State.fwState, fld_holdQueues w2.regsWf cmdStatus_ne_queueStatus, fld_put_ne w1.regsWf _ _ _ (by decide)]
    exact fwState_setFwState hs.regs (by decide)
  · rw [fld_holdQueues w2.regsWf mgtStatus_ne_queueStatus, fld_put_same w1.regsWf _ (by decide)]
    rfl
  · have hq : (put Reg.MGT_STATUS F.MGT_STATUS_STATE 2 (setFwState 3 s)).qState c = s.qState c :=
      wq.fld (not_or.mpr ⟨(cmdStatus_ne_queueStatus c).symm, (mgtStatus_ne_queueStatus c).symm⟩) _
    rw [qState_holdQueues w2.regsWf hc, hq]

/-! ### What a record of the ledger leaves -/

/-- `s` has seen at least `n` postings, and its fatal stop is `b`. -/
structure Stops (b : Bool) (n : Nat) (s : State) : Prop where
  regsWf : s.RegsWf
  fatal : s.fatal = b
  posted : n ≤ s.posted

namespace Stops

theorem setR {off x} (h : Stops b n s) (ho : off ≠ Reg.ERR_STATUS) : Stops b n (Machine.setR off x s) :=
  ⟨RegsWf_setR h.regsWf _ _, by rw [State.fatal, State.on, fld_setR_ne h.regsWf _ _ ho.symm]; exact h.fatal, h.posted⟩
theorem put {f x} (h : Stops b n s) (hf : f.Ok) (hg : f.Apart F.ERR_STATUS_FATAL_STOP) : Stops b n (Machine.put Reg.ERR_STATUS f x s) :=
  ⟨RegsWf_put h.regsWf _ _ _, by rw [State.fatal, State.on, fld_put_apart h.regsWf _ hf hg]; exact h.fatal, h.posted⟩
theorem raise {f} (h : Stops b n s) (hf : f.Ok) (hg : f.Apart F.ERR_STATUS_FATAL_STOP) : Stops b n (Machine.raise Reg.ERR_STATUS f s) := h.put hf hg
theorem ite {p : Prop} [Decidable p] (hs : Stops b n s) (ht : Stops b n t) : Stops b n (if p then s else t) := by
  split
  · exact hs
  · exact ht
theorem addCount {off k} (h : Stops b n s) (ho : off ≠ Reg.ERR_STATUS) : Stops b n (Machine.addCount off k s) :=
  .ite ((h.setR ho).setR ho) (h.setR ho)
theorem setWords {off ws} (h : Stops b n s) (ho : Reg.ERR_STATUS < off) : Stops b n (Machine.setWords off ws s) :=
  forEach_keeps (Stops b n) _ _ (fun _ _ _ ht => ht.setR (by omega)) _ h
theorem sendMsix {func vec} (h : Stops b n s) : Stops b n (Machine.sendMsix func vec s) := .ite { h with } (h.setR (by decide))

/-- A record counts a posting and leaves the fatal stop. -/
theorem record1 {p} (h : Stops b n s) : Stops b (n + 1) (Machine.record1 p s) := by
  unfold Machine.record1
  extract_lets ws wp full s1 s2 s3 s4 s5 s6 s7
  have h2 : Stops b (n + 1) s2 := .addCount ⟨h.regsWf, h.fatal, Nat.succ_le_succ h.posted⟩ (by decide)
  have h3 : Stops b (n + 1) s3 := .ite ((h2.raise (by decide) (by decide)).addCount (by decide))
    ((h2.setR (by decide)).setWords (by unfold Reg.ERR_STATUS Reg.ERR_ENTRY; omega))
  have h4 : Stops b (n + 1) s4 := h3.put (by decide) (by decide)
  have h5 : Stops b (n + 1) s5 := .ite h4 ((h4.setWords (by decide)).raise (by decide) (by decide))
  have h6 : Stops b (n + 1) s6 := .ite h5 ((h5.setWords (by decide)).raise (by decide) (by decide))
  have h7 : Stops b (n + 1) s7 := h6.raise (by cases p.sev <;> decide) (by cases p.sev <;> decide)
  exact .ite h6 (.ite h7.sendMsix h7)

theorem recordAll {k ps} (h : Stops b n s) : Stops b n (Machine.recordAll k ps s) := by
  induction k generalizing ps s with
  | zero => exact h
  | succ k ih =>
    cases ps with
    | nil => exact h
    | cons p ps => exact ih { h.record1 with posted := Nat.le_of_succ_le h.record1.posted }

end Stops

/-- A CORRECTED posting counts, and leaves the fatal stop. -/
theorem stops_postCorrected (h : s.RegsWf) (code : Nat) (unit : LUnit) (ctx dom : Option Nat) (detail : Nat) :
    Stops s.fatal (s.posted + 1) (postCorrected code unit ctx dom detail s) := by
  show Stops _ _ (recordAll 2 _ (record1 _ s))
  exact (Stops.record1 ⟨h, rfl, le_refl _⟩).recordAll

theorem mgmt_of_touches (h : Touches W s t) : t.mgmt = s.mgmt := by obtain ⟨⟨_, _, _, rfl⟩, -⟩ := h; rfl

/-! ### The end of a hand-over -/

/-- With nothing that has waited for a hand-over, its end runs nothing. -/
theorem runWaiting_of_none (reset : State → State) (hm : s.mgmt.mgtWait = none) (hc : s.mgmt.cfgWait = none) : runWaiting reset s = s := by
  have hmgmt : { s.mgmt with cfgWait := none, mgtWait := none } = s.mgmt := by
    generalize s.mgmt = m at *
    cases m
    simp_all
  unfold runWaiting
  simp only [hm, hc, hmgmt]

theorem queueStatus_inj {c d : Nat} (h : Reg.Q_STATUS c = Reg.Q_STATUS d) : c = d := by unfold Reg.Q_STATUS at h; omega

/-- Queues that are set to a state one after the other. -/
theorem qState_forEach_setQState (h : s.RegsWf) (l : List Nat) {x : Nat} (hx : x < 4) (c : Nat) :
    (forEach l (fun c => setQState c x) s).qState c = if c ∈ l then x else s.qState c := by
  induction l generalizing s with
  | nil => simp
  | cons d l ih =>
    rw [forEach_cons, ih (show (setQState d x s).RegsWf from RegsWf_put h _ _ _)]
    by_cases hl : c ∈ l
    · simp [hl]
    · rw [if_neg hl]
      by_cases hd : c = d
      · subst hd
        rw [if_pos (by simp)]
        exact (fld_put_same h _ (by decide) x).trans (Nat.mod_eq_of_lt hx)
      · rw [if_neg (by simp [hd, hl])]
        exact fld_put_ne h _ _ _ fun e => hd (queueStatus_inj e)

/-- A hand-over has ended: `fw` is FW_STATE, `code` the completion, the queues it held run where nothing else holds them, and what the
core remembers is as before. -/
structure HandoverEnded (fw code : Nat) (s t : State) : Prop where
  state : t.fld Reg.MGT_STATUS F.MGT_STATUS_STATE = 1
  completion : t.fld Reg.MGT_CMD_STATUS F.MGT_CMD_STATUS_FW_COMPLETION = code
  fwState : t.fwState = fw
  queues : ∀ c, c < 4096 → t.qState c = if s.qState c = QState.HELD ∧ s.ctxState c ≠ CtxState.QUARANTINED ∧ s.fatal = false then QState.RUNNING
    else s.qState c
  mgmt : t.mgmt = s.mgmt
  posted : t.posted = s.posted
  slot : t.fld Reg.MGT_STATUS F.MGT_STATUS_FW_SLOT = s.fld Reg.MGT_STATUS F.MGT_STATUS_FW_SLOT
  within : Within IsHandoverReg s t

/-- Under no hand-over only quarantine and a fatal stop hold a queue. -/
theorem mustHold_eq_false (h : s.handover = false) (c : Nat) :
    s.mustHold c = false ↔ s.ctxState c ≠ CtxState.QUARANTINED ∧ s.fatal = false := by
  simp [State.mustHold, h]

theorem Within.resumeQueues (h : Within IsHandoverReg s t) : Within IsHandoverReg s (Machine.resumeQueues t) :=
  h.forEach fun c _ _ w => w.put (.inr (.inr ⟨c, rfl⟩))

theorem fld_resumeQueues (h : s.RegsWf) {a : Nat} (ha : ∀ c, a ≠ Reg.Q_STATUS c) (f : Fld) : (Machine.resumeQueues s).fld a f = s.fld a f :=
  ((Within.refl (W := fun a => ∃ c, a = Reg.Q_STATUS c) h).forEach fun c _ _ w => w.put ⟨c, rfl⟩).fld (fun ⟨c, hc⟩ => ha c hc) f

theorem qState_resumeQueues (h : s.RegsWf) (hh : s.handover = false) {c : Nat} (hc : c < 4096) : (resumeQueues s).qState c =
    if s.qState c = QState.HELD ∧ s.ctxState c ≠ CtxState.QUARANTINED ∧ s.fatal = false then QState.RUNNING else s.qState c := by
  rw [resumeQueues, qState_forEach_setQState h _ (by decide)]
  simp [hc, mustHold_eq_false hh]

/-- The state before queues resume at the end of a hand-over. -/
def handedOver (fw code : Nat) (s : State) : State :=
  put Reg.MGT_STATUS F.MGT_STATUS_STATE 1 (put Reg.MGT_CMD_STATUS F.MGT_CMD_STATUS_FW_COMPLETION code (setFwState fw s))

/-- Setting the states of queues leaves what the core remembers, and the number of postings. -/
theorem forEach_setQState_keeps (l : List Nat) (x : Nat) (s : State) : (forEach l (fun c => setQState c x) s).mgmt = s.mgmt ∧
    (forEach l (fun c => setQState c x) s).posted = s.posted :=
  forEach_keeps (fun t => t.mgmt = s.mgmt ∧ t.posted = s.posted) (fun c => setQState c x) l (fun _ _ _ h => h) s ⟨rfl, rfl⟩

theorem mgmt_resumeQueues (s : State) : (resumeQueues s).mgmt = s.mgmt := by rw [resumeQueues, (forEach_setQState_keeps ..).1]
theorem posted_resumeQueues (s : State) : (resumeQueues s).posted = s.posted := by rw [resumeQueues, (forEach_setQState_keeps ..).2]

theorem endHandover_of_none (fw code : Nat) (hm : s.mgmt.mgtWait = none) (hc : s.mgmt.cfgWait = none) :
    endHandover wr fw code s = resumeQueues (handedOver fw code s) := by
  have h : (resumeQueues (handedOver fw code s)).mgmt = s.mgmt := mgmt_resumeQueues _
  unfold endHandover
  exact runWaiting_of_none _ (by rw [← handedOver, h, hm]) (by rw [← handedOver, h, hc])

/-- A hand-over ends, where no command has waited for its end. -/
theorem handoverEnded (hs : s.RegsWf) {fw code : Nat} (hfw : fw < 3) (hcode : code < 256) (hm : s.mgmt.mgtWait = none)
    (hc : s.mgmt.cfgWait = none) : HandoverEnded fw code s (endHandover wr fw code s) := by
  rw [endHandover_of_none fw code hm hc]
  have w1 : Within (fun a => a = Reg.MGT_CMD_STATUS ∨ a = Reg.MGT_STATUS) s (setFwState fw s) := (Within.refl hs).withFwState (.inl rfl)
  have w2 := w1.put (off := Reg.MGT_CMD_STATUS) (f := F.MGT_CMD_STATUS_FW_COMPLETION) (x := code) (.inl rfl)
  have w3 : Within (fun a => a = Reg.MGT_CMD_STATUS ∨ a = Reg.MGT_STATUS) s (handedOver fw code s) := w2.put (.inr rfl)
  have hfwState : (handedOver fw code s).fwState = fw := by
    rw [State.fwState, handedOver, fld_put_ne w2.regsWf _ _ _ (by decide), fld_put_apart w1.regsWf _ (by decide) (by decide)]
    exact fwState_setFwState hs (by omega)
  have hover : (handedOver fw code s).handover = false := by
    have : (handedOver fw code s).fwState ≠ 3 := by omega
    simpa [State.handover, State.fwState] using this
  have hctx (c : Nat) : (handedOver fw code s).ctxState c = s.ctxState c :=
    w3.fld (by unfold Reg.CTX_CTRL Reg.MGT_CMD_STATUS Reg.MGT_STATUS; omega) _
  have hq (c : Nat) : (handedOver fw code s).qState c = s.qState c :=
    w3.fld (not_or.mpr ⟨(cmdStatus_ne_queueStatus c).symm, (mgtStatus_ne_queueStatus c).symm⟩) _
  have hfatal : (handedOver fw code s).fatal = s.fatal := w3.on (by decide) _
  refine ⟨?_, ?_, ?_, fun c hc => ?_, mgmt_resumeQueues _, posted_resumeQueues _, ?_, (w3.mono fun a h => ?_).resumeQueues⟩
  · rw [fld_resumeQueues w3.regsWf mgtStatus_ne_queueStatus]
    exact fld_put_same w2.regsWf _ (by decide) _
  · rw [fld_resumeQueues w3.regsWf cmdStatus_ne_queueStatus, handedOver, fld_put_ne w2.regsWf _ _ _ (by decide),
      fld_put_same w1.regsWf _ (by decide)]
    exact Nat.mod_eq_of_lt hcode
  · rw [State.fwState, fld_resumeQueues w3.regsWf cmdStatus_ne_queueStatus]
    exact hfwState
  · rw [qState_resumeQueues w3.regsWf hover hc, hq, hctx, hfatal]
  · rw [fld_resumeQueues w3.regsWf mgtStatus_ne_queueStatus, handedOver, fld_put_apart w2.regsWf _ (by decide) (by decide),
      fld_put_ne w1.regsWf _ _ _ (by decide), setFwState, fld_put_ne hs _ _ _ (by decide)]
  · exact h.imp_right .inl

theorem handoverReady_idle (h : s.handover = false) : NoEffect .handoverReady s := if_pos (by simp [h])
theorem handoverTimeout_idle (h : s.handover = false) : NoEffect .handoverTimeout s := if_pos (by simp [h])

/-- The highest ACTIVE_SEQ of the two slots. -/
abbrev State.topSeq (s : State) : Nat := max ((s.mgmt.slot0.map (·.seq)).getD 0) ((s.mgmt.slot1.map (·.seq)).getD 0)

theorem waits_setFwSlot (k : Nat) (x : Option FwSlot) (s : State) : (setFwSlot k x s).mgmt.mgtWait = s.mgmt.mgtWait ∧
    (setFwSlot k x s).mgmt.cfgWait = s.mgmt.cfgWait := by
  unfold setFwSlot
  by_cases h : k = 0 <;> simp [h]

theorem Within.runSlot {k : Nat} (h : Within W s t) (hw : W Reg.MGT_STATUS) : Within W s (Machine.runSlot k t) := ((h.put hw).put hw).put hw

theorem slot_runSlot (h : s.RegsWf) {k : Nat} (hk : k ≤ 1) : (runSlot k s).fld Reg.MGT_STATUS F.MGT_STATUS_FW_SLOT = k := by
  have h1 := RegsWf_put h Reg.MGT_STATUS F.MGT_STATUS_FW_SVN (((s.fwSlot k).map (·.svn)).getD 0)
  rw [runSlot, fld_put_apart (RegsWf_put h1 _ _ _) _ (by decide) (by decide), fld_put_same h1 _ (by decide)]
  exact Nat.mod_eq_of_lt (Nat.lt_succ_of_le hk)

/-- A hand-over has ended as from a state that keeps the queues, contexts and the fatal stop of `s`. -/
theorem HandoverEnded.queues_of {fw code : Nat} (h : HandoverEnded fw code t u) (hq : ∀ c, t.qState c = s.qState c)
    (hctx : ∀ c, t.ctxState c = s.ctxState c) (hfatal : t.fatal = s.fatal) (c : Nat) (hc : c < 4096) : u.qState c =
      if s.qState c = QState.HELD ∧ s.ctxState c ≠ CtxState.QUARANTINED ∧ s.fatal = false then QState.RUNNING else s.qState c := by
  rw [h.queues c hc, hq, hctx, hfatal]

section
variable (hs : s.Sound) (hh : s.handover = true) (hm : s.mgmt.mgtWait = none) (hc : s.mgmt.cfgWait = none)
include hs hh hm hc

/-- HANDOVER_READY runs the slot of the new image, with the highest ACTIVE_SEQ. -/
theorem handoverReady_ends {x : FwSlot} (hx : s.fwSlot s.idleSlot = some x) : Ends .handoverReady s fun t =>
    (t.fld Reg.MGT_STATUS F.MGT_STATUS_STATE = 1 ∧ t.fld Reg.MGT_CMD_STATUS F.MGT_CMD_STATUS_FW_COMPLETION = Code.DONE ∧
      ∀ c, c < 4096 → t.qState c = if s.qState c = QState.HELD ∧ s.ctxState c ≠ CtxState.QUARANTINED ∧ s.fatal = false then QState.RUNNING
        else s.qState c) ∧
    t.fwState = 0 ∧ t.fld Reg.MGT_STATUS F.MGT_STATUS_FW_SLOT = s.idleSlot ∧ t.fwSlot s.idleSlot = some { x with seq := s.topSeq + 1 } ∧
    t.fwSlot (1 - s.idleSlot) = s.fwSlot (1 - s.idleSlot) ∧ KeepsAllBut IsHandoverReg s t := by
  have hk := idleSlot_le s
  obtain ⟨hwm, hwc⟩ := waits_setFwSlot s.idleSlot (some { x with seq := s.topSeq + 1 }) s
  have w1 : Within (fun a => a = Reg.MGT_STATUS) s (setFwSlot s.idleSlot (some { x with seq := s.topSeq + 1 }) s) := (Within.refl hs.regs).withSlot
  have w2 := w1.runSlot (k := s.idleSlot) rfl
  have he := handoverEnded w2.regsWf (fw := 0) (code := Code.DONE) (by decide) (by decide) (hwm.trans hm) (hwc.trans hc)
  have w3 := (w2.mono fun _ h => .inr (.inl h)).trans he.within
  have hslots (k : Nat) : (endHandover wr 0 Code.DONE (runSlot s.idleSlot (setFwSlot s.idleSlot (some { x with seq := s.topSeq + 1 }) s))).fwSlot k =
      (setFwSlot s.idleSlot (some { x with seq := s.topSeq + 1 }) s).fwSlot k := by
    unfold State.fwSlot
    rw [he.mgmt]
    rfl
  have hexec : exec .handoverReady s = .next (settle (endHandover wr 0 Code.DONE (runSlot s.idleSlot
      (setFwSlot s.idleSlot (some { x with seq := s.topSeq + 1 }) s)))) := by
    show execHandoverReady s = _
    unfold execHandoverReady
    rw [if_neg (by simp [hh])]
    simp only [hx]
    rfl
  rw [w3.settle hs] at hexec
  refine ⟨_, hexec, ⟨he.state, he.completion, he.queues_of (fun c => ?_) (fun c => ?_) ?_⟩, he.fwState, ?_, ?_, ?_, w3.keeps⟩
  · exact w2.fld (mgtStatus_ne_queueStatus c).symm _
  · exact w2.fld (by unfold Reg.CTX_CTRL Reg.MGT_STATUS; omega) _
  · exact w2.on (by decide) _
  · rw [he.slot, slot_runSlot w1.regsWf hk]
  · rw [hslots, fwSlot_setFwSlot_same]
  · rw [hslots, fwSlot_setFwSlot_other hk]

/-- HANDOVER_TIMEOUT keeps the running slot, and posts an entry. -/
theorem handoverTimeout_ends : Ends .handoverTimeout s fun t =>
    (t.fld Reg.MGT_STATUS F.MGT_STATUS_STATE = 1 ∧ t.fld Reg.MGT_CMD_STATUS F.MGT_CMD_STATUS_FW_COMPLETION = Code.TIMEOUT ∧
      ∀ c, c < 4096 → t.qState c = if s.qState c = QState.HELD ∧ s.ctxState c ≠ CtxState.QUARANTINED ∧ s.fatal = false then QState.RUNNING
        else s.qState c) ∧
    t.fwState = 1 ∧ t.mgmt.slot0 = s.mgmt.slot0 ∧ t.mgmt.slot1 = s.mgmt.slot1 ∧ Posts s t ∧
    KeepsAllBut (fun a => IsHandoverReg a ∨ IsLedger a) s t := by
  have ht := touches_postCorrected 0x00C4 .mgt none none Code.TIMEOUT s
  have hstop := stops_postCorrected hs.regs 0x00C4 .mgt none none Code.TIMEOUT
  have hmgmt := mgmt_of_touches ht
  have w1 := (Within.refl hs.regs).touches ht
  have he := handoverEnded w1.regsWf (fw := 1) (code := Code.TIMEOUT) (by decide) (by decide) (by rw [hmgmt, hm]) (by rw [hmgmt, hc])
  have w2 := (w1.mono fun _ => .inr).trans (he.within.mono (V := fun a => IsHandoverReg a ∨ IsLedger a) fun _ => .inl)
  have hexec : exec .handoverTimeout s = .next (settle (endHandover wr 1 Code.TIMEOUT (postCorrected 0x00C4 .mgt none none Code.TIMEOUT s))) :=
    if_neg (by simp [hh])
  rw [w2.settle hs] at hexec
  refine ⟨_, hexec, ⟨he.state, he.completion, he.queues_of (fun c => ?_) (fun c => ?_) hstop.fatal⟩, he.fwState, ?_, ?_, ?_, w2.keeps⟩
  · exact w1.fld (by unfold IsLedger Reg.Q_STATUS; omega) _
  · exact w1.fld (by unfold IsLedger Reg.CTX_CTRL; omega) _
  · rw [he.mgmt, hmgmt]
  · rw [he.mgmt, hmgmt]
  · rw [Posts, he.posted]
    exact hstop.posted

end

end Sys2Proof.Machine
end

section
/-! The configuration store, and the commands of the management core together. -/
namespace Sys2Proof.Machine

variable {s t u v : State} {W V : Nat → Prop}

/-! ### CFG WRITE -/

/-- The one register of the configuration store that its commands write. -/
abbrev IsCfgStatus (a : Nat) : Prop := a = Reg.CFG_STATUS

theorem Within.cfgDone {code : Nat} (h : Within W s t) (hw : W Reg.CFG_STATUS) : Within W s (Machine.cfgDone code t) := (h.put hw).put hw
theorem Within.withImage {k : Nat} {x : Option CfgImage} (h : Within W s t) : Within W s (setCfgImage k x t) := h.withMgmt

/-- A CFG command that has completed shows its code, and is not busy. -/
theorem cfgDone_done (h : t.RegsWf) {code : Nat} (hc : code < 256) : (cfgDone code t).fld Reg.CFG_STATUS F.CFG_STATUS_COMPLETION = code ∧
    (cfgDone code t).on Reg.CFG_STATUS F.CFG_STATUS_WRITE_BUSY = false := by
  have h1 := RegsWf_put h Reg.CFG_STATUS F.CFG_STATUS_WRITE_BUSY 0
  refine ⟨?_, ?_⟩
  · rw [cfgDone, fld_put_same h1 _ (by decide)]
    exact Nat.mod_eq_of_lt hc
  · rw [State.on, cfgDone, fld_put_apart h1 _ (by decide) (by decide), fld_put_same h _ (by decide)]
    rfl

theorem on_raise_same (h : s.RegsWf) (off : Nat) {f : Fld} (hf : f.Ok) : (raise off f s).on off f = true := by
  simp [State.on, fld_raise_same h off hf]

theorem mgmt_cfgDone (code : Nat) (s : State) : (cfgDone code s).mgmt = s.mgmt := rfl

/-- What an image is set to, and that the other stays. -/
theorem mgmt_setCfgImage (k : Nat) (x : Option CfgImage) (s : State) :
    if k = 0 then (setCfgImage k x s).mgmt.imgA = x ∧ (setCfgImage k x s).mgmt.imgB = s.mgmt.imgB
    else (setCfgImage k x s).mgmt.imgB = x ∧ (setCfgImage k x s).mgmt.imgA = s.mgmt.imgA := by
  unfold setCfgImage
  by_cases h : k = 0 <;> simp [h]

/-- The state in which the records `d` are to be written to the image not in use. -/
def beginImage (d : List Byte) (s : State) : State :=
  let t := setCfgImage s.spareImage none (raise Reg.CFG_STATUS F.CFG_STATUS_WRITE_BUSY s)
  { t with mgmt := { t.mgmt with writing := d } }

theorem within_beginImage (h : s.RegsWf) (d : List Byte) : Within IsCfgStatus s (beginImage d s) := by
  have w : Within IsCfgStatus s (raise Reg.CFG_STATUS F.CFG_STATUS_WRITE_BUSY s) := (Within.refl h).raise rfl
  exact w.withImage.withMgmt

theorem busy_beginImage (h : s.RegsWf) (d : List Byte) : (beginImage d s).on Reg.CFG_STATUS F.CFG_STATUS_WRITE_BUSY = true :=
  on_raise_same h Reg.CFG_STATUS (f := F.CFG_STATUS_WRITE_BUSY) (by decide)

theorem images_beginImage (d : List Byte) (s : State) :
    if s.spareImage = 0 then (beginImage d s).mgmt.imgA = none ∧ (beginImage d s).mgmt.imgB = s.mgmt.imgB
    else (beginImage d s).mgmt.imgB = none ∧ (beginImage d s).mgmt.imgA = s.mgmt.imgA :=
  mgmt_setCfgImage s.spareImage none (raise Reg.CFG_STATUS F.CFG_STATUS_WRITE_BUSY s)

theorem cfgBegin_of_read {n : Nat} {d : List Byte} (h8 : n % 8 = 0) (hn : n ≤ 262072)
    (hr : mgtRead (s.fld Reg.CFG_SRC F.CFG_SRC_ADDR * 64) n s = (u, .ok d)) : cfgBegin n s = beginImage d u := by
  unfold cfgBegin
  rw [if_neg (by omega)]
  simp only [hr]
  rfl

theorem cfgWrite_recovery (h : s.recovery = true) (len : BitVec 32) : NoEffect (.cfgWrite len) s :=
  congrArg Host.Outcome.next (if_pos h)

/-- A CFG_WRITE ends where it has run, if it leaves memory. -/
theorem exec_cfgWrite {len : BitVec 32} (hs : s.Sound) (hr : s.recovery = false) (ht : cfgWrite len.toNat s = t) (hp : t.path.owed = s.path.owed) :
    exec (.cfgWrite len) s = .next t := by
  show Host.Outcome.next (if s.recovery then s else settle (cfgWrite len.toNat s)) = _
  rw [if_neg (by simp [hr]), ht, settle_of_nothing_owed (hp.trans hs.owed)]

theorem cfgWrite_begins {len : BitVec 32} (hb : s.on Reg.CFG_STATUS F.CFG_STATUS_WRITE_BUSY = false) (hh : s.handover = false) :
    cfgWrite len.toNat s = cfgBegin len.toNat s := by
  rw [cfgWrite, if_neg (by simp [hb]), if_neg (by simp [hh])]

section
variable {len : BitVec 32} (hs : s.Sound) (hr : s.recovery = false)
include hs hr

theorem cfgWrite_busy (h : s.on Reg.CFG_STATUS F.CFG_STATUS_WRITE_BUSY = true) : Ignores (.cfgWrite len) s Reg.CFG_STATUS F.CFG_STATUS_BAD_WRITE :=
  ignores_of_eq_badWrite (off := Reg.CFG_CMD) hs (exec_cfgWrite hs hr (if_pos h) rfl) rfl

variable (hb : s.on Reg.CFG_STATUS F.CFG_STATUS_WRITE_BUSY = false)
include hb

/-- A CFG_WRITE during a hand-over waits. -/
theorem cfgWrite_handover (hh : s.handover = true) : Ends (.cfgWrite len) s fun t => t.on Reg.CFG_STATUS F.CFG_STATUS_WRITE_BUSY = true ∧
    t.mgmt = { s.mgmt with cfgWait := some len.toNat } ∧ KeepsAllBut IsCfgStatus s t := by
  have w : Within IsCfgStatus s { s with mgmt := { s.mgmt with cfgWait := some len.toNat } } := (Within.refl hs.regs).withMgmt
  have hrun : cfgWrite len.toNat s = raise Reg.CFG_STATUS F.CFG_STATUS_WRITE_BUSY { s with mgmt := { s.mgmt with cfgWait := some len.toNat } } := by
    rw [cfgWrite, if_neg (by simp [hb]), if_pos hh]
  exact ⟨_, exec_cfgWrite hs hr hrun rfl, on_raise_same w.regsWf _ (by decide), rfl, (w.raise rfl).keeps⟩

/-- A CFG_WRITE of an odd length, or of too many bytes, is refused. -/
theorem cfgWrite_refused (hh : s.handover = false) (h : len.toNat % 8 ≠ 0 ∨ 262072 < len.toNat) : Ends (.cfgWrite len) s fun t =>
    t.fld Reg.CFG_STATUS F.CFG_STATUS_COMPLETION = Code.REFUSED ∧ t.on Reg.CFG_STATUS F.CFG_STATUS_WRITE_BUSY = false ∧
    KeepsAllBut IsCfgStatus s t := by
  have w : Within IsCfgStatus s (cfgDone Code.REFUSED s) := (Within.refl hs.regs).cfgDone rfl
  obtain ⟨hcode, hidle⟩ := cfgDone_done hs.regs (code := Code.REFUSED) (by decide)
  exact ⟨_, exec_cfgWrite hs hr ((cfgWrite_begins hb hh).trans (if_pos h)) (by rw [w.path]), hcode, hidle, w.keeps⟩

/-- A CFG_WRITE reads the records, and the image not in use is invalid until they are written. -/
theorem cfgWrite_reads (hh : s.handover = false) (h8 : len.toNat % 8 = 0) (hn : len.toNat ≤ 262072)
    (hst : s.Steady [(s.fld Reg.CFG_SRC F.CFG_SRC_ADDR * 64, len.toNat)]) : Ends (.cfgWrite len) s fun t =>
    t.on Reg.CFG_STATUS F.CFG_STATUS_WRITE_BUSY = true ∧ t.mgmt.writing = s.hbmBytes (s.fld Reg.CFG_SRC F.CFG_SRC_ADDR * 64) len.toNat ∧
    (s.spareImage = 0 → t.mgmt.imgA = none ∧ t.mgmt.imgB = s.mgmt.imgB) ∧
    (s.spareImage = 1 → t.mgmt.imgB = none ∧ t.mgmt.imgA = s.mgmt.imgA) ∧ KeepsData (fun a => a = Reg.CFG_STATUS ∨ IsHitMiss a) s t := by
  have w : Within IsCfgStatus s s := Within.refl hs.regs
  obtain ⟨u, hread, hu⟩ := mgtRead_steady (Within.refl hs.regs) hst
  have hrun := (cfgWrite_begins hb hh).trans (cfgBegin_of_read h8 hn hread)
  have hend := within_beginImage hu.regsWf (s.hbmBytes (s.fld Reg.CFG_SRC F.CFG_SRC_ADDR * 64) len.toNat)
  have hspare : u.spareImage = s.spareImage := by
    have hf := hu.fld (not_isHitMiss_of_lt (show Reg.CFG_STATUS < 0x1C0000 by decide))
    unfold State.spareImage State.on
    rw [hf F.CFG_STATUS_CFG_DEFAULTED, hf F.CFG_STATUS_ACTIVE_IMG]
  have himg := images_beginImage (s.hbmBytes (s.fld Reg.CFG_SRC F.CFG_SRC_ADDR * 64) len.toNat) u
  rw [hspare, hu.mgmt] at himg
  refine ⟨_, exec_cfgWrite hs hr hrun (owed_of_read w hu hend), busy_beginImage hu.regsWf _, rfl, fun h => ?_, fun h => ?_,
    keepsData_of_read w hu hend⟩
  · rwa [if_pos h] at himg
  · rwa [if_neg (by omega)] at himg

end

theorem cfgWriteDone_idle (h : s.on Reg.CFG_STATUS F.CFG_STATUS_WRITE_BUSY = false) (ok : Bool) : NoEffect (.cfgWriteDone ok) s :=
  if_pos (.inl (by simp [h]))

/-- CFG_WRITE_DONE writes the image not in use, or leaves it invalid. -/
theorem cfgWriteDone_ends (hs : s.Sound) (hb : s.on Reg.CFG_STATUS F.CFG_STATUS_WRITE_BUSY = true) (hw : s.mgmt.cfgWait = none) (ok : Bool) :
    Ends (.cfgWriteDone ok) s fun t =>
      let image : Option CfgImage := if ok then some ⟨s.cfgSeq + 1, s.mgmt.writing⟩ else none
      t.fld Reg.CFG_STATUS F.CFG_STATUS_COMPLETION = (if ok then Code.DONE else Code.REFUSED) ∧
      t.on Reg.CFG_STATUS F.CFG_STATUS_WRITE_BUSY = false ∧
      (if s.spareImage = 0 then t.mgmt.imgA = image ∧ t.mgmt.imgB = s.mgmt.imgB else t.mgmt.imgB = image ∧ t.mgmt.imgA = s.mgmt.imgA) ∧
      KeepsAllBut IsCfgStatus s t := by
  have ends (image : Option CfgImage) (code : Nat) (hcode : code < 256)
      (hexec : exec (.cfgWriteDone ok) s = .next (cfgDone code (setCfgImage s.spareImage image s))) : Ends (.cfgWriteDone ok) s fun t =>
        t.fld Reg.CFG_STATUS F.CFG_STATUS_COMPLETION = code ∧ t.on Reg.CFG_STATUS F.CFG_STATUS_WRITE_BUSY = false ∧
        (if s.spareImage = 0 then t.mgmt.imgA = image ∧ t.mgmt.imgB = s.mgmt.imgB else t.mgmt.imgB = image ∧ t.mgmt.imgA = s.mgmt.imgA) ∧
        KeepsAllBut IsCfgStatus s t := by
    have w : Within IsCfgStatus s (setCfgImage s.spareImage image s) := (Within.refl hs.regs).withImage
    obtain ⟨h1, h2⟩ := cfgDone_done w.regsWf hcode
    exact ⟨_, hexec, h1, h2, mgmt_setCfgImage s.spareImage image s, (w.cfgDone rfl).keeps⟩
  have hbusy : ¬ ((!s.on Reg.CFG_STATUS F.CFG_STATUS_WRITE_BUSY) = true ∨ s.mgmt.cfgWait.isSome = true) := by simp [hb, hw]
  cases ok
  · exact ends none Code.REFUSED (by decide) ((if_neg hbusy).trans (if_neg (by decide)))
  · exact ends _ Code.DONE (by decide) ((if_neg hbusy).trans (if_pos rfl))

/-! ### All commands -/

/-- Settles O57: each command has its own lemma; none needs another's. -/
theorem managementCommands : Obligations.ManagementCommands := by
  intro s len hs
  refine ⟨fun hb => mgtRow_busy hs (by simpa using hb), fun hi hh => mgtRow_handover hs hi hh, fun hi hh hr => ?_, fun hi hh hr => ?_,
    snapshotWritten_idle, snapshotWritten_ends hs, fwStageDone_idle, fun h5 hw => ⟨fwStageDone_verified hs h5 hw, fun h => ?_, ?_⟩,
    ⟨handoverBegin_idle, handoverBegin_ends hs⟩, fun h => ⟨handoverReady_idle h, handoverTimeout_idle h⟩,
    fun hh hm hc => ⟨fun x hx => handoverReady_ends hs hh hm hc hx, handoverTimeout_ends hs hh hm hc⟩, fun hb hr => cfgWrite_busy hs hr hb,
    fun hr => cfgWrite_recovery hr len, fun hb hr => ⟨cfgWrite_handover hs hr hb, cfgWrite_refused hs hr hb, cfgWrite_reads hs hr hb⟩,
    cfgWriteDone_ends hs, cfgWriteDone_idle⟩
  · have refused (c : Instr) (cmd : Nat) (hm : (c, cmd) ∈ mgtRows) (h4 : cmd ≠ 4) (h5 : cmd ≠ 5) := mgtRow_recovery hm h4 h5 hs hi hh hr
    simp only [List.forall_mem_cons, List.not_mem_nil, false_implies, implies_true, and_true]
    exact ⟨refused _ 1 (by simp [mgtRows]) (by decide) (by decide), refused _ 2 (by simp [mgtRows]) (by decide) (by decide),
      refused _ 3 (by simp [mgtRows]) (by decide) (by decide), refused _ 6 (by simp [mgtRows]) (by decide) (by decide)⟩
  · have ready : s.MgtReady := ⟨hs, hi, hh, hr⟩
    refine ⟨clearCounters_ends ready, snapshot_recording ready, snapshot_begins ready, ⟨sign_badArgs ready, fun hok hst => ⟨?_, ?_⟩⟩,
      fwStage_refused ready, fun h2 h3 hn => fwStage_begins ready (by omega), fwActivate_refused ready, fwActivate_deferred ready⟩
    · exact fun hj hd => sign_manifest ready hok hst rfl ⟨hj, hd⟩
    · exact fun h => sign_notManifest ready hok hst rfl fun hm => h.elim (absurd hm.1) (by simp [hm.2])
  · obtain ⟨t, ht, hdone, -, hk⟩ := fwStageDone_refused hs h5 hw (ok := true) (by simpa using h)
    exact ⟨t, ht, hdone, hk⟩
  · exact fwStageDone_refused hs h5 hw (by simp)

end Sys2Proof.Machine
end

section
/-! Die links (R41 to R46): the retry counter, the trim of a working signal, and a signal that fails. -/
namespace Sys2Proof.Machine

variable {s t : State} {W : Nat → Prop} {g : Signal}

/-! ### Signals and bundles -/

theorem signal_setSignal (h : Store.Wf (fun _ => SignalState.init) s.signals) (g : Signal) (x : SignalState) (k : Signal) :
    (setSignal g x s).signal k = if sigKey k = sigKey g then x else s.signal k := Store.lookup_update h ..

theorem bundle_setBundle_same (h : Store.Wf (fun _ => BundleState.init) s.bundles) (g : Signal) (b : BundleState) :
    (setBundle g b s).bundle g = b := (Store.lookup_update h ..).trans (if_pos rfl)

theorem Within.withSignal {x : SignalState} (h : Within W s t) : Within W s (setSignal g x t) := ⟨h.regsWf, h.keeps⟩
theorem Within.withBundle {b : BundleState} (h : Within W s t) : Within W s (setBundle g b t) := ⟨h.regsWf, h.keeps⟩

theorem Touches.signal (h : Touches W s t) (g : Signal) : t.signal g = s.signal g := by obtain ⟨⟨_, _, _, rfl⟩, -⟩ := h; rfl
theorem Touches.bundle (h : Touches W s t) (g : Signal) : t.bundle g = s.bundle g := by obtain ⟨⟨_, _, _, rfl⟩, -⟩ := h; rfl

/-- A signal that is tracked and may be declared failed: its link has its bundle, and neither has failed. -/
structure State.Working (s : State) (g : Signal) : Prop where
  hasBundle : g.link.val = 4 → g.bundle.val < 128
  notFailed : (s.signal g).failed = false
  notDisabled : (s.bundle g).disabled = false

theorem State.Working.sigExists (h : s.Working g) : sigExists g = true := by
  have hlink := g.link.isLt
  have hbundle := h.hasBundle
  simp only [Machine.sigExists, Bool.or_eq_true, decide_eq_true_eq]
  omega

/-! ### FLIT_RETRY -/

theorem flitRetry_ends (hs : s.RegsWf) {l : Fin 5} (h : s.fld (Reg.FLR_LINK_RETRY l.val) ⟨47, 0⟩ < 0xFFFFFFFFFFFF) :
    Ends (.flitRetry l) s fun t =>
      t.fld (Reg.FLR_LINK_RETRY l.val) ⟨47, 0⟩ = s.fld (Reg.FLR_LINK_RETRY l.val) ⟨47, 0⟩ + 1 ∧
      KeepsAllBut (fun a => a = Reg.FLR_LINK_RETRY l.val) s t := by
  have w : Within (fun a => a = Reg.FLR_LINK_RETRY l.val) s
      (put (Reg.FLR_LINK_RETRY l.val) ⟨47, 0⟩ (s.fld (Reg.FLR_LINK_RETRY l.val) ⟨47, 0⟩ + 1) s) := (Within.refl hs).put rfl
  refine ⟨_, congrArg Host.Outcome.next (bump_of_below h), ?_, w.keeps⟩
  rw [fld_put_same hs _ (by decide)]
  exact Nat.mod_eq_of_lt (show _ < 2 ^ 48 by omega)

/-! ### TRIM_TRACK -/

/-- Of all that statements speak of, `t` differs from `s` at most in the signal `g`, which is `x` there. -/
structure SetsSignal (g : Signal) (x : SignalState) (s t : State) : Prop where
  same : t.signal g = x
  others : ∀ k, sigKey k ≠ sigKey g → t.signal k = s.signal k
  signalsWf : Store.Wf (fun _ => SignalState.init) t.signals
  within : Within (fun _ => False) s t

theorem setsSignal_refl (hs : s.Sound) (g : Signal) : SetsSignal g (s.signal g) s s :=
  ⟨rfl, fun _ _ => rfl, hs.signals, Within.refl hs.regs⟩

theorem SetsSignal.set {x : SignalState} (h : SetsSignal g x s t) (y : SignalState) : SetsSignal g y s (setSignal g y t) where
  same := (signal_setSignal h.signalsWf ..).trans (if_pos rfl)
  others k hk := (signal_setSignal h.signalsWf ..).trans ((if_neg hk).trans (h.others k hk))
  signalsWf := Store.wf_update h.signalsWf _ _
  within := h.within.withSignal

/-- Where one of two settings is due, the first that is due is made. -/
theorem SetsSignal.setOne {p q : Prop} [Decidable p] [Decidable q] {x y z : SignalState} {u : State} (h : SetsSignal g x s t) (hpq : p ∨ q) :
    SetsSignal g (if p then y else z) s (if p then setSignal g y t else if q then setSignal g z t else u) := by
  by_cases hp : p
  · rw [if_pos hp, if_pos hp]
    exact h.set y
  · rw [if_neg hp, if_neg hp, if_pos (hpq.resolve_left hp)]
    exact h.set z

/-- A trim after a move of one fine step: a fine trim at its end starts again at the middle of the next coarse step. -/
def movedTrim (x : SignalState) : TrimMove → SignalState
  | .stay => x
  | .up => if x.fine < 63 then { x with fine := x.fine + 1 } else { x with fine := 31, coarse := x.coarse + 1 }
  | .down => if 0 < x.fine then { x with fine := x.fine - 1 } else { x with fine := 32, coarse := x.coarse - 1 }

/-- TRIM_TRACK of a working signal whose coarse trim stays in its range. -/
theorem trimTrack_ends (hs : s.Sound) (hg : s.Working g) (mv : TrimMove) (m : BitVec 8)
    (hup : mv = .up → (s.signal g).fine < 63 ∨ (s.signal g).coarse < 3)
    (hdown : mv = .down → 0 < (s.signal g).fine ∨ 0 < (s.signal g).coarse) :
    Ends (.trimTrack g mv m) s (SetsSignal g (movedTrim { s.signal g with margin := m.toNat } mv) s) := by
  have sampled := (setsSignal_refl hs g).set { s.signal g with margin := m.toNat }
  have hexec : exec (.trimTrack g mv m) s = _ := if_neg (by simp [hg.sigExists, hg.notFailed, hg.notDisabled])
  rw [sampled.same] at hexec
  refine ⟨_, hexec, ?_⟩
  cases mv with
  | stay => exact sampled
  | up => exact sampled.setOne (hup rfl)
  | down => exact sampled.setOne (hdown rfl)

/-! ### SIGNAL_FAILED -/

/-- What declaring signal `g` failed does, repaired or not: the signal and its bundle become `x` and `b`, field `f` of the link's
status becomes `n`, `flag` is set, and an entry is posted. -/
def declareFailed (g : Signal) (x : SignalState) (b : BundleState) (f : Fld) (n code : Nat) (flag : Fld) (s : State) : State :=
  postCorrected code .flr none none (signalDetail g)
    (raise Reg.FLR_STATUS flag (put (Reg.FLR_LINK_STATUS g.link.val) f n (setBundle g b (setSignal g x s))))

/-- A signal whose bundle has a free repair signal is steered onto it. -/
theorem failSignal_of_free (hg : s.Working g) (h : (s.bundle g).repairs < 2) : failSignal g s =
    declareFailed g { s.signal g with failed := true, repaired := true } { s.bundle g with repairs := (s.bundle g).repairs + 1 }
      F.FLR_LINK_STATUS_REPAIRS (s.fld (Reg.FLR_LINK_STATUS g.link.val) F.FLR_LINK_STATUS_REPAIRS + 1)
      0x0011 F.FLR_STATUS_REPAIR_USED s :=
  (if_neg (by simp [hg.sigExists, hg.notFailed, hg.notDisabled])).trans (if_pos h)

/-- A third failed signal disables its bundle, and the link is judged by its bundles that still work. -/
theorem failSignal_of_used (hg : s.Working g) (h : 2 ≤ (s.bundle g).repairs) : failSignal g s = checkLink g.link.val g.dir.val
    (declareFailed g { s.signal g with failed := true } { s.bundle g with disabled := true } (dirBundles g.dir.val)
      (s.fld (Reg.FLR_LINK_STATUS g.link.val) (dirBundles g.dir.val) - 1) 0x0012 F.FLR_STATUS_LINK_DEGRADED s) :=
  (if_neg (by simp [hg.sigExists, hg.notFailed, hg.notDisabled])).trans (if_neg (Nat.not_lt.mpr h))

theorem minBundles_succ (link : Nat) : minBundles link + 1 = if link < 4 then 225 else 113 := by
  unfold minBundles
  split <;> rfl

/-- A link with enough working bundles stays as it is. -/
theorem checkLink_of_enough {link dir : Nat} (h : minBundles link ≤ s.fld (Reg.FLR_LINK_STATUS link) (dirBundles dir)) :
    checkLink link dir s = s := if_neg (Nat.not_lt.mpr h)

/-- The registers that declaring a signal failed writes. -/
abbrev IsFailureReg (g : Signal) (a : Nat) : Prop := a = Reg.FLR_LINK_STATUS g.link.val ∨ a = Reg.FLR_STATUS ∨ IsLedger a

theorem linkStatus_ne_status (l : Nat) : Reg.FLR_LINK_STATUS l ≠ Reg.FLR_STATUS := by unfold Reg.FLR_LINK_STATUS Reg.FLR_STATUS; omega

theorem not_isLedger_linkStatus (l : Nat) : ¬ IsLedger (Reg.FLR_LINK_STATUS l) := by unfold IsLedger Reg.FLR_LINK_STATUS; omega

/-- A signal has been declared failed. -/
structure DeclaredFailed (g : Signal) (x : SignalState) (b : BundleState) (f : Fld) (n : Nat) (flag : Fld) (s t : State) : Prop where
  signal : t.signal g = x
  bundle : t.bundle g = b
  count : t.fld (Reg.FLR_LINK_STATUS g.link.val) f = n
  flag : t.on Reg.FLR_STATUS flag = true
  posts : Posts s t
  keeps : KeepsAllBut (IsFailureReg g) s t

theorem declaredFailed (hs : s.Sound) {x : SignalState} {b : BundleState} {f flag : Fld} {n : Nat} (code : Nat) (hf : f.Ok)
    (hflag : flag.Ok) (hn : n < 2 ^ f.width) : DeclaredFailed g x b f n flag s (declareFailed g x b f n code flag s) := by
  have hset : Within (IsFailureReg g) s (setBundle g b (setSignal g x s)) := (Within.refl hs.regs).withSignal.withBundle
  have hput := hset.put (off := Reg.FLR_LINK_STATUS g.link.val) (f := f) (x := n) (.inl rfl)
  have hraise := hput.raise (off := Reg.FLR_STATUS) (f := flag) (.inr (.inl rfl))
  have hpost := touches_postCorrected code .flr none none (signalDetail g)
    (raise Reg.FLR_STATUS flag (put (Reg.FLR_LINK_STATUS g.link.val) f n (setBundle g b (setSignal g x s))))
  refine ⟨?_, ?_, ?_, ?_, ?_, (hraise.touches (hpost.mono fun _ h => .inr (.inr h))).keeps⟩
  · rw [declareFailed, hpost.signal]
    exact (signal_setSignal hs.signals ..).trans (if_pos rfl)
  · rw [declareFailed, hpost.bundle]
    exact bundle_setBundle_same (s := setSignal g x s) hs.bundles g b
  · rw [declareFailed, hpost.fld hraise.regsWf (not_isLedger_linkStatus _), fld_raise_ne hput.regsWf _ _ (linkStatus_ne_status _),
      fld_put_same hset.regsWf _ hf]
    exact Nat.mod_eq_of_lt hn
  · rw [State.on, declareFailed, hpost.fld hraise.regsWf (by unfold IsLedger; decide)]
    exact on_raise_same hput.regsWf _ hflag
  · exact (stops_postCorrected hraise.regsWf code .flr none none (signalDetail g)).posted

theorem dirBundles_ok (dir : Nat) : (dirBundles dir).Ok := by
  unfold dirBundles
  split <;> decide

/-- SIGNAL_FAILED of a signal whose bundle has a free repair signal. -/
theorem signalFailed_repaired (hs : s.Sound) (hg : s.Working g) (h : (s.bundle g).repairs < 2)
    (hn : s.fld (Reg.FLR_LINK_STATUS g.link.val) F.FLR_LINK_STATUS_REPAIRS < 2047) : Ends (.signalFailed g) s
      (DeclaredFailed g { s.signal g with failed := true, repaired := true } { s.bundle g with repairs := (s.bundle g).repairs + 1 }
        F.FLR_LINK_STATUS_REPAIRS (s.fld (Reg.FLR_LINK_STATUS g.link.val) F.FLR_LINK_STATUS_REPAIRS + 1) F.FLR_STATUS_REPAIR_USED s) :=
  ⟨_, congrArg Host.Outcome.next (failSignal_of_free hg h),
    declaredFailed hs 0x0011 (by decide) (by decide) (Nat.succ_lt_succ hn)⟩

/-- SIGNAL_FAILED of a signal whose bundle has used both repairs, on a link that can spare the bundle. -/
theorem signalFailed_disables (hs : s.Sound) (hg : s.Working g) (h : 2 ≤ (s.bundle g).repairs)
    (hmin : minBundles g.link.val + 1 ≤ s.fld (Reg.FLR_LINK_STATUS g.link.val) (dirBundles g.dir.val)) : Ends (.signalFailed g) s
      (DeclaredFailed g { s.signal g with failed := true } { s.bundle g with disabled := true } (dirBundles g.dir.val)
        (s.fld (Reg.FLR_LINK_STATUS g.link.val) (dirBundles g.dir.val) - 1) F.FLR_STATUS_LINK_DEGRADED s) := by
  have hlt := Nat.lt_of_le_of_lt (Nat.sub_le _ 1) (Word.get_lt (s.reg (Reg.FLR_LINK_STATUS g.link.val)) (dirBundles g.dir.val))
  have hdone := declaredFailed (g := g) (x := { s.signal g with failed := true }) (b := { s.bundle g with disabled := true }) hs 0x0012
    (dirBundles_ok g.dir.val) (show F.FLR_STATUS_LINK_DEGRADED.Ok by decide) hlt
  refine ⟨_, congrArg Host.Outcome.next ((failSignal_of_used hg h).trans (checkLink_of_enough ?_)), hdone⟩
  exact (Nat.le_sub_of_add_le hmin).trans_eq hdone.count.symm

/-! ### All commands -/

/-- Settles O9: a retry counts below the counter's maximum, a tracked signal moves within its range, and a failed one is declared so
with the repair or the disabled bundle that its bundle's repairs leave. -/
theorem dieLinks : Obligations.DieLinks := by
  intro s hs
  refine ⟨fun l h => flitRetry_ends hs.regs h, fun g hbundle hfailed hdisabled => ?_⟩
  have hg : s.Working g := ⟨hbundle, hfailed, hdisabled⟩
  refine ⟨fun mv m => ?_, fun h hn => ?_, fun h hmin => ?_⟩
  · intro fine coarse hup hdown
    obtain ⟨t, ht, hset⟩ := trimTrack_ends hs hg mv m hup hdown
    refine ⟨t, ht, hset.same.trans ?_, hset.others, hset.within.keeps⟩
    cases mv with
    | stay => rfl
    | up => by_cases h : (s.signal g).fine < 63 <;> simp [movedTrim, fine, coarse, h]
    | down => by_cases h : 0 < (s.signal g).fine <;> simp [movedTrim, fine, coarse, h]
  · obtain ⟨t, ht, hd⟩ := signalFailed_repaired hs hg h hn
    exact ⟨t, ht, by rw [hd.signal], by rw [hd.signal], by rw [hd.bundle], hd.count, hd.flag, hd.posts, hd.keeps⟩
  · have hfield : (if g.dir = 0 then F.FLR_LINK_STATUS_DIR0_BUNDLES else F.FLR_LINK_STATUS_DIR1_BUNDLES) = dirBundles g.dir.val := by
      simp only [dirBundles, Fin.ext_iff, Fin.val_zero]
    rw [hfield] at hmin ⊢
    obtain ⟨t, ht, hd⟩ := signalFailed_disables hs hg h (by rwa [minBundles_succ])
    exact ⟨t, ht, by rw [hd.signal], by rw [hd.bundle], hd.count, hd.flag, hd.posts, hd.keeps⟩

end Sys2Proof.Machine
end

section
/-! What goes over the links of the tide tree (R63, R72, R273): frames to the children and to the parent, and short frames that arrive. -/
namespace Sys2Proof.Machine

variable {s t : State} {W : Nat → Prop} {h : Hop} {l : List Output}

/-! ### What sending leaves -/

/-- `s` once the outputs `l` have left, with the link sequences of the ports at `ps`. -/
def State.sent (s : State) (ps : Store PortState) (l : List Output) : State := { s with ports := ps, out := s.out ++ l }

section
variable (s : State) (ps qs : Store PortState) (l k : List Output)

@[simp] theorem sent_out : (s.sent ps l).out = s.out ++ l := rfl
@[simp] theorem sent_domains : (s.sent ps l).domains = s.domains := rfl
@[simp] theorem sent_posted : (s.sent ps l).posted = s.posted := rfl
@[simp] theorem sent_path : (s.sent ps l).path = s.path := rfl
@[simp] theorem sent_reg (a : Nat) : (s.sent ps l).reg a = s.reg a := rfl
@[simp] theorem sent_fld (a : Nat) (f : Fld) : (s.sent ps l).fld a f = s.fld a f := rfl
@[simp] theorem sent_on (a : Nat) (f : Fld) : (s.sent ps l).on a f = s.on a f := rfl
@[simp] theorem sent_modeState (d : Nat) : (s.sent ps l).modeState d = s.modeState d := rfl
@[simp] theorem sent_modeGen (d : Nat) : (s.sent ps l).modeGen d = s.modeGen d := rfl
@[simp] theorem sent_dom (d : Nat) : (s.sent ps l).dom d = s.dom d := rfl
theorem sent_nil : s.sent s.ports [] = s := by simp [State.sent]
theorem sent_sent : (s.sent ps l).sent qs k = s.sent qs (l ++ k) := by simp [State.sent]

end

theorem Within.sent {ps : Store PortState} (w : Within W s t) : Within W s (t.sent ps l) := ⟨w.regsWf, w.keeps⟩
theorem Within.of_sent {ps : Store PortState} (w : Within W (s.sent ps l) t) : Within W s t := ⟨w.regsWf, w.keeps⟩

/-! ### Counters with room -/

/-- A counter with room counts one event and touches nothing else. -/
theorem within_bump (w : Within W s t) {r : Nat} (hb : t.Below r 1) (hr : W r) : Within W s (bump r t) := by
  rw [bump_of_below hb]
  exact w.put hr

theorem counts_bump (hs : s.RegsWf) {r : Nat} (hb : s.Below r 1) : Counts s (bump r s) r 1 := by
  rw [Counts, bump_of_below hb, fld_put_same hs _ (by decide)]
  exact Nat.mod_eq_of_lt (Nat.lt_succ_of_le hb)

/-! ### Frames that leave -/

/-- A short frame leaves on a port in service, outside a fatal stop. -/
theorem frameOut_sent (p : Nat) (f : Frame) (s : State) :
    ∃ ps, frameOut p f s = s.sent ps (if s.fatal = false ∧ s.usable p = true then [.frame p f] else []) := by
  unfold frameOut
  by_cases hc : s.fatal = false ∧ s.usable p = true
  · rw [if_pos hc, if_neg (by simp [hc.1, hc.2])]
    exact ⟨_, rfl⟩
  · rw [if_neg hc, if_pos (by revert hc; cases s.fatal <;> simp)]
    exact ⟨_, (sent_nil s).symm⟩

/-- Frames to some children, each on the port of its entry. -/
theorem forEach_frameOut_sent (d : Nat) (f : Frame) (cs : List Nat) (s : State) :
    ∃ ps, forEach cs (fun c s => frameOut (s.fld (Reg.TIDE_CHILD d c) F.TIDE_CHILD_PORT) f s) s =
      s.sent ps (if s.fatal then [] else
        ((cs.map fun c => s.fld (Reg.TIDE_CHILD d c) F.TIDE_CHILD_PORT).filter s.usable).map fun p => .frame p f) := by
  induction cs generalizing s with
  | nil => exact ⟨_, by simpa using (sent_nil s).symm⟩
  | cons c cs ih =>
    obtain ⟨ps, hc⟩ := frameOut_sent (s.fld (Reg.TIDE_CHILD d c) F.TIDE_CHILD_PORT) f s
    obtain ⟨qs, hcs⟩ := ih (frameOut (s.fld (Reg.TIDE_CHILD d c) F.TIDE_CHILD_PORT) f s)
    refine ⟨qs, ?_⟩
    rw [forEach_cons, hcs, hc, sent_sent]
    congr 1
    show _ ++ (if s.fatal then [] else
      ((cs.map fun c => s.fld (Reg.TIDE_CHILD d c) F.TIDE_CHILD_PORT).filter s.usable).map fun p => Output.frame p f) = _
    cases s.fatal with
    | true => simp
    | false => cases hu : s.usable (s.fld (Reg.TIDE_CHILD d c) F.TIDE_CHILD_PORT) <;> simp [hu]

theorem toChildren_sent (d : Nat) (f : Frame) (s : State) : ∃ ps, toChildren d f s = s.sent ps (childFrames s d f) :=
  forEach_frameOut_sent d f (s.children d) s

theorem toParent_sent (d : Nat) (f : Frame) (hf : s.fatal = false) : ∃ ps, toParent d f s = s.sent ps (parentFrame s d f) := by
  unfold toParent parentFrame
  cases s.parentValid d with
  | false => exact ⟨_, by simpa using (sent_nil s).symm⟩
  | true => simpa [hf] using frameOut_sent (s.fld (Reg.TIDE_PARENT d) F.TIDE_PARENT_PORT) f s

/-! ### Frames that arrive -/

/-- An acknowledgement or NAK leaves on a port in service, outside a fatal stop. -/
theorem linkFrame_sent {p : Nat} (f : Frame) (hf : s.fatal = false) (hu : s.usable p = true) :
    linkFrame p f s = s.sent s.ports [.frame p f] := if_neg (by simp [hf, hu])

/-- What is next in its sequence is taken and acknowledged. -/
theorem takeSeq_heard (hh : s.Heard h) : ∃ ps, takeSeq h.port.val true h.seq.toNat h.ok s = (s.sent ps [hopAck h], true) := by
  obtain ⟨hf, hu, hclosed, hok, hseq⟩ := hh
  refine ⟨(setLane h.port.val true (fun l => { l with rx := h.seq.toNat, asked := false }) s).ports, ?_⟩
  have hack := linkFrame_sent (s := setLane h.port.val true (fun l => { l with rx := h.seq.toNat, asked := false }) s)
    (.linkAck true h.seq.toNat) hf hu
  unfold takeSeq
  rw [if_neg (by simp [hu, hclosed]), if_neg (by simp [hok]),
    if_neg fun hne : h.seq.toNat ≠ (((s.port h.port.val).lane true).rx + 1) % 65536 => hne hseq]
  exact congrArg (·, true) hack

/-- A short frame that its link takes is acknowledged, and then has its effect. -/
theorem takeFrame_heard (hh : s.Heard h) : ∃ ps, ∀ f, takeFrame h f s = f (s.sent ps [hopAck h]) := by
  obtain ⟨ps, ht⟩ := takeSeq_heard hh
  exact ⟨ps, fun f => by rw [takeFrame, ht]; rfl⟩

/-- A short frame that is taken does what it does after its acknowledgement. -/
theorem ends_of_heard {i : Instr} {f : State → State} {P : State → Prop} (hh : s.Heard h) (hi : exec i s = .next (takeFrame h f s))
    (hP : ∀ ps, P (f (s.sent ps [hopAck h]))) : Ends i s P := by
  obtain ⟨ps, htake⟩ := takeFrame_heard hh
  exact ⟨_, hi.trans (congrArg _ (htake f)), hP ps⟩

/-- The same for a frame after which memory operations are settled, where it writes registers alone. -/
theorem ends_of_heard_settled {i : Instr} {f : State → State} {P : State → Prop} (hs : s.Sound) (hh : s.Heard h)
    (hi : exec i s = .next (settle (takeFrame h f s))) (hw : ∀ ps, Within W s (f (s.sent ps [hopAck h])))
    (hP : ∀ ps, P (f (s.sent ps [hopAck h]))) : Ends i s P := by
  obtain ⟨ps, htake⟩ := takeFrame_heard hh
  exact ⟨_, hi.trans (by rw [htake f, (hw ps).settle hs]), hP ps⟩

/-- What fails its CRC is counted and answered with NAK of the SEQ that is expected. -/
theorem takeSeq_corrupt {p seq : Nat} (hs : s.RegsWf) (hf : s.fatal = false) (hu : s.usable p = true) (hclosed : (s.port p).closed = false)
    (hb : s.Below (Reg.FAB_P_CRC_ERRORS p) 1) : ∃ ps, takeSeq p true seq false s =
      ((bump (Reg.FAB_P_CRC_ERRORS p) s).sent ps [.frame p (.nak true (((s.port p).ctl.rx + 1) % 65536))], false) := by
  have w := within_bump (Within.refl (W := fun a => a = Reg.FAB_P_CRC_ERRORS p) hs) hb rfl
  have hf' : (bump (Reg.FAB_P_CRC_ERRORS p) s).fatal = false := (w.on (by unfold Reg.FAB_P_CRC_ERRORS Reg.ERR_STATUS; omega) _).trans hf
  have hu' : (bump (Reg.FAB_P_CRC_ERRORS p) s).usable p = true := by
    rw [State.usable, State.portSt, w.fld (by unfold Reg.FAB_P_CRC_ERRORS Reg.FAB_P_STATUS; omega)]
    exact hu
  refine ⟨(setLane p true (fun l => { l with asked := true }) (bump (Reg.FAB_P_CRC_ERRORS p) s)).ports, ?_⟩
  have hnak := linkFrame_sent (s := setLane p true (fun l => { l with asked := true }) (bump (Reg.FAB_P_CRC_ERRORS p) s))
    (.nak true (((s.port p).ctl.rx + 1) % 65536)) hf' hu'
  unfold takeSeq
  rw [if_neg (by simp [hu, hclosed])]
  exact congrArg (·, false) hnak

/-- A short frame whose CRC fails has no effect but its NAK. -/
theorem takeFrame_corrupt (hs : s.RegsWf) (hf : s.fatal = false) (hu : s.usable h.port.val = true) (hclosed : (s.port h.port.val).closed = false)
    (hok : h.ok = false) (hb : s.Below (Reg.FAB_P_CRC_ERRORS h.port.val) 1) :
    ∃ ps, ∀ f, takeFrame h f s = (bump (Reg.FAB_P_CRC_ERRORS h.port.val) s).sent ps
      [.frame h.port.val (.nak true (((s.port h.port.val).ctl.rx + 1) % 65536))] := by
  obtain ⟨ps, ht⟩ := takeSeq_corrupt (seq := h.seq.toNat) hs hf hu hclosed hb
  exact ⟨ps, fun f => by rw [takeFrame, hok, ht]; rfl⟩

end Sys2Proof.Machine
end

section
/-! A domain of the tide tree: what its commands may write and still keep its place in the tree, notices to the root, and postings. -/
namespace Sys2Proof.Machine

variable {s t : State} {W : Nat → Prop} {d c : Nat}

/-! ### What a domain remembers -/

/-- What the domains remember is in canonical form. -/
abbrev State.DomsWf (s : State) : Prop := Store.Wf (fun _ => TideDom.init) s.domains

theorem DomsWf_setDom (h : s.DomsWf) (d : Nat) (x : TideDom) : (setDom d x s).DomsWf := Store.wf_update h d x
theorem Within.withDom (w : Within W s t) : Within W s (setDom d x t) := ⟨w.regsWf, w.keeps⟩
theorem Touches.dom (h : Touches W s t) (d : Nat) : t.dom d = s.dom d := by obtain ⟨⟨_, _, _, rfl⟩, -⟩ := h; rfl
theorem Touches.domains (h : Touches W s t) : t.domains = s.domains := by obtain ⟨⟨_, _, _, rfl⟩, -⟩ := h; rfl

theorem mem_insertMark {a b : Nat} {l : List Nat} : b ∈ insertMark a l ↔ b = a ∨ b ∈ l := by
  induction l with
  | nil => simp [insertMark]
  | cons e l ih =>
    unfold insertMark
    split
    · simp
    · split
      · next h => simp [h]
      · simp only [List.mem_cons, ih, or_left_comm]

/-! ### The place in the tree -/

/-- The registers of domain `d` that its notices, its counts and its mode changes write. -/
def IsOwnReg (d a : Nat) : Prop :=
  a = Reg.TIDE_DSTATUS d ∨ a = Reg.TIDE_ABORT_COUNT d ∨ a = Reg.TIDE_MODE_REC d 1 ∨ a = Reg.TIDE_MODE_STATUS d

theorem isOwnReg_dstatus : IsOwnReg d (Reg.TIDE_DSTATUS d) := .inl rfl
theorem isOwnReg_abortCount : IsOwnReg d (Reg.TIDE_ABORT_COUNT d) := .inr (.inl rfl)
theorem isOwnReg_modeRec : IsOwnReg d (Reg.TIDE_MODE_REC d 1) := .inr (.inr (.inl rfl))
theorem isOwnReg_modeStatus : IsOwnReg d (Reg.TIDE_MODE_STATUS d) := .inr (.inr (.inr rfl))

/-- The registers of a domain lie above the ledger and below the fabric. -/
theorem IsOwnReg.bounds {a : Nat} (h : IsOwnReg d a) (hd : d < 16) : 0x50000 ≤ a ∧ a < 0x80000 := by
  unfold IsOwnReg Reg.TIDE_DSTATUS Reg.TIDE_ABORT_COUNT Reg.TIDE_MODE_REC Reg.TIDE_MODE_STATUS at h
  omega

theorem not_isLedger_of_le {a : Nat} (h : 0x20000 ≤ a) : ¬ IsLedger a := by unfold IsLedger; omega

/-- `t` has the place that `s` has in the tree of domain `d`: its role and its neighbours, and what may leave to them. -/
structure SamePlace (d : Nat) (s t : State) : Prop where
  regs : ∀ a, ¬ (IsOwnReg d a ∨ IsLedger a) → t.reg a = s.reg a
  fatal : t.fatal = s.fatal

theorem samePlace_of_own (hd : d < 16) (w : Within W s t) (hW : ∀ a, W a → IsOwnReg d a) : SamePlace d s t :=
  ⟨fun a ha => w.reg fun h => ha (.inl (hW a h)), w.on (fun h => absurd ((hW _ h).bounds hd).1 (by decide)) _⟩

namespace SamePlace

theorem fld (h : SamePlace d s t) {a : Nat} (ho : ¬ IsOwnReg d a) (hl : 0x20000 ≤ a) (f : Fld) : t.fld a f = s.fld a f := by
  rw [State.fld, h.regs a (not_or.mpr ⟨ho, not_isLedger_of_le hl⟩), State.fld]
theorem on (h : SamePlace d s t) {a : Nat} (ho : ¬ IsOwnReg d a) (hl : 0x20000 ≤ a) (f : Fld) : t.on a f = s.on a f := by
  rw [State.on, h.fld ho hl, State.on]

theorem role (h : SamePlace d s t) : t.role d = s.role d :=
  h.fld (by unfold IsOwnReg Reg.TIDE_CTRL Reg.TIDE_DSTATUS Reg.TIDE_ABORT_COUNT Reg.TIDE_MODE_REC Reg.TIDE_MODE_STATUS; omega)
    (by unfold Reg.TIDE_CTRL; omega) _
theorem autoPause (h : SamePlace d s t) : t.on (Reg.TIDE_CTRL d) F.TIDE_CTRL_AUTO_PAUSE = s.on (Reg.TIDE_CTRL d) F.TIDE_CTRL_AUTO_PAUSE :=
  h.on (by unfold IsOwnReg Reg.TIDE_CTRL Reg.TIDE_DSTATUS Reg.TIDE_ABORT_COUNT Reg.TIDE_MODE_REC Reg.TIDE_MODE_STATUS; omega)
    (by unfold Reg.TIDE_CTRL; omega) _
theorem child (h : SamePlace d s t) (hc : c < 7) (f : Fld) : t.fld (Reg.TIDE_CHILD d c) f = s.fld (Reg.TIDE_CHILD d c) f :=
  h.fld (by unfold IsOwnReg Reg.TIDE_CHILD Reg.TIDE_DSTATUS Reg.TIDE_ABORT_COUNT Reg.TIDE_MODE_REC Reg.TIDE_MODE_STATUS; omega)
    (by unfold Reg.TIDE_CHILD; omega) f
theorem parent (h : SamePlace d s t) (f : Fld) : t.fld (Reg.TIDE_PARENT d) f = s.fld (Reg.TIDE_PARENT d) f :=
  h.fld (by unfold IsOwnReg Reg.TIDE_PARENT Reg.TIDE_DSTATUS Reg.TIDE_ABORT_COUNT Reg.TIDE_MODE_REC Reg.TIDE_MODE_STATUS; omega)
    (by unfold Reg.TIDE_PARENT; omega) f
theorem above (h : SamePlace d s t) (hd : d < 16) {a : Nat} (ha : 0x80000 ≤ a) (f : Fld) : t.fld a f = s.fld a f :=
  h.fld (fun ho => absurd (ho.bounds hd).2 (by omega)) (by omega) f

theorem usable (h : SamePlace d s t) (hd : d < 16) (p : Nat) : t.usable p = s.usable p := by
  rw [State.usable, State.portSt, h.above hd (by unfold Reg.FAB_P_STATUS; omega), State.usable, State.portSt]
theorem deviceId (h : SamePlace d s t) (hd : d < 16) : t.deviceId = s.deviceId := h.above hd (by decide) _

theorem children (h : SamePlace d s t) : t.children d = s.children d :=
  List.filter_congr fun c hc => by rw [State.on, h.child (List.mem_range.mp hc), State.on]

/-- Lost children are marked in the status of the domain. -/
theorem liveChildren (h : SamePlace d s t)
    (hl : t.fld (Reg.TIDE_DSTATUS d) F.TIDE_DSTATUS_LOST_CHILD = s.fld (Reg.TIDE_DSTATUS d) F.TIDE_DSTATUS_LOST_CHILD) :
    t.liveChildren d = s.liveChildren d := by
  rw [State.liveChildren, h.children, hl, State.liveChildren]

theorem parentValid (h : SamePlace d s t) (hp : (t.dom d).lostParent = (s.dom d).lostParent) : t.parentValid d = s.parentValid d := by
  rw [State.parentValid, State.on, h.parent, hp, State.parentValid, State.on]

theorem childFrames_eq (h : SamePlace d s t) (hd : d < 16) (f : Frame) : childFrames t d f = childFrames s d f := by
  have hports : (s.children d).map (fun c => t.fld (Reg.TIDE_CHILD d c) F.TIDE_CHILD_PORT) =
      (s.children d).map fun c => s.fld (Reg.TIDE_CHILD d c) F.TIDE_CHILD_PORT :=
    List.map_congr_left fun c hc => h.child (List.mem_range.mp (List.mem_filter.mp hc).1) _
  have husable : t.usable = s.usable := funext (h.usable hd)
  simp only [childFrames, h.fatal, h.children, hports, husable]

theorem parentFrame_eq (h : SamePlace d s t) (hd : d < 16) (hp : (t.dom d).lostParent = (s.dom d).lostParent) (f : Frame) :
    parentFrame t d f = parentFrame s d f := by
  simp only [parentFrame, h.parentValid hp, h.parent, h.usable hd]

end SamePlace

/-! ### Postings -/

/-- A CORRECTED posting within a frame. -/
theorem Within.postCorrected {code : Nat} {unit : LUnit} {ctx dom : Option Nat} {detail : Nat} (w : Within W s t) (hW : ∀ a, IsLedger a → W a) :
    Within W s (Machine.postCorrected code unit ctx dom detail t) := w.touches ((touches_postCorrected ..).mono hW)

/-- After register writes of a domain and a posting the domain has its place. -/
theorem samePlace_of_post (hd : d < 16) (w : Within W s t) (hW : ∀ a, W a → IsOwnReg d a) (code : Nat) (unit : LUnit)
    (ctx dom : Option Nat) (detail : Nat) : SamePlace d s (postCorrected code unit ctx dom detail t) :=
  ⟨fun _ ha => ((w.mono (V := fun a => IsOwnReg d a ∨ IsLedger a) fun _ h => .inl (hW _ h)).postCorrected fun _ h => .inr h).reg ha,
    (stops_postCorrected w.regsWf ..).fatal.trans (samePlace_of_own hd w hW).fatal⟩

end Sys2Proof.Machine
end

section
/-! Readiness, loss and heartbeats on the tide tree (R74, R75, R76, R80, R83, R96). -/
namespace Sys2Proof.Machine

open Host (Outcome)

variable {s : State}

/-! ### Short frames that fail their check -/

/-- A command that is a short frame of the tide tree, and what it does once its link has taken the frame. -/
def IsFrameOf (h : Hop) (s : State) (i : Instr) : Prop :=
  ∃ f, exec i s = .next (takeFrame h f s) ∨ exec i s = .next (settle (takeFrame h f s))

theorem isFrameOf_of_tree (d : Fin 16) (c : Fin 7) (v : Word) (dev : BitVec 13) (h : Hop) (acts arg : BitVec 16) (r : List Word) (s : State) :
    ∀ i ∈ [Instr.tideValue d h v acts arg, .ready d h c v, .lost d h dev, .arm d h r, .ack d h c, .nack d h c, .commit d h, .abort d h,
      .rearm d h dev r, .stale d h dev], IsFrameOf h s i := by
  simp only [List.forall_mem_cons, List.not_mem_nil, false_implies, implies_true, and_true]
  exact ⟨⟨_, .inr rfl⟩, ⟨_, .inl rfl⟩, ⟨_, .inr rfl⟩, ⟨_, .inl rfl⟩, ⟨_, .inl rfl⟩, ⟨_, .inl rfl⟩, ⟨_, .inl rfl⟩,
    ⟨_, .inl rfl⟩, ⟨_, .inr rfl⟩,
    ⟨_, .inl rfl⟩⟩

/-- A frame whose CRC fails is counted and answered with NAK, whatever it says. -/
theorem frame_corrupt {h : Hop} {i : Instr} (hs : s.Sound) (hf : s.fatal = false) (hi : IsFrameOf h s i) (hu : s.usable h.port.val = true)
    (hclosed : (s.port h.port.val).closed = false) (hok : h.ok = false) (hb : s.Below (Reg.FAB_P_CRC_ERRORS h.port.val) 1) :
    Ends i s fun t => t.out = s.out ++ [.frame h.port.val (.nak true (((s.port h.port.val).ctl.rx + 1) % 65536))] ∧
      Counts s t (Reg.FAB_P_CRC_ERRORS h.port.val) 1 ∧ t.domains = s.domains ∧
      KeepsAllBut (fun a => a = Reg.FAB_P_CRC_ERRORS h.port.val) s t := by
  obtain ⟨ps, htake⟩ := takeFrame_corrupt hs.regs hf hu hclosed hok hb
  obtain ⟨f, hexec⟩ := hi
  have w := within_bump (Within.refl (W := fun a => a = Reg.FAB_P_CRC_ERRORS h.port.val) hs.regs) hb rfl
  rw [htake f, w.sent.settle hs, or_self] at hexec
  have hout : (bump (Reg.FAB_P_CRC_ERRORS h.port.val) s).out = s.out := by rw [bump_of_below hb]; rfl
  have hdom : (bump (Reg.FAB_P_CRC_ERRORS h.port.val) s).domains = s.domains := (touches_bump ..).domains
  exact ⟨_, hexec, congrArg (· ++ _) hout, counts_bump hs.regs hb, hdom, w.sent.keeps⟩

/-! ### READY -/

/-- READY of a child is remembered beside what can still come. -/
theorem mem_childReady_receiveReady (hd : s.DomsWf) (d c b : Nat) (v w : Word) : (b, w) ∈ ((receiveReady d c v s).dom d).childReady ↔
    (b = c ∧ w = v) ∨ ((b, w) ∈ (s.dom d).childReady ∧ tideStep (s.tide d) ≤ tideStep w) := by
  rw [receiveReady, dom_setDom_same _ hd]
  by_cases he : b = c ∧ w = v
  · simp [he.1, he.2]
  · simp [he, State.mayCome]

variable {d : Fin 16} {c : Fin 7} {h : Hop} {v : Word} {dev : BitVec 13}

theorem ready_ends (hs : s.Sound) (hh : s.Heard h) (hr : s.role d.val ≠ Role.OFF)
    (hc : s.on (Reg.TIDE_CHILD d.val c.val) F.TIDE_CHILD_VALID = true) : Ends (.ready d h c v) s fun t =>
      (∀ b w, (b, w) ∈ (t.dom d.val).childReady ↔ (b = c.val ∧ w = v) ∨
        ((b, w) ∈ (s.dom d.val).childReady ∧ tideStep (s.tide d.val) ≤ tideStep w)) ∧
      t.out = s.out ++ [hopAck h] ∧ KeepsAllBut (fun _ => False) s t := by
  have hmem : (s.children d.val).contains c.val = true := by simp [State.children, hc]
  refine ends_of_heard hh rfl fun ps => ?_
  have htaken : (if (s.sent ps [hopAck h]).role d.val ≠ Role.OFF ∧ ((s.sent ps [hopAck h]).children d.val).contains c.val = true
      then receiveReady d.val c.val v (s.sent ps [hopAck h]) else s.sent ps [hopAck h]) = receiveReady d.val c.val v (s.sent ps [hopAck h]) :=
    if_pos ⟨hr, hmem⟩
  rw [htaken]
  exact ⟨fun b w => mem_childReady_receiveReady (s := s.sent ps [hopAck h]) hs.domains d.val c.val b v w, rfl,
    (Within.refl hs.regs).sent.withDom.keeps⟩

/-- READY is sent once this device and its live children are ready. -/
theorem sendReady_due {d : Nat} {w : Word} (hf : s.fatal = false)
    (hw : s.successor d = some w) (hr : s.role d = Role.MEMBER) (hp : s.parentValid d = true)
    (hst : s.on (Reg.TIDE_DSTATUS d) F.TIDE_DSTATUS_STALE = false) (hn : w ∉ (s.dom d).readySent) (hl : s.localReady d w = true)
    (hc : s.childrenReady d w = true) : sendReady d s =
      toParent d (.ready d w) (setDom d { s.dom d with readySent := w :: (s.dom d).readySent.filter (s.mayCome d) } s) := by
  simp [sendReady, hw, hr, hp, hst, hn, hl, hc, hf]

theorem readySend_ends {w : Word} (hs : s.Sound) (hf : s.fatal = false) (hw : s.successor d.val = some w) (hr : s.role d.val = Role.MEMBER)
    (hp : s.parentValid d.val = true) (hst : s.on (Reg.TIDE_DSTATUS d.val) F.TIDE_DSTATUS_STALE = false) (hn : w ∉ (s.dom d.val).readySent)
    (hl : s.localReady d.val w = true) (hc : s.childrenReady d.val w = true) : Ends (.readySend d) s fun t =>
      t.out = s.out ++ parentFrame s d.val (.ready d.val w) ∧ w ∈ (t.dom d.val).readySent ∧ KeepsAllBut (fun _ => False) s t := by
  let x : TideDom := { s.dom d.val with readySent := w :: (s.dom d.val).readySent.filter (s.mayCome d.val) }
  have hx : (setDom d.val x s).dom d.val = x := dom_setDom_same _ hs.domains _ _
  have wx : Within (fun _ => False) s (setDom d.val x s) := (Within.refl hs.regs).withDom
  obtain ⟨ps, hsent⟩ := toParent_sent d.val (.ready d.val w) (s := setDom d.val x s) hf
  refine ⟨_, congrArg Outcome.next ((sendReady_due hf hw hr hp hst hn hl hc).trans hsent), ?_, ?_, wx.sent.keeps⟩
  · rw [sent_out, (samePlace_of_own d.isLt wx nofun).parentFrame_eq d.isLt (by rw [hx])]
    rfl
  · rw [sent_dom, hx]
    exact List.mem_cons_self ..

theorem readySend_again {w : Word} (hw : s.successor d.val = some w) (hm : w ∈ (s.dom d.val).readySent) : NoEffect (.readySend d) s := by
  show Outcome.next (sendReady d.val s) = .next s
  simp [sendReady, hw, hm]

/-! ### LOST -/

/-- A root that does not pause by itself records a loss. -/
theorem receiveLost_calmRoot {d dev : Nat} (h : s.RegsWf) (hd : d < 16) (hr : s.role d = Role.ROOT)
    (hap : s.on (Reg.TIDE_CTRL d) F.TIDE_CTRL_AUTO_PAUSE = false) :
    receiveLost wr d dev s = raise (Reg.TIDE_DSTATUS d) F.TIDE_DSTATUS_LOST_SEEN s := by
  have w : Within (fun a => a = Reg.TIDE_DSTATUS d) s (raise (Reg.TIDE_DSTATUS d) F.TIDE_DSTATUS_LOST_SEEN s) := (Within.refl h).raise rfl
  have hcalm := ((samePlace_of_own hd w fun _ e => e ▸ isOwnReg_dstatus).autoPause).trans hap
  unfold receiveLost
  exact (if_pos hr).trans (congrArg (fun b => when b (enterPause wr d) _) hcalm)

theorem receiveLost_member {d dev : Nat} (hr : s.role d = Role.MEMBER) : receiveLost wr d dev s = toParent d (.lost d dev) s := by
  simp [receiveLost, hr, Role.MEMBER, Role.ROOT]

theorem lost_root (hs : s.Sound) (hh : s.Heard h) (hr : s.role d.val = Role.ROOT)
    (hap : s.on (Reg.TIDE_CTRL d.val) F.TIDE_CTRL_AUTO_PAUSE = false) : Ends (.lost d h dev) s fun t =>
      t.on (Reg.TIDE_DSTATUS d.val) F.TIDE_DSTATUS_LOST_SEEN = true ∧ t.out = s.out ++ [hopAck h] ∧
      KeepsAllBut (fun a => a = Reg.TIDE_DSTATUS d.val) s t := by
  have hlost (ps) := receiveLost_calmRoot (s := s.sent ps [hopAck h]) (dev := dev.toNat) hs.regs d.isLt hr hap
  have w (ps) : Within (fun a => a = Reg.TIDE_DSTATUS d.val) s (receiveLost wr d.val dev.toNat (s.sent ps [hopAck h])) := by
    rw [hlost]
    exact (Within.refl hs.regs).sent.raise rfl
  refine ends_of_heard_settled hs hh rfl w fun ps => ⟨?_, ?_, (w ps).keeps⟩
  · rw [hlost]
    exact on_raise_same (s := s.sent ps [hopAck h]) hs.regs _ (by decide)
  · rw [hlost]
    rfl

theorem lost_member (hs : s.Sound) (hh : s.Heard h) (hr : s.role d.val = Role.MEMBER) : Ends (.lost d h dev) s fun t =>
    t.out = s.out ++ [hopAck h] ++ parentFrame s d.val (.lost d.val dev.toNat) ∧ KeepsAllBut (fun _ => False) s t := by
  have hlost (ps) : ∃ qs, receiveLost wr d.val dev.toNat (s.sent ps [hopAck h]) =
      (s.sent ps [hopAck h]).sent qs (parentFrame s d.val (.lost d.val dev.toNat)) := by
    rw [receiveLost_member (s := s.sent ps [hopAck h]) hr]
    exact toParent_sent d.val (.lost d.val dev.toNat) (s := s.sent ps [hopAck h]) hh.1
  have w (ps) : Within (fun _ => False) s (receiveLost wr d.val dev.toNat (s.sent ps [hopAck h])) := by
    obtain ⟨qs, hsent⟩ := hlost ps
    rw [hsent]
    exact (Within.refl hs.regs).sent.sent
  refine ends_of_heard_settled hs hh rfl w fun ps => ⟨?_, (w ps).keeps⟩
  obtain ⟨qs, hsent⟩ := hlost ps
  rw [hsent]
  rfl

/-! ### NEIGHBOUR_LOST -/

/-- A child is marked lost, and an entry posted. -/
def childLost (d c : Nat) (s : State) : State :=
  put (Reg.TIDE_DSTATUS d) F.TIDE_DSTATUS_LOST_CHILD (s.fld (Reg.TIDE_DSTATUS d) F.TIDE_DSTATUS_LOST_CHILD ||| 2 ^ c)
    (postCorrected 0x0020 .tide none (some d) (s.fld (Reg.TIDE_CHILD d c) F.TIDE_CHILD_DEVICE + d * 2 ^ 16) s)

/-- Setting a bit of a mask that is clear adds its value. -/
theorem or_two_pow_of_clear {n b : Nat} (hn : n < 128) (hb : b < 7) (h : bit n b = false) : n ||| 2 ^ b = n + 2 ^ b ∧ n + 2 ^ b < 128 := by
  have small : ∀ n, n < 128 → ∀ b, b < 7 → bit n b = false → n ||| 2 ^ b = n + 2 ^ b ∧ n + 2 ^ b < 128 := by decide +kernel
  exact small n hn b hb h

/-- A child of domain `d` has been marked lost. -/
structure ChildLost (d c : Nat) (s t : State) : Prop where
  lost : t.fld (Reg.TIDE_DSTATUS d) F.TIDE_DSTATUS_LOST_CHILD = s.fld (Reg.TIDE_DSTATUS d) F.TIDE_DSTATUS_LOST_CHILD + 2 ^ c
  marks : ∀ b, bit (t.fld (Reg.TIDE_DSTATUS d) F.TIDE_DSTATUS_LOST_CHILD) b =
    (bit (s.fld (Reg.TIDE_DSTATUS d) F.TIDE_DSTATUS_LOST_CHILD) b || decide (b = c))
  posts : s.posted < t.posted
  domains : t.domains = s.domains
  place : SamePlace d s t
  within : Within (fun a => a = Reg.TIDE_DSTATUS d ∨ IsLedger a) s t

theorem childLost_lost (hs : s.RegsWf) {d c : Nat} (hd : d < 16) (hc : c < 7)
    (hb : bit (s.fld (Reg.TIDE_DSTATUS d) F.TIDE_DSTATUS_LOST_CHILD) c = false) : ChildLost d c s (childLost d c s) := by
  have hpost := touches_postCorrected 0x0020 .tide none (some d) (s.fld (Reg.TIDE_CHILD d c) F.TIDE_CHILD_DEVICE + d * 2 ^ 16) s
  have hstop := stops_postCorrected hs 0x0020 .tide none (some d) (s.fld (Reg.TIDE_CHILD d c) F.TIDE_CHILD_DEVICE + d * 2 ^ 16)
  obtain ⟨hadd, hlt⟩ := or_two_pow_of_clear (Word.get_lt (s.reg (Reg.TIDE_DSTATUS d)) F.TIDE_DSTATUS_LOST_CHILD) hc hb
  have hlost : (childLost d c s).fld (Reg.TIDE_DSTATUS d) F.TIDE_DSTATUS_LOST_CHILD =
      s.fld (Reg.TIDE_DSTATUS d) F.TIDE_DSTATUS_LOST_CHILD ||| 2 ^ c := by
    rw [childLost, fld_put_same (hpost.regsWf hs) _ (by decide)]
    exact Nat.mod_eq_of_lt (hadd ▸ hlt)
  have w : Within (fun a => a = Reg.TIDE_DSTATUS d ∨ IsLedger a) s (childLost d c s) :=
    ((Within.refl hs).postCorrected fun _ => .inr).put (.inl rfl)
  refine ⟨hlost.trans hadd, fun b => ?_, hstop.posted, hpost.domains, ⟨fun a ha => w.reg fun h => ha (h.imp_left .inl), ?_⟩, w⟩
  · rw [hlost, bit, Nat.testBit_or, Nat.testBit_two_pow, bit]
    simp [eq_comm]
  · exact ((Within.refl (W := IsOwnReg d) hstop.regsWf).put isOwnReg_dstatus).on (fun h => absurd (h.bounds hd).1 (by decide)) _ |>.trans hstop.fatal

/-- The loss of a valid child at a root that does not pause by itself. -/
theorem loseNeighbour_calmRoot {d c : Nat} (hs : s.RegsWf) (hd : d < 16) (hc : c < 7) (hr : s.role d = Role.ROOT)
    (hap : s.on (Reg.TIDE_CTRL d) F.TIDE_CTRL_AUTO_PAUSE = false) (hv : s.on (Reg.TIDE_CHILD d c) F.TIDE_CHILD_VALID = true)
    (hb : bit (s.fld (Reg.TIDE_DSTATUS d) F.TIDE_DSTATUS_LOST_CHILD) c = false) :
    loseNeighbour wr d (some c) s = gatherAcks d (childLost d c s) := by
  have hl := (childLost_lost hs hd hc hb).place
  have hoff : s.role d ≠ Role.OFF := by rw [hr]; decide
  have hcalm : (childLost d c s).on (Reg.TIDE_CTRL d) F.TIDE_CTRL_AUTO_PAUSE = false := hl.autoPause.trans hap
  have hmark : loseNeighbour wr d (some c) s = gatherAcks d
      (when ((childLost d c s).on (Reg.TIDE_CTRL d) F.TIDE_CTRL_AUTO_PAUSE) (enterPause wr d) (childLost d c s)) := by
    unfold loseNeighbour
    rw [if_neg hoff]
    dsimp only
    rw [if_neg (by simp [hv, hb])]
    exact if_pos (hl.role.trans hr)
  rw [hmark, hcalm, when_false]

/-- Where no change is armed there is nothing to acknowledge. -/
theorem gatherAcks_of_not_armed {d : Nat} (h : s.modeState d ≠ ModeSt.ARMED) : gatherAcks d s = s := if_pos (.inl h)

theorem neighbourLost_calmRoot (hs : s.Sound) (hr : s.role d.val = Role.ROOT) (hap : s.on (Reg.TIDE_CTRL d.val) F.TIDE_CTRL_AUTO_PAUSE = false)
    (hm : s.modeState d.val ≠ ModeSt.ARMED) (hv : s.on (Reg.TIDE_CHILD d.val c.val) F.TIDE_CHILD_VALID = true)
    (hb : bit (s.fld (Reg.TIDE_DSTATUS d.val) F.TIDE_DSTATUS_LOST_CHILD) c.val = false) : Ends (.neighbourLost d (some c)) s fun t =>
      t.fld (Reg.TIDE_DSTATUS d.val) F.TIDE_DSTATUS_LOST_CHILD = s.fld (Reg.TIDE_DSTATUS d.val) F.TIDE_DSTATUS_LOST_CHILD + 2 ^ c.val ∧
      s.posted < t.posted ∧ KeepsAllBut (fun a => a = Reg.TIDE_DSTATUS d.val ∨ IsLedger a) s t := by
  have hl := childLost_lost hs.regs d.isLt c.isLt hb
  have hm' : (childLost d.val c.val s).modeState d.val ≠ ModeSt.ARMED := by
    rwa [State.modeState, hl.within.fld (by unfold IsLedger Reg.TIDE_MODE_STATUS Reg.TIDE_DSTATUS; omega)]
  refine ⟨_, congrArg Outcome.next ?_, hl.lost, hl.posts, hl.within.keeps⟩
  show settle (loseNeighbour wr d.val (some c.val) s) = _
  rw [loseNeighbour_calmRoot hs.regs d.isLt c.isLt hr hap hv hb, gatherAcks_of_not_armed hm', hl.within.settle hs]

theorem neighbourLost_again (hs : s.Sound) (hb : bit (s.fld (Reg.TIDE_DSTATUS d.val) F.TIDE_DSTATUS_LOST_CHILD) c.val = true) :
    Ends (.neighbourLost d (some c)) s fun t => t = s := by
  refine ⟨_, congrArg Outcome.next ?_, rfl⟩
  have hnone : loseNeighbour wr d.val (some c.val) s = s := by simp [loseNeighbour, hb]
  show settle (loseNeighbour wr d.val (some c.val) s) = s
  rw [hnone, settle_of_nothing_owed hs.owed]

/-! ### Heartbeats -/

/-- Where no rule matches, injection draws nothing. -/
theorem injectDraw_of_none {p cls : Nat} {ctx dest : Option Nat} (h : ∀ k, k < 32 → injects s k p cls ctx dest = false) :
    injectDraw p cls ctx dest s = (s, none) := by
  have hrules : (List.range 32).filter (fun k => injects s k p cls ctx dest) = [] := by
    simpa using h
  simp [injectDraw, hrules]

theorem heartbeatSend_ends {p : Fin 32} (hs : s.Sound) (hf : s.fatal = false) (hl : s.on (Reg.FAB_P_STATUS p.val) F.FAB_P_STATUS_CTRL_LOCK = true)
    (hu : s.usable p.val = true) (hi : ∀ k, k < 32 → injects s k p.val 4 none none = false) : Ends (.heartbeatSend p) s fun t =>
      t.out = s.out ++
        [.frame p.val (.heartbeat s.deviceId (((List.range 16).filter fun e => s.role e ≠ Role.OFF).map fun e => (e, s.modeGen e % 256)))] ∧
      KeepsAllBut (fun _ => False) s t := by
  have hout (f : Frame) : heartbeatOut p.val f s = emit (.frame p.val f) s := by
    simp [heartbeatOut, hf, hu, injectDraw_of_none hi]
  exact ⟨_, congrArg Outcome.next ((if_pos hl).trans (hout _)), rfl, ((Within.refl hs.regs).touches (touches_emit _ s)).keeps⟩

theorem heartbeat_corrupt {p : Fin 32} (hs : s.Sound) (hu : s.usable p.val = true) (hc : (s.port p.val).closed = false)
    (hb : s.Below (Reg.FAB_P_CRC_ERRORS p.val) 1) (gens : List (Fin 16 × BitVec 8)) : Ends (.heartbeat p false dev gens) s fun t =>
      Counts s t (Reg.FAB_P_CRC_ERRORS p.val) 1 ∧ KeepsAllBut (fun a => a = Reg.FAB_P_CRC_ERRORS p.val) s t :=
  ⟨_, (if_neg (by simp [hu, hc])).trans (if_pos rfl), counts_bump hs.regs hb,
    (within_bump (Within.refl (W := fun a => a = Reg.FAB_P_CRC_ERRORS p.val) hs.regs) hb rfl).keeps⟩

/-- A device that is not stale and no root becomes stale: it sets STALE, posts, and tells its parent. -/
theorem becomeStale_member {d : Nat} (hs : s.RegsWf) (hd : d < 16) (hf : s.fatal = false) (hr : s.role d = Role.MEMBER)
    (hst : s.on (Reg.TIDE_DSTATUS d) F.TIDE_DSTATUS_STALE = false) :
    (becomeStale d s).on (Reg.TIDE_DSTATUS d) F.TIDE_DSTATUS_STALE = true ∧ s.posted < (becomeStale d s).posted ∧
      parentFrame s d (.stale d s.deviceId) <:+ (becomeStale d s).out ∧
      Within (fun a => a = Reg.TIDE_DSTATUS d ∨ IsLedger a) s (becomeStale d s) := by
  have w1 : Within (fun a => a = Reg.TIDE_DSTATUS d) s (put (Reg.TIDE_DSTATUS d) F.TIDE_DSTATUS_STALE 1 s) := (Within.refl hs).put rfl
  obtain ⟨detail, hdetail⟩ : ∃ n, n = d * 2 ^ 16 + (put (Reg.TIDE_DSTATUS d) F.TIDE_DSTATUS_STALE 1 s).modeGen d * 2 ^ 32 := ⟨_, rfl⟩
  have hplace := samePlace_of_post hd w1 (fun _ e => e ▸ isOwnReg_dstatus) 0x0021 .tide none (some d) detail
  have hpost := touches_postCorrected 0x0021 .tide none (some d) detail (put (Reg.TIDE_DSTATUS d) F.TIDE_DSTATUS_STALE 1 s)
  have w2 := (w1.mono fun _ h => .inl h).postCorrected (W := fun a => a = Reg.TIDE_DSTATUS d ∨ IsLedger a) (code := 0x0021) (unit := .tide)
    (ctx := none) (dom := some d) (detail := detail) fun _ => .inr
  generalize hq : postCorrected 0x0021 .tide none (some d) detail (put (Reg.TIDE_DSTATUS d) F.TIDE_DSTATUS_STALE 1 s) = q at *
  obtain ⟨ps, hsent⟩ := toParent_sent d (.stale d q.deviceId) (hplace.fatal.trans hf)
  have hbecome : becomeStale d s = q.sent ps (parentFrame s d (.stale d s.deviceId)) := by
    have hroot : q.role d ≠ Role.ROOT := by rw [hplace.role, hr]; decide
    rw [becomeStale, if_neg (by simp [hst])]
    dsimp only
    rw [← hdetail, hq, if_neg hroot, hsent, hplace.parentFrame_eq hd (by rw [hpost.dom]; rfl), hplace.deviceId hd]
  rw [hbecome]
  refine ⟨?_, ?_, ⟨q.out, rfl⟩, w2.sent⟩
  · rw [sent_on, State.on, hpost.fld w1.regsWf (not_isLedger_of_le (by unfold Reg.TIDE_DSTATUS; omega))]
    exact on_raise_same hs _ (by decide)
  · rw [sent_posted, ← hq]
    exact (stops_postCorrected w1.regsWf ..).posted

/-- A generation one ahead, for which no record is armed, makes the device stale. -/
theorem compareGen_ahead {d g : Nat} (hr : s.role d ≠ Role.OFF) (hn : (s.dom d).record = none) (hg : g = (s.modeGen d + 1) % 256) :
    compareGen d g s = becomeStale d s := by
  have hdiff : (g + 256 - s.modeGen d % 256) % 256 = 1 := by omega
  exact if_pos ⟨hr, by rw [hdiff], by rw [hdiff]; decide, by simp [hn]⟩

theorem heartbeat_ahead {p : Fin 32} {g : BitVec 8} (hs : s.Sound) (hf : s.fatal = false) (hu : s.usable p.val = true)
    (hc : (s.port p.val).closed = false) (hr : s.role d.val = Role.MEMBER) (hn : (s.dom d.val).record = none)
    (hst : s.on (Reg.TIDE_DSTATUS d.val) F.TIDE_DSTATUS_STALE = false) (hg : g.toNat = (s.modeGen d.val + 1) % 256) :
    Ends (.heartbeat p true dev [(d, g)]) s fun t =>
      t.on (Reg.TIDE_DSTATUS d.val) F.TIDE_DSTATUS_STALE = true ∧ s.posted < t.posted ∧
      parentFrame s d.val (.stale d.val s.deviceId) <:+ t.out ∧ KeepsAllBut (fun a => a = Reg.TIDE_DSTATUS d.val ∨ IsLedger a) s t := by
  obtain ⟨hstale, hposted, hout, w⟩ := becomeStale_member hs.regs d.isLt hf hr hst
  have hoff : s.role d.val ≠ Role.OFF := by rw [hr]; decide
  refine ⟨_, ?_, hstale, hposted, hout, w.keeps⟩
  have hexec : exec (.heartbeat p true dev [(d, g)]) s = .next (compareGen d.val g.toNat s) := by
    exact (if_neg (by simp [hu, hc])).trans (if_neg (by simp))
  rw [hexec, compareGen_ahead hoff hn hg]

/-! ### All commands -/

/-- Settles O31: each short frame passes through its link, and each notice then sets what its registers show or goes to the parent. -/
theorem tideReadinessAndLoss : Obligations.TideReadinessAndLoss := by
  intro s d c v dev h hs hf
  refine ⟨fun acts arg r hu hc hok hb i hi => ?_, fun hh hr hc => ready_ends hs hh hr hc,
    fun w hw hr hp hst hn hl hc => readySend_ends hs hf hw hr hp hst hn hl hc, fun w hw hm => readySend_again hw hm,
    fun hh ⟨hr, hap⟩ => lost_root hs hh hr hap, fun hh hr => lost_member hs hh hr,
    fun ⟨hr, hap⟩ hm hv hb => neighbourLost_calmRoot hs hr hap hm hv hb, fun _ _ hb => neighbourLost_again hs hb,
    fun p hl hu hi => heartbeatSend_ends hs hf hl hu hi, fun p gens hu hc hb => heartbeat_corrupt hs hu hc hb gens,
    fun p g hu hc hr hn hst hg => heartbeat_ahead hs hf hu hc hr hn hst hg⟩
  exact frame_corrupt hs hf (isFrameOf_of_tree d c v dev h acts arg r s i hi) hu hc hok hb

end Sys2Proof.Machine
end

section
/-! The records and the status of the two-phase mode change (R91 to R98), and what arming, committing and aborting leave of them. -/
namespace Sys2Proof.Machine

variable {s t : State} {W : Nat → Prop} {d : Nat} {r : List Word}

/-! ### Records -/

theorem ofBytes_lt (l : List Byte) : ofBytes l < 256 ^ l.length := by
  induction l with
  | nil => decide
  | cons b l ih =>
    have hb := b.isLt
    rw [List.length_cons, Nat.pow_succ]
    show b.toNat + 256 * ofBytes l < _
    omega

theorem field_lt (l : List Byte) (i n : Nat) : field l i n < 256 ^ n :=
  Nat.lt_of_lt_of_le (ofBytes_lt _) (Nat.pow_le_pow_right (by decide) (List.length_take_le _ _))

theorem recGen_lt (r : List Word) : recGen r < 2 ^ 32 := field_lt _ 12 4

/-- GEN is the upper half of the second word of a record. -/
theorem recGen_cons (a b : Word) (l : List Word) : recGen (a :: b :: l) = b.get ⟨63, 32⟩ := by
  have hb := b.isLt
  simp only [recGen, field, recBytes, bytesOf, List.flatMap_cons, List.range_succ, List.range_zero, ofBytes, Word.get, Fld.width]
  simp [Nat.shiftRight_eq_div_pow]
  omega

/-- The generation that MODE_REC holds. -/
theorem recGen_modeRecord (d : Nat) (s : State) : recGen (s.modeRecord d) = s.fld (Reg.TIDE_MODE_REC d 1) ⟨63, 32⟩ := recGen_cons _ _ _

theorem Within.modeRecord (w : Within W s t) (h : ∀ i, i < 8 → ¬ W (Reg.TIDE_MODE_REC d i)) : t.modeRecord d = s.modeRecord d :=
  List.map_congr_left fun i hi => w.reg (h i (List.mem_range.mp hi))

/-- MODE_REC with the generation after the present one. -/
def numbered (d : Nat) (s : State) : State := put (Reg.TIDE_MODE_REC d 1) ⟨63, 32⟩ ((s.modeGen d + 1) % 2 ^ 32) s

theorem recGen_numbered (h : s.RegsWf) (d : Nat) : recGen ((numbered d s).modeRecord d) = (s.modeGen d + 1) % 2 ^ 32 := by
  rw [recGen_modeRecord, numbered, fld_put_same h _ (by decide)]
  exact Nat.mod_mod _ _

theorem modeRec_ne_modeStatus (d i : Nat) (hi : i < 8) : Reg.TIDE_MODE_REC d i ≠ Reg.TIDE_MODE_STATUS d := by
  unfold Reg.TIDE_MODE_REC Reg.TIDE_MODE_STATUS; omega

/-! ### The status -/

/-- COMPLETION of the domain's mode command. -/
def State.modeCode (s : State) (d : Nat) : Nat := s.fld (Reg.TIDE_MODE_STATUS d) F.TIDE_MODE_STATUS_COMPLETION

theorem Within.modeState (w : Within W s t) (h : ¬ W (Reg.TIDE_MODE_STATUS d)) : t.modeState d = s.modeState d := w.fld h _
theorem Within.modeGen (w : Within W s t) (h : ¬ W (Reg.TIDE_MODE_STATUS d)) : t.modeGen d = s.modeGen d := w.fld h _

theorem modeState_setModeState (h : s.RegsWf) (d : Nat) {v : Nat} (hv : v < 4) : (setModeState d v s).modeState d = v :=
  (fld_put_same h _ (by decide) v).trans (Nat.mod_eq_of_lt hv)
theorem modeGen_setModeState (h : s.RegsWf) (d v : Nat) : (setModeState d v s).modeGen d = s.modeGen d :=
  fld_put_apart h _ (by decide) (by decide) v
theorem modeState_setGen (h : s.RegsWf) (d v : Nat) : (setGen d v s).modeState d = s.modeState d := fld_put_apart h _ (by decide) (by decide) v
theorem modeGen_setGen (h : s.RegsWf) (d : Nat) {v : Nat} (hv : v < 2 ^ 32) : (setGen d v s).modeGen d = v :=
  (fld_put_same h _ (by decide) v).trans (Nat.mod_eq_of_lt hv)

/-- At the root a mode command completes with its code. -/
theorem modeDone_root (hr : s.role d = Role.ROOT) (code : Nat) :
    modeDone d code s = put (Reg.TIDE_MODE_STATUS d) F.TIDE_MODE_STATUS_COMPLETION code s := by simp [modeDone, hr]
theorem modeAnswer_root (hr : s.role d = Role.ROOT) (hm : s.modeState d = ModeSt.NONE) (code : Nat) :
    modeAnswer d code s = put (Reg.TIDE_MODE_STATUS d) F.TIDE_MODE_STATUS_COMPLETION code s := by simp [modeAnswer, hm, modeDone_root hr]
theorem Within.modeDone {code : Nat} (w : Within W s t) (h : W (Reg.TIDE_MODE_STATUS d)) : Within W s (Machine.modeDone d code t) :=
  w.touches (touches_when (fun u => touches_put h _ _ u) t)
theorem modeState_modeDone (h : s.RegsWf) (d code : Nat) : (modeDone d code s).modeState d = s.modeState d :=
  fld_when_put_apart h _ _ (by decide) (by decide) _
theorem modeGen_modeDone (h : s.RegsWf) (d code : Nat) : (modeDone d code s).modeGen d = s.modeGen d :=
  fld_when_put_apart h _ _ (by decide) (by decide) _
theorem modeCode_put (h : s.RegsWf) (d : Nat) {code : Nat} (hc : code < 256) :
    (put (Reg.TIDE_MODE_STATUS d) F.TIDE_MODE_STATUS_COMPLETION code s).modeCode d = code :=
  (fld_put_same h _ (by decide) code).trans (Nat.mod_eq_of_lt hc)
theorem modeCode_modeDone (h : s.RegsWf) (hr : s.role d = Role.ROOT) {code : Nat} (hc : code < 256) : (modeDone d code s).modeCode d = code := by
  rw [modeDone_root hr, modeCode_put h d hc]
theorem out_modeDone (d code : Nat) (s : State) : (modeDone d code s).out = s.out := by
  unfold modeDone; cases s.role d == Role.ROOT <;> rfl
theorem domains_modeDone (d code : Nat) (s : State) : (modeDone d code s).domains = s.domains := by
  unfold modeDone; cases s.role d == Role.ROOT <;> rfl

/-! ### Arming, committing, clearing -/

theorem Within.armLocal (w : Within W s t) (h : W (Reg.TIDE_MODE_STATUS d)) : Within W s (Machine.armLocal d r t) := w.withDom.put h
theorem modeState_armLocal (h : s.RegsWf) (d : Nat) (r : List Word) : (armLocal d r s).modeState d = ModeSt.ARMED :=
  modeState_setModeState (s := setDom d _ s) h d (by decide)
theorem dom_armLocal (h : s.DomsWf) (d : Nat) (r : List Word) :
    (armLocal d r s).dom d = { s.dom d with record := some r, acked := [], ackSent := false, raised := false } := dom_setDom_same _ h _ _

theorem Within.commitLocal {gen : Nat} (w : Within W s t) (h : W (Reg.TIDE_MODE_STATUS d)) : Within W s (Machine.commitLocal d gen t) :=
  (w.withDom.put h).put h
theorem modeState_commitLocal (h : s.RegsWf) (d gen : Nat) : (commitLocal d gen s).modeState d = ModeSt.COMMITTED :=
  (modeState_setGen (RegsWf_put (s := setDom d _ s) h _ _ _) d gen).trans (modeState_setModeState (s := setDom d _ s) h d (by decide))
theorem modeGen_commitLocal (h : s.RegsWf) (d : Nat) {gen : Nat} (hg : gen < 2 ^ 32) : (commitLocal d gen s).modeGen d = gen :=
  modeGen_setGen (RegsWf_put (s := setDom d _ s) h _ _ _) d hg

theorem Within.clearMode (w : Within W s t) (h : W (Reg.TIDE_MODE_STATUS d)) : Within W s (Machine.clearMode d t) := w.withDom.put h
theorem modeState_clearMode (h : s.RegsWf) (d : Nat) : (clearMode d s).modeState d = ModeSt.NONE :=
  modeState_setModeState (s := setDom d _ s) h d (by decide)
theorem modeGen_clearMode (h : s.RegsWf) (d : Nat) : (clearMode d s).modeGen d = s.modeGen d := modeGen_setModeState (s := setDom d _ s) h d _
theorem dom_clearMode (h : s.DomsWf) (d : Nat) :
    (clearMode d s).dom d = { s.dom d with record := none, acked := [], ackSent := false, raised := false } := dom_setDom_same _ h _ _

/-! ### A change that ends with ABORT -/

/-- The registers that the end of a mode change writes. -/
abbrev IsAbortReg (d a : Nat) : Prop := a = Reg.TIDE_MODE_STATUS d ∨ a = Reg.TIDE_ABORT_COUNT d

theorem isOwnReg_of_isAbortReg {a : Nat} (h : IsAbortReg d a) : IsOwnReg d a := by
  rcases h with rfl | rfl
  · exact isOwnReg_modeStatus
  · exact isOwnReg_abortCount

/-- The change that was armed in `s` is gone in `t`, and its end is counted. -/
structure Aborted (d : Nat) (s t : State) : Prop where
  modeState : t.modeState d = ModeSt.NONE
  modeGen : t.modeGen d = s.modeGen d
  record : (t.dom d).record = none
  counts : Counts s t (Reg.TIDE_ABORT_COUNT d) 1
  out : t.out = s.out
  within : Within (IsAbortReg d) s t

theorem abortCount_ne_modeStatus (d : Nat) : Reg.TIDE_ABORT_COUNT d ≠ Reg.TIDE_MODE_STATUS d := by
  unfold Reg.TIDE_ABORT_COUNT Reg.TIDE_MODE_STATUS; omega

/-- A change whose generation has not been raised is discarded and counted. -/
theorem aborted_of_not_raised (h : s.RegsWf) (hd : s.DomsWf) (hr : (s.dom d).raised = false) (hb : s.Below (Reg.TIDE_ABORT_COUNT d) 1) :
    Aborted d s (bump (Reg.TIDE_ABORT_COUNT d) (abortLocal d s)) := by
  have hclear : abortLocal d s = clearMode d s := by simp [abortLocal, hr]
  have w1 : Within (fun a => a = Reg.TIDE_MODE_STATUS d) s (clearMode d s) := (Within.refl h).clearMode rfl
  have hcount := w1.fld (abortCount_ne_modeStatus d) ⟨47, 0⟩
  have hb' : (clearMode d s).Below (Reg.TIDE_ABORT_COUNT d) 1 := by rwa [State.Below, hcount]
  have w2 : Within (fun a => a = Reg.TIDE_ABORT_COUNT d) (clearMode d s) (bump (Reg.TIDE_ABORT_COUNT d) (clearMode d s)) :=
    within_bump (Within.refl w1.regsWf) hb' rfl
  rw [hclear]
  refine ⟨(w2.modeState (abortCount_ne_modeStatus d).symm).trans (modeState_clearMode h d),
    (w2.modeGen (abortCount_ne_modeStatus d).symm).trans (modeGen_clearMode h d), ?_, ?_, ?_, ?_⟩
  · rw [(touches_bump ..).dom, dom_clearMode hd]
  · rw [Counts, counts_bump w1.regsWf hb', hcount]
  · rw [bump_of_below hb']; rfl
  · exact (w1.mono fun _ => .inl).trans (w2.mono fun _ => .inr)

/-- The root ends a change with ABORT to its children, and completes the command. -/
theorem abortMode_root (h : s.RegsWf) (hd : s.DomsWf) (hn : d < 16) (hrole : s.role d = Role.ROOT) (hr : (s.dom d).raised = false)
    (hb : s.Below (Reg.TIDE_ABORT_COUNT d) 1) {code : Nat} (hc : code < 256) :
    (abortMode d code s).modeState d = ModeSt.NONE ∧ (abortMode d code s).modeCode d = code ∧ ((abortMode d code s).dom d).record = none ∧
      (abortMode d code s).modeGen d = s.modeGen d ∧ (abortMode d code s).out = s.out ++ childFrames s d (.abort d) ∧
      Within (IsAbortReg d) s (abortMode d code s) := by
  have ha := aborted_of_not_raised h hd hr hb
  have hplace := samePlace_of_own hn ha.within fun _ => isOwnReg_of_isAbortReg
  obtain ⟨ps, hsent⟩ := toChildren_sent d (.abort d) (bump (Reg.TIDE_ABORT_COUNT d) (abortLocal d s))
  have hmode : abortMode d code s = modeDone d code ((bump (Reg.TIDE_ABORT_COUNT d) (abortLocal d s)).sent ps (childFrames s d (.abort d))) := by
    rw [abortMode, hsent, hplace.childFrames_eq hn]
  have hregs := (ha.within.sent (ps := ps) (l := childFrames s d (.abort d))).regsWf
  rw [hmode]
  refine ⟨(modeState_modeDone hregs d code).trans ha.modeState, modeCode_modeDone hregs (hplace.role.trans hrole) hc, ?_,
    (modeGen_modeDone hregs d code).trans ha.modeGen, ?_, ha.within.sent.modeDone (.inl rfl)⟩
  · rw [State.dom, domains_modeDone]
    exact ha.record
  · rw [out_modeDone, sent_out, ha.out]

/-! ### Acknowledgements -/

/-- While a live child has not acknowledged, the change waits. -/
theorem gatherAcks_waiting {c : Nat} (hc : c ∈ s.liveChildren d) (hn : c ∉ (s.dom d).acked) : gatherAcks d s = s := by
  refine if_pos (.inr (.inr ?_))
  simp only [Bool.not_eq_true', List.all_eq_false]
  exact ⟨c, hc, by simpa using hn⟩

/-- What stands once this device has answered. -/
def ackGiven (d : Nat) (s : State) : State := setDom d { s.dom d with ackSent := true } s

section
variable (ha : s.modeState d = ModeSt.ARMED) (hsent : (s.dom d).ackSent = false) (hall : ∀ b ∈ s.liveChildren d, b ∈ (s.dom d).acked)
include ha hsent hall

/-- With every acknowledgement the root commits, and a member acknowledges. -/
theorem gatherAcks_complete : gatherAcks d s = if s.role d = Role.ROOT then
    commitLocal d (((s.dom d).record.map recGen).getD 0) (toChildren d (.commit d) (ackGiven d s)) else toParent d (.ack d) (ackGiven d s) := by
  have hacks : (s.liveChildren d).all (s.dom d).acked.contains = true := by simpa using hall
  exact if_neg (by simp [ha, hsent, hacks])

/-- The root commits the armed record. -/
theorem gatherAcks_root (h : s.RegsWf) (hrole : s.role d = Role.ROOT) (hr : (s.dom d).record = some r) :
    (gatherAcks d s).modeState d = ModeSt.COMMITTED ∧ (gatherAcks d s).modeGen d = recGen r ∧
      (gatherAcks d s).out = s.out ++ childFrames s d (.commit d) ∧ Within (fun a => a = Reg.TIDE_MODE_STATUS d) s (gatherAcks d s) := by
  obtain ⟨ps, htold⟩ := toChildren_sent d (.commit d) (ackGiven d s)
  have w : Within (fun a => a = Reg.TIDE_MODE_STATUS d) s ((ackGiven d s).sent ps (childFrames (ackGiven d s) d (.commit d))) :=
    (Within.refl h).withDom.sent
  rw [gatherAcks_complete ha hsent hall, if_pos hrole, htold, hr]
  exact ⟨modeState_commitLocal w.regsWf d _, modeGen_commitLocal w.regsWf d (recGen_lt r), rfl, w.commitLocal rfl⟩

/-- A member acknowledges to its parent. -/
theorem gatherAcks_member (hf : s.fatal = false) (hrole : s.role d = Role.MEMBER) :
    ∃ ps, gatherAcks d s = (ackGiven d s).sent ps (parentFrame (ackGiven d s) d (.ack d)) := by
  rw [gatherAcks_complete ha hsent hall, if_neg (by rw [hrole]; decide)]
  exact toParent_sent d (.ack d) hf

end

end Sys2Proof.Machine
end

section
/-! The commands of the two-phase mode change (R91 to R98), at the root and at a member. -/
namespace Sys2Proof.Machine

open Host (Outcome)

variable {s t : State} {W : Nat → Prop} {d : Fin 16} {c : Fin 7} {h : Hop} {r : List Word} {dev : BitVec 13}

/-- The register of a domain's mode status alone. -/
abbrev IsModeStatus (d a : Nat) : Prop := a = Reg.TIDE_MODE_STATUS d

theorem isOwnReg_of_isModeStatus {d a : Nat} (h : IsModeStatus d a) : IsOwnReg d a := h ▸ isOwnReg_modeStatus

/-! ### What each frame does -/

section
variable {d dev : Nat}

/-- A member with a parent hears it. -/
theorem hears_of_member (hrole : s.role d = Role.MEMBER) (hp : s.parentValid d = true) : s.hears d = true := by
  simp [State.hears, hrole, hp]

theorem toChildren_of_none (hc : s.children d = []) (f : Frame) : toChildren d f s = s := by simp [toChildren, hc]

theorem receiveArm_admitted (hh : s.hears d = true) (hm : s.modeState d = ModeSt.NONE) (hc : s.children d = [])
    (hr : recAccepted d r s = true) : receiveArm d r s = gatherAcks d (armLocal d r s) := by
  rw [receiveArm, hh, toChildren_of_none hc, hm]
  exact if_pos hr

theorem receiveAck_armed {c : Nat} (hm : s.modeState d = ModeSt.ARMED) :
    receiveAck d c s = gatherAcks d (setDom d { s.dom d with acked := insertMark c (s.dom d).acked } s) := if_neg (by simp [hm])

theorem receiveNack_root (hrole : s.role d = Role.ROOT) (hm : s.modeState d = ModeSt.ARMED) :
    receiveNack d s = abortMode d Code.REFUSED s := (if_pos hrole).trans (by rw [hm]; rfl)

theorem receiveCommit_armed (hh : s.hears d = true) (hm : s.modeState d = ModeSt.ARMED) (hr : (s.dom d).record = some r) :
    receiveCommit d s = toChildren d (.commit d) (commitLocal d (recGen r) s) := by
  rw [receiveCommit, hh, if_pos hm, hr]
  rfl

theorem receiveAbort_armed (hh : s.hears d = true) (hm : s.modeState d = ModeSt.ARMED) :
    receiveAbort d s = toChildren d (.abort d) (bump (Reg.TIDE_ABORT_COUNT d) (abortLocal d s)) := by
  rw [receiveAbort, hh, hm]
  rfl

theorem receiveRearm_own (hh : s.hears d = true) (hdev : dev = s.deviceId) : receiveRearm d dev r s = rearmLocal wr d r s := by
  rw [receiveRearm, hh]
  exact if_pos hdev

theorem receiveStale_root (hrole : s.role d = Role.ROOT) : receiveStale d dev s =
    raise (Reg.TIDE_DSTATUS d) F.TIDE_DSTATUS_STALE_SEEN (setDom d { s.dom d with staleDevs := insertMark dev (s.dom d).staleDevs } s) :=
  if_pos hrole

theorem receiveStale_member (hrole : s.role d = Role.MEMBER) : receiveStale d dev s = toParent d (.stale d dev) s := by
  simp [receiveStale, hrole, Role.MEMBER, Role.ROOT]

end

/-! ### MODE_ARM and MODE_CANCEL -/

/-- An admitted record is numbered, armed and sent to the children. -/
theorem modeArm_admitted {d : Nat} (hm : s.modeState d = ModeSt.NONE) (ht : (s.tide d).toNat < (recT (s.modeRecord d)).toNat)
    (hr : recAccepted d (s.modeRecord d) s = true) : modeArm d s = gatherAcks d (toChildren d (.arm d ((numbered d s).modeRecord d))
      (modeDone d Code.DEFERRED (armLocal d ((numbered d s).modeRecord d) (numbered d s)))) :=
  if_neg (by simp [hm, hr]; omega)

/-- The registers that MODE_ARM writes. -/
abbrev IsArmReg (d a : Nat) : Prop := a = Reg.TIDE_MODE_STATUS d ∨ a = Reg.TIDE_MODE_REC d 1

theorem isOwnReg_of_isArmReg {d a : Nat} (h : IsArmReg d a) : IsOwnReg d a := by
  rcases h with rfl | rfl
  · exact isOwnReg_modeStatus
  · exact isOwnReg_modeRec

/-- Record `r`, of the next generation, stands in MODE_REC and is armed, and the root's command is DEFERRED. -/
structure Offered (d : Nat) (r : List Word) (s t : State) : Prop where
  modeState : t.modeState d = ModeSt.ARMED
  modeCode : t.modeCode d = Code.DEFERRED
  record : t.modeRecord d = r
  gen : recGen r = (s.modeGen d + 1) % 2 ^ 32
  dom : t.dom d = { s.dom d with record := some r, acked := [], ackSent := false, raised := false }
  out : t.out = s.out
  within : Within (IsArmReg d) s t

theorem offered_of_root {d : Nat} (h : s.RegsWf) (hdoms : s.DomsWf) (hd : d < 16) (hrole : s.role d = Role.ROOT) :
    Offered d ((numbered d s).modeRecord d) s (modeDone d Code.DEFERRED (armLocal d ((numbered d s).modeRecord d) (numbered d s))) := by
  have wn : Within (IsArmReg d) s (numbered d s) := (Within.refl h).put (.inr rfl)
  generalize hq : (numbered d s).modeRecord d = q
  have wa : Within (IsModeStatus d) (numbered d s) (armLocal d q (numbered d s)) := (Within.refl wn.regsWf).armLocal rfl
  have wd : Within (IsModeStatus d) (numbered d s) (modeDone d Code.DEFERRED (armLocal d q (numbered d s))) := wa.modeDone rfl
  have hrole' : (armLocal d q (numbered d s)).role d = Role.ROOT :=
    (samePlace_of_own hd (wn.trans (wa.mono fun _ => .inl)) fun _ => isOwnReg_of_isArmReg).role.trans hrole
  refine ⟨(modeState_modeDone wa.regsWf d _).trans (modeState_armLocal wn.regsWf d q), modeCode_modeDone wa.regsWf hrole' (by decide),
    (wd.modeRecord fun i hi => modeRec_ne_modeStatus d i hi).trans hq, ?_, ?_, out_modeDone .., wn.trans (wd.mono fun _ => .inl)⟩
  · rw [← hq, recGen_numbered h]
  · rw [State.dom, domains_modeDone]
    exact dom_armLocal (s := numbered d s) hdoms d q

theorem modeArm_arms (hs : s.Sound) (hrole : s.role d.val = Role.ROOT) (hm : s.modeState d.val = ModeSt.NONE)
    (ht : (s.tide d.val).toNat < (recT (s.modeRecord d.val)).toNat) (hr : recAccepted d.val (s.modeRecord d.val) s = true)
    (hl : s.liveChildren d.val ≠ []) : Ends (.modeArm d) s fun t => t.modeState d.val = ModeSt.ARMED ∧ t.modeCode d.val = Code.DEFERRED ∧
      (t.dom d.val).record = some (t.modeRecord d.val) ∧ recGen (t.modeRecord d.val) = (s.modeGen d.val + 1) % 2 ^ 32 ∧
      t.out = s.out ++ childFrames s d.val (.arm d.val (t.modeRecord d.val)) ∧ KeepsAllBut (IsArmReg d.val) s t := by
  have ho := offered_of_root hs.regs hs.domains d.isLt hrole
  have harm := modeArm_admitted hm ht hr
  generalize (numbered d.val s).modeRecord d.val = q at ho harm
  generalize modeDone d.val Code.DEFERRED (armLocal d.val q (numbered d.val s)) = a at ho harm
  have hplace := samePlace_of_own d.isLt ho.within fun _ => isOwnReg_of_isArmReg
  have hlive : a.liveChildren d.val = s.liveChildren d.val :=
    hplace.liveChildren (ho.within.fld (by unfold IsArmReg Reg.TIDE_DSTATUS Reg.TIDE_MODE_STATUS Reg.TIDE_MODE_REC; omega) _)
  obtain ⟨b, hb⟩ := List.exists_mem_of_ne_nil _ hl
  obtain ⟨ps, hsent⟩ := toChildren_sent d.val (.arm d.val q) a
  rw [hplace.childFrames_eq d.isLt] at hsent
  have hwait := gatherAcks_waiting (s := a.sent ps (childFrames s d.val (.arm d.val q))) (c := b) (hlive ▸ hb)
    (by rw [sent_dom, ho.dom]; exact List.not_mem_nil)
  rw [hsent, hwait] at harm
  have hrec : (a.sent ps (childFrames s d.val (.arm d.val q))).modeRecord d.val = q := ho.record
  refine ⟨_, congrArg Outcome.next ((if_pos hrole).trans harm), ho.modeState, ho.modeCode, ?_, ?_, ?_, ho.within.sent.keeps⟩
  · rw [hrec, sent_dom, ho.dom]
  · rw [hrec, ho.gen]
  · rw [hrec, sent_out, ho.out]

/-- A mode command that is refused at a root without a change. -/
theorem refused_ends {i : Instr} (hs : s.Sound) (hrole : s.role d.val = Role.ROOT) (hm : s.modeState d.val = ModeSt.NONE)
    (hi : exec i s = .next (modeAnswer d.val Code.REFUSED s)) : Ends i s fun t => t.modeCode d.val = Code.REFUSED ∧
      KeepsAllBut (fun a => a = Reg.TIDE_MODE_STATUS d.val) s t := by
  rw [modeAnswer_root hrole hm] at hi
  exact ⟨_, hi, modeCode_put hs.regs d.val (by decide), ((Within.refl (W := IsModeStatus d.val) hs.regs).put rfl).keeps⟩

theorem modeArm_refused (hs : s.Sound) (hrole : s.role d.val = Role.ROOT) (hm : s.modeState d.val = ModeSt.NONE)
    (hr : recAccepted d.val (s.modeRecord d.val) s = false) : Ends (.modeArm d) s fun t => t.modeCode d.val = Code.REFUSED ∧
      KeepsAllBut (fun a => a = Reg.TIDE_MODE_STATUS d.val) s t :=
  refused_ends hs hrole hm (congrArg Outcome.next ((if_pos hrole).trans (if_pos (by simp [hr]))))

theorem modeArm_under_way (hrole : s.role d.val = Role.ROOT) (hm : s.modeState d.val ≠ ModeSt.NONE) : NoEffect (.modeArm d) s :=
  congrArg Outcome.next ((if_pos hrole).trans ((if_pos (.inl hm)).trans (by rw [modeAnswer, beq_eq_false_iff_ne.mpr hm, when_false])))

/-- The end of a change by CANCEL or NACK. -/
def ChangeEnded (d : Nat) (pre : List Output) (s t : State) : Prop :=
  t.modeState d = ModeSt.NONE ∧ t.modeCode d = Code.REFUSED ∧ (t.dom d).record = none ∧ t.modeGen d = s.modeGen d ∧
    t.out = s.out ++ pre ++ childFrames s d (.abort d) ∧ KeepsAllBut (IsAbortReg d) s t

theorem changeEnded_abortMode (hs : s.Sound) (hrole : s.role d.val = Role.ROOT) (hr : (s.dom d.val).raised = false)
    (hb : s.Below (Reg.TIDE_ABORT_COUNT d.val) 1) (ps : Store PortState) (pre : List Output) :
    ChangeEnded d.val pre s (abortMode d.val Code.REFUSED (s.sent ps pre)) := by
  obtain ⟨hstate, hcode, hrec, hgen, hout, w⟩ := abortMode_root (s := s.sent ps pre) hs.regs hs.domains d.isLt hrole hr hb
    (show Code.REFUSED < 256 by decide)
  exact ⟨hstate, hcode, hrec, hgen, hout, w.of_sent.keeps⟩

section
variable (hs : s.Sound) (hrole : s.role d.val = Role.ROOT) (hm : s.modeState d.val = ModeSt.ARMED) (hr : (s.dom d.val).raised = false)
  (hb : s.Below (Reg.TIDE_ABORT_COUNT d.val) 1)
include hs hrole hm hr hb

theorem modeCancel_ends : Ends (.modeCancel d) s (ChangeEnded d.val [] s) := by
  have hcancel : modeCancel d.val s = abortMode d.val Code.REFUSED s := by rw [modeCancel, hm]; rfl
  have hended := changeEnded_abortMode hs hrole hr hb s.ports []
  rw [sent_nil, ← hcancel] at hended
  exact ⟨_, congrArg Outcome.next (if_pos hrole), hended⟩

theorem nack_root (hh : s.Heard h) : Ends (.nack d h c) s (ChangeEnded d.val [hopAck h] s) := by
  refine ends_of_heard hh rfl fun ps => ?_
  rw [receiveNack_root (s := s.sent ps [hopAck h]) hrole hm]
  exact changeEnded_abortMode hs hrole hr hb ps _

end

/-! ### The last acknowledgement -/

section
variable (hs : s.Sound) (hrole : s.role d.val = Role.ROOT) (hm : s.modeState d.val = ModeSt.ARMED) (hr : (s.dom d.val).record = some r)
  (hsent : (s.dom d.val).ackSent = false) (hall : ∀ b ∈ s.liveChildren d.val, b ≠ c.val → b ∈ (s.dom d.val).acked)
include hs hrole hm hr hsent hall

theorem ack_commits (hh : s.Heard h) : Ends (.ack d h c) s fun t => t.modeState d.val = ModeSt.COMMITTED ∧ t.modeGen d.val = recGen r ∧
    [hopAck h] ++ childFrames s d.val (.commit d.val) <:+ t.out ∧ KeepsAllBut (fun a => a = Reg.TIDE_MODE_STATUS d.val) s t := by
  refine ends_of_heard hh rfl fun ps => ?_
  obtain ⟨a, ha⟩ : ∃ a, a =
      setDom d.val { s.dom d.val with acked := insertMark c.val (s.dom d.val).acked } (s.sent ps [hopAck h]) := ⟨_, rfl⟩
  have hdom : a.dom d.val = { s.dom d.val with acked := insertMark c.val (s.dom d.val).acked } :=
    ha ▸ dom_setDom_same (s.sent ps [hopAck h]) hs.domains _ _
  have w : Within (fun a => a = Reg.TIDE_MODE_STATUS d.val) s a := ha ▸ (Within.refl hs.regs).sent.withDom
  have hma : a.modeState d.val = ModeSt.ARMED := ha ▸ hm
  have hlive : a.liveChildren d.val = s.liveChildren d.val := ha ▸ rfl
  have hack : receiveAck d.val c.val (s.sent ps [hopAck h]) = gatherAcks d.val a := ha ▸ receiveAck_armed (s := s.sent ps [hopAck h]) hm
  have hacks : ∀ b ∈ a.liveChildren d.val, b ∈ (a.dom d.val).acked := by
    intro b hb
    rw [hdom]
    rw [hlive] at hb
    by_cases e : b = c.val
    · exact mem_insertMark.mpr (.inl e)
    · exact mem_insertMark.mpr (.inr (hall b hb e))
  obtain ⟨hstate, hgen, hout, wg⟩ := gatherAcks_root hma (by rw [hdom]; exact hsent) hacks w.regsWf (ha ▸ hrole)
    (r := r) (by rw [hdom]; exact hr)
  have houta : a.out = s.out ++ [hopAck h] := ha ▸ rfl
  have hframes : childFrames a d.val (.commit d.val) = childFrames s d.val (.commit d.val) := ha ▸ rfl
  rw [hack]
  exact ⟨hstate, hgen, ⟨s.out, by rw [hout, houta, hframes, List.append_assoc]⟩, (w.trans wg).keeps⟩

theorem neighbourLost_commits (hv : s.on (Reg.TIDE_CHILD d.val c.val) F.TIDE_CHILD_VALID = true)
    (hb : bit (s.fld (Reg.TIDE_DSTATUS d.val) F.TIDE_DSTATUS_LOST_CHILD) c.val = false)
    (hap : s.on (Reg.TIDE_CTRL d.val) F.TIDE_CTRL_AUTO_PAUSE = false) : Ends (.neighbourLost d (some c)) s fun t =>
      t.modeState d.val = ModeSt.COMMITTED ∧ t.modeGen d.val = recGen r ∧ childFrames s d.val (.commit d.val) <:+ t.out ∧
      KeepsAllBut (fun a => a = Reg.TIDE_MODE_STATUS d.val ∨ a = Reg.TIDE_DSTATUS d.val ∨ IsLedger a) s t := by
  have hl := childLost_lost hs.regs d.isLt c.isLt hb
  have hdom : (childLost d.val c.val s).dom d.val = s.dom d.val := by rw [State.dom, hl.domains]; rfl
  have hma : (childLost d.val c.val s).modeState d.val = ModeSt.ARMED :=
    (hl.within.modeState (by unfold IsLedger Reg.TIDE_MODE_STATUS Reg.TIDE_DSTATUS; omega)).trans hm
  have hacks : ∀ b ∈ (childLost d.val c.val s).liveChildren d.val, b ∈ ((childLost d.val c.val s).dom d.val).acked := by
    intro b hb
    rw [State.liveChildren, hl.place.children, List.mem_filter, hl.marks] at hb
    obtain ⟨hchild, hlive⟩ := hb
    simp only [Bool.not_or, Bool.and_eq_true, Bool.not_eq_true', decide_eq_false_iff_not] at hlive
    rw [hdom]
    exact hall b (List.mem_filter.mpr ⟨hchild, by simp [hlive.1]⟩) hlive.2
  obtain ⟨hstate, hgen, hout, wg⟩ := gatherAcks_root hma (by rw [hdom]; exact hsent) hacks hl.within.regsWf (hl.place.role.trans hrole)
    (r := r) (by rw [hdom]; exact hr)
  have w := (hl.within.mono (V := fun a => a = Reg.TIDE_MODE_STATUS d.val ∨ a = Reg.TIDE_DSTATUS d.val ∨ IsLedger a) fun _ => .inr).trans
    (wg.mono fun _ => .inl)
  refine ⟨_, congrArg Outcome.next ?_, hstate, hgen, ⟨(childLost d.val c.val s).out, by rw [hout, hl.place.childFrames_eq d.isLt]⟩, w.keeps⟩
  show settle (loseNeighbour wr d.val (some c.val) s) = _
  rw [loseNeighbour_calmRoot hs.regs d.isLt c.isLt hrole hap hv hb, w.settle hs]

end

/-! ### ARM, COMMIT and ABORT at a member -/

theorem member_arms (hs : s.Sound) (hrole : s.role d.val = Role.MEMBER) (hp : s.parentValid d.val = true) (hm : s.modeState d.val = ModeSt.NONE)
    (hr : recAccepted d.val r s = true) (hc : s.children d.val = []) (hh : s.Heard h) : Ends (.arm d h r) s fun t =>
      t.modeState d.val = ModeSt.ARMED ∧ (t.dom d.val).record = some r ∧ t.out = s.out ++ [hopAck h] ++ parentFrame s d.val (.ack d.val) ∧
      KeepsAllBut (fun a => a = Reg.TIDE_MODE_STATUS d.val) s t := by
  refine ends_of_heard hh rfl fun ps => ?_
  obtain ⟨a, ha⟩ : ∃ a, a = armLocal d.val r (s.sent ps [hopAck h]) := ⟨_, rfl⟩
  have w : Within (IsModeStatus d.val) s a := ha ▸ (Within.refl hs.regs).sent.armLocal rfl
  have hplace := samePlace_of_own d.isLt w fun _ => isOwnReg_of_isModeStatus
  have hdom : a.dom d.val = { s.dom d.val with record := some r, acked := [], ackSent := false, raised := false } :=
    ha ▸ dom_armLocal (s := s.sent ps [hopAck h]) hs.domains d.val r
  have hma : a.modeState d.val = ModeSt.ARMED := ha ▸ modeState_armLocal (s := s.sent ps [hopAck h]) hs.regs d.val r
  have harm : receiveArm d.val r (s.sent ps [hopAck h]) = gatherAcks d.val a :=
    ha ▸ receiveArm_admitted (s := s.sent ps [hopAck h]) (hears_of_member hrole hp) hm hc hr
  have hlive : a.liveChildren d.val = [] := by rw [State.liveChildren, hplace.children, hc, List.filter_nil]
  obtain ⟨qs, hack⟩ := gatherAcks_member hma (by rw [hdom]) (by rw [hlive]; nofun) (hplace.fatal.trans hh.1) (hplace.role.trans hrole)
  have wg : Within (IsModeStatus d.val) s (ackGiven d.val a) := w.withDom
  have hgiven : (ackGiven d.val a).dom d.val = { a.dom d.val with ackSent := true } :=
    dom_setDom_same a (ha ▸ DomsWf_setDom (s := s.sent ps [hopAck h]) hs.domains _ _) _ _
  have hframe : parentFrame (ackGiven d.val a) d.val (.ack d.val) = parentFrame s d.val (.ack d.val) :=
    (samePlace_of_own d.isLt wg fun _ => isOwnReg_of_isModeStatus).parentFrame_eq d.isLt (by rw [hgiven, hdom]) _
  rw [harm, hack, hframe]
  refine ⟨hma, ?_, ?_, wg.sent.keeps⟩
  · rw [sent_dom, hgiven, hdom]
  · have houta : (ackGiven d.val a).out = s.out ++ [hopAck h] := ha ▸ rfl
    rw [sent_out, houta]

theorem commit_member (hs : s.Sound) (hrole : s.role d.val = Role.MEMBER) (hp : s.parentValid d.val = true)
    (hm : s.modeState d.val = ModeSt.ARMED) (hr : (s.dom d.val).record = some r) (hh : s.Heard h) : Ends (.commit d h) s fun t =>
      t.modeState d.val = ModeSt.COMMITTED ∧ t.modeGen d.val = recGen r ∧
      t.out = s.out ++ [hopAck h] ++ childFrames s d.val (.commit d.val) ∧ KeepsAllBut (fun a => a = Reg.TIDE_MODE_STATUS d.val) s t := by
  refine ends_of_heard hh rfl fun ps => ?_
  obtain ⟨a, ha⟩ : ∃ a, a = commitLocal d.val (recGen r) (s.sent ps [hopAck h]) := ⟨_, rfl⟩
  have w : Within (IsModeStatus d.val) s a := ha ▸ (Within.refl hs.regs).sent.commitLocal rfl
  obtain ⟨qs, hsent⟩ := toChildren_sent d.val (.commit d.val) a
  have hcommit : receiveCommit d.val (s.sent ps [hopAck h]) = a.sent qs (childFrames s d.val (.commit d.val)) := by
    rw [receiveCommit_armed (s := s.sent ps [hopAck h]) (hears_of_member hrole hp) hm hr, ← ha, hsent,
      (samePlace_of_own d.isLt w fun _ => isOwnReg_of_isModeStatus).childFrames_eq d.isLt]
  have houta : a.out = s.out ++ [hopAck h] := ha ▸ rfl
  rw [hcommit]
  refine ⟨?_, ?_, congrArg (· ++ _) houta, w.sent.keeps⟩
  · rw [sent_modeState, ha]
    exact modeState_commitLocal (s := s.sent ps [hopAck h]) hs.regs d.val (recGen r)
  · rw [sent_modeGen, ha]
    exact modeGen_commitLocal (s := s.sent ps [hopAck h]) hs.regs d.val (recGen_lt r)

theorem abort_member (hs : s.Sound) (hrole : s.role d.val = Role.MEMBER) (hp : s.parentValid d.val = true)
    (hm : s.modeState d.val = ModeSt.ARMED) (hr : (s.dom d.val).raised = false) (hb : s.Below (Reg.TIDE_ABORT_COUNT d.val) 1)
    (hh : s.Heard h) : Ends (.abort d h) s fun t => t.modeState d.val = ModeSt.NONE ∧ (t.dom d.val).record = none ∧
      Counts s t (Reg.TIDE_ABORT_COUNT d.val) 1 ∧ KeepsAllBut (IsAbortReg d.val) s t := by
  refine ends_of_heard hh rfl fun ps => ?_
  have ha := aborted_of_not_raised (s := s.sent ps [hopAck h]) hs.regs hs.domains hr hb
  obtain ⟨qs, hsent⟩ := toChildren_sent d.val (.abort d.val) (bump (Reg.TIDE_ABORT_COUNT d.val) (abortLocal d.val (s.sent ps [hopAck h])))
  rw [receiveAbort_armed (s := s.sent ps [hopAck h]) (hears_of_member hrole hp) hm, hsent]
  exact ⟨ha.modeState, ha.record, ha.counts, ha.within.of_sent.sent.keeps⟩

/-! ### REARM and STALE -/

/-- The injection mask in its unit's table. -/
def injEnableRow : RegRow := ⟨0x150018, 1, 0x8, 1, 0x8, false, [⟨31, 0, .rw, 0, 0, []⟩]⟩

theorem rowOf_FAB_INJ_ENABLE : rowOf Reg.FAB_INJ_ENABLE = some injEnableRow := by decide +kernel

/-- A write of the injection mask sets it. -/
theorem wr_injEnable (hr : s.recovery = false) (v : Word) :
    ∃ w : Word, wr Reg.FAB_INJ_ENABLE v s = setR Reg.FAB_INJ_ENABLE w s ∧ w.get F.FAB_INJ_ENABLE_V = v.get F.FAB_INJ_ENABLE_V := by
  have hunit : unitOf Reg.FAB_INJ_ENABLE = some .fab := by decide
  have hcount : isCounter Reg.FAB_INJ_ENABLE = false := by rw [isCounter, rowOf_FAB_INJ_ENABLE]; rfl
  have hspace : spaceWrite (writerAt 16) .fab Reg.FAB_INJ_ENABLE v s = genericWrite Reg.FAB_INJ_ENABLE v s := rfl
  have hbus : wr Reg.FAB_INJ_ENABLE v s = genericWrite Reg.FAB_INJ_ENABLE v s := by
    have hwr : wr = busWrite (writerAt 16) := rfl
    simp [hwr, busWrite, hunit, hr, rowOf_FAB_INJ_ENABLE, hcount, hspace]
  have hall : injEnableRow.reserved v = false := by simp [RegRow.reserved, injEnableRow, FieldSpec.admits]
  refine ⟨fieldsAfter injEnableRow Reg.FAB_INJ_ENABLE v s, ?_, ?_⟩
  · rw [hbus, genericWrite_of_row rowOf_FAB_INJ_ENABLE]
    exact congrArg (fun b => when b (badWrite Reg.FAB_INJ_ENABLE) _) hall
  · exact (get_writeFields (fs := injEnableRow.fields) (f := ⟨31, 0, .rw, 0, 0, []⟩) (by decide) (by decide) _ v).trans (FieldSpec.after_rw ..)

/-- The registers that REARM of an INJECTION record writes. -/
abbrev IsRearmReg (d a : Nat) : Prop := a = Reg.TIDE_MODE_STATUS d ∨ a = Reg.TIDE_DSTATUS d ∨ a = Reg.FAB_INJ_ENABLE

/-- REARM of a stale device with an INJECTION record. -/
theorem rearmLocal_injection {d : Nat} (h : s.RegsWf) (hd : d < 16) (hst : s.on (Reg.TIDE_DSTATUS d) F.TIDE_DSTATUS_STALE = true)
    (hk : recKind r = 3) (hrec : s.recovery = false) : (rearmLocal wr d r s).modeGen d = recGen r ∧
      (rearmLocal wr d r s).on (Reg.TIDE_DSTATUS d) F.TIDE_DSTATUS_STALE = false ∧
      (rearmLocal wr d r s).fld Reg.FAB_INJ_ENABLE F.FAB_INJ_ENABLE_V = field (recBytes r) 16 4 ∧
      Within (IsRearmReg d) s (rearmLocal wr d r s) := by
  have hne : Reg.FAB_INJ_ENABLE ≠ Reg.TIDE_MODE_STATUS d ∧ Reg.FAB_INJ_ENABLE ≠ Reg.TIDE_DSTATUS d ∧
      Reg.TIDE_MODE_STATUS d ≠ Reg.TIDE_DSTATUS d ∧ Reg.MGT_STATUS ≠ Reg.TIDE_MODE_STATUS d := by
    unfold Reg.FAB_INJ_ENABLE Reg.TIDE_MODE_STATUS Reg.TIDE_DSTATUS Reg.MGT_STATUS; omega
  obtain ⟨hnm, hnd, hmd, hmgt⟩ := hne
  have w1 : Within (IsModeStatus d) s (clearMode d s) := (Within.refl h).clearMode rfl
  have hrec1 : (clearMode d s).recovery = false := by rw [State.recovery, w1.fld hmgt]; exact hrec
  obtain ⟨m, hwr, hmask⟩ := wr_injEnable hrec1 (BitVec.ofNat 64 (field (recBytes r) 16 4))
  have happly : applyRecord wr d r (clearMode d s) = setR Reg.FAB_INJ_ENABLE m (clearMode d s) := by simp only [applyRecord, hk, hwr]
  have hrearm : rearmLocal wr d r s =
      put (Reg.TIDE_DSTATUS d) F.TIDE_DSTATUS_STALE 0 (setGen d (recGen r) (setR Reg.FAB_INJ_ENABLE m (clearMode d s))) := by
    rw [rearmLocal, hst, happly]; rfl
  have w2 : Within (IsRearmReg d) s (setR Reg.FAB_INJ_ENABLE m (clearMode d s)) := (w1.mono fun _ => .inl).setR (.inr (.inr rfl))
  have w3 : Within (IsRearmReg d) s (setGen d (recGen r) (setR Reg.FAB_INJ_ENABLE m (clearMode d s))) := w2.put (.inl rfl)
  rw [hrearm]
  refine ⟨?_, ?_, ?_, w3.put (.inr (.inl rfl))⟩
  · exact (fld_put_ne w3.regsWf _ _ _ hmd).trans (modeGen_setGen w2.regsWf d (recGen_lt r))
  · rw [State.on, fld_put_same w3.regsWf _ (by decide)]
    rfl
  · have hlt := field_lt (recBytes r) 16 4
    rw [fld_put_ne w3.regsWf _ _ _ hnd, setGen, fld_put_ne w2.regsWf _ _ _ hnm, fld_setR_same w1.regsWf, hmask]
    simp only [Word.get, F.FAB_INJ_ENABLE_V, Fld.width, BitVec.toNat_ofNat, Nat.shiftRight_zero]
    omega

theorem rearm_member (hs : s.Sound) (hrole : s.role d.val = Role.MEMBER) (hp : s.parentValid d.val = true) (hdev : dev.toNat = s.deviceId)
    (hst : s.on (Reg.TIDE_DSTATUS d.val) F.TIDE_DSTATUS_STALE = true) (hk : recKind r = 3) (hrec : s.recovery = false) (hh : s.Heard h) :
    Ends (.rearm d h dev r) s fun t => t.modeGen d.val = recGen r ∧ t.on (Reg.TIDE_DSTATUS d.val) F.TIDE_DSTATUS_STALE = false ∧
      t.fld Reg.FAB_INJ_ENABLE F.FAB_INJ_ENABLE_V = field (recBytes r) 16 4 ∧ KeepsAllBut (IsRearmReg d.val) s t := by
  have hrearm (ps) := receiveRearm_own (s := s.sent ps [hopAck h]) (r := r) (hears_of_member hrole hp) hdev
  have hlocal (ps) := rearmLocal_injection (s := s.sent ps [hopAck h]) hs.regs d.isLt hst hk hrec
  refine ends_of_heard_settled (W := IsRearmReg d.val) hs hh rfl (fun ps => ?_) fun ps => ?_
  · obtain ⟨-, -, -, w⟩ := hlocal ps
    rw [hrearm]
    exact w.of_sent
  · obtain ⟨hgen, hclear, hmask, w⟩ := hlocal ps
    rw [hrearm]
    exact ⟨hgen, hclear, hmask, w.of_sent.keeps⟩

theorem stale_root (hs : s.Sound) (hrole : s.role d.val = Role.ROOT) (hh : s.Heard h) : Ends (.stale d h dev) s fun t =>
    dev.toNat ∈ (t.dom d.val).staleDevs ∧ t.on (Reg.TIDE_DSTATUS d.val) F.TIDE_DSTATUS_STALE_SEEN = true ∧
      KeepsAllBut (fun a => a = Reg.TIDE_DSTATUS d.val) s t := by
  refine ends_of_heard hh rfl fun ps => ?_
  obtain ⟨a, ha⟩ : ∃ a, a =
      setDom d.val { s.dom d.val with staleDevs := insertMark dev.toNat (s.dom d.val).staleDevs } (s.sent ps [hopAck h]) :=
    ⟨_, rfl⟩
  have w : Within (fun a => a = Reg.TIDE_DSTATUS d.val) s a := ha ▸ (Within.refl hs.regs).sent.withDom
  have hdom : dev.toNat ∈ (a.dom d.val).staleDevs := by
    rw [ha, dom_setDom_same (s.sent ps [hopAck h]) hs.domains]
    exact mem_insertMark.mpr (.inl rfl)
  rw [receiveStale_root (s := s.sent ps [hopAck h]) hrole]
  rw [ha] at hdom w
  exact ⟨hdom, on_raise_same w.regsWf _ (by decide), (w.raise rfl).keeps⟩

theorem stale_member (hs : s.Sound) (hrole : s.role d.val = Role.MEMBER) (hh : s.Heard h) : Ends (.stale d h dev) s fun t =>
    t.out = s.out ++ [hopAck h] ++ parentFrame s d.val (.stale d.val dev.toNat) ∧ KeepsAllBut (fun _ => False) s t := by
  refine ends_of_heard hh rfl fun ps => ?_
  obtain ⟨qs, hsent⟩ := toParent_sent d.val (.stale d.val dev.toNat) (s := s.sent ps [hopAck h]) hh.1
  rw [receiveStale_member (s := s.sent ps [hopAck h]) hrole, hsent]
  exact ⟨rfl, (Within.refl hs.regs).sent.sent.keeps⟩

/-! ### MODE_REARM -/

/-- A mode command that may apply a record leaves nothing to settle where it writes registers alone. -/
theorem exec_modeRearm (hs : s.Sound) (hrole : s.role d.val = Role.ROOT) (ht : modeRearm wr d.val dev.toNat s = t) (w : Within W s t) :
    exec (.modeRearm d dev) s = .next t := by
  refine congrArg Outcome.next ?_
  rw [modeCmd, if_pos hrole, ht, w.settle hs]

theorem modeRearm_refused (hs : s.Sound) (hrole : s.role d.val = Role.ROOT) (hm : s.modeState d.val = ModeSt.NONE)
    (hn : dev.toNat ∉ (s.dom d.val).staleDevs) : Ends (.modeRearm d dev) s fun t => t.modeCode d.val = Code.REFUSED ∧
      KeepsAllBut (fun a => a = Reg.TIDE_MODE_STATUS d.val) s t := by
  have w : Within (IsModeStatus d.val) s (modeAnswer d.val Code.REFUSED s) := by
    rw [modeAnswer_root hrole hm]
    exact (Within.refl hs.regs).put rfl
  exact refused_ends hs hrole hm (exec_modeRearm hs hrole (if_pos (by simpa using hn)) w)

theorem modeRearm_sends (hs : s.Sound) (hrole : s.role d.val = Role.ROOT) (hm : s.modeState d.val = ModeSt.NONE)
    (hn : dev.toNat ∈ (s.dom d.val).staleDevs) (hdev : dev.toNat ≠ s.deviceId) : Ends (.modeRearm d dev) s fun t =>
      t.modeCode d.val = Code.DONE ∧ dev.toNat ∉ (t.dom d.val).staleDevs ∧
      t.out = s.out ++ childFrames s d.val (.rearm d.val dev.toNat (s.modeRecord d.val)) ∧
      KeepsAllBut (fun a => a = Reg.TIDE_MODE_STATUS d.val) s t := by
  obtain ⟨a, ha⟩ : ∃ a, a =
      setDom d.val { s.dom d.val with staleDevs := (s.dom d.val).staleDevs.filter (· ≠ dev.toNat) } s := ⟨_, rfl⟩
  have wa : Within (IsModeStatus d.val) s a := ha ▸ (Within.refl hs.regs).withDom
  obtain ⟨b, hb⟩ : ∃ b, b = put (Reg.TIDE_MODE_STATUS d.val) F.TIDE_MODE_STATUS_COMPLETION Code.DONE a := ⟨_, rfl⟩
  have wb : Within (IsModeStatus d.val) s b := hb ▸ wa.put rfl
  have hplace := samePlace_of_own d.isLt wb fun _ => isOwnReg_of_isModeStatus
  obtain ⟨ps, hsent⟩ := toChildren_sent d.val (.rearm d.val dev.toNat (s.modeRecord d.val)) b
  have hrearm : modeRearm wr d.val dev.toNat s = b.sent ps (childFrames s d.val (.rearm d.val dev.toNat (s.modeRecord d.val))) := by
    have hanswer : modeAnswer d.val Code.DONE a = b := hb ▸ modeAnswer_root (s := a) (ha ▸ hrole) (ha ▸ hm) _
    unfold modeRearm
    rw [if_neg (by simpa using hn)]
    dsimp only
    rw [← ha, hanswer, if_neg (by rwa [hplace.deviceId d.isLt]), hsent, hplace.childFrames_eq d.isLt]
  refine ⟨_, exec_modeRearm hs hrole hrearm wb.sent, ?_, ?_, ?_, wb.sent.keeps⟩
  · exact (congrArg (·.modeCode d.val) hb).trans (modeCode_put wa.regsWf d.val (by decide))
  · have hdom : b.dom d.val = { s.dom d.val with staleDevs := (s.dom d.val).staleDevs.filter (· ≠ dev.toNat) } := by
      rw [hb, put_dom, ha, dom_setDom_same s hs.domains]
    rw [sent_dom, hdom]
    simp
  · have hout : b.out = s.out := by rw [hb, ha]; rfl
    rw [sent_out, hout]

/-! ### All commands -/

/-- Settles O33: a change is armed, gathers its acknowledgements, and commits or ends with ABORT; a stale device is armed again. -/
theorem modeChange : Obligations.ModeChange := by
  intro s d c dev r h hs _
  refine ⟨fun hrole hm ht hr hl => modeArm_arms hs hrole hm ht hr hl, fun hrole hm hr => modeArm_refused hs hrole hm hr,
    fun hrole hm => modeArm_under_way hrole hm, fun hrole hm hr hsent hall => ⟨fun hh => ?_, fun hv hb hap => ?_⟩,
    fun hrole hm hr hb => ⟨modeCancel_ends hs hrole hm hr hb, nack_root hs hrole hm hr hb⟩,
    fun ⟨hrole, hp⟩ hm hr hc hh => member_arms hs hrole hp hm hr hc hh, fun ⟨hrole, hp⟩ hm hr hh => commit_member hs hrole hp hm hr hh,
    fun ⟨hrole, hp⟩ hm hr hb hh => abort_member hs hrole hp hm hr hb hh,
    fun ⟨hrole, hp⟩ hdev hst hk hrec hh => rearm_member hs hrole hp hdev hst hk hrec hh, fun hrole hh => stale_root hs hrole hh,
    fun ⟨hrole, _⟩ hh => stale_member hs hrole hh, fun hrole hm hn => modeRearm_refused hs hrole hm hn,
    fun hrole hm hn hdev => modeRearm_sends hs hrole hm hn hdev⟩
  · obtain ⟨t, ht, hstate, hgen, hout, hk⟩ := ack_commits hs hrole hm hr hsent hall hh
    exact ⟨t, ht, ⟨hstate, hgen, hout⟩, hk⟩
  · obtain ⟨t, ht, hstate, hgen, hout, hk⟩ := neighbourLost_commits hs hrole hm hr hsent hall hv hb hap
    exact ⟨t, ht, ⟨hstate, hgen, hout⟩, hk⟩

end Sys2Proof.Machine
end

section
/-! Control-slot instructions that issue at once: the values they write, and the frame. -/
namespace Sys2Proof.Machine

variable {s t u : State} {W V : Nat → Prop} {p : Fin 160} {g : Guard} {i : Ctl}

/-- A command that settles what it leaves ends as that does. -/
theorem ends_of_settled {c : Instr} {P : State → Prop} (hc : exec c s = .next (settle u)) (h : ∃ t, settle u = t ∧ P t) : Ends c s P := by
  obtain ⟨t, rfl, hP⟩ := h
  exact ⟨_, hc, hP⟩

/-- A bundle that its encoding, its destinations, its look-ups, its operands and its waits let through issues. -/
theorem presentBundle_issues {q : Nat} {b x : Bundle} (hx : b.live q s = x) (hill : b.illegal = none)
    (hc : b.conflict (matBanks b.mat (s.matDesc q b.mat)) = none) (hn : noteLookups q x s = s) (hf : slotFaults q x s = [])
    (ho : otherHold q x s = 0) (hw : ctlWait q x.ctl (beginCtl q x.ctl s) = 0) :
    presentBundle q b false s = issueBundle q x false (beginCtl q x.ctl s) := by
  have hfault : bundleFault q b s = none := by simp only [bundleFault, hill, hc, hx, hf, leastFault]
  unfold presentBundle
  simp only [hx, hill, Option.isNone_none, when_true, hn, hfault, ho, ne_eq, not_true_eq_false, if_false, hw, if_true]

/-- The bundle of a command that names one instruction is presented to a tile that takes a bundle. -/
theorem presentSlot_of_takes {q : Nat} (h : s.Takes q) (b : Bundle) : presentSlot q b s = presentBundle q b false s := by
  obtain ⟨hm, hh, hpc⟩ := h
  simp only [presentSlot, hm, hh, hpc, Bool.not_true, Bool.false_eq_true, if_false]

theorem presentSlot_issues {q : Nat} {b x : Bundle} (h : s.Takes q) (hx : b.live q s = x) (hill : b.illegal = none)
    (hc : b.conflict (matBanks b.mat (s.matDesc q b.mat)) = none) (hn : noteLookups q x s = s) (hf : slotFaults q x s = [])
    (ho : otherHold q x s = 0) (hw : ctlWait q x.ctl (beginCtl q x.ctl s) = 0) :
    presentSlot q b s = issueBundle q x false (beginCtl q x.ctl s) :=
  (presentSlot_of_takes h b).trans (presentBundle_issues hx hill hc hn hf ho hw)

/-- Control-slot instruction `i` meets no fault and no hold on `s` and begins nothing, and the tile goes on after it. -/
structure Issues (p : Nat) (g : Guard) (i : Ctl) (s : State) : Prop where
  legal : ctlLegal i = true
  lookups : noteLookups p (oneSlot g i .nop .nop .nop) s = s := by rfl
  faults : ctlFaults p i s = [] := by rfl
  begins : beginCtl p i s = s := by rfl
  wait : ctlWait p i s = 0 := by rfl
  goesOn : goesOn i = true := by rfl

/-- What a control-slot instruction that issues leaves: its effect, and the frame of any issue. -/
theorem Issues.ends (hi : Issues p.val g i s) (hs : s.Sound) (h : s.Takes p.val) (hg : s.guard p.val g = true)
    (he : Touches W s (ctlEffect p.val i false s s)) :
    ∃ t, settle (presentCtl p.val g i s) = t ∧ IssueFrame p.val W s t ∧
      ∀ a, ¬ IssueRegs p.val a → t.reg a = (ctlEffect p.val i false s s).reg a :=
  ctl_ends hs h hg hi.legal hi.lookups hi.faults hi.begins hi.wait hi.goesOn he

theorem sword_of_reg {n : Fin 32} (h : t.reg (Reg.TILE_SREG p.val n.val) = u.reg (Reg.TILE_SREG p.val n.val)) :
    t.sword p.val n.val = u.sword p.val n.val := by
  simp only [State.sword, State.sreg, h]

theorem sword_setSreg (h : s.RegsWf) (p d v : Nat) : (setSreg p d v s).sword p d = if d = 0 then 0 else BitVec.ofNat 64 v := by
  rw [State.sword, sreg_setSreg h]
  split
  · rfl
  · exact BitVec.eq_of_toNat_eq (by simp)

/-- An instruction that writes `v` to scalar register `d`. -/
theorem Issues.writes_sreg (hi : Issues p.val g i s) (hs : s.Sound) (h : s.Takes p.val) (hg : s.guard p.val g = true) {d : Fin 32} {v : Nat}
    (he : ctlEffect p.val i false s s = setSreg p.val d.val v s) :
    ∃ t, settle (presentCtl p.val g i s) = t ∧ t.sword p.val d.val = (if d = 0 then 0 else BitVec.ofNat 64 v) ∧
      IssueFrame p.val (fun a => d ≠ 0 ∧ a = Reg.TILE_SREG p.val d.val) s t := by
  obtain ⟨t, ht, hf, hr⟩ := hi.ends hs h hg (W := fun a => d.val ≠ 0 ∧ a = Reg.TILE_SREG p.val d.val) (he ▸ touches_setSreg ..)
  refine ⟨t, ht, ?_, ?_⟩
  · rw [sword_of_reg ((hr _ (sreg_apart p d)).trans (by rw [he])), sword_setSreg hs.regs]
    simp only [Fin.val_eq_zero_iff]
  · simpa only [Fin.val_ne_zero_iff] using hf

/-! ### Scalar results (R108) -/

/-- A scalar instruction whose value is `v` ends with `v` in its destination. -/
theorem scalar_ends (hs : s.Sound) (h : s.Takes p.val) (hg : s.guard p.val g = true) {c : Instr} {d : Fin 32} {n : Nat} {v : Word}
    (hc : exec c s = .next (settle (presentCtl p.val g i s))) (hi : Issues p.val g i s)
    (he : ctlEffect p.val i false s s = setSreg p.val d.val n s) (hv : BitVec.ofNat 64 n = v) :
    Ends c s fun t => t.sword p.val d.val = (if d = 0 then 0 else v) ∧ IssueFrame p.val (fun a => d ≠ 0 ∧ a = Reg.TILE_SREG p.val d.val) s t :=
  ends_of_settled hc (hv ▸ hi.writes_sreg hs h hg he)

theorem sreg_lt (s : State) (p n : Nat) : s.sreg p n < 2 ^ 64 := by
  unfold State.sreg
  split
  · decide
  · exact BitVec.isLt _

@[simp] theorem toNat_sword (s : State) (p n : Nat) : (s.sword p n).toNat = s.sreg p n := by
  rw [State.sword, BitVec.toNat_ofNat, Nat.mod_eq_of_lt (sreg_lt s p n)]

/-- An arithmetic shift by the width leaves copies of the sign. -/
theorem sshiftRight_width (a : Word) : a.sshiftRight 64 = if a.msb then -1 else 0 := by
  ext i hi
  rw [BitVec.getElem_sshiftRight, dif_neg (by omega)]
  cases a.msb
  · exact (BitVec.getElem_zero (h := hi)).symm
  · exact (BitVec.getElem_allOnes _ (h := hi)).symm

/-- The ALU table (R108) and the model's ALU agree on every FUNC. -/
theorem aluOp_of_aluValues {a b v : Word} {f : Nat} (h : (aluValues a b)[f]? = some v) : f < 14 ∧ aluOp f a b = v := by
  obtain ⟨hf, hv⟩ := List.getElem?_eq_some_iff.1 h
  have hf : f < 14 := hf
  refine ⟨hf, hv ▸ ?_⟩
  match f, hf with
  | 0x0, _ | 0x1, _ | 0x2, _ | 0x3, _ | 0x4, _ | 0x5, _ | 0x6, _ | 0x7, _ | 0x8, _ => rfl
  | 0x9, _ =>
    show a.sshiftRight (min b.toNat 64) = if 64 ≤ b.toNat then (if a.msb then -1 else 0) else a.sshiftRight b.toNat
    by_cases hb : 64 ≤ b.toNat
    · rw [if_pos hb, Nat.min_eq_right hb, sshiftRight_width]
    · rw [if_neg hb, Nat.min_eq_left (by omega)]
  | 0xA, _ | 0xB, _ | 0xC, _ | 0xD, _ => simp [aluOp, aluValues, BitVec.slt, BitVec.ult]

/-- Settles O11: every scalar instruction is one write of a scalar register, of the value that its table gives. -/
theorem scalarResults : Obligations.ScalarResults := by
  intro s p g d hs h hg
  refine ⟨fun imm => ?_, fun a imm => ?_, fun a imm => ?_, fun a b f v hv => ?_, fun a => ?_⟩
  · exact scalar_ends hs h hg rfl { legal := rfl } rfl (by simp [sext])
  · refine scalar_ends hs h hg rfl { legal := rfl } rfl (BitVec.eq_of_toNat_eq ?_)
    have hw : (s.sword p.val a.val).toNat % 2 ^ 32 < 2 ^ 32 := Nat.mod_lt _ (by decide)
    rw [BitVec.toNat_append, BitVec.toNat_setWidth, ← Nat.shiftLeft_add_eq_or_of_lt hw, Nat.shiftLeft_eq, toNat_sword, BitVec.toNat_ofNat]
    have := imm.isLt
    dsimp only
    omega
  · refine scalar_ends hs h hg rfl { legal := rfl } rfl (BitVec.eq_of_toNat_eq ?_)
    simp [sext]
  · obtain ⟨hf, hv⟩ := aluOp_of_aluValues hv
    have hn : (BitVec.ofNat 8 f).toNat = f := by rw [BitVec.toNat_ofNat]; omega
    refine scalar_ends hs h hg rfl { legal := ?_ } rfl ?_
    · simp only [ctlLegal, hn]; exact decide_eq_true (by omega)
    · rw [hn, hv, BitVec.ofNat_toNat, BitVec.setWidth_eq]
  · refine scalar_ends hs h hg rfl { legal := rfl } rfl ?_
    simp [State.areg]

/-! ### Predicates -/

/-- A predicate instruction whose value is `v` ends with `v` in its destination. -/
theorem predicate_ends (hs : s.Sound) (h : s.Takes p.val) (hg : s.guard p.val g = true) {c : Instr} {d : Fin 8} {v : Bool}
    (hc : exec c s = .next (settle (presentCtl p.val g i s))) (hi : Issues p.val g i s)
    (he : ctlEffect p.val i false s s = setPreg p.val d.val v s) :
    Ends c s fun t => (∀ n : Fin 8, t.preg p.val n.val = if n = d ∧ d ≠ 0 then v else s.preg p.val n.val) ∧
      IssueFrame p.val (fun a => d ≠ 0 ∧ a = Reg.TILE_PREG p.val) s t := by
  obtain ⟨t, ht, hf, hr⟩ := hi.ends hs h hg (W := fun a => d.val ≠ 0 ∧ a = Reg.TILE_PREG p.val) (he ▸ touches_setPreg ..)
  refine ends_of_settled hc ⟨t, ht, fun n => ?_, ?_⟩
  · have hreg : t.preg p.val n.val = (setPreg p.val d.val v s).preg p.val n.val := by
      rw [State.preg, hr _ (preg_apart p), he, ← State.preg]
    rw [hreg, preg_setPreg hs.regs p.val (by omega)]
    simp only [Fin.ext_iff, Fin.val_ne_zero_iff]
  · simpa only [Fin.val_ne_zero_iff] using hf

/-- The table of compare FUNC codes and the model's comparison agree. -/
theorem cmpHolds_of_compareValues {a b : Word} {v : Bool} {f : Nat} (h : (compareValues a b)[f]? = some v) : f < 6 ∧ cmpHolds f a b = v := by
  obtain ⟨hf, hv⟩ := List.getElem?_eq_some_iff.1 h
  have hf : f < 6 := hf
  refine ⟨hf, hv ▸ ?_⟩
  match f, hf with
  | 0, _ | 1, _ | 2, _ | 3, _ => rfl
  | 4, _ =>
    show (!a.slt b) = decide (b.toInt ≤ a.toInt)
    rw [BitVec.slt, ← decide_not, decide_eq_decide, Int.not_lt]
  | 5, _ =>
    show (!a.ult b) = decide (b.toNat ≤ a.toNat)
    rw [BitVec.ult, ← decide_not, decide_eq_decide, Nat.not_lt]

/-- The table of PLOG FUNC codes and the model's PLOG agree. -/
theorem plogOp_of_values {x y v : Bool} {f : Nat} (h : [x && y, x || y, xor x y, x && !y][f]? = some v) : f < 4 ∧ plogOp f x y = v := by
  obtain ⟨hf, hv⟩ := List.getElem?_eq_some_iff.1 h
  have hf : f < 4 := hf
  refine ⟨hf, hv ▸ ?_⟩
  match f, hf with
  | 0, _ | 1, _ | 2, _ | 3, _ => rfl

theorem toNat_ofNat8 {f : Nat} (h : f < 256) : (BitVec.ofNat 8 f).toNat = f := by rw [BitVec.toNat_ofNat, Nat.mod_eq_of_lt h]

/-- Settles O12: each is one write of a predicate, of the value that its FUNC selects. -/
theorem predicateResults : Obligations.PredicateResults := by
  intro s p g d hs h hg
  refine ⟨fun a b f v hv => ?_, fun a f imm v hv => ?_, fun a b f v hv => ?_⟩
  · obtain ⟨hf, hv⟩ := cmpHolds_of_compareValues hv
    have hn := toNat_ofNat8 (f := f) (by omega)
    refine predicate_ends (i := .cmp d a b (BitVec.ofNat 8 f)) hs h hg rfl { legal := decide_eq_true (by omega) } ?_
    simp only [ctlEffect, hn, hv]
  · obtain ⟨hf, hv⟩ := cmpHolds_of_compareValues hv
    have hn : (BitVec.ofNat 3 f).toNat = f := by rw [BitVec.toNat_ofNat, Nat.mod_eq_of_lt (by omega)]
    refine predicate_ends (i := .cmpi d a (BitVec.ofNat 3 f) imm) hs h hg rfl { legal := decide_eq_true (by omega) } ?_
    simp only [ctlEffect, hn, hv]
  · obtain ⟨hf, hv⟩ := plogOp_of_values hv
    have hn := toNat_ofNat8 (f := f) (by omega)
    refine predicate_ends (i := .plog d a b (BitVec.ofNat 8 f)) hs h hg rfl { legal := decide_eq_true (by omega) } ?_
    simp only [ctlEffect, hn, hv]

/-! ### Address registers and the generator (R138) -/

/-- An instruction that writes `v` to a register that no issue writes. -/
theorem register_ends (hs : s.Sound) (h : s.Takes p.val) (hg : s.guard p.val g = true) {c : Instr} {r : Nat} {v : Word}
    (hc : exec c s = .next (settle (presentCtl p.val g i s))) (hi : Issues p.val g i s) (hr : ¬ IssueRegs p.val r)
    (he : ctlEffect p.val i false s s = setR r v s) : Ends c s fun t => t.reg r = v ∧ IssueFrame p.val (fun a => a = r) s t := by
  obtain ⟨t, ht, hf, he'⟩ := hi.ends hs h hg (he ▸ touches_setR (W := fun a => a = r) rfl v s)
  exact ends_of_settled hc ⟨t, ht, by rw [he' r hr, he, reg_setR_same hs.regs], hf⟩

theorem rng_apart (p : Fin 160) : ¬ IssueRegs p.val (Reg.TILE_RNG_KEY p.val) ∧ ¬ IssueRegs p.val (Reg.TILE_RNG_CTR_LO p.val) ∧
    ¬ IssueRegs p.val (Reg.TILE_RNG_CTR_HI p.val) := by
  simp only [IssueRegs, IsLedger, Reg.TILE_RNG_KEY, Reg.TILE_RNG_CTR_LO, Reg.TILE_RNG_CTR_HI, Reg.TILE_PC, Reg.TILE_STATUS, Reg.TILE_BUSY]
  omega

/-- Settles O13: each is one write of a register; MFENCE with nothing outstanding has no effect of its own. -/
theorem addressRegisterResults : Obligations.AddressRegisterResults := by
  intro s p g hs h hg
  obtain ⟨hkey, hlo, hhi⟩ := rng_apart p
  refine ⟨fun d a => ?_, fun d a imm => ?_, fun d imm => ?_, fun a => ?_, fun a => ?_, fun a => ?_, fun hm => ?_⟩
  · exact register_ends (i := .movsa d a) hs h hg rfl { legal := rfl } (areg_apart p d) rfl
  · refine register_ends (i := .adda d a imm) hs h hg rfl { legal := rfl } (areg_apart p d) (congrArg (setR _ · s) ?_)
    exact BitVec.eq_of_toNat_eq (by simp [State.areg, sext])
  · refine register_ends (i := .lia d imm) hs h hg rfl { legal := rfl } (areg_apart p d) (congrArg (setR _ · s) ?_)
    exact BitVec.eq_of_toNat_eq (by simp [sext])
  · exact register_ends (i := .rngset a 0) hs h hg rfl { legal := rfl } hkey rfl
  · exact register_ends (i := .rngset a 1) hs h hg rfl { legal := rfl } hlo rfl
  · exact register_ends (i := .rngset a 2) hs h hg rfl { legal := rfl } hhi rfl
  · have hi : Issues p.val g .mfence s := { legal := rfl, wait := if_neg (by simp [hm]) }
    obtain ⟨t, ht, hf, -⟩ := hi.ends hs h hg (Touches.refl _ _)
    exact ends_of_settled rfl ⟨t, ht, hf⟩

/-! ### Control and status registers (R136) -/

theorem touches_popNack (p : Nat) (s : State) : Touches (fun a => ∃ i, i < 8 ∧ a = Reg.TILE_NACK_LOG p i) s (popNack p s) :=
  touches_forEach (fun i hi t => touches_setR ⟨i, List.mem_range.1 hi, rfl⟩ _ t) s

/-- A register of a list that is written one by one with distinct offsets reads what was written to it. -/
theorem reg_forEach_setR {off : Nat → Nat} (hoff : ∀ i j, off i = off j → i = j) (v : Nat → Word) {l : List Nat} (hl : l.Nodup) {i : Nat} (hi : i ∈ l)
    {s : State} (hs : s.RegsWf) : (forEach l (fun j t => setR (off j) (v j) t) s).reg (off i) = v i := by
  induction l generalizing s with
  | nil => simp at hi
  | cons a l ih =>
    rw [forEach_cons]
    obtain ⟨ha, hl⟩ := List.nodup_cons.1 hl
    rcases List.mem_cons.1 hi with rfl | hi
    · have hne : ∀ j ∈ l, off i ≠ off j := fun j hj e => ha (hoff _ _ e ▸ hj)
      have hk := touches_forEach (W := fun b => b ≠ off i) (f := fun j t => setR (off j) (v j) t)
        (fun j hj t => touches_setR (fun e => hne j hj e.symm) _ t) (setR (off i) (v i) s)
      rw [hk.reg (RegsWf_setR hs _ _) (by simp), reg_setR_same hs]
    · exact ih hl hi (RegsWf_setR hs _ _)

/-- CSRR of a CSR other than 6 reads its value and changes nothing else. -/
theorem csrr_reads (hs : s.Sound) (h : s.Takes p.val) (hg : s.guard p.val g = true) {d : Fin 32} {csr : BitVec 12} {v : Word} (hd : d ≠ 0)
    (hl : ctlLegal (.csrr d csr) = true) (h6 : csr ≠ 6) (hv : BitVec.ofNat 64 (csrValue p.val csr.toNat s) = v) :
    Ends (.csrr p g d csr) s fun t => t.sword p.val d.val = v ∧ IssueFrame p.val (fun a => a = Reg.TILE_SREG p.val d.val) s t := by
  obtain ⟨t, ht, hval, hf⟩ := scalar_ends (i := .csrr d csr) (c := .csrr p g d csr) hs h hg rfl { legal := hl } (if_neg h6) hv
  exact ⟨t, ht, by rw [hval, if_neg hd], by simpa only [ne_eq, hd, not_false_eq_true, true_and] using hf⟩

/-- CSRR of NACK_POP reads the oldest entry, and the others move down. -/
theorem csrr_nackPop (hs : s.Sound) (h : s.Takes p.val) (hg : s.guard p.val g = true) {d : Fin 32} (hd : d ≠ 0) :
    Ends (.csrr p g d 6) s fun t => t.sword p.val d.val = s.reg (Reg.TILE_NACK_LOG p.val 0) ∧
      (∀ i < 7, t.reg (Reg.TILE_NACK_LOG p.val i) = s.reg (Reg.TILE_NACK_LOG p.val (i + 1))) ∧ t.reg (Reg.TILE_NACK_LOG p.val 7) = 0 := by
  obtain ⟨u, hu⟩ : ∃ u, u = setSreg p.val d.val (s.reg (Reg.TILE_NACK_LOG p.val 0)).toNat s := ⟨_, rfl⟩
  have hsu : Touches (fun a => d.val ≠ 0 ∧ a = Reg.TILE_SREG p.val d.val) s u := hu ▸ touches_setSreg ..
  have he : ctlEffect p.val (.csrr d 6) false s s = popNack p.val u := by rw [hu]; rfl
  have hi : Issues p.val g (.csrr d 6) s := { legal := rfl }
  obtain ⟨t, ht, -, hr⟩ := hi.ends hs h hg (W := fun _ => True)
    (he ▸ (hsu.mono fun _ _ => trivial).trans ((touches_popNack ..).mono fun _ _ => trivial))
  have hlog : ∀ i < 8, t.reg (Reg.TILE_NACK_LOG p.val i) = if i = 7 then 0 else s.reg (Reg.TILE_NACK_LOG p.val (i + 1)) := by
    intro i hi
    have hapart : ¬ IssueRegs p.val (Reg.TILE_NACK_LOG p.val i) := by
      simp only [IssueRegs, IsLedger, Reg.TILE_NACK_LOG, Reg.TILE_PC, Reg.TILE_STATUS, Reg.TILE_BUSY]; omega
    have hnext : Reg.TILE_NACK_LOG p.val (i + 1) ≠ Reg.TILE_SREG p.val d.val := by simp only [Reg.TILE_NACK_LOG, Reg.TILE_SREG]; omega
    rw [hr _ hapart, he, popNack, reg_forEach_setR (off := Reg.TILE_NACK_LOG p.val)
      (fun i j e => by simp only [Reg.TILE_NACK_LOG] at e; omega)
      (fun i => if i = 7 then 0 else u.reg (Reg.TILE_NACK_LOG p.val (i + 1))) List.nodup_range (List.mem_range.2 hi) (hsu.regsWf hs.regs),
      hsu.reg hs.regs fun e => hnext e.2]
  refine ends_of_settled rfl ⟨t, ht, ?_, fun i hi => by rw [hlog i (by omega), if_neg (by omega)], hlog 7 (by decide)⟩
  have hd' : Touches (fun a => ∃ i, i < 8 ∧ a = Reg.TILE_NACK_LOG p.val i) u (popNack p.val u) := touches_popNack ..
  have hapart : ¬ ∃ i, i < 8 ∧ Reg.TILE_SREG p.val d.val = Reg.TILE_NACK_LOG p.val i := by
    rintro ⟨i, hi, e⟩
    simp only [Reg.TILE_NACK_LOG, Reg.TILE_SREG] at e
    omega
  rw [sword_of_reg (u := u) ((hr _ (sreg_apart p d)).trans (by rw [he, hd'.reg (hsu.regsWf hs.regs) hapart])), hu, sword_setSreg hs.regs,
    if_neg (Fin.val_ne_zero_iff.2 hd), BitVec.ofNat_toNat, BitVec.setWidth_eq]

/-- Settles O16: CSRR is one write of a scalar register; NACK_POP moves the log down as well. -/
theorem csrReads : Obligations.CsrReads := by
  intro s p g d hs h hg hd
  refine ⟨csrr_reads hs h hg hd rfl (by decide) ?_, csrr_reads hs h hg hd rfl (by decide) rfl, csrr_reads hs h hg hd rfl (by decide) rfl,
    fun hrole => csrr_reads hs h hg hd rfl (by decide) ?_, fun hrole => csrr_reads hs h hg hd rfl (by decide) ?_,
    csrr_reads hs h hg hd rfl (by decide) rfl, csrr_reads hs h hg hd rfl (by decide) rfl, csrr_reads hs h hg hd rfl (by decide) ?_,
    csrr_reads hs h hg hd rfl (by decide) ?_, csrr_reads hs h hg hd rfl (by decide) ?_, csrr_nackPop hs h hg hd⟩
  · exact BitVec.eq_of_toNat_eq (by simp [csrValue])
  · show BitVec.ofNat 64 (if s.role (s.runDomain p.val) = 0 then 0 else (s.tide (s.runDomain p.val)).toNat) = _
    rw [if_neg hrole, BitVec.ofNat_toNat, BitVec.setWidth_eq]
  · show BitVec.ofNat 64 (if s.role (s.runDomain p.val) = 0 then 0 else (s.tide (s.runDomain p.val)).toNat) = _
    rw [if_pos hrole]
    rfl
  · exact (BitVec.ofNat_toNat ..).trans (BitVec.setWidth_eq _)
  · exact (BitVec.ofNat_toNat ..).trans (BitVec.setWidth_eq _)
  · exact (BitVec.ofNat_toNat ..).trans (BitVec.setWidth_eq _)

end Sys2Proof.Machine
end

section
/-! Where control goes after a control-slot instruction (R109 to R112). -/
namespace Sys2Proof.Machine

variable {s t u : State} {W V : Nat → Prop} {p : Fin 160} {g : Guard} {i : Ctl}

/-! ### The next PC -/

/-- The next address and the loops that stay active after control-slot instruction `i` at `pc`, with `loops` active. -/
def control (p : Nat) (i : Ctl) (pc : Nat) (s0 : State) (loops : List LoopEntry) : Nat × List LoopEntry :=
  match ctlTarget p i pc s0 with
  | some a => (a, exitLoops a loops)
  | none =>
    let r := backEdge (match i with | .loop a off => if s0.sreg p a.val = 0 then pc + 32 * off.toNat else pc | _ => pc) loops
    (r.2, r.1)

theorem advancePc_control (p : Nat) (i : Ctl) (pc : Nat) (s0 s : State) :
    let v := ctlStacks p i pc s0 s
    let c := control p i pc s0 (v.tile p).loops
    advancePc p i pc s0 s = setNext p c.1 (setTile p { v.tile p with loops := c.2 } v) := by
  unfold advancePc control
  cases ctlTarget p i pc s0 <;> rfl

/-- What the issue of a control-slot instruction leaves, where the PC can hold the next address. -/
theorem issue_goes (hs : s.Sound) (hi : goesOn i = true) (he : Touches W s (ctlEffect p.val i false s s)) {a : Nat} {l : List LoopEntry} {x : TileState}
    (hx : (ctlStacks p.val i (s.tpc p.val) s (ctlEffect p.val i false s s)).tile p.val = x)
    (hc : control p.val i (s.tpc p.val) s x.loops = (a, l)) (ha : PcHolds a) :
    ∃ t, settle (issueBundle p.val (oneSlot g i .nop .nop .nop) false s) = t ∧ t.tpc p.val = a ∧
      t.tile p.val = { x with loops := l, wild := none, held := none, begun := none, stepping := false } ∧ IssueFrame p.val W s t := by
  obtain ⟨hframe, howed, -, hpc, htile⟩ := ctl_issued (g := g) hs hi he (pc_ne p.val p.isLt)
  obtain ⟨v, hv⟩ : ∃ v, v = ctlStacks p.val i (s.tpc p.val) s (ctlEffect p.val i false s s) := ⟨_, rfl⟩
  have hw : Works _ _ v := hv ▸ works_ctlStacks p.val i (s.tpc p.val) s _
  have hwf : v.RegsWf := hw.regsWf (he.regsWf hs.regs)
  have hm : Store.Wf (fun _ => TileState.init) v.tiles := hw.2.2 (he.works.2.2 hs.tiles)
  have hx' : v.tile p.val = x := hv ▸ hx
  have hadv : advancePc p.val i (s.tpc p.val) s (ctlEffect p.val i false s s) = setNext p.val a (setTile p.val { x with loops := l } v) := by
    rw [advancePc_control]
    dsimp only
    rw [← hv, hx', hc]
  refine ⟨_, rfl, ?_, ?_, ?_⟩ <;> rw [settle_of_nothing_owed howed]
  · exact (congrArg (Word.get · F.TILE_PC_PC) hpc).trans ((congrArg (·.tpc p.val) hadv).trans (tpc_setNext hwf p.val ha.1 ha.2))
  · rw [htile, hadv, tile_setNext (Store.wf_update hm _ _) p.val ha.1 ha.2, tile_setTile_same v hm]
  · exact hframe

theorem presentCtl_of_issues (hi : Issues p.val g i s) (h : s.Takes p.val) (hg : s.guard p.val g = true) :
    presentCtl p.val g i s = issueBundle p.val (oneSlot g i .nop .nop .nop) false s := by
  have := presentCtl_issues h hg hi.legal hi.lookups hi.faults (by rw [hi.begins]; exact hi.wait)
  rwa [hi.begins] at this

/-! ### In sequence (R105, R111) -/

/-- Control-slot instructions that touch neither the PC nor a stack. -/
def inSequence : Ctl → Bool
  | .br _ | .jmp _ | .call _ | .ret | .loop _ _ => false
  | _ => true

theorem ctlStacks_of_inSequence (hi : inSequence i = true) (p pc : Nat) (s0 s : State) : ctlStacks p i pc s0 s = s := by
  cases i
  case br | jmp | call | ret | loop => cases hi
  all_goals rfl

theorem control_of_inSequence (hi : inSequence i = true) (p pc : Nat) (s0 : State) (l : List LoopEntry) :
    control p i pc s0 l = ((backEdge pc l).2, (backEdge pc l).1) := by
  cases i
  case br | jmp | call | ret | loop => cases hi
  all_goals rfl

/-- An instruction in sequence, with no active loop, goes on at the next bundle. -/
theorem issue_goesOn (hs : s.Sound) (hi : goesOn i = true) (hq : inSequence i = true) (hl : (s.tile p.val).loops = [])
    (he : Touches (fun _ => True) s (ctlEffect p.val i false s s)) (hpc : PcHolds (s.tpc p.val + 32)) :
    ∃ t, settle (issueBundle p.val (oneSlot g i .nop .nop .nop) false s) = t ∧
      t.tpc p.val = s.tpc p.val + 32 ∧ (t.tile p.val).held = none ∧ (t.tile p.val).loops = [] := by
  have hx : (ctlStacks p.val i (s.tpc p.val) s (ctlEffect p.val i false s s)).tile p.val = s.tile p.val := by
    rw [ctlStacks_of_inSequence hq]
    obtain ⟨⟨_, _, _, hu⟩, -⟩ := he
    rw [hu]
    rfl
  obtain ⟨t, ht, ha, hx, -⟩ := issue_goes (g := g) (a := s.tpc p.val + 32) (l := []) hs hi he hx
    (by rw [control_of_inSequence hq, hl]; rfl) hpc
  exact ⟨t, ht, ha, by rw [hx], by rw [hx]⟩

/-- A bundle whose only slot has a guard that does not hold issues as one of NOPs. -/
theorem presentCtl_of_dead (h : s.Takes p.val) (hg : s.guard p.val g = false) (hl : ctlLegal i = true) :
    presentCtl p.val g i s = issueBundle p.val (oneSlot g .nop .nop .nop .nop) false s :=
  presentSlot_issues h (oneSlot_dead p.val i .nop .nop .nop s hg) (by simp [Bundle.illegal, oneSlot, hl, matLegal, vecLegal, movLegal])
    (conflict_ctl g i) rfl rfl rfl rfl

/-- A command of an instruction in sequence goes on at the next bundle, whether its guard holds or not. -/
theorem sequential_ends (hs : s.Sound) (h : s.Takes p.val) (hl : (s.tile p.val).loops = []) (hpc : PcHolds (s.tpc p.val + 32)) {c : Instr}
    (hc : exec c s = .next (settle (presentCtl p.val g i s))) (hi : Issues p.val g i s) (hq : inSequence i = true)
    (he : Touches (fun _ => True) s (ctlEffect p.val i false s s)) :
    Ends c s fun t => t.tpc p.val = s.tpc p.val + 32 ∧ (t.tile p.val).held = none ∧ (t.tile p.val).loops = [] := by
  refine ends_of_settled hc ?_
  cases hg : s.guard p.val g with
  | true =>
    rw [presentCtl_of_issues hi h hg]
    exact issue_goesOn hs hi.goesOn hq hl he hpc
  | false =>
    rw [presentCtl_of_dead h hg hi.legal]
    exact issue_goesOn hs rfl rfl hl (Touches.refl _ _) hpc

/-- Settles O14: the next bundle follows whether the slot executes or not. -/
theorem sequentialPc : Obligations.SequentialPc := by
  intro s p g hs h hl hpc h32
  have hpc : PcHolds (s.tpc p.val + 32) := ⟨hpc, by omega⟩
  have sreg {d v} : Touches (fun _ => True) s (setSreg p.val d v s) := (touches_setSreg ..).mono fun _ _ => trivial
  have preg {d v} : Touches (fun _ => True) s (setPreg p.val d v s) := (touches_setPreg ..).mono fun _ _ => trivial
  have areg {d v} : Touches (fun _ => True) s (setAreg p.val d v s) := touches_setR trivial _ s
  have goes {i c} (hc : exec c s = .next (settle (presentCtl p.val g i s))) (hi : Issues p.val g i s) (hq : inSequence i = true)
      (he : Touches (fun _ => True) s (ctlEffect p.val i false s s)) := sequential_ends hs h hl hpc hc hi hq he
  refine ⟨fun d imm => ?_, fun d a imm => ?_, fun d a imm => ?_, fun d a b f hf => ?_, fun d a b f hf => ?_, fun d a f imm hf => ?_,
    fun d a b f hf => ?_, fun d a => ?_, fun d a => ?_, fun d a imm => ?_, fun d imm => ?_, fun hm => ?_, fun hg a => ?_⟩
  · exact goes rfl { legal := rfl } rfl sreg
  · exact goes rfl { legal := rfl } rfl sreg
  · exact goes rfl { legal := rfl } rfl sreg
  · exact goes rfl { legal := decide_eq_true hf } rfl sreg
  · exact goes rfl { legal := decide_eq_true hf } rfl preg
  · exact goes rfl { legal := decide_eq_true hf } rfl preg
  · exact goes rfl { legal := decide_eq_true hf } rfl preg
  · exact goes rfl { legal := rfl } rfl areg
  · exact goes rfl { legal := rfl } rfl sreg
  · exact goes rfl { legal := rfl } rfl areg
  · exact goes rfl { legal := rfl } rfl areg
  · exact goes rfl { legal := rfl, wait := if_neg (by simp [hm]) } rfl (Touches.refl _ _)
  · refine ends_of_settled rfl ?_
    rw [presentCtl_of_dead h hg rfl]
    exact issue_goesOn hs rfl rfl hl (Touches.refl _ _) hpc

end Sys2Proof.Machine
end

section
/-! Branches, calls, returns and loops (R109 to R112). -/
namespace Sys2Proof.Machine

variable {s t : State} {p : Fin 160} {g : Guard} {i : Ctl} {x : TileState}

/-- After `t` control is at `a`, with these stacks, and the registers but those of any issue, memory and accumulators are as in `s`. -/
def GoesTo (s : State) (p : Nat) (a : Nat) (rets : List Nat) (loops : List LoopEntry) (t : State) : Prop :=
  t.tpc p = a ∧ (t.tile p).wild = none ∧ (t.tile p).rets = rets ∧ (t.tile p).loops = loops ∧ IssueFrame p (fun _ => False) s t

theorem exitLoops_eq (a : Nat) (l : List LoopEntry) : exitLoops a l = loopsAfter a l := by
  induction l with
  | nil => rfl
  | cons e l ih =>
    unfold loopsAfter at ih ⊢
    rw [exitLoops, List.dropWhile_cons, ih]
    by_cases h : e.start ≤ a ∧ a ≤ e.stop <;> simp [h]

/-- A loop stack whose innermost body does not end here is left alone. -/
theorem backEdge_of_stop_ne {last : Nat} {l : List LoopEntry} (h : ∀ f ∈ l, f.stop ≠ last) : backEdge last l = (l, last + 32) := by
  cases l with
  | nil => rfl
  | cons e l => rw [backEdge, if_pos (h e (List.mem_cons_self ..))]

/-- A control-slot instruction that writes no register ends with the PC, the return stack and the loop stack that it selects. -/
theorem goesTo_ends (hs : s.Sound) (h : s.Takes p.val) (hg : s.guard p.val g = true) {c : Instr} {a : Nat} {rets : List Nat} {loops : List LoopEntry}
    (hc : exec c s = .next (settle (presentCtl p.val g i s))) (hi : Issues p.val g i s) (he : ctlEffect p.val i false s s = s)
    (hx : (ctlStacks p.val i (s.tpc p.val) s s).tile p.val = x) (hr : x.rets = rets)
    (hl : control p.val i (s.tpc p.val) s x.loops = (a, loops)) (ha : PcHolds a) : Ends c s (GoesTo s p.val a rets loops) := by
  obtain ⟨t, ht, hpc, hxt, hf⟩ := issue_goes (g := g) (W := fun _ => False) hs hi.goesOn (he.symm ▸ Touches.refl _ _) (he.symm ▸ hx) hl ha
  refine ends_of_settled hc ⟨t, (presentCtl_of_issues hi h hg).symm ▸ ht, hpc, ?_, ?_, ?_, hf⟩ <;> rw [hxt]
  exact hr

/-- The PC of a tile is below 2^22. -/
theorem tpc_lt (s : State) (p : Nat) : s.tpc p < 2 ^ 22 := Word.get_lt _ _

/-- The target of a relative transfer (R109), where the PC can hold it. -/
theorem relTarget_eq {pc a : Nat} {off : BitVec 32} (h : (pc : Int) + 32 * off.toInt = a) (ha : a < 2 ^ 22) : (pc + 32 * sext off) % 2 ^ 64 = a := by
  have hs : (off.signExtend 64).toInt = off.toInt := BitVec.toInt_signExtend_of_le (by decide)
  have hcast := BitVec.toInt_eq_toNat_cond (off.signExtend 64)
  rw [hs] at hcast
  have hlt := (off.signExtend 64).isLt
  unfold sext
  split at hcast <;> omega

theorem control_of_target {pc a : Nat} {s0 : State} (h : ctlTarget p.val i pc s0 = some a) (l : List LoopEntry) :
    control p.val i pc s0 l = (a, loopsAfter a l) := by
  simp only [control, h, exitLoops_eq]

theorem control_of_rel {pc a b : Nat} {s0 : State} (h : ctlTarget p.val i pc s0 = some b) (hb : b = a) (l : List LoopEntry) :
    control p.val i pc s0 l = (a, loopsAfter a l) := control_of_target (hb ▸ h) l

/-! The stacks have room (R111, R112). -/

theorem call_faults {off : BitVec 32} (h : (s.tile p.val).rets.length < 8) : ctlFaults p.val (.call off) s = [] := by
  show (if 8 ≤ (s.tile p.val).rets.length then [0x06] else []) = []
  rw [if_neg (by omega)]
theorem ret_faults {a : Nat} {l : List Nat} (h : (s.tile p.val).rets = a :: l) : ctlFaults p.val .ret s = [] := by
  show (if (s.tile p.val).rets = [] then [0x06] else []) = []
  rw [if_neg (by simp [h])]
theorem loop_faults {r : Fin 32} {off : BitVec 32} (h : s.sreg p.val r.val = 0 ∨ (s.tile p.val).loops.length < 4) :
    ctlFaults p.val (.loop r off) s = [] := by
  show (if s.sreg p.val r.val ≠ 0 ∧ 4 ≤ (s.tile p.val).loops.length then [0x06] else []) = []
  rw [if_neg (by omega)]

/-- An innermost loop entered by LOOP is the first of the stack. -/
theorem tile_ctlStacks_loop (h : Store.Wf (fun _ => TileState.init) s.tiles) {r : Fin 32} {off : BitVec 32} (hn : s.sreg p.val r.val ≠ 0) (pc : Nat) :
    (ctlStacks p.val (.loop r off) pc s s).tile p.val =
      { s.tile p.val with loops := ⟨pc + 32, pc + 32 * off.toNat, s.sreg p.val r.val⟩ :: (s.tile p.val).loops } := by
  show State.tile (if s.sreg p.val r.val = 0 then s else setTile p.val _ s) p.val = _
  rw [if_neg hn, tile_setTile_same s h]

theorem control_loop {r : Fin 32} {off : BitVec 32} (pc : Nat) (s : State) (l : List LoopEntry) : control p.val (.loop r off) pc s l =
    ((backEdge (if s.sreg p.val r.val = 0 then pc + 32 * off.toNat else pc) l).2,
      (backEdge (if s.sreg p.val r.val = 0 then pc + 32 * off.toNat else pc) l).1) := rfl

theorem ctlStacks_loop_skipped {r : Fin 32} {off : BitVec 32} (hn : s.sreg p.val r.val = 0) (pc : Nat) : ctlStacks p.val (.loop r off) pc s s = s := by
  show (if s.sreg p.val r.val = 0 then s else setTile p.val _ s) = s
  rw [if_pos hn]

theorem br_ends (hs : s.Sound) (h : s.Takes p.val) (hg : s.guard p.val g = true) {off : BitVec 32} {a : Nat}
    (hoff : (s.tpc p.val : Int) + 32 * off.toInt = a) (ha : PcHolds a) :
    Ends (.br p g off) s (GoesTo s p.val a (s.tile p.val).rets (loopsAfter a (s.tile p.val).loops)) :=
  goesTo_ends (i := .br off) (x := s.tile p.val) hs h hg rfl { legal := rfl } rfl rfl rfl
    (control_of_rel rfl (relTarget_eq hoff ha.1) _) ha

theorem call_ends (hs : s.Sound) (h : s.Takes p.val) (hg : s.guard p.val g = true) {off : BitVec 32} {a : Nat}
    (hoff : (s.tpc p.val : Int) + 32 * off.toInt = a) (ha : PcHolds a) (hr : (s.tile p.val).rets.length < 8) :
    Ends (.call p g off) s (GoesTo s p.val a ((s.tpc p.val + 32) :: (s.tile p.val).rets) (loopsAfter a (s.tile p.val).loops)) :=
  goesTo_ends (i := .call off) (x := { s.tile p.val with rets := (s.tpc p.val + 32) :: (s.tile p.val).rets }) hs h hg rfl
    { legal := rfl, faults := call_faults hr } rfl (tile_setTile_same s hs.tiles _ _) rfl
    (control_of_rel rfl (relTarget_eq hoff ha.1) _) ha

theorem jmp_ends (hs : s.Sound) (h : s.Takes p.val) (hg : s.guard p.val g = true) {r : Fin 32} (ha : PcHolds (s.sreg p.val r.val)) :
    Ends (.jmp p g r) s (GoesTo s p.val (s.sreg p.val r.val) (s.tile p.val).rets (loopsAfter (s.sreg p.val r.val) (s.tile p.val).loops)) :=
  goesTo_ends (i := .jmp r) (x := s.tile p.val) hs h hg rfl { legal := rfl } rfl rfl rfl (control_of_target rfl _) ha

theorem ret_ends (hs : s.Sound) (h : s.Takes p.val) (hg : s.guard p.val g = true) {a : Nat} {l : List Nat} (hr : (s.tile p.val).rets = a :: l)
    (ha : PcHolds a) : Ends (.ret p g) s (GoesTo s p.val a l (loopsAfter a (s.tile p.val).loops)) :=
  goesTo_ends (i := .ret) (x := { s.tile p.val with rets := (s.tile p.val).rets.drop 1 }) hs h hg rfl
    { legal := rfl, faults := ret_faults hr } rfl (tile_setTile_same s hs.tiles _ _) (by rw [hr]; rfl)
    (control_of_rel rfl (by rw [hr]; rfl) _) ha

/-- LOOP with a count above zero enters its body. -/
theorem loop_enters (hs : s.Sound) (h : s.Takes p.val) (hg : s.guard p.val g = true) {r : Fin 32} {off : BitVec 32} (hoff : 1 ≤ off.toInt)
    (hn : s.sreg p.val r.val ≠ 0) (hl : (s.tile p.val).loops.length < 4) (ha : PcHolds (s.tpc p.val + 32)) :
    Ends (.loop p g r off) s (GoesTo s p.val (s.tpc p.val + 32) (s.tile p.val).rets
      (⟨s.tpc p.val + 32, s.tpc p.val + 32 * off.toNat, s.sreg p.val r.val⟩ :: (s.tile p.val).loops)) := by
  have hpos : 0 < off.toNat := by
    rcases Nat.eq_zero_or_pos off.toNat with h0 | h0
    · rw [BitVec.toInt_eq_toNat_cond, h0] at hoff; simp at hoff
    · exact h0
  refine goesTo_ends (i := .loop r off) hs h hg rfl { legal := decide_eq_true hoff, faults := loop_faults (.inr hl) } rfl
    (tile_ctlStacks_loop hs.tiles hn _) rfl ?_ ha
  rw [control_loop, if_neg hn, backEdge, if_pos (by dsimp only; omega)]

/-- LOOP with a count of zero goes on past its body. -/
theorem loop_skips (hs : s.Sound) (h : s.Takes p.val) (hg : s.guard p.val g = true) {r : Fin 32} {off : BitVec 32} (hoff : 1 ≤ off.toInt)
    (hn : s.sreg p.val r.val = 0) (hl : (s.tile p.val).loops = []) (ha : PcHolds (s.tpc p.val + 32 * off.toNat + 32)) :
    Ends (.loop p g r off) s (GoesTo s p.val (s.tpc p.val + 32 * off.toNat + 32) (s.tile p.val).rets []) :=
  goesTo_ends (i := .loop r off) (x := s.tile p.val) hs h hg rfl { legal := decide_eq_true hoff, faults := loop_faults (.inl hn) } rfl
    (congrArg (·.tile p.val) (ctlStacks_loop_skipped hn _)) rfl (by rw [control_loop, if_pos hn, hl]; rfl) ha

/-- An LI to s0, which only moves control, goes where the loops send it. -/
theorem li_goes (hs : s.Sound) (h : s.Takes p.val) (hg : s.guard p.val g = true) (imm : BitVec 32) {a : Nat} {l : List LoopEntry}
    (hb : backEdge (s.tpc p.val) (s.tile p.val).loops = (l, a)) (ha : PcHolds a) :
    Ends (.li p g 0 imm) s (GoesTo s p.val a (s.tile p.val).rets l) :=
  goesTo_ends (i := .li 0 imm) (x := s.tile p.val) hs h hg rfl { legal := rfl } rfl rfl rfl (by rw [control_of_inSequence rfl, hb]) ha

/-- Settles O15: each transfer selects the next PC and the stacks; the loop stack alone decides where the others go. -/
theorem branchTargets : Obligations.BranchTargets := by
  intro s p g hs h hg
  refine ⟨fun off a hoff ha => ⟨br_ends hs h hg hoff ha, call_ends hs h hg hoff ha⟩, fun r ha => ?_, fun a l hr ha => ret_ends hs h hg hr ha,
    fun r off hoff hn hl ha => ?_, fun r off hoff hn hl ha => ?_, fun e rest imm hl hstop => ⟨fun hcount ha => ?_, fun hcount hrest ha => ?_⟩⟩
  · rw [toNat_sword] at ha ⊢
    exact jmp_ends hs h hg ha
  · rw [toNat_sword]
    exact loop_enters hs h hg hoff (fun h0 => hn (BitVec.eq_of_toNat_eq (by rw [toNat_sword, h0]; rfl))) hl ha
  · exact loop_skips hs h hg hoff (by rw [← toNat_sword, hn]; rfl) hl ha
  · exact li_goes hs h hg imm (by rw [hl, backEdge, if_neg (by omega), if_pos hcount]) ha
  · exact li_goes hs h hg imm (by rw [hl, backEdge, if_neg (by omega), if_neg (by omega), backEdge_of_stop_ne hrest]) ha

end Sys2Proof.Machine
end

section
/-! Bundles decoded from the body formats. -/
namespace Sys2Proof.Machine

/-- Settles O22: each bundle is closed, and its decoding is computed. -/
theorem bundleDecoding : Obligations.BundleDecoding := by
  refine ⟨?_, ?_, ?_, ?_, ?_⟩ <;> rfl

end Sys2Proof.Machine
end

section
/-! Waits: a CWAIT that two ports serve sets MULTI_MATCH, which no frame of a wait allows for. -/
namespace Sys2Proof.Machine

/-- Tile 0 runs at address 0, and stage ports 0 and 1, both outbound at its logical tile, are ACTIVE for context port 0 of context 0. -/
def twoPorts : State :=
  State.reset |> put (Reg.TILE_STATUS 0) F.TILE_STATUS_STATE TileSt.RUNNING |> put (Reg.TILE_PROG 0) F.TILE_PROG_LIMIT 32
    |> put (Reg.STG_S_CTRL 0) F.STG_S_CTRL_VALID 1
    |> put (Reg.STG_P_STATUS 0) F.STG_P_STATUS_STATE StgSt.ACTIVE |> put (Reg.STG_P_CTRL 0) F.STG_P_CTRL_DIR 1
    |> put (Reg.STG_P_STATUS 1) F.STG_P_STATUS_STATE StgSt.ACTIVE |> put (Reg.STG_P_CTRL 1) F.STG_P_CTRL_DIR 1

theorem twoPorts_sound : twoPorts.Sound :=
  { soundAtReset with
    regs := RegsWf_put (RegsWf_put (RegsWf_put (RegsWf_put (RegsWf_put (RegsWf_put (RegsWf_put soundAtReset.regs _ _ _) _ _ _) _ _ _) _ _ _)
      _ _ _) _ _ _) _ _ _ }

/-- What `f` reads of the state that a command leaves; `d` where it leaves none. -/
def readAfter {α : Type} (d : α) (f : State → α) (o : Host.Outcome State Fault Refusal) : α :=
  match o with
  | .next t => f t
  | _ => d

theorem twoPorts_takes : twoPorts.Takes 0 := by unfold State.Takes; decide +kernel

theorem twoPorts_port : twoPorts.stagePortFor (twoPorts.runCtx 0) 0 (twoPorts.logical 0) false = some 0 := by decide +kernel

/-- The CWAIT's look-up of its port meets both. -/
theorem twoPorts_multiMatch : readAfter 0 (·.fld Reg.STG_STATUS F.STG_STATUS_MULTI_MATCH) (exec (.cwait 0 ⟨false, 0⟩ 1 0 0 0) twoPorts) = 1 := by decide +kernel

/-- Refutes O17: a CWAIT whose context port is that of two ACTIVE ports sets STG_STATUS.MULTI_MATCH (R292), a register outside the
frame of a satisfied wait. -/
theorem not_waitResults : ¬ Obligations.WaitResults := by
  intro h
  obtain ⟨-, -, hcwait, -⟩ := h twoPorts 0 ⟨false, 0⟩ 1 0 0 0 twoPorts_sound (by decide +kernel) (by decide)
  obtain ⟨t, ht, -, hregs, -⟩ := hcwait twoPorts_takes 0 twoPorts_port (by decide +kernel) (by decide +kernel) (by decide +kernel)
  have hkept : t.reg Reg.STG_STATUS = twoPorts.reg Reg.STG_STATUS := hregs _ (by
    simp only [IssueRegs, IsLedger]; decide)
  have hset := twoPorts_multiMatch
  rw [ht] at hset
  have hclear : twoPorts.fld Reg.STG_STATUS F.STG_STATUS_MULTI_MATCH = 0 := by decide +kernel
  have hsame : t.fld Reg.STG_STATUS F.STG_STATUS_MULTI_MATCH = twoPorts.fld Reg.STG_STATUS F.STG_STATUS_MULTI_MATCH :=
    congrArg (Word.get · _) hkept
  exact absurd (hset.symm.trans (hsame.trans hclear)) (by decide)

end Sys2Proof.Machine
end

section
/-! Message channels: a CRECV whose header is poisoned faults (R139). -/
namespace Sys2Proof.Machine

/-- Tile 0 runs at address 0, and ring 0 of its logical tile, at the start of tile memory, is enabled for context 0 and holds one entry. -/
def oneEntry : State :=
  State.reset |> put (Reg.TILE_STATUS 0) F.TILE_STATUS_STATE TileSt.RUNNING |> put (Reg.TILE_PROG 0) F.TILE_PROG_LIMIT 32
    |> put (Reg.CHN_CTRL 0 0) F.CHN_CTRL_ENABLE 1 |> put (Reg.CHN_PTR 0 0) F.CHN_PTR_WP 1

/-- The entry's header is poisoned. -/
def poisonedHeader : State := { oneEntry with poison := [tileAddr 0 64] }

theorem poisonedHeader_sound : poisonedHeader.Sound :=
  { soundAtReset with
    regs := RegsWf_put (RegsWf_put (RegsWf_put (RegsWf_put soundAtReset.regs _ _ _) _ _ _) _ _ _) _ _ _ }

theorem poisonedHeader_takes : poisonedHeader.Takes 0 := by unfold State.Takes; decide +kernel

/-- The CRECV faults with POISON, and so writes no predicate. -/
theorem poisonedHeader_faults :
    readAfter 0 (·.fld (Reg.TILE_FAULT 0) F.TILE_FAULT_CODE) (exec (.crecv 0 ⟨false, 0⟩ 1 0 0 0 1) poisonedHeader) = 0x0A ∧
    readAfter true (·.preg 0 1) (exec (.crecv 0 ⟨false, 0⟩ 1 0 0 0 1) poisonedHeader) = false := by decide +kernel

/-- Refutes O18: a CRECV from a ring whose oldest entry has a poisoned header faults with 0x0A (R139) and does not write pPDST; the
clause of CRECV asks only that the ring holds an entry. -/
theorem not_channelInstructions : ¬ Obligations.ChannelInstructions := by
  intro h
  obtain ⟨-, -, -, hrecv, -⟩ := h poisonedHeader 0 ⟨false, 0⟩ 1 0 0 0 0 1 poisonedHeader_sound (by decide +kernel) poisonedHeader_takes (by decide)
  obtain ⟨hcrecv, -⟩ := hrecv (by decide +kernel) (by decide +kernel)
  obtain ⟨t, ht, -, hpd, -⟩ := hcrecv (by decide +kernel) (by decide)
  have hfaults := poisonedHeader_faults.2
  rw [ht] at hfaults
  exact absurd (hpd.symm.trans hfaults) (by decide)

end Sys2Proof.Machine
end

section
/-! Numbers as bytes, and lists cut into pieces of one length: what a register image holds at an element. -/
namespace Sys2Proof.Machine

/-! ### Numbers and their bytes -/

@[simp] theorem length_bytesOf (n v : Nat) : (bytesOf n v).length = n := by simp [bytesOf]

theorem bytesOf_succ (n v : Nat) : bytesOf (n + 1) v = BitVec.ofNat 8 v :: bytesOf n (v / 256) := by
  simp only [bytesOf, List.range_succ_eq_map, List.map_cons, List.map_map, Nat.mul_zero, Nat.shiftRight_zero]
  refine congrArg _ (List.map_congr_left fun i _ => ?_)
  rw [Function.comp_apply, Nat.mul_succ, Nat.add_comm, Nat.shiftRight_add, Nat.shiftRight_eq_div_pow v 8]

/-- A number written out in `n` bytes spells its low `n` bytes. -/
theorem ofBytes_bytesOf (n v : Nat) : ofBytes (bytesOf n v) = v % 256 ^ n := by
  induction n generalizing v with
  | zero => rw [Nat.pow_zero, Nat.mod_one]; rfl
  | succ n ih =>
    rw [bytesOf_succ]
    show (BitVec.ofNat 8 v).toNat + 256 * ofBytes (bytesOf n (v / 256)) = _
    have hm : v % (256 * 256 ^ n) = v % 256 + 256 * (v / 256 % 256 ^ n) := Nat.mod_mul
    rw [ih, BitVec.toNat_ofNat, Nat.pow_succ' (m := 256), hm]

/-- Bytes are those of the number that they spell. -/
theorem bytesOf_ofBytes (l : List Byte) : bytesOf l.length (ofBytes l) = l := by
  induction l with
  | nil => rfl
  | cons b l ih =>
    have hv : ofBytes (b :: l) = b.toNat + 256 * ofBytes l := rfl
    have hb : b.toNat < 256 := b.isLt
    rw [List.length_cons, bytesOf_succ, hv, show (b.toNat + 256 * ofBytes l) / 256 = ofBytes l by omega, ih]
    exact congrArg (· :: l) (BitVec.eq_of_toNat_eq (by rw [BitVec.toNat_ofNat]; omega))

/-- The `n` bytes from `i` on are those of the number that they spell. -/
theorem bytesOf_field {l : List Byte} {i n : Nat} (h : i + n ≤ l.length) : bytesOf n (field l i n) = (l.drop i).take n := by
  have hl : ((l.drop i).take n).length = n := by simp; omega
  have hb := bytesOf_ofBytes ((l.drop i).take n)
  rwa [hl] at hb

/-! ### Pieces of one length -/

section
variable {α β : Type}

/-- The pieces of a list, joined, are the list. -/
theorem flatMap_pieces (l : List α) (w n : Nat) : (List.range n).flatMap (fun i => (l.drop (w * i)).take w) = l.take (w * n) := by
  induction n with
  | zero => simp
  | succ n ih =>
    rw [List.range_succ, List.flatMap_append, ih, List.flatMap_singleton, Nat.mul_succ, ← List.take_add]

theorem length_flatMap_of {f : α → List β} {w : Nat} (l : List α) (hf : ∀ a ∈ l, (f a).length = w) : (l.flatMap f).length = w * l.length := by
  induction l with
  | nil => rfl
  | cons a l ih =>
    rw [List.flatMap_cons, List.length_append, hf a (List.mem_cons_self ..), ih fun b hb => hf b (List.mem_cons_of_mem _ hb), List.length_cons]
    ring

/-- Piece `e` of joined pieces. -/
theorem piece_flatMap {f : α → List β} {w : Nat} {l : List α} (hf : ∀ a ∈ l, (f a).length = w) {e : Nat} (he : e < l.length) :
    ((l.flatMap f).drop (w * e)).take w = f l[e] := by
  induction l generalizing e with
  | nil => simp at he
  | cons a l ih =>
    have ha : (f a).length = w := hf a (List.mem_cons_self ..)
    have hl : ∀ b ∈ l, (f b).length = w := fun b hb => hf b (List.mem_cons_of_mem _ hb)
    rw [List.flatMap_cons]
    cases e with
    | zero => rw [Nat.mul_zero, List.drop_zero, List.take_append_of_le_length (by omega), List.take_of_length_le (by omega)]; rfl
    | succ e =>
      rw [Nat.mul_succ, Nat.add_comm, ← List.drop_drop, List.drop_left' ha]
      exact ih hl (by simpa using he)

end

/-- Element `e` of joined numbers of `w` bytes each. -/
theorem field_flatMap_bytesOf {w e : Nat} {l : List Nat} (he : e < l.length) : field (l.flatMap (bytesOf w)) (w * e) w = l[e] % 256 ^ w := by
  rw [field, piece_flatMap (fun _ _ => length_bytesOf ..) he, ofBytes_bytesOf]

/-- Element `e` of the elements read from bytes. -/
theorem getElem_takeElems (w : Nat) {n e : Nat} (b : List Byte) (he : e < (takeElems w n b).length) :
    (takeElems w n b)[e] = field b (w * e) w := by
  induction n generalizing b e with
  | zero => simp [takeElems] at he
  | succ n ih =>
    cases e with
    | zero => rw [Nat.mul_zero]; rfl
    | succ e =>
      have hstep : field (b.drop w) (w * e) w = field b (w * (e + 1)) w := by
        rw [field, field, List.drop_drop, Nat.mul_succ, Nat.add_comm]
      exact (ih (b.drop w) (by simpa [takeElems] using he)).trans hstep

@[simp] theorem length_takeElems (w n : Nat) (b : List Byte) : (takeElems w n b).length = n := by
  induction n generalizing b with
  | zero => rfl
  | succ n ih => rw [takeElems, List.length_cons, ih]

/-! ### Vector registers -/

theorem touches_setVreg (p n : Nat) (data : List Byte) (s : State) :
    Touches (fun a => ∃ i, i < 128 ∧ a = Reg.TILE_VREG p (128 * n + i)) s (setVreg p n data s) :=
  touches_forEach (fun i hi t => touches_setR ⟨i, List.mem_range.1 hi, rfl⟩ _ t) s

/-- A vector register reads the image that was written to it. -/
theorem vreg_setVreg {s : State} (hs : s.RegsWf) (p n : Nat) {data : List Byte} (hl : data.length = 1024) : (setVreg p n data s).vreg p n = data := by
  have hreg : ∀ i ∈ List.range 128, bytesOf 8 ((setVreg p n data s).reg (Reg.TILE_VREG p (128 * n + i))).toNat = (data.drop (8 * i)).take 8 := by
    intro i hi
    have hi' : i < 128 := List.mem_range.1 hi
    have hf : field data (8 * i) 8 < 2 ^ 64 := field_lt data (8 * i) 8
    rw [setVreg, reg_forEach_setR (off := fun i => Reg.TILE_VREG p (128 * n + i)) (fun i j e => by simp only [Reg.TILE_VREG] at e; omega)
      (fun i => BitVec.ofNat 64 (field data (8 * i) 8)) List.nodup_range hi hs, BitVec.toNat_ofNat, Nat.mod_eq_of_lt hf,
      bytesOf_field (by omega)]
  rw [State.vreg, List.flatMap_congr hreg, flatMap_pieces, List.take_of_length_le (by omega)]

/-- Registers that read as in another state make the same vector register. -/
theorem vreg_congr {s t : State} {p n : Nat} (h : ∀ i < 128, t.reg (Reg.TILE_VREG p (128 * n + i)) = s.reg (Reg.TILE_VREG p (128 * n + i))) :
    t.vreg p n = s.vreg p n :=
  List.flatMap_congr fun i hi => by rw [h i (List.mem_range.1 hi)]

@[simp] theorem length_vreg (s : State) (p n : Nat) : (s.vreg p n).length = 1024 := by
  rw [State.vreg, length_flatMap_of _ fun _ _ => length_bytesOf .., List.length_range]

end Sys2Proof.Machine
end

section
/-! Bundles of one slot other than the control slot: what their issue leaves. -/
namespace Sys2Proof.Machine

variable {s t u e : State} {W V : Nat → Prop} {p : Fin 160} {g : Guard}

/-- The frame of an issue: what the slots' effects leave, then the registers of any issue. -/
theorem Within.issueFrame (he : Within W s e) (hw : Works (IssueRegs p.val) e t) : IssueFrame p.val W s t := by
  obtain ⟨hr, ⟨hb, hp, hq⟩, ha⟩ := he.keeps
  refine ⟨fun a h => ?_, ⟨fun a => (hw.sameMemory.1 a).trans (hb a), hw.poison.trans hp, hw.path.trans hq⟩, hw.acc.trans ha⟩
  rw [hw.reg he.regsWf fun i => h (.inr i), hr a fun w => h (.inl w)]

/-- A bundle with a NOP in its control slot that nothing stops has the effects of its other slots, and those of any issue. -/
theorem presentSlot_works {b : Bundle} (hctl : b.ctl = .nop) (h : s.Takes p.val) (hx : b.live p.val s = b) (hill : b.illegal = none)
    (hc : b.conflict (matBanks b.mat (s.matDesc p.val b.mat)) = none) (hn : noteLookups p.val b s = s) (hf : slotFaults p.val b s = [])
    (ho : otherHold p.val b s = 0)
    (he : movEffect p.val b.mov s (vecEffect p.val b.vec (s.tpc p.val) s (matEffect p.val b.mat (s.tpc p.val) s s)) = e)
    (howed : e.path.owed = []) :
    settle (presentSlot p.val b s) = issueBundle p.val b false s ∧ Works (IssueRegs p.val) e (issueBundle p.val b false s) := by
  have hbegin : beginCtl p.val b.ctl s = s := by rw [hctl]; rfl
  have hwait : ctlWait p.val b.ctl (beginCtl p.val b.ctl s) = 0 := by rw [hctl]; rfl
  have hw : Works (IssueRegs p.val) e (issueBundle p.val b false s) := by
    have hctl' : ctlEffect p.val b.ctl false s s = s := by rw [hctl]; rfl
    have := works_issue p.val b (timed := false) (by rw [hctl]; rfl) s
    rwa [hctl', he] at this
  refine ⟨?_, hw⟩
  rw [presentSlot_issues h hx hill hc hn hf ho hwait, hbegin, settle_of_nothing_owed (by rw [hw.path, howed])]

/-- A vector-slot instruction that its encoding and its operands let through. -/
theorem presentVec_ends {i : Vec} (hs : s.Sound) (h : s.Takes p.val) (hg : s.guard p.val g = true) (hl : vecLegal i = true)
    (hf : vecFaults p.val i s = []) (he : Within W s (vecEffect p.val i (s.tpc p.val) s s)) :
    ∃ t, settle (presentVec p.val g i s) = t ∧ IssueFrame p.val W s t ∧ Works (IssueRegs p.val) (vecEffect p.val i (s.tpc p.val) s s) t := by
  obtain ⟨hp, hw⟩ := presentSlot_works (p := p) (b := oneSlot g .nop .nop i .nop) rfl h (oneSlot_live _ _ _ _ _ _ hg)
    (by simp [Bundle.illegal, oneSlot, hl, ctlLegal, matLegal, movLegal]) (conflict_vec g i) rfl
    (by simp only [slotFaults, oneSlot, hf, List.map_nil, List.append_nil]; rfl) rfl rfl (he.path.symm ▸ hs.owed)
  exact ⟨_, hp, he.issueFrame hw, hw⟩

/-- A move-slot instruction that its encoding, its look-ups, its operands and its waits let through. -/
theorem presentMov_ends {i : Mov} (h : s.Takes p.val) (hg : s.guard p.val g = true) (hl : movLegal i = true)
    (hn : noteLookups p.val (oneSlot g .nop .nop .nop i) s = s) (hf : movFaults p.val i s = []) (hw : movWait p.val i s = 0)
    (he : (movEffect p.val i s s).path.owed = []) :
    ∃ t, settle (presentMov p.val g i s) = t ∧ Works (IssueRegs p.val) (movEffect p.val i s s) t := by
  obtain ⟨hp, hw⟩ := presentSlot_works (p := p) (b := oneSlot g .nop .nop .nop i) rfl h (oneSlot_live _ _ _ _ _ _ hg)
    (by simp [Bundle.illegal, oneSlot, hl, ctlLegal, matLegal, vecLegal]) (conflict_mov g i) hn
    (by simp only [slotFaults, oneSlot, hf, List.map_nil, List.append_nil]; rfl) (by simpa [otherHold, oneSlot] using hw) rfl he
  exact ⟨_, hp, hw⟩

/-- A matrix-slot instruction that its encoding and its operands let through, to a queue that is not full. -/
theorem presentMat_ends {i : Mat} (h : s.Takes p.val) (hg : s.guard p.val g = true) (hl : matLegal i = true)
    (hf : matFaults i (s.areg p.val (matAddrs i).1) (s.areg p.val (matAddrs i).2) (s.matDesc p.val i) = [])
    (hq : (s.tile p.val).queue.length < 4) (he : (matEffect p.val i (s.tpc p.val) s s).path.owed = []) :
    settle (presentMat p.val g i s) = issueBundle p.val (oneSlot g .nop i .nop .nop) false s ∧
      Works (IssueRegs p.val) (matEffect p.val i (s.tpc p.val) s s) (issueBundle p.val (oneSlot g .nop i .nop .nop) false s) :=
  presentSlot_works (p := p) (b := oneSlot g .nop i .nop .nop) rfl h (oneSlot_live _ _ _ _ _ _ hg)
    (by simp [Bundle.illegal, oneSlot, hl, ctlLegal, vecLegal, movLegal]) (conflict_mat g i _) rfl
    (by simp only [slotFaults, oneSlot, hf, List.map_nil, List.append_nil]; rfl) (if_neg fun h => Nat.not_lt.2 h.2 hq) rfl he

theorem queue_setNext (hm : Store.Wf (fun _ => TileState.init) s.tiles) (p a : Nat) : ((setNext p a s).tile p).queue = (s.tile p).queue := by
  show ((setTile p _ s).tile p).queue = _
  rw [tile_setTile_same s hm]

/-- An issue leaves the engine queue to the matrix slot. -/
theorem queue_issue {b : Bundle} (hctl : b.ctl = .nop)
    (he : movEffect p.val b.mov s (vecEffect p.val b.vec (s.tpc p.val) s (matEffect p.val b.mat (s.tpc p.val) s s)) = e)
    (hm : Store.Wf (fun _ => TileState.init) e.tiles) :
    ((issueBundle p.val b false s).tile p.val).queue = (e.tile p.val).queue := by
  have hiss : issued p.val b false s = advancePc p.val .nop (s.tpc p.val) s e := by rw [issued, hctl, ← he]; rfl
  obtain ⟨a, l, ha⟩ := advancePc_eq p.val .nop (s.tpc p.val) s e
  rw [tile_issue p.val b (by rw [hctl]; rfl) s (by rw [hiss]; exact (works_advancePc ..).2.2 hm), hiss, ha]
  show ((setNext p.val a (setTile p.val { e.tile p.val with loops := l } e)).tile p.val).queue = _
  rw [queue_setNext (Store.wf_update hm _ _), tile_setTile_same e hm]

end Sys2Proof.Machine
end

section
/-! What the issue of a vector-slot instruction leaves, and the elements of its destination. -/
namespace Sys2Proof.Machine

variable {s t u : State} {W V : Nat → Prop} {p : Fin 160} {g : Guard}

/-! ### The engine's own registers -/

/-- The registers that a vector-slot instruction may write after its destination. -/
abbrev VecNotes (p a : Nat) : Prop := VectorRegs p a ∨ IsLedger a

theorem touches_vecCount {p off : Nat} (h : VectorRegs p off) (n : Nat) (s : State) : Touches (VecNotes p) s (bumpBy off n s) := by
  refine (touches_bumpBy off n s).mono fun a e => ?_
  rcases e with rfl | e
  · exact .inl h
  · exact .inr e

theorem touches_noteVec (p : Nat) (o : VOp) (fmt func pc : Nat) (f : VFlags) (s : State) : Touches (VecNotes p) s (noteVec p o fmt func pc f s) := by
  have hst : VecNotes p (Reg.VEC_STATUS p) := .inl (.inl rfl)
  have hraise (c : Bool) (x : Fld) (u : State) : Touches (VecNotes p) u (when c (raise (Reg.VEC_STATUS p) x) u) :=
    touches_when (fun t => touches_raise hst x t) u
  unfold noteVec
  extract_lets st s1 s2 s3 s4 r kind w w' d
  have h4 : Touches (VecNotes p) s s4 := (hraise ..).trans <| (hraise ..).trans <| (hraise ..).trans <|
    touches_when (fun t => (touches_raise hst _ t).trans (touches_vecCount (by simp [VectorRegs]) _ _)) s3
  refine h4.trans ?_
  split
  · exact Touches.refl _ _
  · exact (touches_setR (.inl (by simp [VectorRegs, r])) _ _).trans (touches_setR (.inl (by simp [VectorRegs])) _ _)

theorem touches_advanceRng (p n : Nat) (s : State) :
    Touches (fun a => a = Reg.TILE_RNG_CTR_LO p ∨ a = Reg.TILE_RNG_CTR_HI p) s (advanceRng p n s) :=
  (touches_setR (W := fun a => a = Reg.TILE_RNG_CTR_LO p ∨ a = Reg.TILE_RNG_CTR_HI p) (.inl rfl) _ s).trans (touches_setR (.inr rfl) _ _)

/-- What a vector-slot instruction does before the engine counts and notes it: its destination and its draws. -/
def vecWritten (p d : Nat) (data : List Byte) (draws : Nat) (s : State) : State :=
  when (decide (0 < draws)) (advanceRng p draws) (setVreg p d data s)

theorem touches_vecEffect {p pc : Nat} {o : VOp} {d a b c : Fin 32} {fmt : BitVec 4} {rnd : BitVec 2} {func : BitVec 8} {data : List Byte}
    (hr : (vecResult p o a.val b.val c.val fmt.toNat rnd.toNat func.toNat s).vec = some data) :
    Touches (VecNotes p)
      (vecWritten p d.val data (vecResult p o a.val b.val c.val fmt.toNat rnd.toNat func.toNat s).draws s)
      (vecEffect p (.op o d a b c fmt rnd func) pc s s) := by
  unfold vecEffect
  dsimp only
  rw [hr]
  exact (touches_vecCount (by simp [VectorRegs]) _ _).trans <|
    (touches_when (fun t => touches_vecCount (by simp [VectorRegs]) _ t) _).trans (touches_noteVec ..)

/-! ### What the issue leaves -/

/-- The words of vector register `d`. -/
abbrev IsVreg (p d a : Nat) : Prop := ∃ i, i < 128 ∧ a = Reg.TILE_VREG p (128 * d + i)

theorem vreg_apart (d : Fin 32) {i : Nat} (hi : i < 128) :
    ¬ IssueRegs p.val (Reg.TILE_VREG p.val (128 * d.val + i)) ∧ ¬ VecNotes p.val (Reg.TILE_VREG p.val (128 * d.val + i)) ∧
      Reg.TILE_VREG p.val (128 * d.val + i) ≠ Reg.TILE_RNG_CTR_LO p.val ∧ Reg.TILE_VREG p.val (128 * d.val + i) ≠ Reg.TILE_RNG_CTR_HI p.val := by
  simp only [IssueRegs, VecNotes, VectorRegs, IsLedger, Reg.TILE_VREG, Reg.TILE_PC, Reg.TILE_STATUS, Reg.TILE_BUSY, Reg.VEC_STATUS, Reg.VEC_ACTIVE,
    Reg.VEC_SFU, Reg.VEC_OUT_SAT_CNT, Reg.VEC_NF_CAPTURE, Reg.VEC_NF_TIDE, Reg.TILE_RNG_CTR_LO, Reg.TILE_RNG_CTR_HI]
  omega

/-- A frame of an issue holds of more registers. -/
theorem IssueFrame.mono (h : IssueFrame p.val W s t) (hv : ∀ a, W a → V a ∨ IssueRegs p.val a) : IssueFrame p.val V s t :=
  ⟨fun a ha => h.1 a fun w => ha (w.elim (hv a) .inr), h.2⟩

variable {o : VOp} {d a b c : Fin 32} {fmt : BitVec 4} {rnd : BitVec 2} {func : BitVec 8} {data : List Byte}

/-- A vector-slot instruction that writes the image `data` to vector register `d`: its destination, and the registers it leaves. -/
theorem vec_ends {n : Nat} {x : VFlags} (hs : s.Sound) (h : s.Takes p.val) (hg : s.guard p.val g = true)
    (hl : vecLegal (.op o d a b c fmt rnd func) = true) (hf : vecFaults p.val (.op o d a b c fmt rnd func) s = [])
    (hr : vecResult p.val o a.val b.val c.val fmt.toNat rnd.toNat func.toNat s = ⟨some data, 0, x, n⟩) (hd : data.length = 1024) :
    ∃ t, settle (presentVec p.val g (.op o d a b c fmt rnd func) s) = t ∧ t.vreg p.val d.val = data ∧
      (∀ r, ¬ VecNotes p.val r → ¬ IssueRegs p.val r → t.reg r = (vecWritten p.val d.val data n s).reg r) ∧
      IssueFrame p.val (fun r => VecNotes p.val r ∨ (0 < n ∧ (r = Reg.TILE_RNG_CTR_LO p.val ∨ r = Reg.TILE_RNG_CTR_HI p.val)) ∨
        IsVreg p.val d.val r) s t := by
  obtain ⟨e, he⟩ : ∃ e, e = vecEffect p.val (.op o d a b c fmt rnd func) (s.tpc p.val) s s := ⟨_, rfl⟩
  have hset : Touches (IsVreg p.val d.val) s (setVreg p.val d.val data s) := touches_setVreg ..
  have hrng : Touches (fun r => 0 < n ∧ (r = Reg.TILE_RNG_CTR_LO p.val ∨ r = Reg.TILE_RNG_CTR_HI p.val)) (setVreg p.val d.val data s)
      (vecWritten p.val d.val data n s) := by
    unfold vecWritten
    cases hn : decide (0 < n)
    · exact Touches.refl _ _
    · exact (touches_advanceRng ..).mono fun _ e => ⟨of_decide_eq_true hn, e⟩
  have hnote : Touches (VecNotes p.val) (vecWritten p.val d.val data n s) e := by
    have := touches_vecEffect (p := p.val) (pc := s.tpc p.val) (s := s) (o := o) (d := d) (a := a) (b := b) (c := c) (fmt := fmt) (rnd := rnd)
      (func := func) (data := data) (by rw [hr])
    rwa [hr, ← he] at this
  have hwf := hset.regsWf hs.regs
  have hall : Touches (fun r => VecNotes p.val r ∨ (0 < n ∧ (r = Reg.TILE_RNG_CTR_LO p.val ∨ r = Reg.TILE_RNG_CTR_HI p.val)) ∨
      IsVreg p.val d.val r) s e :=
    (hset.mono fun _ h => .inr (.inr h)).trans <| (hrng.mono fun _ h => .inr (.inl h)).trans (hnote.mono fun _ h => .inl h)
  obtain ⟨t, ht, hframe, hw⟩ := presentVec_ends hs h hg hl hf (he ▸ (Within.refl hs.regs).touches hall)
  rw [← he] at hw
  refine ⟨t, ht, ?_, fun r hn hi => ?_, hframe⟩
  · refine Eq.trans (vreg_congr fun i hi => ?_) (vreg_setVreg hs.regs p.val d.val hd)
    obtain ⟨hi1, hi2, hlo, hhi⟩ := vreg_apart (p := p) d hi
    rw [hw.reg (hall.regsWf hs.regs) hi1, hnote.reg (hrng.regsWf hwf) hi2, hrng.reg hwf fun h => h.2.elim hlo hhi]
  · rw [hw.reg (hall.regsWf hs.regs) hi, hnote.reg (hrng.regsWf hwf) hn]

/-! ### Elements (R180) -/

/-- A plain format of the vector engine. -/
def PlainFmt (f : Nat) : Prop := f ≤ 4 ∨ f = 12

theorem elems_fill {f : Nat} (hf : PlainFmt f) : elemBytes f * capacity f = 1024 ∧ 256 ^ elemBytes f = 2 ^ (8 * elemBytes f) ∧ elemBits f = 8 * elemBytes f := by
  rcases hf with hf | rfl
  · interval_cases f <;> decide
  · decide

@[simp] theorem length_elems (f : Nat) (l : List Byte) : (elems f l).length = capacity f := length_takeElems ..

/-- An element of a register image is its code. -/
@[simp] theorem getElem_elems (f p n e : Nat) (he : e < (elems f (s.vreg p n)).length) : (elems f (s.vreg p n))[e] = laneCode s p f n e :=
  getElem_takeElems ..

theorem laneCode_lt {f : Nat} (hf : PlainFmt f) (s : State) (p n e : Nat) : laneCode s p f n e < 2 ^ (8 * elemBytes f) :=
  (elems_fill hf).2.1 ▸ field_lt ..

theorem length_image {f : Nat} (hf : PlainFmt f) {l : List Nat} (hl : l.length = capacity f) : (image f l).length = 1024 := by
  rw [image, length_flatMap_of _ fun _ _ => length_bytesOf .., hl, (elems_fill hf).1]

/-- A vector-slot instruction that takes no draws and whose elements are `codes`. -/
theorem elements_end {x : VFlags} {i : Instr} {codes : List Nat} {P : Nat → Nat → Prop} (hs : s.Sound) (h : s.Takes p.val)
    (hg : s.guard p.val g = true) (hi : exec i s = .next (settle (presentVec p.val g (.op o d a b c fmt rnd func) s)))
    (hp : PlainFmt fmt.toNat) (hl : vecLegal (.op o d a b c fmt rnd func) = true) (hf : vecFaults p.val (.op o d a b c fmt rnd func) s = [])
    (hr : vecResult p.val o a.val b.val c.val fmt.toNat rnd.toNat func.toNat s = ⟨some (image fmt.toNat codes), 0, x, 0⟩)
    (hlen : codes.length = capacity fmt.toNat)
    (hP : ∀ e (he : e < codes.length), codes[e] < 2 ^ (8 * elemBytes fmt.toNat) ∧ P e codes[e]) :
    Ends i s fun t => (∀ e, e < capacity fmt.toNat → P e (laneCode t p.val fmt.toNat d.val e)) ∧ VectorFrame p.val d.val s t := by
  obtain ⟨t, ht, hv, -, hframe⟩ := vec_ends hs h hg hl hf hr (length_image hp hlen)
  refine ends_of_settled hi ⟨t, ht, fun e he => ?_, hframe.mono fun r hr => ?_⟩
  · have he' : e < codes.length := hlen ▸ he
    obtain ⟨hb, hP⟩ := hP e he'
    rw [laneCode, hv, image, field_flatMap_bytesOf he', (elems_fill hp).2.1, Nat.mod_eq_of_lt hb]
    exact hP
  · rcases hr with (hr | hr) | hr | hr
    · exact .inl (.inl hr)
    · exact .inr (.inr (.inr (.inr hr)))
    · exact absurd hr.1 (Nat.lt_irrefl 0)
    · exact .inl (.inr hr)

end Sys2Proof.Machine
end

section
/-! Vector arithmetic: every element is the exact result, rounded once (R183, R184). -/
namespace Sys2Proof.Machine

variable {s : State} {p : Fin 160} {g : Guard} {o : VOp}

/-- A code fits where the format's largest finite code, its infinity and its NaN do. -/
theorem FloatFmt.encode_lt {f : FloatFmt} (ht : f.top < 2 ^ f.sign) (hi : ∀ i, f.inf = some i → i < 2 ^ f.sign) (hn : f.nan.getD 0 < 2 ^ (f.sign + 1))
    (mode w : Nat) (v : Val) : (f.encode mode w v).code < 2 ^ (f.sign + 1) := by
  have hsigned (n : Bool) {m : Nat} (hm : m < 2 ^ f.sign) : f.signed n m < 2 ^ (f.sign + 1) := by
    cases n
    · show m < _; omega
    · show 2 ^ f.sign + m < _; omega
  have hbeyond (n : Bool) : (match f.inf with
      | some i => (⟨f.signed n i, false, true⟩ : Enc)
      | none => ⟨f.nan.getD 0, false, true⟩).code < 2 ^ (f.sign + 1) := by
    cases h : f.inf with
    | none => exact hn
    | some i => exact hsigned n (hi i h)
  unfold FloatFmt.encode
  cases v with
  | nan => exact hn
  | inf n =>
    dsimp only
    split
    · exact hsigned n ht
    · exact hbeyond n
  | fin n m e =>
    dsimp only
    split
    · exact hsigned n (Nat.two_pow_pos _)
    · split
      · exact hsigned n (Nat.lt_of_le_of_lt ‹_› ht)
      · split
        · exact hsigned n ht
        · exact hbeyond n

/-- A floating-point element's code fits its element. -/
theorem encodePlain_lt {f : Nat} (hf : f ≤ 4) (mode w : Nat) (v : Val) : (encodePlain f mode w v).code < 2 ^ (8 * elemBytes f) := by
  interval_cases f <;> exact FloatFmt.encode_lt (by decide) (by decide) (by decide) mode w v

/-- Only VFMA reads its third operand. -/
theorem arith_of_ne_vfma (h : o ≠ .vfma) (a b c c' : Val) : arith o a b c = arith o a b c' := by
  cases o
  case vfma => exact absurd rfl h
  all_goals rfl

theorem length_arithOp {f n : Nat} {a b c : List Nat} (ha : a.length = n) (hb : b.length = n) (hc : c.length = n) :
    (arithOp o f a b c).1.length = n := by
  unfold arithOp gather
  dsimp only
  split <;> simp [ha, hb, hc]

/-- An element of an arithmetic result. -/
theorem getElem_arithOp {f e : Nat} {x y z : List Nat} (he : e < (arithOp o f x y z).1.length) (ha : e < x.length) (hb : e < y.length) (hc : e < z.length) :
    (arithOp o f x y z).1[e] =
      (encodePlain f Rnd.NEAREST 0 (arith o (decodePlain f x[e]) (decodePlain f y[e]) (decodePlain f z[e]))).code := by
  by_cases h : o = .vfma
  · simp [arithOp, h, gather, encodeWith]
  · rw [arith_of_ne_vfma h _ _ _ .nan]
    simp [arithOp, h, gather, encodeWith]

/-- An arithmetic opcode ends with the rounded result of every element. -/
theorem arith_ends {i : Instr} {d a b c : Fin 32} {fmt : BitVec 4} {r : Nat → Val} (hs : s.Sound) (h : s.Takes p.val) (hg : s.guard p.val g = true)
    (hfmt : fmt.toNat ≤ 4) (hi : exec i s = .next (settle (presentVec p.val g (.op o d a b c fmt 0 0) s)))
    (hl : vecLegal (.op o d a b c fmt 0 0) = true) (hf : vecFaults p.val (.op o d a b c fmt 0 0) s = [])
    (hr : vecResult p.val o a.val b.val c.val fmt.toNat 0 0 s =
      let x := arithOp o fmt.toNat (elems fmt.toNat (s.vreg p.val a.val)) (elems fmt.toNat (s.vreg p.val b.val)) (elems fmt.toNat (s.vreg p.val c.val))
      ⟨some (image fmt.toNat x.1), 0, x.2, 0⟩)
    (hv : ∀ e, arith o (lane s p.val fmt.toNat a.val e) (lane s p.val fmt.toNat b.val e) (lane s p.val fmt.toNat c.val e) = r e) :
    Ends i s fun t => (∀ e, e < capacity fmt.toNat →
      laneCode t p.val fmt.toNat d.val e = (encodePlain fmt.toNat Rnd.NEAREST 0 (r e)).code) ∧ VectorFrame p.val d.val s t := by
  have hlen := length_arithOp (o := o) (f := fmt.toNat) (length_elems fmt.toNat (s.vreg p.val a.val)) (length_elems _ (s.vreg p.val b.val))
    (length_elems _ (s.vreg p.val c.val))
  refine elements_end (P := fun e k => k = (encodePlain fmt.toNat Rnd.NEAREST 0 (r e)).code) hs h hg hi (.inl hfmt) hl hf hr hlen fun e he => ?_
  have he' : e < capacity fmt.toNat := hlen ▸ he
  rw [getElem_arithOp he (by simpa) (by simpa) (by simpa)]
  refine ⟨encodePlain_lt hfmt .., ?_⟩
  simp only [getElem_elems]
  exact congrArg (fun v => (encodePlain _ _ _ v).code) (hv e)

/-- The lesser or the greater of two elements, by their order and, of equal ones, by the sign of the first. -/
theorem minMax_eq (max : Bool) (a b : Val) : minMax max a b = if a.isNan ∨ b.isNan then .nan
    else if a.cmp b = .lt then (if max then b else a) else if a.cmp b = .gt then (if max then a else b)
    else if a.sign = max then b else a := by
  unfold minMax
  simp only [Bool.or_eq_true]
  split
  · rfl
  · cases a.cmp b <;> rfl

/-- Settles O25: each opcode is the model's exact operation of R183 and R184, its result encoded once. -/
theorem vectorArithmetic : Obligations.VectorArithmetic := by
  intro s p g d a b c fmt hs h hg hfmt
  refine ⟨?_, ?_, ?_, ?_, ?_, ?_⟩
  · exact arith_ends (o := .vadd) hs h hg hfmt rfl (by simp [vecLegal, hfmt]) rfl rfl fun _ => rfl
  · exact arith_ends (o := .vsub) hs h hg hfmt rfl (by simp [vecLegal, hfmt]) rfl rfl fun _ => rfl
  · exact arith_ends (o := .vmul) hs h hg hfmt rfl (by simp [vecLegal, hfmt]) rfl rfl fun _ => rfl
  · exact arith_ends (o := .vfma) hs h hg hfmt rfl (by simp [vecLegal, hfmt]) rfl rfl fun _ => rfl
  · refine arith_ends (o := .vmin) (c := 0) hs h hg hfmt rfl (by simp [vecLegal, hfmt]) rfl rfl fun e => ?_
    refine (minMax_eq false _ _).trans ?_
    cases (lane s p.val fmt.toNat a.val e).sign <;> rfl
  · refine arith_ends (o := .vmax) (c := 0) hs h hg hfmt rfl (by simp [vecLegal, hfmt]) rfl rfl fun e => ?_
    exact minMax_eq true _ _

end Sys2Proof.Machine
end

section
/-! Vector opcodes on bits, and selection, comparison and masks (R180, R182, R184, R196). -/
namespace Sys2Proof.Machine

variable {s : State} {p : Fin 160} {g : Guard} {o : VOp}

/-! ### The words of the generator (R137) -/

theorem philoxRound_lt {k0 k1 : Nat} {l : List Nat} (h0 : k0 < 2 ^ 32) (h1 : k1 < 2 ^ 32) (hl : ∀ x ∈ l, x < 2 ^ 32) :
    ∀ x ∈ philoxRound k0 k1 l, x < 2 ^ 32 := by
  unfold philoxRound
  split
  · next c0 c1 c2 c3 =>
    simp only [List.mem_cons, List.not_mem_nil, or_false, forall_eq_or_imp, forall_eq] at hl ⊢
    obtain ⟨l0, l1, l2, l3⟩ := hl
    have hp0 : 0xD2511F53 * c0 / 2 ^ 32 < 2 ^ 32 := by omega
    have hp1 : 0xCD9E8D57 * c2 / 2 ^ 32 < 2 ^ 32 := by omega
    exact ⟨Nat.xor_lt_two_pow (Nat.xor_lt_two_pow hp1 l1) h0, Nat.mod_lt _ (by decide), Nat.xor_lt_two_pow (Nat.xor_lt_two_pow hp0 l3) h1,
      Nat.mod_lt _ (by decide)⟩
  · exact hl

theorem philoxRounds_lt (n : Nat) {k0 k1 : Nat} {l : List Nat} (h0 : k0 < 2 ^ 32) (h1 : k1 < 2 ^ 32) (hl : ∀ x ∈ l, x < 2 ^ 32) :
    ∀ x ∈ philoxRounds n k0 k1 l, x < 2 ^ 32 := by
  induction n generalizing k0 k1 l with
  | zero => exact hl
  | succ n ih => exact ih (Nat.mod_lt _ (by decide)) (Nat.mod_lt _ (by decide)) (philoxRound_lt h0 h1 hl)

/-- A word of the generator has 32 bits. -/
theorem philoxWord_lt (key ctr i : Nat) : philoxWord key ctr i < 2 ^ 32 := by
  have h := philoxRounds_lt 10 (k0 := key % 2 ^ 32) (k1 := key / 2 ^ 32 % 2 ^ 32) (Nat.mod_lt _ (by decide)) (Nat.mod_lt _ (by decide))
    (l := [(ctr + i / 4) % 2 ^ 128 % 2 ^ 32, (ctr + i / 4) % 2 ^ 128 / 2 ^ 32 % 2 ^ 32, (ctr + i / 4) % 2 ^ 128 / 2 ^ 64 % 2 ^ 32,
      (ctr + i / 4) % 2 ^ 128 / 2 ^ 96 % 2 ^ 32]) (by simp [Nat.mod_lt])
  rw [philoxWord, List.getD_eq_getElem?_getD]
  cases hx : (philox key ((ctr + i / 4) % 2 ^ 128))[i % 4]? with
  | none => decide
  | some x => exact h x (List.mem_of_getElem? hx)

/-- The counter of the generator, advanced. -/
theorem rngCtr_advanceRng (h : s.RegsWf) (p n : Nat) : (advanceRng p n s).rngCtr p = (s.rngCtr p + n) % 2 ^ 128 := by
  have hlo : (advanceRng p n s).reg (Reg.TILE_RNG_CTR_LO p) = BitVec.ofNat 64 (s.rngCtr p + n) := by
    rw [advanceRng, reg_setR_ne (RegsWf_setR h _ _) _ (by simp only [Reg.TILE_RNG_CTR_LO, Reg.TILE_RNG_CTR_HI]; omega), reg_setR_same h]
  have hhi : (advanceRng p n s).reg (Reg.TILE_RNG_CTR_HI p) = BitVec.ofNat 64 ((s.rngCtr p + n) / 2 ^ 64) := by
    rw [advanceRng, reg_setR_same (RegsWf_setR h _ _)]
  rw [State.rngCtr, hlo, hhi, BitVec.toNat_ofNat, BitVec.toNat_ofNat]
  omega

/-! ### Elements -/

/-- A comparison by FUNC 0 EQ, 1 NE, 2 LT, 4 GE: NE alone holds of a NaN. -/
theorem compareHolds_iff (x y : Val) :
    (compareHolds 0 x y = true ↔ (x.isNan = false ∧ y.isNan = false) ∧ x.cmp y = .eq) ∧
    (compareHolds 1 x y = true ↔ ¬ (x.isNan = false ∧ y.isNan = false) ∨ x.cmp y ≠ .eq) ∧
    (compareHolds 2 x y = true ↔ (x.isNan = false ∧ y.isNan = false) ∧ x.cmp y = .lt) ∧
    (compareHolds 4 x y = true ↔ (x.isNan = false ∧ y.isNan = false) ∧ x.cmp y ≠ .lt) := by
  unfold compareHolds
  cases x.isNan <;> cases y.isNan <;> cases x.cmp y <;> simp

/-- What the code of an element denotes. -/
theorem decodePlain_laneCode (s : State) (p f n e : Nat) : decodePlain f (laneCode s p f n e) = lane s p f n e := rfl

/-- The elements of a comparison. -/
theorem getElem_cmpOp {f n e : Nat} {x y : List Nat} (he : e < (cmpOp f n x y).1.length) (hx : e < x.length) (hy : e < y.length) :
    (cmpOp f n x y).1[e] = if compareHolds n (decodePlain f x[e]) (decodePlain f y[e]) then ones f else 0 := by
  simp [cmpOp, gather]

theorem length_cmpOp {f n k : Nat} {x y : List Nat} (hx : x.length = k) (hy : y.length = k) : (cmpOp f n x y).1.length = k := by
  simp [cmpOp, gather, hx, hy]

/-- The elements of a selection. -/
theorem getElem_selOp {f e : Nat} {x y z : List Nat} (he : e < (selOp f x y z).1.length) (hx : e < x.length) (hy : e < y.length) (hz : e < z.length) :
    (selOp f x y z).1[e] = if z[e] ≠ 0 then x[e] else y[e] := by
  simp [selOp, gather]

theorem length_selOp {f k : Nat} {x y z : List Nat} (hx : x.length = k) (hy : y.length = k) (hz : z.length = k) : (selOp f x y z).1.length = k := by
  simp [selOp, gather, hx, hy, hz]

theorem ite_lt {q : Prop} [Decidable q] {m n k : Nat} (hm : m < k) (hn : n < k) : (if q then m else n) < k := by
  split
  · exact hm
  · exact hn

theorem ones_eq {f : Nat} (hf : PlainFmt f) : ones f = 2 ^ (8 * elemBytes f) - 1 := by rw [ones, (elems_fill hf).2.2]

theorem ones_lt {f : Nat} (hf : PlainFmt f) : ones f < 2 ^ (8 * elemBytes f) := by
  rw [ones_eq hf]
  exact Nat.sub_lt (Nat.two_pow_pos _) (by decide)

/-- An element of a causal mask, for key positions of 32 bits. -/
theorem getElem_maskOp_causal {f sa sb e : Nat} (he : e < (maskOp f 0 sa sb).length) (hsa : sa < 2 ^ 64) (hsb : sb < 2 ^ 32)
    (hk : sb + e % (capacity f / 2) < 2 ^ 32) :
    (maskOp f 0 sa sb)[e] = if (if e < capacity f / 2 then sa % 2 ^ 32 else sa / 2 ^ 32) < sb + e % (capacity f / 2) then ones f else 0 := by
  have hq : sa / 2 ^ 32 % 2 ^ 32 = sa / 2 ^ 32 := Nat.mod_eq_of_lt (by omega)
  have hs : sb % 2 ^ 32 = sb := Nat.mod_eq_of_lt hsb
  have hle : ¬ sb + e % (capacity f / 2) > 0xFFFFFFFF := by omega
  simp only [maskOp, List.getElem_map, List.getElem_range, hq, hs, maskHides, if_neg hle, Nat.zero_mod, decide_eq_true_eq, gt_iff_lt]

/-! ### The opcodes -/

section
variable {d a b c : Fin 32} (hs : s.Sound) (h : s.Takes p.val) (hg : s.guard p.val g = true)
include hs h hg

/-- A 32-bit operation on every lane. -/
theorem lanes_end {i : Instr} {func : BitVec 8} {op : Nat → Nat → Nat} (hi : exec i s = .next (settle (presentVec p.val g (.op o d a b 0 12 0 func) s)))
    (hl : vecLegal (.op o d a b 0 12 0 func) = true) (hf : vecFaults p.val (.op o d a b 0 12 0 func) s = [])
    (hr : vecResult p.val o a.val b.val 0 12 0 func.toNat s =
      ⟨some (image 12 (List.zipWith op (elems 12 (s.vreg p.val a.val)) (elems 12 (s.vreg p.val b.val)))), 0, VFlags.none, 0⟩)
    (hop : ∀ x y, x < 2 ^ 32 → y < 2 ^ 32 → op x y < 2 ^ 32) :
    Ends i s fun t => (∀ e, e < capacity 12 → laneCode t p.val 12 d.val e = op (laneCode s p.val 12 a.val e) (laneCode s p.val 12 b.val e)) ∧
      VectorFrame p.val d.val s t := by
  refine elements_end (P := fun e k => k = op (laneCode s p.val 12 a.val e) (laneCode s p.val 12 b.val e)) hs h hg hi (.inr rfl) hl hf hr (by simp)
    fun e he => ?_
  rw [List.getElem_zipWith, getElem_elems, getElem_elems]
  exact ⟨hop _ _ (laneCode_lt (.inr rfl) ..) (laneCode_lt (.inr rfl) ..), rfl⟩

/-- VRNG gives the words of 64 calls and advances the counter by them. -/
theorem vrng_ends : Ends (.vrng p g d 12) s fun t =>
    (∀ e, e < 256 → laneCode t p.val 12 d.val e = philoxWord (s.rngKey p.val) (s.rngCtr p.val) e) ∧
    t.rngCtr p.val = (s.rngCtr p.val + 64) % 2 ^ 128 ∧
    IssueFrame p.val (fun r => VectorRegs p.val r ∨ r = Reg.TILE_RNG_CTR_LO p.val ∨ r = Reg.TILE_RNG_CTR_HI p.val ∨ IsVreg p.val d.val r) s t := by
  obtain ⟨t, ht, hv, hr, hframe⟩ := vec_ends (o := .vrng) (d := d) (a := 0) (b := 0) (c := 0) (fmt := 12) (rnd := 0) (func := 0) hs h hg rfl rfl rfl
    (length_image (.inr rfl) (by simp; rfl))
  refine ends_of_settled rfl ⟨t, ht, fun e he => ?_, ?_, hframe.mono fun r hr => ?_⟩
  · rw [laneCode, hv, image, field_flatMap_bytesOf (by simpa), List.getElem_map, List.getElem_range]
    exact Nat.mod_eq_of_lt (philoxWord_lt ..)
  · have hset : Touches (IsVreg p.val d.val) s (setVreg p.val d.val _ s) := touches_setVreg p.val d.val
      (image 12 ((List.range 256).map fun i => philoxWord (s.rngKey p.val) (s.rngCtr p.val) i)) s
    have hctr {r : Nat} (hr : r = Reg.TILE_RNG_CTR_LO p.val ∨ r = Reg.TILE_RNG_CTR_HI p.val) :
        ¬ VecNotes p.val r ∧ ¬ IssueRegs p.val r ∧ ¬ IsVreg p.val d.val r := by
      simp only [IssueRegs, VecNotes, VectorRegs, IsVreg, IsLedger, Reg.TILE_VREG, Reg.TILE_PC, Reg.TILE_STATUS, Reg.TILE_BUSY, Reg.VEC_STATUS,
        Reg.VEC_ACTIVE, Reg.VEC_SFU, Reg.VEC_OUT_SAT_CNT, Reg.VEC_NF_CAPTURE, Reg.VEC_NF_TIDE, Reg.TILE_RNG_CTR_LO, Reg.TILE_RNG_CTR_HI] at hr ⊢
      refine ⟨by omega, by omega, ?_⟩
      rintro ⟨i, hi, e⟩
      omega
    have same {u v : State} (hlo : u.reg (Reg.TILE_RNG_CTR_LO p.val) = v.reg (Reg.TILE_RNG_CTR_LO p.val))
        (hhi : u.reg (Reg.TILE_RNG_CTR_HI p.val) = v.reg (Reg.TILE_RNG_CTR_HI p.val)) : u.rngCtr p.val = v.rngCtr p.val := by
      rw [State.rngCtr, hlo, hhi, State.rngCtr]
    have hlo := hctr (.inl rfl)
    have hhi := hctr (.inr rfl)
    rw [same (hr _ hlo.1 hlo.2.1) (hr _ hhi.1 hhi.2.1)]
    refine (rngCtr_advanceRng (hset.regsWf hs.regs) p.val 64).trans ?_
    rw [same (hset.reg hs.regs hlo.2.2) (hset.reg hs.regs hhi.2.2)]
  · rcases hr with (hr | hr) | ⟨-, hr | hr⟩ | hr
    · exact .inl (.inl hr)
    · exact .inr (.inr (.inr (.inr hr)))
    · exact .inl (.inr (.inl hr))
    · exact .inl (.inr (.inr (.inl hr)))
    · exact .inl (.inr (.inr (.inr hr)))

variable {fmt : BitVec 4} (hfmt : fmt.toNat ≤ 4)
include hfmt

/-- VCMP gives all ones where the relation of its FUNC holds, and zero elsewhere. -/
theorem vcmp_ends {func : BitVec 8} {holds : Nat → Prop} (hl : [0, 1, 2, 4].contains func.toNat = true)
    (hh : ∀ e, compareHolds func.toNat (lane s p.val fmt.toNat a.val e) (lane s p.val fmt.toNat b.val e) = true ↔ holds e) :
    Ends (.vcmp p g d a b fmt func) s fun t => (∀ e, e < capacity fmt.toNat →
      (holds e → laneCode t p.val fmt.toNat d.val e = 2 ^ (8 * elemBytes fmt.toNat) - 1) ∧
      (¬ holds e → laneCode t p.val fmt.toNat d.val e = 0)) ∧ VectorFrame p.val d.val s t := by
  have hlen := length_cmpOp (f := fmt.toNat) (n := func.toNat) (length_elems fmt.toNat (s.vreg p.val a.val)) (length_elems _ (s.vreg p.val b.val))
  refine elements_end (o := .vcmp) (P := fun e k => (holds e → k = 2 ^ (8 * elemBytes fmt.toNat) - 1) ∧ (¬ holds e → k = 0)) hs h hg rfl (.inl hfmt)
    (by simp only [vecLegal, hl]; simp [hfmt]) rfl rfl hlen fun e he => ?_
  have hv := getElem_cmpOp he (by simpa [hlen] using he) (by simpa [hlen] using he)
  rw [getElem_elems, getElem_elems, decodePlain_laneCode, decodePlain_laneCode] at hv
  rw [hv, ← ones_eq (.inl hfmt)]
  by_cases hc : holds e
  · rw [if_pos ((hh e).2 hc)]
    exact ⟨ones_lt (.inl hfmt), fun _ => rfl, fun h => absurd hc h⟩
  · rw [if_neg fun h => hc ((hh e).1 h)]
    exact ⟨Nat.two_pow_pos _, fun h => absurd h hc, fun _ => rfl⟩

end

/-- Settles O26: each opcode writes the image of its elements; VRNG also takes its draws. -/
theorem vectorBitsAndSelection : Obligations.VectorBitsAndSelection := by
  intro s p g d a b c hs h hg
  refine ⟨?_, ?_, ?_, ?_, vrng_ends hs h hg, fun fmt hfmt => ⟨?_, ?_, ?_, ?_, ?_, ?_, fun hsb hcap => ?_⟩⟩
  · exact lanes_end (o := .vlog) (op := (· &&& ·)) hs h hg rfl rfl rfl rfl fun x y hx hy => Nat.and_lt_two_pow x hy
  · exact lanes_end (o := .vlog) (op := (· ||| ·)) hs h hg rfl rfl rfl rfl fun x y hx hy => Nat.or_lt_two_pow hx hy
  · exact lanes_end (o := .vlog) (op := (· ^^^ ·)) hs h hg rfl rfl rfl rfl fun x y hx hy => Nat.xor_lt_two_pow hx hy
  · exact lanes_end (o := .viadd) (op := fun x y => (x + y) % 2 ^ 32) hs h hg rfl rfl rfl rfl fun x y _ _ => Nat.mod_lt _ (by decide)
  · have hm : s.sreg p.val a.val % 2 ^ elemBits fmt.toNat = s.sreg p.val a.val % 2 ^ (8 * elemBytes fmt.toNat) := by
      rw [(elems_fill (.inl hfmt)).2.2]
    refine elements_end (o := .vbcast) (P := fun _ k => k = s.sreg p.val a.val % 2 ^ (8 * elemBytes fmt.toNat)) hs h hg rfl (.inl hfmt)
      (by simp [vecLegal, hfmt]) rfl rfl (List.length_replicate ..) fun e he => ?_
    rw [List.getElem_replicate, hm]
    exact ⟨Nat.mod_lt _ (Nat.two_pow_pos _), rfl⟩
  · have hlen := length_selOp (f := fmt.toNat) (length_elems fmt.toNat (s.vreg p.val a.val)) (length_elems _ (s.vreg p.val b.val))
      (length_elems _ (s.vreg p.val c.val))
    refine elements_end (o := .vsel) (P := fun e k => k = if laneCode s p.val fmt.toNat c.val e ≠ 0 then laneCode s p.val fmt.toNat a.val e
      else laneCode s p.val fmt.toNat b.val e) hs h hg rfl (.inl hfmt) (by simp [vecLegal, hfmt]) rfl rfl hlen fun e he => ?_
    have he' : e < capacity fmt.toNat := hlen ▸ he
    rw [getElem_selOp he (by simpa) (by simpa) (by simpa)]
    simp only [getElem_elems]
    refine ⟨?_, trivial⟩
    exact ite_lt (laneCode_lt (.inl hfmt) ..) (laneCode_lt (.inl hfmt) ..)
  · exact vcmp_ends hs h hg hfmt rfl fun e => (compareHolds_iff _ _).1
  · exact vcmp_ends hs h hg hfmt rfl fun e => (compareHolds_iff _ _).2.1
  · exact vcmp_ends hs h hg hfmt rfl fun e => (compareHolds_iff _ _).2.2.1
  · exact vcmp_ends hs h hg hfmt rfl fun e => (compareHolds_iff _ _).2.2.2
  · have hpos : 0 < capacity fmt.toNat / 2 := by
      have := (elems_fill (.inl hfmt)).1
      interval_cases fmt.toNat <;> decide
    have hb : bits (s.sreg p.val b.val) 63 32 = 0 := by simp [bits]; omega
    have hlen : (maskOp fmt.toNat 0 (s.sreg p.val a.val) (s.sreg p.val b.val)).length = capacity fmt.toNat := by simp [maskOp]
    refine elements_end (o := .vmask) (func := 0) (codes := maskOp fmt.toNat 0 (s.sreg p.val a.val) (s.sreg p.val b.val)) (P := fun e k => k = _) hs h hg rfl
      (.inl hfmt) (by simp [vecLegal, hfmt]; rfl)
      (by simp [vecFaults, hb, maskBadP]) rfl hlen fun e he => ?_
    have hmod : e % (capacity fmt.toNat / 2) < capacity fmt.toNat / 2 := Nat.mod_lt _ hpos
    refine ⟨?_, (getElem_maskOp_causal he (sreg_lt ..) hsb (by omega)).trans (by rw [ones_eq (.inl hfmt)])⟩
    rw [getElem_maskOp_causal he (sreg_lt ..) hsb (by omega)]
    exact ite_lt (ones_lt (.inl hfmt)) (Nat.two_pow_pos _)

end Sys2Proof.Machine
end

section
/-! The matrix slot and the engine queue (R113, R114, R164, R169, R176). -/
namespace Sys2Proof.Machine

variable {s t : State} {W : Nat → Prop} {p : Fin 160} {g : Guard} {i : Mat}

/-! ### Counters with room -/

theorem bumpBy_of_below {off n : Nat} (h : s.Below off n) : bumpBy off n s = put off ⟨47, 0⟩ (s.fld off ⟨47, 0⟩ + n) s := by
  have hle : ¬ s.fld off ⟨47, 0⟩ + n > 0xFFFFFFFFFFFF := by unfold State.Below at h; omega
  simp [bumpBy, saturates, addCount, hle]

/-- A counter with room counts. -/
theorem fld_bumpBy (hs : s.RegsWf) {off n : Nat} (h : s.Below off n) : (bumpBy off n s).fld off ⟨47, 0⟩ = s.fld off ⟨47, 0⟩ + n := by
  rw [bumpBy_of_below h, fld_put_same hs _ (by decide)]
  unfold State.Below at h
  exact Nat.mod_eq_of_lt (by simp only [Fld.width]; omega)

/-! ### The queue -/

theorem Within.setTile {k : Nat} {x : TileState} (h : Within W s t) : Within W s (setTile k x t) := ⟨h.regsWf, h.keeps⟩

theorem Within.setMatQueue {k : Nat} {q : List MatEntry} (h : Within W s t) (hw : W (Reg.MXE_STATUS k)) : Within W s (Machine.setMatQueue k q t) :=
  (h.setTile.put hw).put hw

/-- The queue that is set, and its length shown. -/
theorem setMatQueue_shows (hs : s.RegsWf) (hm : Store.Wf (fun _ => TileState.init) s.tiles) (k : Nat) {q : List MatEntry} (hq : q.length < 8) :
    (setMatQueue k q s).tile k = { s.tile k with queue := q } ∧ (setMatQueue k q s).fld (Reg.MXE_STATUS k) F.MXE_STATUS_QUEUE = q.length ∧
      Store.Wf (fun _ => TileState.init) (setMatQueue k q s).tiles := by
  have htile : (setTile k { s.tile k with queue := q } s).tile k = { s.tile k with queue := q } := tile_setTile_same s hm k _
  refine ⟨htile, ?_, Store.wf_update hm _ _⟩
  obtain ⟨u, hu⟩ : ∃ u, u = setTile k { s.tile k with queue := q } s := ⟨_, rfl⟩
  have hwf : u.RegsWf := hu ▸ hs
  rw [setMatQueue, showEngine, ← hu, fld_put_apart (RegsWf_put hwf _ _ _) _ (by decide) (by decide), fld_put_same hwf _ (by decide), hu, htile]
  exact Nat.mod_eq_of_lt hq

theorem mxeStatus_apart (p : Fin 160) : ¬ IssueRegs p.val (Reg.MXE_STATUS p.val) := by
  simp only [IssueRegs, IsLedger, Reg.MXE_STATUS, Reg.TILE_PC, Reg.TILE_STATUS, Reg.TILE_BUSY]; omega

/-- A matrix-slot instruction whose only effect is to join the queue. -/
theorem joins_end (hs : s.Sound) (h : s.Takes p.val) (hg : s.guard p.val g = true) (hq : (s.tile p.val).queue.length < 4) {c : Instr}
    (hc : exec c s = .next (settle (presentMat p.val g i s))) (hl : matLegal i = true)
    (hf : matFaults i (s.areg p.val (matAddrs i).1) (s.areg p.val (matAddrs i).2) (s.matDesc p.val i) = [])
    (he : matEffect p.val i (s.tpc p.val) s s = setMatQueue p.val ((s.tile p.val).queue ++ [s.matEntry p.val i (s.tpc p.val)]) s) :
    Ends c s fun t => (t.tile p.val).queue = (s.tile p.val).queue ++ [s.matEntry p.val i (s.tpc p.val)] ∧
      t.fld (Reg.MXE_STATUS p.val) F.MXE_STATUS_QUEUE = (s.tile p.val).queue.length + 1 ∧
      IssueFrame p.val (fun r => r = Reg.MXE_STATUS p.val) s t := by
  have hlen : ((s.tile p.val).queue ++ [s.matEntry p.val i (s.tpc p.val)]).length = (s.tile p.val).queue.length + 1 := by simp
  obtain ⟨htile, hfld, hm⟩ := setMatQueue_shows hs.regs hs.tiles p.val
    (q := (s.tile p.val).queue ++ [s.matEntry p.val i (s.tpc p.val)]) (by omega)
  have hwith : Within (fun r => r = Reg.MXE_STATUS p.val) s (matEffect p.val i (s.tpc p.val) s s) := by
    rw [he]; exact (Within.refl hs.regs).setMatQueue rfl
  obtain ⟨hp, hw⟩ := presentMat_ends h hg hl hf hq (hwith.path.symm ▸ hs.owed)
  refine ends_of_settled hc ⟨_, hp, ?_, ?_, hwith.issueFrame hw⟩
  · rw [queue_issue (e := matEffect p.val i (s.tpc p.val) s s) rfl rfl (by rw [he]; exact hm), he, htile]
  · rw [State.fld, hw.reg hwith.regsWf (mxeStatus_apart p), he, ← State.fld, hfld, hlen]

/-- An aligned 64 KiB range inside tile memory passes the checks of MLDA and MSTA (R176). -/
theorem bank_fits {a : Nat} (ha : a % 32 = 0) (hn : a + 65536 ≤ 0x400000) (bank : Fin 4) (aa : Fin 16) (b : Nat) (d : Word) :
    matFaults (.mlda bank aa) a b d = [] ∧ matFaults (.msta bank aa) a b d = [] := by
  have : ¬ 0x400000 < a + 65536 := by omega
  simp [matFaults, matRanges, ha, this]

/-! ### Completion (R169) -/

/-- The engine once entry `e` has completed: its cycles taken off the others that run. -/
theorem queue_advanceEngine (hm : Store.Wf (fun _ => TileState.init) s.tiles) (k w : Nat) :
    (advanceEngine k w s).tile k =
      { s.tile k with queue := (s.tile k).queue.map fun y => if y.started then { y with work := y.work - w } else y } := by
  unfold advanceEngine
  dsimp only
  generalize hu : setTile k _ s = u
  have ht : u.tile k = _ := hu ▸ tile_setTile_same s hm k _
  rw [← ht]
  cases decide (16384 < s.portDemand k)
  · rfl
  · obtain ⟨⟨_, _, _, h⟩, -⟩ := touches_bumpBy (Reg.MXE_PORT_STALL k) (ceilDiv (w * s.portDemand k) 16384 - w) u
    rw [when_true, h]
    rfl

theorem works_advanceEngine (k w : Nat) (s : State) :
    Works (fun a => 16384 < s.portDemand k ∧ (a = Reg.MXE_PORT_STALL k ∨ IsLedger a)) s (advanceEngine k w s) := by
  unfold advanceEngine
  dsimp only
  cases hd : decide (16384 < s.portDemand k)
  · exact works_setTile ..
  · exact (works_setTile ..).trans ((touches_bumpBy _ _ _).mono fun _ h => ⟨of_decide_eq_true hd, h⟩).works

/-- Where the others ask too much of the read port, the cycles that this costs are counted; nothing else changes but the tile. -/
theorem advanceEngine_counts (hs : s.RegsWf) {k w : Nat} (hd : 16384 < s.portDemand k)
    (hb : s.Below (Reg.MXE_PORT_STALL k) (ceilDiv (w * s.portDemand k) 16384 - w)) :
    Counts s (advanceEngine k w s) (Reg.MXE_PORT_STALL k) (ceilDiv (w * s.portDemand k) 16384 - w) ∧
      Within (fun r => r = Reg.MXE_PORT_STALL k) s (advanceEngine k w s) := by
  unfold advanceEngine
  dsimp only
  rw [decide_eq_true hd, when_true]
  generalize hu : setTile k _ s = u
  have hw : Within (fun r => r = Reg.MXE_PORT_STALL k) s u := hu ▸ (Within.refl hs).setTile
  have hb : u.Below (Reg.MXE_PORT_STALL k) (ceilDiv (w * s.portDemand k) 16384 - w) := hu ▸ hb
  refine ⟨?_, ?_⟩
  · rw [Counts, fld_bumpBy hw.regsWf hb, ← hu]
    rfl
  · rw [bumpBy_of_below hb]
    exact hw.put rfl

theorem saveIfIdle_of_none (h : (s.tile p.val).saving = none) : saveIfIdle p.val s = s := by
  unfold saveIfIdle
  rw [h]

/-- MATRIX_COMPLETE of a started entry. -/
theorem matrixComplete_ends {n : Fin 4} {e : MatEntry} (hs : s.Sound) (he : (s.tile p.val).queue[n.val]? = some e) (hst : e.started = true)
    (hsave : (s.tile p.val).saving = none) (hq : (s.tile p.val).queue.length ≤ 4) :
    Ends (.matrixComplete p n) s fun t =>
      (t.tile p.val).queue =
        ((s.tile p.val).queue.map fun y => if y.started then { y with work := y.work - e.work } else y).eraseIdx n.val ∧
      t.fld (Reg.MXE_STATUS p.val) F.MXE_STATUS_QUEUE = (s.tile p.val).queue.length - 1 ∧
      Within (fun r => r = Reg.MXE_STATUS p.val) (advanceEngine p.val e.work s) t := by
  obtain ⟨u, hu⟩ : ∃ u, u = advanceEngine p.val e.work s := ⟨_, rfl⟩
  have hw : Works _ s u := hu ▸ works_advanceEngine ..
  have htile : u.tile p.val = _ := hu ▸ queue_advanceEngine hs.tiles p.val e.work
  have hlt : n.val < (s.tile p.val).queue.length := (List.getElem?_eq_some_iff.1 he).1
  have hlen : ((u.tile p.val).queue.eraseIdx n.val).length = (s.tile p.val).queue.length - 1 := by
    rw [htile, List.length_eraseIdx_of_lt (by simpa using hlt), List.length_map]
  obtain ⟨hx, hfld, -⟩ := setMatQueue_shows (hw.regsWf hs.regs) (hw.2.2 hs.tiles) p.val (q := (u.tile p.val).queue.eraseIdx n.val) (by omega)
  have hwith : Within (fun r => r = Reg.MXE_STATUS p.val) u (setMatQueue p.val ((u.tile p.val).queue.eraseIdx n.val) u) :=
    (Within.refl (hw.regsWf hs.regs)).setMatQueue rfl
  have hcomplete : completeMatrix p.val n.val s = setMatQueue p.val ((u.tile p.val).queue.eraseIdx n.val) u := by
    unfold completeMatrix
    simp only [he, hst, if_true, ← hu]
    exact saveIfIdle_of_none (by rw [hx, htile]; exact hsave)
  refine ends_of_settled (u := completeMatrix p.val n.val s) rfl ⟨_, congrArg settle hcomplete, ?_⟩
  rw [settle_of_nothing_owed (by rw [hwith.path, hw.path]; exact hs.owed), ← hu]
  exact ⟨by rw [hx, htile], by rw [hfld, hlen], hwith⟩

theorem mxeStatus_ne (k : Nat) : Reg.MXE_PORT_STALL k ≠ Reg.MXE_STATUS k := by simp only [Reg.MXE_PORT_STALL, Reg.MXE_STATUS]; omega

/-- Settles O23: an instruction of the matrix slot only joins the queue, and an entry that completes leaves it. -/
theorem matrixQueue : Obligations.MatrixQueue := by
  intro s p g bank aa ab sd fa fb clr hs
  refine ⟨fun h hg hq => ⟨?_, fun hb => ?_, fun hb => ?_, fun hf => ?_, fun rnd hr hf => ?_⟩, fun n e he hst hsave hq => ?_⟩
  · exact joins_end hs h hg hq rfl rfl rfl rfl
  · exact joins_end hs h hg hq rfl rfl (bank_fits hb.1 hb.2 bank aa _ _).1 rfl
  · exact joins_end hs h hg hq rfl rfl (bank_fits hb.1 hb.2 bank aa _ _).2 rfl
  · exact joins_end hs h hg hq rfl hf.1 hf.2 rfl
  · exact joins_end hs h hg hq rfl hf.1 hf.2 (if_neg hr)
  · obtain ⟨t, ht, hqueue, hfld, hwith⟩ := matrixComplete_ends hs he hst hsave hq
    refine ⟨t, ht, hqueue, hfld, fun hd => ?_, fun hd hb => ?_⟩
    · have hw := works_advanceEngine p.val e.work s
      have hnone : Within (fun r => r = Reg.MXE_STATUS p.val) s (advanceEngine p.val e.work s) :=
        ⟨hw.regsWf hs.regs, fun a _ => hw.reg hs.regs fun h => absurd h.1 (Nat.not_lt.2 hd), hw.sameMemory, hw.acc⟩
      exact (hnone.trans hwith).keeps
    · obtain ⟨hcount, hkeep⟩ := advanceEngine_counts hs.regs hd hb
      refine ⟨?_, ((hkeep.mono fun _ h => .inr h).trans (hwith.mono fun _ h => .inl h)).keeps⟩
      rw [Counts, hwith.fld (mxeStatus_ne p.val)]
      exact hcount

end Sys2Proof.Machine
end

section
/-! Loads and stores of the move slot (R117, R118, R120, R139). -/
namespace Sys2Proof.Machine

variable {s t u : State} {W : Nat → Prop} {p : Fin 160} {g : Guard}

/-! ### Memory written and read back -/

/-- A byte after bytes have been stored: of those where it lies among them, else as before. -/
theorem byte_setRaw (h : s.MemWf) (a : Nat) (data : List Byte) (x : Nat) :
    (setRaw a data s).byte x = if a ≤ x ∧ x < a + data.length then data.getD (x - a) 0 else s.byte x := by
  suffices hk : ∀ (l : List Byte) (k : Nat) (s : State), s.MemWf → (forEach (l.zipIdx k) (fun e s => setByte (a + e.2) e.1 s) s).byte x =
      if a + k ≤ x ∧ x < a + k + l.length then l.getD (x - (a + k)) 0 else s.byte x from hk data 0 s h
  intro l
  induction l with
  | nil => intro k s _; rw [if_neg (by simp only [List.length_nil]; omega)]; rfl
  | cons b l ih =>
    intro k s hs
    rw [List.zipIdx_cons, forEach_cons, ih (k + 1) _ (keepsMem_setByte _ _ s hs), byte_setByte hs, List.length_cons]
    by_cases hx : x = a + k
    · rw [if_neg (by omega), if_pos hx, if_pos (by omega), hx, Nat.sub_self]
      rfl
    · rw [if_neg hx]
      by_cases hr : a + (k + 1) ≤ x ∧ x < a + (k + 1) + l.length
      · rw [if_pos hr, if_pos (by omega), show x - (a + k) = x - (a + (k + 1)) + 1 by omega]
        rfl
      · rw [if_neg hr, if_neg (by omega)]

/-- Storing bytes leaves everything but memory. -/
theorem setRaw_mem (a : Nat) (data : List Byte) (s : State) : ∃ m, setRaw a data s = { s with mem := m } := by
  unfold setRaw
  generalize data.zipIdx = l
  induction l generalizing s with
  | nil => exact ⟨_, rfl⟩
  | cons e l ih =>
    obtain ⟨m, hm⟩ := ih (setByte (a + e.2) e.1 s)
    exact ⟨m, hm⟩

/-- A store to tile memory leaves everything but memory and its poison marks. -/
theorem tmWrite_mem (l o : Nat) (data : List Byte) (s : State) : ∃ m q, tmWrite l o data s = { s with mem := m, poison := q } := by
  obtain ⟨m, hm⟩ := setRaw_mem (tileAddr l o) data s
  exact ⟨m, (setRaw (tileAddr l o) data s).poison.filter _, by unfold tmWrite; dsimp only; rw [hm]⟩

theorem byte_tmWrite (h : s.MemWf) (l o : Nat) (data : List Byte) (x : Nat) :
    (tmWrite l o data s).byte x = if tileAddr l o ≤ x ∧ x < tileAddr l o + data.length then data.getD (x - tileAddr l o) 0 else s.byte x :=
  byte_setRaw h _ _ _

theorem tileAddr_add (l o k : Nat) : tileAddr l (o + k) = tileAddr l o + k := (Nat.add_assoc ..).symm

/-! ### Addresses (R117) -/

theorem eaFaults_of_fits {ea n align : Nat} (ha : ea % align = 0) (hn : ea + n ≤ 0x400000) : eaFaults ea n align = [] := by
  simp [eaFaults, ha, Nat.not_lt.2 hn]

/-- The faults of a load are those of its address where it meets no poison. -/
theorem loadFaults_of_fits {ea n align l : Nat} {busy : Bool} (ha : ea % align = 0) (hn : ea + n ≤ 0x400000) (hp : s.tmPoison l ea n = false) :
    eaFaults ea n align ++ (if ea + n ≤ 0x400000 ∧ s.tmPoison l ea n ∧ !busy then [0x0A] else []) = [] := by
  rw [eaFaults_of_fits ha hn, if_neg (by simp [hp]), List.nil_append]

theorem movFaults_vld {k : Nat} {d x : Fin 32} {ar : Fin 16} {am : BitVec 2} {imm : BitVec 32} (ha : s.ea k ar am x imm % 32 = 0)
    (hn : s.ea k ar am x imm + 1024 ≤ 0x400000) (hp : s.tmPoison (s.logical k) (s.ea k ar am x imm) 1024 = false) :
    movFaults k (.vld d ar am x imm) s = [] := by
  have h := loadFaults_of_fits (busy := (s.tile k).queue.any fun e => e.guards (s.ea k ar am x imm) 1024 false) ha hn hp
  unfold movFaults
  exact h

theorem movFaults_sld {k : Nat} {d x : Fin 32} {ar : Fin 16} {am : BitVec 2} {imm : BitVec 32} (ha : s.ea k ar am x imm % 8 = 0)
    (hn : s.ea k ar am x imm + 8 ≤ 0x400000) (hp : s.tmPoison (s.logical k) (s.ea k ar am x imm) 8 = false) :
    movFaults k (.sld d ar am x imm) s = [] := by
  have h := loadFaults_of_fits (busy := (s.tile k).queue.any fun e => e.guards (s.ea k ar am x imm) 8 false) ha hn hp
  unfold movFaults
  exact h

/-- With no entry in the engine queue nothing else reads tile memory. -/
theorem portStall_of_idle (h : (s.tile p.val).queue = []) (n : Nat) : portStall p.val n s = s := by
  simp [portStall, State.portDemand, h]

/-- A load's effect with an empty engine queue. -/
theorem movEffect_vld (h : (s.tile p.val).queue = []) (d x : Fin 32) (ar : Fin 16) (am : BitVec 2) (imm : BitVec 32) :
    movEffect p.val (.vld d ar am x imm) s s =
      postInc p.val ar am imm s (setVreg p.val d.val (s.tmBytes (s.logical p.val) (s.ea p.val ar am x imm) 1024) s) := by
  have he : movEffect p.val (.vld d ar am x imm) s s =
      postInc p.val ar am imm s (setVreg p.val d.val (s.tmBytes (s.logical p.val) (s.ea p.val ar am x imm) 1024) (portStall p.val 1024 s)) := rfl
  rw [he, portStall_of_idle h]

theorem movEffect_sld (h : (s.tile p.val).queue = []) (d x : Fin 32) (ar : Fin 16) (am : BitVec 2) (imm : BitVec 32) :
    movEffect p.val (.sld d ar am x imm) s s =
      postInc p.val ar am imm s (setSreg p.val d.val (ofBytes (s.tmBytes (s.logical p.val) (s.ea p.val ar am x imm) 8)) s) := by
  have he : movEffect p.val (.sld d ar am x imm) s s =
      postInc p.val ar am imm s (setSreg p.val d.val (ofBytes (s.tmBytes (s.logical p.val) (s.ea p.val ar am x imm) 8)) (portStall p.val 8 s)) := rfl
  rw [he, portStall_of_idle h]

/-- The address register that a post-increment writes. -/
abbrev IsPointer (p : Nat) (ar : Fin 16) (am : BitVec 2) (r : Nat) : Prop := am = 1 ∧ r = Reg.TILE_AREG p ar.val

theorem touches_postInc (p : Nat) (ar : Fin 16) (am : BitVec 2) (imm : BitVec 32) (s0 s : State) :
    Touches (IsPointer p ar am) s (postInc p ar am imm s0 s) := by
  unfold postInc
  split
  · exact touches_setR ⟨‹_›, rfl⟩ _ s
  · exact Touches.refl _ _

/-- The address register after an access. -/
theorem areg_postInc (h : u.RegsWf) {p : Nat} {ar : Fin 16} (hu : u.reg (Reg.TILE_AREG p ar.val) = s.reg (Reg.TILE_AREG p ar.val)) (am : BitVec 2)
    (imm : BitVec 32) : (postInc p ar am imm s u).areg p ar.val = if am = 1 then (s.areg p ar.val + sext imm) % 2 ^ 64 else s.areg p ar.val := by
  unfold postInc
  split
  · rw [State.areg, setAreg, reg_setR_same h, BitVec.toNat_ofNat]
  · rw [State.areg, hu, State.areg]

theorem areg_ne (ar : Fin 16) (d : Fin 32) : Reg.TILE_AREG p.val ar.val ≠ Reg.TILE_SREG p.val d.val ∧ ¬ IsVreg p.val d.val (Reg.TILE_AREG p.val ar.val) := by
  simp only [Reg.TILE_AREG, Reg.TILE_SREG, IsVreg, Reg.TILE_VREG]
  refine ⟨by omega, ?_⟩
  rintro ⟨i, hi, e⟩
  omega

/-! ### The instructions -/

section
variable {i : Mov} {ar : Fin 16} {am : BitVec 2} {imm : BitVec 32}

/-- A load whose destination `u` has written: the address register, the destination's registers and the frame. -/
theorem load_ends (hs : s.Sound) (h : s.Takes p.val) (hg : s.guard p.val g = true) (hl : movLegal i = true)
    (hn : noteLookups p.val (oneSlot g .nop .nop .nop i) s = s) (hf : movFaults p.val i s = []) (hw : movWait p.val i s = 0)
    (hd : Touches W s u) (har : ¬ W (Reg.TILE_AREG p.val ar.val)) (he : movEffect p.val i s s = postInc p.val ar am imm s u) :
    ∃ t, settle (presentMov p.val g i s) = t ∧
      t.areg p.val ar.val = (if am = 1 then (s.areg p.val ar.val + sext imm) % 2 ^ 64 else s.areg p.val ar.val) ∧
      (∀ r, ¬ IssueRegs p.val r → r ≠ Reg.TILE_AREG p.val ar.val → t.reg r = u.reg r) ∧
      IssueFrame p.val (fun r => IsPointer p.val ar am r ∨ W r) s t := by
  have hwf := hd.regsWf hs.regs
  have hp := touches_postInc p.val ar am imm s u
  have hall : Touches (fun r => IsPointer p.val ar am r ∨ W r) s (postInc p.val ar am imm s u) :=
    (hd.mono fun _ h => .inr h).trans (hp.mono fun _ h => .inl h)
  have hwith := (Within.refl hs.regs).touches hall
  obtain ⟨t, ht, hwt⟩ := presentMov_ends h hg hl hn hf hw (by rw [he, hwith.path]; exact hs.owed)
  rw [he] at hwt
  refine ⟨t, ht, ?_, fun r hr hne => ?_, hwith.issueFrame hwt⟩
  · rw [← areg_postInc hwf (hd.reg hs.regs har) am imm, State.areg, hwt.reg hwith.regsWf (areg_apart p ar), State.areg]
  · rw [hwt.reg hwith.regsWf hr, hp.reg hwf fun e => hne e.2]

/-- A store of the bytes `data` to an address inside tile memory. -/
theorem store_ends {o : Nat} {data : List Byte} (hs : s.Sound) (h : s.Takes p.val) (hg : s.guard p.val g = true) (hl : movLegal i = true)
    (hn : noteLookups p.val (oneSlot g .nop .nop .nop i) s = s) (hf : movFaults p.val i s = []) (hw : movWait p.val i s = 0)
    (he : movEffect p.val i s s = postInc p.val ar am imm s (tmWrite (s.logical p.val) o data s)) :
    ∃ t, settle (presentMov p.val g i s) = t ∧
      t.areg p.val ar.val = (if am = 1 then (s.areg p.val ar.val + sext imm) % 2 ^ 64 else s.areg p.val ar.val) ∧
      (∀ k, k < data.length → t.byte (tileAddr (s.logical p.val) (o + k)) = data.getD k 0) ∧
      (∀ a, (a < tileAddr (s.logical p.val) o ∨ tileAddr (s.logical p.val) (o + data.length) ≤ a) → t.byte a = s.byte a) ∧
      t.path = s.path ∧ t.acc = s.acc ∧ OnlyRegs (fun r => IsPointer p.val ar am r ∨ IssueRegs p.val r) s t := by
  obtain ⟨m, q, hmem⟩ := tmWrite_mem (s.logical p.val) o data s
  obtain ⟨v, hv⟩ : ∃ v, v = tmWrite (s.logical p.val) o data s := ⟨_, rfl⟩
  have hregs : v.regs = s.regs := by rw [hv, hmem]
  have hwf : v.RegsWf := by rw [State.RegsWf, hregs]; exact hs.regs
  have hreg (a : Nat) : v.reg a = s.reg a := by rw [State.reg, hregs, State.reg]
  have hp := touches_postInc p.val ar am imm s v
  have hpath : v.path = s.path := by rw [hv, hmem]
  have hacc : v.acc = s.acc := by rw [hv, hmem]
  rw [← hv] at he
  have hwith := (Within.refl hwf).touches hp
  obtain ⟨t, ht, hwt⟩ := presentMov_ends h hg hl hn hf hw (by rw [he, hwith.path, hpath]; exact hs.owed)
  rw [he] at hwt
  have hbyte (a : Nat) : t.byte a = v.byte a := (hwt.sameMemory.1 a).trans (hwith.keeps.2.1.1 a)
  refine ⟨t, ht, ?_, fun k hk => ?_, fun a ha => ?_, ?_, ?_, fun a ha => ?_⟩
  · rw [← areg_postInc hwf (hreg _) am imm, State.areg, hwt.reg hwith.regsWf (areg_apart p ar), State.areg]
  · rw [hbyte, hv, byte_tmWrite hs.mem, tileAddr_add, if_pos (by omega), Nat.add_sub_cancel_left]
  · rw [tileAddr_add] at ha
    rw [hbyte, hv, byte_tmWrite hs.mem, if_neg (by omega)]
  · rw [hwt.path, hwith.path, hpath]
  · rw [hwt.acc, hwith.keeps.2.2, hacc]
  · rw [hwt.reg hwith.regsWf fun e => ha (.inr e), hp.reg hwf fun e => ha (.inl e), hreg]

end

/-- Nothing in an empty queue holds an access. -/
theorem memWait_of_idle (h : (s.tile p.val).queue = []) (ea n : Nat) (store : Bool) :
    (if (s.tile p.val).queue.any fun e => e.guards ea n store then 6 else 0) = 0 := by rw [h]; rfl

/-- Settles O28: an access is its transfer at the effective address, then the post-increment. -/
theorem loadsAndStores : Obligations.LoadsAndStores := by
  intro s p g d x ar am imm hs h hg hq hl
  refine ⟨fun ha hn => ⟨fun hpo => ?_, ?_⟩, fun ha hn => ⟨fun hpo => ?_, ?_⟩⟩
  · have har : ¬ IsVreg p.val d.val (Reg.TILE_AREG p.val ar.val) := (areg_ne ar d).2
    obtain ⟨t, ht, hbase, hreg, hframe⟩ := load_ends (i := .vld d ar am x imm) (ar := ar) (am := am) (imm := imm) hs h hg hl rfl
      (movFaults_vld ha hn hpo) (memWait_of_idle hq ..) (touches_setVreg p.val d.val (s.tmBytes (s.logical p.val) (s.ea p.val ar am x imm) 1024) s)
      har (movEffect_vld hq ..)
    refine ends_of_settled rfl ⟨t, ht, hbase, ?_, hframe⟩
    refine (vreg_congr fun i hi => hreg _ (vreg_apart d hi).1 fun e => har ⟨i, hi, e.symm⟩).trans ?_
    exact vreg_setVreg hs.regs _ _ (by simp [State.tmBytes, State.rawBytes])
  · obtain ⟨t, ht, hbase, hin, hout, hrest⟩ := store_ends (i := .vst d ar am x imm) (ar := ar) (am := am) (imm := imm) hs h hg hl rfl
      (eaFaults_of_fits ha hn) (memWait_of_idle hq ..) rfl
    rw [length_vreg] at hin hout
    exact ends_of_settled rfl ⟨t, ht, hbase, hin, hout, hrest⟩
  · obtain ⟨t, ht, hbase, hreg, hframe⟩ := load_ends (i := .sld d ar am x imm) (ar := ar) (am := am) (imm := imm) hs h hg hl rfl
      (movFaults_sld ha hn hpo) (memWait_of_idle hq ..)
      (touches_setSreg p.val d.val (ofBytes (s.tmBytes (s.logical p.val) (s.ea p.val ar am x imm) 8)) s)
      (fun e => (areg_ne ar d).1 e.2) (movEffect_sld hq ..)
    refine ends_of_settled rfl ⟨t, ht, hbase, ?_, ?_⟩
    · have hb : ofBytes (s.tmBytes (s.logical p.val) (s.ea p.val ar am x imm) 8) < 2 ^ 64 := by
        have := ofBytes_lt (s.tmBytes (s.logical p.val) (s.ea p.val ar am x imm) 8)
        rwa [show (s.tmBytes (s.logical p.val) (s.ea p.val ar am x imm) 8).length = 8 by simp [State.tmBytes, State.rawBytes]] at this
      have hv := sreg_setSreg hs.regs p.val d.val (ofBytes (s.tmBytes (s.logical p.val) (s.ea p.val ar am x imm) 8))
      rw [Nat.mod_eq_of_lt hb] at hv
      refine Eq.trans ?_ (hv.trans (by simp only [Fin.val_eq_zero_iff]; rfl))
      rw [State.sreg, hreg _ (sreg_apart p d) fun e => (areg_ne ar d).1 e.symm, State.sreg]
    · simpa only [ne_eq, Fin.val_eq_zero_iff] using hframe
  · obtain ⟨t, ht, hbase, hin, hout, hrest⟩ := store_ends (i := .sst d ar am x imm) (ar := ar) (am := am) (imm := imm) hs h hg hl rfl
      (eaFaults_of_fits ha hn) (memWait_of_idle hq ..) rfl
    rw [length_bytesOf] at hin hout
    refine ends_of_settled rfl ⟨t, ht, hbase, fun k hk => (hin k hk).trans ?_, hout, hrest⟩
    simp [bytesOf, List.getD_eq_getElem?_getD, hk]

end Sys2Proof.Machine
end

section
/-! Moves between registers and the accumulators, the stream queues and the stage ports (R118, R119, R236, R237, R292 to R297). -/
namespace Sys2Proof.Machine

variable {s t u e : State} {W : Nat → Prop} {p : Fin 160} {g : Guard} {i : Mov}

/-- A move-slot instruction whose effect keeps all but the registers in `W` and what units remember. -/
theorem mov_ends (hs : s.Sound) (h : s.Takes p.val) (hg : s.guard p.val g = true) (hl : movLegal i = true)
    (hn : noteLookups p.val (oneSlot g .nop .nop .nop i) s = s) (hf : movFaults p.val i s = []) (hw : movWait p.val i s = 0)
    (he : movEffect p.val i s s = e) (hd : Within W s e) :
    ∃ t, settle (presentMov p.val g i s) = t ∧ IssueFrame p.val W s t ∧ Works (IssueRegs p.val) e t := by
  obtain ⟨t, ht, hwt⟩ := presentMov_ends h hg hl hn hf hw (by rw [he, hd.path]; exact hs.owed)
  rw [he] at hwt
  exact ⟨t, ht, hd.issueFrame hwt, hwt⟩

theorem forEach_append {α : Type} (l m : List α) (f : α → State → State) (s : State) : forEach (l ++ m) f s = forEach m f (forEach l f s) :=
  List.foldl_append ..

/-! ### Accumulators (R119, R148) -/

/-- A word of the accumulators set at its place in the store. -/
def setAccAt (a : Nat) (v : BitVec 32) (s : State) : State := { s with acc := Store.update (fun _ => (0 : BitVec 32)) s.acc a v }

/-- Accumulators after a run of them has been written: the words of the run, and the others as before. -/
theorem acc_forEach_setAccAt (h : Store.Wf (fun _ => (0 : BitVec 32)) s.acc) (base : Nat) (v : Nat → BitVec 32) (n : Nat) :
    let t := forEach (List.range n) (fun k s => setAccAt (base + k) (v k) s) s
    (∀ x, Store.lookup (fun _ => (0 : BitVec 32)) t.acc x =
      if base ≤ x ∧ x < base + n then v (x - base) else Store.lookup (fun _ => (0 : BitVec 32)) s.acc x) ∧
    Store.Wf (fun _ => (0 : BitVec 32)) t.acc := by
  induction n with
  | zero => exact ⟨fun x => (if_neg (by omega)).symm, h⟩
  | succ n ih =>
    obtain ⟨hx, hwf⟩ := ih
    rw [List.range_succ, forEach_append]
    refine ⟨fun x => (Store.lookup_update hwf _ _ _).trans ?_, Store.wf_update hwf _ _⟩
    by_cases hn : x = base + n
    · rw [if_pos hn, if_pos (by omega), hn, Nat.add_sub_cancel_left]
    · rw [if_neg hn, hx]
      by_cases hr : base ≤ x ∧ x < base + n
      · rw [if_pos hr, if_pos (by omega)]
      · rw [if_neg hr, if_neg (by omega)]

theorem setAccRows_eq (p b i : Nat) (data : List Byte) (s : State) : setAccRows p b i data s =
    forEach (List.range 256) (fun k s => setAccAt (accKey p b (2 * i) 0 + k) (BitVec.ofNat 32 (field data (4 * k) 4)) s) s := by
  have hkey (k : Nat) : accKey p b (2 * i + k / 128) (k % 128) = accKey p b (2 * i) 0 + k := by unfold accKey; omega
  simp only [setAccRows, setAcc, setAccAt, hkey]

/-- Writing accumulators leaves everything else. -/
theorem setAccRows_acc (p b i : Nat) (data : List Byte) (s : State) : ∃ a, setAccRows p b i data s = { s with acc := a } := by
  unfold setAccRows
  generalize List.range 256 = l
  induction l generalizing s with
  | nil => exact ⟨_, rfl⟩
  | cons k l ih => exact ih (setAcc p b (2 * i + k / 128) (k % 128) _ s)

/-- A word of two rows that were written. -/
theorem accWord_setAccRows (h : Store.Wf (fun _ => (0 : BitVec 32)) s.acc) {p b i : Nat} (data : List Byte) {j k : Nat} (hj : j < 2) (hk : k < 128) :
    (setAccRows p b i data s).accWord p b (2 * i + j) k = BitVec.ofNat 32 (field data (512 * j + 4 * k) 4) := by
  rw [State.accWord, setAccRows_eq, (acc_forEach_setAccAt h _ _ 256).1, if_pos (by unfold accKey; omega)]
  rw [show accKey p b (2 * i + j) k - accKey p b (2 * i) 0 = 128 * j + k by unfold accKey; omega, show 4 * (128 * j + k) = 512 * j + 4 * k by ring]

/-- A word outside the rows that were written. -/
theorem accWord_setAccRows_other (h : Store.Wf (fun _ => (0 : BitVec 32)) s.acc) {p b i q b' r k : Nat} (data : List Byte) (hb : b < 4) (hi : i < 64)
    (hb' : b' < 4) (hr : r < 128) (hk : k < 128) (hne : q ≠ p ∨ b' ≠ b ∨ r / 2 ≠ i) :
    (setAccRows p b i data s).accWord q b' r k = s.accWord q b' r k := by
  rw [State.accWord, setAccRows_eq, (acc_forEach_setAccAt h _ _ 256).1, if_neg (by unfold accKey; omega), State.accWord]

/-- A piece of a piece. -/
theorem field_piece (l : List Byte) {w j o n : Nat} (h : o + n ≤ w) : field l (w * j + o) n = field ((l.drop (w * j)).take w) o n := by
  rw [field, field, List.drop_take, List.take_take, Nat.min_eq_left (by omega), List.drop_drop]

/-- A word of two rows, in the image that ACCRD reads. -/
theorem field_accRows (s : State) (p b i : Nat) {j k : Nat} (hj : j < 2) (hk : k < 128) :
    field (s.accRows p b i) (512 * j + 4 * k) 4 = (s.accWord p b (2 * i + j) k).toNat := by
  have hrow (r : Nat) : ((List.range 128).flatMap fun c => bytesOf 4 (s.accWord p b (2 * i + r) c).toNat).length = 512 := by
    rw [length_flatMap_of _ fun _ _ => length_bytesOf .., List.length_range]
  have hpiece := piece_flatMap (w := 512) (l := List.range 2) (f := fun r => (List.range 128).flatMap fun c => bytesOf 4 (s.accWord p b (2 * i + r) c).toNat)
    (fun r _ => hrow r) (e := j) (by rwa [List.length_range])
  rw [field_piece _ (by omega), State.accRows, hpiece, List.getElem_range, field,
    piece_flatMap (w := 4) (l := List.range 128) (f := fun c => bytesOf 4 (s.accWord p b (2 * i + j) c).toNat) (fun _ _ => length_bytesOf ..) (by rwa [List.length_range]),
    List.getElem_range, ofBytes_bytesOf]
  exact Nat.mod_eq_of_lt (BitVec.isLt _)

theorem length_accRows (s : State) (p b i : Nat) : (s.accRows p b i).length = 1024 := by
  rw [State.accRows, length_flatMap_of (w := 512) _ fun r _ => by rw [length_flatMap_of _ fun _ _ => length_bytesOf .., List.length_range], List.length_range]

theorem bankWait_of_idle (h : (s.tile p.val).queue = []) (b : Nat) : (if (s.tile p.val).queue.any (·.usesBank b) then 6 else 0) = 0 := by
  rw [h]; rfl

/-- A vector register after an issue that leaves its words. -/
theorem Works.vreg (h : Works (IssueRegs p.val) e t) (he : e.RegsWf) (d : Fin 32) : t.vreg p.val d.val = e.vreg p.val d.val :=
  vreg_congr fun _ hi => h.reg he (vreg_apart d hi).1

section
variable (hs : s.Sound) (h : s.Takes p.val) (hg : s.guard p.val g = true) (hq : (s.tile p.val).queue = [])
include hs h hg hq

theorem accrd_ends (d : Fin 32) (bank : Fin 4) (i : Fin 64) : Ends (.accrd p g d bank i) s fun t =>
    (∀ j k, j < 2 → k < 128 → field (t.vreg p.val d.val) (512 * j + 4 * k) 4 = (s.accWord p.val bank.val (2 * i.val + j) k).toNat) ∧
      IssueFrame p.val (IsVreg p.val d.val) s t := by
  have hset := touches_setVreg p.val d.val (s.accRows p.val bank.val i.val) s
  obtain ⟨t, ht, hframe, hwt⟩ := mov_ends (i := .accrd d bank i) (e := setVreg p.val d.val (s.accRows p.val bank.val i.val) s) hs h hg rfl rfl rfl
    (bankWait_of_idle hq _) rfl ((Within.refl hs.regs).touches hset)
  refine ends_of_settled rfl ⟨t, ht, fun j k hj hk => ?_, hframe⟩
  rw [hwt.vreg (hset.regsWf hs.regs), vreg_setVreg hs.regs _ _ (length_accRows ..), field_accRows s _ _ _ hj hk]

theorem accwr_ends (d : Fin 32) (bank : Fin 4) (i : Fin 64) : Ends (.accwr p g d bank i) s fun t =>
    (∀ j k, j < 2 → k < 128 → t.accWord p.val bank.val (2 * i.val + j) k = BitVec.ofNat 32 (field (s.vreg p.val d.val) (512 * j + 4 * k) 4)) ∧
    (∀ q b r k, q < 160 → b < 4 → r < 128 → k < 128 → (q ≠ p.val ∨ b ≠ bank.val ∨ r / 2 ≠ i.val) → t.accWord q b r k = s.accWord q b r k) ∧
    OnlyRegs (IssueRegs p.val) s t ∧ SameMemory s t := by
  obtain ⟨a, ha⟩ := setAccRows_acc p.val bank.val i.val (s.vreg p.val d.val) s
  obtain ⟨e, hv⟩ : ∃ e, e = setAccRows p.val bank.val i.val (s.vreg p.val d.val) s := ⟨_, rfl⟩
  have he : e = { s with acc := a } := hv.trans ha
  have hregs : e.RegsWf := by rw [he]; exact hs.regs
  obtain ⟨t, ht, hwt⟩ := presentMov_ends (i := .accwr d bank i) h hg rfl rfl rfl (bankWait_of_idle hq _)
    (show (setAccRows p.val bank.val i.val (s.vreg p.val d.val) s).path.owed = [] by rw [ha]; exact hs.owed)
  have hwt : Works (IssueRegs p.val) e t := hv ▸ hwt
  have hword (q b r k : Nat) : t.accWord q b r k = (setAccRows p.val bank.val i.val (s.vreg p.val d.val) s).accWord q b r k := by
    rw [State.accWord, hwt.acc, hv, State.accWord]
  refine ends_of_settled rfl ⟨t, ht, fun j k hj hk => ?_, fun q b r k _ hb hr hk hne => ?_, fun x hx => ?_, ?_⟩
  · rw [hword, accWord_setAccRows hs.acc _ hj hk]
  · rw [hword, accWord_setAccRows_other hs.acc _ bank.isLt i.isLt hb hr hk hne]
  · rw [hwt.reg hregs hx, he]
    rfl
  · have hm := hwt.sameMemory
    rw [he] at hm
    exact hm

end

/-! ### Stream queues (R236, R237) -/

theorem Works.queue (h : Works W s t) (k : Nat) : t.queue k = s.queue k := by obtain ⟨⟨_, _, _, _, rfl⟩, -⟩ := h; rfl
theorem Works.stagePort (h : Works W s t) (k : Nat) : t.stagePort k = s.stagePort k := by obtain ⟨⟨_, _, _, _, rfl⟩, -⟩ := h; rfl

theorem touches_wmLevel {off : Nat} (h : W off) (n : Nat) (s : State) : Touches W s (wmLevel off n id s) := by
  unfold wmLevel
  extract_lets old high s1 s2 s3
  have h1 : Touches W s s1 := touches_put h _ _ _
  have h2 : Touches W s1 s3 := by
    unfold s3
    split
    · have hc : Touches W s1 s2 := touches_put h _ _ _
      split
      · exact hc.trans ((touches_put h _ _ _).trans (touches_raise h _ _))
      · exact hc
    · exact Touches.refl _ _
  exact h1.trans (h2.trans ((touches_wmRearm off s3).mono fun _ e => e ▸ h))

/-- The registers that show a stream queue. -/
abbrev ShowsQueue (q r : Nat) : Prop := r = Reg.STR_Q_STATUS q ∨ r = Reg.STR_Q_WM q

theorem touches_showQueue (q : Nat) (s : State) : Touches (ShowsQueue q) s (showQueue q s) := by
  unfold showQueue
  extract_lets r x s1 s2
  have h1 : Touches (ShowsQueue q) s s1 := touches_put (.inl rfl) _ _ _
  have h2 : Touches (ShowsQueue q) s1 s2 := by
    unfold s2
    split
    · exact Touches.refl _ _
    · exact touches_put (.inl rfl) _ _ _
  refine h1.trans (h2.trans ?_)
  split
  · exact Touches.refl _ _
  · exact touches_wmLevel (.inr rfl) _ _

theorem fld_lt64 (s : State) (r : Nat) {f : Fld} (hf : f.width ≤ 64) : s.fld r f < 2 ^ 64 :=
  Nat.lt_of_lt_of_le (Word.get_lt _ _) (Nat.pow_le_pow_right (by decide) hf)

/-- A posted list stands last in its queue. -/
theorem postList_spec (hs : s.Sound) (q a : Nat) :
    ((postList q a s).queue q).lists = (s.queue q).lists ++ [a] ∧ Within (ShowsQueue q) s (postList q a s) := by
  obtain ⟨v, hv⟩ : ∃ v, v = setQueue q { s.queue q with lists := (s.queue q).lists ++ [a] } s := ⟨_, rfl⟩
  have hq : v.queue q = { s.queue q with lists := (s.queue q).lists ++ [a] } := hv ▸ queue_setQueue_same s hs.queues q _
  have hw : Within (ShowsQueue q) s v := by rw [hv]; exact ⟨hs.regs, fun _ _ => rfl, ⟨fun _ => rfl, rfl, rfl⟩, rfl⟩
  have he : postList q a s = showQueue q v := by rw [hv]; rfl
  have hshow := touches_showQueue q v
  exact ⟨by rw [he, hshow.works.queue, hq], he ▸ hw.touches hshow⟩

theorem noteQueues_of_one {c n q : Nat} (h : s.queuesOf c n = [q]) : noteQueues c n s = s := by simp [noteQueues, h]

section
variable (hs : s.Sound) (h : s.Takes p.val) (hg : s.guard p.val g = true)
include hs h hg

theorem sqpost_ends {d x : Fin 32} {q : Nat} (hq : s.queuesOf (s.runCtx p.val) (s.sreg p.val d.val % 64) = [q]) (hn : (s.queue q).lists.length < 256) :
    Ends (.sqpost p g d x) s fun t => (t.queue q).lists = (s.queue q).lists ++ [s.sreg p.val x.val] ∧ IssueFrame p.val (ShowsQueue q) s t := by
  obtain ⟨hlists, hwith⟩ := postList_spec hs q (s.sreg p.val x.val)
  have hf : movFaults p.val (.sqpost d x) s = [] := by
    unfold movFaults
    dsimp only
    rw [hq, if_neg (List.cons_ne_nil _ _)]
  have hw : movWait p.val (.sqpost d x) s = 0 := by
    unfold movWait
    dsimp only
    rw [hq]
    exact if_neg (Nat.not_le.2 hn)
  have he : movEffect p.val (.sqpost d x) s s = postList q (s.sreg p.val x.val) s := by
    unfold movEffect
    dsimp only
    rw [hq]
  obtain ⟨t, ht, hframe, hwt⟩ := mov_ends (i := .sqpost d x) hs h hg rfl (noteQueues_of_one hq) hf hw he hwith
  exact ends_of_settled rfl ⟨t, ht, by rw [hwt.queue, hlists], hframe⟩

theorem sqtest_ends {d x : Fin 32} {q : Nat} (hq : s.queuesOf (s.runCtx p.val) (s.sreg p.val x.val % 64) = [q]) :
    Ends (.sqtest p g d x) s fun t => t.sreg p.val d.val = (if d = 0 then 0 else s.fld (Reg.STR_Q_DONE q) F.STR_Q_DONE_COUNT) ∧
      IssueFrame p.val (fun r => d ≠ 0 ∧ r = Reg.TILE_SREG p.val d.val) s t := by
  have hf : movFaults p.val (.sqtest d x) s = [] := by
    unfold movFaults
    dsimp only
    rw [hq, if_neg (List.cons_ne_nil _ _)]
  have he : movEffect p.val (.sqtest d x) s s = setSreg p.val d.val (s.fld (Reg.STR_Q_DONE q) F.STR_Q_DONE_COUNT) s := by
    unfold movEffect
    dsimp only
    rw [hq]
  have hset := touches_setSreg p.val d.val (s.fld (Reg.STR_Q_DONE q) F.STR_Q_DONE_COUNT) s
  obtain ⟨t, ht, hframe, hwt⟩ := mov_ends (i := .sqtest d x) hs h hg rfl (noteQueues_of_one hq) hf rfl he ((Within.refl hs.regs).touches hset)
  refine ends_of_settled rfl ⟨t, ht, ?_, by simpa only [Fin.val_ne_zero_iff] using hframe⟩
  have hv := sreg_setSreg hs.regs p.val d.val (s.fld (Reg.STR_Q_DONE q) F.STR_Q_DONE_COUNT)
  rw [Nat.mod_eq_of_lt (fld_lt64 s _ (by decide))] at hv
  simp only [Fin.val_eq_zero_iff] at hv
  rw [← hv, State.sreg, hwt.reg (hset.regsWf hs.regs) (sreg_apart p d), State.sreg]

end

/-! ### Stage ports (R292 to R297) -/

/-- The registers that show a stage port. -/
abbrev ShowsPort (k r : Nat) : Prop := r = Reg.STG_P_STATUS k ∨ r = Reg.STG_P_WM k ∨ r = Reg.STG_P_ENTRIES k

theorem touches_showStage (k : Nat) (s : State) : Touches (ShowsPort k) s (showStage k s) := by
  unfold showStage
  extract_lets x r s1
  have h1 : Touches (ShowsPort k) s s1 := (touches_put (.inl rfl) _ _ _).trans (touches_put (.inl rfl) _ _ _)
  refine h1.trans ?_
  split
  · exact Touches.refl _ _
  · exact touches_wmLevel (.inr (.inl rfl)) _ _

/-- A port that is set, and its registers with it. -/
theorem putStage_spec (hs : s.Sound) (k : Nat) (x : StagePort) : (putStage k x s).stagePort k = x ∧ Within (ShowsPort k) s (putStage k x s) := by
  obtain ⟨v, hv⟩ : ∃ v, v = setStagePort k x s := ⟨_, rfl⟩
  have hq : v.stagePort k = x := hv ▸ stagePort_setStagePort_same s hs.stagePorts k _
  have hw : Within (ShowsPort k) s v := by rw [hv]; exact ⟨hs.regs, fun _ _ => rfl, ⟨fun _ => rfl, rfl, rfl⟩, rfl⟩
  have he : putStage k x s = showStage k v := by rw [hv]; rfl
  have hshow := touches_showStage k v
  exact ⟨by rw [he, hshow.works.stagePort, hq], he ▸ hw.touches hshow⟩

/-- A port with REF 0 counts no references. -/
theorem countEntry_of_ref {k : Nat} (h : s.fld (Reg.STG_P_CTRL k) F.STG_P_CTRL_REF = 0) (d : Word) : countEntry k d s = s := by
  simp [countEntry, h]

theorem acquireWaits_of_ref {k : Nat} (h : s.fld (Reg.STG_P_CTRL k) F.STG_P_CTRL_REF = 0) (d : Word) : s.acquireWaits k d = false := by
  simp [State.acquireWaits, h]

theorem noteStagePorts_of_one {c n k : Nat} (h : s.stagePortsOf c n = [k]) : noteStagePorts c n s = s := by simp [noteStagePorts, h]

theorem stagePortFor_of_one {c n k l : Nat} {b : Bool} (h : s.stagePortsOf c n = [k]) (hb : s.stgInbound k = b) (hl : s.stgTile k = l) :
    s.stagePortFor c n l b = some k := by simp [State.stagePortFor, h, hb, hl]

/-- A port that is found is one of the 256. -/
theorem port_lt {c n k : Nat} (h : s.stagePortsOf c n = [k]) : k < 256 := by
  have hk : k ∈ s.stagePortsOf c n := by rw [h]; exact List.mem_singleton.2 rfl
  exact List.mem_range.1 (List.mem_filter.1 hk).1

theorem portRegs_apart {k : Nat} (hk : k < 256) (p : Fin 160) : ¬ IssueRegs p.val (Reg.STG_P_STATUS k) := by
  simp only [IssueRegs, IsLedger, Reg.STG_P_STATUS, Reg.TILE_PC, Reg.TILE_STATUS, Reg.TILE_BUSY]; omega

/-- The head entry of a port with room among its taken ones is taken. -/
theorem takeEntry_eq {k : Nat} {d : Word} {rest : List Word} (hs : s.Sound) (href : s.fld (Reg.STG_P_CTRL k) F.STG_P_CTRL_REF = 0)
    (hl : (s.stagePort k).landed = d :: rest) (hh : (s.stagePort k).held.length < s.stgHold k) :
    takeEntry k s = (putStage k { s.stagePort k with held := (s.stagePort k).held ++ [d], landed := rest } s, d) := by
  have hhold : decide (s.stgHold k ≤ (s.stagePort k).held.length) = false := decide_eq_false (Nat.not_le.2 hh)
  have hwith := (putStage_spec hs k { s.stagePort k with held := (s.stagePort k).held ++ [d], landed := rest }).2
  have hctrl : ¬ ShowsPort k (Reg.STG_P_CTRL k) := by
    simp only [ShowsPort, Reg.STG_P_CTRL, Reg.STG_P_STATUS, Reg.STG_P_WM, Reg.STG_P_ENTRIES]; omega
  unfold takeEntry
  simp only [hhold, when_false, hl, List.headD_cons, List.drop_succ_cons, List.drop_zero]
  rw [countEntry_of_ref (by rw [hwith.fld hctrl, href])]

section
variable (hs : s.Sound) (h : s.Takes p.val) (hg : s.guard p.val g = true)
include hs h hg

theorem sget_ends {d x : Fin 32} {k : Nat} {desc : Word} {rest : List Word} (hx : s.sreg p.val x.val < 64)
    (hport : s.stagePortsOf (s.runCtx p.val) (s.sreg p.val x.val) = [k]) (hin : s.stgInbound k = true) (htile : s.stgTile k = s.logical p.val)
    (href : s.fld (Reg.STG_P_CTRL k) F.STG_P_CTRL_REF = 0) (hl : (s.stagePort k).landed = desc :: rest)
    (hh : (s.stagePort k).held.length < s.stgHold k) :
    Ends (.sget p g d x) s fun t => t.sword p.val d.val = (if d = 0 then 0 else desc) ∧ (t.stagePort k).landed = rest ∧
      (t.stagePort k).held = (s.stagePort k).held ++ [desc] ∧
      IssueFrame p.val (fun r => ShowsPort k r ∨ d ≠ 0 ∧ r = Reg.TILE_SREG p.val d.val) s t := by
  have hmod : s.sreg p.val x.val % 64 = s.sreg p.val x.val := Nat.mod_eq_of_lt hx
  have hfor : s.stagePortFor (s.runCtx p.val) (s.sreg p.val x.val % 64) (s.logical p.val) true = some k := by
    rw [hmod]; exact stagePortFor_of_one hport hin htile
  have h8 : bit (s.sreg p.val x.val) 8 = false := by
    rw [bit, Nat.testBit_lt_two_pow (Nat.lt_trans hx (by decide))]
  have hf : movFaults p.val (.sget d x) s = [] := by
    have h6 : bits (s.sreg p.val x.val) 7 6 = 0 ∧ bits (s.sreg p.val x.val) 63 9 = 0 := by simp [bits]; omega
    unfold movFaults
    dsimp only
    simp [hfor, h6]
  have hw : movWait p.val (.sget d x) s = 0 := by
    unfold movWait
    dsimp only
    simp [hfor, h8, hl, acquireWaits_of_ref href]
  obtain ⟨hput, hwith⟩ := putStage_spec hs k { s.stagePort k with held := (s.stagePort k).held ++ [desc], landed := rest }
  obtain ⟨v, hv⟩ : ∃ v, v = putStage k { s.stagePort k with held := (s.stagePort k).held ++ [desc], landed := rest } s := ⟨_, rfl⟩
  rw [← hv] at hput hwith
  have he : movEffect p.val (.sget d x) s s = setSreg p.val d.val desc.toNat v := by
    unfold movEffect
    dsimp only
    simp [hfor, h8, takeEntry_eq hs href hl hh, hv]
  have hset := touches_setSreg p.val d.val desc.toNat v
  have hall : Within (fun r => ShowsPort k r ∨ d.val ≠ 0 ∧ r = Reg.TILE_SREG p.val d.val) s (setSreg p.val d.val desc.toNat v) :=
    (hwith.mono fun _ h => .inl h).touches (hset.mono fun _ h => .inr h)
  obtain ⟨t, ht, hframe, hwt⟩ := mov_ends (i := .sget d x) hs h hg rfl (by rw [← hmod] at hport; exact noteStagePorts_of_one hport) hf hw he hall
  have hstage : t.stagePort k = _ := ((hwt.stagePort k).trans (hset.works.stagePort k)).trans hput
  refine ends_of_settled rfl ⟨t, ht, ?_, by rw [hstage], by rw [hstage], by simpa only [Fin.val_ne_zero_iff] using hframe⟩
  rw [sword_of_reg (hwt.reg hall.regsWf (sreg_apart p d)), sword_setSreg hwith.regsWf]
  simp only [Fin.val_eq_zero_iff, BitVec.ofNat_toNat, BitVec.setWidth_eq]

end

end Sys2Proof.Machine
end

section
/-! Entries sent through a stage port of this device (R295, R296), and the move slot's instructions together. -/
namespace Sys2Proof.Machine

variable {s t u e : State} {W : Nat → Prop} {p : Fin 160} {g : Guard}

/-! ### A port of this device sends -/

/-- The port's registers once an entry is sent: a credit less, an entry more outstanding. -/
def countSent (k : Nat) (s : State) : State :=
  let v := put (Reg.STG_P_STATUS k) F.STG_P_STATUS_CREDITS (s.stgCredits k - 1) s
  bump (Reg.STG_P_ENTRIES k)
    (put (Reg.STG_P_STATUS k) F.STG_P_STATUS_OUTSTANDING (v.fld (Reg.STG_P_STATUS k) F.STG_P_STATUS_OUTSTANDING + 1) v)

theorem touches_countSent (k : Nat) (s : State) : Touches (fun r => ShowsPort k r ∨ IsLedger r) s (countSent k s) := by
  refine (touches_put (.inl (.inl rfl)) _ _ _).trans ((touches_put (.inl (.inl rfl)) _ _ _).trans ((touches_bump _ _).mono ?_))
  rintro a (rfl | h)
  · exact .inl (.inr (.inr rfl))
  · exact .inr h

/-- The fields of the port's status once an entry is sent. -/
theorem status_countSent (h : s.RegsWf) {k : Nat} (hk : k < 256) (ho : s.fld (Reg.STG_P_STATUS k) F.STG_P_STATUS_OUTSTANDING < 2047) :
    (countSent k s).stgCredits k = s.stgCredits k - 1 ∧
      (countSent k s).fld (Reg.STG_P_STATUS k) F.STG_P_STATUS_OUTSTANDING = s.fld (Reg.STG_P_STATUS k) F.STG_P_STATUS_OUTSTANDING + 1 ∧
      (countSent k s).stgPeer k = s.stgPeer k := by
  have hne : ¬ (Reg.STG_P_STATUS k = Reg.STG_P_ENTRIES k ∨ IsLedger (Reg.STG_P_STATUS k)) := by
    simp only [IsLedger, Reg.STG_P_STATUS, Reg.STG_P_ENTRIES]; omega
  have hc : s.stgCredits k - 1 < 2 ^ 11 := Nat.lt_of_le_of_lt (Nat.sub_le _ _) (Word.get_lt _ F.STG_P_STATUS_CREDITS)
  obtain ⟨v, hv⟩ : ∃ v, v = put (Reg.STG_P_STATUS k) F.STG_P_STATUS_CREDITS (s.stgCredits k - 1) s := ⟨_, rfl⟩
  have hwf : v.RegsWf := hv ▸ RegsWf_put h _ _ _
  have hcredits : v.fld (Reg.STG_P_STATUS k) F.STG_P_STATUS_CREDITS = s.stgCredits k - 1 := by
    rw [hv, fld_put_same h _ (by decide)]
    exact Nat.mod_eq_of_lt hc
  have hout : v.fld (Reg.STG_P_STATUS k) F.STG_P_STATUS_OUTSTANDING = s.fld (Reg.STG_P_STATUS k) F.STG_P_STATUS_OUTSTANDING := by
    rw [hv, fld_put_apart h _ (by decide) (by decide)]
  have hpeer : v.fld (Reg.STG_P_STATUS k) F.STG_P_STATUS_PEER_DEVICE = s.stgPeer k := by
    rw [hv, fld_put_apart h _ (by decide) (by decide), State.stgPeer]
  have hfld (f : Fld) : (countSent k s).fld (Reg.STG_P_STATUS k) f =
      (put (Reg.STG_P_STATUS k) F.STG_P_STATUS_OUTSTANDING (s.fld (Reg.STG_P_STATUS k) F.STG_P_STATUS_OUTSTANDING + 1) v).fld (Reg.STG_P_STATUS k) f := by
    rw [countSent, ← hv, hout]
    exact (touches_bump _ _).fld (RegsWf_put hwf _ _ _) hne f
  refine ⟨?_, ?_, ?_⟩
  · rw [State.stgCredits, hfld, fld_put_apart hwf _ (by decide) (by decide), hcredits]
  · rw [hfld, fld_put_same hwf _ (by decide)]
    exact Nat.mod_eq_of_lt (Nat.lt_of_lt_of_eq (Nat.succ_lt_succ ho) rfl)
  · rw [State.stgPeer, hfld, fld_put_apart hwf _ (by decide) (by decide), hpeer]

/-- The device's own number and the epochs are in no register that a send writes. -/
theorem sent_apart {k c : Nat} (hk : k < 256) (hc : c < 4096) :
    ¬ (ShowsPort k Reg.FAB_ID ∨ IsLedger Reg.FAB_ID) ∧ ¬ (ShowsPort k (Reg.CTX_CTRL c) ∨ IsLedger (Reg.CTX_CTRL c)) := by
  simp only [ShowsPort, IsLedger, Reg.FAB_ID, Reg.CTX_CTRL, Reg.STG_P_STATUS, Reg.STG_P_WM, Reg.STG_P_ENTRIES]; omega

/-- An entry sent to a port of this device waits in its port for its arrival. -/
theorem sendEntry_eq (hs : s.Sound) {k : Nat} (hk : k < 256) (href : s.fld (Reg.STG_P_CTRL k) F.STG_P_CTRL_REF = 0)
    (hpeer : s.stgPeer k = s.deviceId) (ho : s.fld (Reg.STG_P_STATUS k) F.STG_P_STATUS_OUTSTANDING < 2047) (d : Word) (data : List Byte)
    (marks : List (Nat × Nat)) :
    sendEntry k d data marks s = setStagePort k
      { s.stagePort k with sending := (s.stagePort k).sending ++ [⟨d, k, s.deviceId, s.epoch (s.stgCtx k), data, marks⟩] } (countSent k s) := by
  obtain ⟨hid, hctx⟩ := sent_apart (c := s.stgCtx k) hk (Word.get_lt _ _)
  have hw := touches_countSent k s
  have hdev : (countSent k s).deviceId = s.deviceId := by rw [State.deviceId, hw.fld hs.regs hid, State.deviceId]
  have hepoch : (countSent k s).epoch (s.stgCtx k) = s.epoch (s.stgCtx k) := by rw [State.epoch, hw.fld hs.regs hctx, State.epoch]
  have hp : (countSent k s).stgPeer k = s.deviceId := (status_countSent hs.regs hk ho).2.2.trans hpeer
  have hport : (countSent k s).stagePort k = s.stagePort k := hw.works.stagePort k
  unfold sendEntry
  rw [countEntry_of_ref href]
  change (if (countSent k s).stgPeer k = (countSent k s).deviceId then setStagePort k { (countSent k s).stagePort k with
    sending := ((countSent k s).stagePort k).sending ++
      [⟨d, k, (countSent k s).stgPeer k, (countSent k s).epoch (s.stgCtx k), data, marks⟩] } (countSent k s) else _) = _
  rw [if_pos (hp.trans hdev.symm), hp, hepoch, hport]

/-- A read of tile memory without poison has no poisoned parts. -/
theorem readMarked_clean {l o n : Nat} (h : s.tmPoison l o n = false) : readMarked (.tile l o) n 0 s = (s, s.tmBytes l o n, []) := by
  have hnone : s.poison.filter (fun u => tileAddr l (o / 32 * 32) ≤ u && u < tileAddr l (o + n)) = [] := by
    rw [List.filter_eq_nil_iff]
    intro u hu hx
    exact Bool.false_ne_true (h.symm.trans (List.any_eq_true.2 ⟨u, hu, hx⟩))
  simp [readMarked, hnone]

theorem sput_ends (hs : s.Sound) (h : s.Takes p.val) (hg : s.guard p.val g = true) (hq : (s.tile p.val).queue = []) {d x : Fin 32} {ar : Fin 16} {k : Nat}
    (hx : s.sreg p.val d.val < 64) (hport : s.stagePortsOf (s.runCtx p.val) (s.sreg p.val d.val) = [k]) (hin : s.stgInbound k = false)
    (htile : s.stgTile k = s.logical p.val) (href : s.fld (Reg.STG_P_CTRL k) F.STG_P_CTRL_REF = 0) (hc : 0 < s.stgCredits k)
    (hpeer : s.stgPeer k = s.deviceId) (ho : s.fld (Reg.STG_P_STATUS k) F.STG_P_STATUS_OUTSTANDING < 2047)
    (hslot : bits (s.sword p.val x.val).toNat 19 12 = 0) (hlen : descLen (s.sword p.val x.val) ≤ s.fld (Reg.STG_P_CTRL k) F.STG_P_CTRL_MAX_LEN)
    (ha : s.areg p.val ar.val % 64 = 0) (hn : s.areg p.val ar.val + 64 * (descLen (s.sword p.val x.val) + 1) ≤ 0x400000)
    (hpo : s.tmPoison (s.logical p.val) (s.areg p.val ar.val) (64 * (descLen (s.sword p.val x.val) + 1)) = false) :
    Ends (.sput p g d ar x) s fun t => t.stgCredits k = s.stgCredits k - 1 ∧
      t.fld (Reg.STG_P_STATUS k) F.STG_P_STATUS_OUTSTANDING = s.fld (Reg.STG_P_STATUS k) F.STG_P_STATUS_OUTSTANDING + 1 ∧
      (t.stagePort k).sending = (s.stagePort k).sending ++ [⟨s.sword p.val x.val, k, s.deviceId, s.epoch (s.stgCtx k),
        s.tmBytes (s.logical p.val) (s.areg p.val ar.val) (64 * (descLen (s.sword p.val x.val) + 1)), []⟩] ∧
      IssueFrame p.val (ShowsPort k) s t := by
  have hmod : s.sreg p.val d.val % 64 = s.sreg p.val d.val := Nat.mod_eq_of_lt hx
  have hfor : s.stagePortFor (s.runCtx p.val) (s.sreg p.val d.val % 64) (s.logical p.val) false = some k := by
    rw [hmod]; exact stagePortFor_of_one hport hin htile
  have hk := port_lt hport
  have hf : movFaults p.val (.sput d ar x) s = [] := by
    have h63 : ¬ 63 < s.sreg p.val d.val := by omega
    have hea : eaFaults (s.areg p.val ar.val) (descBytes (s.sword p.val x.val)) 64 = [] := eaFaults_of_fits ha hn
    unfold movFaults
    dsimp only
    rw [hfor, hea]
    have hbad : ¬ (63 < s.sreg p.val d.val ∨ bits (s.sword p.val x.val).toNat 19 12 ≠ 0 ∨
        decide (s.fld (Reg.STG_P_CTRL k) F.STG_P_CTRL_MAX_LEN < descLen (s.sword p.val x.val)) = true) := by
      rw [hslot, decide_eq_true_iff]; omega
    rw [if_neg hbad]
    rfl
  have hw : movWait p.val (.sput d ar x) s = 0 := by
    unfold movWait
    dsimp only
    rw [hfor]
    dsimp only
    rw [acquireWaits_of_ref href, hq, if_neg (by simp only [Bool.false_eq_true, or_false]; omega)]
    rfl
  obtain ⟨v, hv⟩ : ∃ v, v = countSent k s := ⟨_, rfl⟩
  have hcount : Touches _ s v := hv ▸ touches_countSent k s
  obtain ⟨hcredits, hout, -⟩ := status_countSent hs.regs hk ho
  have hports : v.stagePorts = s.stagePorts := by obtain ⟨⟨_, _, _, h⟩, -⟩ := hcount; rw [h]
  obtain ⟨y, hy⟩ : ∃ y : StagePort, y = { s.stagePort k with sending := (s.stagePort k).sending ++ [⟨s.sword p.val x.val, k, s.deviceId,
    s.epoch (s.stgCtx k), s.tmBytes (s.logical p.val) (s.areg p.val ar.val) (64 * (descLen (s.sword p.val x.val) + 1)), []⟩] } := ⟨_, rfl⟩
  have he : movEffect p.val (.sput d ar x) s s = setStagePort k y v := by
    have hread : readMarked (.tile (s.logical p.val) (s.areg p.val ar.val)) (descBytes (s.sword p.val x.val)) 0 s = _ := readMarked_clean hpo
    unfold movEffect
    dsimp only
    rw [hfor]
    dsimp only
    rw [hread, hv, hy]
    exact sendEntry_eq hs hk href hpeer ho _ _ _
  have hwithv : Within (fun r => ShowsPort k r ∨ IsLedger r) s v := (Within.refl hs.regs).touches hcount
  have hwith : Within (fun r => ShowsPort k r ∨ IsLedger r) s (setStagePort k y v) := ⟨hwithv.regsWf, hwithv.keeps⟩
  obtain ⟨t, ht, hframe, hwt⟩ := mov_ends (i := .sput d ar x) hs h hg rfl (by rw [← hmod] at hport; exact noteStagePorts_of_one hport) hf hw he hwith
  have hfld (f : Fld) : t.fld (Reg.STG_P_STATUS k) f = (countSent k s).fld (Reg.STG_P_STATUS k) f := by
    rw [State.fld, hwt.reg hwith.regsWf (portRegs_apart hk p), ← hv]
    rfl
  have hstage : t.stagePort k = y := (hwt.stagePort k).trans (stagePort_setStagePort_same v (hports ▸ hs.stagePorts) k y)
  refine ends_of_settled rfl ⟨t, ht, ?_, ?_, by rw [hstage, hy], hframe.mono ?_⟩
  · rw [State.stgCredits, hfld, ← hcredits, State.stgCredits]
  · rw [hfld, hout]
  · rintro a (h | h)
    · exact .inl h
    · exact .inr (.inr (.inr (.inr h)))

/-- Settles O29: each instruction is one access of its unit, which shows it in the unit's own registers. -/
theorem accumulatorAndStageMoves : Obligations.AccumulatorAndStageMoves := by
  intro s p g d x ar bank i hs h hg hq
  refine ⟨accrd_ends hs h hg hq d bank i, accwr_ends hs h hg hq d bank i, fun q hone hn => sqpost_ends hs h hg hone hn,
    fun q hone => sqtest_ends hs h hg hone, fun k e rest hx hport hin htile href hl hh => sget_ends hs h hg hx hport hin htile href hl hh,
    fun k hx hport hin htile href hc hpeer ho hslot hlen ha hn hpo => ?_⟩
  exact sput_ends hs h hg hq hx hport hin htile href hc hpeer ho hslot hlen ha hn hpo

end Sys2Proof.Machine
end

section
/-! Lines of HBM that are moved one at a time, each for the first time: a save image written, or read back, through the base cache with
its evictions (R225 to R228, R481, R482). -/
namespace Sys2Proof.Machine

variable {s t u : State} {d : Bool} {U V : Nat → Prop} {k n la : Nat}

/-! ### Memory through which only such lines have passed -/

/-- A counter of write-backs. -/
def IsWriteback (a : Nat) : Prop := ∃ h, h < 2 ∧ a = Reg.BC_H_WRITEBACK h

/-- A register that moving a line writes: the counters of hits and misses, and of write-backs where the lines are dirty. -/
def MoveReg (d : Bool) (a : Nat) : Prop := IsHitMiss a ∨ (d = true ∧ IsWriteback a)

/-- The counters of misses and write-backs have room for `k` more. -/
def State.Room (s : State) (d : Bool) (k : Nat) : Prop :=
  ∀ h, h < 2 → s.Below (Reg.BC_H_MISS h) k ∧ (d = true → s.Below (Reg.BC_H_WRITEBACK h) k)

/-- A cached line that a move has left: whole, in HBM, not poisoned, and dirty or a copy of the stored line. -/
structure LineLeft (d : Bool) (s : State) (l : CLine) : Prop where
  aligned : l.addr % 64 = 0
  inside : l.addr + 64 ≤ hbmEnd
  dirty : l.dirty = d
  poison : l.poison = false
  length : l.data.length = 64
  copy : d = false → l.data = s.rawBytes l.addr 64

/-- Memory in which only whole lines of `U` have been moved: it serves, nothing is combined, held back, reserved or in error, what is
cached is such a line, and the counters have room for `k` more. -/
structure Plain (d : Bool) (U : Nat → Prop) (k : Nat) (s : State) : Prop where
  regsWf : s.RegsWf
  memWf : s.MemWf
  serves : s.memRefuses = false
  pan : s.fld Reg.PAN_RESERVE F.PAN_RESERVE_SIZE_GIB = 0
  wcb : s.path.wcb = []
  clearing : s.path.clearing = []
  guarded : s.path.guarded = []
  met : s.path.met = []
  poison : s.poison = []
  lines : ∀ l ∈ s.path.cache, U l.addr ∧ LineLeft d s l
  room : s.Room d k

/-- What moving lines leaves: everything but the counters, the base cache, and, of dirty lines, what is stored in HBM. -/
structure Moved (d : Bool) (s t : State) : Prop where
  eq : ∃ r m c o, t = { s with regs := r, mem := m, path := { s.path with cache := c, order := o } }
  regs : ∀ a, ¬ MoveReg d a → t.reg a = s.reg a
  clean : d = false → t.mem = s.mem
  above : ∀ a, hbmEnd ≤ a → t.byte a = s.byte a

theorem Moved.refl (d : Bool) (s : State) : Moved d s s := ⟨⟨_, _, _, _, rfl⟩, fun _ _ => rfl, fun _ => rfl, fun _ _ => rfl⟩

theorem Moved.trans (h : Moved d s t) (g : Moved d t u) : Moved d s u := by
  obtain ⟨r, m, c, o, ht⟩ := h.eq
  obtain ⟨r', m', c', o', hu⟩ := g.eq
  exact ⟨⟨r', m', c', o', by rw [hu, ht]⟩, fun a ha => (g.regs a ha).trans (h.regs a ha), fun e => (g.clean e).trans (h.clean e),
    fun a ha => (g.above a ha).trans (h.above a ha)⟩

theorem Moved.fld (h : Moved d s t) {a : Nat} (ha : ¬ MoveReg d a) (f : Fld) : t.fld a f = s.fld a f := by
  rw [State.fld, h.regs a ha, State.fld]

/-- A register outside the counters of the base cache. -/
theorem not_moveReg {a : Nat} (h : ¬ (0x1C0000 ≤ a ∧ a < 0x1D0000)) : ¬ MoveReg d a := by
  rintro (⟨j, hj, e | e⟩ | ⟨-, j, hj, e⟩)
  · rw [e] at h; unfold Reg.BC_H_HIT at h; omega
  · rw [e] at h; unfold Reg.BC_H_MISS at h; omega
  · rw [e] at h; unfold Reg.BC_H_WRITEBACK at h; omega

theorem State.Room.mono (h : s.Room d n) (hk : k ≤ n) : s.Room d k := fun j hj =>
  ⟨Nat.le_trans (by omega) (h j hj).1, fun e => Nat.le_trans (by omega) ((h j hj).2 e)⟩

theorem Plain.mono (h : Plain d U n s) (hU : ∀ a, U a → V a) (hk : k ≤ n) : Plain d V k s :=
  { h with lines := fun l hl => ⟨hU _ (h.lines l hl).1, (h.lines l hl).2⟩, room := h.room.mono hk }

/-- A counter counts in such memory. -/
theorem Plain.bump (h : Plain d U (k + 1) s) {r : Nat} (hr : MoveReg d r) (hb : s.Below r (k + 1)) :
    Plain d U k (bump r s) ∧ Moved d s (bump r s) ∧ (bump r s).path = s.path ∧ (bump r s).mem = s.mem := by
  have hroom : (Machine.bump r s).Room d k := fun j hj =>
    ⟨below_bump h.regsWf hb (h.room j hj).1, fun e => below_bump h.regsWf hb ((h.room j hj).2 e)⟩
  have he := bump_of_below (Nat.le_trans (by omega) hb : s.Below r 1)
  have hreg (a : Nat) (ha : ¬ MoveReg d a) : (Machine.bump r s).reg a = s.reg a := by
    rw [he]; exact reg_put_ne h.regsWf _ _ fun e => ha (e ▸ hr)
  have hmem : (Machine.bump r s).memRefuses = s.memRefuses := by
    unfold State.memRefuses State.fld; rw [hreg _ (not_moveReg (by decide))]
  have hpan : (Machine.bump r s).fld Reg.PAN_RESERVE F.PAN_RESERVE_SIZE_GIB = s.fld Reg.PAN_RESERVE F.PAN_RESERVE_SIZE_GIB := by
    unfold State.fld; rw [hreg _ (not_moveReg (by decide))]
  refine ⟨?_, ⟨⟨_, _, _, _, by rw [he]; rfl⟩, hreg, fun _ => by rw [he]; rfl, fun a _ => by rw [he]; rfl⟩, by rw [he]; rfl, by rw [he]; rfl⟩
  rw [he] at hmem hpan hroom ⊢
  exact ⟨RegsWf_put h.regsWf _ _ _, h.memWf, hmem.trans h.serves, hpan.trans h.pan, h.wcb, h.clearing, h.guarded, h.met, h.poison,
    fun l hl => ⟨(h.lines l hl).1, { (h.lines l hl).2 with }⟩, hroom⟩

/-! ### What the cache holds -/

theorem Plain.hbmByte (h : Plain d U k s) (a : Nat) :
    s.hbmByte a = ((s.cached (lineOf a)).map fun l => l.data.getD (a - lineOf a) 0).getD (s.byte a) := hbmByte_of_wcb h.wcb a

theorem mem_of_cached {l : CLine} (h : s.cached la = some l) : l ∈ s.path.cache ∧ l.addr = la :=
  ⟨List.mem_of_find?_eq_some h, by simpa using List.find?_some h⟩

/-- A line that has not been moved is not cached. -/
theorem Plain.cached_none (h : Plain d U k s) (hU : ¬ U la) : s.cached la = none := by
  rw [State.cached, List.find?_eq_none]
  intro l hl e
  exact hU (of_decide_eq_true e ▸ (h.lines l hl).1)

theorem cached_dropLine (la a : Nat) (s : State) : (dropLine la s).cached a = if a = la then none else s.cached a := by
  show (s.path.cache.filter _).find? _ = _
  rw [List.find?_filter]
  split
  · next e => subst e; simp
  · next e =>
    congr 1
    funext l
    by_cases hl : l.addr = a
    · simp [hl, e]
    · simp [hl]

theorem dropLine_editLine (la : Nat) (f : CLine → CLine) (hf : ∀ l, (f l).addr = l.addr) (s : State) :
    dropLine la (editLine la f s) = dropLine la s := by
  show setPath _ (setPath _ s) = setPath _ s
  simp only [setPath, State.mk.injEq, MemPath.mk.injEq, true_and, and_true]
  induction s.path.cache with
  | nil => rfl
  | cons l ls ih =>
    by_cases e : l.addr = la
    · simpa [e, hf] using ih
    · simpa [e] using ih

/-- The bytes of a copy of a line. -/
theorem byte_of_copy {l : CLine} (hc : l.data = s.rawBytes la 64) {a : Nat} (ha : lineOf a = la) : l.data.getD (a - la) 0 = s.byte a := by
  have hlt : a - la < 64 := by unfold lineOf at ha; omega
  have hadd : la + (a - la) = a := by unfold lineOf at ha; omega
  simp [hc, State.rawBytes, hlt, hadd]

/-! ### Eviction -/

/-- A cached line dropped that is a copy of the stored line: reads return the same. -/
theorem Plain.dropClean (h : Plain false U k s) (la : Nat) : Plain false U k (dropLine la s) ∧ Moved false s (dropLine la s) ∧
    ∀ a, (dropLine la s).hbmByte a = s.hbmByte a := by
  refine ⟨⟨h.regsWf, h.memWf, h.serves, h.pan, h.wcb, h.clearing, h.guarded, h.met, h.poison,
    fun l hl => ⟨(h.lines l (List.mem_of_mem_filter hl)).1, { (h.lines l (List.mem_of_mem_filter hl)).2 with }⟩, h.room⟩,
    ⟨⟨_, _, _, _, rfl⟩, fun _ _ => rfl, fun _ => rfl, fun _ _ => rfl⟩, fun a => ?_⟩
  rw [hbmByte_of_wcb (s := dropLine la s) h.wcb, h.hbmByte, cached_dropLine]
  by_cases e : lineOf a = la
  · rw [if_pos e]
    cases hc : s.cached (lineOf a) with
    | none => rfl
    | some l =>
      obtain ⟨hl, hla⟩ := mem_of_cached hc
      have hcopy := ((h.lines l hl).2.copy rfl)
      rw [hla] at hcopy
      exact (byte_of_copy hcopy rfl).symm
  · rw [if_neg e]; rfl

/-- A line written to the stacks over no poison. -/
theorem writeDram_eq (hp : s.poison = []) (la : Nat) (data : List Byte) :
    ∃ m, writeDram la data false s = { s with mem := m } ∧ setRaw la data s = { s with mem := m } := by
  obtain ⟨m, hm⟩ := setRaw_mem la data s
  refine ⟨m, ?_, hm⟩
  show { setRaw la data s with poison := (setRaw la data s).poison.filter (· ≠ la) } = _
  rw [hm, show ({ s with mem := m } : State).poison = [] from hp, List.filter_nil, ← hp]

/-- The bytes of a line after another has been stored. -/
theorem rawBytes_setRaw_ne (h : s.MemWf) {a b : Nat} {data : List Byte} (hl : a + data.length ≤ b ∨ b + n ≤ a) :
    (setRaw a data s).rawBytes b n = s.rawBytes b n := by
  refine List.map_congr_left fun i hi => ?_
  rw [byte_setRaw h, if_neg]
  have := List.mem_range.mp hi
  omega

/-- A dirty line written back and dropped: reads return the same. -/
theorem Plain.writeBack (h : Plain true U (k + 1) s) {l : CLine} (hc : s.cached la = some l) :
    Plain true U k (dropLine la (cleanLine la s)) ∧ Moved true s (dropLine la (cleanLine la s)) ∧
    ∀ a, (dropLine la (cleanLine la s)).hbmByte a = s.hbmByte a := by
  obtain ⟨hl, hla⟩ := mem_of_cached hc
  obtain ⟨hU, hleft⟩ := h.lines l hl
  obtain ⟨m, hw, hm⟩ := writeDram_eq h.poison la l.data
  have hreg : MoveReg true (Reg.BC_H_WRITEBACK (s.half la)) := .inr ⟨rfl, _, half_lt s la, rfl⟩
  have hin : la + 64 ≤ hbmEnd := hla ▸ hleft.inside
  have hmw : Plain true U (k + 1) { s with mem := m } := by
    have : ({ s with mem := m } : State).MemWf := hm ▸ keepsMem_setRaw la l.data s h.memWf
    exact ⟨h.regsWf, this, h.serves, h.pan, h.wcb, h.clearing, h.guarded, h.met, h.poison,
      fun x hx => ⟨(h.lines x hx).1, { (h.lines x hx).2 with copy := fun e => nomatch e }⟩, h.room⟩
  obtain ⟨hp, hmv, hpath, hmem⟩ := hmw.bump hreg ((h.room _ (half_lt s la)).2 rfl)
  have heq : dropLine la (cleanLine la s) = dropLine la (Machine.bump (Reg.BC_H_WRITEBACK (s.half la)) { s with mem := m }) := by
    unfold cleanLine
    rw [hc]
    show dropLine la (if l.dirty = true then editLine la _ (Machine.bump _ (writeDram la l.data l.poison s)) else s) = _
    rw [if_pos hleft.dirty, hleft.poison, hw]
    exact dropLine_editLine la (fun x => { x with dirty := false }) (fun _ => rfl) _
  rw [heq]
  have hbyte (a : Nat) : (dropLine la (Machine.bump (Reg.BC_H_WRITEBACK (s.half la)) { s with mem := m })).byte a =
      if la ≤ a ∧ a < la + 64 then l.data.getD (a - la) 0 else s.byte a := by
    show Store.lookup _ (Machine.bump _ _).mem a = _
    rw [hmem, ← hleft.length, ← byte_setRaw h.memWf, hm]; rfl
  obtain ⟨r, m', c', o, hbe⟩ := hmv.eq
  refine ⟨⟨hp.regsWf, hp.memWf, hp.serves, hp.pan, hp.wcb, hp.clearing, hp.guarded, hp.met, hp.poison, fun x hx => ?_, hp.room⟩,
    ⟨?_, hmv.regs, fun e => (nomatch e), fun a ha => ?_⟩, fun a => ?_⟩
  · have := hp.lines x (List.mem_of_mem_filter hx)
    exact ⟨this.1, { this.2 with copy := fun e => nomatch e }⟩
  · exact ⟨r, m', _, o, by rw [hbe]; rfl⟩
  · rw [hbyte, if_neg (by omega)]
  · rw [hbmByte_of_wcb (s := dropLine la _) (by show (Machine.bump _ _).path.wcb = _; rw [hpath]; exact h.wcb), h.hbmByte, cached_dropLine, hbyte]
    have hcached : (Machine.bump (Reg.BC_H_WRITEBACK (s.half la)) { s with mem := m }).cached (lineOf a) = s.cached (lineOf a) := by
      unfold State.cached; rw [hpath]
    by_cases e : lineOf a = la
    · have : la ≤ a ∧ a < la + 64 := by unfold lineOf at e; omega
      rw [if_pos e, e, hc, if_pos this]; rfl
    · have : ¬ (la ≤ a ∧ a < la + 64) := by
        have := hleft.aligned
        rw [hla] at this
        unfold lineOf at e; omega
      rw [if_neg e, hcached, if_neg this]

/-- A victim is a cached line. -/
theorem victim_mem {v : CLine} {keep : Bool} (h : victim la keep s = some v) : v ∈ s.path.cache := by
  have hm := List.mem_of_find?_eq_some h
  have hset : v ∈ s.setLines la := by
    revert hm
    split
    · exact List.mem_of_mem_filter
    · split
      · exact List.mem_of_mem_filter
      · exact fun h => nomatch h
  exact List.mem_of_mem_filter hset

/-- A cached line written back where it is dirty, and dropped: reads return the same. -/
theorem Plain.evict (h : Plain d U (k + 1) s) {v : CLine} (hv : v ∈ s.path.cache) :
    Plain d U k (dropLine v.addr (cleanLine v.addr s)) ∧ Moved d s (dropLine v.addr (cleanLine v.addr s)) ∧
    ∀ a, (dropLine v.addr (cleanLine v.addr s)).hbmByte a = s.hbmByte a := by
  obtain ⟨l, hc⟩ : ∃ l, s.cached v.addr = some l := by
    rw [← Option.isSome_iff_exists, State.cached, List.find?_isSome]
    exact ⟨v, hv, by simp⟩
  cases d with
  | true => exact h.writeBack hc
  | false =>
    have : cleanLine v.addr s = s := by
      obtain ⟨hl, -⟩ := mem_of_cached hc
      unfold cleanLine
      rw [hc]
      show (if l.dirty = true then _ else s) = s
      rw [(h.lines l hl).2.dirty]; rfl
    rw [this]
    exact (h.mono (fun _ e => e) (Nat.le_succ k)).dropClean v.addr

/-! ### One line allocated -/

/-- A line put into the cache that held no copy of it. -/
theorem Plain.insert (h : Plain d U k s) (ha : la % 64 = 0) (hin : la + 64 ≤ hbmEnd) {data : List Byte}
    (hl : data.length = 64) (hcopy : d = false → data = s.rawBytes la 64) (w : Nat) :
    let t := recent la w (setPath (fun p => { p with cache := ⟨la, w, data, d, false, false⟩ :: p.cache }) s)
    Plain d (fun a => U a ∨ a = la) k t ∧ Moved d s t ∧ ∀ a, t.hbmByte a = if la ≤ a ∧ a < la + 64 then data.getD (a - la) 0 else s.hbmByte a := by
  intro t
  refine ⟨⟨h.regsWf, h.memWf, h.serves, h.pan, h.wcb, h.clearing, h.guarded, h.met, h.poison, fun l hm => ?_, h.room⟩,
    ⟨⟨_, _, _, _, rfl⟩, fun _ _ => rfl, fun _ => rfl, fun _ _ => rfl⟩, fun a => ?_⟩
  · rcases List.mem_cons.mp hm with rfl | hm
    · exact ⟨.inr rfl, ha, hin, rfl, rfl, hl, hcopy⟩
    · exact ⟨.inl (h.lines l hm).1, { (h.lines l hm).2 with }⟩
  · have hc (x : Nat) : t.cached x = if x = la then some ⟨la, w, data, d, false, false⟩ else s.cached x := by
      show ((⟨la, w, data, d, false, false⟩ :: s.path.cache : List CLine).find? fun l => l.addr = x) = _
      rw [List.find?_cons]
      by_cases e : x = la
      · simp [e]
      · simp [Ne.symm e, e, State.cached]
    rw [hbmByte_of_wcb (s := t) h.wcb, h.hbmByte, hc]
    by_cases e : lineOf a = la
    · have : la ≤ a ∧ a < la + 64 := by unfold lineOf at e; omega
      rw [if_pos e, if_pos this, e]; rfl
    · have : ¬ (la ≤ a ∧ a < la + 64) := by unfold lineOf at e; omega
      rw [if_neg e, if_neg this]; rfl

theorem rawBytes_congr (h : t.mem = s.mem) (a n : Nat) : t.rawBytes a n = s.rawBytes a n := by unfold State.rawBytes State.byte; rw [h]

/-- A line that has not been moved is allocated, with the eviction that this takes. -/
theorem Plain.allocate (h : Plain d U (k + 1) s) (ha : la % 64 = 0) (hin : la + 64 ≤ hbmEnd) {data : List Byte}
    (hl : data.length = 64) (hcopy : d = false → data = s.rawBytes la 64) :
    let t := allocate la data d false false s
    Plain d (fun a => U a ∨ a = la) k t ∧ Moved d s t ∧ ∀ a, t.hbmByte a = if la ≤ a ∧ a < la + 64 then data.getD (a - la) 0 else s.hbmByte a := by
  unfold Machine.allocate
  simp only [Bool.false_and]
  cases hv : victim la false s with
  | none =>
    exact (h.mono (fun _ e => e) (Nat.le_succ k)).insert ha hin hl hcopy _
  | some v =>
    obtain ⟨hp, hmv, hb⟩ := h.evict (victim_mem hv)
    obtain ⟨hp', hmv', hb'⟩ := hp.insert ha hin hl (fun e => (hcopy e).trans (rawBytes_congr (hmv.clean e) _ _).symm)
      ((lowest (List.range 24) fun w => ((dropLine v.addr (cleanLine v.addr s)).setLines la).all (·.way ≠ w)).getD 0)
    exact ⟨hp', hmv.trans hmv', fun a => by rw [hb' a, hb a]⟩

end Sys2Proof.Machine
end

section
/-! The image of a tile written to plain memory (R481, R483). -/
namespace Sys2Proof.Machine

variable {s t u : State} {k n a la : Nat} {data : List Byte}

/-! ### Ranges of HBM written in ascending order -/

/-- `f` writes the bytes `g` to the `n` bytes of HBM from `a`, where no line from `a` on has been moved. -/
def StoresAt (f : State → State) (a n : Nat) (g : Nat → Byte) : Prop :=
  ∀ s k, Plain true (· < a) (k + n / 32) s → Plain true (· < a + n) k (f s) ∧ Moved true s (f s) ∧
    ∀ b, (f s).hbmByte b = if a ≤ b ∧ b < a + n then g (b - a) else s.hbmByte b

theorem StoresAt.congr {f : State → State} {g g' : Nat → Byte} (h : StoresAt f a n g) (hg : ∀ j < n, g j = g' j) : StoresAt f a n g' := by
  intro s k hp
  obtain ⟨h1, h2, h3⟩ := h s k hp
  refine ⟨h1, h2, fun b => ?_⟩
  rw [h3 b]
  split
  · next hb => exact hg _ (by omega)
  · rfl

/-- Chunks of `z` bytes written one after the other. -/
theorem storesAt_forEach {f : Nat → State → State} {z : Nat} (g : Nat → Nat → Byte) (hz : 64 ∣ z)
    (h : ∀ i < n, StoresAt (f i) (a + z * i) z (g i)) : StoresAt (forEach (List.range n) f) a (z * n) (fun j => g (j / z) (j % z)) := by
  obtain ⟨m, rfl⟩ := hz
  induction n with
  | zero =>
    intro s k hp
    exact ⟨by simpa using hp, .refl _ _, fun b => by rw [if_neg (by omega)]; rfl⟩
  | succ n ih =>
    intro s k hp
    have hmul : 64 * m * (n + 1) = 64 * (m * n) + 64 * m := by rw [Nat.mul_succ, Nat.mul_assoc]
    have hmul' : 64 * m * n = 64 * (m * n) := Nat.mul_assoc ..
    have hsplit : k + 64 * m * (n + 1) / 32 = (k + 64 * m / 32) + 64 * m * n / 32 := by rw [hmul, hmul']; omega
    rw [hsplit] at hp
    obtain ⟨h1, h2, h3⟩ := ih (fun i hi => h i (by omega)) s _ hp
    obtain ⟨g1, g2, g3⟩ := h n (Nat.lt_succ_self n) _ k h1
    rw [List.range_succ, forEach_append]
    refine ⟨g1.mono (fun x hx => by rw [hmul] ; rw [hmul'] at hx; omega) (Nat.le_refl _), h2.trans g2, fun b => ?_⟩
    rw [forEach_cons, forEach_nil, g3, h3, hmul, hmul']
    by_cases hb : a + 64 * (m * n) ≤ b ∧ b < a + 64 * (m * n) + 64 * m
    · have hj : b - a = (b - (a + 64 * (m * n))) + 64 * m * n := by rw [hmul']; omega
      have hlt : b - (a + 64 * (m * n)) < 64 * m := by omega
      rw [if_pos hb, if_pos (by omega)]
      dsimp only
      rw [hj, Nat.add_mul_div_left _ _ (by omega), Nat.add_mul_mod_self_left, Nat.div_eq_of_lt hlt, Nat.mod_eq_of_lt hlt, Nat.zero_add]
    · rw [if_neg hb]
      by_cases hb' : a ≤ b ∧ b < a + 64 * (m * n)
      · rw [if_pos hb', if_pos (by omega)]
      · rw [if_neg hb', if_neg (by omega)]

/-! ### A line written -/

theorem Plain.panSlotOf (h : Plain true (· < la) k s) (b : Nat) : s.panSlotOf b = none := by
  unfold State.panSlotOf
  rw [h.pan]
  simp

theorem Plain.writeRefused (h : Plain true (· < la) k s) (b : Nat) : s.writeRefused false b = false := by
  simp [State.writeRefused, h.serves, h.panSlotOf]

/-- A whole line written that has not been moved is a miss, and is allocated. -/
theorem writeLine_plain (h : Plain true (· < la) (k + 1) s) (ha : la % 64 = 0) (hl : data.length = 64) (ctx e op : Nat) :
    writeLine ⟨.write, la, data, 0, ctx, e, op, false⟩ s = allocate la data true false false (bump (Reg.BC_H_MISS (s.half la)) s) := by
  have hline : lineOf la = la := by unfold lineOf; omega
  have hmiss : MoveReg true (Reg.BC_H_MISS (s.half la)) := .inl (isHitMiss_miss s la)
  obtain ⟨-, -, hpath, -⟩ := h.bump hmiss (h.room _ (half_lt s la)).1
  have hwait : s.writeWaits la = false := by simp [State.writeWaits, State.pairClears, h.clearing, h.guarded]
  have hcached : s.cached la = none := h.cached_none (Nat.lt_irrefl la)
  have hsplice : splice (List.replicate 64 0) (la - la) data = data := by simp [splice, hl]
  simp only [writeLine, hwait, applyWrite, acceptWrite, hline, closeEntries_of_wcb h.wcb, hcached, hpath, h.wcb, List.find?_nil, hl,
    decide_true, if_true, writeLineMiss, true_or, Bool.false_eq_true, if_false, hsplice]
  rfl

theorem storesAt_writeLine (ha : la % 64 = 0) (hin : la + 64 ≤ hbmEnd) (hl : data.length = 64) (ctx : Nat) (e : State → Nat) :
    StoresAt (fun s => writeLine ⟨.write, la, data, 0, ctx, e s, s.path.op, false⟩ s) la 64 (fun j => data.getD j 0) := by
  intro s k hp
  have hmiss : MoveReg true (Reg.BC_H_MISS (s.half la)) := .inl (isHitMiss_miss s la)
  obtain ⟨hp1, hm1, hpath, hmem⟩ := hp.bump hmiss (hp.room _ (half_lt s la)).1
  obtain ⟨hp2, hm2, hb⟩ := hp1.allocate ha hin hl (fun e => nomatch e)
  show Plain true _ k (writeLine _ s) ∧ Moved true s (writeLine _ s) ∧ ∀ b, (writeLine _ s).hbmByte b = _
  rw [writeLine_plain hp ha hl]
  refine ⟨hp2.mono (fun x hx => by omega) (Nat.le_refl _), hm1.trans hm2, fun b => ?_⟩
  have hsame (b : Nat) : (bump (Reg.BC_H_MISS (s.half la)) s).hbmByte b = s.hbmByte b := by
    rw [hp1.hbmByte, hp.hbmByte, State.cached, hpath, State.byte, hmem]; rfl
  rw [hb b, hsame]

/-! ### A range written -/

theorem forEach_map {α β : Type} (h : α → β) (l : List α) (f : β → State → State) (s : State) :
    forEach (l.map h) f s = forEach l (fun x => f (h x)) s := List.foldl_map

theorem cutLines_aligned (ha : a % 64 = 0) {m : Nat} (hl : data.length = 64 * m) :
    cutLines a data = (List.range m).map fun i => (a + 64 * i, (data.drop (64 * i)).take 64) := by
  have h0 : (64 - a % 64) % 64 = 0 := by omega
  have hc : ceilDiv data.length 64 = m := by unfold ceilDiv; omega
  simp only [cutLines, h0, true_or, if_true, List.drop_zero, hc, List.nil_append, Nat.add_zero]

/-- Whole lines written to HBM. -/
theorem storesAt_hbmWrite (ha : a % 64 = 0) {m : Nat} (hl : data.length = 64 * m) (hin : a + 64 * m ≤ hbmEnd) (ctx : Nat) (e : State → Nat) :
    StoresAt (fun s => (hbmWrite false a data 0 ctx (e s) s).1) a (64 * m) (fun j => data.getD j 0) := by
  intro s k hp
  have hrun : (hbmWrite false a data 0 ctx (e s) s).1 = forEach (List.range m)
      (fun i u => writeLine ⟨.write, a + 64 * i, (data.drop (64 * i)).take 64, 0, ctx, e s, u.path.op, false⟩ u) s := by
    have hany : ((cutLines a data).any fun l => s.writeRefused false l.1) = false := by simp [hp.writeRefused]
    unfold hbmWrite hbmStore
    dsimp only
    rw [hany, cutLines_aligned ha hl, forEach_map]
    rfl
  have hstep (i : Nat) (hi : i < m) : StoresAt (fun u => writeLine ⟨.write, a + 64 * i, (data.drop (64 * i)).take 64, 0, ctx, e s, u.path.op, false⟩ u)
      (a + 64 * i) 64 (fun j => ((data.drop (64 * i)).take 64).getD j 0) :=
    storesAt_writeLine (by omega) (by omega) (by rw [List.length_take, List.length_drop]; omega) ctx _
  have := (storesAt_forEach _ (Nat.dvd_refl 64) hstep).congr (g' := fun j => data.getD j 0) fun j hj => by
    have hlt : j % 64 < 64 := Nat.mod_lt _ (by decide)
    simp only [List.getD_eq_getElem?_getD, List.getElem?_take, hlt, if_true, List.getElem?_drop, Nat.div_add_mod]
  dsimp only
  rw [hrun]
  exact this s k hp

end Sys2Proof.Machine
end

section
/-! FORCED_SAVE: a tile under preemption writes its whole image and leaves its context (R481, R483). -/
namespace Sys2Proof.Machine

variable {s t u : State} {c k p n : Nat} {W : Nat → Prop}

/-! ### What an image is made of -/

/-- The tile of an image starts at a page of HBM. -/
theorem imageBase_aligned (s : State) (c p : Nat) : s.imageBase c p % 64 = 0 := by unfold State.imageBase; omega

theorem length_rawBytes (s : State) (a n : Nat) : (s.rawBytes a n).length = n := by simp [State.rawBytes]

theorem length_accBytes (s : State) (p b : Nat) : (s.accBytes p b).length = 65536 := by
  rw [State.accBytes, length_flatMap_of (w := 512) _ fun r _ => by rw [length_flatMap_of _ fun _ _ => length_bytesOf .., List.length_range],
    List.length_range]

/-- The header block of an image has 640 bytes. -/
theorem length_saveHeader (s : State) (p live tm : Nat) : (saveHeader s p live tm).length = 640 := by
  have hwords (m : Nat) (f : Nat → Nat) : ((List.range m).flatMap fun i => bytesOf 8 (f i)).length = 8 * m := by
    rw [length_flatMap_of _ fun _ _ => length_bytesOf .., List.length_range]
  have hframes (f : Nat → List Byte) (hf : ∀ i, (f i).length = 24) : ((List.range 4).flatMap f).length = 96 := by
    rw [length_flatMap_of _ fun i _ => hf i]; rfl
  unfold saveHeader
  simp only [List.length_append, apply_ite List.length, List.length_replicate, length_bytesOf, hwords, ite_self]
  rw [hframes _ fun i => ?_]
  · cases (s.tile p).wild <;> simp
  · split <;> simp

/-- The same is done to each element of a list. -/
theorem forEach_congr {α : Type} {f g : α → State → State} {l : List α} (h : ∀ a ∈ l, ∀ s, f a s = g a s) (s : State) :
    forEach l f s = forEach l g s := by
  induction l generalizing s with
  | nil => rfl
  | cons a l ih =>
    rw [forEach_cons, forEach_cons, h a (List.mem_cons_self ..), ih fun b hb => h b (List.mem_cons_of_mem _ hb)]

/-! ### The image written -/

/-- The memory of an image: the tile memory of `s0`. -/
def storeTm (c base l : Nat) (s0 : State) : State → State :=
  forEach (List.range 65536) fun i s => saveLine c (base + 64 * i) (s0.tmBytes l (64 * i) 64) (s0.tmPoison l (64 * i) 64) s
/-- The vector registers of `s0`. -/
def storeVregs (c base p : Nat) (s0 : State) : State → State :=
  forEach (List.range 32) fun n s => (hbmWrite false (base + 0x402000 + 1024 * n) (s0.vreg p n) 0 c (s0.epoch c) s).1
/-- The accumulator banks of `s0`. -/
def storeBanks (c base p : Nat) (s0 : State) : State → State :=
  forEach (List.range 4) fun b s => (hbmWrite false (base + 0x410000 + 65536 * b) (s0.accBytes p b) 0 c (s0.epoch c) s).1

/-- The whole image of tile `p` for context `c` written. -/
def storeImage (c p : Nat) (s0 : State) : State :=
  let base := s0.imageBase c p
  storeBanks c base p s0 (storeVregs c base p s0
    (hbmWrite false (base + 0x400000) (saveHeader s0 p 0x7FF 64) 0 c (s0.epoch c) (storeTm c base (s0.logical p) s0 s0)).1)

/-- Tile `p`, of state `st` when its save began, leaves its context (R483). -/
def leaveContext (p st : Nat) (s : State) : State :=
  let s := abandon p s
  let s := setTile p { s.tile p with saved := true, halted := st == TileSt.HALTED, saving := none, preempt := false } s
  let s := put (Reg.TILE_CTX p) F.TILE_CTX_PRESENT 0 (put (Reg.TILE_STATUS p) F.TILE_STATUS_WAIT 0 s)
  if s.tileSt p = TileSt.FAULTED then s else setTileSt p TileSt.SAVED s

/-- A whole save writes the image, and then the tile leaves its context. -/
theorem saveTile_whole (p c : Nat) (s : State) : saveTile p c 0x7FF 64 s = leaveContext p (s.tileSt p) (storeImage c p s) := by
  have hv : storeVregs c (s.imageBase c p) p s = forEach (List.range 32) (fun n u =>
      if bit 0x7FF (3 + n / 8) then (hbmWrite false (s.imageBase c p + 0x402000 + 1024 * n) (s.vreg p n) 0 c (s.epoch c) u).1 else u) := by
    funext u
    refine forEach_congr (fun n hn v => ?_) u
    have : n / 8 < 4 := by have := List.mem_range.mp hn; omega
    rw [if_pos]
    interval_cases n / 8 <;> rfl
  have hb : storeBanks c (s.imageBase c p) p s = forEach (List.range 4) (fun b u =>
      if bit 0x7FF (7 + b) then (hbmWrite false (s.imageBase c p + 0x410000 + 65536 * b) (s.accBytes p b) 0 c (s.epoch c) u).1 else u) := by
    funext u
    refine forEach_congr (fun b hb v => ?_) u
    have : b < 4 := List.mem_range.mp hb
    rw [if_pos]
    interval_cases b <;> rfl
  unfold storeImage
  dsimp only
  rw [hv, hb]
  rfl

theorem storesAt_storeTm {s0 : State} (hp : s0.poison = []) (base l : Nat) (ha : base % 64 = 0) (hin : base + 0x400000 ≤ hbmEnd) :
    StoresAt (storeTm c base l s0) base 0x400000 (fun i => s0.byte (tileAddr l i)) := by
  have hstep (i : Nat) (hi : i < 65536) : StoresAt (fun s => saveLine c (base + 64 * i) (s0.tmBytes l (64 * i) 64) (s0.tmPoison l (64 * i) 64) s)
      (base + 64 * i) 64 (fun j => (s0.tmBytes l (64 * i) 64).getD j 0) := by
    have hclear : s0.tmPoison l (64 * i) 64 = false := by simp [State.tmPoison, hp]
    simp only [hclear]
    exact storesAt_hbmWrite (m := 1) (by omega) (length_rawBytes ..) (by omega) c fun s => s.epoch c
  refine (storesAt_forEach (n := 65536) _ (Nat.dvd_refl 64) hstep).congr fun j _ => ?_
  have hlt : j % 64 < 64 := Nat.mod_lt _ (by decide)
  have hadd : tileAddr l (64 * (j / 64)) + j % 64 = tileAddr l j := by unfold tileAddr; omega
  simp [State.tmBytes, State.rawBytes, hlt, hadd]

theorem storesAt_storeVregs (s0 : State) {base : Nat} (ha : base % 64 = 0) (hin : base + 0x480000 ≤ hbmEnd) :
    StoresAt (storeVregs c base p s0) (base + 0x402000) (1024 * 32) (fun j => (s0.vreg p (j / 1024)).getD (j % 1024) 0) :=
  storesAt_forEach (fun n j => (s0.vreg p n).getD j 0) (by decide) fun n hn =>
    storesAt_hbmWrite (m := 16) (by omega) (length_vreg ..) (by omega) c fun _ => s0.epoch c

theorem storesAt_storeBanks (s0 : State) {base : Nat} (ha : base % 64 = 0) (hin : base + 0x480000 ≤ hbmEnd) :
    StoresAt (storeBanks c base p s0) (base + 0x410000) (65536 * 4) (fun j => (s0.accBytes p (j / 65536)).getD (j % 65536) 0) :=
  storesAt_forEach (fun n j => (s0.accBytes p n).getD j 0) (by decide) fun n hn =>
    storesAt_hbmWrite (m := 1024) (by omega) (length_accBytes ..) (by omega) c fun _ => s0.epoch c

/-- What the image holds once it has been written, and what that leaves. -/
theorem storeImage_spec {s0 : State} {base : Nat} (hbase : s0.imageBase c p = base) (h : Plain true (· < base) (2 ^ 20) s0) (hin : base + 0x480000 ≤ hbmEnd) :
    Moved true s0 (storeImage c p s0) ∧ (storeImage c p s0).RegsWf ∧ ∀ a, (storeImage c p s0).hbmByte a =
      if base + 0x410000 ≤ a ∧ a < base + 0x410000 + 65536 * 4 then
        (s0.accBytes p ((a - (base + 0x410000)) / 65536)).getD ((a - (base + 0x410000)) % 65536) 0
      else if base + 0x402000 ≤ a ∧ a < base + 0x402000 + 1024 * 32 then
        (s0.vreg p ((a - (base + 0x402000)) / 1024)).getD ((a - (base + 0x402000)) % 1024) 0
      else if base + 0x400000 ≤ a ∧ a < base + 0x400000 + 64 * 10 then (saveHeader s0 p 0x7FF 64).getD (a - (base + 0x400000)) 0
      else if base ≤ a ∧ a < base + 0x400000 then s0.byte (tileAddr (s0.logical p) (a - base)) else s0.hbmByte a := by
  have ha : base % 64 = 0 := hbase ▸ imageBase_aligned s0 c p
  unfold storeImage
  rw [hbase]
  obtain ⟨p1, m1, b1⟩ := storesAt_storeTm (c := c) h.poison base (s0.logical p) ha (by omega) s0 0x80000 (h.mono (fun _ e => e) (by norm_num))
  obtain ⟨p2, m2, b2⟩ := storesAt_hbmWrite (m := 10) (a := base + 0x400000) (by omega) (length_saveHeader s0 p 0x7FF 64) (by omega) c
    (fun _ => s0.epoch c) _ 0x4000 (p1.mono (fun _ e => e) (by norm_num))
  obtain ⟨p3, m3, b3⟩ := storesAt_storeVregs (c := c) (p := p) s0 ha hin _ 0x3000 (p2.mono (fun x e => by omega) (by norm_num))
  obtain ⟨p4, m4, b4⟩ := storesAt_storeBanks (c := c) (p := p) s0 ha hin _ 0 (p3.mono (fun x e => by omega) (by norm_num))
  refine ⟨((m1.trans m2).trans m3).trans m4, p4.regsWf, fun a => ?_⟩
  rw [b4, b3, b2, b1]

end Sys2Proof.Machine
end

section
namespace Sys2Proof.Machine

variable {s t u : State} {d : Bool} {U : Nat → Prop} {c k p n : Nat} {W : Nat → Prop}

/-- A register on which the service of memory depends. -/
def PathReg (a : Nat) : Prop := (0x1C0000 ≤ a ∧ a < 0x1D0000) ∨ a = Reg.MEM_STATUS ∨ a = Reg.PAN_RESERVE

/-- What reads of HBM return is a matter of memory and its path. -/
theorem hbmByte_congr (hm : t.mem = s.mem) (hp : t.path = s.path) (a : Nat) : t.hbmByte a = s.hbmByte a := by
  unfold State.hbmByte State.cached State.byte
  rw [hm, hp]

/-- Memory stays plain where it and its path are as before, and the registers on which its service depends. -/
theorem Plain.congr (h : Plain d U k s) (hr : t.RegsWf) (hmem : t.mem = s.mem) (hpath : t.path = s.path) (hpoison : t.poison = s.poison)
    (hreg : ∀ a, PathReg a → t.reg a = s.reg a) : Plain d U k t := by
  refine ⟨hr, by rw [State.MemWf, hmem]; exact h.memWf, ?_, ?_, by rw [hpath]; exact h.wcb, by rw [hpath]; exact h.clearing,
    by rw [hpath]; exact h.guarded, by rw [hpath]; exact h.met, by rw [hpoison]; exact h.poison, fun l hl => ?_, fun j hj => ?_⟩
  · rw [State.memRefuses, State.fld, hreg _ (.inr (.inl rfl))]; exact h.serves
  · rw [State.fld, hreg _ (.inr (.inr rfl))]; exact h.pan
  · rw [hpath] at hl
    obtain ⟨hU, hleft⟩ := h.lines l hl
    exact ⟨hU, { hleft with copy := fun e => (hleft.copy e).trans (rawBytes_congr hmem _ _).symm }⟩
  · have hm : PathReg (Reg.BC_H_MISS j) := .inl (by unfold Reg.BC_H_MISS; omega)
    have hw : PathReg (Reg.BC_H_WRITEBACK j) := .inl (by unfold Reg.BC_H_WRITEBACK; omega)
    unfold State.Below State.fld
    rw [hreg _ hm, hreg _ hw]
    exact h.room j hj

/-- A change of other registers, and of what the units remember, leaves memory plain. -/
theorem Plain.within (h : Plain d U k s) (w : Within W s t) (hmem : t.mem = s.mem) (hW : ∀ a, W a → ¬ PathReg a) : Plain d U k t :=
  h.congr w.regsWf hmem w.path w.keeps.2.1.2.1 fun a ha => w.reg fun e => hW a e ha

/-- Bare memory without poison is plain, and no line of it has been moved. -/
theorem plain_of_bare (hs : s.Sound) (hb : s.Bare) (hp : s.poison = []) (hk : k ≤ 2 ^ 40)
    (hw : d = true → ∀ h, h < 2 → s.Below (Reg.BC_H_WRITEBACK h) k) : Plain d U k s := by
  obtain ⟨hserves, hcache, hwcb, hclearing, hguarded, hpan, hroom⟩ := hb
  refine ⟨hs.regs, hs.mem, hserves, hpan, hwcb, hclearing, hguarded, hs.met, hp, fun l hl => ?_, fun j hj => ⟨?_, fun e => hw e j hj⟩⟩
  · rw [hcache] at hl; exact nomatch hl
  · exact Nat.le_trans (Nat.add_le_add_left hk _) (hroom j hj)

/-! ### What an image depends on -/

/-- Registers of the manager that none of an image's addresses depends on. -/
def IsCount (a : Nat) : Prop := ∃ q, q < 16 ∧ (a = Reg.PRT_FORCED q ∨ a = Reg.PRT_SWITCHES q)

theorem ctxPart_lt (s : State) (c : Nat) : s.ctxPart c < 16 := Word.get_lt _ F.CTX_CTRL_PARTITION

/-- The tiles of a partition are a matter of its tile registers. -/
theorem partTiles_congr {q : Nat} (h : ∀ i < 3, t.reg (Reg.PRT_TILES0 q + 8 * i) = s.reg (Reg.PRT_TILES0 q + 8 * i)) :
    t.partTiles q = s.partTiles q := by
  have h0 : t.reg (Reg.PRT_TILES0 q) = s.reg (Reg.PRT_TILES0 q) := h 0 (by decide)
  have h1 : t.reg (Reg.PRT_TILES1 q) = s.reg (Reg.PRT_TILES1 q) := by
    have := h 1 (by decide)
    rwa [show Reg.PRT_TILES0 q + 8 * 1 = Reg.PRT_TILES1 q by unfold Reg.PRT_TILES0 Reg.PRT_TILES1; omega] at this
  have h2 : t.reg (Reg.PRT_TILES2 q) = s.reg (Reg.PRT_TILES2 q) := by
    have := h 2 (by decide)
    rwa [show Reg.PRT_TILES0 q + 8 * 2 = Reg.PRT_TILES2 q by unfold Reg.PRT_TILES0 Reg.PRT_TILES2; omega] at this
  unfold State.partTiles
  rw [h0, h1, h2]

/-! ### The save -/

theorem leaveContext_spec (hr : s.RegsWf) (hm : Store.Wf (fun _ => TileState.init) s.tiles) (hst : s.tileSt p = TileSt.RUNNING) (x : Nat) :
    let t := leaveContext p x s
    t.tileSt p = TileSt.SAVED ∧ t.tileCtx p = none ∧ (t.tile p).preempt = false ∧ t.mem = s.mem ∧
    Within (fun a => a = Reg.TILE_STATUS p ∨ a = Reg.TILE_CTX p) s t := by
  have hne : Reg.TILE_STATUS p ≠ Reg.TILE_CTX p := by unfold Reg.TILE_STATUS Reg.TILE_CTX; omega
  let y := { (abandon p s).tile p with saved := true, halted := x == TileSt.HALTED, saving := none, preempt := false }
  let u := put (Reg.TILE_CTX p) F.TILE_CTX_PRESENT 0 (put (Reg.TILE_STATUS p) F.TILE_STATUS_WAIT 0 (setTile p y (abandon p s)))
  have hr0 : (setTile p y (abandon p s)).RegsWf := hr
  have hr1 := RegsWf_put hr0 (Reg.TILE_STATUS p) F.TILE_STATUS_WAIT 0
  have hru : u.RegsWf := RegsWf_put hr1 _ _ _
  have hrun : u.tileSt p = TileSt.RUNNING := by
    show u.fld _ _ = _
    rw [fld_put_ne hr1 _ _ _ hne, fld_put_apart hr0 _ (by decide) (by decide)]
    exact hst
  have hst : u.tileSt p ≠ TileSt.FAULTED := by rw [hrun]; decide
  have heq : leaveContext p x s = setTileSt p TileSt.SAVED u := if_neg hst
  intro t
  have ht : t = _ := heq
  clear_value t
  subst ht
  refine ⟨(fld_put_same hru _ (by decide) _).trans rfl, ?_, ?_, rfl, ?_⟩
  · unfold State.tileCtx State.on setTileSt
    rw [fld_put_ne hru _ _ _ hne.symm, fld_put_same hr1 _ (by decide)]
    rfl
  · show ((setTile p y (abandon p s)).tile p).preempt = false
    rw [tile_setTile_same _ (Store.wf_update hm _ _)]
  · exact (((Within.refl hr).setTile (k := p).setTile (k := p)).put (.inl rfl)).put (.inr rfl) |>.put (.inl rfl)

/-- The counter of forced saves of a context's partition. -/
abbrev State.forcedOf (s : State) (c : Nat) : Nat := Reg.PRT_FORCED (s.ctxPart c)

theorem forcedOf_range (s : State) (c : Nat) : 0xC0140 ≤ s.forcedOf c ∧ s.forcedOf c < 0xC1140 ∧ s.forcedOf c % 0x100 = 0x40 := by
  have := ctxPart_lt s c
  unfold State.forcedOf Reg.PRT_FORCED; omega

/-- What a forced save of a tile starts from: the save counted. -/
theorem countForced (hs : s.Sound) (c : Nat) (hb : s.Below (s.forcedOf c) 1) :
    let u := bump (s.forcedOf c) s
    Within (fun a => a = s.forcedOf c) s u ∧ u = put (s.forcedOf c) ⟨47, 0⟩ (s.fld (s.forcedOf c) ⟨47, 0⟩ + 1) s ∧
    u.fld (s.forcedOf c) ⟨47, 0⟩ = s.fld (s.forcedOf c) ⟨47, 0⟩ + 1 := by
  intro u
  have hu : u = _ := bump_of_below hb
  refine ⟨?_, hu, fld_bumpBy hs.regs hb⟩
  rw [hu]
  exact (Within.refl hs.regs).put rfl

theorem tileCtx_lt (h : s.tileCtx p = some c) : c < 4096 := by
  unfold State.tileCtx at h
  split at h
  · cases h; exact Word.get_lt _ F.TILE_CTX_CONTEXT
  · cases h

theorem imageBase_forced (h : Within (fun a => a = s.forcedOf c) s u) {x : Nat} (hx : x < 4096) (p : Nat) : u.imageBase x p = s.imageBase x p := by
  obtain ⟨hlo, hhi, hmod⟩ := forcedOf_range s c
  have hlog : u.logical p = s.logical p := h.fld (by unfold Reg.FLR_PTILE; omega) _
  have hctx : u.ctxPart x = s.ctxPart x := h.fld (by unfold Reg.CTX_CTRL; omega) _
  have htiles : u.partTiles (s.ctxPart x) = s.partTiles (s.ctxPart x) :=
    partTiles_congr fun i hi => h.reg (by have := ctxPart_lt s x; unfold Reg.PRT_TILES0; omega)
  have hsave : u.fld (Reg.CTX_SAVE x) F.CTX_SAVE_BASE = s.fld (Reg.CTX_SAVE x) F.CTX_SAVE_BASE := h.fld (by unfold Reg.CTX_SAVE; omega) _
  unfold State.imageBase
  rw [hsave, hctx, htiles, hlog]

/-- The header block is a matter of the tile and its registers. -/
theorem saveHeader_congr (hreg : ∀ a, 0x1000000 ≤ a → t.reg a = s.reg a) (ht : t.tile p = s.tile p) (live tm : Nat) :
    saveHeader t p live tm = saveHeader s p live tm := by
  have hst : t.tileSt p = s.tileSt p := by
    unfold State.tileSt State.fld; rw [hreg _ (by unfold Reg.TILE_STATUS; omega)]
  have hsreg (i : Nat) : t.reg (Reg.TILE_SREG p (i + 1)) = s.reg (Reg.TILE_SREG p (i + 1)) := hreg _ (by unfold Reg.TILE_SREG; omega)
  have hareg (i : Nat) : t.reg (Reg.TILE_AREG p i) = s.reg (Reg.TILE_AREG p i) := hreg _ (by unfold Reg.TILE_AREG; omega)
  unfold saveHeader
  dsimp only
  rw [ht, hst, hreg (Reg.TILE_PC p) (by unfold Reg.TILE_PC; omega), hreg (Reg.TILE_PROG p) (by unfold Reg.TILE_PROG; omega),
    hreg (Reg.TILE_RNG_KEY p) (by unfold Reg.TILE_RNG_KEY; omega), hreg (Reg.TILE_RNG_CTR_LO p) (by unfold Reg.TILE_RNG_CTR_LO; omega),
    hreg (Reg.TILE_RNG_CTR_HI p) (by unfold Reg.TILE_RNG_CTR_HI; omega), hreg (Reg.TILE_PREG p) (by unfold Reg.TILE_PREG; omega)]
  simp only [hsreg, hareg]

theorem execForcedSave_eq (p : Fin 160) (hc : s.tileCtx p.val = some c) (hpre : (s.tile p.val).preempt = true) (hsv : (s.tile p.val).saving = none)
    (hf : s.fatal = false) : exec (.forcedSave p) s = .next (settle (forceSave p.val c s)) := by
  show execForcedSave p s = _
  simp [execForcedSave, hc, hpre, hsv, hf]

section
variable (hs : s.Sound) (p : Fin 160) (hc : s.tileCtx p.val = some c) (hpre : (s.tile p.val).preempt = true) (hsv : (s.tile p.val).saving = none)
  (hf : s.fatal = false) (hb : s.Below (s.forcedOf c) 1)
include hs hc hpre hsv hf hb

/-- A tile with work in its engine, or that is being swapped, remembers the save. -/
theorem forcedSave_waits (hw : (s.tile p.val).queue ≠ [] ∨ s.swapping (s.logical p.val) = true) : Ends (.forcedSave p) s fun t =>
    t.tile p.val = { s.tile p.val with saving := some (0x7FF + 2048 * 64) } ∧ Counts s t (s.forcedOf c) 1 ∧ KeepsAllBut (fun a => a = s.forcedOf c) s t := by
  obtain ⟨hwithin, hu, hfld⟩ := countForced hs c hb
  obtain ⟨hlo, hhi, -⟩ := forcedOf_range s c
  have hlog : (bump (s.forcedOf c) s).logical p.val = s.logical p.val := hwithin.fld (by unfold Reg.FLR_PTILE; omega) _
  have heq : forceSave p.val c s = setTile p.val { s.tile p.val with saving := some (0x7FF + 2048 * 64) } (bump (s.forcedOf c) s) := by
    have htile : (bump (s.forcedOf c) s).tile p.val = s.tile p.val := by rw [hu]; rfl
    have hswap : (bump (s.forcedOf c) s).swapping (s.logical p.val) = s.swapping (s.logical p.val) := by rw [hu]; rfl
    unfold forceSave requestSave
    rw [hlog, htile, hswap, if_neg]
    rintro ⟨h1, h2⟩
    rcases hw with h | h
    · exact h h1
    · rw [h] at h2; exact nomatch h2
  have hset := hwithin.setTile (k := p.val) (x := { s.tile p.val with saving := some (0x7FF + 2048 * 64) })
  rw [← heq] at hset
  have htiles : Store.Wf (fun _ => TileState.init) (bump (s.forcedOf c) s).tiles := by rw [hu]; exact hs.tiles
  refine ⟨forceSave p.val c s, (execForcedSave_eq p hc hpre hsv hf).trans (congrArg _ (hset.settle hs)), ?_, ?_, hset.keeps⟩
  · rw [heq]; exact tile_setTile_same _ htiles _ _
  · rw [heq]; exact hfld

/-- A tile without work in its engine, in plain memory, saves its image. -/
theorem forcedSave_saves (hq : (s.tile p.val).queue = []) (hswap : s.swapping (s.logical p.val) = false) (hbare : s.Bare) (hpoison : s.poison = [])
    (hin : s.imageBase c p.val + 0x480000 ≤ hbmEnd) (hrun : s.tileSt p.val = TileSt.RUNNING)
    (hwb : ∀ h, h < 2 → s.Below (Reg.BC_H_WRITEBACK h) (2 ^ 20)) :
    let base := s.imageBase c p.val
    let l := s.logical p.val
    Ends (.forcedSave p) s fun t => t.tileSt p.val = TileSt.SAVED ∧ t.tileCtx p.val = none ∧ (t.tile p.val).preempt = false ∧
      Counts s t (s.forcedOf c) 1 ∧ t.acc = s.acc ∧
      (∀ i, i < 0x400000 → t.hbmByte (base + i) = s.byte (tileAddr l i)) ∧
      (∀ i, i < 0x280 → t.hbmByte (base + 0x400000 + i) = (saveHeader s p.val 0x7FF 64).getD i 0) ∧
      (∀ n i, n < 32 → i < 1024 → t.hbmByte (base + 0x402000 + 1024 * n + i) = (s.vreg p.val n).getD i 0) ∧
      (∀ b i, b < 4 → i < 65536 → t.hbmByte (base + 0x410000 + 65536 * b + i) = (s.accBytes p.val b).getD i 0) ∧
      (∀ a, a < base ∨ base + 0x480000 ≤ a → t.hbmByte a = s.hbmByte a) ∧ (∀ a, hbmEnd ≤ a → t.byte a = s.byte a) ∧
      OnlyRegs (fun a => a = s.forcedOf c ∨ a = Reg.TILE_STATUS p.val ∨ a = Reg.TILE_CTX p.val ∨ IsHitMiss a ∨
        ∃ h, h < 2 ∧ a = Reg.BC_H_WRITEBACK h) s t := by
  intro base l
  obtain ⟨hwithin, hu, hfld⟩ := countForced hs c hb
  obtain ⟨hlo, hhi, -⟩ := forcedOf_range s c
  have hexec := execForcedSave_eq p hc hpre hsv hf
  generalize hv : bump (s.forcedOf c) s = v at hwithin hu hfld
  -- the save starts from the same tile, memory and registers
  have hmem : v.mem = s.mem := by rw [hu]; rfl
  have htiles : v.tiles = s.tiles := by rw [hu]; rfl
  have htile : v.tile p.val = s.tile p.val := by rw [hu]; rfl
  have hlog : v.logical p.val = l := hwithin.fld (by unfold Reg.FLR_PTILE; omega) _
  have hbase : v.imageBase c p.val = base := imageBase_forced hwithin (tileCtx_lt hc) p.val
  have htregs (a : Nat) (ha : 0x1000000 ≤ a) : v.reg a = s.reg a := hwithin.reg (by omega)
  have hst : v.tileSt p.val = TileSt.RUNNING := by
    rw [← hrun]; exact hwithin.fld (by unfold Reg.TILE_STATUS; omega) _
  have hpath := hwithin.path
  have hhbm (a : Nat) : v.hbmByte a = s.hbmByte a := hbmByte_congr hmem hpath a
  have hplain : Plain true (· < base) (2 ^ 20) v :=
    (plain_of_bare hs hbare hpoison (by norm_num) fun _ => hwb).within hwithin hmem fun a ha => by
      subst ha; unfold PathReg Reg.MEM_STATUS Reg.PAN_RESERVE; omega
  have heq : forceSave p.val c s = leaveContext p.val (v.tileSt p.val) (storeImage c p.val v) := by
    unfold forceSave
    rw [hv]
    have hswap' : v.swapping (v.logical p.val) = false := by rw [hlog, hu]; exact hswap
    unfold requestSave
    rw [htile, hq, hswap', if_pos ⟨rfl, rfl⟩, saveTile_whole]
  obtain ⟨hmoved, hregs, hbytes⟩ := storeImage_spec hbase hplain hin
  generalize storeImage c p.val v = w at heq hmoved hregs hbytes
  obtain ⟨r, m, ca, o, hweq⟩ := hmoved.eq
  have hwt : w.tiles = s.tiles := by rw [hweq]; exact htiles
  have hwst : w.tileSt p.val = TileSt.RUNNING := by
    rw [← hst]; exact hmoved.fld (not_moveReg (by unfold Reg.TILE_STATUS; omega)) _
  obtain ⟨h1, h2, h3, hmem', hleave⟩ := leaveContext_spec hregs (by rw [hwt]; exact hs.tiles) hwst (v.tileSt p.val)
  rw [← heq] at h1 h2 h3 hmem' hleave
  have howed : (forceSave p.val c s).path.owed = [] := by rw [hleave.path, hweq]; exact hpath ▸ hs.owed
  rw [settle_of_nothing_owed howed] at hexec
  have htbytes (a : Nat) : (forceSave p.val c s).hbmByte a = w.hbmByte a := hbmByte_congr hmem' hleave.path a
  refine ⟨_, hexec, h1, h2, h3, ?_, ?_, fun i hi => ?_, fun i hi => ?_, fun n i hn hi => ?_, fun b i hb hi => ?_, fun a ha => ?_, fun a ha => ?_, fun a ha => ?_⟩
  · show State.fld _ _ _ = _
    rw [hleave.fld (by unfold Reg.TILE_STATUS Reg.TILE_CTX; omega), hmoved.fld (not_moveReg (by omega)), hfld]
  · rw [hleave.keeps.2.2, hweq]
    show v.acc = s.acc
    exact hwithin.keeps.2.2
  · rw [htbytes, hbytes, if_neg (by omega), if_neg (by omega), if_neg (by omega), if_pos (by omega), Nat.add_sub_cancel_left, hlog, State.byte, hmem]; rfl
  · rw [htbytes, hbytes, if_neg (by omega), if_neg (by omega), if_pos (by omega), Nat.add_sub_cancel_left, saveHeader_congr htregs htile]
  · have hj : base + 0x402000 + 1024 * n + i - (base + 0x402000) = i + 1024 * n := by omega
    rw [htbytes, hbytes, if_neg (by omega), if_pos (by omega), hj, Nat.add_mul_div_left _ _ (by decide), Nat.div_eq_of_lt hi, Nat.zero_add,
      Nat.add_mul_mod_self_left, Nat.mod_eq_of_lt hi, vreg_congr fun i _ => htregs _ (by unfold Reg.TILE_VREG; omega)]
  · have hj : base + 0x410000 + 65536 * b + i - (base + 0x410000) = i + 65536 * b := by omega
    have hacc : v.accBytes p.val b = s.accBytes p.val b := by unfold State.accBytes State.accWord; rw [hwithin.keeps.2.2]
    rw [htbytes, hbytes, if_pos (by omega), hj, Nat.add_mul_div_left _ _ (by decide), Nat.div_eq_of_lt hi, Nat.zero_add,
      Nat.add_mul_mod_self_left, Nat.mod_eq_of_lt hi, hacc]
  · rw [htbytes, hbytes, if_neg (by omega), if_neg (by omega), if_neg (by omega), if_neg (by omega), hhbm]
  · show State.byte _ a = _
    unfold State.byte
    rw [hmem', ← hmem]
    exact hmoved.above a ha
  · simp only [not_or, not_exists, not_and] at ha
    obtain ⟨ha1, ha2, ha3, ha4, ha5⟩ := ha
    rw [hleave.reg (by simp [ha2, ha3]), hmoved.regs a, hwithin.reg ha1]
    rintro (e | ⟨-, j, hj, e⟩)
    · exact ha4 e
    · exact ha5 j hj e

end

end Sys2Proof.Machine
end

section
/-! Lines of a save image read back, each for the first time (R482): the bytes stored, and what that leaves. -/
namespace Sys2Proof.Machine

variable {s t u : State} {d : Bool} {U V W : Nat → Prop} {k n a la : Nat}

/-! ### One line -/

/-- Where what is cached are copies, reads of HBM return what is stored. -/
theorem Plain.hbmByte_stored (h : Plain false U k s) (a : Nat) : s.hbmByte a = s.byte a := by
  rw [h.hbmByte]
  cases hc : s.cached (lineOf a) with
  | none => rfl
  | some l =>
    obtain ⟨hl, hla⟩ := mem_of_cached hc
    have hcopy := (h.lines l hl).2.copy rfl
    rw [hla] at hcopy
    exact byte_of_copy hcopy rfl

/-- A line read for the first time: its bytes, no poison, and a copy is cached. -/
theorem readLine_plain (h : Plain false U (k + 2) s) (hU : ¬ U la) (ha : la % 64 = 0) (hin : la + 64 ≤ hbmEnd) :
    ∃ t, readLine la 0 s = (t, s.rawBytes la 64, false) ∧ Plain false (fun b => U b ∨ b = la) k t ∧ Moved false s t := by
  have hmiss : MoveReg false (Reg.BC_H_MISS (s.half la)) := .inl (isHitMiss_miss s la)
  obtain ⟨hp, hmv, hpath, hmem⟩ := h.bump hmiss (h.room _ (half_lt s la)).1
  have hraw : (bump (Reg.BC_H_MISS (s.half la)) s).rawBytes la 64 = s.rawBytes la 64 := rawBytes_congr hmem _ _
  obtain ⟨hp', hmv', -⟩ := hp.allocate ha hin (length_rawBytes s la 64) (fun _ => hraw.symm)
  have hread : readDram 0 la (bump (Reg.BC_H_MISS (s.half la)) s) = (bump (Reg.BC_H_MISS (s.half la)) s, s.rawBytes la 64, false) := by
    unfold readDram State.dramLine
    rw [hp.met, List.find?_nil]
    dsimp only
    rw [hraw, State.poisoned, hp.poison]
    rfl
  refine ⟨_, ?_, hp', hmv.trans hmv'⟩
  simp only [readLine, closeEntries_of_wcb h.wcb, h.cached_none hU, hread, true_or, if_true, show decide (0 = 2) = false from rfl,
    overlayHeld_of_clearing hp'.clearing]

/-! ### A range -/

/-- One line of a range of an image, as `imageBytes` goes through them. -/
def imageNext (x : State × List Byte) (la : Nat) : State × List Byte :=
  let (s, data) := x
  let (s, d, p) := readLine la 0 s
  if p then
    let (k, s) := drawFree s
    (s, data ++ (List.range 64).map (Config.poisonByte k))
  else (s, data ++ d)

theorem imageBytes_eq (a n : Nat) (s : State) : imageBytes a n s = (linesOf a n).foldl imageNext (s, []) := rfl

theorem linesOf_aligned (ha : a % 64 = 0) (m : Nat) : linesOf a (64 * m) = (List.range m).map fun i => a + 64 * i := by
  have hline : lineOf a = a := by unfold lineOf; omega
  unfold linesOf
  rw [hline]
  split
  · next h => obtain rfl : m = 0 := by omega
              rfl
  · next h => rw [show (a + 64 * m - 1) / 64 + 1 - a / 64 = m by omega]

theorem rawBytes_append (s : State) (a m n : Nat) : s.rawBytes a (m + n) = s.rawBytes a m ++ s.rawBytes (a + m) n := by
  unfold State.rawBytes
  rw [List.range_add, List.map_append, List.map_map]
  simp only [Function.comp_def, Nat.add_assoc]

/-- Whole lines of an image read for the first time. -/
theorem imageBytes_plain (ha : a % 64 = 0) (m : Nat) (hin : a + 64 * m ≤ hbmEnd) (hU : ∀ b, a ≤ b → b < a + 64 * m → ¬ U b)
    (h : Plain false U (k + 2 * m) s) :
    ∃ t, imageBytes a (64 * m) s = (t, s.rawBytes a (64 * m)) ∧ Plain false (fun b => U b ∨ (a ≤ b ∧ b < a + 64 * m)) k t ∧ Moved false s t := by
  rw [imageBytes_eq, linesOf_aligned ha]
  induction m generalizing k with
  | zero => exact ⟨s, rfl, h.mono (fun _ e => .inl e) (by omega), .refl _ _⟩
  | succ m ih =>
    obtain ⟨t, ht, hp, hm⟩ := ih (k := k + 2) (by omega) (fun b h1 h2 => hU b h1 (by omega)) (h.mono (fun _ e => e) (by omega))
    obtain ⟨u, hu, hp', hm'⟩ := readLine_plain hp (la := a + 64 * m)
      (by rintro (e | ⟨-, e⟩); exact hU _ (by omega) (by omega) e; omega) (by omega) (by omega)
    refine ⟨u, ?_, hp'.mono (fun x hx => ?_) (Nat.le_refl _), hm.trans hm'⟩
    · rw [List.range_succ, List.map_append, List.foldl_append, ht, Nat.mul_succ, rawBytes_append]
      show imageNext (t, s.rawBytes a (64 * m)) (a + 64 * m) = _
      unfold imageNext
      dsimp only
      rw [hu, rawBytes_congr (hm.clean rfl)]
      rfl
    · rcases hx with (e | ⟨e1, e2⟩) | e
      · exact .inl e
      · exact .inr ⟨e1, by omega⟩
      · exact .inr ⟨by omega, by omega⟩

/-! ### Frames -/

/-- What loading from an image leaves: everything but the registers of `W`, the counters of hits and misses, memory, the accumulators,
the base cache and the trace. -/
structure Loads (W : Nat → Prop) (s t : State) : Prop where
  eq : ∃ r m x c o n e, t = { s with regs := r, mem := m, acc := x, path := { s.path with cache := c, order := o }, posted := n, out := e }
  regs : ∀ a, ¬ (W a ∨ IsHitMiss a) → t.reg a = s.reg a

theorem Loads.refl (W : Nat → Prop) (s : State) : Loads W s s := ⟨⟨_, _, _, _, _, _, _, rfl⟩, fun _ _ => rfl⟩

theorem Loads.trans (h : Loads W s t) (g : Loads W t u) : Loads W s u := by
  obtain ⟨r, m, x, c, o, n, e, ht⟩ := h.eq
  obtain ⟨r', m', x', c', o', n', e', hu⟩ := g.eq
  exact ⟨⟨r', m', x', c', o', n', e', by rw [hu, ht]⟩, fun a ha => (g.regs a ha).trans (h.regs a ha)⟩

theorem Loads.mono (h : Loads W s t) (hV : ∀ a, W a → V a) : Loads V s t :=
  ⟨h.eq, fun a ha => h.regs a fun e => ha (e.imp (hV a) id)⟩

theorem Moved.loads (h : Moved false s t) : Loads W s t := by
  obtain ⟨r, m, c, o, ht⟩ := h.eq
  exact ⟨⟨r, m, _, c, o, _, _, ht⟩, fun a ha => h.regs a fun e => ha (.inr (e.resolve_right fun x => nomatch x.1))⟩

theorem Touches.loads (h : Touches W s t) (hr : s.RegsWf) : Loads W s t := by
  obtain ⟨⟨r, p, o, ht⟩, hk⟩ := h
  exact ⟨⟨r, _, _, _, _, p, o, ht⟩, fun a ha => (hk hr).2 a fun e => ha (.inl e)⟩

theorem Loads.fld (h : Loads W s t) {a : Nat} (ha : ¬ (W a ∨ IsHitMiss a)) (f : Fld) : t.fld a f = s.fld a f := by
  rw [State.fld, h.regs a ha, State.fld]

/-! ### Tile memory restored -/

/-- Other bytes of memory than those of HBM leave it plain. -/
theorem Plain.withMem (h : Plain false U k s) {m : List Host.Cell} (hw : ({ s with mem := m } : State).MemWf)
    (hb : ∀ a, a < hbmEnd → ({ s with mem := m } : State).byte a = s.byte a) : Plain false U k { s with mem := m } := by
  refine ⟨h.regsWf, hw, h.serves, h.pan, h.wcb, h.clearing, h.guarded, h.met, h.poison, fun l hl => ⟨(h.lines l hl).1, ?_⟩, h.room⟩
  have hleft := (h.lines l hl).2
  refine { hleft with copy := fun e => (hleft.copy e).trans (List.map_congr_left fun i hi => (hb _ ?_).symm) }
  have := hleft.inside
  have := List.mem_range.mp hi
  omega

theorem hbmEnd_le_tileAddr (l o : Nat) : hbmEnd ≤ tileAddr l o := by unfold hbmEnd tileAddr tileBase; omega

/-- Tile memory cleared. -/
theorem clearTm_plain (h : Plain false U k s) (l : Nat) : Plain false U k (clearTm l s) ∧ Loads W s (clearTm l s) ∧ (clearTm l s).acc = s.acc ∧
    ∀ a, (clearTm l s).byte a = if tileAddr l 0 ≤ a ∧ a < tileAddr l 0x400000 then 0 else s.byte a := by
  have hb (a : Nat) : (clearTm l s).byte a = if tileAddr l 0 ≤ a ∧ a < tileAddr l 0x400000 then 0 else s.byte a := by
    refine (Store.lookup_clear h.memWf (fun a => tileAddr l 0 ≤ a && a < tileAddr l tileBytes) a).trans ?_
    simp only [Bool.and_eq_true, decide_eq_true_eq]
    rfl
  have heq : ∃ m, clearTm l s = { s with mem := m } := ⟨_, by
    unfold clearTm
    dsimp only
    rw [h.poison, List.filter_nil, ← h.poison]⟩
  have hw := keepsMem_clearTm l s h.memWf
  obtain ⟨m, hm⟩ := heq
  rw [hm] at hb hw ⊢
  refine ⟨h.withMem hw fun a ha => ?_, ⟨⟨_, m, _, _, _, _, _, rfl⟩, fun _ _ => rfl⟩, rfl, hb⟩
  have := hbmEnd_le_tileAddr l 0
  rw [hb, if_neg (by omega)]

/-- `n` lines of an image read into tile memory. -/
theorem restoreTm_plain {l base : Nat} (ha : base % 64 = 0) (n : Nat) (hin : base + 64 * n ≤ hbmEnd) (hU : ∀ b, base ≤ b → b < base + 64 * n → ¬ U b)
    (h : Plain false U (k + 2 * n) s) :
    Plain false (fun b => U b ∨ (base ≤ b ∧ b < base + 64 * n)) k (restoreTm l base n s) ∧ Loads W s (restoreTm l base n s) ∧
    (restoreTm l base n s).acc = s.acc ∧
    ∀ a, (restoreTm l base n s).byte a = if tileAddr l 0 ≤ a ∧ a < tileAddr l (64 * n) then s.byte (base + (a - tileAddr l 0)) else s.byte a := by
  unfold restoreTm
  induction n generalizing k with
  | zero => exact ⟨h.mono (fun _ e => .inl e) (by omega), .refl _ _, rfl, fun a => by rw [Nat.mul_zero, if_neg (by omega)]; rfl⟩
  | succ n ih =>
    obtain ⟨hp, hld, hacc, hb⟩ := ih (k := k + 2) (by omega) (fun b h1 h2 => hU b h1 (by omega)) (h.mono (fun _ e => e) (by omega))
    rw [List.range_succ, forEach_append, forEach_cons, forEach_nil]
    generalize forEach (List.range n) _ s = t at hp hld hacc hb ⊢
    obtain ⟨u, hu, hp', hm'⟩ := readLine_plain hp (la := base + 64 * n)
      (by rintro (e | ⟨-, e⟩); exact hU _ (by omega) (by omega) e; omega) (by omega) (by omega)
    rw [hu]
    dsimp only
    rw [if_neg (by decide)]
    have hmem := hm'.clean rfl
    have hset (a : Nat) : (setRaw (tileAddr l (64 * n)) (t.rawBytes (base + 64 * n) 64) u).byte a =
        if tileAddr l (64 * n) ≤ a ∧ a < tileAddr l (64 * n) + 64 then (t.rawBytes (base + 64 * n) 64).getD (a - tileAddr l (64 * n)) 0 else t.byte a := by
      rw [byte_setRaw hp'.memWf, length_rawBytes]
      unfold State.byte
      rw [hmem]
    have hw := keepsMem_setRaw (tileAddr l (64 * n)) (t.rawBytes (base + 64 * n) 64) u hp'.memWf
    obtain ⟨m, hm⟩ := setRaw_mem (tileAddr l (64 * n)) (t.rawBytes (base + 64 * n) 64) u
    rw [hm] at hset hw ⊢
    have hge := hbmEnd_le_tileAddr l (64 * n)
    refine ⟨(hp'.withMem hw fun a ha => ?_).mono (fun x hx => ?_) (Nat.le_refl _), hld.trans (hm'.loads.trans ⟨⟨_, m, _, _, _, _, _, rfl⟩, fun _ _ => rfl⟩),
      (show u.acc = t.acc by obtain ⟨_, _, _, _, e⟩ := hm'.eq; rw [e]).trans hacc, fun a => ?_⟩
    · rw [hset, if_neg (by omega)]
      unfold State.byte
      rw [hmem]
    · rcases hx with (e | ⟨e1, e2⟩) | e
      · exact .inl e
      · exact .inr ⟨e1, by omega⟩
      · exact .inr ⟨by omega, by omega⟩
    · have h0 : tileAddr l (64 * n) = tileAddr l 0 + 64 * n := by unfold tileAddr; omega
      have h1 : tileAddr l (64 * (n + 1)) = tileAddr l 0 + 64 * n + 64 := by unfold tileAddr; omega
      have h2 := hbmEnd_le_tileAddr l 0
      rw [hset, h0, h1]
      by_cases hn : tileAddr l 0 + 64 * n ≤ a ∧ a < tileAddr l 0 + 64 * n + 64
      · have hlt : a - (tileAddr l 0 + 64 * n) < 64 := by omega
        have hsrc : base + 64 * n + (a - (tileAddr l 0 + 64 * n)) = base + (a - tileAddr l 0) := by omega
        rw [if_pos hn, if_pos (by omega)]
        simp only [State.rawBytes, List.getD_eq_getElem?_getD, List.getElem?_map, List.getElem?_range hlt, Option.map_some, Option.getD_some, hsrc]
        rw [hb, if_neg (by omega)]
      · rw [if_neg hn, hb, h0]
        by_cases hin' : tileAddr l 0 ≤ a ∧ a < tileAddr l 0 + 64 * n
        · rw [if_pos hin', if_pos (by omega)]
        · rw [if_neg hin', if_neg (by omega)]

end Sys2Proof.Machine
end

section
/-! PLACEMENT_DONE: the registers, stacks and memory of a tile restored from its image (R100, R482). -/
namespace Sys2Proof.Machine

variable {s t u : State} {U V W : Nat → Prop} {k n c p base : Nat}

/-! ### The register groups -/

/-- A register that the groups of an image restore: the generator, and the architectural registers. -/
def GroupReg (p a : Nat) : Prop := Reg.TILE_RNG_KEY p ≤ a ∧ a < Reg.TILE_CTRL p + 0xA000

theorem GroupReg.inTile {a : Nat} (h : GroupReg p a) : inTile p a = true := by
  unfold GroupReg Reg.TILE_RNG_KEY at h
  unfold Machine.inTile
  simp only [Bool.and_eq_true, decide_eq_true_eq]
  unfold Reg.TILE_CTRL at *
  omega

theorem not_pathReg_of_inTile {a : Nat} (h : inTile p a = true) : ¬ PathReg a := by
  unfold inTile Reg.TILE_CTRL at h
  simp only [Bool.and_eq_true, decide_eq_true_eq] at h
  unfold PathReg Reg.MEM_STATUS Reg.PAN_RESERVE
  omega

/-- The generator, and the scalar, address and predicate registers that `live` records. -/
def restoreScalars (p live : Nat) (h : List Byte) (s : State) : State :=
  let s := forEach [(Reg.TILE_RNG_KEY p, 0x20), (Reg.TILE_RNG_CTR_LO p, 0x28), (Reg.TILE_RNG_CTR_HI p, 0x30)]
    (fun x => setR x.1 (BitVec.ofNat 64 (field h x.2 8))) s
  let s := when (bit live 0) (forEach (List.range 31) fun i =>
    setR (Reg.TILE_SREG p (i + 1)) (BitVec.ofNat 64 (field h (0x100 + 8 * i) 8))) s
  let s := when (bit live 1) (forEach (List.range 16) fun i =>
    setR (Reg.TILE_AREG p i) (BitVec.ofNat 64 (field h (0x1F8 + 8 * i) 8))) s
  when (bit live 2) (put (Reg.TILE_PREG p) ⟨7, 1⟩ (field h 0x278 8 / 2)) s

/-- One vector register that `live` records. -/
def restoreVreg (p base live n : Nat) (s : State) : State :=
  if bit live (3 + n / 8) then
    let (s, d) := imageBytes (base + 0x402000 + 1024 * n) 1024 s
    setVreg p n d s
  else s

/-- One accumulator bank that `live` records. -/
def restoreBank (p base live b : Nat) (s : State) : State :=
  if bit live (7 + b) then
    let (s, d) := imageBytes (base + 0x410000 + 65536 * b) 65536 s
    forEach (List.range 16384) (fun k => setAcc p b (k / 128) (k % 128) (BitVec.ofNat 32 (field d (4 * k) 4))) s
  else s

theorem restoreGroups_eq (p base : Nat) (h : List Byte) (s : State) : restoreGroups p base h s =
    forEach (List.range 4) (restoreBank p base (bits (field h 16 8) 15 0))
      (forEach (List.range 32) (restoreVreg p base (bits (field h 16 8) 15 0)) (restoreScalars p (bits (field h 16 8) 15 0) h s)) := rfl

theorem touches_restoreScalars (p live : Nat) (h : List Byte) (s : State) : Touches (GroupReg p) s (restoreScalars p live h s) := by
  have hsreg (i : Nat) (hi : i < 32) : GroupReg p (Reg.TILE_SREG p i) := by
    unfold GroupReg Reg.TILE_RNG_KEY Reg.TILE_SREG Reg.TILE_CTRL; omega
  have hareg (i : Nat) (hi : i < 16) : GroupReg p (Reg.TILE_AREG p i) := by
    unfold GroupReg Reg.TILE_RNG_KEY Reg.TILE_AREG Reg.TILE_CTRL; omega
  have hrng : ∀ x ∈ [(Reg.TILE_RNG_KEY p, 0x20), (Reg.TILE_RNG_CTR_LO p, 0x28), (Reg.TILE_RNG_CTR_HI p, 0x30)], GroupReg p x.1 := by
    simp only [List.forall_mem_cons, GroupReg, Reg.TILE_RNG_KEY, Reg.TILE_RNG_CTR_LO, Reg.TILE_RNG_CTR_HI, Reg.TILE_CTRL]
    refine ⟨by omega, by omega, by omega, fun _ h => nomatch h⟩
  have hpreg : GroupReg p (Reg.TILE_PREG p) := by unfold GroupReg Reg.TILE_RNG_KEY Reg.TILE_PREG Reg.TILE_CTRL; omega
  exact (((touches_forEach (fun x hx t => touches_setR (hrng x hx) _ t) s).trans
    (touches_when (fun t => touches_forEach (fun i hi t => touches_setR (hsreg (i + 1) (by have := List.mem_range.mp hi; omega)) _ t) t) _)).trans
    (touches_when (fun t => touches_forEach (fun i hi t => touches_setR (hareg i (List.mem_range.mp hi)) _ t) t) _)).trans
    (touches_when (fun t => touches_put hpreg _ _ t) _)

/-- The scalar and address registers that an image records. -/
theorem restoreScalars_spec (hs : s.RegsWf) (p : Nat) {live : Nat} (h0 : bit live 0 = true) (h1 : bit live 1 = true) (h : List Byte) :
    (∀ n, n < 31 → (restoreScalars p live h s).reg (Reg.TILE_SREG p (n + 1)) = BitVec.ofNat 64 (field h (0x100 + 8 * n) 8)) ∧
    ∀ n, n < 16 → (restoreScalars p live h s).reg (Reg.TILE_AREG p n) = BitVec.ofNat 64 (field h (0x1F8 + 8 * n) 8) := by
  unfold restoreScalars
  extract_lets v1 v2 v3
  have hv1 : v1.RegsWf := (touches_forEach (W := fun _ => True) (fun x _ t => touches_setR trivial _ t) s).regsWf hs
  have hv2 : Touches (fun a => ∃ i, i < 31 ∧ a = Reg.TILE_SREG p (i + 1)) v1 v2 :=
    touches_when (fun t => touches_forEach (fun i hi t => touches_setR ⟨i, List.mem_range.mp hi, rfl⟩ _ t) t) _
  have hv3 : Touches (fun a => ∃ i, i < 16 ∧ a = Reg.TILE_AREG p i) v2 v3 :=
    touches_when (fun t => touches_forEach (fun i hi t => touches_setR ⟨i, List.mem_range.mp hi, rfl⟩ _ t) t) _
  have hlast : Touches (fun a => a = Reg.TILE_PREG p) v3 (when (bit live 2) (put (Reg.TILE_PREG p) ⟨7, 1⟩ (field h 0x278 8 / 2)) v3) :=
    touches_when (fun t => touches_put (W := fun a => a = Reg.TILE_PREG p) rfl _ _ t) _
  have hw2 := hv2.regsWf hv1
  have hw3 := hv3.regsWf hw2
  constructor
  · intro n hn
    rw [hlast.reg hw3 (by unfold Reg.TILE_SREG Reg.TILE_PREG; omega),
      hv3.reg hw2 (by rintro ⟨i, hi, e⟩; unfold Reg.TILE_SREG Reg.TILE_AREG at e; omega)]
    show (when (bit live 0) _ v1).reg _ = _
    rw [h0, when_true]
    exact reg_forEach_setR (off := fun i => Reg.TILE_SREG p (i + 1)) (fun i j e => by simp only [Reg.TILE_SREG] at e; omega)
      (fun i => BitVec.ofNat 64 (field h (0x100 + 8 * i) 8)) List.nodup_range (List.mem_range.mpr hn) hv1
  · intro n hn
    rw [hlast.reg hw3 (by unfold Reg.TILE_AREG Reg.TILE_PREG; omega)]
    show (when (bit live 1) _ v2).reg _ = _
    rw [h1, when_true]
    exact reg_forEach_setR (off := fun i => Reg.TILE_AREG p i) (fun i j e => by simp only [Reg.TILE_AREG] at e; omega)
      (fun i => BitVec.ofNat 64 (field h (0x1F8 + 8 * i) 8)) List.nodup_range (List.mem_range.mpr hn) hw2

/-- A vector register read from its lines. -/
theorem restoreVreg_plain (ha : base % 64 = 0) (hn : n < 32) (hin : base + 0x480000 ≤ hbmEnd) (live : Nat)
    (h : Plain false (· < base + 0x402000 + 1024 * n) (k + 32) s) :
    Plain false (· < base + 0x402000 + 1024 * (n + 1)) k (restoreVreg p base live n s) ∧
    Loads (fun a => ∃ i, i < 4096 ∧ a = Reg.TILE_VREG p i) s (restoreVreg p base live n s) ∧ (restoreVreg p base live n s).mem = s.mem := by
  unfold restoreVreg
  split
  · obtain ⟨t, ht, hp, hm⟩ := imageBytes_plain (a := base + 0x402000 + 1024 * n) (by omega) 16 (by omega) (fun b h1 _ => by omega) h
    have hset := touches_setVreg p n (s.rawBytes (base + 0x402000 + 1024 * n) (64 * 16)) t
    rw [show (1024 : Nat) = 64 * 16 from rfl] at *
    rw [ht]
    dsimp only
    refine ⟨(hp.congr (hset.regsWf hp.regsWf) ?_ ?_ ?_ fun a ha => hset.reg hp.regsWf ?_).mono (fun x hx => by omega) (Nat.le_refl _),
      hm.loads.trans ((hset.mono fun _ ⟨i, hi, e⟩ => ⟨_, by omega, e⟩).loads hp.regsWf), ?_⟩
    · obtain ⟨⟨_, _, _, e⟩, -⟩ := hset; rw [e]
    · obtain ⟨⟨_, _, _, e⟩, -⟩ := hset; rw [e]
    · obtain ⟨⟨_, _, _, e⟩, -⟩ := hset; rw [e]
    · rintro ⟨i, -, e⟩
      unfold PathReg Reg.MEM_STATUS Reg.PAN_RESERVE at ha
      unfold Reg.TILE_VREG at e
      omega
    · obtain ⟨⟨_, _, _, e⟩, -⟩ := hset
      rw [e]
      exact hm.clean rfl
  · exact ⟨h.mono (fun x hx => by omega) (by omega), .refl _ _, rfl⟩

/-- An accumulator bank read from its lines. -/
theorem restoreBank_plain {b : Nat} (ha : base % 64 = 0) (hb : b < 4) (hin : base + 0x480000 ≤ hbmEnd) (live : Nat)
    (h : Plain false (· < base + 0x410000 + 65536 * b) (k + 2048) s) :
    Plain false (· < base + 0x410000 + 65536 * (b + 1)) k (restoreBank p base live b s) ∧
    Loads (fun _ => False) s (restoreBank p base live b s) ∧ (restoreBank p base live b s).mem = s.mem := by
  unfold restoreBank
  split
  · obtain ⟨t, ht, hp, hm⟩ := imageBytes_plain (a := base + 0x410000 + 65536 * b) (by omega) 1024 (by omega) (fun b h1 _ => by omega) h
    rw [show (65536 : Nat) = 64 * 1024 from rfl] at *
    rw [ht]
    dsimp only
    obtain ⟨x, hx⟩ : ∃ x, forEach (List.range 16384) (fun k => setAcc p b (k / 128) (k % 128)
        (BitVec.ofNat 32 (field (s.rawBytes (base + 0x410000 + 64 * 1024 * b) (64 * 1024)) (4 * k) 4))) t = { t with acc := x } :=
      forEach_keeps (fun u => ∃ x, u = { t with acc := x }) _ _ (by rintro k - u ⟨x, rfl⟩; exact ⟨_, rfl⟩) t ⟨_, rfl⟩
    rw [hx]
    exact ⟨(hp.congr (t := { t with acc := x }) hp.regsWf rfl rfl rfl fun _ _ => rfl).mono (fun x hx => by omega) (Nat.le_refl _),
      hm.loads.trans ⟨⟨_, _, x, _, _, _, _, rfl⟩, fun _ _ => rfl⟩, hm.clean rfl⟩
  · exact ⟨h.mono (fun x hx => by omega) (by omega), .refl _ _, rfl⟩

/-- The groups that an image records: where nothing from the vector registers on has been read, they are read and nothing else changes. -/
theorem restoreGroups_plain (ha : base % 64 = 0) (hin : base + 0x480000 ≤ hbmEnd) (h : List Byte) (hp : Plain false (· < base + 0x402000) (2 ^ 14) s) :
    Loads (GroupReg p) s (restoreGroups p base h s) ∧ (restoreGroups p base h s).RegsWf ∧ (restoreGroups p base h s).mem = s.mem ∧
    (bit (field h 16 8) 0 = true → bit (field h 16 8) 1 = true →
      (∀ n, n < 31 → (restoreGroups p base h s).reg (Reg.TILE_SREG p (n + 1)) = BitVec.ofNat 64 (field h (0x100 + 8 * n) 8)) ∧
      ∀ n, n < 16 → (restoreGroups p base h s).reg (Reg.TILE_AREG p n) = BitVec.ofNat 64 (field h (0x1F8 + 8 * n) 8)) := by
  rw [restoreGroups_eq]
  have hbit (i : Nat) (hi : i < 16) (e : bit (field h 16 8) i = true) : bit (bits (field h 16 8) 15 0) i = true := by
    unfold bit bits at *
    rw [Nat.shiftRight_zero, Nat.testBit_mod_two_pow, e, Bool.and_true]
    exact decide_eq_true hi
  generalize bits (field h 16 8) 15 0 = live at hbit
  have ht := touches_restoreScalars p live h s
  have hscalars := fun h0 h1 => restoreScalars_spec (live := live) hp.regsWf p h0 h1 h
  generalize restoreScalars p live h s = v at ht hscalars
  have hpv : Plain false (· < base + 0x402000) (2 ^ 14) v := by
    refine hp.congr (ht.regsWf hp.regsWf) ?_ ?_ ?_ fun a ha => ht.reg hp.regsWf fun e => not_pathReg_of_inTile e.inTile ha
    all_goals obtain ⟨⟨_, _, _, e⟩, -⟩ := ht; rw [e]
  have hmem : v.mem = s.mem := by obtain ⟨⟨_, _, _, e⟩, -⟩ := ht; rw [e]
  have hvregs (m : Nat) (hm : m ≤ 32) : ∀ k, Plain false (· < base + 0x402000) (k + 32 * m) v →
      Plain false (· < base + 0x402000 + 1024 * m) k (forEach (List.range m) (restoreVreg p base live) v) ∧
      Loads (fun a => ∃ i, i < 4096 ∧ a = Reg.TILE_VREG p i) v (forEach (List.range m) (restoreVreg p base live) v) ∧
      (forEach (List.range m) (restoreVreg p base live) v).mem = v.mem := by
    induction m with
    | zero => exact fun k h => ⟨h, .refl _ _, rfl⟩
    | succ m ih =>
      intro k h
      obtain ⟨h1, h2, h3⟩ := ih (by omega) (k + 32) (h.mono (fun _ e => e) (by omega))
      obtain ⟨g1, g2, g3⟩ := restoreVreg_plain (p := p) ha (by omega) hin live h1
      rw [List.range_succ, forEach_append]
      exact ⟨g1, h2.trans g2, g3.trans h3⟩
  obtain ⟨hp1, hl1, hm1⟩ := hvregs 32 (by omega) (2 ^ 13) (hpv.mono (fun _ e => e) (by norm_num))
  generalize forEach (List.range 32) (restoreVreg p base live) v = w at hp1 hl1 hm1
  have hbanks (m : Nat) (hm : m ≤ 4) : ∀ k, Plain false (· < base + 0x410000) (k + 2048 * m) w →
      Plain false (· < base + 0x410000 + 65536 * m) k (forEach (List.range m) (restoreBank p base live) w) ∧
      Loads (fun _ => False) w (forEach (List.range m) (restoreBank p base live) w) ∧
      (forEach (List.range m) (restoreBank p base live) w).mem = w.mem := by
    induction m with
    | zero => exact fun k h => ⟨h, .refl _ _, rfl⟩
    | succ m ih =>
      intro k h
      obtain ⟨h1, h2, h3⟩ := ih (by omega) (k + 2048) (h.mono (fun _ e => e) (by omega))
      obtain ⟨g1, g2, g3⟩ := restoreBank_plain (p := p) ha (by omega) hin live h1
      rw [List.range_succ, forEach_append]
      exact ⟨g1, h2.trans g2, g3.trans h3⟩
  obtain ⟨hp2, hl2, hm2⟩ := hbanks 4 (by omega) 0 (hp1.mono (fun x e => by omega) (by norm_num))
  have hvreg (a : Nat) : (∃ i, i < 4096 ∧ a = Reg.TILE_VREG p i) → GroupReg p a := by
    rintro ⟨i, hi, e⟩
    unfold GroupReg Reg.TILE_RNG_KEY Reg.TILE_CTRL
    unfold Reg.TILE_VREG at e
    omega
  refine ⟨(ht.loads hp.regsWf).trans ((hl1.mono hvreg).trans (hl2.mono fun _ e => e.elim)), hp2.regsWf, (hm2.trans hm1).trans hmem, fun h0 h1 => ?_⟩
  obtain ⟨hs, ha'⟩ := hscalars (hbit 0 (by decide) h0) (hbit 1 (by decide) h1)
  have hkeep {a : Nat} (hv : ∀ i < 4096, a ≠ Reg.TILE_VREG p i) (hm : ¬ IsHitMiss a) :
      (forEach (List.range 4) (restoreBank p base live) w).reg a = v.reg a := by
    rw [hl2.regs a (by rintro (e | e); exact e; exact hm e), hl1.regs a]
    rintro (⟨i, hi, e⟩ | e)
    · exact hv i hi e
    · exact hm e
  have hbig {a : Nat} (ha : 0x1000000 ≤ a) : ¬ IsHitMiss a := by
    rintro ⟨j, hj, e | e⟩
    · rw [e] at ha; unfold Reg.BC_H_HIT at ha; omega
    · rw [e] at ha; unfold Reg.BC_H_MISS at ha; omega
  refine ⟨fun n hn => ?_, fun n hn => ?_⟩
  · rw [hkeep (fun i hi => by unfold Reg.TILE_SREG Reg.TILE_VREG; omega) (hbig (by unfold Reg.TILE_SREG; omega)), hs n hn]
  · rw [hkeep (fun i hi => by unfold Reg.TILE_AREG Reg.TILE_VREG; omega) (hbig (by unfold Reg.TILE_AREG; omega)), ha' n hn]

end Sys2Proof.Machine
end

section
namespace Sys2Proof.Machine

variable {s t u : State} {U V W : Nat → Prop} {k n c p base : Nat}

/-! ### A tile placed -/

/-- What steps of a placement leave: everything but the registers of `W`, memory, the accumulators, what tiles remember, the base cache
and the trace. -/
structure Places (W : Nat → Prop) (s t : State) : Prop where
  regsWf : t.RegsWf
  eq : ∃ r m x y c o n e, t = { s with regs := r, mem := m, acc := x, tiles := y, path := { s.path with cache := c, order := o }, posted := n, out := e }
  regs : ∀ a, ¬ W a → t.reg a = s.reg a

/-- A register that a placement of tile `p` writes: one of the tile's, or a counter of hits or misses. -/
def PlaceReg (p a : Nat) : Prop := inTile p a = true ∨ IsHitMiss a

theorem Places.trans (h : Places W s t) (g : Places W t u) : Places W s u := by
  obtain ⟨r, m, x, y, c, o, n, e, ht⟩ := h.eq
  obtain ⟨r', m', x', y', c', o', n', e', hu⟩ := g.eq
  exact ⟨g.regsWf, ⟨r', m', x', y', c', o', n', e', by rw [hu, ht]⟩, fun a ha => (g.regs a ha).trans (h.regs a ha)⟩

theorem Places.mono (h : Places W s t) (hV : ∀ a, W a → V a) : Places V s t := ⟨h.regsWf, h.eq, fun a ha => h.regs a fun e => ha (hV a e)⟩

theorem Loads.places (h : Loads W s t) (hr : t.RegsWf) : Places (fun a => W a ∨ IsHitMiss a) s t := by
  obtain ⟨r, m, x, c, o, n, e, ht⟩ := h.eq
  exact ⟨hr, ⟨r, m, x, _, c, o, n, e, ht⟩, h.regs⟩

theorem places_put (hr : s.RegsWf) {r : Nat} (hp : W r) (f : Fld) (v : Nat) : Places W s (put r f v s) :=
  ⟨RegsWf_put hr _ _ _, ⟨_, _, _, _, _, _, _, _, rfl⟩, fun _ ha => reg_put_ne hr _ _ fun e => ha (e ▸ hp)⟩

theorem places_setTile (hr : s.RegsWf) (p : Nat) (x : TileState) : Places W s (setTile p x s) := ⟨hr, ⟨_, _, _, _, _, _, _, _, rfl⟩, fun _ _ => rfl⟩

theorem Places.fld (h : Places W s t) {a : Nat} (ha : ¬ W a) (f : Fld) : t.fld a f = s.fld a f := by
  rw [State.fld, h.regs a ha, State.fld]

/-- A register below the tiles and outside the base caches is touched by no placement. -/
theorem not_placeReg {a : Nat} (h : a < 0x1C0000) : ¬ PlaceReg p a := by
  rintro (e | ⟨j, hj, e | e⟩)
  · unfold inTile Reg.TILE_CTRL at e
    simp only [Bool.and_eq_true, decide_eq_true_eq] at e
    omega
  · rw [e] at h; unfold Reg.BC_H_HIT at h; omega
  · rw [e] at h; unfold Reg.BC_H_MISS at h; omega

theorem inTile_of {o : Nat} (h : o < 0x10000) : inTile p (Reg.TILE_CTRL p + o) = true := by
  unfold inTile Reg.TILE_CTRL
  simp only [Bool.and_eq_true, decide_eq_true_eq]
  omega

theorem inTile_regs (p : Nat) : inTile p (Reg.TILE_PROG p) = true ∧ inTile p (Reg.TILE_CTX p) = true ∧ inTile p (Reg.TILE_PC p) = true ∧
    inTile p (Reg.TILE_STATUS p) = true := by
  unfold inTile Reg.TILE_PROG Reg.TILE_CTX Reg.TILE_PC Reg.TILE_STATUS Reg.TILE_CTRL
  simp only [Bool.and_eq_true, decide_eq_true_eq]
  omega

/-- A tile's architectural state cleared. -/
theorem clearArch_spec (hr : s.RegsWf) (ha : Store.Wf (fun _ => (0 : BitVec 32)) s.acc) (ht : Store.Wf (fun _ => TileState.init) s.tiles) :
    Places (fun a => inTile p a = true) s (clearArch p s) ∧ (clearArch p s).mem = s.mem ∧ (clearArch p s).tile p = TileState.init ∧
    Store.Wf (fun _ => TileState.init) (clearArch p s).tiles ∧
    (∀ n, p < 160 → n < 32 → (clearArch p s).reg (Reg.TILE_SREG p n) = 0) ∧
    ∀ b i j, b < 4 → i < 128 → j < 128 → (clearArch p s).accWord p b i j = 0 := by
  have hreg (a : Nat) : (clearArch p s).reg a = if inTile p a && archOff (a - Reg.TILE_CTRL p) then resetValue a else s.reg a :=
    Store.lookup_clear hr (fun a => inTile p a && archOff (a - Reg.TILE_CTRL p)) a
  have hacc (a : Nat) : Store.lookup (fun _ => (0 : BitVec 32)) (clearArch p s).acc a =
      if decide (a / 65536 = p) then 0 else Store.lookup (fun _ => (0 : BitVec 32)) s.acc a := by
    refine Eq.trans ?_ (Store.lookup_clear ha (fun a => decide (a / 65536 = p)) a)
    congr 1
    exact List.filter_congr fun e _ => by by_cases h : e.1 / 65536 = p <;> simp [h]
  have hw : (clearArch p s).RegsWf := Store.wf_clear hr (fun a => inTile p a && archOff (a - Reg.TILE_CTRL p))
  refine ⟨⟨hw, ⟨_, _, _, _, _, _, _, _, rfl⟩, fun a ha => ?_⟩, rfl, tile_setTile_same _ ht _ _, Store.wf_update ht _ _, fun n hp hn => ?_,
    fun b i j hb hi hj => ?_⟩
  · rw [hreg, if_neg]
    simp only [Bool.and_eq_true]
    exact fun e => ha e.1
  · have hin : inTile p (Reg.TILE_SREG p n) = true := by
      rw [show Reg.TILE_SREG p n = Reg.TILE_CTRL p + (0x1000 + 8 * n) by unfold Reg.TILE_SREG Reg.TILE_CTRL; omega]
      exact inTile_of (by omega)
    have hoff : archOff (Reg.TILE_SREG p n - Reg.TILE_CTRL p) = true := by
      rw [show Reg.TILE_SREG p n - Reg.TILE_CTRL p = 0x1000 + 8 * n by unfold Reg.TILE_SREG Reg.TILE_CTRL; omega]
      unfold archOff
      simp only [Bool.or_eq_true, Bool.and_eq_true, decide_eq_true_eq]
      right; omega
    rw [hreg, hin, hoff]
    exact resetValue_TILE_SREG hp hn
  · rw [State.accWord, hacc, if_pos]
    unfold accKey
    simp only [decide_eq_true_eq]
    omega

/-- The program window and the context shown on a tile whose architectural state has been cleared. -/
def placeHead (c p : Nat) (prog : Word) (s : State) : State :=
  let s := clearArch p s
  let r := Reg.TILE_PROG p
  let s := put r F.TILE_PROG_LIMIT (prog.get F.TILE_PROG_LIMIT / 32 * 32) (put r F.TILE_PROG_BASE (prog.get F.TILE_PROG_BASE / 32 * 32) s)
  let t := Reg.TILE_CTX p
  put t F.TILE_CTX_CONTEXT c (put t F.TILE_CTX_EPOCH (s.epoch c) (put t F.TILE_CTX_PRESENT 1 s))

/-- What a tile shows once it has been placed: its context, and its program window. -/
structure Shows (c p e : Nat) (prog : Word) (t : State) : Prop where
  ctx : t.tileCtx p = some c
  epoch : t.fld (Reg.TILE_CTX p) F.TILE_CTX_EPOCH = e
  prog : ∀ f ∈ [F.TILE_PROG_BASE, F.TILE_PROG_LIMIT], t.fld (Reg.TILE_PROG p) f = Word.get prog f / 32 * 32

theorem placeHead_spec (hr : s.RegsWf) (ha : Store.Wf (fun _ => (0 : BitVec 32)) s.acc) (ht : Store.Wf (fun _ => TileState.init) s.tiles)
    (hc : c < 4096) (prog : Word) :
    let t := placeHead c p prog s
    Places (fun a => inTile p a = true) s t ∧ t.mem = s.mem ∧ t.tile p = TileState.init ∧ Store.Wf (fun _ => TileState.init) t.tiles ∧ Shows c p (s.epoch c) prog t ∧
    (∀ n, p < 160 → n < 32 → t.reg (Reg.TILE_SREG p n) = 0) ∧ ∀ b i j, b < 4 → i < 128 → j < 128 → t.accWord p b i j = 0 := by
  obtain ⟨hpl, hmem, htile, htiles, hsreg, hacc⟩ := clearArch_spec (p := p) hr ha ht
  obtain ⟨hprog, hctx, -, -⟩ := inTile_regs p
  unfold placeHead
  generalize hu : clearArch p s = u at hpl hmem htile htiles hsreg hacc
  extract_lets v0 r v y
  have hru := hpl.regsWf
  have hv0 := places_put (W := fun a => inTile p a = true) hru hprog F.TILE_PROG_BASE (prog.get F.TILE_PROG_BASE / 32 * 32)
  have hv : Places (fun a => inTile p a = true) u v := hv0.trans (places_put hv0.regsWf hprog F.TILE_PROG_LIMIT (prog.get F.TILE_PROG_LIMIT / 32 * 32))
  have hepoch : v.epoch c = s.epoch c := (hpl.trans hv).fld (fun e => not_placeReg (p := p) (by unfold Reg.CTX_CTRL; omega) (.inl e)) _
  have hw1 := places_put (W := fun a => inTile p a = true) hv.regsWf hctx F.TILE_CTX_PRESENT 1
  have hw2 := places_put (W := fun a => inTile p a = true) hw1.regsWf hctx F.TILE_CTX_EPOCH (v.epoch c)
  have hw3 := places_put (W := fun a => inTile p a = true) hw2.regsWf hctx F.TILE_CTX_CONTEXT c
  have hne : Reg.TILE_PROG p ≠ Reg.TILE_CTX p := by unfold Reg.TILE_PROG Reg.TILE_CTX; omega
  have hsne (n : Nat) : Reg.TILE_SREG p n ≠ Reg.TILE_CTX p ∧ Reg.TILE_SREG p n ≠ Reg.TILE_PROG p := by
    unfold Reg.TILE_SREG Reg.TILE_PROG Reg.TILE_CTX; omega
  refine ⟨hpl.trans (hv.trans ((hw1.trans hw2).trans hw3)), hmem, htile, htiles, ⟨?_, ?_, ?_⟩, fun n hp hn => ?_, hacc⟩
  · unfold State.tileCtx State.on
    rw [fld_put_apart hw2.regsWf _ (by decide) (by decide), fld_put_apart hw1.regsWf _ (by decide) (by decide), fld_put_same hv.regsWf _ (by decide),
      fld_put_same hw2.regsWf _ (by decide), if_pos (by decide)]
    exact congrArg some (Nat.mod_eq_of_lt hc)
  · rw [fld_put_apart hw2.regsWf _ (by decide) (by decide), fld_put_same hw1.regsWf _ (by decide), hepoch]
    exact Word.get_mod _ F.CTX_CTRL_EPOCH
  · intro f hf
    rw [fld_put_ne hw2.regsWf _ _ _ hne, fld_put_ne hw1.regsWf _ _ _ hne, fld_put_ne hv.regsWf _ _ _ hne]
    have hsmall (f : Fld) : prog.get f / 32 * 32 % 2 ^ f.width = prog.get f / 32 * 32 :=
      Nat.mod_eq_of_lt (Nat.lt_of_le_of_lt (Nat.div_mul_le_self _ _) (Word.get_lt prog f))
    rcases List.mem_cons.mp hf with rfl | hf
    · rw [fld_put_apart hv0.regsWf _ (by decide) (by decide), fld_put_same hru _ (by decide), hsmall]
    · obtain rfl := List.mem_singleton.mp hf
      rw [fld_put_same hv0.regsWf _ (by decide), hsmall]
  · rw [reg_put_ne hw2.regsWf _ _ (hsne n).1, reg_put_ne hw1.regsWf _ _ (hsne n).1, reg_put_ne hv.regsWf _ _ (hsne n).1,
      reg_put_ne hv0.regsWf _ _ (hsne n).2, reg_put_ne hru _ _ (hsne n).2]
    exact hsreg n hp hn

/-- A tile starts at the base of its program window. -/
theorem restartTile_spec (hr : s.RegsWf) (ht : Store.Wf (fun _ => TileState.init) s.tiles) (hx : s.tile p = TileState.init) {b : Nat}
    (hb : s.fld (Reg.TILE_PROG p) F.TILE_PROG_BASE = b / 32 * 32) :
    let t := restartTile p s
    Places (fun a => inTile p a = true) s t ∧ t.mem = s.mem ∧ t.acc = s.acc ∧ t.tile p = TileState.init ∧ t.tileSt p = TileSt.RUNNING ∧
    t.fld (Reg.TILE_PC p) F.TILE_PC_PC = b / 32 * 32 ∧ ∀ a, a ≠ Reg.TILE_PC p → a ≠ Reg.TILE_STATUS p → t.reg a = s.reg a := by
  obtain ⟨-, -, hpc, hst⟩ := inTile_regs p
  have hlt : s.fld (Reg.TILE_PROG p) F.TILE_PROG_BASE < 2 ^ 22 := Word.get_lt _ F.TILE_PROG_BASE
  have h32 : s.fld (Reg.TILE_PROG p) F.TILE_PROG_BASE % 32 = 0 := by rw [hb]; omega
  have hnext : (setNext p (s.fld (Reg.TILE_PROG p) F.TILE_PROG_BASE) s).RegsWf := RegsWf_put (s := setTile p _ s) hr _ _ _
  have hne : Reg.TILE_PC p ≠ Reg.TILE_STATUS p := by unfold Reg.TILE_PC Reg.TILE_STATUS; omega
  refine ⟨((places_setTile hr _ _).trans (places_put (s := setTile p _ s) hr hpc _ _)).trans (places_put hnext hst _ _), rfl, rfl, ?_, ?_, ?_, fun a h1 h2 => ?_⟩
  · refine (tile_setNext ht p hlt h32).trans ?_
    rw [hx]; rfl
  · exact (fld_put_same hnext _ (by decide) _).trans rfl
  · refine (fld_put_ne hnext _ _ _ hne).trans ((tpc_setNext hr p hlt h32).trans hb)
  · exact (reg_put_ne hnext _ _ h2).trans (reg_put_ne (s := setTile p _ s) hr _ _ h1)

/-- A tile goes on where its image was saved: its stacks, its PC, and HALTED or STOPPED where it was so. -/
def resumeTile (p : Nat) (h : List Byte) (s : State) : State :=
  let frames := imageStacks h
  let s := setNext p (field h 0 8) (setTile p { s.tile p with loops := frames.1, rets := frames.2 } s)
  let st := bits (field h 16 8) 18 16
  setTileSt p (if st = TileSt.HALTED ∨ st = TileSt.STOPPED then st else TileSt.RUNNING) s

theorem resumeTile_spec (hr : s.RegsWf) (ht : Store.Wf (fun _ => TileState.init) s.tiles) (h : List Byte) :
    let t := resumeTile p h s
    Places (fun a => inTile p a = true) s t ∧ t.mem = s.mem ∧
    (field h 0 8 < 2 ^ 22 → field h 0 8 % 32 = 0 → t.fld (Reg.TILE_PC p) F.TILE_PC_PC = field h 0 8) ∧
    t.tileSt p = (if bits (field h 16 8) 18 16 = TileSt.HALTED ∨ bits (field h 16 8) 18 16 = TileSt.STOPPED then bits (field h 16 8) 18 16 else TileSt.RUNNING) ∧
    ((t.tile p).loops, (t.tile p).rets) = imageStacks h ∧ ∀ a, a ≠ Reg.TILE_PC p → a ≠ Reg.TILE_STATUS p → t.reg a = s.reg a := by
  obtain ⟨-, -, hpc, hst⟩ := inTile_regs p
  have hnext : (setNext p (field h 0 8) (setTile p { s.tile p with loops := (imageStacks h).1, rets := (imageStacks h).2 } s)).RegsWf :=
    RegsWf_put (s := setTile p _ (setTile p _ s)) hr _ _ _
  have hwf : Store.Wf (fun _ => TileState.init) (setTile p { s.tile p with loops := (imageStacks h).1, rets := (imageStacks h).2 } s).tiles :=
    Store.wf_update ht _ _
  have hne : Reg.TILE_PC p ≠ Reg.TILE_STATUS p := by unfold Reg.TILE_PC Reg.TILE_STATUS; omega
  refine ⟨(((places_setTile hr _ _).trans (places_setTile (s := setTile p _ s) hr _ _)).trans
    (places_put (s := setTile p _ (setTile p _ s)) hr hpc _ _)).trans (places_put hnext hst _ _), rfl, fun h1 h2 => ?_, ?_, ?_, fun a h1 h2 => ?_⟩
  · exact (fld_put_ne hnext _ _ _ hne).trans (tpc_setNext (s := setTile p _ s) hr p h1 h2)
  · refine (fld_put_same hnext _ (by decide) _).trans (Nat.mod_eq_of_lt ?_)
    split
    · exact Nat.mod_lt _ (by decide)
    · decide
  · have htile (x : Option Nat) : (setTile p { (setTile p { s.tile p with loops := (imageStacks h).1, rets := (imageStacks h).2 } s).tile p with wild := x }
        (setTile p { s.tile p with loops := (imageStacks h).1, rets := (imageStacks h).2 } s)).tile p =
        { s.tile p with loops := (imageStacks h).1, rets := (imageStacks h).2, wild := x } := by
      rw [tile_setTile_same _ hwf, tile_setTile_same _ ht]
    show ((State.tile (setTile p _ (setTile p _ s)) p).loops, (State.tile (setTile p _ (setTile p _ s)) p).rets) = _
    rw [htile]
  · exact (reg_put_ne hnext _ _ h2).trans (reg_put_ne (s := setTile p _ (setTile p _ s)) hr _ _ h1)

end Sys2Proof.Machine
end

section
namespace Sys2Proof.Machine

variable {s t u : State} {U V W : Nat → Prop} {k n c p : Nat}

/-! ### A whole placement -/

theorem Shows.congr {e : Nat} {prog : Word} (h : Shows c p e prog s) (hc : t.reg (Reg.TILE_CTX p) = s.reg (Reg.TILE_CTX p))
    (hp : t.reg (Reg.TILE_PROG p) = s.reg (Reg.TILE_PROG p)) : Shows c p e prog t := by
  refine ⟨?_, ?_, fun f hf => ?_⟩
  · rw [State.tileCtx, State.on, State.fld, State.fld, hc]; exact h.ctx
  · rw [State.fld, hc]; exact h.epoch
  · rw [State.fld, hp]; exact h.prog f hf

/-- The header block of the image of tile `p` for context `c`. -/
def imageHeader (s : State) (c p : Nat) : List Byte := s.rawBytes (s.imageBase c p + 0x400000) 0x280

/-- The 64 byte lines of tile memory that a placement loads: all at the first one, later those that the image records. -/
def imageLines (s : State) (c p : Nat) : Nat :=
  if (s.ctx c).placed then min 65536 (1024 * bits (field (imageHeader s c p) 16 8) 41 20) else 65536

theorem imageLines_le (s : State) (c p : Nat) : imageLines s c p ≤ 65536 := by unfold imageLines; split <;> omega

/-- The tile with its memory loaded, and its context and program window shown. -/
def placeLoaded (s : State) (c p : Nat) : State :=
  placeHead c p (BitVec.ofNat 64 (field (imageHeader s c p) 8 8)) (restoreTm (s.logical p) (s.imageBase c p) (imageLines s c p)
    (clearTm (s.logical p) (imageBytes (s.imageBase c p + 0x400000) 0x280 s).1))

section
variable (hs : s.Sound) (hplain : Plain false (fun _ => False) (2 ^ 20) s) (hin : s.imageBase c p + 0x480000 ≤ hbmEnd)
include hplain hin

/-- The header block read. -/
theorem imageHeader_read : ∃ t, imageBytes (s.imageBase c p + 0x400000) 0x280 s = (t, imageHeader s c p) ∧
    Plain false (fun b => s.imageBase c p + 0x400000 ≤ b ∧ b < s.imageBase c p + 0x400280) 0x80000 t ∧ Moved false s t := by
  have ha := imageBase_aligned s c p
  obtain ⟨t, ht, hp, hm⟩ := imageBytes_plain (a := s.imageBase c p + 0x400000) (by omega) 10 (by omega) (fun _ _ _ => id)
    (hplain.mono (k := 0x80000 + 2 * 10) (fun _ e => e) (by norm_num))
  exact ⟨t, ht, hp.mono (fun x hx => hx.resolve_left id) (Nat.le_refl _), hm⟩

theorem placeTile_eq (hrestart : (s.ctx c).restart = false) : placeTile c p s =
    if (s.ctx c).placed then resumeTile p (imageHeader s c p) (restoreGroups p (s.imageBase c p) (imageHeader s c p) (placeLoaded s c p))
    else restartTile p (placeLoaded s c p) := by
  obtain ⟨t, ht, -, -⟩ := imageHeader_read hplain hin
  have h1 : (imageBytes (s.imageBase c p + 0x400000) 0x280 s).1 = t := by rw [ht]
  -- the definition is opened under its binders: the kernel would otherwise evaluate the read of the header
  refine (congrFun (congrFun (congrFun (show placeTile = _ by delta placeTile; exact rfl) c) p) s).trans ?_
  extract_lets -underBinder x first l base
  have ht' : imageBytes (base + 0x400000) 0x280 s = (t, imageHeader s c p) := ht
  have hx : x.restart = false := hrestart
  have hfirst : first = !(s.ctx c).placed := rfl
  rw [ht', hx, hfirst]
  have hl : s.logical p = l := rfl
  have hb : s.imageBase c p = base := rfl
  unfold placeLoaded imageLines placeHead resumeTile
  rw [h1, hl, hb]
  cases (s.ctx c).placed
  · simp only [Bool.not_false, Bool.false_eq_true, if_true, if_false]
  · simp only [Bool.not_true, Bool.false_eq_true, if_true, if_false]

include hs

/-- What the tile holds once its memory has been loaded. -/
theorem placeLoaded_spec (hc : c < 4096) :
    let u := placeLoaded s c p
    Places (PlaceReg p) s u ∧ Plain false (· < s.imageBase c p + 0x402000) (2 ^ 14) u ∧ u.tile p = TileState.init ∧
    Store.Wf (fun _ => TileState.init) u.tiles ∧ Shows c p (s.epoch c) (BitVec.ofNat 64 (field (imageHeader s c p) 8 8)) u ∧
    (∀ n, p < 160 → n < 32 → u.reg (Reg.TILE_SREG p n) = 0) ∧ (∀ b i j, b < 4 → i < 128 → j < 128 → u.accWord p b i j = 0) ∧
    ∀ a, u.byte a = if tileAddr (s.logical p) 0 ≤ a ∧ a < tileAddr (s.logical p) 0x400000 then
      (if a - tileAddr (s.logical p) 0 < 64 * imageLines s c p then s.byte (s.imageBase c p + (a - tileAddr (s.logical p) 0)) else 0) else s.byte a := by
  have ha := imageBase_aligned s c p
  have hn := imageLines_le s c p
  obtain ⟨t, ht, hp1, hm1⟩ := imageHeader_read hplain hin
  have h1 : (imageBytes (s.imageBase c p + 0x400000) 0x280 s).1 = t := by rw [ht]
  obtain ⟨hp2, hl2, ha2, hb2⟩ := clearTm_plain (W := fun _ => False) hp1 (s.logical p)
  obtain ⟨hp3, hl3, ha3, hb3⟩ := restoreTm_plain (W := fun _ => False) (k := 2 ^ 14) (l := s.logical p) ha (imageLines s c p) (by omega)
    (fun b h1 h2 h3 => by omega) (hp2.mono (fun _ e => e) (by omega))
  unfold placeLoaded
  rw [h1]
  generalize clearTm (s.logical p) t = v at hp2 hl2 ha2 hb2 hp3 hl3 ha3 hb3
  generalize restoreTm (s.logical p) (s.imageBase c p) (imageLines s c p) v = w at hp3 hl3 ha3 hb3
  have hload : Places (PlaceReg p) s w :=
    ((((hm1.loads (W := fun _ => False)).trans hl2).trans hl3).places hp3.regsWf).mono fun a e => .inr (e.resolve_left id)
  have hacc : w.acc = s.acc := by
    obtain ⟨_, _, _, _, e⟩ := hm1.eq
    rw [ha3, ha2, e]
  have htiles : w.tiles = s.tiles := by
    obtain ⟨_, _, _, _, _, _, _, e1⟩ := hl2.eq
    obtain ⟨_, _, _, _, _, _, _, e2⟩ := hl3.eq
    obtain ⟨_, _, _, _, e3⟩ := hm1.eq
    rw [e2, e1, e3]
  have hepoch : w.epoch c = s.epoch c := hload.fld (not_placeReg (by unfold Reg.CTX_CTRL; omega)) _
  obtain ⟨hpl, hmem, htile, htw, hshows, hsreg, hacc0⟩ := placeHead_spec (p := p) hp3.regsWf (by rw [hacc]; exact hs.acc) (by rw [htiles]; exact hs.tiles) hc
    (BitVec.ofNat 64 (field (imageHeader s c p) 8 8))
  rw [hepoch] at hshows
  refine ⟨hload.trans (hpl.mono fun a e => .inl e), ?_, htile, htw, hshows, hsreg, hacc0, fun a => ?_⟩
  · refine (hp3.congr hpl.regsWf hmem rfl rfl fun a ha => hpl.regs a fun e => not_pathReg_of_inTile e ha).mono (fun x hx => ?_) (Nat.le_refl _)
    omega
  · have hsrc (x : Nat) : t.byte x = s.byte x := by unfold State.byte; rw [hm1.clean rfl]
    have h0 := hbmEnd_le_tileAddr (s.logical p) 0
    have h64 : tileAddr (s.logical p) (64 * imageLines s c p) = tileAddr (s.logical p) 0 + 64 * imageLines s c p := by unfold tileAddr; omega
    have h4 : tileAddr (s.logical p) 0x400000 = tileAddr (s.logical p) 0 + 0x400000 := by unfold tileAddr; omega
    have hbyte : (placeHead c p (BitVec.ofNat 64 (field (imageHeader s c p) 8 8)) w).byte a = w.byte a := by unfold State.byte; rw [hmem]
    rw [hbyte, hb3, h64, h4]
    by_cases h : tileAddr (s.logical p) 0 ≤ a ∧ a < tileAddr (s.logical p) 0 + 64 * imageLines s c p
    · rw [if_pos h, if_pos (by omega), if_pos (by omega), hb2, if_neg (by omega), hsrc]
    · rw [if_neg h, hb2, h4]
      by_cases h' : tileAddr (s.logical p) 0 ≤ a ∧ a < tileAddr (s.logical p) 0 + 0x400000
      · rw [if_pos h', if_pos h', if_neg (by omega)]
      · rw [if_neg h', if_neg h', hsrc]

/-- What a placement leaves of tile `p` and of everything else. -/
theorem placeTile_spec (hc : c < 4096) (hrestart : (s.ctx c).restart = false) :
    let t := placeTile c p s
    let h := imageHeader s c p
    Places (PlaceReg p) s t ∧ Shows c p (s.epoch c) (BitVec.ofNat 64 (field h 8 8)) t ∧
    (∀ a, t.byte a = if tileAddr (s.logical p) 0 ≤ a ∧ a < tileAddr (s.logical p) 0x400000 then
      (if a - tileAddr (s.logical p) 0 < 64 * imageLines s c p then s.byte (s.imageBase c p + (a - tileAddr (s.logical p) 0)) else 0) else s.byte a) ∧
    ((s.ctx c).placed = false → t.tileSt p = TileSt.RUNNING ∧ t.tile p = TileState.init ∧
      t.fld (Reg.TILE_PC p) F.TILE_PC_PC = t.fld (Reg.TILE_PROG p) F.TILE_PROG_BASE ∧
      (∀ n, p < 160 → n < 32 → t.reg (Reg.TILE_SREG p n) = 0) ∧ ∀ b i j, b < 4 → i < 128 → j < 128 → t.accWord p b i j = 0) ∧
    ((s.ctx c).placed = true → bit (field h 16 8) 0 = true → bit (field h 16 8) 1 = true → field h 0 8 < 2 ^ 22 → field h 0 8 % 32 = 0 →
      t.fld (Reg.TILE_PC p) F.TILE_PC_PC = field h 0 8 ∧
      t.tileSt p = (if bits (field h 16 8) 18 16 = TileSt.HALTED ∨ bits (field h 16 8) 18 16 = TileSt.STOPPED then bits (field h 16 8) 18 16 else TileSt.RUNNING) ∧
      ((t.tile p).loops, (t.tile p).rets) = imageStacks h ∧
      (∀ n, n < 31 → t.reg (Reg.TILE_SREG p (n + 1)) = BitVec.ofNat 64 (field h (0x100 + 8 * n) 8)) ∧
      ∀ n, n < 16 → t.reg (Reg.TILE_AREG p n) = BitVec.ofNat 64 (field h (0x1F8 + 8 * n) 8)) := by
  have hne : Reg.TILE_CTX p ≠ Reg.TILE_PC p ∧ Reg.TILE_CTX p ≠ Reg.TILE_STATUS p ∧ Reg.TILE_PROG p ≠ Reg.TILE_PC p ∧ Reg.TILE_PROG p ≠ Reg.TILE_STATUS p := by
    unfold Reg.TILE_CTX Reg.TILE_PC Reg.TILE_STATUS Reg.TILE_PROG; omega
  have hsne (n : Nat) : Reg.TILE_SREG p n ≠ Reg.TILE_PC p ∧ Reg.TILE_SREG p n ≠ Reg.TILE_STATUS p := by
    unfold Reg.TILE_SREG Reg.TILE_PC Reg.TILE_STATUS; omega
  have hane (n : Nat) : Reg.TILE_AREG p n ≠ Reg.TILE_PC p ∧ Reg.TILE_AREG p n ≠ Reg.TILE_STATUS p := by
    unfold Reg.TILE_AREG Reg.TILE_PC Reg.TILE_STATUS; omega
  have heq := placeTile_eq hplain hin hrestart
  obtain ⟨hpl, hp, htile, htw, hshows, hsreg, hacc, hb⟩ := placeLoaded_spec hs hplain hin hc
  dsimp only
  rw [heq]
  generalize placeLoaded s c p = u at hpl hp htile htw hshows hsreg hacc hb
  cases hplaced : (s.ctx c).placed with
  | false =>
    rw [if_neg (by decide)]
    obtain ⟨gpl, gmem, gacc, gtile, gst, gpc, gregs⟩ := restartTile_spec hp.regsWf htw htile (hshows.prog _ (List.mem_cons_self ..))
    have hprog := gregs _ hne.2.2.1 hne.2.2.2
    refine ⟨hpl.trans (gpl.mono fun _ e => .inl e), hshows.congr (gregs _ hne.1 hne.2.1) hprog, fun a => ?_,
      fun _ => ⟨gst, gtile, ?_, fun n h1 h2 => ?_, fun b i j h1 h2 h3 => ?_⟩, fun e => nomatch e⟩
    · rw [State.byte, gmem]; exact hb a
    · rw [gpc, State.fld, hprog]; exact (hshows.prog _ (List.mem_cons_self ..)).symm
    · rw [gregs _ (hsne n).1 (hsne n).2]; exact hsreg n h1 h2
    · rw [State.accWord, gacc]; exact hacc b i j h1 h2 h3
  | true =>
    rw [if_pos rfl]
    obtain ⟨ml, mr, mmem, mregs⟩ := restoreGroups_plain (p := p) (imageBase_aligned s c p) hin (imageHeader s c p) hp
    have mtiles : (restoreGroups p (s.imageBase c p) (imageHeader s c p) u).tiles = u.tiles := by
      obtain ⟨_, _, _, _, _, _, _, e⟩ := ml.eq; rw [e]
    have hgroup {a : Nat} (ha : 0x1000000 ≤ a) (hlt : a < Reg.TILE_RNG_KEY p) : ¬ (GroupReg p a ∨ IsHitMiss a) := by
      rintro (e | ⟨j, hj, e | e⟩)
      · exact absurd e.1 (by omega)
      · rw [e] at ha; unfold Reg.BC_H_HIT at ha; omega
      · rw [e] at ha; unfold Reg.BC_H_MISS at ha; omega
    generalize restoreGroups p (s.imageBase c p) (imageHeader s c p) u = v at ml mr mmem mregs mtiles
    obtain ⟨gpl, gmem, gpc, gst, gstacks, gregs⟩ := resumeTile_spec (p := p) mr (by rw [mtiles]; exact htw) (imageHeader s c p)
    refine ⟨hpl.trans (((ml.places mr).mono fun _ e => e.imp GroupReg.inTile id).trans (gpl.mono fun _ e => .inl e)), ?_, fun a => ?_, fun e => (nomatch e),
      fun _ h0 h1 h2 h3 => ⟨gpc h2 h3, gst, gstacks, fun n hn => ?_, fun n hn => ?_⟩⟩
    · refine hshows.congr ?_ ?_
      · rw [gregs _ hne.1 hne.2.1, ml.regs _ (hgroup (by unfold Reg.TILE_CTX; omega) (by unfold Reg.TILE_CTX Reg.TILE_RNG_KEY; omega))]
      · rw [gregs _ hne.2.2.1 hne.2.2.2, ml.regs _ (hgroup (by unfold Reg.TILE_PROG; omega) (by unfold Reg.TILE_PROG Reg.TILE_RNG_KEY; omega))]
    · rw [State.byte, gmem, mmem]; exact hb a
    · rw [gregs _ (hsne _).1 (hsne _).2]; exact (mregs h0 h1).1 n hn
    · rw [gregs _ (hane _).1 (hane _).2]; exact (mregs h0 h1).2 n hn

end

end Sys2Proof.Machine
end

section
namespace Sys2Proof.Machine

variable {s t u : State} {W : Nat → Prop} {c p q : Nat}

/-! ### PLACEMENT_DONE -/

theorem Within.setCtx {k : Nat} {x : CtxExtra} (h : Within W s t) : Within W s (setCtx k x t) := ⟨h.regsWf, h.keeps⟩
theorem Within.setPart {k : Nat} {x : PartState} (h : Within W s t) : Within W s (setPart k x t) := ⟨h.regsWf, h.keeps⟩

/-- Context `c` shown as resident of partition `q` from now on (R483). -/
def becomeResident (q c : Nat) (s : State) : State :=
  let s := setCtx c { s.ctx c with placed := true, wokenUs := none, restart := false } s
  let s := setPart q ⟨s.now, 0, none⟩ (raise (Reg.CTX_STATUS c) F.CTX_STATUS_RESIDENT s)
  let st := Reg.PRT_PSTATUS q
  put st F.PRT_PSTATUS_CONTEXT c (put st F.PRT_PSTATUS_RESIDENT 1 (put st F.PRT_PSTATUS_SWITCHING 0 s))

theorem becomeResident_spec (hr : s.RegsWf) (hc : Store.Wf (fun _ => CtxExtra.init) s.ctxs) (hp : Store.Wf (fun _ => PartState.init) s.parts)
    (hlt : c < 4096) :
    let t := becomeResident q c s
    Within (fun a => a = Reg.CTX_STATUS c ∨ a = Reg.PRT_PSTATUS q) s t ∧ t.resident c = true ∧ t.residentOf q = some c ∧ t.switching q = false ∧
    t.part q = ⟨s.now, 0, none⟩ ∧ t.ctx c = { s.ctx c with placed := true, wokenUs := none, restart := false } ∧
    t.mem = s.mem ∧ t.tiles = s.tiles ∧ t.acc = s.acc ∧ t.stagePorts = s.stagePorts := by
  have hne : Reg.CTX_STATUS c ≠ Reg.PRT_PSTATUS q := by unfold Reg.CTX_STATUS Reg.PRT_PSTATUS; omega
  unfold becomeResident
  extract_lets v0 v w st
  have hv : Within (fun a => a = Reg.CTX_STATUS c ∨ a = Reg.PRT_PSTATUS q) s v := (Within.refl hr).setCtx
  have hw0 : Within (fun a => a = Reg.CTX_STATUS c ∨ a = Reg.PRT_PSTATUS q) s w := (hv.raise (.inl rfl)).setPart
  have hw : w.RegsWf := hw0.regsWf
  have h1 : (put st F.PRT_PSTATUS_SWITCHING 0 w).RegsWf := RegsWf_put hw _ _ _
  have h2 : (put st F.PRT_PSTATUS_RESIDENT 1 (put st F.PRT_PSTATUS_SWITCHING 0 w)).RegsWf := RegsWf_put h1 _ _ _
  refine ⟨((hw0.put (.inr rfl)).put (.inr rfl)).put (.inr rfl), ?_, ?_, ?_, part_setPart_same _ hp _ _, ctx_setCtx_same _ hc _ _, rfl, rfl, rfl, rfl⟩
  · unfold State.resident State.on
    rw [fld_put_ne h2 _ _ _ hne, fld_put_ne h1 _ _ _ hne, fld_put_ne hw _ _ _ hne]
    exact decide_eq_true (by rw [show w.fld (Reg.CTX_STATUS c) F.CTX_STATUS_RESIDENT = 1 from fld_raise_same (s := v) hr _ (by decide)]; decide)
  · unfold State.residentOf State.on
    rw [fld_put_apart h2 _ (by decide) (by decide), fld_put_same h1 _ (by decide), fld_put_same h2 _ (by decide), if_pos (by decide)]
    exact congrArg some (Nat.mod_eq_of_lt hlt)
  · unfold State.switching State.on
    rw [fld_put_apart h2 _ (by decide) (by decide), fld_put_apart h1 _ (by decide) (by decide), fld_put_same hw _ (by decide)]
    rfl

theorem fld_congr_regs (h : t.regs = s.regs) (r : Nat) (f : Fld) : t.fld r f = s.fld r f := by
  unfold State.fld State.reg
  rw [h]

/-- Where no entry is parked at any port, none takes its place. -/
theorem unpark_all (f : Nat → State → Prop) [∀ k s, Decidable (f k s)] (hsp : Store.Wf (fun _ => StagePort.init) s.stagePorts) (h : ∀ k, k < 256 → (s.stagePort k).parked = []) :
    ∃ x, forEach (List.range 256) (fun k s => if f k s then unpark k s else s) s = { s with stagePorts := x } := by
  have hall := forEach_keeps (fun t => (∃ x, t = { s with stagePorts := x }) ∧ Store.Wf (fun _ => StagePort.init) t.stagePorts ∧
      ∀ k, k < 256 → (t.stagePort k).parked = []) (fun k s => if f k s then unpark k s else s) (List.range 256) (fun k hk t => ?_) s ⟨⟨_, rfl⟩, hsp, h⟩
  · exact hall.1
  · rintro ⟨⟨x, rfl⟩, hw, hp⟩
    split
    · have hk := List.mem_range.mp hk
      unfold unpark
      rw [hp k hk, forEach_nil]
      refine ⟨⟨_, rfl⟩, Store.wf_update hw _ _, fun j hj => ?_⟩
      rw [stagePort_setStagePort _ hw]
      split
      · rfl
      · exact hp j hj
    · exact ⟨⟨x, rfl⟩, hw, hp⟩

/-- The end of a placement: the context is resident, no parked entry takes its place, and the switch is counted. -/
def finishPlacement (q c : Nat) (s : State) : State :=
  bump (Reg.PRT_SWITCHES q) (forEach (List.range 256) (fun p s => if s.stgInbound p ∧ s.stgCtx p = c then unpark p s else s) (becomeResident q c s))

theorem finishPlacement_spec (hr : s.RegsWf) (hc : Store.Wf (fun _ => CtxExtra.init) s.ctxs) (hp : Store.Wf (fun _ => PartState.init) s.parts)
    (hsp : Store.Wf (fun _ => StagePort.init) s.stagePorts) (hparked : ∀ k, k < 256 → (s.stagePort k).parked = []) (hlt : c < 4096)
    (hb : s.Below (Reg.PRT_SWITCHES q) 1) :
    let t := finishPlacement q c s
    Within (fun a => a = Reg.CTX_STATUS c ∨ a = Reg.PRT_PSTATUS q ∨ a = Reg.PRT_SWITCHES q) s t ∧ t.resident c = true ∧ t.residentOf q = some c ∧
    t.switching q = false ∧ t.part q = ⟨s.now, 0, none⟩ ∧ t.ctx c = { s.ctx c with placed := true, wokenUs := none, restart := false } ∧
    Counts s t (Reg.PRT_SWITCHES q) 1 ∧ t.mem = s.mem ∧ t.tiles = s.tiles ∧ t.acc = s.acc := by
  obtain ⟨hw, hres, hresOf, hsw, hpart, hctx, hmem, htl, hacc, hst⟩ := becomeResident_spec hr hc hp hlt (q := q)
  unfold finishPlacement
  generalize becomeResident q c s = w at hw hres hresOf hsw hpart hctx hmem htl hacc hst
  obtain ⟨x, hx⟩ := unpark_all (s := w) (fun k s => s.stgInbound k ∧ s.stgCtx k = c) (by rw [hst]; exact hsp)
    fun k hk => by rw [State.stagePort, hst]; exact hparked k hk
  rw [hx]
  have hu : Within (fun a => a = Reg.CTX_STATUS c ∨ a = Reg.PRT_PSTATUS q ∨ a = Reg.PRT_SWITCHES q) s { w with stagePorts := x } :=
    ⟨hw.regsWf, (hw.mono fun a e => by rcases e with e | e <;> simp [e]).keeps⟩
  have hfld : State.fld { w with stagePorts := x } (Reg.PRT_SWITCHES q) ⟨47, 0⟩ = s.fld (Reg.PRT_SWITCHES q) ⟨47, 0⟩ :=
    (fld_congr_regs rfl _ _).trans (hw.fld (by unfold Reg.PRT_SWITCHES Reg.CTX_STATUS Reg.PRT_PSTATUS; omega) _)
  have hbelow : State.Below { w with stagePorts := x } (Reg.PRT_SWITCHES q) 1 := by unfold State.Below; rw [hfld]; exact hb
  have hcounts := fld_bumpBy (s := { w with stagePorts := x }) hw.regsWf hbelow
  rw [hfld] at hcounts
  have hne : Reg.CTX_STATUS c ≠ Reg.PRT_SWITCHES q ∧ Reg.PRT_PSTATUS q ≠ Reg.PRT_SWITCHES q := by
    unfold Reg.PRT_SWITCHES Reg.CTX_STATUS Reg.PRT_PSTATUS; omega
  have hb := bump_of_below hbelow
  have hkeep {a : Nat} (ha : a ≠ Reg.PRT_SWITCHES q) (f : Fld) : (bump (Reg.PRT_SWITCHES q) { w with stagePorts := x }).fld a f = w.fld a f := by
    rw [hb, fld_put_ne (s := { w with stagePorts := x }) hw.regsWf _ _ _ ha]
    exact fld_congr_regs rfl _ _
  refine ⟨?_, ?_, ?_, ?_, ?_, ?_, hcounts, ?_, ?_, ?_⟩
  · rw [hb]; exact hu.put (.inr (.inr rfl))
  · rw [State.resident, State.on, hkeep hne.1]; exact hres
  · rw [State.residentOf, State.on, hkeep hne.2, hkeep hne.2]; exact hresOf
  · rw [State.switching, State.on, hkeep hne.2]; exact hsw
  · rw [hb]; exact hpart
  · rw [hb]; exact hctx
  · rw [hb]; exact hmem
  · rw [hb]; exact htl
  · rw [hb]; exact hacc

/-- A context placed on one tile, that no wake has waited for. -/
theorem placeContext_eq {l : Nat} (h : s.partTiles q = [l]) (hw : ((placeTile c (s.phys l) s).ctx c).wokenUs = none) :
    placeContext q c s = finishPlacement q c (placeTile c (s.phys l) s) := by
  refine (congrFun (congrFun (congrFun (show placeContext = _ by delta placeContext; exact rfl) q) c) s).trans ?_
  extract_lets -underBinder tiles s1 lat late s2 s3 s4 st s5 s6
  have h1 : s1 = placeTile c (s.phys l) s := by
    show forEach ((s.partTiles q).map s.phys) (placeTile c) s = _
    rw [h, List.map_cons, List.map_nil, forEach_cons, forEach_nil]
  have hlate : late = false := by
    simp only [late, h1, hw]
  have h2 : s2 = placeTile c (s.phys l) s := by
    show when late _ s1 = _
    rw [hlate, h1]
    exact when_false _ _
  rw [← h2]
  exact rfl

/-- The next context of a partition starts to be restored, where there is one. -/
theorem startPlacing_spec (hr : s.RegsWf) (hp : Store.Wf (fun _ => PartState.init) s.parts) :
    (startPlacing q s).switching q = (s.nextContext q).isSome ∧ (startPlacing q s).part q = { s.part q with placing := s.nextContext q } ∧
    (startPlacing q s).residentOf q = s.residentOf q ∧ Within (fun a => a = Reg.PRT_PSTATUS q) s (startPlacing q s) := by
  have hfld (f : Fld) (hf : F.PRT_PSTATUS_SWITCHING.Apart f) : (startPlacing q s).fld (Reg.PRT_PSTATUS q) f = s.fld (Reg.PRT_PSTATUS q) f :=
    (fld_putB_apart (s := setPart q _ s) hr _ (by decide) hf _).trans (fld_congr_regs rfl _ _)
  refine ⟨?_, part_setPart_same _ hp _ _, ?_, (Within.refl hr).setPart.putB rfl⟩
  · unfold State.switching State.on startPlacing
    rw [fld_putB_same (s := setPart q _ s) hr _ (by decide)]
    cases s.nextContext q <;> rfl
  · rw [State.residentOf, State.on, hfld _ (by decide), hfld _ (by decide)]
    rfl

theorem startPlacing_none (hs : s.Sound) (h : s.candidates q = []) :
    (startPlacing q s).switching q = false ∧ ((startPlacing q s).part q).placing = none ∧
    Within (fun a => a = Reg.PRT_PSTATUS q) s (startPlacing q s) := by
  obtain ⟨h1, h2, -, h3⟩ := startPlacing_spec (q := q) hs.regs hs.parts
  have hn : s.nextContext q = none := by unfold State.nextContext; rw [h]; rfl
  rw [hn] at h1 h2
  exact ⟨h1, by rw [h2], h3⟩

/-- The header block and the memory that an image records, as reads of bare memory return them. -/
theorem imageHeader_eq (hs : s.Sound) (hbare : s.Bare) (hpoison : s.poison = []) (c p : Nat) :
    imageHeader s c p = s.hbmBytes (s.imageBase c p + 0x400000) 0x280 := by
  have hplain : Plain false (fun _ => False) (2 ^ 20) s := plain_of_bare hs hbare hpoison (by norm_num) fun e => nomatch e
  unfold State.hbmBytes imageHeader State.rawBytes
  simp only [hplain.hbmByte_stored]

theorem imageLines_eq (s : State) (c p : Nat) :
    64 * imageLines s c p = if (s.ctx c).placed then 65536 * min 64 (bits (field (imageHeader s c p) 16 8) 41 20) else 0x400000 := by
  unfold imageLines
  split <;> omega

/-- A placement that ends with nothing to place. -/
theorem placementDone_noEffect (part : Fin 16) (h : (s.part part.val).placing = none ∨ s.memRefuses = true ∨ s.fatal = true) :
    NoEffect (.placementDone part) s := by
  show execPlacementDone part s = _
  unfold execPlacementDone
  dsimp only
  cases hc : (s.part part.val).placing with
  | none => rfl
  | some c =>
    dsimp only
    rw [if_pos]
    rcases h with h | h | h
    · rw [hc] at h; exact nomatch h
    · simp [State.imagesServed, h]
    · simp [h]

section
variable (hs : s.Sound) (part : Fin 16) (hc : (s.part part.val).placing = some c) (hm : s.memRefuses = false) (hf : s.fatal = false)
  (hi : s.imagesServed c = true) (hsw : s.swap = none)
include hc hf hi hsw

theorem execPlacementDone_eq : exec (.placementDone part) s =
    .next (if s.schedulable c then settle (placeContext part.val c s) else startPlacing part.val s) := by
  show execPlacementDone part s = _
  have hswap : (s.partTiles part.val).any s.swapping = false := by simp [State.swapping, hsw]
  unfold execPlacementDone
  dsimp only
  rw [hc]
  dsimp only
  rw [hi, hf, hswap, if_neg (by decide)]

include hs

/-- A context that can no longer be scheduled is not placed, and nothing else is to be. -/
theorem placementDone_none (hsch : s.schedulable c = false) (hcand : s.candidates part.val = []) : Ends (.placementDone part) s fun t =>
    (t.part part.val).placing = none ∧ t.switching part.val = false ∧ KeepsAllBut (fun a => a = Reg.PRT_PSTATUS part.val) s t := by
  obtain ⟨h1, h2, h3⟩ := startPlacing_none hs hcand
  refine ⟨startPlacing part.val s, ?_, h2, h1, h3.keeps⟩
  rw [execPlacementDone_eq part hc hf hi hsw, hsch, if_neg (by decide)]

/-- A context that can be scheduled is placed on the tile of its partition. -/
theorem placementDone_places {l p : Nat} (hsch : s.schedulable c = true) (hlt : c < 4096) (htiles : s.partTiles part.val = [l])
    (hp : s.phys l = p) (hphys : p < 160) (hwoken : (s.ctx c).wokenUs = none) (hrestart : (s.ctx c).restart = false) (hbare : s.Bare)
    (hpoison : s.poison = []) (hparked : ∀ k, k < 256 → (s.stagePort k).parked = []) (hcount : s.Below (Reg.PRT_SWITCHES part.val) 1)
    (hin : s.imageBase c p + 0x480000 ≤ hbmEnd) : Ends (.placementDone part) s fun t =>
      t.resident c = true ∧ t.residentOf part.val = some c ∧ t.switching part.val = false ∧ t.part part.val = ⟨s.now, 0, none⟩ ∧
      t.ctx c = { s.ctx c with placed := true } ∧ Counts s t (Reg.PRT_SWITCHES part.val) 1 ∧
      t.tileCtx p = some c ∧ t.fld (Reg.TILE_CTX p) F.TILE_CTX_EPOCH = s.epoch c ∧
      (∀ f ∈ [F.TILE_PROG_BASE, F.TILE_PROG_LIMIT],
        t.fld (Reg.TILE_PROG p) f = Word.get (BitVec.ofNat 64 (field (imageHeader s c p) 8 8)) f / 32 * 32) ∧
      (∀ a, t.byte a = if tileAddr (s.logical p) 0 ≤ a ∧ a < tileAddr (s.logical p) 0x400000 then
        (if a - tileAddr (s.logical p) 0 < 64 * imageLines s c p then s.byte (s.imageBase c p + (a - tileAddr (s.logical p) 0)) else 0) else s.byte a) ∧
      ((s.ctx c).placed = false → t.tileSt p = TileSt.RUNNING ∧ t.tile p = TileState.init ∧
        t.fld (Reg.TILE_PC p) F.TILE_PC_PC = t.fld (Reg.TILE_PROG p) F.TILE_PROG_BASE ∧
        (∀ n, n < 32 → t.reg (Reg.TILE_SREG p n) = 0) ∧ ∀ b i j, b < 4 → i < 128 → j < 128 → t.accWord p b i j = 0) ∧
      ((s.ctx c).placed = true → bit (field (imageHeader s c p) 16 8) 0 = true → bit (field (imageHeader s c p) 16 8) 1 = true →
        field (imageHeader s c p) 0 8 < 2 ^ 22 → field (imageHeader s c p) 0 8 % 32 = 0 →
        t.fld (Reg.TILE_PC p) F.TILE_PC_PC = field (imageHeader s c p) 0 8 ∧
        t.tileSt p = (if bits (field (imageHeader s c p) 16 8) 18 16 = TileSt.HALTED ∨ bits (field (imageHeader s c p) 16 8) 18 16 = TileSt.STOPPED then
          bits (field (imageHeader s c p) 16 8) 18 16 else TileSt.RUNNING) ∧
        ((t.tile p).loops, (t.tile p).rets) = imageStacks (imageHeader s c p) ∧
        (∀ n, n < 31 → t.reg (Reg.TILE_SREG p (n + 1)) = BitVec.ofNat 64 (field (imageHeader s c p) (0x100 + 8 * n) 8)) ∧
        ∀ n, n < 16 → t.reg (Reg.TILE_AREG p n) = BitVec.ofNat 64 (field (imageHeader s c p) (0x1F8 + 8 * n) 8)) ∧
      OnlyRegs (fun a => inTile p a = true ∨ a = Reg.CTX_STATUS c ∨ a = Reg.PRT_PSTATUS part.val ∨ a = Reg.PRT_SWITCHES part.val ∨ IsHitMiss a) s t := by
  have hq := part.isLt
  have hplain : Plain false (fun _ => False) (2 ^ 20) s := plain_of_bare hs hbare hpoison (by norm_num) fun e => nomatch e
  have hexec := execPlacementDone_eq part hc hf hi hsw
  have hctxEq (x : CtxExtra) (h1 : x.wokenUs = none) (h2 : x.restart = false) : { x with placed := true, wokenUs := none, restart := false } = { x with placed := true } := by
    cases x; dsimp only at h1 h2; rw [h1, h2]
  rw [if_pos hsch] at hexec
  obtain ⟨hpl, hshows, hbytes, hfirst, hlater⟩ := placeTile_spec hs hplain hin hlt hrestart
  have hplace := placeContext_eq (c := c) htiles
  rw [hp] at hplace
  generalize placeTile c p s = v at hpl hshows hbytes hfirst hlater hplace
  obtain ⟨_, _, _, _, _, _, _, _, hv⟩ := hpl.eq
  have hvctx : v.ctx c = s.ctx c := by rw [hv]; rfl
  have hvnow : v.now = s.now := by rw [hv]
  have howed : v.path.owed = [] := by rw [hv]; exact hs.owed
  have hnp : ¬ PlaceReg p (Reg.PRT_SWITCHES part.val) := not_placeReg (by unfold Reg.PRT_SWITCHES; omega)
  have hfld : v.fld (Reg.PRT_SWITCHES part.val) ⟨47, 0⟩ = s.fld (Reg.PRT_SWITCHES part.val) ⟨47, 0⟩ := hpl.fld hnp _
  have hfinish := finishPlacement_spec (s := v) (c := c) (q := part.val) hpl.regsWf (by rw [hv]; exact hs.ctxs) (by rw [hv]; exact hs.parts)
    (by rw [hv]; exact hs.stagePorts) (fun k hk => by rw [hv]; exact hparked k hk) hlt (by unfold State.Below; rw [hfld]; exact hcount)
  rw [hplace (by rw [hvctx]; exact hwoken)] at hexec
  generalize finishPlacement part.val c v = t at hfinish hexec
  obtain ⟨hw, hres, hresOf, hsw', hpart, hctx, hcounts, htmem, httiles, htacc⟩ := hfinish
  rw [settle_of_nothing_owed (by rw [hw.path]; exact howed)] at hexec
  have hreg {a : Nat} (ha : 0x1000000 ≤ a) : t.reg a = v.reg a :=
    hw.reg (by unfold Reg.CTX_STATUS Reg.PRT_PSTATUS Reg.PRT_SWITCHES; omega)
  have hft {a : Nat} (ha : 0x1000000 ≤ a) (f : Fld) : t.fld a f = v.fld a f := by rw [State.fld, hreg ha, State.fld]
  have htile : t.tile p = v.tile p := by rw [State.tile, httiles, State.tile]
  have hctxReg : 0x1000000 ≤ Reg.TILE_CTX p := by unfold Reg.TILE_CTX; omega
  have hprogReg : 0x1000000 ≤ Reg.TILE_PROG p := by unfold Reg.TILE_PROG; omega
  have hpcReg : 0x1000000 ≤ Reg.TILE_PC p := by unfold Reg.TILE_PC; omega
  have hstReg : 0x1000000 ≤ Reg.TILE_STATUS p := by unfold Reg.TILE_STATUS; omega
  have hsregReg (n : Nat) : 0x1000000 ≤ Reg.TILE_SREG p n := by unfold Reg.TILE_SREG; omega
  have haregReg (n : Nat) : 0x1000000 ≤ Reg.TILE_AREG p n := by unfold Reg.TILE_AREG; omega
  obtain ⟨hsctx, hsepoch, hsprog⟩ := hshows.congr (hreg hctxReg) (hreg hprogReg)
  have hst' : t.tileSt p = v.tileSt p := hft hstReg _
  refine ⟨t, hexec, hres, hresOf, hsw', ?_, ?_, ?_, hsctx, hsepoch, hsprog, fun a => ?_, fun e => ?_, fun e e0 e1 e2 e3 => ?_, fun a ha => ?_⟩
  · rw [hpart, hvnow]
  · rw [hctx, hvctx, hctxEq _ hwoken hrestart]
  · exact hcounts.trans (congrArg (· + 1) hfld)
  · rw [State.byte, htmem]; exact hbytes a
  · obtain ⟨h1, h2, h3, h4, h5⟩ := hfirst e
    refine ⟨hst'.trans h1, htile.trans h2, ?_, fun n hn => (hreg (hsregReg n)).trans (h4 n hphys hn), fun b i j hb hi hj => ?_⟩
    · rw [hft hpcReg, hft hprogReg]; exact h3
    · rw [State.accWord, htacc]; exact h5 b i j hb hi hj
  · obtain ⟨h1, h2, h3, h4, h5⟩ := hlater e e0 e1 e2 e3
    refine ⟨(hft hpcReg _).trans h1, hst'.trans h2, ?_, fun n hn => (hreg (hsregReg _)).trans (h4 n hn), fun n hn => (hreg (haregReg n)).trans (h5 n hn)⟩
    rw [htile]; exact h3
  · simp only [not_or] at ha
    obtain ⟨ha1, ha2, ha3, ha4, ha5⟩ := ha
    rw [hw.reg (by simp [ha2, ha3, ha4]), hpl.regs a (by rintro (e | e); exact ha1 e; exact ha5 e)]

end

end Sys2Proof.Machine
end

section
/-! SLICE_END and SAVE_DONE (R483, R485). -/
namespace Sys2Proof.Machine

variable {s t u : State} {W : Nat → Prop} {c q x : Nat}

/-! ### Credits -/

/-- The largest credit, either way. -/
abbrev maxCredit : Int := 2 ^ 47 - 1

theorem signed_of_credit {v : Int} (hlo : -maxCredit ≤ v) (hhi : v ≤ maxCredit) : signed 48 (v % 2 ^ 48).toNat = v := by
  have hnn : 0 ≤ v % 2 ^ 48 := Int.emod_nonneg _ (by decide)
  unfold signed
  rw [BitVec.toInt_ofNat', Int.toNat_of_nonneg hnn, Int.bmod_def]
  unfold maxCredit at hlo hhi
  push_cast
  split <;> omega

/-- A credit within its bounds reads as it was set. -/
theorem credit_setCredit (hr : s.RegsWf) {v : Int} (hlo : -maxCredit ≤ v) (hhi : v ≤ maxCredit) : (setCredit c v s).credit c = v := by
  unfold State.credit setCredit
  extract_lets lim
  have hclamp : max (-lim) (min lim v) = v := by
    rw [min_eq_right hhi, max_eq_right hlo]
  have hlt : (v % 2 ^ 48).toNat < 2 ^ 48 := by omega
  rw [hclamp, fld_put_same hr _ (by decide), show F.CTX_CREDIT_CREDIT.width = 48 from rfl, Nat.mod_eq_of_lt hlt]
  exact signed_of_credit hlo hhi

theorem within_setCredit (hr : s.RegsWf) (v : Int) : Within (fun a => a = Reg.CTX_CREDIT c) s (setCredit c v s) := (Within.refl hr).put rfl

theorem credit_congr (h : t.reg (Reg.CTX_CREDIT c) = s.reg (Reg.CTX_CREDIT c)) : t.credit c = s.credit c := by
  rw [State.credit, State.fld, h]; rfl

/-- What one schedulable context gains of a slice is the whole slice. -/
theorem whole_slice (e : Nat) {n : Nat} (h : 0 < n) : e * n / [n].sum = e := by
  rw [List.sum_singleton, Nat.mul_div_cancel _ h]

/-- The slice of the only schedulable context leaves it its credit. -/
theorem sliceCredits_same (hs : s.Sound) (hc : s.candidates q = [c]) (hshare : 0 < s.share c) (hlo : -maxCredit ≤ s.credit c)
    (hhi : s.credit c + (s.part q).ran ≤ maxCredit) :
    (sliceCredits q c s).credit c = s.credit c ∧ (sliceCredits q c s).part q = { s.part q with ran := 0 } ∧
    Within (fun a => a = Reg.CTX_CREDIT c) s (sliceCredits q c s) := by
  unfold sliceCredits
  rw [hc]
  dsimp only
  rw [List.map_singleton, forEach_cons, forEach_nil, whole_slice _ hshare, List.contains_cons, beq_self_eq_true, Bool.true_or, when_true]
  have h1 := within_setCredit (c := c) hs.regs (s.credit c + (s.part q).ran)
  have hup : (setCredit c (s.credit c + (s.part q).ran) s).credit c = s.credit c + (s.part q).ran := credit_setCredit hs.regs (by omega) hhi
  have h2 := within_setCredit (c := c) h1.regsWf (s.credit c)
  rw [hup, Int.add_sub_cancel]
  refine ⟨?_, part_setPart_same _ hs.parts _ _, (h1.trans h2).setPart⟩
  exact (credit_congr (setPart_reg ..)).trans (credit_setCredit h1.regsWf hlo (by omega))

/-- The slice of a context that is not schedulable goes to the only one that is. -/
theorem sliceCredits_other (hs : s.Sound) (hx : s.candidates q = [x]) (hne : x ≠ c) (hshare : 0 < s.share x) (hlo : -maxCredit ≤ s.credit x)
    (hhi : s.credit x + (s.part q).ran ≤ maxCredit) :
    (sliceCredits q c s).credit x = s.credit x + (s.part q).ran ∧ (sliceCredits q c s).part q = { s.part q with ran := 0 } ∧
    (sliceCredits q c s).parts = (setPart q { s.part q with ran := 0 } s).parts ∧
    Within (fun a => a = Reg.CTX_CREDIT x) s (sliceCredits q c s) := by
  have hcontains : [x].contains c = false := by simp [Ne.symm hne]
  unfold sliceCredits
  rw [hx]
  dsimp only
  rw [List.map_singleton, forEach_cons, forEach_nil, whole_slice _ hshare, hcontains, when_false]
  refine ⟨(credit_congr (setPart_reg ..)).trans (credit_setCredit hs.regs (by omega) hhi), part_setPart_same _ hs.parts _ _, rfl, (within_setCredit hs.regs _).setPart⟩

/-- Without a schedulable context nobody's credit changes. -/
theorem sliceCredits_nobody (h : s.candidates q = []) : sliceCredits q c s = setPart q { s.part q with ran := 0 } s := by
  unfold sliceCredits
  rw [h]
  rfl

/-! ### Preemption -/

/-- Preemption becomes pending on the tiles of a list. -/
theorem tile_forEach_preempt (hw : Store.Wf (fun _ => TileState.init) s.tiles) (l : List Nat) (p : Nat) :
    (forEach l (fun p s => setTile p { s.tile p with preempt := true } s) s).tile p =
      if p ∈ l then { s.tile p with preempt := true } else s.tile p := by
  induction l generalizing s with
  | nil => rfl
  | cons k l ih =>
    rw [forEach_cons, ih (Store.wf_update hw _ _), tile_setTile _ hw]
    by_cases hk : p = k
    · subst hk
      simp
    · simp [hk]

theorem preempt_spec (hs : s.Sound) : (preempt q c s).switching q = true ∧
    (∀ p, (preempt q c s).tile p = if p ∈ s.tilesOf c then { s.tile p with preempt := true } else s.tile p) ∧
    Within (fun a => a = Reg.PRT_PSTATUS q) s (preempt q c s) := by
  have hend : Within (fun a => a = Reg.PRT_PSTATUS q) s (endSlice q s) := (Within.refl hs.regs).put rfl
  have hall : Within (fun a => a = Reg.PRT_PSTATUS q) s (preempt q c s) := hend.forEach fun _ _ _ h => h.setTile
  have hregs : (preempt q c s).regs = (endSlice q s).regs :=
    forEach_keeps (fun t => t.regs = (endSlice q s).regs) (fun p s => setTile p { s.tile p with preempt := true } s) _ (fun _ _ _ h => h) _ rfl
  refine ⟨?_, fun p => tile_forEach_preempt (s := endSlice q s) hs.tiles _ p, hall⟩
  rw [State.switching, State.on, fld_congr_regs hregs, endSlice, fld_put_same hs.regs _ (by decide)]
  rfl

/-! ### The resident context leaves its tiles -/

theorem residentOf_lt (h : s.residentOf q = some c) : c < 4096 := by
  unfold State.residentOf at h
  split at h
  · cases h; exact Word.get_lt _ F.PRT_PSTATUS_CONTEXT
  · cases h

theorem mem_candidates (h : x ∈ s.candidates q) : x < 4096 ∧ s.schedulable x = true ∧ s.ctxPart x = q := by
  unfold State.candidates at h
  obtain ⟨h1, h2⟩ := List.mem_filter.mp h
  simp only [Bool.and_eq_true, beq_iff_eq] at h2
  exact ⟨List.mem_range.mp h1, h2⟩

/-- The candidates of a partition are a matter of what schedules its contexts. -/
theorem candidates_congr (h : ∀ x, x < 4096 → t.schedulable x = s.schedulable x ∧ t.ctxPart x = s.ctxPart x) (q : Nat) :
    t.candidates q = s.candidates q := by
  unfold State.candidates
  refine List.filter_congr fun x hx => ?_
  obtain ⟨h1, h2⟩ := h x (List.mem_range.mp hx)
  rw [h1, h2]

/-- The resident context is resident no more. -/
def vacate (q c : Nat) (s : State) : State := put (Reg.CTX_STATUS c) F.CTX_STATUS_RESIDENT 0 (put (Reg.PRT_PSTATUS q) F.PRT_PSTATUS_RESIDENT 0 s)

theorem leaveTiles_eq (q c : Nat) (s : State) : leaveTiles q c s = startPlacing q (vacate q c (sliceCredits q c s)) := rfl

theorem vacate_parts (q c : Nat) (s : State) : (vacate q c s).parts = s.parts := rfl

theorem vacate_spec (hr : s.RegsWf) (hc : c < 4096) : (vacate q c s).resident c = false ∧ (vacate q c s).residentOf q = none ∧
    (vacate q c s).candidates q = s.candidates q ∧ Within (fun a => a = Reg.CTX_STATUS c ∨ a = Reg.PRT_PSTATUS q) s (vacate q c s) := by
  have hne (x : Nat) (hx : x < 4096) : Reg.CTX_STATUS x ≠ Reg.PRT_PSTATUS q := by unfold Reg.CTX_STATUS Reg.PRT_PSTATUS; omega
  have h1 : Within (fun a => a = Reg.CTX_STATUS c ∨ a = Reg.PRT_PSTATUS q) s (put (Reg.PRT_PSTATUS q) F.PRT_PSTATUS_RESIDENT 0 s) :=
    (Within.refl hr).put (.inr rfl)
  have hw : Within (fun a => a = Reg.CTX_STATUS c ∨ a = Reg.PRT_PSTATUS q) s (vacate q c s) := h1.put (.inl rfl)
  refine ⟨?_, ?_, candidates_congr (fun x hx => ⟨?_, ?_⟩) q, hw⟩
  · rw [State.resident, State.on, vacate, fld_put_same h1.regsWf _ (by decide)]
    rfl
  · rw [State.residentOf, State.on, vacate, fld_put_ne h1.regsWf _ _ _ (hne c hc).symm, fld_put_same hr _ (by decide)]
    rfl
  · unfold State.schedulable State.on vacate
    by_cases e : x = c
    · subst e
      rw [fld_put_apart h1.regsWf _ (by decide) (by decide), fld_put_ne hr _ _ _ (hne x hx)]
    · rw [fld_put_ne h1.regsWf _ _ _ (by unfold Reg.CTX_STATUS; omega), fld_put_ne hr _ _ _ (hne x hx)]
  · exact hw.fld (by unfold Reg.CTX_CTRL Reg.CTX_STATUS Reg.PRT_PSTATUS; omega) _

/-- The resident context leaves its tiles: the next context, if any, starts to be restored. -/
theorem leaveTiles_spec (hs : s.Sound) (hc : c < 4096) {V : Nat → Prop} (hw : Within V s (sliceCredits q c s))
    (hV : ∀ a, V a → ∃ x, x < 4096 ∧ a = Reg.CTX_CREDIT x) (hparts : (sliceCredits q c s).parts = (setPart q { s.part q with ran := 0 } s).parts) :
    let t := leaveTiles q c s
    let n := (vacate q c (sliceCredits q c s)).nextContext q
    t.resident c = false ∧ t.residentOf q = none ∧ t.part q = { s.part q with ran := 0, placing := n } ∧ t.switching q = n.isSome ∧
    (vacate q c (sliceCredits q c s)).candidates q = s.candidates q ∧
    Within (fun a => a = Reg.CTX_STATUS c ∨ a = Reg.PRT_PSTATUS q) (sliceCredits q c s) t := by
  obtain ⟨h1, h2, h3, h4⟩ := vacate_spec (c := c) (q := q) hw.regsWf hc
  have hpv : (vacate q c (sliceCredits q c s)).parts = (setPart q { s.part q with ran := 0 } s).parts :=
    (vacate_parts ..).trans hparts
  have hpart : (vacate q c (sliceCredits q c s)).part q = { s.part q with ran := 0 } := by
    rw [State.part, hpv]
    exact part_setPart_same _ hs.parts _ _
  have hcand : (sliceCredits q c s).candidates q = s.candidates q := by
    refine candidates_congr (fun x hx => ⟨?_, ?_⟩) q
    · unfold State.schedulable
      rw [hw.on]
      intro e
      obtain ⟨y, hy, e⟩ := hV _ e
      unfold Reg.CTX_STATUS Reg.CTX_CREDIT at e
      omega
    · refine hw.fld (fun e => ?_) _
      obtain ⟨y, hy, e⟩ := hV _ e
      unfold Reg.CTX_CTRL Reg.CTX_CREDIT at e
      omega
  have hset : Store.Wf (fun _ => PartState.init) (setPart q { s.part q with ran := 0 } s).parts := Store.wf_update hs.parts _ _
  obtain ⟨g1, g2, g3, g4⟩ := startPlacing_spec (q := q) h4.regsWf (by rw [hpv]; exact hset)
  dsimp only
  rw [leaveTiles_eq]
  generalize vacate q c (sliceCredits q c s) = v at h1 h2 h3 h4 hpart g1 g2 g3 g4
  refine ⟨?_, g3.trans h2, ?_, g1, h3.trans hcand, h4.trans (g4.mono fun a e => .inr e)⟩
  · rw [State.resident, g4.on (by unfold Reg.CTX_STATUS Reg.PRT_PSTATUS; omega)]
    exact h1
  · rw [g2, hpart]

/-! ### The commands -/

section
variable (part : Fin 16)

theorem sliceEnd_none (h : s.residentOf part.val = none) : NoEffect (.sliceEnd part) s ∧ NoEffect (.saveDone part) s := by
  refine ⟨?_, ?_⟩
  · show execSliceEnd part s = _
    simp only [execSliceEnd, h]
  · show execSaveDone part s = _
    simp only [execSaveDone, h]

variable (hc : s.residentOf part.val = some c)
include hc

theorem execSliceEnd_eq : exec (.sliceEnd part) s = if s.switching part.val then .next s
    else if s.candidates part.val = [c] then .next (sliceCredits part.val c s) else .next (preempt part.val c s) := by
  show execSliceEnd part s = _
  simp only [execSliceEnd, hc]

theorem execSaveDone_eq : exec (.saveDone part) s =
    .next (if s.switching part.val && (s.tilesOf c).isEmpty then leaveTiles part.val c s else s) := by
  show execSaveDone part s = _
  simp only [execSaveDone, hc]

theorem sliceEnd_switching (h : s.switching part.val = true) : NoEffect (.sliceEnd part) s :=
  (execSliceEnd_eq part hc).trans (if_pos h)

theorem saveDone_running (h : s.switching part.val = false) : NoEffect (.saveDone part) s := by
  unfold NoEffect
  rw [execSaveDone_eq part hc, h]
  rfl

theorem saveDone_busy (h : s.tilesOf c ≠ []) : NoEffect (.saveDone part) s := by
  unfold NoEffect
  rw [execSaveDone_eq part hc, show (s.tilesOf c).isEmpty = false by simpa using h, Bool.and_false]
  rfl

variable (hs : s.Sound)
include hs

theorem sliceEnd_only (h : s.switching part.val = false) (hcand : s.candidates part.val = [c]) (hshare : 0 < s.share c)
    (hlo : -maxCredit ≤ s.credit c) (hhi : s.credit c + (s.part part.val).ran ≤ maxCredit) : Ends (.sliceEnd part) s fun t =>
    t.credit c = s.credit c ∧ t.part part.val = { s.part part.val with ran := 0 } ∧ KeepsAllBut (fun a => a = Reg.CTX_CREDIT c) s t := by
  obtain ⟨h1, h2, h3⟩ := sliceCredits_same hs hcand hshare hlo hhi
  exact ⟨_, (execSliceEnd_eq part hc).trans ((if_neg (by simp [h])).trans (if_pos hcand)), h1, h2, h3.keeps⟩

theorem sliceEnd_others (h : s.switching part.val = false) (hcand : s.candidates part.val ≠ [c]) : Ends (.sliceEnd part) s fun t =>
    t.switching part.val = true ∧ (∀ p, t.tile p = (if p ∈ s.tilesOf c then { s.tile p with preempt := true } else s.tile p)) ∧
    KeepsAllBut (fun a => a = Reg.PRT_PSTATUS part.val) s t := by
  obtain ⟨h1, h2, h3⟩ := preempt_spec (q := part.val) (c := c) hs
  exact ⟨_, (execSliceEnd_eq part hc).trans ((if_neg (by simp [h])).trans (if_neg hcand)), h1, h2, h3.keeps⟩

/-- No context is left to be restored. -/
theorem saveDone_nobody (h : s.switching part.val = true) (ht : s.tilesOf c = []) (hcand : s.candidates part.val = []) : Ends (.saveDone part) s fun t =>
    (t.resident c = false ∧ t.residentOf part.val = none ∧ (t.part part.val).ran = 0) ∧ t.switching part.val = false ∧ (t.part part.val).placing = none ∧
    KeepsAllBut (fun a => a = Reg.PRT_PSTATUS part.val ∨ a = Reg.CTX_STATUS c) s t := by
  have hslice := sliceCredits_nobody (c := c) hcand
  have hw : Within (fun _ => False) s (sliceCredits part.val c s) := by rw [hslice]; exact (Within.refl hs.regs).setPart
  obtain ⟨h1, h2, h3, h4, h5, h6⟩ := leaveTiles_spec hs (residentOf_lt hc) hw (fun _ e => e.elim) (by rw [hslice])
  have hn : (vacate part.val c (sliceCredits part.val c s)).nextContext part.val = none := by
    unfold State.nextContext; rw [h5, hcand]; rfl
  rw [hn] at h3 h4
  refine ⟨leaveTiles part.val c s, ?_, ⟨h1, h2, by rw [h3]⟩, h4, by rw [h3], ((hw.mono fun _ e => e.elim).trans (h6.mono fun _ e => e.symm)).keeps⟩
  rw [execSaveDone_eq part hc, h, ht]
  rfl

/-- The only context that can be scheduled is restored next, and gains the slice. -/
theorem saveDone_next (h : s.switching part.val = true) (ht : s.tilesOf c = []) (hcand : s.candidates part.val = [x]) (hne : x ≠ c)
    (hshare : 0 < s.share x) (hlo : -maxCredit ≤ s.credit x) (hhi : s.credit x + (s.part part.val).ran ≤ maxCredit) : Ends (.saveDone part) s fun t =>
    (t.resident c = false ∧ t.residentOf part.val = none ∧ (t.part part.val).ran = 0) ∧ t.switching part.val = true ∧
    (t.part part.val).placing = some x ∧ t.credit x = s.credit x + (s.part part.val).ran ∧
    KeepsAllBut (fun a => a = Reg.PRT_PSTATUS part.val ∨ a = Reg.CTX_STATUS c ∨ a = Reg.CTX_CREDIT x) s t := by
  obtain ⟨hcredit, -, hparts, hw⟩ := sliceCredits_other hs hcand hne hshare hlo hhi
  obtain ⟨hx, -, -⟩ := mem_candidates (s := s) (q := part.val) (x := x) (by rw [hcand]; exact List.mem_singleton_self x)
  obtain ⟨h1, h2, h3, h4, h5, h6⟩ := leaveTiles_spec hs (residentOf_lt hc) hw (fun _ e => ⟨x, hx, e⟩) hparts
  have hn : (vacate part.val c (sliceCredits part.val c s)).nextContext part.val = some x := by
    unfold State.nextContext; rw [h5, hcand]; rfl
  rw [hn] at h3 h4
  refine ⟨leaveTiles part.val c s, ?_, ⟨h1, h2, by rw [h3]⟩, h4, by rw [h3], ?_,
    ((hw.mono fun _ e => .inr (.inr e)).trans (h6.mono fun _ e => e.elim (fun e => .inr (.inl e)) .inl)).keeps⟩
  · rw [execSaveDone_eq part hc, h, ht]
    rfl
  · rw [credit_congr (h6.reg (by have := residentOf_lt hc; unfold Reg.CTX_CREDIT Reg.CTX_STATUS Reg.PRT_PSTATUS; omega)), hcredit]

end

end Sys2Proof.Machine
end

section
/-! DB_WAKE (R487): a halted context is placed again, and one wake of any other is remembered. -/
namespace Sys2Proof.Machine

variable {s t : State} {W : Nat → Prop} {c q : Nat}

theorem on_put_same (hr : s.RegsWf) (off : Nat) {f : Fld} (hf : f.Ok) (v : Nat) : (put off f v s).on off f = decide (v % 2 ^ f.width ≠ 0) := by
  rw [State.on, fld_put_same hr _ hf]

theorem on_putB_same (hr : s.RegsWf) (off : Nat) {f : Fld} (hf : f.Ok) (b : Bool) : (putB off f b s).on off f = b := by
  rw [State.on, fld_putB_same hr _ hf]
  cases b <;> rfl

/-! ### SCHEDULABLE follows the state of the context -/

theorem schedulable_showSchedulable (hr : s.RegsWf) : (showSchedulable c s).schedulable c =
    (s.ctxState c == CtxState.ACTIVE && s.on (Reg.CTX_CTRL c) F.CTX_CTRL_RUN && !s.on (Reg.CTX_STATUS c) F.CTX_STATUS_HALTED) :=
  on_putB_same hr _ (by decide) _

theorem Within.showSchedulable (h : Within W s t) (hw : W (Reg.CTX_STATUS c)) : Within W s (showSchedulable c t) := h.putB hw

theorem showSchedulable_ctx (n : Nat) : (showSchedulable c s).ctx n = s.ctx n := rfl

theorem showSchedulable_on (hr : s.RegsWf) {f : Fld} (hf : F.CTX_STATUS_SCHEDULABLE.Apart f) :
    (showSchedulable c s).on (Reg.CTX_STATUS c) f = s.on (Reg.CTX_STATUS c) f :=
  congrArg (fun n => decide (n ≠ 0)) (fld_putB_apart hr _ (by decide) hf _)

/-- A context that is not schedulable starts nothing. -/
theorem becomeSchedulable_of_not (h : s.schedulable c = false) : becomeSchedulable c s = s := by
  unfold becomeSchedulable
  simp [h]

theorem startPlacing_ctx (q n : Nat) (s : State) : (startPlacing q s).ctx n = s.ctx n := rfl

/-- The one context of a partition that can be scheduled is its next. -/
theorem nextContext_of_only (hlt : c < 4096) (h : s.schedulable c = true) (hpart : s.ctxPart c = q) (honly : ∀ x ∈ s.candidates q, x = c) :
    s.nextContext q = some c := by
  have hmem : c ∈ s.candidates q := by
    unfold State.candidates
    exact List.mem_filter.mpr ⟨List.mem_range.mpr hlt, by simp [h, hpart]⟩
  have hnd : (s.candidates q).Nodup := List.nodup_range.filter _
  have hcand : s.candidates q = [c] := by
    have hrep := List.eq_replicate_of_mem honly
    rw [hrep] at hnd hmem ⊢
    have hle := List.nodup_replicate.mp hnd
    have hne := (List.mem_replicate.mp hmem).1
    rw [show (s.candidates q).length = 1 by omega]
    rfl
  unfold State.nextContext
  rw [hcand]
  rfl

/-- A context that can be scheduled in a free partition, where nobody else can be, starts to be restored. -/
theorem becomeSchedulable_free (hr : s.RegsWf) (hctxs : Store.Wf (fun _ => CtxExtra.init) s.ctxs) (hparts : Store.Wf (fun _ => PartState.init) s.parts)
    (hlt : c < 4096) (h : s.schedulable c = true) (hres : s.resident c = false) (hpart : s.ctxPart c = q) (hnone : s.residentOf q = none)
    (hplacing : (s.part q).placing = none) (honly : ∀ x ∈ s.candidates q, x = c) :
    (becomeSchedulable c s).ctx c = { s.ctx c with wokenUs := some s.now } ∧ ((becomeSchedulable c s).part q).placing = some c ∧
    (becomeSchedulable c s).switching q = true ∧ Within (fun a => a = Reg.PRT_PSTATUS q) s (becomeSchedulable c s) := by
  have heq : becomeSchedulable c s = startPlacing q (setCtx c { s.ctx c with wokenUs := some s.now } s) := by
    subst hpart
    unfold becomeSchedulable
    extract_lets p x t
    rw [if_neg (by simp [h, hres]), if_neg (by rw [show t.resident c = false from hres]; decide), show t.residentOf p = none from hnone]
    exact if_neg (by rw [show (t.part p).placing = none from hplacing]; decide)
  have hnext : (setCtx c { s.ctx c with wokenUs := some s.now } s).nextContext q = some c := nextContext_of_only hlt h hpart honly
  obtain ⟨g1, g2, -, g3⟩ := startPlacing_spec (s := setCtx c { s.ctx c with wokenUs := some s.now } s) (q := q) hr hparts
  rw [hnext] at g1 g2
  rw [heq]
  exact ⟨(startPlacing_ctx ..).trans (ctx_setCtx_same _ hctxs _ _), by rw [g2], g1, ((Within.refl hr).setCtx).trans g3⟩

section
variable (h : Within (fun a => a = Reg.CTX_STATUS c) s t)
include h

theorem Within.ctxPart (x : Nat) : t.ctxPart x = s.ctxPart x := h.fld (by unfold Reg.CTX_CTRL Reg.CTX_STATUS; omega) _

theorem Within.residentOf : t.residentOf q = s.residentOf q := by
  unfold State.residentOf
  rw [h.on (by unfold Reg.CTX_STATUS Reg.PRT_PSTATUS; omega), h.fld (by unfold Reg.CTX_STATUS Reg.PRT_PSTATUS; omega)]

/-- The other contexts that wait are those that waited. -/
theorem Within.mem_candidates {x : Nat} (hne : x ≠ c) (hx : x ∈ t.candidates q) : x ∈ s.candidates q := by
  obtain ⟨hlt, hsched, hpart⟩ := Machine.mem_candidates hx
  rw [State.schedulable, h.on (by unfold Reg.CTX_STATUS; omega)] at hsched
  rw [h.ctxPart] at hpart
  unfold State.candidates
  exact List.mem_filter.mpr ⟨List.mem_range.mpr hlt, by rw [State.schedulable, hsched, hpart]; simp⟩

end

/-- The context with its halt forgotten and its restart remembered. -/
def unhalt (c : Nat) (s : State) : State := setCtx c { s.ctx c with restart := true } (put (Reg.CTX_STATUS c) F.CTX_STATUS_HALTED 0 s)

theorem unhalt_spec (hs : s.Sound) (n : Nat) : (unhalt n s).on (Reg.CTX_STATUS n) F.CTX_STATUS_HALTED = false ∧
    (unhalt n s).ctx n = { s.ctx n with restart := true } ∧ (unhalt n s).resident n = s.resident n ∧
    Within (fun a => a = Reg.CTX_STATUS n) s (unhalt n s) := by
  have hw : Within (fun a => a = Reg.CTX_STATUS n) s (put (Reg.CTX_STATUS n) F.CTX_STATUS_HALTED 0 s) := (Within.refl hs.regs).put rfl
  refine ⟨on_put_same hs.regs _ (by decide) _, ctx_setCtx_same _ hs.ctxs _ _, ?_, hw.setCtx⟩
  have := fld_put_apart hs.regs (Reg.CTX_STATUS n) (f := F.CTX_STATUS_HALTED) (g := F.CTX_STATUS_RESIDENT) (by decide) (by decide) 0
  exact congrArg (fun n => decide (n ≠ 0)) this

/-- A halted context that runs again can be scheduled. -/
theorem wakened_spec {n : Nat} (hs : s.Sound) (hact : s.ctxState n = CtxState.ACTIVE) (hrun : s.on (Reg.CTX_CTRL n) F.CTX_CTRL_RUN = true) :
    (showSchedulable n (unhalt n s)).schedulable n = true ∧ (showSchedulable n (unhalt n s)).resident n = s.resident n ∧
    (showSchedulable n (unhalt n s)).on (Reg.CTX_STATUS n) F.CTX_STATUS_HALTED = false ∧
    Within (fun a => a = Reg.CTX_STATUS n) s (showSchedulable n (unhalt n s)) := by
  obtain ⟨h1, -, h3, h4⟩ := unhalt_spec hs n
  have hne : ¬ Reg.CTX_CTRL n = Reg.CTX_STATUS n := by unfold Reg.CTX_CTRL Reg.CTX_STATUS; omega
  refine ⟨?_, (showSchedulable_on h4.regsWf (by decide)).trans h3, (showSchedulable_on h4.regsWf (by decide)).trans h1, h4.showSchedulable rfl⟩
  rw [schedulable_showSchedulable h4.regsWf, h4.on hne, hrun, h1, State.ctxState, h4.fld hne]
  exact (congrArg (· == CtxState.ACTIVE && true && !false) hact).trans rfl

/-! ### The command -/

section
variable (c : BitVec 12) (hs : s.Sound)

theorem dbWake_inactive (h : ¬ s.ctxState c.toNat = CtxState.ACTIVE) : NoEffect (.dbWake c) s :=
  congrArg Host.Outcome.next (if_pos h)

variable (hact : s.ctxState c.toNat = CtxState.ACTIVE)
include hs hact

theorem dbWake_running (h : ¬ s.on (Reg.CTX_STATUS c.toNat) F.CTX_STATUS_HALTED = true) :
    Sets (.dbWake c) s (Reg.CTX_STATUS c.toNat) ((s.reg (Reg.CTX_STATUS c.toNat)).put F.CTX_STATUS_DB_PENDING 1) := by
  refine ⟨raise (Reg.CTX_STATUS c.toNat) F.CTX_STATUS_DB_PENDING s, congrArg Host.Outcome.next ?_, reg_raise_same hs.regs _ _,
    ((Within.refl hs.regs).raise (W := fun a => a = Reg.CTX_STATUS c.toNat) rfl).keeps⟩
  exact (if_neg (not_not_intro hact)).trans (if_neg h)

variable (hhalt : s.on (Reg.CTX_STATUS c.toNat) F.CTX_STATUS_HALTED = true)
include hhalt

omit hs in
theorem execDbWake_halted : exec (.dbWake c) s = .next (becomeSchedulable c.toNat (showSchedulable c.toNat (unhalt c.toNat s))) :=
  congrArg Host.Outcome.next ((if_neg (not_not_intro hact)).trans (if_pos hhalt))

theorem dbWake_stopped (hrun : s.on (Reg.CTX_CTRL c.toNat) F.CTX_CTRL_RUN = false) : Ends (.dbWake c) s fun t =>
    t.on (Reg.CTX_STATUS c.toNat) F.CTX_STATUS_HALTED = false ∧ (t.ctx c.toNat).restart = true ∧ t.schedulable c.toNat = false ∧
    KeepsAllBut (fun a => a = Reg.CTX_STATUS c.toNat) s t := by
  obtain ⟨h1, h2, -, h4⟩ := unhalt_spec hs c.toNat
  have hsched : (showSchedulable c.toNat (unhalt c.toNat s)).schedulable c.toNat = false := by
    rw [schedulable_showSchedulable h4.regsWf, h4.on (by unfold Reg.CTX_CTRL Reg.CTX_STATUS; omega) F.CTX_CTRL_RUN, hrun]
    simp
  refine ⟨_, (execDbWake_halted c hact hhalt).trans (congrArg _ (becomeSchedulable_of_not hsched)), ?_, ?_, hsched, (h4.showSchedulable rfl).keeps⟩
  · rw [showSchedulable_on h4.regsWf (by decide), h1]
  · rw [showSchedulable_ctx, h2]

/-- In a free partition where nobody else waits, the context is restored next. -/
theorem dbWake_placed (hrun : s.on (Reg.CTX_CTRL c.toNat) F.CTX_CTRL_RUN = true) (hres : s.resident c.toNat = false) (hpart : s.ctxPart c.toNat = q)
    (hnone : s.residentOf q = none) (hplacing : (s.part q).placing = none) (honly : ∀ x ∈ s.candidates q, x = c.toNat) : Ends (.dbWake c) s fun t =>
    t.on (Reg.CTX_STATUS c.toNat) F.CTX_STATUS_HALTED = false ∧ t.ctx c.toNat = { s.ctx c.toNat with restart := true, wokenUs := some s.now } ∧
    t.schedulable c.toNat = true ∧ (t.part q).placing = some c.toNat ∧ t.switching q = true ∧
    KeepsAllBut (fun a => a = Reg.CTX_STATUS c.toNat ∨ a = Reg.PRT_PSTATUS q) s t := by
  have hlt : c.toNat < 4096 := c.isLt
  have hexec := execDbWake_halted c hact hhalt
  obtain ⟨h1, h2, h3, hw⟩ := wakened_spec hs hact hrun
  have hctxs : Store.Wf (fun _ => CtxExtra.init) (showSchedulable c.toNat (unhalt c.toNat s)).ctxs := Store.wf_update hs.ctxs _ _
  have hctx : (showSchedulable c.toNat (unhalt c.toNat s)).ctx c.toNat = { s.ctx c.toNat with restart := true } := ctx_setCtx_same _ hs.ctxs _ _
  obtain ⟨g1, g2, g3, gw⟩ := becomeSchedulable_free hw.regsWf hctxs hs.parts hlt h1 (h2.trans hres) ((hw.ctxPart _).trans hpart)
    (hw.residentOf.trans hnone) hplacing fun x hx => by
      by_contra hne
      exact hne (honly x (hw.mem_candidates hne hx))
  have hne : ¬ Reg.CTX_STATUS c.toNat = Reg.PRT_PSTATUS q := by unfold Reg.CTX_STATUS Reg.PRT_PSTATUS; omega
  exact ⟨_, hexec, (gw.on hne _).trans h3, g1.trans (by rw [hctx]; rfl), (gw.on hne _).trans h1, g2, g3,
    ((hw.mono fun _ => .inl).trans (gw.mono fun _ => .inr)).keeps⟩

end

end Sys2Proof.Machine
end

section
/-! CTX_WRITE (R496): the context table changes only as its locks allow. -/
namespace Sys2Proof.Machine

variable {s t : State} {W : Nat → Prop} {v : Word}

/-! ### Writes of a register that reserves nothing -/

theorem genericWrite_plain {off : Nat} {r : RegRow} (h : rowOf off = some r) (hv : r.reserved v = false) (s : State) :
    genericWrite off v s = setR off (fieldsAfter r off v s) s := by
  have := genericWrite_of_row h v s
  rw [show (r.fields.any fun f => f.acc == .rw && !f.admits (f.written v)) = false from hv] at this
  exact this.trans (when_false _ _)

theorem fld_fieldsAfter (hr : s.RegsWf) {off : Nat} {r : RegRow} (hok : FieldsOk r.fields) {f : FieldSpec} (hf : f ∈ r.fields) :
    (setR off (fieldsAfter r off v s) s).fld off f.fld = f.after v (s.fld off f.fld) :=
  (fld_setR_same hr _ _ _).trans (get_writeFields hok hf _ _)

/-- A bad write within the table of contexts or of partitions is the partitions' bad write. -/
theorem badWrite_ctx {a : Nat} (h : 0x80000 ≤ a) (h' : a ≤ 0xC7FFF) (s : State) : badWrite a s = raise Reg.PRT_STATUS F.PRT_STATUS_BAD_WRITE s := by
  unfold badWrite
  by_cases hc : a ≤ 0xBFFFF
  · rw [unitOf_of_mem (u := .ctx) (lo := 0x80000) (hi := 0xBFFFF) (by decide) h hc]
  · rw [unitOf_of_mem (u := .prt) (lo := 0xC0000) (hi := 0xC7FFF) (by decide) (by omega) h']

/-! ### The rows of the table -/

def ctxCtrlRow : RegRow :=
  ⟨0x80000, 4096, 0x40, 1, 0x40, false, [⟨63, 61, .ro, 0, 0, []⟩, ⟨60, 60, .rw, 0, 0, []⟩, ⟨59, 52, .ro, 0, 0, []⟩, ⟨47, 44, .rw, 0, 0, []⟩, ⟨43, 40, .rw, 0, 0, []⟩]⟩

def ctxHostRow : RegRow :=
  ⟨0x80008, 4096, 0x40, 1, 0x40, false, [⟨63, 44, .rw, 0, 0, []⟩, ⟨37, 32, .rw, 0, 0, []⟩, ⟨10, 0, .rw, 0, 0, []⟩]⟩

section
variable (c : BitVec 12)

theorem rowOf_ctxCtrl : rowOf (Reg.CTX_CTRL c.toNat) = some ctxCtrlRow := by
  have := c.isLt
  refine rowOf_of_split (u := .ctx) (before := []) (lo := 0x80000) (hi := 0xBFFFF) (by decide) (by unfold Reg.CTX_CTRL; omega) (by unfold Reg.CTX_CTRL; omega) rfl
    (fun x hx => absurd hx List.not_mem_nil) ?_
  unfold RegRow.has ctxCtrlRow Reg.CTX_CTRL
  simp only [Bool.and_eq_true, decide_eq_true_eq, beq_iff_eq]
  omega

theorem rowOf_ctxHost : rowOf (Reg.CTX_HOST c.toNat) = some ctxHostRow := by
  have := c.isLt
  refine rowOf_of_split (u := .ctx) (before := [ctxCtrlRow]) (lo := 0x80000) (hi := 0xBFFFF) (by decide) (by unfold Reg.CTX_HOST; omega) (by unfold Reg.CTX_HOST; omega) rfl
    (fun x hx => ?_) ?_
  · rw [List.mem_singleton.mp hx, Bool.eq_false_iff]
    unfold RegRow.has ctxCtrlRow Reg.CTX_HOST
    simp only [ne_eq, Bool.and_eq_true, decide_eq_true_eq, beq_iff_eq]
    omega
  · unfold RegRow.has ctxHostRow Reg.CTX_HOST
    simp only [Bool.and_eq_true, decide_eq_true_eq, beq_iff_eq]
    omega

theorem fieldsOk_ctxCtrl : FieldsOk ctxCtrlRow.fields := by decide
theorem fieldsOk_ctxHost : FieldsOk ctxHostRow.fields := by decide

/-- The state after the fields of a CTX_c_CTRL write are taken. -/
def ctrlWritten (c : Nat) (v : Word) (s : State) : State := setR (Reg.CTX_CTRL c) (fieldsAfter ctxCtrlRow (Reg.CTX_CTRL c) v s) s

theorem ctrlWritten_spec (hr : s.RegsWf) (c : Nat) (v : Word) :
    (ctrlWritten c v s).fld (Reg.CTX_CTRL c) F.CTX_CTRL_RUN = v.get F.CTX_CTRL_RUN ∧
    (ctrlWritten c v s).ctxDomain c = v.get F.CTX_CTRL_DOMAIN ∧ (ctrlWritten c v s).ctxPart c = v.get F.CTX_CTRL_PARTITION ∧
    (ctrlWritten c v s).ctxState c = s.ctxState c ∧ (ctrlWritten c v s).epoch c = s.epoch c ∧
    Within (fun a => a = Reg.CTX_CTRL c) s (ctrlWritten c v s) := by
  have h {f : FieldSpec} (hf : f ∈ ctxCtrlRow.fields) := fld_fieldsAfter (v := v) (off := Reg.CTX_CTRL c) hr fieldsOk_ctxCtrl hf
  refine ⟨?_, ?_, ?_, ?_, ?_, (Within.refl hr).setR rfl⟩
  · exact (h (f := ⟨60, 60, .rw, 0, 0, []⟩) (by decide)).trans (FieldSpec.after_rw ..)
  · exact (h (f := ⟨47, 44, .rw, 0, 0, []⟩) (by decide)).trans (FieldSpec.after_rw ..)
  · exact (h (f := ⟨43, 40, .rw, 0, 0, []⟩) (by decide)).trans (FieldSpec.after_rw ..)
  · exact h (f := ⟨63, 61, .ro, 0, 0, []⟩) (by decide)
  · exact h (f := ⟨59, 52, .ro, 0, 0, []⟩) (by decide)

/-! ### CTX_c_CTRL -/

theorem exec_ctxWrite_ctrl (v : Word) (s : State) : exec (.ctxWrite c 0 v) s = .next (ctxCtrl c.toNat v s) := rfl

section
variable (hs : s.Sound)
include hs

/-- A write that is refused is the partitions' bad write. -/
theorem ctrlWrite_refused (h : (¬ (v.get F.CTX_CTRL_DOMAIN = s.ctxDomain c.toNat ∧ v.get F.CTX_CTRL_PARTITION = s.ctxPart c.toNat) ∧ s.present c.toNat = true) ∨
    ((v.get F.CTX_CTRL_RUN = 1 ∧ s.on (Reg.CTX_CTRL c.toNat) F.CTX_CTRL_RUN = false) ∧ s.ctxState c.toNat ≠ CtxState.ACTIVE)) :
    Ignores (.ctxWrite c 0 v) s Reg.PRT_STATUS F.PRT_STATUS_BAD_WRITE := by
  have hlt := c.isLt
  refine ignores_of_eq_badWrite (off := Reg.CTX_CTRL c.toNat) hs ((exec_ctxWrite_ctrl c v s).trans (congrArg _ ?_))
    (badWrite_ctx (by unfold Reg.CTX_CTRL; omega) (by unfold Reg.CTX_CTRL; omega) s)
  unfold ctxCtrl
  extract_lets off same sets
  refine if_pos ?_
  rcases h with ⟨hsame, hp⟩ | ⟨⟨hrun, hoff⟩, hact⟩
  · have : same = false := by
      rw [Bool.eq_false_iff]
      intro e
      exact hsame (by simpa [same, off, State.ctxDomain, State.ctxPart] using e)
    simp [this, hp]
  · have : sets = true := by simp [sets, hrun, off, hoff]
    simp [this, hact]

omit hs in
/-- A write that is taken writes the fields and shows SCHEDULABLE; where it sets RUN, the context may become schedulable. -/
theorem ctrlWrite_taken (h1 : s.present c.toNat = true → v.get F.CTX_CTRL_DOMAIN = s.ctxDomain c.toNat ∧ v.get F.CTX_CTRL_PARTITION = s.ctxPart c.toNat)
    (h2 : v.get F.CTX_CTRL_RUN = 1 → s.ctxState c.toNat = CtxState.ACTIVE) :
    ∃ sets : Bool, (sets = true → v.get F.CTX_CTRL_RUN = 1) ∧
      exec (.ctxWrite c 0 v) s = .next (when sets (becomeSchedulable c.toNat) (showSchedulable c.toNat (ctrlWritten c.toNat v s))) := by
  refine ⟨v.get F.CTX_CTRL_RUN == 1 && !s.on (Reg.CTX_CTRL c.toNat) F.CTX_CTRL_RUN, fun h => by simp_all, ?_⟩
  refine (exec_ctxWrite_ctrl c v s).trans (congrArg _ ?_)
  rw [ctrlWritten, ← genericWrite_plain (rowOf_ctxCtrl c) rfl]
  unfold ctxCtrl
  extract_lets off same sets
  refine if_neg ?_
  simp only [Bool.or_eq_true, Bool.and_eq_true, Bool.not_eq_true', not_or, not_and]
  refine ⟨fun hsame hp => ?_, fun hsets => ?_⟩
  · obtain ⟨hd, hp⟩ := h1 hp
    have : same = true := by simp [same, off, hd, hp, State.ctxDomain, State.ctxPart]
    simp [this] at hsame
  · have hrun : v.get F.CTX_CTRL_RUN = 1 := by simp [sets] at hsets; exact hsets.1
    simp [h2 hrun]

/-- A context that is not to be schedulable: the write changes its control register and its status alone. -/
theorem ctrlWrite_unschedulable (h1 : s.present c.toNat = true → v.get F.CTX_CTRL_DOMAIN = s.ctxDomain c.toNat ∧ v.get F.CTX_CTRL_PARTITION = s.ctxPart c.toNat)
    (h2 : v.get F.CTX_CTRL_RUN = 1 → s.ctxState c.toNat = CtxState.ACTIVE)
    (h3 : v.get F.CTX_CTRL_RUN = 1 → s.on (Reg.CTX_STATUS c.toNat) F.CTX_STATUS_HALTED = true) : Ends (.ctxWrite c 0 v) s fun t =>
    t.fld (Reg.CTX_CTRL c.toNat) F.CTX_CTRL_RUN = v.get F.CTX_CTRL_RUN ∧ t.ctxDomain c.toNat = v.get F.CTX_CTRL_DOMAIN ∧
    t.ctxPart c.toNat = v.get F.CTX_CTRL_PARTITION ∧ t.ctxState c.toNat = s.ctxState c.toNat ∧ t.epoch c.toNat = s.epoch c.toNat ∧
    t.schedulable c.toNat = false ∧ KeepsAllBut (fun a => a = Reg.CTX_CTRL c.toNat ∨ a = Reg.CTX_STATUS c.toNat) s t := by
  obtain ⟨sets, -, hexec⟩ := ctrlWrite_taken c h1 h2
  obtain ⟨g1, g2, g3, g4, g5, gw⟩ := ctrlWritten_spec hs.regs c.toNat v
  have hne : ¬ Reg.CTX_CTRL c.toNat = Reg.CTX_STATUS c.toNat := by unfold Reg.CTX_CTRL Reg.CTX_STATUS; omega
  have hsched : (showSchedulable c.toNat (ctrlWritten c.toNat v s)).schedulable c.toNat = false := by
    rw [schedulable_showSchedulable gw.regsWf, gw.on (Ne.symm hne), State.on, g1]
    by_cases hrun : v.get F.CTX_CTRL_RUN = 1
    · simp [h3 hrun]
    · have := Word.get_lt v F.CTX_CTRL_RUN
      rw [show F.CTX_CTRL_RUN.width = 1 from rfl] at this
      simp [show v.get F.CTX_CTRL_RUN = 0 by omega]
  have hw : Within (fun a => a = Reg.CTX_STATUS c.toNat) (ctrlWritten c.toNat v s) (showSchedulable c.toNat (ctrlWritten c.toNat v s)) :=
    (Within.refl gw.regsWf).showSchedulable rfl
  have hstay : when sets (becomeSchedulable c.toNat) (showSchedulable c.toNat (ctrlWritten c.toNat v s)) = showSchedulable c.toNat (ctrlWritten c.toNat v s) := by
    cases sets
    · exact when_false _ _
    · exact becomeSchedulable_of_not hsched
  exact ⟨_, hexec.trans (congrArg _ hstay), (hw.fld hne _).trans g1, (hw.fld hne _).trans g2, (hw.fld hne _).trans g3, (hw.fld hne _).trans g4,
    (hw.fld hne _).trans g5, hsched, ((gw.mono fun _ => .inl).trans (hw.mono fun _ => .inr)).keeps⟩

/-! ### The host word and the save area -/

omit hs in
/-- The host word and the save area are written only while the context is absent. -/
theorem exec_ctxWrite_locked (off : BitVec 6) (hoff : off.toNat = 0x08 ∨ off.toNat = 0x18) :
    exec (.ctxWrite c off v) s = .next (writeIf (!s.present c.toNat) (Reg.CTX_CTRL c.toNat + off.toNat) v s) :=
  congrArg Host.Outcome.next ((if_neg (by omega)).trans (if_pos hoff))

theorem ctxWrite_locked (off : BitVec 6) (hoff : off.toNat = 0x08 ∨ off.toNat = 0x18) (h : s.present c.toNat = true) :
    Ignores (.ctxWrite c off v) s Reg.PRT_STATUS F.PRT_STATUS_BAD_WRITE := by
  have hlt := c.isLt
  refine ignores_of_eq_badWrite (off := Reg.CTX_CTRL c.toNat + off.toNat) hs ?_
    (badWrite_ctx (by unfold Reg.CTX_CTRL; omega) (by unfold Reg.CTX_CTRL; omega) s)
  rw [exec_ctxWrite_locked c off hoff, h]
  rfl

theorem ctxWrite_host (h : s.present c.toNat = false) : Ends (.ctxWrite c 0x08 v) s fun t =>
    (∀ f ∈ [F.CTX_HOST_PASID, F.CTX_HOST_FUNC, F.CTX_HOST_QVEC], t.fld (Reg.CTX_HOST c.toNat) f = v.get f) ∧
    KeepsAllBut (fun a => a = Reg.CTX_HOST c.toNat) s t := by
  have hg {f : FieldSpec} (hf : f ∈ ctxHostRow.fields) := fld_fieldsAfter (v := v) (off := Reg.CTX_HOST c.toNat) hs.regs fieldsOk_ctxHost hf
  refine ⟨setR (Reg.CTX_HOST c.toNat) (fieldsAfter ctxHostRow (Reg.CTX_HOST c.toNat) v s) s, ?_, ?_, ((Within.refl hs.regs).setR (W := fun a => a = Reg.CTX_HOST c.toNat) rfl).keeps⟩
  · rw [← genericWrite_plain (rowOf_ctxHost c) rfl]
    have hoff : Reg.CTX_CTRL c.toNat + (0x08 : BitVec 6).toNat = Reg.CTX_HOST c.toNat := by unfold Reg.CTX_CTRL Reg.CTX_HOST; simp; omega
    rw [exec_ctxWrite_locked c _ (.inl rfl), h, hoff]
    rfl
  · simp only [List.forall_mem_cons, List.not_mem_nil, false_implies, implies_true, and_true]
    exact ⟨(hg (f := ⟨63, 44, .rw, 0, 0, []⟩) (by decide)).trans (FieldSpec.after_rw ..), (hg (f := ⟨37, 32, .rw, 0, 0, []⟩) (by decide)).trans (FieldSpec.after_rw ..),
      (hg (f := ⟨10, 0, .rw, 0, 0, []⟩) (by decide)).trans (FieldSpec.after_rw ..)⟩

end

end

end Sys2Proof.Machine
end

section
/-! PRT_TILES_WRITE and PRT_BW_WRITE (R478, R480, R495): tile sets and shares change only in an empty partition, and never to
sets that overlap or shares that exceed 100. -/
namespace Sys2Proof.Machine

variable {s t : State} {W : Nat → Prop} {v : Word} {q x off : Nat}

/-! ### What keeps the partitions consistent -/

theorem mem_validParts : q ∈ s.validParts ↔ q < 16 ∧ s.on (Reg.PRT_CTRL q) F.PRT_CTRL_VALID = true := by
  unfold State.validParts
  rw [List.mem_filter, List.mem_range]

theorem validParts_nodup (s : State) : s.validParts.Nodup := List.nodup_range.filter _

theorem partsOk_iff : s.partsOk = true ↔ (s.validParts.flatMap s.partTiles).Nodup ∧
    (s.validParts.map fun q => s.fld (Reg.PRT_BW q) F.PRT_BW_HBM_PCT).sum ≤ 100 ∧ (s.validParts.map fun q => s.fld (Reg.PRT_BW q) F.PRT_BW_FAB_PCT).sum ≤ 100 := by
  unfold State.partsOk
  simp only [Bool.and_eq_true, decide_eq_true_eq, and_assoc]

/-- Registers other than those of the valid partitions do not matter. -/
theorem partsOk_congr (hctrl : ∀ x, t.reg (Reg.PRT_CTRL x) = s.reg (Reg.PRT_CTRL x))
    (h : ∀ x ∈ s.validParts, (∀ i < 3, t.reg (Reg.PRT_TILES0 x + 8 * i) = s.reg (Reg.PRT_TILES0 x + 8 * i)) ∧ t.reg (Reg.PRT_BW x) = s.reg (Reg.PRT_BW x)) :
    t.partsOk = s.partsOk := by
  have hvalid : t.validParts = s.validParts := by
    unfold State.validParts State.on State.fld
    simp only [hctrl]
  have hsum (f : Fld) : (s.validParts.map fun q => t.fld (Reg.PRT_BW q) f) = s.validParts.map fun q => s.fld (Reg.PRT_BW q) f :=
    List.map_congr_left fun x hx => by rw [State.fld, (h x hx).2, State.fld]
  rw [Bool.eq_iff_iff, partsOk_iff, partsOk_iff, hvalid, hsum, hsum, List.flatMap_congr fun x hx => partTiles_congr (h x hx).1]

/-- Two valid partitions of consistent ones share no tile. -/
theorem disjoint_of_partsOk (h : s.partsOk = true) (hq : q ∈ s.validParts) (hx : x ∈ s.validParts) (hne : q ≠ x) :
    (s.partTiles q).Disjoint (s.partTiles x) := by
  have hsymm : Std.Symm (Function.onFun List.Disjoint s.partTiles) := ⟨fun _ _ h => h.symm⟩
  exact (List.nodup_flatMap.mp (partsOk_iff.mp h).1).2.forall hq hx hne

/-- Two terms of a sum are at most the sum. -/
theorem add_le_sum_map {l : List Nat} (hl : l.Nodup) (f : Nat → Nat) (hq : q ∈ l) (hx : x ∈ l) (hne : q ≠ x) : f q + f x ≤ (l.map f).sum := by
  rw [← List.sum_toFinset f hl, ← Finset.sum_pair hne]
  refine Finset.sum_le_sum_of_subset fun a ha => ?_
  rcases Finset.mem_insert.mp ha with rfl | ha
  · exact List.mem_toFinset.mpr hq
  · exact List.mem_toFinset.mpr (Finset.mem_singleton.mp ha ▸ hx)

/-- The HBM shares of two valid partitions of consistent ones. -/
theorem shares_of_partsOk (h : s.partsOk = true) (hq : q ∈ s.validParts) (hx : x ∈ s.validParts) (hne : q ≠ x) :
    s.fld (Reg.PRT_BW q) F.PRT_BW_HBM_PCT + s.fld (Reg.PRT_BW x) F.PRT_BW_HBM_PCT ≤ 100 :=
  (add_le_sum_map (validParts_nodup s) _ hq hx hne).trans (partsOk_iff.mp h).2.1

/-! ### The write of a partition register -/

/-- A register that a partition has of its own: its tile sets and its shares. -/
def IsPartReg (q a : Nat) : Prop := a = Reg.PRT_TILES0 q ∨ a = Reg.PRT_TILES1 q ∨ a = Reg.PRT_TILES2 q ∨ a = Reg.PRT_BW q

theorem partWrite_refused (h : s.partUsed q = true ∨ ∃ r, rowOf off = some r ∧ r.reserved v = false ∧ (setR off (fieldsAfter r off v s) s).partsOk = false) :
    partWrite (s.partUsed q) off v s = badWrite off s := by
  unfold partWrite
  rcases h with h | ⟨r, hrow, hv, h⟩
  · exact if_pos (by rw [h]; rfl)
  · rw [genericWrite_plain hrow hv]
    exact if_pos (by rw [h]; simp)

theorem partWrite_taken {r : RegRow} (hrow : rowOf off = some r) (hv : r.reserved v = false) (hused : s.partUsed q = false)
    (h : (setR off (fieldsAfter r off v s) s).partsOk = true) : partWrite (s.partUsed q) off v s = setR off (fieldsAfter r off v s) s := by
  unfold partWrite
  rw [genericWrite_plain hrow hv]
  exact if_neg (by rw [h, hused]; decide)

/-- A register of a partition that is not valid does not matter. -/
theorem partsOk_setR (hr : s.RegsWf) (hoff : IsPartReg q off) (hnot : ¬ s.on (Reg.PRT_CTRL q) F.PRT_CTRL_VALID = true) (w : Word) :
    (setR off w s).partsOk = s.partsOk := by
  refine partsOk_congr (fun x => reg_setR_ne hr _ ?_) fun x hx => ?_
  · unfold IsPartReg Reg.PRT_TILES0 Reg.PRT_TILES1 Reg.PRT_TILES2 Reg.PRT_BW at hoff
    unfold Reg.PRT_CTRL
    omega
  · have hne : x ≠ q := fun e => hnot (e ▸ (mem_validParts.mp hx).2)
    unfold IsPartReg Reg.PRT_TILES0 Reg.PRT_TILES1 Reg.PRT_TILES2 Reg.PRT_BW at hoff
    exact ⟨fun i hi => reg_setR_ne hr _ (by unfold Reg.PRT_TILES0; omega), reg_setR_ne hr _ (by unfold Reg.PRT_BW; omega)⟩

/-! ### The rows -/

def prtTilesRow (i : Nat) : RegRow := ⟨0xC0108 + 8 * i, 16, 0x100, 1, 0x100, false, [⟨63, 0, .rw, 0, 0, []⟩]⟩
def prtTiles2Row : RegRow := ⟨0xC0118, 16, 0x100, 1, 0x100, false, [⟨15, 0, .rw, 0, 0, []⟩]⟩
def prtBwRow : RegRow := ⟨0xC0120, 16, 0x100, 1, 0x100, false, [⟨14, 8, .rw, 0, 0, [(0, 100)]⟩, ⟨6, 0, .rw, 0, 0, [(0, 100)]⟩]⟩

theorem rowOf_prtTiles0 (hq : q < 16) : rowOf (Reg.PRT_TILES0 q) = some (prtTilesRow 0) := by
  unfold Reg.PRT_TILES0
  exact rowOf_of_split (u := .prt) (before := rowsPrt0.take 3) (lo := 0xC0000) (hi := 0xC7FFF) (by decide) (by omega) (by omega) rfl
    (by simp [rowsPrt0, RegRow.has]; omega) (by simp [prtTilesRow, RegRow.has]; omega)

theorem rowOf_prtTiles1 (hq : q < 16) : rowOf (Reg.PRT_TILES1 q) = some (prtTilesRow 1) := by
  unfold Reg.PRT_TILES1
  exact rowOf_of_split (u := .prt) (before := rowsPrt0.take 4) (lo := 0xC0000) (hi := 0xC7FFF) (by decide) (by omega) (by omega) rfl
    (by simp [rowsPrt0, RegRow.has]; omega) (by simp [prtTilesRow, RegRow.has]; omega)

theorem rowOf_prtTiles2 (hq : q < 16) : rowOf (Reg.PRT_TILES2 q) = some prtTiles2Row := by
  unfold Reg.PRT_TILES2
  exact rowOf_of_split (u := .prt) (before := rowsPrt0.take 5) (lo := 0xC0000) (hi := 0xC7FFF) (by decide) (by omega) (by omega) rfl
    (by simp [rowsPrt0, RegRow.has]; omega) (by simp [prtTiles2Row, RegRow.has]; omega)

theorem rowOf_prtBw (hq : q < 16) : rowOf (Reg.PRT_BW q) = some prtBwRow := by
  unfold Reg.PRT_BW
  exact rowOf_of_split (u := .prt) (before := rowsPrt0.take 6) (lo := 0xC0000) (hi := 0xC7FFF) (by decide) (by omega) (by omega) rfl
    (by simp [rowsPrt0, RegRow.has]; omega) (by simp [prtBwRow, RegRow.has]; omega)

/-- A register that is one field takes the written word. -/
theorem fieldsAfter_prtTiles (i : Nat) : fieldsAfter (prtTilesRow i) off v s = v := by
  have h : (fieldsAfter (prtTilesRow i) off v s).get ⟨63, 0⟩ = v.get ⟨63, 0⟩ :=
    (get_writeFields (fs := [⟨63, 0, .rw, 0, 0, []⟩]) (by decide) (List.mem_singleton_self _) _ v).trans (FieldSpec.after_rw ..)
  have hfull (w : Word) : w.get ⟨63, 0⟩ = w.toNat := Nat.mod_eq_of_lt w.isLt
  rw [hfull, hfull] at h
  exact BitVec.eq_of_toNat_eq h

theorem reserved_prtBw (h1 : v.get F.PRT_BW_HBM_PCT ≤ 100) (h2 : v.get F.PRT_BW_FAB_PCT ≤ 100) : prtBwRow.reserved v = false := by
  have h1' : v.get ⟨6, 0⟩ ≤ 100 := h1
  have h2' : v.get ⟨14, 8⟩ ≤ 100 := h2
  simp [RegRow.reserved, prtBwRow, FieldSpec.admits_range, FieldSpec.written, h1', h2']

theorem fieldsAfter_prtBw (h1 : v.get F.PRT_BW_HBM_PCT ≤ 100) (h2 : v.get F.PRT_BW_FAB_PCT ≤ 100) (off : Nat) (s : State) :
    (fieldsAfter prtBwRow off v s).get F.PRT_BW_HBM_PCT = v.get F.PRT_BW_HBM_PCT ∧
    (fieldsAfter prtBwRow off v s).get F.PRT_BW_FAB_PCT = v.get F.PRT_BW_FAB_PCT := by
  have hok : FieldsOk prtBwRow.fields := by unfold prtBwRow; decide
  have hg {f : FieldSpec} (hf : f ∈ prtBwRow.fields) := get_writeFields hok hf (s.reg off) v
  exact ⟨(hg (f := ⟨6, 0, .rw, 0, 0, [(0, 100)]⟩) (by unfold prtBwRow; decide)).trans ((FieldSpec.after_range ..).trans (if_pos ⟨Nat.zero_le _, h1⟩)),
    (hg (f := ⟨14, 8, .rw, 0, 0, [(0, 100)]⟩) (by unfold prtBwRow; decide)).trans ((FieldSpec.after_range ..).trans (if_pos ⟨Nat.zero_le _, h2⟩))⟩

/-! ### The commands -/

section
variable (part : Fin 16)

theorem exec_prtTiles0 (v : Word) (s : State) :
    exec (.prtTilesWrite part 0 v) s = .next (partWrite (s.partUsed part.val) (Reg.PRT_TILES0 part.val) v s) := rfl
theorem exec_prtTiles1 (v : Word) (s : State) :
    exec (.prtTilesWrite part 1 v) s = .next (partWrite (s.partUsed part.val) (Reg.PRT_TILES1 part.val) v s) := by
  show Host.Outcome.next (partWrite _ (Reg.PRT_TILES0 part.val + 8 * 1) v s) = _
  rw [show Reg.PRT_TILES0 part.val + 8 * 1 = Reg.PRT_TILES1 part.val by unfold Reg.PRT_TILES0 Reg.PRT_TILES1; omega]
theorem exec_prtTiles2 (v : Word) (s : State) :
    exec (.prtTilesWrite part 2 v) s = .next (partWrite (s.partUsed part.val) (Reg.PRT_TILES2 part.val) v s) := by
  show Host.Outcome.next (partWrite _ (Reg.PRT_TILES0 part.val + 8 * 2) v s) = _
  rw [show Reg.PRT_TILES0 part.val + 8 * 2 = Reg.PRT_TILES2 part.val by unfold Reg.PRT_TILES0 Reg.PRT_TILES2; omega]
theorem exec_prtBw (v : Word) (s : State) :
    exec (.prtBwWrite part v) s = .next (partWrite (s.partUsed part.val) (Reg.PRT_BW part.val) v s) := rfl

variable (hs : s.Sound)
include hs

/-- A refused write of a partition register is the partitions' bad write. -/
theorem ignores_of_partWrite {i : Instr} (hi : exec i s = .next (partWrite (s.partUsed part.val) off v s)) (hoff : IsPartReg part.val off)
    (h : partWrite (s.partUsed part.val) off v s = badWrite off s) : Ignores i s Reg.PRT_STATUS F.PRT_STATUS_BAD_WRITE := by
  unfold IsPartReg Reg.PRT_TILES0 Reg.PRT_TILES1 Reg.PRT_TILES2 Reg.PRT_BW at hoff
  exact ignores_of_eq_badWrite hs (hi.trans (congrArg _ h)) (badWrite_ctx (by omega) (by omega) s)

/-- In a partition that has a context every write is refused. -/
theorem partWrites_used (h : s.partUsed part.val = true) :
    Ignores (.prtTilesWrite part 0 v) s Reg.PRT_STATUS F.PRT_STATUS_BAD_WRITE ∧ Ignores (.prtTilesWrite part 1 v) s Reg.PRT_STATUS F.PRT_STATUS_BAD_WRITE ∧
    Ignores (.prtTilesWrite part 2 v) s Reg.PRT_STATUS F.PRT_STATUS_BAD_WRITE ∧ Ignores (.prtBwWrite part v) s Reg.PRT_STATUS F.PRT_STATUS_BAD_WRITE :=
  ⟨ignores_of_partWrite part hs (exec_prtTiles0 part v s) (.inl rfl) (partWrite_refused (.inl h)),
    ignores_of_partWrite part hs (exec_prtTiles1 part v s) (.inr (.inl rfl)) (partWrite_refused (.inl h)),
    ignores_of_partWrite part hs (exec_prtTiles2 part v s) (.inr (.inr (.inl rfl))) (partWrite_refused (.inl h)),
    ignores_of_partWrite part hs (exec_prtBw part v s) (.inr (.inr (.inr rfl))) (partWrite_refused (.inl h))⟩

section
variable (hused : s.partUsed part.val = false) (hok : s.partsOk = true) (hnot : ¬ s.on (Reg.PRT_CTRL part.val) F.PRT_CTRL_VALID = true)
include hused hok hnot

/-- In an empty partition that is not valid a write takes its fields. -/
theorem partWrite_spec {i : Instr} {r : RegRow} (hi : exec i s = .next (partWrite (s.partUsed part.val) off v s)) (hoff : IsPartReg part.val off)
    (hrow : rowOf off = some r) (hv : r.reserved v = false) : Ends i s fun t => t.reg off = fieldsAfter r off v s ∧ KeepsAllBut (fun a => a = off) s t :=
  ⟨_, hi.trans (congrArg _ (partWrite_taken hrow hv hused ((partsOk_setR hs.regs hoff hnot _).trans hok))), reg_setR_same hs.regs _ _,
    ((Within.refl hs.regs).setR (W := fun a => a = off) rfl).keeps⟩

theorem prtTilesWrite_taken : Sets (.prtTilesWrite part 0 v) s (Reg.PRT_TILES0 part.val) v ∧ Sets (.prtTilesWrite part 1 v) s (Reg.PRT_TILES1 part.val) v ∧
    Ends (.prtTilesWrite part 2 v) s fun t => t.fld (Reg.PRT_TILES2 part.val) F.PRT_TILES2_V = v.get F.PRT_TILES2_V ∧
      KeepsAllBut (fun a => a = Reg.PRT_TILES2 part.val) s t := by
  obtain ⟨t0, e0, r0, k0⟩ := partWrite_spec part hs hused hok hnot (exec_prtTiles0 part v s) (.inl rfl) (rowOf_prtTiles0 part.isLt) rfl
  obtain ⟨t1, e1, r1, k1⟩ := partWrite_spec part hs hused hok hnot (exec_prtTiles1 part v s) (.inr (.inl rfl)) (rowOf_prtTiles1 part.isLt) rfl
  obtain ⟨t2, e2, r2, k2⟩ := partWrite_spec part hs hused hok hnot (exec_prtTiles2 part v s) (.inr (.inr (.inl rfl))) (rowOf_prtTiles2 part.isLt) rfl
  refine ⟨⟨t0, e0, r0.trans (fieldsAfter_prtTiles _), k0⟩, ⟨t1, e1, r1.trans (fieldsAfter_prtTiles _), k1⟩, t2, e2, ?_, k2⟩
  rw [State.fld, r2]
  exact (get_writeFields (fs := prtTiles2Row.fields) (f := ⟨15, 0, .rw, 0, 0, []⟩) (by unfold prtTiles2Row; decide) (by unfold prtTiles2Row; decide) _ v).trans
    (FieldSpec.after_rw ..)

theorem prtBwWrite_taken (h1 : v.get F.PRT_BW_HBM_PCT ≤ 100) (h2 : v.get F.PRT_BW_FAB_PCT ≤ 100) : Ends (.prtBwWrite part v) s fun t =>
    (∀ f ∈ [F.PRT_BW_HBM_PCT, F.PRT_BW_FAB_PCT], t.fld (Reg.PRT_BW part.val) f = v.get f) ∧ KeepsAllBut (fun a => a = Reg.PRT_BW part.val) s t := by
  obtain ⟨t, e, r, k⟩ := partWrite_spec part hs hused hok hnot (exec_prtBw part v s) (.inr (.inr (.inr rfl))) (rowOf_prtBw part.isLt) (reserved_prtBw h1 h2)
  obtain ⟨g1, g2⟩ := fieldsAfter_prtBw h1 h2 (Reg.PRT_BW part.val) s
  refine ⟨t, e, ?_, k⟩
  simp only [List.forall_mem_cons, List.not_mem_nil, false_implies, implies_true, and_true]
  unfold State.fld
  rw [r]
  exact ⟨g1, g2⟩

end

section
variable (hq : s.on (Reg.PRT_CTRL part.val) F.PRT_CTRL_VALID = true) (hx16 : x < 16) (hne : x ≠ part.val) (hx : s.on (Reg.PRT_CTRL x) F.PRT_CTRL_VALID = true)
include hq hx16 hne hx

omit hq hx16 hne hx in
/-- A write of tiles or shares leaves the partitions valid that were. -/
theorem validParts_setR (hoff : IsPartReg part.val off) (w : Word) (h : q ∈ s.validParts) : q ∈ (setR off w s).validParts := by
  rw [mem_validParts] at h ⊢
  refine ⟨h.1, ?_⟩
  rw [State.on, fld_setR_ne hs.regs]
  · exact h.2
  · unfold IsPartReg Reg.PRT_TILES0 Reg.PRT_TILES1 Reg.PRT_TILES2 Reg.PRT_BW at hoff
    unfold Reg.PRT_CTRL
    omega

/-- A tile of another valid partition is refused. -/
theorem prtTilesWrite_overlap {l : Nat} (hl : l < 64) (hbit : bit v.toNat l = true) (hmem : l ∈ s.partTiles x) :
    Ignores (.prtTilesWrite part 0 v) s Reg.PRT_STATUS F.PRT_STATUS_BAD_WRITE := by
  have hreg : IsPartReg part.val (Reg.PRT_TILES0 part.val) := .inl rfl
  refine ignores_of_partWrite part hs (exec_prtTiles0 part v s) hreg (partWrite_refused (.inr ⟨_, rowOf_prtTiles0 part.isLt, rfl, ?_⟩))
  rw [fieldsAfter_prtTiles, Bool.eq_false_iff]
  intro hok
  have hmine : l ∈ (setR (Reg.PRT_TILES0 part.val) v s).partTiles part.val := by
    unfold State.partTiles
    exact List.mem_filter.mpr ⟨List.mem_range.mpr (by omega), by rw [if_pos hl, reg_setR_same hs.regs]; exact hbit⟩
  have htheirs : (setR (Reg.PRT_TILES0 part.val) v s).partTiles x = s.partTiles x :=
    partTiles_congr fun i hi => reg_setR_ne hs.regs _ (by unfold Reg.PRT_TILES0; omega)
  exact disjoint_of_partsOk hok (validParts_setR part hs hreg v (mem_validParts.mpr ⟨part.isLt, hq⟩)) (validParts_setR part hs hreg v (mem_validParts.mpr ⟨hx16, hx⟩))
    hne.symm hmine (htheirs.symm ▸ hmem)

/-- A share of the memory bandwidth above what another valid partition leaves is refused. -/
theorem prtBwWrite_exceeds (h1 : v.get F.PRT_BW_HBM_PCT ≤ 100) (h2 : v.get F.PRT_BW_FAB_PCT ≤ 100)
    (hsum : 100 < v.get F.PRT_BW_HBM_PCT + s.fld (Reg.PRT_BW x) F.PRT_BW_HBM_PCT) : Ignores (.prtBwWrite part v) s Reg.PRT_STATUS F.PRT_STATUS_BAD_WRITE := by
  have hreg : IsPartReg part.val (Reg.PRT_BW part.val) := .inr (.inr (.inr rfl))
  refine ignores_of_partWrite part hs (exec_prtBw part v s) hreg (partWrite_refused (.inr ⟨_, rowOf_prtBw part.isLt, reserved_prtBw h1 h2, ?_⟩))
  rw [Bool.eq_false_iff]
  intro hok
  have hle := shares_of_partsOk hok (validParts_setR part hs hreg _ (mem_validParts.mpr ⟨part.isLt, hq⟩)) (validParts_setR part hs hreg _ (mem_validParts.mpr ⟨hx16, hx⟩)) hne.symm
  rw [fld_setR_same hs.regs, fld_setR_ne hs.regs _ _ (by unfold Reg.PRT_BW; omega), (fieldsAfter_prtBw h1 h2 _ s).1] at hle
  omega

end

end

end Sys2Proof.Machine
end

section
/-! Slices, saves, placements, wakes and the registers of partitions and contexts together. -/
namespace Sys2Proof.Machine

variable {s : State} {c : Nat}

/-- A tile that no context has, or whose context is not to leave, is not saved. -/
theorem forcedSave_noEffect (p : Fin 160) (h : (s.tile p.val).preempt = false ∨ s.tileCtx p.val = none) : NoEffect (.forcedSave p) s := by
  show execForcedSave p s = _
  unfold execForcedSave
  dsimp only
  rcases h with h | h
  · cases s.tileCtx p.val with
    | none => rfl
    | some c => simp [h]
  · rw [h]

/-- Settles O54: slices, saves and placements follow the resident context and the one that is next; wakes and register writes
follow the state of their context or partition. -/
theorem timeSlicing : Obligations.TimeSlicing := by
  unfold Obligations.TimeSlicing
  intro s part v hs q ps lim ran
  refine ⟨sliceEnd_none part, fun c hc => ⟨fun h => sliceEnd_switching part hc h, fun h => ⟨saveDone_running part hc h, ?_, ?_⟩,
    fun _ ht => saveDone_busy part hc ht, fun h ht => ⟨?_, ?_⟩⟩, fun p => ⟨forcedSave_noEffect p, fun c hc hpre hsv hf hb => ⟨?_, ?_⟩⟩,
    placementDone_noEffect part, fun c hc hm hf hi hsw => ⟨?_, ?_⟩, fun c => ⟨?_, ?_, ?_, ?_, ?_, ?_, ?_, ?_, ?_, ?_, ?_⟩, ?_, ?_, ?_⟩
  · exact sliceEnd_only part hc hs h
  · exact sliceEnd_others part hc hs h
  · exact saveDone_nobody part hc hs h ht
  · exact fun x hcand hne hshare hlo hhi => saveDone_next part hc hs h ht hcand hne hshare hlo hhi
  · exact forcedSave_waits hs p hc hpre hsv hf hb
  · exact forcedSave_saves hs p hc hpre hsv hf hb
  · exact placementDone_none hs part hc hf hi hsw
  · intro l hsch hlt hpart htiles hphys hwoken hrestart hbare hpoison hparked hcount p base tm h info kept hin
    have hplace := placementDone_places hs part hc hf hi hsw hsch hlt htiles rfl hphys hwoken hrestart hbare hpoison hparked hcount hin
    rw [imageLines_eq, imageHeader_eq hs hbare hpoison] at hplace
    exact hplace
  · exact dbWake_inactive c
  · exact dbWake_running c hs
  · exact dbWake_stopped c hs
  · exact dbWake_placed c hs
  · exact fun hsame hp => ctrlWrite_refused c hs (.inl ⟨hsame, hp⟩)
  · exact fun hrun hoff hact => ctrlWrite_refused c hs (.inr ⟨⟨hrun, hoff⟩, hact⟩)
  · intro habs hrun
    have hp : s.present c.toNat = false := by unfold State.present; rw [habs]; rfl
    have hoff : v.get F.CTX_CTRL_RUN ≠ 1 := by omega
    obtain ⟨t, e, -, h2, h3, h4, h5, -, h7⟩ := ctrlWrite_unschedulable c hs (fun h => absurd (hp.symm.trans h) (by decide))
      (fun h => absurd h hoff) (fun h => absurd h hoff)
    exact ⟨t, e, h2, h3, h4.trans habs, h5, h7⟩
  · intro hact hsame hrun
    have hoff : v.get F.CTX_CTRL_RUN ≠ 1 := by omega
    obtain ⟨t, e, h1, -, -, h4, -, h6, h7⟩ := ctrlWrite_unschedulable c hs (fun _ => hsame) (fun _ => hact) (fun h => absurd h hoff)
    exact ⟨t, e, by rw [State.on, h1, hrun]; rfl, h6, h4.trans hact, h7⟩
  · intro hact hsame hrun hhalt
    obtain ⟨t, e, h1, -, -, -, -, h6, h7⟩ := ctrlWrite_unschedulable c hs (fun _ => hsame) (fun _ => hact) (fun _ => hhalt)
    exact ⟨t, e, by rw [State.on, h1, hrun]; rfl, h6, h7⟩
  · exact fun hp => ⟨ctxWrite_locked c hs _ (.inl rfl) hp, ctxWrite_locked c hs _ (.inr rfl) hp⟩
  · exact ctxWrite_host c hs
  · exact partWrites_used part hs
  · intro hused hok hnot
    obtain ⟨h0, h1, h2⟩ := prtTilesWrite_taken part hs hused hok hnot
    exact ⟨h0, h1, h2, prtBwWrite_taken part hs hused hok hnot⟩
  · exact fun x hq hx16 hne hx => ⟨fun l hl hbit hmem => prtTilesWrite_overlap part hs hq hx16 hne hx hl hbit hmem,
      prtBwWrite_exceeds part hs hq hx16 hne hx⟩

end Sys2Proof.Machine
end
